-- ==== Sys2Proof/Word.lean ====
section
/-! DEFINITION. The word types of the BX1 and the plain keyed maps that its state is made of. -/

namespace Sys2Proof

/-- A byte of any storage (R4: little-endian everywhere). -/
abbrev Byte := BitVec 8
/-- A 32-bit register, instruction word or register window word. -/
abbrev Word := BitVec 32
/-- A 64-bit register pair, time or address. -/
abbrev DWord := BitVec 64
/-- R108: a tenant label is a 16-bit set, bit i standing for slot i. -/
abbrev Label := BitVec 16
/-- R164: an operand code, 8 bits. -/
abbrev Code := BitVec 8

/-- The public label (R108). -/
def Label.empty : Label := 0

/-- R108, R113: set inclusion of labels. -/
def Label.sub (a b : Label) : Bool := a &&& ~~~b == 0

/-- A keyed map held as plain data: the first pair with a key is its value. -/
abbrev Map (κ α : Type) := List (κ × α)

/-- The value of a key, `none` where the map holds none. -/
def mget? {κ α : Type} [DecidableEq κ] : Map κ α → κ → Option α
  | [], _ => none
  | (k', v) :: m, k => if k' = k then some v else mget? m k

/-- The value of a key, `d` where the map holds none. -/
def mget {κ α : Type} [DecidableEq κ] (d : α) (m : Map κ α) (k : κ) : α := (mget? m k).getD d

/-- Remove every pair of a key. -/
def mdel {κ α : Type} [DecidableEq κ] : Map κ α → κ → Map κ α
  | [], _ => []
  | (k', v) :: m, k => if k' = k then mdel m k else (k', v) :: mdel m k

/-- Give a key a value, replacing any earlier one in its place so that the order of keys stands. -/
def mset {κ α : Type} [DecidableEq κ] : Map κ α → κ → α → Map κ α
  | [], k, v => [(k, v)]
  | (k', v') :: m, k, v => if k' = k then (k, v) :: mdel m k else (k', v') :: mset m k v

/-- Change the value of a key, starting from `d` where the map holds none. -/
def mupd {κ α : Type} [DecidableEq κ] (d : α) (m : Map κ α) (k : κ) (f : α → α) : Map κ α :=
  mset m k (f (mget d m k))

/-- Keep the pairs whose key satisfies a test. -/
def mkeep {κ α : Type} (m : Map κ α) (p : κ → Bool) : Map κ α := m.filter fun kv => p kv.1

end Sys2Proof
end

