-- ==== Sys2Proof/Config.lean ====
section
/-! DEFINITION. What one implementation fixes, and the free values: opaque constants without a body, so
that nothing can be proved about which value they hold. -/

namespace Sys2Proof.Config

/-- R8: the value of the k-th undefined word that the machine reads. Applied to the counter `free` of
the state, it gives a fresh value each time; nothing constrains it (assumption 2). -/
opaque freeWord : Nat → BitVec 32

/-- R390: the signature bits of the module's attestation key over a report. The key is made in the SEP
at manufacture and the spec gives no bits of it (assumption 11). -/
opaque attestSignature : List (BitVec 8) → List (BitVec 8)

/-- R390, Table 21.2: the module's certificate chain (assumption 11). -/
opaque certificateChain : List (BitVec 8)

/-- R387: the fused Azivo root key, a P-384 public key as a point (assumption 11). -/
opaque rootKey : Nat × Nat

/-- R387, R389: the spec gives no layout of a firmware image: which image it is (0 to 5, by its measurement register), its version,
the bytes that are hashed, and its signature (r, s) (assumption 22). -/
opaque imageKind : List (BitVec 8) → Option Nat
opaque imageVersion : List (BitVec 8) → BitVec 32
opaque imageBody : List (BitVec 8) → List (BitVec 8)
opaque imageSig : List (BitVec 8) → Nat × Nat

/-- R387, R390: the version and the SHA-384 digest of each image that the module is made with, and the version of the SEP ROM
(assumption 22). -/
opaque factoryVersion : Nat → BitVec 32
opaque factoryDigest : Nat → List (BitVec 8)
opaque romVersion : BitVec 32

/-- R128: the BASE that the home of a conversion chooses is not architected; the model takes the lowest
multiple of 64 KiB with room, displaced by this free count of further places with room (assumption 12). -/
opaque freePlace : Nat → Nat

/-- R350: does the ATS translation of a page of 4 KiB of host memory fail for a function's PASID? The host decides it (assumption 6). -/
opaque atsFails : Nat → Nat → Bool

/-- R409, R412, R413: whether the n-th survey of the machine finds that its unit fails, and whether a spare row is left for
the row; and R414: the module power in the n-th 1 ms window. The hardware decides them (assumption 2). -/
opaque surveyFails : BitVec 32 → Nat → Bool
opaque spareLeft : BitVec 32 → Nat → Bool
opaque modulePower : Nat → Nat

/-- Table 0.2, R2: enabled cores of a module whose survey has retired none. -/
def cores : Nat := 1600
/-- Table 0.2: L2 slices. -/
def slices : Nat := 512
/-- Table 0.2: fabric ports. -/
def ports : Nat := 36
/-- R366: frames 0 to 12,582,911 lie in first-tier memory. -/
def firstTierFrames : Nat := 12582912
/-- R366: frames in all. -/
def frames : Nat := 46137344
/-- R357: the peer launch slots begin at this offset of the fabric address space. -/
def pslotBase : Nat := 0x3FFFFFFFE0000

end Sys2Proof.Config
end

