-- ==== Sys2Proof/Syntax.lean ====
section
/-! DEFINITION. The instruction words of Strelmel and the further steps of the opcode table, one
constructor of `Instr` per row. Operand codes stay the 8-bit codes of Table 6.3, because the spec's
own rules (which position admits which code) are stated over them. -/

namespace Sys2Proof

/-- A short word (Table 6.7) with its literal word, which is 0 unless SRCB is 0xFF (R176). -/
structure SForm where
  stall : BitVec 2
  dst : Code
  a : Code
  b : Code
  lit : Word := 0
  deriving DecidableEq, Repr

/-- A long form under opcode 48 (Tables 6.7 and 6.8). -/
structure LForm where
  stall : BitVec 2
  dst : Code
  a : Code
  b : Code
  c : Code
  md : BitVec 10
  tok : BitVec 3
  neg : Bool
  pred : BitVec 3
  lit : Word := 0
  deriving DecidableEq, Repr

/-- A dedicated long form, opcodes 49 to 62, whose IMM replaces MOD and OP (R174). -/
structure DForm where
  stall : BitVec 2
  dst : Code
  a : Code
  b : Code
  c : Code
  imm : BitVec 16
  tok : BitVec 3
  neg : Bool
  pred : BitVec 3
  lit : Word := 0
  deriving DecidableEq, Repr

/-- A branch word with an offset: BRA and CALL (Table 6.9). -/
structure BForm where
  off : BitVec 18
  neg : Bool
  pred : BitVec 3
  stall : BitVec 2
  deriving DecidableEq, Repr

/-- A branch word with a target register: BRX and CALLX (Table 6.9). -/
structure XForm where
  tgt : Code
  neg : Bool
  pred : BitVec 3
  stall : BitVec 2
  deriving DecidableEq, Repr

/-- A branch word without target: RET and EXIT (Table 6.9). -/
structure RForm where
  neg : Bool
  pred : BitVec 3
  stall : BitVec 2
  deriving DecidableEq, Repr

/-- A queue of a context: a queue of the graph by its index, or the launch queue of a stage (R47). -/
structure QKey where
  part : Nat
  ctx : Nat
  launch : Bool
  idx : Nat
  deriving DecidableEq, Repr

/-- A launch slot: of a function's launch window (R353) or, with `peer`, of a partition's peer slots (R356). -/
structure SlotKey where
  peer : Bool
  owner : Nat
  slot : Nat
  deriving DecidableEq, Repr

/-- A host access through BAR4 or CXL.mem (R351, R352); `off` is the offset in the aperture or range. -/
structure HostAccess where
  write : Bool
  off : Nat
  len : Nat
  data : List Byte
  tag : Nat
  deriving DecidableEq, Repr

/-- A UALink request with its request extension word (Table 21.6) as it arrives at the target. -/
structure FabReq where
  tag : Nat
  sstation : Nat
  spart : Nat
  kind : Nat
  scope : Nat
  nolease : Bool
  label : Label
  rsvd : Bool
  off : Nat
  len : Nat
  data : List Byte
  aop : Nat
  wide : Bool
  uns : Bool
  cmp : DWord
  ops : List DWord
  deriving DecidableEq, Repr

/-- A UALink response with its response extension words (Table 21.7) as it arrives at the source. -/
structure FabResp where
  tag : Nat
  time : DWord
  status : Nat
  data : List Byte
  olds : List DWord
  deriving DecidableEq, Repr

/-- The header of a fabric-extension message (Table 21.9). -/
structure MsgHdr where
  tpart : Nat
  spart : Nat
  minor : Nat
  tstation : Nat
  sstation : Nat
  time : DWord
  rsvd : Bool := false
  deriving DecidableEq, Repr

/-- One entry of an EPHEM message (Table 21.10). -/
structure EphemEntry where
  queue : Nat
  pressed : Bool
  len : Nat
  park : DWord
  deriving DecidableEq, Repr

/-- A command block of a mailbox, as the issuing function wrote it (R363). -/
structure Cmd where
  fn : Nat
  part : Nat
  rsvd : Bool
  arg0 : Word
  arg1 : DWord
  arg2 : DWord
  arg3 : DWord
  deriving DecidableEq, Repr

/-- Who consumed an uncorrectable error (R408). -/
inductive Consumer where
  | team (tid : Nat)
  | copy (copy : Nat)
  | plate (load : Nat)
  | chain (core : Nat)
  | save (tid : Nat)
  | collimator (part entry : Nat)
  | gate (gate : Nat)
  | hostRead (fn tag : Nat)
  | nobody
  deriving DecidableEq, Repr

/-- One constructor per row of the opcode table. -/
inductive Instr where
  /-- Short-form NOP: no effect beyond its stall field (R207). -/
  | nop (f : SForm)
  /-- Long-form NOP (opcode 48, OP 0): no effect beyond its stall field (R207). -/
  | nopLong (f : LForm)
  /-- Short-form RECONV: issuing threads enter Wait-reconv; the scope completes, merges and pops when its last live thread arrives (R32). -/
  | reconv (f : SForm)
  /-- Long-form RECONV: acts as R32, with a reserved-bit fault for any predicate or token (R208). -/
  | reconvLong (f : LForm)
  /-- Short-form YIELD: moves each issuing path to the back of its group's path list and resets its age (R206). -/
  | yield (f : SForm)
  /-- Long-form YIELD, under an instruction predicate: yields each path in which the predicate holds for a member (R206). -/
  | yieldLong (f : LForm)
  /-- Short-form TRAP: sets TRAPNO and LINK and continues at the stage's trap handler, or faults (R204). -/
  | trap (f : SForm)
  /-- Long-form TRAP: enters the trap handler in threads whose predicate is true (R204). -/
  | trapLong (f : LForm)
  /-- Short-form REGION: sets OPEN in each thread if the team's CLEAN bit is 1 (R213). -/
  | region (f : SForm)
  /-- Long-form REGION: sets OPEN in predicated threads while CLEAN is 1 (R213). -/
  | regionLong (f : LForm)
  /-- Short-form REGEND: clears OPEN in each thread (R213). -/
  | regend (f : SForm)
  /-- Long-form REGEND: clears OPEN in predicated threads (R213). -/
  | regendLong (f : LForm)
  /-- Short-form BAR: each thread arrives at its barrier; a generation completes when every live thread of the team has arrived (R209). -/
  | bar (f : SForm)
  /-- Long-form BAR: arrival at a team barrier (R209). -/
  | barLong (f : LForm)
  /-- Short-form BARP: arrival at a counted barrier that completes when count threads have arrived (R209). -/
  | barp (f : SForm)
  /-- Long-form BARP: arrival at a counted barrier (R209). -/
  | barpLong (f : LForm)
  /-- Short-form IADD: 32-bit signed wrapping add (R191). -/
  | iadd (f : SForm)
  /-- Long-form IADD with width, signedness and saturation modifiers (R191). -/
  | iaddLong (f : LForm)
  /-- Short-form ISUB: 32-bit signed wrapping subtract (R191). -/
  | isub (f : SForm)
  /-- Long-form ISUB with modifiers (R191). -/
  | isubLong (f : LForm)
  /-- Short-form IMUL: low 32 bits of a product (R191). -/
  | imul (f : SForm)
  /-- Long-form IMUL with modifiers (R191). -/
  | imulLong (f : LForm)
  /-- Short-form IMULH: high half of a product (R191). -/
  | imulh (f : SForm)
  /-- Long-form IMULH with modifiers (R191). -/
  | imulhLong (f : LForm)
  /-- Integer multiply-add x × y + z, long form only (R191). -/
  | imad (f : LForm)
  /-- Widening multiply-add into a 64-bit pair, long form only (R191). -/
  | imadw (f : LForm)
  /-- Short-form IABS: absolute value (R191). -/
  | iabs (f : SForm)
  /-- Long-form IABS with modifiers (R191). -/
  | iabsLong (f : LForm)
  /-- Short-form IMIN: smaller of two elements (R191). -/
  | imin (f : SForm)
  /-- Long-form IMIN with modifiers (R191). -/
  | iminLong (f : LForm)
  /-- Short-form IMAX: larger of two elements (R191). -/
  | imax (f : SForm)
  /-- Long-form IMAX with modifiers (R191). -/
  | imaxLong (f : LForm)
  /-- Short-form ICMP: equality comparison into a predicate or mask register (R192). -/
  | icmp (f : SForm)
  /-- Long-form ICMP with a condition, width and signedness (R192). -/
  | icmpLong (f : LForm)
  /-- Selects a or b by a predicate in source C, long form only (R193). -/
  | isel (f : LForm)
  /-- Short-form bitwise AND (R191). -/
  | andI (f : SForm)
  /-- Long-form AND, optionally inverting b (R191). -/
  | andLong (f : LForm)
  /-- Short-form bitwise OR (R191). -/
  | orI (f : SForm)
  /-- Long-form OR, optionally inverting b (R191). -/
  | orLong (f : LForm)
  /-- Short-form bitwise XOR (R191). -/
  | xorI (f : SForm)
  /-- Long-form XOR, optionally inverting b (R191). -/
  | xorLong (f : LForm)
  /-- Three-input bitwise function by an 8-bit truth table, long form only (R194). -/
  | lop3 (f : LForm)
  /-- Short-form logical shift left (R195). -/
  | shl (f : SForm)
  /-- Long-form SHL with width modifiers (R195). -/
  | shlLong (f : LForm)
  /-- Short-form logical shift right (R195). -/
  | shr (f : SForm)
  /-- Long-form SHR with width modifiers (R195). -/
  | shrLong (f : LForm)
  /-- Short-form arithmetic shift right (R195). -/
  | sar (f : SForm)
  /-- Long-form SAR with width modifiers (R195). -/
  | sarLong (f : LForm)
  /-- Short-form rotate left (R195). -/
  | rot (f : SForm)
  /-- Long-form rotate, left or right (R195). -/
  | rotLong (f : LForm)
  /-- Funnel shift of a 64-bit concatenation, long form only (R195). -/
  | funnel (f : LForm)
  /-- Short-form population count (R191). -/
  | popc (f : SForm)
  /-- Long-form POPC with width modifiers (R191). -/
  | popcLong (f : LForm)
  /-- Short-form count of leading zeros (R191). -/
  | clz (f : SForm)
  /-- Long-form CLZ with width modifiers (R191). -/
  | clzLong (f : LForm)
  /-- Short-form bit reversal (R191). -/
  | brev (f : SForm)
  /-- Long-form BREV with width modifiers (R191). -/
  | brevLong (f : LForm)
  /-- Short-form bit-field extract, sign-extended (R196). -/
  | bfx (f : SForm)
  /-- Long-form BFX with width and extension modifiers (R196). -/
  | bfxLong (f : LForm)
  /-- Bit-field insert, long form only (R196). -/
  | bfi (f : LForm)
  /-- Short-form MOV: copies source B, possibly a literal (R191). -/
  | mov (f : SForm)
  /-- Long-form MOV with width modifier and predicate (R191). -/
  | movLong (f : LForm)
  /-- Short-form LEA: 64-bit address a plus sign-extended b (R197). -/
  | lea (f : SForm)
  /-- Long-form LEA with shift and extension modifiers (R197). -/
  | leaLong (f : LForm)
  /-- Three-predicate logic by a lookup table, long form only (R199). -/
  | plop (f : LForm)
  /-- Short-form PSET: predicate := (a and b) not zero (R198). -/
  | pset (f : SForm)
  /-- Long-form PSET, optionally inverted (R198). -/
  | psetLong (f : LForm)
  /-- Short-form RDSR: reads a numbered system register (R215). -/
  | rdsr (f : SForm)
  /-- Long-form RDSR under a predicate (R215). -/
  | rdsrLong (f : LForm)
  /-- Short-form WRSR: writes a numbered system register such as LPART, TEAMCTL, CKMODE, FSTAT, SEED or LINK (R215). -/
  | wrsr (f : SForm)
  /-- Long-form WRSR under a predicate (R215). -/
  | wrsrLong (f : LForm)
  /-- Dedicated long opcode 49: writes a zero-extended 16-bit immediate (R200). -/
  | lil (f : DForm)
  /-- Dedicated long opcode 50: replaces the upper 16 bits of a register (R200). -/
  | lih (f : DForm)
  /-- Dedicated long opcode 51: branches to the JROLE table entry of the group's ROLEID (R205). -/
  | jrole (f : DForm)
  /-- Relative branch under a predicate, splitting paths whose threads diverge (R201). -/
  | bra (f : BForm)
  /-- Indirect branch to the address in a register (R201). -/
  | brx (f : XForm)
  /-- Relative call that writes LINK (R201). -/
  | call (f : BForm)
  /-- Indirect call through a register that writes LINK (R201). -/
  | callx (f : XForm)
  /-- Returns to LINK, popping the inline return stack when its top matches (R201). -/
  | ret (f : RForm)
  /-- Ends each predicated thread, which leaves every scope, tile and barrier at once (R203). -/
  | exit (f : RForm)
  /-- Short-form f32 add, rounded to nearest even (R221). -/
  | fadd (f : SForm)
  /-- Long-form FADD with type, rounding and FTZ modifiers (R221). -/
  | faddLong (f : LForm)
  /-- Short-form f32 subtract (R221). -/
  | fsub (f : SForm)
  /-- Long-form FSUB with modifiers (R221). -/
  | fsubLong (f : LForm)
  /-- Short-form f32 multiply (R221). -/
  | fmul (f : SForm)
  /-- Long-form FMUL with modifiers (R221). -/
  | fmulLong (f : LForm)
  /-- Fused multiply-add rounded once, long form only (R221). -/
  | ffma (f : LForm)
  /-- Short-form f32 minimum (R224). -/
  | fmin (f : SForm)
  /-- Long-form FMIN with type, FTZ and NUM modifiers (R224). -/
  | fminLong (f : LForm)
  /-- Short-form f32 maximum (R224). -/
  | fmax (f : SForm)
  /-- Long-form FMAX with modifiers (R224). -/
  | fmaxLong (f : LForm)
  /-- Short-form f32 equality comparison (R225). -/
  | fcmp (f : SForm)
  /-- Long-form FCMP with a condition and type (R225). -/
  | fcmpLong (f : LForm)
  /-- Short-form FCLASS: class mask of each f32 element, or a predicate test against a mask (R226). -/
  | fclass (f : SForm)
  /-- Long-form FCLASS with a type (R226). -/
  | fclassLong (f : LForm)
  /-- Short-form FRND: round f32 to integral, nearest even (R227). -/
  | frnd (f : SForm)
  /-- Long-form FRND with type, direction and FTZ (R227). -/
  | frndLong (f : LForm)
  /-- Two-element 16-bit dot product added to f32, rounded once; long only (R228). -/
  | fdot2 (f : LForm)
  /-- Four-element 8-bit dot product added to f32, rounded once; long only (R228). -/
  | fdot4 (f : LForm)
  /-- Short-form FSCALE: x × 2^n (R221). -/
  | fscale (f : SForm)
  /-- Long-form FSCALE with modifiers (R221). -/
  | fscaleLong (f : LForm)
  /-- Short-form PACK of two 16-bit elements (R232). -/
  | pack (f : SForm)
  /-- Long-form PACK of 16-, 8- or 4-bit elements (R232). -/
  | packLong (f : LForm)
  /-- Short-form UNPK of a 16-bit element, zero-extended (R232). -/
  | unpk (f : SForm)
  /-- Long-form UNPK with size and sign extension (R232). -/
  | unpkLong (f : LForm)
  /-- Dedicated long opcode 49 of class 1: format conversion with optional block scale, one rounding (R231). -/
  | cvt (f : DForm)
  /-- Dedicated long opcode 50: block quantisation over 16 lanes with a shared E8M0 scale (R235). -/
  | qblk (f : DForm)
  /-- Correctly rounded reciprocal (R229). -/
  | frcp (f : LForm)
  /-- Correctly rounded reciprocal square root (R229). -/
  | frsq (f : LForm)
  /-- Correctly rounded square root (R229). -/
  | fsqrt (f : LForm)
  /-- Correctly rounded 2^x (R229). -/
  | fexp2 (f : LForm)
  /-- Correctly rounded log2 x (R229). -/
  | flog2 (f : LForm)
  /-- Correctly rounded sine (R229). -/
  | fsin (f : LForm)
  /-- Correctly rounded cosine (R229). -/
  | fcos (f : LForm)
  /-- Correctly rounded tanh (R229). -/
  | ftanh (f : LForm)
  /-- Correctly rounded logistic sigmoid (R229). -/
  | fsigm (f : LForm)
  /-- Global load through L1 with a lease, or at the coherence point with .cp (R243). -/
  | ld (f : LForm)
  /-- Short-form global store of 32 bits, written through to the coherence point (R245). -/
  | st (f : SForm)
  /-- Long-form global store with size and offset (R245). -/
  | stLong (f : LForm)
  /-- Scratchpad load, parking lanes that read absent lines (R243). -/
  | lds (f : LForm)
  /-- Short-form scratchpad store, performing at issue (R245). -/
  | sts (f : SForm)
  /-- Long-form scratchpad store with size and offset (R245). -/
  | stsLong (f : LForm)
  /-- Load from the stage's constant bank (R243). -/
  | ldc (f : LForm)
  /-- Global atomic returning the old value, at team L1 or the coherence point by scope (R248). -/
  | atom (f : LForm)
  /-- Scratchpad atomic returning the old value (R248). -/
  | atoms (f : LForm)
  /-- Global compare-and-swap (R248). -/
  | cas (f : LForm)
  /-- Scratchpad compare-and-swap (R248). -/
  | cass (f : LForm)
  /-- Short-form reduction: signed 32-bit add of device scope, no result (R248). -/
  | red (f : SForm)
  /-- Long-form reduction with operation, scope and type (R248). -/
  | redLong (f : LForm)
  /-- Short-form acquire-release fence of device scope (R251). -/
  | fence (f : SForm)
  /-- Long-form fence of chosen kind and scope (R251). -/
  | fenceLong (f : LForm)
  /-- Short-form LEASE: drops and refetches named lines with a new lease (R252). -/
  | lease (f : SForm)
  /-- Long-form LEASE with offset and predicate (R252). -/
  | leaseLong (f : LForm)
  /-- Short-form PREF: starts a fetch into L1 without visible effect (R253). -/
  | pref (f : SForm)
  /-- Long-form PREF, optionally to L2 only (R253). -/
  | prefLong (f : LForm)
  /-- Reads a scratchpad line's presence bit and pending count without parking (R254). -/
  | pres (f : LForm)
  /-- Collective vote any, all, uni or ballot over a tile or mask (R258). -/
  | vote (f : LForm)
  /-- Collective shuffle of values within a tile or mask (R259). -/
  | shfl (f : LForm)
  /-- Collective reduction over a tile or mask with the fixed tree (R260). -/
  | redt (f : LForm)
  /-- Collective inclusive or exclusive scan (R260). -/
  | scant (f : LForm)
  /-- Collective mask of members holding an equal key (R261). -/
  | matchI (f : LForm)
  /-- Collective election of the lowest active member (R261). -/
  | elect (f : LForm)
  /-- Collective mask of the set's active members (R261). -/
  | actmask (f : LForm)
  /-- Short-form tile barrier over the LPART tile: team-scope release and acquire (R262). -/
  | tbar (f : SForm)
  /-- Long-form tile barrier, optionally over a mask (R262). -/
  | tbarLong (f : LForm)
  /-- Short-form COPY: the Streamer accepts a copy request and marks target lines pending (R268). -/
  | copy (f : SForm)
  /-- Long-form COPY under a predicate or token (R268). -/
  | copyLong (f : LForm)
  /-- Short-form COPYM: a copy into the scratchpads of several teams of the run (R270). -/
  | copym (f : SForm)
  /-- Long-form COPYM (R270). -/
  | copymLong (f : LForm)
  /-- Short-form SEAL: closes the thread's current batch (R272). -/
  | seal (f : SForm)
  /-- Long-form SEAL (R272). -/
  | sealLong (f : LForm)
  /-- Short-form WAITB: seals and holds until at most n batches are unfinished (R272). -/
  | waitb (f : SForm)
  /-- Long-form WAITB (R272). -/
  | waitbLong (f : LForm)
  /-- Reserves OSB units and returns a handle, or parks (R274). -/
  | osbres (f : LForm)
  /-- Short-form OSBREL: invalidates an OSB handle (R275). -/
  | osbrel (f : SForm)
  /-- Long-form OSBREL (R275). -/
  | osbrelLong (f : LForm)
  /-- Short-form PLLOAD: loads a B tile into a plate (R277). -/
  | plload (f : SForm)
  /-- Long-form PLLOAD (R277). -/
  | plloadLong (f : LForm)
  /-- Short-form PLFREE: unloads plates named by a mask (R278). -/
  | plfree (f : SForm)
  /-- Long-form PLFREE (R278). -/
  | plfreeLong (f : LForm)
  /-- Short-form MXFENCE: holds until earlier OSB copies and VTWRs have performed (R285). -/
  | mxfence (f : SForm)
  /-- Long-form MXFENCE (R285). -/
  | mxfenceLong (f : LForm)
  /-- Checks a parameter block and hands one matrix issue to the core's matrix unit (R283). -/
  | mxissue (f : LForm)
  /-- Short-form MXWAIT: holds until the team's accepted issues naming a slot complete (R285). -/
  | mxwait (f : SForm)
  /-- Long-form MXWAIT (R285). -/
  | mxwaitLong (f : LForm)
  /-- Short-form VREL: invalidates a Vat handle (R286). -/
  | vrel (f : SForm)
  /-- Long-form VREL (R286). -/
  | vrelLong (f : LForm)
  /-- Reads 1, 2 or 4 FP32 elements of a Vat slot (R286). -/
  | vtrd (f : LForm)
  /-- Short-form VTWR: writes one FP32 element of a Vat slot (R286). -/
  | vtwr (f : SForm)
  /-- Long-form VTWR of 1, 2 or 4 elements (R286). -/
  | vtwrLong (f : LForm)
  /-- Short-form CHAIN: the Churn accepts an element-wise chain record (R289). -/
  | chain (f : SForm)
  /-- Long-form CHAIN (R289). -/
  | chainLong (f : LForm)
  /-- Short-form CHWAIT: holds until every chain of the thread has completed (R291). -/
  | chwait (f : SForm)
  /-- Long-form CHWAIT (R291). -/
  | chwaitLong (f : LForm)
  /-- Short-form ENQ: enqueues register records through ch0 (R295). -/
  | enq (f : SForm)
  /-- Long-form ENQ through any channel, from registers or scratchpad (R295). -/
  | enqLong (f : LForm)
  /-- Short-form ENQI: enqueues, or inlines the consumer when the queue is full (R296). -/
  | enqi (f : SForm)
  /-- Long-form ENQI (R296). -/
  | enqiLong (f : LForm)
  /-- Takes further records from the input queue for undealt threads (R297). -/
  | deqmore (f : LForm)
  /-- Reads a queue's length from the core's Ephemeris view (R298). -/
  | qlen (f : LForm)
  /-- Short-form DECDEP: decrements a task counter, releasing the task at zero (R300). -/
  | decdep (f : SForm)
  /-- Long-form DECDEP through any channel (R300). -/
  | decdepLong (f : LForm)
  /-- Short-form LAUNCH: copies a launch record into a pending-launch entry, or parks (R302). -/
  | launch (f : SForm)
  /-- Long-form LAUNCH through any channel (R302). -/
  | launchLong (f : LForm)
  /-- Short-form ARCINIT: writes COUNT 0 and GOAL of an arrival counter (R304). -/
  | arcinit (f : SForm)
  /-- Long-form ARCINIT (R304). -/
  | arcinitLong (f : LForm)
  /-- Short-form ARCADD: release fence, then an atomic credit (R304). -/
  | arcadd (f : SForm)
  /-- Long-form ARCADD (R304). -/
  | arcaddLong (f : LForm)
  /-- Short-form ARCWAIT: parks until COUNT reaches GOAL, then acquires (R305). -/
  | arcwait (f : SForm)
  /-- Long-form plain ARCWAIT (R305). -/
  | arcwaitLong (f : LForm)
  /-- ARCWAIT with SWAP: when every live thread waits so, the team is saved and its slot freed (R306). -/
  | arcwaitSwap (f : LForm)
  /-- Short-form PLDEM: demands a placement state, parking while a conversion runs (R307). -/
  | pldem (f : SForm)
  /-- Long-form PLDEM (R307). -/
  | pldemLong (f : LForm)
  /-- Reads one word of the local placement entry (R307). -/
  | plstate (f : LForm)
  /-- Short-form GATE: releases a buffer through the Release Gate under a signed policy (R120). -/
  | gate (f : SForm)
  /-- Long-form GATE (R308). -/
  | gateLong (f : LForm)
  /-- Reads a label selected by WHAT (R309). -/
  | lblrd (f : LForm)
  /-- Short-form GIVE: moves the group's highest register rows to the free-row pool (R22). -/
  | give (f : SForm)
  /-- Long-form GIVE (R310). -/
  | giveLong (f : LForm)
  /-- Short-form CLAIM: takes rows from the free-row pool, or parks (R22). -/
  | claim (f : SForm)
  /-- Long-form CLAIM (R310). -/
  | claimLong (f : LForm)
  /-- Release fence, then passes a service request to the Parlour and parks for its reply (R311). -/
  | syscall (f : LForm)
  /-- Each cycle a quadrant issues the next instruction of an open issue group, or forms a new one (R26). -/
  | quadrantIssueCycle (core quad : Nat)
  /-- A host access through a BAR4 aperture reaches partition memory or is refused (R352). -/
  | bar4Access (fn : Nat) (a : HostAccess)
  /-- A host CXL.mem access to device memory is label-tested and served or refused (R351). -/
  | cxlMemAccess (fn : Nat) (a : HostAccess)
  /-- Sets a partition's CORELIM grant on one core (R364). -/
  | setcore (c : Cmd)
  /-- Sets a partition's memory-channel ownership (R365). -/
  | setmem (c : Cmd)
  /-- Sets a partition's L2 slice ownership (R365). -/
  | setslices (c : Cmd)
  /-- Takes Free frames to Owned with a label (R367). -/
  | mapframes (c : Cmd)
  /-- Takes Owned frames to Scrubbing, dropping copies and pins (R368). -/
  | relframes (c : Cmd)
  /-- Installs a partition's second-stage translation root (R370). -/
  | sets2 (c : Cmd)
  /-- Installs or removes a context's first-stage root (R361). -/
  | setctx (c : Cmd)
  /-- Invalidates TLB entries for a range and waits for accesses using them (R373). -/
  | inval (c : Cmd)
  /-- Terminates a context's queued, saved and resident work and its conversions (R375). -/
  | killctx (c : Cmd)
  /-- Writes a message filter table entry (R376). -/
  | setfilter (c : Cmd)
  /-- Sets a partition's Orrery controls (R378). -/
  | setorr (c : Cmd)
  /-- Pre-empts the partition's teams on a core or every core (R379). -/
  | evict (c : Cmd)
  /-- Sets where state images are written (R383). -/
  | savearea (c : Cmd)
  /-- Installs a fabric MMU window (R374). -/
  | fabwin (c : Cmd)
  /-- Writes a signed attestation report over the measurements and a nonce (R390). -/
  | getreport (c : Cmd)
  /-- Writes the module's certificate chain (R390). -/
  | getcert (c : Cmd)
  /-- Verifies and stores a firmware image for the next start (R389). -/
  | fwstage (c : Cmd)
  /-- Binds a label slot to a principal's public key (R391). -/
  | bindslot (c : Cmd)
  /-- Unbinds a label slot that labels nothing (R391). -/
  | unbindslot (c : Cmd)
  /-- Gives a function the principal of a bound slot or none (R392). -/
  | bindfn (c : Cmd)
  /-- Sets a partition's slot grant mask (R392). -/
  | setgrant (c : Cmd)
  /-- Verifies every signature and installs a release policy (R393). -/
  | polinstall (c : Cmd)
  /-- Removes a release policy (R394). -/
  | polrevoke (c : Cmd)
  /-- Writes a policy's header and remaining budget (R393). -/
  | polread (c : Cmd)
  /-- Sets the placement table size, window and pool (R395). -/
  | plpool (c : Cmd)
  /-- Defines a mesh, committed at every station or none (R396). -/
  | meshdef (c : Cmd)
  /-- Installs a placement entry at every mesh station or none (R397). -/
  | plinstall (c : Cmd)
  /-- Removes a placement entry and scrubs its shards (R397). -/
  | plremove (c : Cmd)
  /-- Sets a partition's forwarding ports, period and phase (R398). -/
  | fwdcfg (c : Cmd)
  /-- Sets a partition's minimum receive slots on a port (R401). -/
  | portres (c : Cmd)
  /-- Sets the module's station id (R399). -/
  | stationid (c : Cmd)
  /-- Brings named fabric ports through training, HELLO and clock synchronisation (R399). -/
  | linkup (c : Cmd)
  /-- Writes the 36 port status words (R400). -/
  | portquery (c : Cmd)
  /-- Writes the telemetry record (R414). -/
  | telemetry (c : Cmd)
  /-- Writes error-log entries from a given sequence number (R411). -/
  | errlog (c : Cmd)
  /-- Sets power cap, migration threshold and minimum residency (R418). -/
  | settherm (c : Cmd)
  /-- Writes the extension log of MEAS6 and MEAS7 (R424). -/
  | measlog (c : Cmd)
  /-- Surveys a named unit now (R407). -/
  | survey (c : Cmd)
  /-- A Runnable path's age reaches the fairness timer F and it is promoted to the front (R42). -/
  | agePromotion (pid : Nat)
  /-- A TEAMCTL write that enables progress or lowers FAIRX promotes old paths next cycle (R315). -/
  | teamctlPromotion (tid : Nat)
  /-- A free team slot of a partition is given to the eligible stage of greatest differential, or a pressed stage (R59). -/
  | slotDecision (part core : Nat)
  /-- BATCHWAIT elapses since the oldest record's position, allowing a partial batch (R62). -/
  | batchwaitExpiry (q : QKey)
  /-- A team with no live thread retires in order, crediting its arrival counter and freeing its slot (R71). -/
  | teamRetirement (tid : Nat)
  /-- A run's completion report is issued once its teams retired and fabric stores are acknowledged (R71). -/
  | stageRunCompletionReport (run : Nat)
  /-- A read of up to 16 Cellar records returns and they join the ring tail (R428). -/
  | cellarRefillStep (q : QKey)
  /-- The Ephemeris network publishes queue lengths to units on the station at the update period (R57). -/
  | ephemerisPublish
  /-- At each FWDPER instant an enabled port chooses a distributed queue and dequeues a burst (R318). -/
  | forwardingDecision (part port : Nat)
  /-- A launch queue accepts a pending-launch record, freeing the entry for parked lanes (R316). -/
  | launchRecordAccept (q : QKey)
  /-- At the deadline the originator counts acknowledgements and aborts the gang if any is missing (R73). -/
  | gangDeadline (gang : Nat)
  /-- An access arrives at its line's coherence point, grants a lease or performs and returns a GWCT (R89). -/
  | coherencePointAccess (req : Nat)
  /-- Load data or a GWCT returns to the issuing core, writing the destination or joining WCT (R90). -/
  | memoryResponse (req : Nat)
  /-- An L1 line's lease expires and the line leaves the L1 (R88). -/
  | leaseExpiry (core : Nat) (line : Nat)
  /-- A refused access to a pinned line is retried after its backoff interval (R100). -/
  | pinnedRetry (req : Nat)
  /-- An access unserved 1 ms after its first refusal ends in a pinned-line timeout (R100). -/
  | pinnedLineTimeout (req : Nat)
  /-- A copy's words perform at their target, updating labels, pending counts and presence (R84). -/
  | streamerWritePerform (copy : Nat)
  /-- A plate's tile has been read and the plate is loaded (R277). -/
  | plateLoadComplete (load : Nat)
  /-- A matrix issue finishes exposure and drain and its sums enter the Vat slot (R328). -/
  | mxissueComplete (core : Nat)
  /-- The Churn reads, computes and writes the next elements of the current chain (R289). -/
  | chainElementStep (core : Nat)
  /-- Every byte of a gate transfer is acknowledged and the parked GATE resumes (R120). -/
  | gateTransferAck (gate : Nat)
  /-- The Parlour replies to a service call and the path resumes with its status (R311). -/
  | syscallReply (call : Nat)
  /-- No reply within 1 ms gives status 0xFFFFFFFF (R311). -/
  | syscallTimeout (call : Nat)
  /-- Once open clauses finish, a team is saved into its state image and its slot freed (R40). -/
  | teamSave (tid : Nat)
  /-- A drained team not retired by its deadline is re-decided without drain (R380). -/
  | drainDeadlineExpiry (tid : Nat)
  /-- A host write of NOTIFY starts a launch from a slot once its seal matches (R355). -/
  | notifyWrite (fn bytes : Nat) (val : DWord)
  /-- A write to a busy launch slot makes the device re-read its SEAL (R355). -/
  | launchSlotWrite (fn slot off : Nat) (data : List Byte)
  /-- No matching seal within 10 µs frees the slot with a seal-mismatch report (R355). -/
  | sealWaitTimeout (k : SlotKey)
  /-- Writing 1 to LERR bit 63 clears the launch error flag (R355). -/
  | lerrClear (fn : Nat) (val : DWord)
  /-- The driver writes its version range and the device selects HIFSEL (R360). -/
  | hifdrvWrite (fn : Nat) (val : Word)
  /-- A write of the aperture base is stored rounded down to the BAR4 size (R352). -/
  | apbaseWrite (fn : Nat) (val : DWord)
  /-- A write of the lease length is clamped to 64 to 4,000 ns for later grants (R87). -/
  | leasecfgWrite (fn : Nat) (val : Word)
  /-- The PF sets a VF's BAR4 size, reduced to the partition's grant (R352). -/
  | vfctlWrite (vf : Nat) (val : DWord)
  /-- Writing 0 to FQLOST clears the lost-report count (R384). -/
  | fqlostClear (fn : Nat) (val : Word)
  /-- A write to a register with no behaviour of its own stores its writable fields (R5). -/
  | registerWrite (fn off bytes : Nat) (val : DWord)
  /-- FQRES with ACT 0 reissues the lanes parked on a resolvable fault (R371). -/
  | fqresReissue (fn : Nat) (token : Word)
  /-- FQRES with ACT 1 terminates the team with code 0x17 detail 2 (R371). -/
  | fqresTerminate (fn : Nat) (token : Word)
  /-- FQRES with ACT 2 from the PF terminates the team and reflects the fault to the guest (R371). -/
  | fqresReflect (fn : Nat) (token : Word)
  /-- A resolvable report unsettled within FTMO terminates the team (R371). -/
  | faultResolutionTimeout (token : Word)
  /-- After the 4,000 ns lease wait the frames are zeroed and set Free (R368). -/
  | frameScrubComplete (scrub : Nat)
  /-- A module reset starts the boot stages, or minimal mode after three failed starts (R387). -/
  | bootStart
  /-- A boot stage exceeding its bound fails the start (R388). -/
  | bootStageTimeout (reason : Nat)
  /-- A function-level reset of a VF discards its partition's work and scrubs its frames (R359). -/
  | vfFlr (vf : Nat)
  /-- Clearing VF Enable resets every VF (R359). -/
  | vfEnableClear
  /-- A UALink read, write or atomic with its extension word arrives at the target station (R402). -/
  | fabricRequest (r : FabReq)
  /-- A response with its status arrives at the source and is acted on (R403). -/
  | fabricResponse (r : FabResp)
  /-- Receipt of a partner's station id and version range during link-up (R399). -/
  | hello (h : MsgHdr) (port : Nat) (station : Nat) (range : Word)
  /-- Receipt of a transit-clock synchronisation message (R404). -/
  | clock (h : MsgHdr) (port : Nat) (prev : DWord)
  /-- Receipt of a peer launch notify for a peer launch slot (R356). -/
  | notifyMsg (h : MsgHdr) (seq : Word) (slot : Nat)
  /-- Receipt of a refusal of a notify or remote enqueue (R404). -/
  | refuse (h : MsgHdr) (cause : Nat) (ref : Word)
  /-- Receipt of remote-enqueue or forwarded-burst records, tested and given positions (R406). -/
  | renq (h : MsgHdr) (req : Word) (queue : Nat) (fwd : Bool) (rsz : Nat) (recs : List (Label × List Byte))
  /-- Receipt of confirmation that remote records hold positions (R406). -/
  | renqack (h : MsgHdr) (req : Word) (status : Nat)
  /-- Receipt of another station's published lengths into the view (R406). -/
  | ephem (h : MsgHdr) (es : List EphemEntry)
  /-- Receipt of a gang acknowledgement at the originator (R358). -/
  | gack (h : MsgHdr) (gang : Word) (deadline : DWord)
  /-- Receipt of a gang abort, removing or ending the gang's work (R358). -/
  | gabort (h : MsgHdr) (gang : Word)
  /-- Receipt of a PLDEM request at the home, merged or started in order (R127). -/
  | preq (h : MsgHdr) (entry : Nat) (demand : Word) (label : Label) (core : Nat)
  /-- Receipt of conversion start: BUSY set and old shard made read-only (R128). -/
  | pstart (h : MsgHdr) (entry : Nat) (conv demand : Word) (epoch : Nat)
  /-- Receipt of the allocation BASE and label for the new shard (R128). -/
  | palloc (h : MsgHdr) (entry : Nat) (conv : Word) (base : DWord) (lnew : Label)
  /-- Receipt at the home of a station's allocation or shard status (R405). -/
  | pready (h : MsgHdr) (entry : Nat) (conv : Word) (status : Nat)
  /-- Receipt of switch: STATE, BASE and EPOCH set and the counter credited (R128). -/
  | pswitch (h : MsgHdr) (entry : Nat) (conv : Word)
  /-- Receipt of abandonment: the conversion is undone and requesters fault (R131). -/
  | pabandon (h : MsgHdr) (entry : Nat) (conv : Word) (reason : Nat)
  /-- Receipt of completion of a request needing no conversion (R405). -/
  | pdone (h : MsgHdr) (entry : Nat) (conv : Word) (epoch : Nat)
  /-- Receipt of a prepared mesh or placement command to vote on (R396): the descriptor or entry, and ARG0 (assumption 23). -/
  | cprep (h : MsgHdr) (op : Nat) (cmd : Word) (body : List Byte) (arg0 : Word)
  /-- Receipt of a station's vote on a prepared command (R396). -/
  | cvote (h : MsgHdr) (cmd : Word) (status : Nat)
  /-- Receipt of the commit decision on a prepared command (R396). -/
  | ccommit (h : MsgHdr) (cmd : Word) (commit : Bool)
  /-- Receipt of a reset notice for a peer partition (R359). -/
  | resetMsg (h : MsgHdr) (part : Nat)
  /-- Receipt of an attestation report request at the SEP (R390). -/
  | attreq (h : MsgHdr) (nonce : List Byte)
  /-- Receipt of an attestation report in reply (R390). -/
  | attresp (h : MsgHdr) (report : List Byte)
  /-- A port leaves the active state and its unacknowledged requests are reissued once (R400). -/
  | portLeavesActive (port : Nat)
  /-- A station's clock leaves ±16 ns and its ports return to state 3 (R400). -/
  | clockOutOfBound
  /-- An uncorrectable error terminates the consuming team and starts a survey (R408). -/
  | uncorrectableError (unit : Word) (who : Consumer) (addr : Nat)
  /-- More than 16 corrected errors in one second start a survey of the unit (R407). -/
  | correctedErrorThreshold (unit : Word)
  /-- A core's self-test ends and it resumes or is retired (R409). -/
  | selfTestComplete (core : Nat) (pass : Bool)
  /-- A memory row's survey ends; a failed row is spared or logged unspared (R412). -/
  | rowSurveyComplete (unit : Word) (pass spare : Bool)
  /-- An L2 slice's survey ends; a failed slice is removed and lines rehashed (R413). -/
  | sliceSurveyComplete (slice : Nat) (pass : Bool)
  /-- At the end of each 1 ms window each core die adjusts its clock (R415). -/
  | clockWindow
  /-- Once per ms the Parlour pre-empts the oldest eligible team on each hot die (R418). -/
  | migrationChoice
  /-- A die reaching its shutdown temperature resets the module (R417). -/
  | thermalShutdown (unit : Word)
  /-- At its 1 µs period a station sends its lengths to every other station as an EPHEM message (R57). -/
  | ephemerisRemotePublication
  /-- Every 1 ms each active port sends a CLOCK message to its partner (R404). -/
  | clockMessagePeriod
  /-- 1 ms after DEADLINE, the originator forgets the gang id and stations stop discarding late packets of that gang (R358). -/
  | gangIdRetentionExpiry (gang : Nat)
  /-- A boot stage finishes its work within its bound, and the next stage starts, or FAILS is cleared after stage 4 (R387). -/
  | bootStageComplete
  /-- Power to the module is lost, every volatile state is lost, and a start in progress fails with REASON 6 (R388). -/
  | powerLoss
  /-- A core die crosses TMIG and marks itself hot, which stops slot decisions, or falls 5 °C below TMIG and clears the mark (R418). -/
  | dieMarkedHot (die : Nat) (temp : Int)
  /-- A unit corrects an error, and the corrected-error counters and per-second count rise (R414). -/
  | correctedError (unit : Word)
  /-- The PF sets VF Enable, creating the virtual functions with the BAR4 sizes held in VFCTL (R352). -/
  | vfEnableSet
  deriving DecidableEq, Repr

end Sys2Proof
end

