-- ==== Sys2Proof/Machine/Forms.lean ====
section
/-! DEFINITION. Operand codes, the common view of every instruction form, and for each operation which
operand kinds, modifier values, predicates and tokens its entry admits (R164 to R177, R189, R219). -/

namespace Sys2Proof

/-- R164, Table 6.3: what an operand code names. -/
inductive Opnd where
  | v (n : Nat)
  | s (n : Nat)
  | special (n : Nat)
  | const (k : Nat)
  | pred (n : Nat)
  | lit
  | bad
  deriving DecidableEq, Repr

/-- Table 6.3 read code by code. -/
def Opnd.ofCode (c : Code) : Opnd :=
  let n := c.toNat
  if n < 0x80 then .v n
  else if n < 0xC0 then .s (n - 0x80)
  else if n < 0xCE then .special (n - 0xC0)
  else if n < 0xE0 then .bad
  else if n < 0xF0 then .const (n - 0xE0)
  else if n < 0xF8 then .pred (n - 0xF0)
  else if n < 0xFF then .bad
  else .lit

/-- The fields of any non-branch instruction form, with the fixed values of a short form (R172). -/
structure Fm where
  stall : Nat
  dst : Code
  a : Code
  b : Code
  c : Code
  md : BitVec 10
  imm : BitVec 16
  tok : Nat
  neg : Bool
  pred : Nat
  lit : Word
  len : Nat
  deriving DecidableEq, Repr

/-- R172: a short form reads as its long form with MOD 0, no predicate, no token, no source C. -/
def SForm.fm (f : SForm) : Fm :=
  ⟨f.stall.toNat, f.dst, f.a, f.b, 0xE0, 0, 0, 6, false, 7, f.lit, if f.b = 0xFF then 2 else 1⟩

/-- R173. -/
def LForm.fm (f : LForm) : Fm :=
  ⟨f.stall.toNat, f.dst, f.a, f.b, f.c, f.md, 0, f.tok.toNat, f.neg, f.pred.toNat, f.lit,
    if f.b = 0xFF then 3 else 2⟩

/-- R174. -/
def DForm.fm (f : DForm) : Fm :=
  ⟨f.stall.toNat, f.dst, f.a, f.b, f.c, 0, f.imm, f.tok.toNat, f.neg, f.pred.toNat, f.lit,
    if f.b = 0xFF then 3 else 2⟩

/-- R177: a branch word has no operand fields; its predicate and stall act as in Table 6.8. -/
def BForm.fm (f : BForm) : Fm := ⟨f.stall.toNat, 0xFF, 0xE0, 0xE0, 0xE0, 0, 0, 6, f.neg, f.pred.toNat, 0, 1⟩
/-- R177. -/
def XForm.fm (f : XForm) : Fm := ⟨f.stall.toNat, 0xFF, f.tgt, 0xE0, 0xE0, 0, 0, 6, f.neg, f.pred.toNat, 0, 1⟩
/-- R177. -/
def RForm.fm (f : RForm) : Fm := ⟨f.stall.toNat, 0xFF, 0xE0, 0xE0, 0xE0, 0, 0, 6, f.neg, f.pred.toNat, 0, 1⟩

/-- What a source position admits. The number is its width in registers (R166). -/
inductive SK where
  /-- Unused: holds 0xE0 (R175). -/
  | none
  /-- Any value: register, special or constant; in source B also a literal. -/
  | val (w : Nat)
  /-- Register or constant; in source B also a literal. -/
  | regc (w : Nat)
  /-- Register; in source B also a literal. -/
  | regl (w : Nat)
  /-- v or s register. -/
  | reg (w : Nat)
  /-- v register. -/
  | vreg (w : Nat)
  /-- Predicate. -/
  | pred
  /-- Any v, s or predicate code (LBLRD WHAT 0). -/
  | tile
  deriving DecidableEq, Repr

/-- What a destination position admits. -/
inductive DK where
  /-- Unused: holds 0xFF (R175). -/
  | none
  /-- v or s register, or discard. -/
  | any (w : Nat)
  /-- v or s register. -/
  | vs (w : Nat)
  /-- v register. -/
  | v (w : Nat)
  /-- v register or discard. -/
  | vd (w : Nat)
  /-- Predicate (m7 or 0xFF discards). -/
  | pred
  /-- Predicate, or v or s register, or discard. -/
  | predAny (w : Nat)
  /-- Predicate, or v or s register. -/
  | predVs
  /-- Predicate or v register. -/
  | predV
  deriving DecidableEq, Repr

/-- The operand kinds of one operation under given modifier bits, and whether those bits are admitted. -/
structure Spec where
  dst : DK := .none
  a : SK := .none
  b : SK := .none
  c : SK := .none
  /-- No reserved modifier bit or value (R175, R189, R219). -/
  mdOk : Bool := true
  /-- An illegal-operand condition of the entry that no single position shows. -/
  opBad : Bool := false
  /-- The instruction takes an instruction predicate. -/
  predOk : Bool := true
  /-- The instruction takes a completion token. -/
  tokOk : Bool := true
  deriving DecidableEq, Repr

/-! Fields of the integer modifier (Table 7.1). -/
def mdW (m : BitVec 10) : Nat := (m.extractLsb' 0 2).toNat
def mdU (m : BitVec 10) : Bool := m.getLsbD 2
def mdSat (m : BitVec 10) : Bool := m.getLsbD 3
def mdOpx (m : BitVec 10) : Nat := (m.extractLsb' 4 3).toNat
def mdIntRsvd (m : BitVec 10) : Bool := m.extractLsb' 7 3 == 0

/-! Fields of the floating-point modifier (Table 8.1). -/
def mdType (m : BitVec 10) : Nat := (m.extractLsb' 0 2).toNat
def mdRm (m : BitVec 10) : Nat := (m.extractLsb' 2 3).toNat
def mdFtz (m : BitVec 10) : Bool := m.getLsbD 5
def mdX4 (m : BitVec 10) : Bool := m.getLsbD 6
def mdFopx (m : BitVec 10) : Nat := (m.extractLsb' 7 3).toNat

/-! Fields of the memory modifier (Table 9.1), the atomic modifier (Table 9.3), the fence modifier
(Table 9.6), the collective modifier (Table 9.8) and the class 6 modifier (Table 11.2). -/
def mdNl (m : BitVec 10) : Bool := m.getLsbD 9
def mdSz (m : BitVec 10) : Nat := (m.extractLsb' 6 3).toNat
def mdOff (m : BitVec 10) : Int := (m.extractLsb' 0 6).toInt
def mdScope (m : BitVec 10) : Nat := (m.extractLsb' 7 3).toNat
def mdAop (m : BitVec 10) : Nat := (m.extractLsb' 3 4).toNat
def mdAW (m : BitVec 10) : Nat := (m.extractLsb' 0 2).toNat
def mdKind (m : BitVec 10) : Nat := (m.extractLsb' 5 2).toNat
def mdMsk (m : BitVec 10) : Bool := m.getLsbD 9
def mdCopx (m : BitVec 10) : Nat := (m.extractLsb' 6 3).toNat
def mdRop (m : BitVec 10) : Nat := (m.extractLsb' 3 3).toNat
def mdCty (m : BitVec 10) : Nat := (m.extractLsb' 0 3).toNat
def mdCh (m : BitVec 10) : Nat := (m.extractLsb' 6 4).toNat
def mdSp (m : BitVec 10) : Bool := m.getLsbD 5
def mdSel (m : BitVec 10) : Nat := (m.extractLsb' 0 3).toNat

/-- Registers per operand of an integer layout: a pair for 64-bit elements (Table 7.1). -/
def intRegs (w : Nat) : Nat := if w = 1 then 2 else 1

/-- Registers per floating-point position (R220): a pair for f32x2, and for X4 with TYPE 2 or 3 (Table 8.1). -/
def fpRegs (m : BitVec 10) : Nat := if mdType m = 1 || (mdX4 m && 2 ≤ mdType m) then 2 else 1

/-- Registers per position of an operation that X4 does not admit (Table 8.1). -/
def fpRegs1 (m : BitVec 10) : Nat := if mdType m = 1 then 2 else 1

/-- R189, Table 7.3: an integer modifier with the given greatest W, free U, SAT and OPX test. -/
def intMd (m : BitVec 10) (maxW : Nat) (u sat : Bool) (opx : Nat → Bool) : Bool :=
  mdIntRsvd m && mdW m ≤ maxW && (u || !mdU m) && (sat || !mdSat m) && opx (mdOpx m)

def opx0 (n : Nat) : Bool := n == 0
/-- OPX whose bit [4] is the variant and whose bits [6:5] are 0 (Table 7.3). -/
def opx1 (n : Nat) : Bool := n < 2

/-- R219: a floating-point modifier; `rm` tests RM, `x4` whether X4 is admitted, `opx` tests OPX. -/
def fpMd (m : BitVec 10) (rm : Nat → Bool) (ftz x4 : Bool) (opx : Nat → Bool) : Bool :=
  rm (mdRm m) && (ftz || !mdFtz m) && (!mdX4 m || (x4 && 2 ≤ mdType m)) && opx (mdFopx m)

/-- R143, R219: SR with an element wider than 16 bits is an illegal operand. -/
def srWide (m : BitVec 10) : Bool := mdRm m == 5 && mdType m < 2

/-- Class 0 (Table 7.3 and the entries of the chapter). -/
def spec0 (op : Nat) (f : Fm) : Spec :=
  let m := f.md
  let w := intRegs (mdW m)
  match op with
  | 0 => { mdOk := m == 0 }
  | 1 => { mdOk := m == 0, predOk := false, tokOk := false }
  | 2 => { mdOk := m == 0 }
  | 3 => { b := .regc 1, mdOk := m == 0 }
  | 4 => { mdOk := m == 0 }
  | 5 => { mdOk := m == 0 }
  | 6 => { a := .val 1, mdOk := m == 0, predOk := false, tokOk := false }
  | 7 => { a := .val 1, b := .val 1, mdOk := m == 0, predOk := false, tokOk := false }
  | 8 => { dst := .any w, a := .val w, b := .val w, mdOk := intMd m 3 true true opx0 }
  | 9 => { dst := .any w, a := .val w, b := .val w, mdOk := intMd m 3 true true opx0 }
  | 10 => { dst := .any w, a := .val w, b := .val w, mdOk := intMd m 2 true false opx0 }
  | 11 => { dst := .any w, a := .val w, b := .val w, mdOk := intMd m 2 true false opx0 }
  | 12 => { dst := .any w, a := .val w, b := .val w, c := .val w, mdOk := intMd m 2 true false opx0 }
  | 13 => { dst := .any 2, a := .val 1, b := .val 1, c := .val 2, mdOk := intMd m 0 true false opx0 }
  | 14 => { dst := .any w, a := .val w, mdOk := intMd m 3 false true opx0 }
  | 15 => { dst := .any w, a := .val w, b := .val w, mdOk := intMd m 3 true false opx0 }
  | 16 => { dst := .any w, a := .val w, b := .val w, mdOk := intMd m 3 true false opx0 }
  | 17 => { dst := .predAny 1, a := .val w, b := .val w, mdOk := intMd m 3 true false (· < 6),
            opBad := 2 ≤ mdW m && (match Opnd.ofCode f.dst with | .pred _ => true | _ => false) }
  | 18 => { dst := .any w, a := .val w, b := .val w, c := .pred, mdOk := intMd m 1 false false opx0 }
  | 19 => { dst := .any w, a := .val w, b := .val w, mdOk := intMd m 1 false false opx1 }
  | 20 => { dst := .any w, a := .val w, b := .val w, mdOk := intMd m 1 false false opx1 }
  | 21 => { dst := .any w, a := .val w, b := .val w, mdOk := intMd m 1 false false opx1 }
  | 22 => { dst := .any w, a := .val w, b := .val w, c := .val w, mdOk := mdW m ≤ 1 }
  | 23 => { dst := .any w, a := .val w, b := .val 1, mdOk := intMd m 2 false false opx0 }
  | 24 => { dst := .any w, a := .val w, b := .val 1, mdOk := intMd m 2 false false opx0 }
  | 25 => { dst := .any w, a := .val w, b := .val 1, mdOk := intMd m 2 false false opx0 }
  | 26 => { dst := .any w, a := .val w, b := .val 1, mdOk := intMd m 1 false false opx1 }
  | 27 => { dst := .any 1, a := .val 1, b := .val 1, c := .val 1, mdOk := intMd m 0 false false opx1 }
  | 28 => { dst := .any 1, a := .val w, mdOk := intMd m 1 false false opx0 }
  | 29 => { dst := .any 1, a := .val w, mdOk := intMd m 1 false false opx0 }
  | 30 => { dst := .any w, a := .val w, mdOk := intMd m 1 false false opx0 }
  | 31 => { dst := .any w, a := .val w, b := .val 1, mdOk := intMd m 1 true false opx0 }
  | 32 => { dst := .any w, a := .val w, b := .val w, c := .val 1, mdOk := intMd m 1 false false opx0 }
  | 33 => { dst := .any w, b := .val w, mdOk := intMd m 1 false false opx0 }
  | 34 => { dst := .any 2, a := .val 2, b := .val 1, mdOk := intMd m 0 true false (fun _ => true) }
  | 35 => { dst := .pred, a := .pred, b := .pred, c := .pred, mdOk := m.extractLsb' 0 2 == 0 }
  | 36 => { dst := .pred, a := .val w, b := .val w, mdOk := intMd m 1 false false opx1 }
  | 37 => { dst := .any 1, b := .regc 1, mdOk := m == 0 }
  | 38 => { a := .regc 1, b := .regc 1, mdOk := m == 0 }
  | 49 => { dst := .any 1 }
  | 50 => { dst := .any 1, a := .val 1 }
  | 51 => {}
  | _ => {}

/-- Class 1 (R221 to R234). A predicate that FCMP or FCLASS writes is no element wider than 16 bits, nor are the masks of FCLASS
but the one of f32 (R226), so RM 5 is there a value that the entry does not allow. -/
def spec1 (op : Nat) (f : Fm) : Spec :=
  let m := f.md
  let w := fpRegs m
  let w1 := fpRegs1 m
  let arith (opx : Nat → Bool) (c : SK) (b : SK) : Spec :=
    { dst := .any w, a := .val w, b := b, c := c, mdOk := fpMd m (· < 6) true true opx, opBad := srWide m }
  let isPred := match Opnd.ofCode f.dst with | .pred _ => true | _ => false
  match op with
  | 0 => arith opx0 .none (.val w)
  | 1 => arith opx0 .none (.val w)
  | 2 => arith opx0 .none (.val w)
  | 3 => arith (· < 4) (.val w) (.val w)
  | 4 => { dst := .any w, a := .val w, b := .val w, mdOk := fpMd m (· == 0) true true (· < 2), opBad := srWide m }
  | 5 => { dst := .any w, a := .val w, b := .val w, mdOk := fpMd m (· == 0) true true (· < 2), opBad := srWide m }
  | 6 => { dst := .predAny w1, a := .val w1, b := .val w1, mdOk := fpMd m (· == 0) true false (fun _ => true),
           opBad := (!isPred && srWide m) || (isPred && mdType m != 0) }
  | 7 => { dst := .predAny 1, a := .val w1, b := if isPred then .val 1 else .none,
           mdOk := fpMd m (· == 0) false false opx0,
           opBad := (!isPred && mdRm m == 5 && mdType m == 0) || (isPred && mdType m != 0) }
  | 8 => { dst := .any w1, a := .val w1, mdOk := fpMd m (· < 4) true false opx0, opBad := srWide m }
  | 9 => { dst := .any 1, a := .val 1, b := .val 1, c := .val 1,
           mdOk := fpMd m (· < 5) true false opx0 && 2 ≤ mdType m, opBad := mdRm m == 5 }
  | 10 => { dst := .any 1, a := .val 1, b := .val 1, c := .val 1,
            mdOk := mdRm m < 5 && !mdX4 m && mdType m < 3 && mdFopx m < 3, opBad := mdRm m == 5 }
  | 11 => arith opx0 .none (.val (if mdX4 m then 2 else 1))
  | 12 => { dst := .any 1, a := .val 1, b := .val 1, mdOk := m.extractLsb' 2 8 == 0 && mdType m < 3 }
  | 13 => { dst := .any 1, a := .val 1, b := .val 1, mdOk := m.extractLsb' 3 7 == 0 && mdType m < 3 }
  | 49 =>
    let sf := (f.imm.extractLsb' 0 5).toNat
    let df := (f.imm.extractLsb' 5 5).toNat
    let rm := (f.imm.extractLsb' 10 3).toNat
    let scl := (f.imm.extractLsb' 14 2).toNat
    { dst := .any (if df = 14 || df = 15 then 2 else 1), a := .val (if sf = 14 || sf = 15 then 2 else 1),
      b := if scl = 0 then .none else .val 1,
      mdOk := sf ≤ 16 && df ≤ 15 && scl ≠ 3 && rm < 6,
      opBad := rm == 5 && (df = 0 || df = 1 || df = 13 || df = 14 || df = 15) }
  | 50 =>
    let df := (f.imm.extractLsb' 0 5).toNat
    { dst := .v 1, a := .reg 1,
      mdOk := f.imm.extractLsb' 9 7 == 0 && (f.imm.extractLsb' 5 3).toNat < 6 &&
        [4, 5, 6, 7, 9, 10].contains df,
      predOk := false }
  | _ => {}

/-- Class 2 (R229). -/
def spec2 (f : Fm) : Spec :=
  let m := f.md
  let w := fpRegs1 m
  { dst := .any w, a := .val w, mdOk := fpMd m (· == 0) true false opx0 && mdType m < 2, opBad := srWide m }

/-- Registers of a memory access of size code SZ (Table 9.1). -/
def szRegs (sz : Nat) : Nat := if sz = 1 then 2 else if sz = 2 then 4 else 1

/-- Class 3 (Tables 9.1 to 9.4, 9.6). -/
def spec3 (op : Nat) (f : Fm) : Spec :=
  let m := f.md
  let sz := mdSz m
  let w := szRegs sz
  let stSz := sz ≤ 3 || sz = 5
  let stB : SK := if sz = 2 then .vreg 4 else .regc w
  let aw := if mdAW m = 1 then 2 else 1
  let atMd := mdScope m < 5 && mdAop m < 8 && mdAW m < 2 && (mdAop m != 7 || (!mdU m && mdAW m == 0))
  let casMd := mdScope m < 5 && mdAop m == 0 && !mdU m && mdAW m < 2
  match op with
  | 0 => { dst := .vs w, a := .reg 2, mdOk := sz < 7 }
  | 1 => { a := .reg 2, b := stB, mdOk := stSz && !mdNl m }
  | 2 => { dst := .vs w, a := .reg 1, mdOk := sz < 7 && !mdNl m }
  | 3 => { a := .reg 1, b := stB, mdOk := stSz && !mdNl m }
  | 4 => { dst := .vs w, a := .reg 1, mdOk := sz < 7 && !mdNl m }
  | 5 => { dst := .vd aw, a := .reg 2, b := .val aw, mdOk := atMd }
  | 6 => { dst := .vd aw, a := .reg 1, b := .val aw, mdOk := atMd && mdScope m == 0 }
  | 7 => { dst := .vd aw, a := .reg 2, b := .val aw, c := .regc aw, mdOk := casMd }
  | 8 => { dst := .vd aw, a := .reg 1, b := .val aw, c := .regc aw, mdOk := casMd && mdScope m == 0 }
  | 9 => { a := .reg 2, b := .val aw, mdOk := atMd }
  | 10 => { mdOk := mdScope m < 5 && mdKind m < 3 && m.extractLsb' 0 5 == 0, tokOk := false }
  | 11 => { a := .reg 2, mdOk := sz == 0 && !mdNl m }
  | 12 => { a := .reg 2, mdOk := sz == 0 }
  | 13 => { dst := .predVs, a := .reg 1, mdOk := sz == 0 && !mdNl m }
  | _ => {}

/-- Class 4 (Tables 9.8 and 9.9). -/
def spec4 (op : Nat) (f : Fm) : Spec :=
  let m := f.md
  let c : SK := if mdMsk m then .reg 1 else .none
  let x := mdCopx m
  let t := mdCty m
  let red := mdRop m < 6 && t < 3 && (t != 2 || mdRop m < 3)
  let w := if t = 1 then 2 else 1
  match op with
  | 0 => { dst := if x = 3 then .vs 1 else .pred, a := .pred, c := c,
           mdOk := x < 4 && mdRop m == 0 && t == 0, predOk := false }
  | 1 => { dst := .v w, a := .val w, b := .regc 1, c := c, mdOk := x < 4 && mdRop m == 0 && t < 2, predOk := false }
  | 2 => { dst := .v 1, a := .val 1, c := c, mdOk := x == 0 && red, predOk := false }
  | 3 => { dst := .v 1, a := .val 1, c := c, mdOk := x < 2 && red, predOk := false }
  | 4 => { dst := .v w, a := .val w, c := c, mdOk := x == 0 && mdRop m == 0 && t < 2, predOk := false }
  | 5 => { dst := .predV, c := c, mdOk := x == 0 && mdRop m == 0 && t == 0, predOk := false }
  | 6 => { dst := .vs 1, c := c, mdOk := x == 0 && mdRop m == 0 && t == 0, predOk := false }
  | 7 => { c := c, mdOk := x == 0 && mdRop m == 0 && t == 0, predOk := false }
  | _ => {}

/-- Class 5 (Table 10.1). -/
def spec5 (op : Nat) (f : Fm) : Spec :=
  let m := f.md
  let z := m == 0
  let sz := mdType m
  let w := if sz = 1 then 2 else if sz = 2 then 4 else 1
  let szOk := m.extractLsb' 2 8 == 0 && sz < 3
  match op with
  | 0 => { a := .reg 1, mdOk := z }
  | 1 => { a := .reg 1, mdOk := z }
  | 2 => { mdOk := z }
  | 3 => { b := .regc 1, mdOk := z }
  | 4 => { dst := .v 1, a := .reg 1, mdOk := z }
  | 5 => { a := .reg 1, mdOk := z }
  | 6 => { a := .reg 2, b := .regl 1, mdOk := z }
  | 7 => { b := .regc 1, mdOk := z }
  | 8 => { mdOk := z }
  | 9 => { dst := .v 1, a := .reg 1, mdOk := z }
  | 10 => { b := .regc 1, mdOk := z }
  | 11 => { a := .reg 1, mdOk := z }
  | 12 => { dst := .v w, a := .reg 1, mdOk := szOk }
  | 13 => { a := .reg 1, b := if sz = 0 then .regc 1 else .vreg w, mdOk := szOk }
  | 14 => { a := .reg 1, mdOk := z }
  | 15 => { mdOk := z }
  | _ => {}

/-- Class 6 (Tables 11.1 and 11.2). -/
def spec6 (op : Nat) (f : Fm) : Spec :=
  let m := f.md
  let z := m == 0
  let chOnly := m.extractLsb' 0 6 == 0
  let chSp := m.extractLsb' 0 5 == 0
  let selOnly := m.extractLsb' 3 7 == 0
  let enqA : SK := if mdSp m then .reg 1 else .vreg 4
  match op with
  | 0 => { a := enqA, mdOk := chSp }
  | 1 => { a := enqA, mdOk := chSp }
  | 2 => { dst := .v 1, b := .regc 1, mdOk := z }
  | 3 => { dst := .vs 1, mdOk := chOnly }
  | 4 => { a := .regc 1, mdOk := chOnly }
  | 5 => { a := .reg 1, mdOk := chOnly }
  | 6 => { a := .reg 2, b := .regl 2, mdOk := z }
  | 7 => { a := .reg 2, b := .regc 1, mdOk := z }
  | 8 => { a := .reg 2, mdOk := m.extractLsb' 1 9 == 0 }
  | 9 => { a := .regc 1, b := .regl 1, mdOk := z }
  | 10 => { dst := .vs 1, a := .regc 1, mdOk := selOnly }
  | 11 => { a := .reg 1, mdOk := z }
  | 12 =>
    let a : SK := match mdSel m with | 0 => .tile | 1 => .reg 2 | 3 => .none | 7 => .none | _ => .regc 1
    { dst := .vs 1, a := a, mdOk := selOnly && mdSel m < 7 }
  | 13 => { b := .regc 1, mdOk := z, predOk := false }
  | 14 => { b := .regc 1, mdOk := z, predOk := false }
  | 15 => { dst := .v 1, a := .reg 2, b := .regc 1, mdOk := z }
  | _ => {}

/-- The operand rules of operation `op` of class `cls`. -/
def spec (cls op : Nat) (f : Fm) : Spec :=
  match cls with
  | 0 => spec0 op f
  | 1 => spec1 op f
  | 2 => spec2 f
  | 3 => spec3 op f
  | 4 => spec4 op f
  | 5 => spec5 op f
  | 6 => spec6 op f
  | _ => {}

/-- R166: the first register of an operand of `w` registers is a multiple of `w` inside its file. -/
def aligned (n w : Nat) : Bool := n % w == 0

/-- R164 to R166: does a used source position refuse a code as an illegal operand? -/
def SK.refuses (k : SK) (srcB : Bool) (c : Code) : Bool :=
  match k, Opnd.ofCode c with
  | .none, _ => false
  | .pred, .pred _ => false
  | .pred, _ => true
  | .tile, .v _ => false
  | .tile, .s _ => false
  | .tile, .pred _ => false
  | .tile, _ => true
  | .val w, .v n => !aligned n w
  | .val w, .s n => !aligned n w
  | .val _, .special _ => false
  | .val _, .const _ => false
  | .val _, .lit => !srcB
  | .regc w, .v n => !aligned n w
  | .regc w, .s n => !aligned n w
  | .regc _, .const _ => false
  | .regc _, .lit => !srcB
  | .regl w, .v n => !aligned n w
  | .regl w, .s n => !aligned n w
  | .regl _, .lit => !srcB
  | .reg w, .v n => !aligned n w
  | .reg w, .s n => !aligned n w
  | .vreg w, .v n => !aligned n w
  | _, _ => true

/-- R164 to R166: does a destination position refuse a code as an illegal operand? -/
def DK.refuses (k : DK) (c : Code) : Bool :=
  match k, Opnd.ofCode c with
  | .none, _ => false
  | .any w, .v n => !aligned n w
  | .any w, .s n => !aligned n w
  | .any _, .lit => false
  | .vs w, .v n => !aligned n w
  | .vs w, .s n => !aligned n w
  | .v w, .v n => !aligned n w
  | .vd w, .v n => !aligned n w
  | .vd _, .lit => false
  | .pred, .pred _ => false
  | .pred, .lit => false
  | .predAny _, .pred _ => false
  | .predAny w, .v n => !aligned n w
  | .predAny w, .s n => !aligned n w
  | .predAny _, .lit => false
  | .predVs, .pred _ => false
  | .predVs, .v _ => false
  | .predVs, .s _ => false
  | .predV, .pred _ => false
  | .predV, .v _ => false
  | _, _ => true

/-- The encoding faults of one instruction word, in the order of R187. -/
inductive EncFault where
  | illegalOpcode
  | illegalOperand
  | reservedBit
  /-- A second or literal word would lie beyond the words at hand: a clause fault (R169). -/
  | truncated
  deriving DecidableEq, Repr

/-- R175, R187: the first encoding fault of an operation's fields, if any. -/
def Fm.check (cls op : Nat) (f : Fm) : Option EncFault :=
  let sp := spec cls op f
  if sp.dst.refuses f.dst || sp.a.refuses false f.a || sp.b.refuses true f.b || sp.c.refuses false f.c ||
      sp.opBad || f.tok == 7 then some .illegalOperand
  else if (sp.dst == .none && f.dst != 0xFF) || (sp.a == .none && f.a != 0xE0) ||
      (sp.b == .none && f.b != 0xE0) || (sp.c == .none && f.c != 0xE0) || !sp.mdOk ||
      (!sp.predOk && (f.pred != 7 || f.neg)) || (!sp.tokOk && f.tok != 6) then some .reservedBit
  else none

/-- R177: the TARGET of BRX and CALLX names a v or s register. -/
def XForm.check (f : XForm) : Option EncFault :=
  if SK.refuses (.reg 1) false f.tgt then some .illegalOperand else none

/-- The words of an instruction by their layout. -/
inductive Body where
  | short (f : SForm)
  | long (f : LForm)
  | ded (f : DForm)
  | off (f : BForm)
  | tgt (f : XForm)
  | ret (f : RForm)
  deriving DecidableEq, Repr

/-- The class, the operation and the word of an instruction; events and commands have none. -/
def Instr.view : Instr → Option (Nat × Nat × Body)
  | .nop f => some (0, 0, .short f)
  | .nopLong f => some (0, 0, .long f)
  | .reconv f => some (0, 1, .short f)
  | .reconvLong f => some (0, 1, .long f)
  | .yield f => some (0, 2, .short f)
  | .yieldLong f => some (0, 2, .long f)
  | .trap f => some (0, 3, .short f)
  | .trapLong f => some (0, 3, .long f)
  | .region f => some (0, 4, .short f)
  | .regionLong f => some (0, 4, .long f)
  | .regend f => some (0, 5, .short f)
  | .regendLong f => some (0, 5, .long f)
  | .bar f => some (0, 6, .short f)
  | .barLong f => some (0, 6, .long f)
  | .barp f => some (0, 7, .short f)
  | .barpLong f => some (0, 7, .long f)
  | .iadd f => some (0, 8, .short f)
  | .iaddLong f => some (0, 8, .long f)
  | .isub f => some (0, 9, .short f)
  | .isubLong f => some (0, 9, .long f)
  | .imul f => some (0, 10, .short f)
  | .imulLong f => some (0, 10, .long f)
  | .imulh f => some (0, 11, .short f)
  | .imulhLong f => some (0, 11, .long f)
  | .imad f => some (0, 12, .long f)
  | .imadw f => some (0, 13, .long f)
  | .iabs f => some (0, 14, .short f)
  | .iabsLong f => some (0, 14, .long f)
  | .imin f => some (0, 15, .short f)
  | .iminLong f => some (0, 15, .long f)
  | .imax f => some (0, 16, .short f)
  | .imaxLong f => some (0, 16, .long f)
  | .icmp f => some (0, 17, .short f)
  | .icmpLong f => some (0, 17, .long f)
  | .isel f => some (0, 18, .long f)
  | .andI f => some (0, 19, .short f)
  | .andLong f => some (0, 19, .long f)
  | .orI f => some (0, 20, .short f)
  | .orLong f => some (0, 20, .long f)
  | .xorI f => some (0, 21, .short f)
  | .xorLong f => some (0, 21, .long f)
  | .lop3 f => some (0, 22, .long f)
  | .shl f => some (0, 23, .short f)
  | .shlLong f => some (0, 23, .long f)
  | .shr f => some (0, 24, .short f)
  | .shrLong f => some (0, 24, .long f)
  | .sar f => some (0, 25, .short f)
  | .sarLong f => some (0, 25, .long f)
  | .rot f => some (0, 26, .short f)
  | .rotLong f => some (0, 26, .long f)
  | .funnel f => some (0, 27, .long f)
  | .popc f => some (0, 28, .short f)
  | .popcLong f => some (0, 28, .long f)
  | .clz f => some (0, 29, .short f)
  | .clzLong f => some (0, 29, .long f)
  | .brev f => some (0, 30, .short f)
  | .brevLong f => some (0, 30, .long f)
  | .bfx f => some (0, 31, .short f)
  | .bfxLong f => some (0, 31, .long f)
  | .bfi f => some (0, 32, .long f)
  | .mov f => some (0, 33, .short f)
  | .movLong f => some (0, 33, .long f)
  | .lea f => some (0, 34, .short f)
  | .leaLong f => some (0, 34, .long f)
  | .plop f => some (0, 35, .long f)
  | .pset f => some (0, 36, .short f)
  | .psetLong f => some (0, 36, .long f)
  | .rdsr f => some (0, 37, .short f)
  | .rdsrLong f => some (0, 37, .long f)
  | .wrsr f => some (0, 38, .short f)
  | .wrsrLong f => some (0, 38, .long f)
  | .lil f => some (0, 49, .ded f)
  | .lih f => some (0, 50, .ded f)
  | .jrole f => some (0, 51, .ded f)
  | .bra f => some (0, 42, .off f)
  | .brx f => some (0, 43, .tgt f)
  | .call f => some (0, 44, .off f)
  | .callx f => some (0, 45, .tgt f)
  | .ret f => some (0, 46, .ret f)
  | .exit f => some (0, 47, .ret f)
  | .fadd f => some (1, 0, .short f)
  | .faddLong f => some (1, 0, .long f)
  | .fsub f => some (1, 1, .short f)
  | .fsubLong f => some (1, 1, .long f)
  | .fmul f => some (1, 2, .short f)
  | .fmulLong f => some (1, 2, .long f)
  | .ffma f => some (1, 3, .long f)
  | .fmin f => some (1, 4, .short f)
  | .fminLong f => some (1, 4, .long f)
  | .fmax f => some (1, 5, .short f)
  | .fmaxLong f => some (1, 5, .long f)
  | .fcmp f => some (1, 6, .short f)
  | .fcmpLong f => some (1, 6, .long f)
  | .fclass f => some (1, 7, .short f)
  | .fclassLong f => some (1, 7, .long f)
  | .frnd f => some (1, 8, .short f)
  | .frndLong f => some (1, 8, .long f)
  | .fdot2 f => some (1, 9, .long f)
  | .fdot4 f => some (1, 10, .long f)
  | .fscale f => some (1, 11, .short f)
  | .fscaleLong f => some (1, 11, .long f)
  | .pack f => some (1, 12, .short f)
  | .packLong f => some (1, 12, .long f)
  | .unpk f => some (1, 13, .short f)
  | .unpkLong f => some (1, 13, .long f)
  | .cvt f => some (1, 49, .ded f)
  | .qblk f => some (1, 50, .ded f)
  | .frcp f => some (2, 0, .long f)
  | .frsq f => some (2, 1, .long f)
  | .fsqrt f => some (2, 2, .long f)
  | .fexp2 f => some (2, 3, .long f)
  | .flog2 f => some (2, 4, .long f)
  | .fsin f => some (2, 5, .long f)
  | .fcos f => some (2, 6, .long f)
  | .ftanh f => some (2, 7, .long f)
  | .fsigm f => some (2, 8, .long f)
  | .ld f => some (3, 0, .long f)
  | .st f => some (3, 1, .short f)
  | .stLong f => some (3, 1, .long f)
  | .lds f => some (3, 2, .long f)
  | .sts f => some (3, 3, .short f)
  | .stsLong f => some (3, 3, .long f)
  | .ldc f => some (3, 4, .long f)
  | .atom f => some (3, 5, .long f)
  | .atoms f => some (3, 6, .long f)
  | .cas f => some (3, 7, .long f)
  | .cass f => some (3, 8, .long f)
  | .red f => some (3, 9, .short f)
  | .redLong f => some (3, 9, .long f)
  | .fence f => some (3, 10, .short f)
  | .fenceLong f => some (3, 10, .long f)
  | .lease f => some (3, 11, .short f)
  | .leaseLong f => some (3, 11, .long f)
  | .pref f => some (3, 12, .short f)
  | .prefLong f => some (3, 12, .long f)
  | .pres f => some (3, 13, .long f)
  | .vote f => some (4, 0, .long f)
  | .shfl f => some (4, 1, .long f)
  | .redt f => some (4, 2, .long f)
  | .scant f => some (4, 3, .long f)
  | .matchI f => some (4, 4, .long f)
  | .elect f => some (4, 5, .long f)
  | .actmask f => some (4, 6, .long f)
  | .tbar f => some (4, 7, .short f)
  | .tbarLong f => some (4, 7, .long f)
  | .copy f => some (5, 0, .short f)
  | .copyLong f => some (5, 0, .long f)
  | .copym f => some (5, 1, .short f)
  | .copymLong f => some (5, 1, .long f)
  | .seal f => some (5, 2, .short f)
  | .sealLong f => some (5, 2, .long f)
  | .waitb f => some (5, 3, .short f)
  | .waitbLong f => some (5, 3, .long f)
  | .osbres f => some (5, 4, .long f)
  | .osbrel f => some (5, 5, .short f)
  | .osbrelLong f => some (5, 5, .long f)
  | .plload f => some (5, 6, .short f)
  | .plloadLong f => some (5, 6, .long f)
  | .plfree f => some (5, 7, .short f)
  | .plfreeLong f => some (5, 7, .long f)
  | .mxfence f => some (5, 8, .short f)
  | .mxfenceLong f => some (5, 8, .long f)
  | .mxissue f => some (5, 9, .long f)
  | .mxwait f => some (5, 10, .short f)
  | .mxwaitLong f => some (5, 10, .long f)
  | .vrel f => some (5, 11, .short f)
  | .vrelLong f => some (5, 11, .long f)
  | .vtrd f => some (5, 12, .long f)
  | .vtwr f => some (5, 13, .short f)
  | .vtwrLong f => some (5, 13, .long f)
  | .chain f => some (5, 14, .short f)
  | .chainLong f => some (5, 14, .long f)
  | .chwait f => some (5, 15, .short f)
  | .chwaitLong f => some (5, 15, .long f)
  | .enq f => some (6, 0, .short f)
  | .enqLong f => some (6, 0, .long f)
  | .enqi f => some (6, 1, .short f)
  | .enqiLong f => some (6, 1, .long f)
  | .deqmore f => some (6, 2, .long f)
  | .qlen f => some (6, 3, .long f)
  | .decdep f => some (6, 4, .short f)
  | .decdepLong f => some (6, 4, .long f)
  | .launch f => some (6, 5, .short f)
  | .launchLong f => some (6, 5, .long f)
  | .arcinit f => some (6, 6, .short f)
  | .arcinitLong f => some (6, 6, .long f)
  | .arcadd f => some (6, 7, .short f)
  | .arcaddLong f => some (6, 7, .long f)
  | .arcwait f => some (6, 8, .short f)
  | .arcwaitLong f => some (6, 8, .long f)
  | .arcwaitSwap f => some (6, 8, .long f)
  | .pldem f => some (6, 9, .short f)
  | .pldemLong f => some (6, 9, .long f)
  | .plstate f => some (6, 10, .long f)
  | .gate f => some (6, 11, .short f)
  | .gateLong f => some (6, 11, .long f)
  | .lblrd f => some (6, 12, .long f)
  | .give f => some (6, 13, .short f)
  | .giveLong f => some (6, 13, .long f)
  | .claim f => some (6, 14, .short f)
  | .claimLong f => some (6, 14, .long f)
  | .syscall f => some (6, 15, .long f)
  | .quadrantIssueCycle _ _ => none
  | .agePromotion _ => none
  | .teamctlPromotion _ => none
  | .slotDecision _ _ => none
  | .batchwaitExpiry _ => none
  | .teamRetirement _ => none
  | .stageRunCompletionReport _ => none
  | .cellarRefillStep _ => none
  | .ephemerisPublish => none
  | .forwardingDecision _ _ => none
  | .launchRecordAccept _ => none
  | .gangDeadline _ => none
  | .coherencePointAccess _ => none
  | .memoryResponse _ => none
  | .leaseExpiry _ _ => none
  | .pinnedRetry _ => none
  | .pinnedLineTimeout _ => none
  | .streamerWritePerform _ => none
  | .plateLoadComplete _ => none
  | .mxissueComplete _ => none
  | .chainElementStep _ => none
  | .gateTransferAck _ => none
  | .syscallReply _ => none
  | .syscallTimeout _ => none
  | .teamSave _ => none
  | .drainDeadlineExpiry _ => none
  | .notifyWrite _ _ _ => none
  | .launchSlotWrite _ _ _ _ => none
  | .sealWaitTimeout _ => none
  | .lerrClear _ _ => none
  | .hifdrvWrite _ _ => none
  | .apbaseWrite _ _ => none
  | .leasecfgWrite _ _ => none
  | .vfctlWrite _ _ => none
  | .fqlostClear _ _ => none
  | .registerWrite _ _ _ _ => none
  | .bar4Access _ _ => none
  | .cxlMemAccess _ _ => none
  | .fqresReissue _ _ => none
  | .fqresTerminate _ _ => none
  | .fqresReflect _ _ => none
  | .faultResolutionTimeout _ => none
  | .setcore _ => none
  | .setmem _ => none
  | .setslices _ => none
  | .mapframes _ => none
  | .relframes _ => none
  | .frameScrubComplete _ => none
  | .sets2 _ => none
  | .setctx _ => none
  | .inval _ => none
  | .killctx _ => none
  | .setfilter _ => none
  | .setorr _ => none
  | .evict _ => none
  | .savearea _ => none
  | .fabwin _ => none
  | .getreport _ => none
  | .getcert _ => none
  | .fwstage _ => none
  | .bindslot _ => none
  | .unbindslot _ => none
  | .bindfn _ => none
  | .setgrant _ => none
  | .polinstall _ => none
  | .polrevoke _ => none
  | .polread _ => none
  | .plpool _ => none
  | .meshdef _ => none
  | .plinstall _ => none
  | .plremove _ => none
  | .fwdcfg _ => none
  | .portres _ => none
  | .stationid _ => none
  | .linkup _ => none
  | .portquery _ => none
  | .telemetry _ => none
  | .errlog _ => none
  | .settherm _ => none
  | .measlog _ => none
  | .survey _ => none
  | .bootStart => none
  | .bootStageTimeout _ => none
  | .vfFlr _ => none
  | .vfEnableClear => none
  | .fabricRequest _ => none
  | .fabricResponse _ => none
  | .hello _ _ _ _ => none
  | .clock _ _ _ => none
  | .notifyMsg _ _ _ => none
  | .refuse _ _ _ => none
  | .renq _ _ _ _ _ _ => none
  | .renqack _ _ _ => none
  | .ephem _ _ => none
  | .gack _ _ _ => none
  | .gabort _ _ => none
  | .preq _ _ _ _ _ => none
  | .pstart _ _ _ _ _ => none
  | .palloc _ _ _ _ _ => none
  | .pready _ _ _ _ => none
  | .pswitch _ _ _ => none
  | .pabandon _ _ _ _ => none
  | .pdone _ _ _ _ => none
  | .cprep _ _ _ _ _ => none
  | .cvote _ _ _ => none
  | .ccommit _ _ _ => none
  | .resetMsg _ _ => none
  | .attreq _ _ => none
  | .attresp _ _ => none
  | .portLeavesActive _ => none
  | .clockOutOfBound => none
  | .uncorrectableError _ _ _ => none
  | .correctedErrorThreshold _ => none
  | .selfTestComplete _ _ => none
  | .rowSurveyComplete _ _ _ => none
  | .sliceSurveyComplete _ _ => none
  | .clockWindow => none
  | .migrationChoice => none
  | .thermalShutdown _ => none
  | .ephemerisRemotePublication => none
  | .clockMessagePeriod => none
  | .gangIdRetentionExpiry _ => none
  | .bootStageComplete => none
  | .powerLoss => none
  | .dieMarkedHot _ _ => none
  | .correctedError _ => none
  | .vfEnableSet => none

/-- The common view of an instruction's fields. -/
def Body.fm : Body → Fm
  | .short f => f.fm
  | .long f => f.fm
  | .ded f => f.fm
  | .off f => f.fm
  | .tgt f => f.fm
  | .ret f => f.fm

/-- The encoding fault of an instruction's operands and fields. -/
def Body.check (cls op : Nat) : Body → Option EncFault
  | .short f => f.fm.check cls op
  | .long f => f.fm.check cls op
  | .ded f => f.fm.check cls op
  | .off _ => none
  | .tgt f => f.check
  | .ret _ => none

/-- R176: an instruction holds a literal word only where SRCB is 0xFF. -/
def Body.litOk : Body → Bool
  | .short f => f.b == 0xFF || f.lit == 0
  | .long f => f.b == 0xFF || f.lit == 0
  | .ded f => f.b == 0xFF || f.lit == 0
  | .off _ => true
  | .tgt _ => true
  | .ret _ => true

/-- R187: the encoding fault that an instruction raises when it issues. -/
def Instr.check (i : Instr) : Option EncFault :=
  match i.view with
  | some (cls, op, b) => b.check cls op
  | none => none

/-- R305, R306: modifier bit 0 tells ARCWAIT with SWAP from plain ARCWAIT. -/
def Instr.rowOk : Instr → Bool
  | .arcwaitLong f => !f.md.getLsbD 0
  | .arcwaitSwap f => f.md.getLsbD 0
  | _ => true

end Sys2Proof
end

