-- ==== Sys2Proof/WellFormed.lean ====
section
/-! DEFINITION. Which terms of `Instr` an encoding can carry: those that raise no encoding fault of R187, hold a
literal only where SRCB asks for one (R176), and stand under the right row of the opcode table. -/

namespace Sys2Proof

/-- An instruction that the words of a clause can hold and that raises no encoding fault. Events, commands and
messages have no words and are well formed as they stand. -/
def Instr.wellFormed (i : Instr) : Bool :=
  i.check == none && i.rowOk && (match i.view with | some (_, _, b) => b.litOk | none => true)

end Sys2Proof
end

