-- ==== Sys2Proof/Decode.lean ====
section
/-! DEFINITION. The decoder of Strelmel words and clauses, total on any words and bytes, which refuses by the fault
names of R187; and the encoder written from the same tables (R168 to R177, R185). -/

namespace Sys2Proof

/-- Class 0: the short opcodes of Tables 6.14 to 6.20. -/
def shortOf0 (op : Nat) (f : SForm) : Option Instr :=
  match op with
  | 0 => some (.nop f)
  | 1 => some (.reconv f)
  | 2 => some (.yield f)
  | 3 => some (.trap f)
  | 4 => some (.region f)
  | 5 => some (.regend f)
  | 6 => some (.bar f)
  | 7 => some (.barp f)
  | 8 => some (.iadd f)
  | 9 => some (.isub f)
  | 10 => some (.imul f)
  | 11 => some (.imulh f)
  | 14 => some (.iabs f)
  | 15 => some (.imin f)
  | 16 => some (.imax f)
  | 17 => some (.icmp f)
  | 19 => some (.andI f)
  | 20 => some (.orI f)
  | 21 => some (.xorI f)
  | 23 => some (.shl f)
  | 24 => some (.shr f)
  | 25 => some (.sar f)
  | 26 => some (.rot f)
  | 28 => some (.popc f)
  | 29 => some (.clz f)
  | 30 => some (.brev f)
  | 31 => some (.bfx f)
  | 33 => some (.mov f)
  | 34 => some (.lea f)
  | 36 => some (.pset f)
  | 37 => some (.rdsr f)
  | 38 => some (.wrsr f)
  | _ => none

/-- Class 1: the short opcodes of Tables 6.14 to 6.20. -/
def shortOf1 (op : Nat) (f : SForm) : Option Instr :=
  match op with
  | 0 => some (.fadd f)
  | 1 => some (.fsub f)
  | 2 => some (.fmul f)
  | 4 => some (.fmin f)
  | 5 => some (.fmax f)
  | 6 => some (.fcmp f)
  | 7 => some (.fclass f)
  | 8 => some (.frnd f)
  | 11 => some (.fscale f)
  | 12 => some (.pack f)
  | 13 => some (.unpk f)
  | _ => none

/-- Class 2: the short opcodes of Tables 6.14 to 6.20. -/
def shortOf2 (op : Nat) (_f : SForm) : Option Instr :=
  match op with
  | _ => none

/-- Class 3: the short opcodes of Tables 6.14 to 6.20. -/
def shortOf3 (op : Nat) (f : SForm) : Option Instr :=
  match op with
  | 1 => some (.st f)
  | 3 => some (.sts f)
  | 9 => some (.red f)
  | 10 => some (.fence f)
  | 11 => some (.lease f)
  | 12 => some (.pref f)
  | _ => none

/-- Class 4: the short opcodes of Tables 6.14 to 6.20. -/
def shortOf4 (op : Nat) (f : SForm) : Option Instr :=
  match op with
  | 7 => some (.tbar f)
  | _ => none

/-- Class 5: the short opcodes of Tables 6.14 to 6.20. -/
def shortOf5 (op : Nat) (f : SForm) : Option Instr :=
  match op with
  | 0 => some (.copy f)
  | 1 => some (.copym f)
  | 2 => some (.seal f)
  | 3 => some (.waitb f)
  | 5 => some (.osbrel f)
  | 6 => some (.plload f)
  | 7 => some (.plfree f)
  | 8 => some (.mxfence f)
  | 10 => some (.mxwait f)
  | 11 => some (.vrel f)
  | 13 => some (.vtwr f)
  | 14 => some (.chain f)
  | 15 => some (.chwait f)
  | _ => none

/-- Class 6: the short opcodes of Tables 6.14 to 6.20. -/
def shortOf6 (op : Nat) (f : SForm) : Option Instr :=
  match op with
  | 0 => some (.enq f)
  | 1 => some (.enqi f)
  | 4 => some (.decdep f)
  | 5 => some (.launch f)
  | 6 => some (.arcinit f)
  | 7 => some (.arcadd f)
  | 8 => some (.arcwait f)
  | 9 => some (.pldem f)
  | 11 => some (.gate f)
  | 13 => some (.give f)
  | 14 => some (.claim f)
  | _ => none

/-- R185: the operation of a class under a short opcode. -/
def shortOf (cls op : Nat) (f : SForm) : Option Instr :=
  match cls with
  | 0 => shortOf0 op f
  | 1 => shortOf1 op f
  | 2 => shortOf2 op f
  | 3 => shortOf3 op f
  | 4 => shortOf4 op f
  | 5 => shortOf5 op f
  | 6 => shortOf6 op f
  | _ => none

/-- Class 0: the operations of opcode 48. -/
def longOf0 (op : Nat) (f : LForm) : Option Instr :=
  match op with
  | 0 => some (.nopLong f)
  | 1 => some (.reconvLong f)
  | 2 => some (.yieldLong f)
  | 3 => some (.trapLong f)
  | 4 => some (.regionLong f)
  | 5 => some (.regendLong f)
  | 6 => some (.barLong f)
  | 7 => some (.barpLong f)
  | 8 => some (.iaddLong f)
  | 9 => some (.isubLong f)
  | 10 => some (.imulLong f)
  | 11 => some (.imulhLong f)
  | 12 => some (.imad f)
  | 13 => some (.imadw f)
  | 14 => some (.iabsLong f)
  | 15 => some (.iminLong f)
  | 16 => some (.imaxLong f)
  | 17 => some (.icmpLong f)
  | 18 => some (.isel f)
  | 19 => some (.andLong f)
  | 20 => some (.orLong f)
  | 21 => some (.xorLong f)
  | 22 => some (.lop3 f)
  | 23 => some (.shlLong f)
  | 24 => some (.shrLong f)
  | 25 => some (.sarLong f)
  | 26 => some (.rotLong f)
  | 27 => some (.funnel f)
  | 28 => some (.popcLong f)
  | 29 => some (.clzLong f)
  | 30 => some (.brevLong f)
  | 31 => some (.bfxLong f)
  | 32 => some (.bfi f)
  | 33 => some (.movLong f)
  | 34 => some (.leaLong f)
  | 35 => some (.plop f)
  | 36 => some (.psetLong f)
  | 37 => some (.rdsrLong f)
  | 38 => some (.wrsrLong f)
  | _ => none

/-- Class 1: the operations of opcode 48. -/
def longOf1 (op : Nat) (f : LForm) : Option Instr :=
  match op with
  | 0 => some (.faddLong f)
  | 1 => some (.fsubLong f)
  | 2 => some (.fmulLong f)
  | 3 => some (.ffma f)
  | 4 => some (.fminLong f)
  | 5 => some (.fmaxLong f)
  | 6 => some (.fcmpLong f)
  | 7 => some (.fclassLong f)
  | 8 => some (.frndLong f)
  | 9 => some (.fdot2 f)
  | 10 => some (.fdot4 f)
  | 11 => some (.fscaleLong f)
  | 12 => some (.packLong f)
  | 13 => some (.unpkLong f)
  | _ => none

/-- Class 2: the operations of opcode 48. -/
def longOf2 (op : Nat) (f : LForm) : Option Instr :=
  match op with
  | 0 => some (.frcp f)
  | 1 => some (.frsq f)
  | 2 => some (.fsqrt f)
  | 3 => some (.fexp2 f)
  | 4 => some (.flog2 f)
  | 5 => some (.fsin f)
  | 6 => some (.fcos f)
  | 7 => some (.ftanh f)
  | 8 => some (.fsigm f)
  | _ => none

/-- Class 3: the operations of opcode 48. -/
def longOf3 (op : Nat) (f : LForm) : Option Instr :=
  match op with
  | 0 => some (.ld f)
  | 1 => some (.stLong f)
  | 2 => some (.lds f)
  | 3 => some (.stsLong f)
  | 4 => some (.ldc f)
  | 5 => some (.atom f)
  | 6 => some (.atoms f)
  | 7 => some (.cas f)
  | 8 => some (.cass f)
  | 9 => some (.redLong f)
  | 10 => some (.fenceLong f)
  | 11 => some (.leaseLong f)
  | 12 => some (.prefLong f)
  | 13 => some (.pres f)
  | _ => none

/-- Class 4: the operations of opcode 48. -/
def longOf4 (op : Nat) (f : LForm) : Option Instr :=
  match op with
  | 0 => some (.vote f)
  | 1 => some (.shfl f)
  | 2 => some (.redt f)
  | 3 => some (.scant f)
  | 4 => some (.matchI f)
  | 5 => some (.elect f)
  | 6 => some (.actmask f)
  | 7 => some (.tbarLong f)
  | _ => none

/-- Class 5: the operations of opcode 48. -/
def longOf5 (op : Nat) (f : LForm) : Option Instr :=
  match op with
  | 0 => some (.copyLong f)
  | 1 => some (.copymLong f)
  | 2 => some (.sealLong f)
  | 3 => some (.waitbLong f)
  | 4 => some (.osbres f)
  | 5 => some (.osbrelLong f)
  | 6 => some (.plloadLong f)
  | 7 => some (.plfreeLong f)
  | 8 => some (.mxfenceLong f)
  | 9 => some (.mxissue f)
  | 10 => some (.mxwaitLong f)
  | 11 => some (.vrelLong f)
  | 12 => some (.vtrd f)
  | 13 => some (.vtwrLong f)
  | 14 => some (.chainLong f)
  | 15 => some (.chwaitLong f)
  | _ => none

/-- Class 6: the operations of opcode 48. -/
def longOf6 (op : Nat) (f : LForm) : Option Instr :=
  match op with
  | 0 => some (.enqLong f)
  | 1 => some (.enqiLong f)
  | 2 => some (.deqmore f)
  | 3 => some (.qlen f)
  | 4 => some (.decdepLong f)
  | 5 => some (.launchLong f)
  | 6 => some (.arcinitLong f)
  | 7 => some (.arcaddLong f)
  | 8 => if f.md.getLsbD 0 then some (.arcwaitSwap f) else some (.arcwaitLong f)
  | 9 => some (.pldemLong f)
  | 10 => some (.plstate f)
  | 11 => some (.gateLong f)
  | 12 => some (.lblrd f)
  | 13 => some (.giveLong f)
  | 14 => some (.claimLong f)
  | 15 => some (.syscall f)
  | _ => none

/-- R185: the operation of a class under opcode 48. -/
def longOf (cls op : Nat) (f : LForm) : Option Instr :=
  match cls with
  | 0 => longOf0 op f
  | 1 => longOf1 op f
  | 2 => longOf2 op f
  | 3 => longOf3 op f
  | 4 => longOf4 op f
  | 5 => longOf5 op f
  | 6 => longOf6 op f
  | _ => none

/-- R174, R185: the dedicated long opcodes of a class. -/
def dedicatedOf (cls op : Nat) (f : DForm) : Option Instr :=
  match cls, op with
  | 0, 49 => some (.lil f)
  | 0, 50 => some (.lih f)
  | 0, 51 => some (.jrole f)
  | 1, 49 => some (.cvt f)
  | 1, 50 => some (.qblk f)
  | _, _ => none

/-! Fields of word 1 (Table 6.7) and word 2 (Table 6.8). -/

/-- Table 6.7, bits [5:0]. -/
def wOpc (w : Word) : Nat := (w.extractLsb' 0 6).toNat
def wStall (w : Word) : BitVec 2 := w.extractLsb' 6 2
def wDst (w : Word) : Code := w.extractLsb' 8 8
def wA (w : Word) : Code := w.extractLsb' 16 8
def wB (w : Word) : Code := w.extractLsb' 24 8
def wC (w : Word) : Code := w.extractLsb' 0 8
def wPred (w : Word) : BitVec 3 := w.extractLsb' 8 3
def wNeg (w : Word) : Bool := w.getLsbD 11
def wTok (w : Word) : BitVec 3 := w.extractLsb' 12 3
def wRsvd (w : Word) : Bool := w.getLsbD 15
def wOp (w : Word) : Nat := (w.extractLsb' 16 6).toNat
def wMd (w : Word) : BitVec 10 := w.extractLsb' 22 10
def wImm (w : Word) : BitVec 16 := w.extractLsb' 16 16
def wOff (w : Word) : BitVec 18 := w.extractLsb' 14 18

/-- R172. -/
def SForm.ofWord (w lit : Word) : SForm := ⟨wStall w, wDst w, wA w, wB w, lit⟩
/-- R173. -/
def LForm.ofWords (w w2 lit : Word) : LForm :=
  ⟨wStall w, wDst w, wA w, wB w, wC w2, wMd w2, wTok w2, wNeg w2, wPred w2, lit⟩
/-- R174. -/
def DForm.ofWords (w w2 lit : Word) : DForm :=
  ⟨wStall w, wDst w, wA w, wB w, wC w2, wImm w2, wTok w2, wNeg w2, wPred w2, lit⟩
/-- R177. -/
def BForm.ofWord (w : Word) : BForm := ⟨wOff w, wNeg w, wPred w, wStall w⟩
def XForm.ofWord (w : Word) : XForm := ⟨wA w, wNeg w, wPred w, wStall w⟩
def RForm.ofWord (w : Word) : RForm := ⟨wNeg w, wPred w, wStall w⟩

/-- Bits of a branch word that its form reserves (Table 6.9). -/
def branchRsvd (opc : Nat) (w : Word) : Bool :=
  match opc with
  | 42 => w.extractLsb' 12 2 != 0
  | 44 => w.extractLsb' 12 2 != 0
  | 43 => w.extractLsb' 24 8 != 0 || w.extractLsb' 12 4 != 0
  | 45 => w.extractLsb' 24 8 != 0 || w.extractLsb' 12 4 != 0
  | _ => w.extractLsb' 12 20 != 0

/-- The instruction of a branch opcode, the same in every class (Table 6.13). -/
def branchOf (opc : Nat) (w : Word) : Option Instr :=
  match opc with
  | 42 => some (.bra (.ofWord w))
  | 43 => some (.brx (.ofWord w))
  | 44 => some (.call (.ofWord w))
  | 45 => some (.callx (.ofWord w))
  | 46 => some (.ret (.ofWord w))
  | 47 => some (.exit (.ofWord w))
  | _ => none

/-- R187: an instruction that its opcode names, refused by the first fault of its fields. `rsvd` says whether a
reserved bit that no field of the form holds is set. -/
def accept (i : Option Instr) (rsvd : Bool) (len : Nat) : Except EncFault (Instr × Nat) :=
  match i with
  | none => .error .illegalOpcode
  | some i =>
    match i.check, rsvd with
    | some .illegalOperand, _ => .error .illegalOperand
    | some e, _ => .error e
    | none, true => .error .reservedBit
    | none, false => .ok (i, len)

/-- R176: the literal word after `n` words of an instruction, where SRCB asks for one. -/
def litAt (b : Code) : List Word → Option Word
  | w :: _ => some (if b = 0xFF then w else 0)
  | [] => if b = 0xFF then none else some 0

/-- The words that an instruction of `n` words takes with its literal. -/
def lenWith (b : Code) (n : Nat) : Nat := if b = 0xFF then n + 1 else n

/-- The instruction that the words at hand begin with, read in an engine class, and how many words it takes
(R172 to R177, R185 to R187). -/
def decode (cls : Nat) (ws : List Word) : Except EncFault (Instr × Nat) :=
  match ws with
  | [] => .error .truncated
  | w :: rest =>
    if wOpc w < 42 then
      match litAt (wB w) rest with
      | none => .error .truncated
      | some lit => accept (shortOf cls (wOpc w) (.ofWord w lit)) false (lenWith (wB w) 1)
    else if wOpc w < 48 then
      accept (branchOf (wOpc w) w) (branchRsvd (wOpc w) w) 1
    else if wOpc w = 63 then .error .illegalOpcode
    else
      match rest with
      | [] => .error .truncated
      | w2 :: rest2 =>
        match litAt (wB w) rest2 with
        | none => .error .truncated
        | some lit =>
          accept (if wOpc w = 48 then longOf cls (wOp w2) (.ofWords w w2 lit)
              else dedicatedOf cls (wOpc w) (.ofWords w w2 lit)) (wRsvd w2) (lenWith (wB w) 2)

/-- R4: words are little-endian; bytes that fill no word are left over. -/
def wordsOfBytes : List Byte → List Word
  | b0 :: b1 :: b2 :: b3 :: rest => (b3 ++ b2 ++ b1 ++ b0) :: wordsOfBytes rest
  | _ => []

/-- R4: the bytes of a word, lowest address first. -/
def bytesOfWord (w : Word) : List Byte :=
  [w.extractLsb' 0 8, w.extractLsb' 8 8, w.extractLsb' 16 8, w.extractLsb' 24 8]

/-- The decoder on bytes. -/
def decodeBytes (cls : Nat) (bs : List Byte) : Except EncFault (Instr × Nat) := decode cls (wordsOfBytes bs)

/-- Table 6.7. -/
def word1 (opc : BitVec 6) (stall : BitVec 2) (dst a b : Code) : Word := b ++ a ++ dst ++ stall ++ opc

/-- Table 6.8, with MOD and OP or IMM in the upper half. -/
def word2 (hi : BitVec 16) (tok : BitVec 3) (neg : Bool) (pred : BitVec 3) (c : Code) : Word :=
  hi ++ (0 : BitVec 1) ++ tok ++ BitVec.ofBool neg ++ pred ++ c

/-- The literal word of an encoding, where SRCB asks for one. -/
def litTail (b : Code) (lit : Word) : List Word := if b = 0xFF then [lit] else []

/-- The words of an instruction by its operation number and its layout. -/
def Body.words (op : Nat) : Body → List Word
  | .short f => word1 (BitVec.ofNat 6 op) f.stall f.dst f.a f.b :: litTail f.b f.lit
  | .long f => word1 48 f.stall f.dst f.a f.b ::
      word2 (f.md ++ BitVec.ofNat 6 op) f.tok f.neg f.pred f.c :: litTail f.b f.lit
  | .ded f => word1 (BitVec.ofNat 6 op) f.stall f.dst f.a f.b ::
      word2 f.imm f.tok f.neg f.pred f.c :: litTail f.b f.lit
  | .off f => [f.off ++ (0 : BitVec 2) ++ BitVec.ofBool f.neg ++ f.pred ++ f.stall ++ BitVec.ofNat 6 op]
  | .tgt f => [(0 : BitVec 8) ++ f.tgt ++ (0 : BitVec 4) ++ BitVec.ofBool f.neg ++ f.pred ++ f.stall ++ BitVec.ofNat 6 op]
  | .ret f => [(0 : BitVec 20) ++ BitVec.ofBool f.neg ++ f.pred ++ f.stall ++ BitVec.ofNat 6 op]

/-- The words of an instruction in a clause; events, commands and messages have none. -/
def encode (i : Instr) : List Word :=
  match i.view with
  | some (_, op, b) => b.words op
  | none => []

/-- The engine class whose clause may hold an instruction (0 for a branch, which every class admits). -/
def Instr.cls (i : Instr) : Nat :=
  match i.view with
  | some (c, _, _) => c
  | none => 0

/-! The clause header (Table 6.5). -/

/-- R168. -/
def hMark (w : Word) : Nat := (w.extractLsb' 0 6).toNat
def hN (w : Word) : Nat := (w.extractLsb' 6 4).toNat
def hCls (w : Word) : Nat := (w.extractLsb' 10 3).toNat
def hWait (w : Word) : BitVec 6 := w.extractLsb' 13 6
def hPred (w : Word) : Nat := (w.extractLsb' 19 3).toNat
def hNeg (w : Word) : Bool := w.getLsbD 22
def hYield (w : Word) : Bool := w.getLsbD 23
def hRsvd (w : Word) : Bool := w.extractLsb' 24 8 != 0

/-- A clause header word from its fields. -/
def headerWord (n cls : Nat) (wait : BitVec 6) (pred : BitVec 3) (neg yld : Bool) : Word :=
  (0 : BitVec 8) ++ BitVec.ofBool yld ++ BitVec.ofBool neg ++ pred ++ wait ++ BitVec.ofNat 3 cls ++
    BitVec.ofNat 4 n ++ (0x3F : BitVec 6)

/-- The words that an instruction word takes by its layout alone. -/
def wordLen (w : Word) : Nat :=
  if wOpc w < 42 then lenWith (wB w) 1
  else if wOpc w < 48 || wOpc w = 63 then 1
  else lenWith (wB w) 2

/-- R170: where an instruction must stand in its clause. -/
inductive Place where
  | free
  | first
  | last
  | only
  deriving DecidableEq, Repr

/-- Table 6.6, by class and operation. -/
def placeOf (cls op : Nat) : Place :=
  match cls, op with
  | 0, 1 => .only
  | 0, 2 => .last
  | 0, 3 => .last
  | 0, 51 => .last
  | 0, 6 => .first
  | 0, 7 => .first
  | 1, 50 => .first
  | 4, _ => .first
  | 6, 13 => .first
  | 6, 14 => .first
  | _, _ => .free

/-- Table 6.6 for the instruction that a word list begins with: a word that names no instruction has no place. -/
def placeAt (cls : Nat) (w : Word) (rest : List Word) : Place :=
  if wOpc w < 42 then
    if (shortOf cls (wOpc w) (.ofWord w 0)).isSome then placeOf cls (wOpc w) else .free
  else if wOpc w < 48 then .last
  else
    match rest with
    | [] => .free
    | w2 :: _ =>
      if wOpc w = 48 then
        if (longOf cls (wOp w2) (.ofWords w w2 0)).isSome then placeOf cls (wOp w2) else .free
      else if (dedicatedOf cls (wOpc w) (.ofWords w w2 0)).isSome then placeOf cls (wOpc w) else .free

/-- R169, R170: does a clause's word list break its structure? `k` counts instructions before this one; `fuel` is
the number of words. -/
def shapeBad (cls : Nat) : Nat → Nat → List Word → Bool
  | 0, _, ws => !ws.isEmpty
  | _, _, [] => false
  | fuel + 1, k, w :: rest =>
    let n := wordLen w
    let after := (w :: rest).drop n
    (rest.length + 1 < n) ||
    (match placeAt cls w rest with
      | .free => false
      | .first => k != 0
      | .last => !after.isEmpty
      | .only => k != 0 || n != 1 || !after.isEmpty) ||
    shapeBad cls fuel (k + 1) after

/-- R168 to R170: is a header with the words after it a clause fault? -/
def clauseBad (h : Word) (ws : List Word) : Bool :=
  hMark h != 0x3F || hRsvd h || hCls h == 7 || hN h == 0 || ws.length != hN h || shapeBad (hCls h) 15 0 ws

/-- How many positions an operation leaves unused: the more, the more bits its row of the opcode table fixes. -/
def Instr.fixed (i : Instr) : Nat :=
  match i.view with
  | some (cls, op, b) =>
    let sp := spec cls op b.fm
    (if sp.dst = .none then 1 else 0) + (if sp.a = .none then 1 else 0) + (if sp.b = .none then 1 else 0)
  | none => 0

/-- The words of a number whose bit 0 is bit 0 of the first word. -/
def tableWords (w : Nat) : List Word :=
  [BitVec.ofNat 32 w, BitVec.ofNat 32 (w >>> 32), BitVec.ofNat 32 (w >>> 64)]

/-- A word of the opcode table does not tell its engine class, which the clause header gives (R168). Among the
classes that decode the word, take the one whose row fixes the most bits, and of those the lowest. -/
def tableClass (ws : List Word) : Option (Nat × Instr) :=
  [0, 1, 2, 3, 4, 5, 6].foldl (fun best cls =>
    match decode cls ws with
    | .ok (i, _) =>
      match best with
      | some (_, j) => if j.fixed < i.fixed then some (cls, i) else best
      | none => some (cls, i)
    | .error _ => best) none

/-- The instruction that the decoder reads from a word of the opcode table; bits above `nbits` are 0. -/
def decodeTableWord (nbits w : Nat) : Option Instr :=
  (tableClass (tableWords (w % 2 ^ nbits))).map (·.2)

end Sys2Proof
end

