-- ==== Sys2Proof/Machine/State.lean ====
section
/-! DEFINITION. The state of one module of the BX1: its threads, teams, memory, graphs, engines, host interface,
SEP, fabric ports and operator functions, as plain data; the reasons a step can stop; and the state after reset. -/

namespace Sys2Proof.Machine

open Sys2Proof

/-! ## Names of things -/

/-- A group of a resident team: the model's handle of the team, and %grp. -/
structure GRef where
  tid : Nat
  grp : Nat
  deriving DecidableEq, Repr

/-- A thread of a resident team. -/
structure TRef where
  tid : Nat
  grp : Nat
  lane : Nat
  deriving DecidableEq, Repr

def TRef.g (t : TRef) : GRef := ⟨t.tid, t.grp⟩

/-- A context of a partition. -/
structure CRef where
  part : Nat
  ctx : Nat
  deriving DecidableEq, Repr

/-- A stage of a context's graph. -/
structure StRef where
  part : Nat
  ctx : Nat
  stage : Nat
  deriving DecidableEq, Repr

/-- A register tile (R34, R109): one register, predicate or per-thread register across one group. -/
inductive Tile where
  | v (n : Nat)
  | s (n : Nat)
  | m (n : Nat)
  | fstat
  | seed
  | lpart
  | link
  | teamctl
  | ckmode
  deriving DecidableEq, Repr

/-! ## Threads and paths -/

/-- R183: an earlier write of a thread that the checking scoreboard still holds. -/
structure SbEntry where
  tile : Tile
  /-- The thread's distance count when the writer issued (R181). -/
  at_ : Nat
  /-- A variable-latency writer. -/
  varl : Bool
  tok : Nat
  pc : Nat
  deriving DecidableEq, Repr

/-- What ENQI keeps for the return of an inlined call (R296). -/
structure InlEntry where
  /-- The return address of the call, which a RET must match. -/
  ret : Nat
  /-- LINK as it stood at the call, with its label. -/
  link : Word
  linkLbl : Label
  deriving DecidableEq, Repr

/-- A thread's own registers beside v and m (R14). -/
structure Thread where
  live : Bool := false
  lpart : Nat := 5
  fstat : BitVec 8 := 0
  seed : Word := 0
  wct : DWord := 0
  link : Word := 0xFFFFFFFC
  linkLbl : Label := 0
  trapno : Nat := 0
  trapLbl : Label := 0
  idemOpen : Bool := false
  inlDepth : Nat := 0
  inlStack : List InlEntry := []
  /-- R180: the counts of w0 to w5. -/
  tok : List Nat := [0, 0, 0, 0, 0, 0]
  /-- R181: the sum of 1 + S over the instructions issued so far. -/
  dist : Nat := 0
  sb : List SbEntry := []
  /-- R271: the thread's current batch. -/
  batch : Nat := 0
  /-- R183, R217: the record that was dealt to this thread, for a relaunch. -/
  dealt : Bool := false
  deriving DecidableEq, Repr

/-- R31: one entry of a scope stack. -/
structure Scope where
  set : BitVec 64
  lbl : Label
  deriving DecidableEq, Repr

/-- Why a path is parked (Table 1.6). -/
inductive Park where
  /-- A resolvable fault; the token of its report (R371). -/
  | fault (token : Word)
  /-- Absent scratchpad lines, by number (R83). -/
  | lines (ls : List Nat)
  /-- A copy whose target line has C = 7 (R82), or that waits for room in the Streamer (R268). -/
  | copyRoom
  /-- Too few free rows (R22). -/
  | rows
  /-- No free pending-launch entry (R70). -/
  | launchEntry
  /-- A full queue (R51). -/
  | queue (q : QKey)
  /-- A placement conversion or its request: the entry, the EPOCH found, and the placement fault that an abandoned conversion has left
  for the restore of a saved team (R129). -/
  | placement (entry epoch : Nat) (fault : Option Nat)
  /-- A full Parlour mailbox (R295, R312). -/
  | mail (box : Nat)
  /-- An arrival counter (R305). -/
  | counter (swap : Bool)
  /-- OSB units (R274). -/
  | osb
  /-- Vat slots (R283). -/
  | vat
  /-- Room in an engine (R277, R283, R289). -/
  | engine
  /-- The transfer of a GATE (R120). -/
  | gate (gate : Nat)
  /-- A service call (R311). -/
  | service (call : Nat)
  deriving DecidableEq, Repr

/-- The scheduling state of a path (Table 1.9). Active and Deferred are both `runnable`: the active path of a group
is the first Runnable one of its list (R24). -/
inductive PState where
  | runnable
  | inClause (ig : Nat)
  | waitReconv
  | waitCollective
  | waitGroup
  | waitBarrier (bar : Nat) (count : Option Nat)
  | parked (why : Park)
  deriving DecidableEq, Repr

/-- R171: a clause that a path has begun and will take up again: its header and the address after its last word. -/
structure Mid where
  hdr : Nat
  cls : Nat
  endPc : Nat
  yld : Bool
  /-- R182: CHECK as it stood when the clause began. -/
  chk : Bool
  deriving DecidableEq, Repr

/-- R23: a path entry of the convergence table. -/
structure Path where
  id : Nat
  g : GRef
  core : Nat
  quad : Nat
  pc : Nat
  /-- Member mask by %lane. -/
  mask : BitVec 64
  scopes : List Scope
  ctxLbl : Label
  state : PState
  /-- The cycle at which the path's age was 0 (R25). -/
  since : Nat
  promoted : Bool
  /-- R28: the last closed clause had the yield hint set. -/
  hint : Bool
  /-- The first cycle at which the stall of every member's previous instruction has elapsed (R181). -/
  readyAt : Nat
  mid : Option Mid
  /-- The set that a waiting path names (R37), by %lane; of a path parked at arrival counters, the lanes whose counter a write or a
  read at another station has shown at its goal (R305). -/
  named : BitVec 64
  /-- R36, R171, R210: the complete set, or the barrier generation, that the path belongs to: no other path joins its issue
  groups. A path of a set that has this name still waits, until its issue group opens. -/
  gateId : Option Nat
  /-- R294: 1 where the lanes have been checked and charged for the word at which they stand and issue it again; 2 where
  their LAUNCH has also taken its entries (R317); 3 where their GIVE or CLAIM has acted in the other quadrant of the group (R22). -/
  charged : Nat := 0
  deriving DecidableEq, Repr

/-- Where a global access goes after translation. -/
inductive Loc where
  /-- Device memory, by physical byte address. -/
  | mem (pa : Nat)
  /-- Host memory, by host byte address; `cxl` says whether CXL.cache reaches it. -/
  | host (ha : Nat) (cxl : Bool)
  /-- Another station's memory, by intermediate fabric address. -/
  | fab (station off : Nat)
  deriving DecidableEq, Repr

/-- What the second stage maps a guest-physical address to. -/
inductive Leaf where
  | phys (pa : Nat)
  | ifa (station off : Nat)
  deriving DecidableEq, Repr

/-- R372: an entry of a core's TLB: the translation of one page of a context. -/
structure TlbEntry where
  core : Nat
  part : Nat
  ctx : Nat
  /-- log₂ of the size of the page, the virtual and guest-physical addresses at which it begins, and what it maps to. -/
  log : Nat
  va : Nat
  gpa : Nat
  leaf : Leaf
  /-- Both stages permit writes. -/
  wr : Bool
  deriving DecidableEq, Repr

/-- One lane's access of a memory request. -/
structure Acc where
  t : TRef
  qlane : Nat
  va : DWord
  loc : Loc
  len : Nat
  data : List Byte
  cmp : List Byte
  lbl : Label
  /-- The frame labels that the lane's result reads (R110). -/
  rlbl : Label
  done : Bool
  old : List Byte
  gwct : DWord := 0
  /-- R100: transit time of the first refusal, the present interval in ns, and the time of the next retry. -/
  refused : Option DWord := none
  backoff : Nat := 0
  retryAt : DWord := 0
  /-- The stage run of the thread's team, which outlives it (R71, R107). -/
  run : Nat := 0
  /-- R324: the cycle in which the access reaches its coherence point, the cycles from there back to the core, and, once it has
  performed, the cycle in which its data or GWCT is back; 0 for an L1 hit. -/
  at_ : Nat := 0
  trip : Nat := 0
  back : Nat := 0
  /-- R96: no store or atomic of the core to the line has been issued since: the line that a load fetches may be kept. -/
  keep : Bool := true
  deriving DecidableEq, Repr

/-- R94: what holds an issue group at an instruction that has issued and is not complete. The word goes on when every
part has come true. -/
structure Hold where
  /-- Release fences: the thread and the scope (R92). -/
  rel : List (TRef × Nat) := []
  /-- Threads whose earlier loads must return (R93). -/
  loads : List TRef := []
  /-- WAITB: the thread and n (R272). -/
  batch : List (TRef × Nat) := []
  /-- MXFENCE: copies that must complete (R285). -/
  copies : List Nat := []
  /-- MXWAIT: the thread and the issues it observes (R285). -/
  mxs : List (TRef × List Nat) := []
  /-- CHWAIT: the thread and its chains (R291). -/
  chains : List (TRef × List Nat) := []
  /-- COPY, MXISSUE and CHAIN: the lanes whose command is accepted, with the Vat handle (R268, R283, R289). -/
  taken : List (TRef × Nat) := []
  /-- The engine (0 matrix unit, 1 Churn, 2 Streamer) and the core at which there is no room for the next lane. -/
  room : Option (Nat × Nat) := none
  /-- MXFENCE: writes with an earlier number are those that it orders (R285). -/
  mark : Nat := 0
  /-- R92, step 5: the pinned lines have been written back. -/
  flushed : Bool := false
  deriving DecidableEq, Repr

/-- An open issue group in a clause context (R26). -/
structure IssueGroup where
  id : Nat
  core : Nat
  quad : Nat
  part : Nat
  ctx : Nat
  stage : Nat
  cls : Nat
  hdr : Nat
  pc : Nat
  endPc : Nat
  yld : Bool
  formed : Nat
  /-- The first cycle at which the stall of the group's last instruction has elapsed. -/
  notBefore : Nat
  /-- R182: the paths whose checking scoreboard was on when their clause began. -/
  chk : List Nat
  /-- R94: what holds the group at the word that it has issued last. -/
  hold : Option Hold
  /-- R241: the cycle since which the group waits for transaction entries. -/
  heldAt : Option Nat := none
  /-- R36, R171, R210: the cycle in which the set completed whose threads the group holds; none for a group that ready paths
  have formed, whose threads wait at a convergence point that their clause opens with. -/
  setAt : Option Nat := none
  deriving DecidableEq, Repr

/-! ## Groups and teams -/

/-- A group's launch values and place (R15, R16, R20, R21). -/
structure Group where
  producer : Bool
  roleid : Nat
  rows : Nat
  core : Nat
  quad : Nat
  half : Nat
  row : Nat
  deriving DecidableEq, Repr

/-- R209: a barrier's generation in progress. -/
structure Barrier where
  gen : Nat := 0
  /-- The count that the first arrival of a BARP generation named. -/
  count : Option Nat := none
  deriving DecidableEq, Repr

/-- A record with its label, as it enters or leaves a queue (R49, R52). -/
structure Rec where
  bytes : List Byte
  lbl : Label
  /-- R52: it arrived over the fabric. -/
  mark : Bool := false
  deriving DecidableEq, Repr

/-- R70, R302: a launch record on its way to, or in, a launch queue. -/
structure LRec where
  bytes : List Byte
  lbl : Label
  mark : Bool := false
  part : Nat
  ctx : Nat
  stage : Nat
  /-- The stage run of its teams. -/
  run : Nat
  /-- R73: originator station, gang id and deadline of a gang packet. -/
  gang : Option (Nat × Word × DWord) := none
  /-- R355, R356: the launch slot that stays busy until a queue takes the record. -/
  slot : Option SlotKey := none
  seq : Word := 0
  deriving DecidableEq, Repr

/-- A pending-launch entry (R70): the team that holds it and its number 0 to 3. -/
structure PendLaunch where
  tid : Nat
  entry : Nat
  lr : LRec
  /-- The cycle in which the entry was taken (R316). -/
  at_ : Nat
  /-- It waits for room at the launch queue. -/
  waits : Bool
  deriving DecidableEq, Repr

/-- Where a team stands between launch and the freeing of its slot. -/
inductive TStatus where
  | resident
  /-- Being pre-empted by save or discard: no issue group forms; open clauses finish (R40). -/
  | stopping (discard : Bool)
  /-- R380: a relaunch image. -/
  | relaunch
  | saved
  /-- R71: no thread is live. -/
  | retiring
  deriving DecidableEq, Repr

/-- A team (R17 to R20, R41, R53). -/
structure Team where
  part : Nat
  ctx : Nat
  stage : Nat
  run : Nat
  /-- %team. -/
  team : Word
  width : Nat
  groups : Nat
  core : Nat
  /-- The odd core of a pair-spanning team. -/
  core2 : Option Nat
  slot : Nat
  slot2 : Option Nat
  status : TStatus
  /-- The transit time at which this residency began. -/
  began : DWord
  /-- R380: the transit time by which a drained team must have retired. -/
  drainBy : Option DWord
  progress : Bool
  fairx : Nat
  teamctlLbl : Label
  /-- R41: the cycle of the latest write of TEAMCTL, and what PROGRESS was before that cycle. -/
  progressWas : Option (Nat × Bool) := none
  check : Bool
  ckmodeLbl : Label
  clean : Bool
  chan : List DWord
  /-- R22, R310: free rows on the even and on the odd core. -/
  freeRows : List Nat
  bars : List Barrier
  /-- R297: records dealt so far. -/
  dealt : Nat
  /-- R381: the records first dealt, for a relaunch. -/
  first : List Rec
  /-- The launch record's PARAM and ARC, label and count (R61, R71). -/
  param : DWord
  arc : DWord
  launchLbl : Label
  count : Nat
  /-- R20: the producer group and the role map it was launched with. -/
  pgrp : Nat
  rolemap : List Nat
  /-- R280: handles on the Vat list, and released handles that wait for their MXISSUEs. -/
  vatFree : List Nat
  vatBack : List Nat
  /-- R315: the cycle of the last TEAMCTL write that asks for a promotion. -/
  promoteAt : Option Nat
  gang : Option (Nat × Word × DWord)
  /-- R418: a pre-emption chosen for it is under way. -/
  moving : Bool
  /-- R379: the transit time at which its save began, or at which it was saved, for the order of restores. -/
  savedAt : DWord
  /-- R100: the transit time at which a pinned line first refused the credit of the retiring team. -/
  creditAt : Option DWord := none
  /-- R71: step 4 of the retirement is done. -/
  credited : Bool := false
  /-- R383: a save of this residency found no room in the save area. -/
  noSave : Bool := false
  deriving DecidableEq, Repr

/-- R18, R71: a stage run. -/
structure Run where
  part : Nat
  ctx : Nat
  stage : Nat
  /-- Teams in all: none for a run without fixed count. -/
  total : Option Nat
  /-- The next %team. -/
  next : Word
  ended : Nat
  /-- Fabric stores not yet acknowledged. -/
  stores : Nat
  terminated : Bool
  reported : Bool
  arc : DWord
  deriving DecidableEq, Repr

/-! ## Results under way and memory requests -/

/-- One register write of an instruction's result. -/
structure RegWrite where
  t : TRef
  tile : Tile
  val : Word
  deriving DecidableEq, Repr

/-- The label that a write gives a tile (R34): replaced where the write covers every live thread. -/
structure LblWrite where
  g : GRef
  tile : Tile
  lbl : Label
  cover : Bool
  deriving DecidableEq, Repr

/-- A result that is written `due` cycles into the run (R179, R184), with the tokens that fall then (R180). -/
structure Pend where
  due : Nat
  writes : List RegWrite
  lbls : List LblWrite
  /-- Flags ORed into FSTAT (R148). -/
  flags : List (TRef × BitVec 8)
  /-- Labels of LINK, which each thread holds by itself (R202). -/
  links : List (TRef × Label)
  toks : List (TRef × Nat)
  deriving DecidableEq, Repr

/-- What a memory request does. -/
inductive ReqKind where
  | load
  /-- LEASE, which writes no register (R252). -/
  | lease
  /-- PREF: a refused or faulting lane is dropped (R253). -/
  | pref
  | store
  | atomic (aop : Nat) (wide uns : Bool)
  | cas (wide : Bool)
  | red (aop : Nat) (wide uns : Bool)
  | decdep (table : Nat)
  | arcinit
  | arcadd
  deriving DecidableEq, Repr

/-- A memory request of one instruction of one issue group (R241). -/
structure Req where
  id : Nat
  kind : ReqKind
  core : Nat
  quad : Nat
  part : Nat
  ctx : Nat
  pc : Nat
  word : Word
  scope : Nat
  /-- R244: a load that takes no lease. -/
  nl : Bool
  accs : List Acc
  /-- Destination tiles, and the size code by which bytes extend into them (Table 9.1). -/
  dst : List Tile
  sz : Nat
  tok : Nat
  /-- The groups that the write covers (R34). -/
  cover : List GRef
  /-- R241: the entries of the outstanding transaction table that it holds. -/
  ents : Nat
  /-- Every access has performed, and the response is under way. -/
  back : Bool
  due : Nat
  deriving DecidableEq, Repr

/-- R371: a resolvable report that no FQRES has settled. -/
structure Resolvable where
  token : Word
  fn : Nat
  tid : Nat
  /-- The chain that the fault holds, or none for parked lanes (R290). -/
  chain : Option Nat
  va : DWord
  gpa : DWord
  at_ : DWord
  code : Nat
  deriving DecidableEq, Repr

/-! ## Memory -/

/-- R366: a frame ownership entry. -/
structure Frame where
  /-- 0 Free, 1 Owned, 2 Scrubbing. -/
  state : Nat := 0
  owner : Nat := 0
  lbl : Label := 0
  deriving DecidableEq, Repr

/-- R368: frames on their way from Scrubbing to Free. -/
structure Scrub where
  id : Nat
  frames : List Nat
  at_ : DWord
  /-- The mailbox whose command waits for it: function, and whether the final status is 6 (R412). -/
  fn : Option Nat
  bad : Bool
  deriving DecidableEq, Repr

/-- A window of the partition onto host memory (R109, R117; assumption 6). -/
structure HostWin where
  part : Nat
  /-- First address in the partition's physical space, size, and host address. -/
  base : Nat
  size : Nat
  host : Nat
  cxl : Bool
  lbl : Label
  fn : Nat
  deriving DecidableEq, Repr

/-- Pin of an L1 line (R97). -/
structure Pin where
  tid : Nat
  level : Nat
  /-- The bytes written in the L1 since the last write-back, and the union of the labels that they were written with (R113, R118). -/
  mask : BitVec 128 := 0
  wlbl : Label := 0
  deriving DecidableEq, Repr

/-- A line of a core's L1 (R88). -/
structure L1Line where
  core : Nat
  part : Nat
  line : Loc
  bytes : List Byte
  expiry : DWord
  pin : Option Pin
  /-- The frame label of the line. -/
  lbl : Label
  deriving DecidableEq, Repr

/-- A scratchpad line's presence and label (R81). -/
structure SLine where
  p : Bool := true
  c : Nat := 0
  lbl : Label := 0
  deriving DecidableEq, Repr

/-! ## Engines -/

/-- A copy request record as read (R266). -/
structure CopyRec where
  src : DWord
  dst : DWord
  rows : Nat
  len : Nat
  spitch : Nat
  dpitch : Nat
  mask : Nat
  rel : Nat
  rsvd : Nat
  dkind : Nat
  skind : Nat
  deriving DecidableEq, Repr

/-- An accepted copy (R268). -/
structure Copy where
  id : Nat
  core : Nat
  t : TRef
  batch : Nat
  pc : Nat
  roff : Nat
  cr : CopyRec
  multi : Bool
  /-- Receiving teams (R270), or the issuing team alone. -/
  dests : List Nat
  /-- OSB reservation written. -/
  res : Option Nat
  lbl : Label
  /-- The next byte to move. -/
  row : Nat
  col : Nat
  gwct : DWord
  due : Nat
  /-- R268: the bytes of an overlapping copy are undefined. -/
  overlap : Bool
  /-- Fabric writes not yet acknowledged. -/
  wait : Nat
  refused : Option DWord
  backoff : Nat
  retryAt : DWord
  /-- Source bytes of the next piece that other stations have answered, by address. -/
  got : List (Nat × List Byte) := []
  /-- R330: the cycle in which the row that the port now moves began. -/
  turn : Option Nat := none
  deriving DecidableEq, Repr

/-- R271: a batch of a thread. -/
structure Batch where
  t : TRef
  n : Nat
  sealed : Bool
  /-- Copies not yet complete. -/
  open_ : Nat
  gwct : DWord
  deriving DecidableEq, Repr

/-- An OSB reservation (R273, R275). -/
structure Osb where
  id : Nat
  core : Nat
  part : Nat
  tid : Nat
  handle : Nat
  rows : Nat
  klen : Nat
  fmt : Nat
  asc : Bool
  units : Nat
  bytes : List (Nat × Byte)
  lbl : Label
  released : Bool
  /-- R285: what stood in the bytes that no MXFENCE has ordered since they were written, and the number of the last write. -/
  olds : Map Nat (Byte × Nat) := []
  deriving DecidableEq, Repr

/-- A plate of a team (R276, R277). -/
structure Plate where
  src : DWord
  desc : Word
  /-- Marked loaded; the contents follow when the load completes. -/
  loaded : Bool
  bytes : List Byte
  scales : List Byte
  lbl : Label
  load : Option Nat
  /-- The descriptor of the contents, which a new load replaces with them (R277). -/
  form : Word := 0
  /-- The operand and context labels of the PLLOAD (R277, R279). -/
  opLbl : Label := 0
  /-- R278: a PLFREE waits for the issues that name the plate. -/
  drop : Bool := false
  deriving DecidableEq, Repr

/-- A plate load under way (R277, R279). -/
structure PlateLoad where
  id : Nat
  core : Nat
  tid : Nat
  /-- The issuing thread and its token, none for the reload of a restore. -/
  t : Option TRef
  tok : Nat
  plate : Nat
  src : DWord
  desc : Word
  lbl : Label
  pc : Nat
  /-- R329: the cycle in which its bytes have been read; none before it proceeds. -/
  due : Option Nat
  /-- Bytes of its chunks that other stations have answered (R269). -/
  got : List (Nat × List Byte)
  refused : Option DWord
  backoff : Nat
  retryAt : DWord
  deriving DecidableEq, Repr

/-- An accepted matrix issue (R281 to R285). -/
structure Mx where
  id : Nat
  core : Nat
  tid : Nat
  t : TRef
  slot : Nat
  res : Nat
  drow : Nat
  rows : Nat
  ovw : Bool
  pmask : Nat
  arow : Nat
  ak0 : Nat
  lbl : Label
  at_ : Nat
  due : Option Nat
  done : Bool
  flags : BitVec 8
  slotLbl : Label
  /-- R102: the slot's label when the result entered it. -/
  oldLbl : Label := 0
  /-- R102: Vat elements and OSB bytes written inside the window. -/
  dirty : List Nat
  /-- Some MXWAIT has observed it. -/
  seen : List TRef
  closed : Bool
  deriving DecidableEq, Repr

/-- An operation of a chain (Table 10.7). -/
structure ChainOp where
  kv : Word
  selc : Nat
  selb : Nat
  sela : Nat
  ftz : Bool
  rm : Nat
  fn : Nat
  deriving DecidableEq, Repr

/-- A tensor iterator (Table 10.9). -/
structure Iter where
  base : DWord
  ftz : Bool
  rm : Nat
  ndim : Nat
  bcast : Nat
  scratch : Bool
  fmt : Nat
  size : List Nat
  str : List Int
  idx : List Nat
  deriving DecidableEq, Repr

/-- The outputs of a chain's element that are computed and not yet written: the output's number and its code (R289). -/
structure ChElem where
  todo : List (Nat × Nat)
  flags : BitVec 8
  lbl : Label
  deriving DecidableEq, Repr

/-- An accepted chain (R289, R290). -/
structure Chain where
  id : Nat
  core : Nat
  t : TRef
  pc : Nat
  roff : Nat
  ops : List ChainOp
  ins : List Iter
  outs : List Iter
  sel0 : Nat
  sel1 : Nat
  lbl : Label
  /-- The index vector of the next element; none when every element has been written. -/
  at_ : Option (List Nat)
  flags : BitVec 8
  gwct : DWord
  /-- R331: the cycle from which the Churn can start it. -/
  start : Nat
  /-- R331: the cycle in which the step under way ends, and the elements of it that are left. -/
  due : Option Nat
  left : Nat
  /-- The element under way, when it is computed. -/
  elem : Option ChElem
  /-- R290: the token of the translation fault that holds it. -/
  held : Option Word
  /-- The held element restarts: it is undefined where its output aliases its inputs. -/
  again : Bool
  /-- The union of the labels of the elements written, for the flags (R111). -/
  resLbl : Label
  done : Bool
  refused : Option DWord
  backoff : Nat
  retryAt : DWord
  /-- Element bytes that other stations have answered, by address. -/
  got : List (Nat × List Byte)
  /-- Fabric writes not yet acknowledged. -/
  wait : Nat
  deriving DecidableEq, Repr

/-- A transfer of a GATE under way (R120). -/
structure GateXfer where
  id : Nat
  t : TRef
  src : Nat
  dst : Nat
  n : Nat
  dslot : Nat
  due : Nat
  gwct : DWord
  /-- Bytes copied so far. -/
  moved : Nat
  /-- Source bytes that other stations have answered, by offset. -/
  got : List (Nat × List Byte)
  refused : Option DWord
  backoff : Nat
  deriving DecidableEq, Repr

/-- A service call at the Parlour (R311, R377). -/
structure Call where
  id : Nat
  t : TRef
  service : Word
  arg : DWord
  lbl : Label
  due : DWord
  /-- The Parlour's answer. -/
  status : Option Word
  deriving DecidableEq, Repr

/-! ## Graphs and queues -/

/-- A stage descriptor as installed (Table 18.4). -/
structure Stage where
  inkind : Nat
  inidx : Nat
  outs : List Nat
  width : Nat
  groups : Nat
  rows : Nat
  spare : Nat
  depthmax : Nat
  weight : Nat
  pln : Nat
  regu : Nat
  scru : Nat
  vatu : Nat
  l1u : Nat
  batchwait : Nat
  check : Bool
  fairx : Nat
  progress : Bool
  entry : Nat
  ientry : Nat
  traph : Nat
  inl : Bool
  irows : Nat
  hasRec : Bool
  recbase : Nat
  stkbase : Nat
  stksz : Nat
  jrole : List Nat
  chan : List DWord
  dpgrp : Nat
  drolemap : List Nat
  const : List Byte
  constLbl : Label
  desc : List Byte
  deriving DecidableEq, Repr

/-- A task table (R299). -/
structure TTab where
  base : DWord
  count : Nat
  queue : Nat
  deriving DecidableEq, Repr

/-- A context's installed graph with its translation root (R361). -/
structure Context where
  root : Option Nat
  code : List Word
  stages : Map Nat Stage
  ttabs : Map Nat TTab
  deriving DecidableEq, Repr

/-- A record that holds a position in a queue (R49). -/
structure QRec where
  pos : Nat
  r : Rec
  at_ : DWord
  launch : Option LRec
  /-- Teams of a launch record not yet launched. -/
  left : Nat
  deriving DecidableEq, Repr

/-- An addition that waits at a queue's home (R51, R319, R406), in order. -/
inductive Waiter where
  /-- A parked ENQ path. -/
  | path (pid : Nat) (at_ : DWord)
  /-- A released task (R65). -/
  | task (prio : Nat) (rec : Rec)
  /-- Records from the fabric, with the station, request and whether a RENQACK is due. -/
  | fabric (recs : List Rec) (station : Nat) (part : Nat) (req : Word) (fwd : Bool)
  /-- A record that the Parlour holds for mailbox `box` (R376). -/
  | mail (box : Nat) (rec : Rec)
  /-- A launch record (R316, R355). -/
  | launch (rec : LRec) (entry : Option (Nat × Nat)) (slot : Option SlotKey)
  deriving DecidableEq, Repr

/-- A queue (R47 to R51, R65), one pair of lists for each priority of a ready queue. -/
structure Queue where
  kind : Nat
  rsz : Nat
  ring : Nat
  cellarQuota : Nat
  weight : Nat
  theta : Nat
  burst : Nat
  ceil : Label
  hstation : Nat
  hqueue : Nat
  slice : Nat
  next : Nat
  rings : List (List QRec)
  cellars : List (List QRec)
  waiting : List Waiter
  /-- R428: the cycle at which the next refill step returns. -/
  refill : Option Nat
  /-- R316: the cycle of the latest acceptance of a launch record, and one more. -/
  accepted : Nat := 0
  deriving DecidableEq, Repr

/-- R57: a published length. -/
structure Pub where
  len : Nat := 0
  pressed : Bool := false
  park : DWord := 0
  deriving DecidableEq, Repr

/-! ## Partitions -/

/-- R374: a fabric MMU window, as its 48-byte descriptor gives it. -/
structure FabWin where
  ifabase : Nat
  size : Nat
  gpabase : Nat
  valid : Bool
  rd : Bool
  wr : Bool
  tpart : Nat
  spart : Nat
  sstation : Nat
  arc : Nat
  deriving DecidableEq, Repr

/-- R123: a mesh. -/
structure Mesh where
  sizes : List Nat
  stations : List Nat
  deriving DecidableEq, Repr

/-- R124: a placement entry, with its conversion counter (R129). -/
structure Place where
  epoch : Nat
  fmt : Nat
  mesh : Nat
  ndim : Nat
  busy : Bool
  state : Word
  ext : List Nat
  base : Nat
  /-- Frames of the shard. -/
  frames : List Nat
  lbl : Label
  count : Nat
  goal : Nat
  deriving DecidableEq, Repr

/-- A PLDEM request at the home (R127). -/
structure PReq where
  station : Nat
  demand : Word
  lbl : Label
  /-- The paths of this station that wait for it. -/
  pids : List Nat
  deriving DecidableEq, Repr

/-- A conversion under way at this station (R128, R405). -/
structure Conv where
  part : Nat
  entry : Nat
  conv : Word
  demand : Word
  home : Bool
  /-- Requests merged into it (home only). -/
  reqs : List PReq
  /-- Stations whose shard is complete (home only). -/
  ready : List Nat
  /-- R128, step 2: the new shard here, once it is allocated. -/
  base : Nat
  lbl : Label
  frames : List Nat
  /-- R405: bytes expected from other stations, and received. -/
  expect : Nat
  got : Nat
  /-- Bytes of the old shards of other stations that the Collimator has read: position, offset and bytes. -/
  read : List (Nat × Nat × List Byte)
  /-- PREADY with STATUS 0 has been answered. -/
  answered : Bool
  deriving DecidableEq, Repr

/-- A partition's grants and controls. -/
structure Part where
  lease : Nat := 500
  grant : Label := 0
  corelim : Map Nat DWord := []
  hbm : Nat := 0
  chans : Nat := 0
  slices : List Nat := []
  s2root : Option Nat := none
  ctxs : Map Nat Context := []
  meth : Nat := 7
  dl : Nat := 20000
  saveBase : Nat := 0
  saveSize : Nat := 0
  saveUsed : List (Nat × Nat × Nat) := []
  wins : Map Nat FabWin := []
  plSize : Nat := 0
  plwin : DWord := 0
  poolSize : Nat := 0
  poolFrames : List Nat := []
  meshes : Map Nat Mesh := []
  places : Map Nat Place := []
  ports : Nat := 0
  fwdper : Nat := 256
  phase : Nat := 0
  acl : Map Nat DWord := []
  /-- R401: receive-slot minima by port. -/
  rxmin : Map Nat Nat := []
  /-- R379: mean residency by stage and cluster. -/
  mean : Map (Nat × Nat × Nat) Nat := []
  /-- R405: the CONV number of the next conversion that this station starts. -/
  convNext : Word := 1
  /-- R413: the LL at which every line of the partition starts after a change of its slices. -/
  llFloor : DWord := 0
  deriving DecidableEq, Repr

/-! ## Host interface -/

/-- A launch slot's processing state (R355). -/
structure LSlot where
  bytes : List (Nat × Byte) := []
  /-- R118, R356: the label that the latest write of each byte carried. -/
  lbls : List (Nat × Label) := []
  busy : Bool := false
  /-- The SEQ awaited and the transit time at which the wait ends. -/
  wait : Option (Word × DWord) := none
  last : Option Word := none
  /-- R356: source station and partition of the notify. -/
  src : Option (Nat × Nat) := none
  /-- R357: LMAX of the access-control entry that admitted the notify. -/
  adm : Option Label := none
  deriving DecidableEq, Repr

/-- A function's registers (Tables 19.3, 20.1, 21.1). Function 0 is the PF. -/
structure Fn where
  hifdrv : Word := 0
  hifsel : Word := 0
  apbase : DWord := 0
  lerr : DWord := 0
  fqbase : DWord := 0
  fqlog : Nat := 0
  head : Word := 0
  tail : Word := 0
  lost : Word := 0
  ftmo : Nat := 10
  written : Nat := 0
  mbcmd : List (Nat × Byte) := []
  mbbusy : Bool := false
  mbcode : Nat := 0
  cfgcmd : List (Nat × Byte) := []
  cfgbusy : Bool := false
  cfgcode : Nat := 0
  /-- VFCTL (PF holds them by VF; here in the VF's own record). -/
  vfctl : Nat := 30
  barLog : Nat := 30
  enabled : Bool := false
  /-- R359: the scrub that ends the reset of the VF. -/
  resetting : Option Nat := none
  /-- The partition that the function is bound to (R361). -/
  part : Option Nat := none
  /-- R392: the slot of its principal. -/
  slot : Option Nat := none
  /-- MSI-X vectors raised, newest first. -/
  msix : List Nat := []
  deriving DecidableEq, Repr

/-- A Parlour command that has begun and is not complete (R362). -/
inductive PWait where
  /-- R379: the function, the partition and the core, or none for every core. -/
  | evict (fn part : Nat) (core : Option Nat)
  /-- R373: the function and the partition; the requests and UALink requests that were made before it are numbered below these. -/
  | inval (fn part req tag : Nat)
  deriving DecidableEq, Repr

/-- What the device answers to a host access, in order (R351, R352). -/
structure HostReply where
  fn : Nat
  tag : Nat
  /-- Data of a served read; none for a Completer Abort or Unsupported Request. -/
  data : Option (List Byte)
  deriving DecidableEq, Repr

/-! ## SEP and operator -/

/-- An installed release policy (R119). -/
structure Policy where
  id : Nat
  lset : Label
  dslot : Nat
  dkind : Nat
  notafter : DWord
  remain : DWord
  bytes : List Byte
  deriving DecidableEq, Repr

/-- An entry of the extension log (R424). -/
structure MeasEntry where
  reg : Nat
  slot : Nat
  policy : Nat
  digest : List Byte
  deriving DecidableEq, Repr

/-- An error-log entry (Table 22.3). -/
structure ErrEntry where
  seq : Word
  unit : Word
  time : DWord
  event : Nat
  part : Nat
  nopart : Bool
  count : Nat
  addr : DWord
  deriving DecidableEq, Repr

/-- Boot state (R387, R388). -/
structure Boot where
  /-- A start is in progress. -/
  starting : Bool
  stage : Nat
  fails : Nat
  reason : Nat
  minimal : Bool
  /-- The transit time by which the present stage must complete. -/
  bound : DWord
  /-- The latest start has failed, and the module waits for a reset. -/
  failed : Bool
  deriving DecidableEq, Repr

/-- A survey under way (R409, R412, R413). -/
structure Survey where
  unit : Word
  /-- The self-test or hold ends within 1 ms of this time; none while a core still holds teams. -/
  at_ : Option DWord
  addr : Nat
  deriving DecidableEq, Repr

/-! ## Fabric -/

/-- A fabric port (R399, R400). -/
structure Port where
  st : Nat := 0
  cause : Nat := 0
  major : Nat := 0
  minor : Nat := 0
  far : Nat := 0
  retired : Bool := false
  /-- The arrival time of the partner's latest CLOCK. -/
  clk : DWord := 0
  /-- When this station sent its CLOCKs since the step 5 of the port began, oldest first. -/
  sents : List DWord := []
  /-- R399: a HELLO that came before this station's LINKUP: station and version range. -/
  early : Option (Nat × Word) := none
  deriving DecidableEq, Repr

/-- A fabric-extension message sent, with its body (R404). -/
structure OutMsg where
  typ : Nat
  tpart : Nat
  spart : Nat
  tstation : Nat
  time : DWord
  body : List Byte
  /-- The port of a message that belongs to one port (HELLO, CLOCK). -/
  port : Option Nat := none
  deriving DecidableEq, Repr

/-- Who waits for a UALink response (R403). -/
inductive FabWho where
  | req (req : Nat) (acc : Nat)
  /-- A copy: the address that it reads, or 0 for a write. -/
  | copy (copy addr : Nat)
  | plate (load chunk : Nat)
  /-- A chain: the address that it reads, or 0 for a write. -/
  | chain (chain addr : Nat)
  /-- A chunk of the source of a GATE, by its offset, or a write of one. -/
  | gate (gate chunk : Nat)
  | conv (part entry : Nat)
  | slot
  /-- R305: a thread's read of an arrival counter at another station. -/
  | arc (t : TRef)
  /-- The write-back of a pinned line of a team (R98). -/
  | pinned (tid : Nat)
  deriving DecidableEq, Repr

/-- No port. -/
def noPort : Nat := 255

/-- A UALink request sent and not yet answered (R402). -/
structure OutReq where
  tag : Nat
  station : Nat
  /-- The port that it left by; `noPort` where none was active (R400). -/
  port : Nat
  off : Nat
  kind : Nat
  part : Nat
  ctx : Nat
  run : Nat
  scope : Nat
  nolease : Bool
  lbl : Label
  len : Nat
  data : List Byte
  aop : Nat
  wide : Bool
  uns : Bool
  cmp : DWord
  ops : List DWord
  who : FabWho
  reissued : Bool
  /-- R100: transit time of the first RETRY, the present interval in ns, and the time of the next try. -/
  refused : Option DWord := none
  backoff : Nat := 0
  retryAt : DWord := 0
  deriving DecidableEq, Repr

/-- A RENQ request of this station that its target has not answered (R295, R318, R406). -/
structure OutRenq where
  req : Word
  /-- The local queue (the distributed copy for a burst). -/
  q : QKey
  part : Nat
  ctx : Nat
  station : Nat
  queue : Nat
  /-- The paths that wait for positions; none for a burst. -/
  pids : List Nat
  toks : List (TRef × Nat)
  recs : List Rec
  fwd : Bool
  port : Nat
  deriving DecidableEq, Repr

/-- A command prepared over several stations (R396, R397). -/
structure Prep where
  id : Word
  op : Nat
  fn : Option Nat
  part : Nat
  origin : Nat
  arg0 : Word
  body : List Byte
  waiting : List Nat
  /-- The frames that a vote for PLINSTALL holds for the shard. -/
  frames : List Nat
  deriving DecidableEq, Repr

/-- R358: a gang at this station. -/
structure Gang where
  id : Word
  origin : Nat
  deadline : DWord
  /-- Originator: the listed stations and those that acknowledged in time. -/
  members : List Nat
  acked : List Nat
  /-- Its own packet has been accepted. -/
  accepted : Bool
  aborted : Bool
  /-- R358: every listed station acknowledged by the deadline. -/
  held : Bool
  part : Nat
  ctx : Nat
  /-- The packets still arriving are discarded, and the id kept, until this time. -/
  keep : DWord
  deriving DecidableEq, Repr

/-! ## The machine state -/

/-- Clocks, and the model's own scheduling of steps (assumptions 1 and 2). -/
structure Clk where
  cycle : Nat
  tclk : DWord
  tfrac : Nat
  free : Nat
  fresh : Nat
  cur : Option Nat
  todo : List (Nat × Nat)
  inputs : List (DWord × Instr)
  deriving DecidableEq, Repr

/-- Registers, labels and scratchpads of the teams. -/
structure Regs where
  v : Map (TRef × Nat) Word
  s : Map (GRef × Nat) Word
  m : Map (TRef × Nat) Bool
  lbl : Map (GRef × Tile) Label
  thr : Map TRef Thread
  scr : Map (Nat × Nat) Byte
  sline : Map (Nat × Nat) SLine
  vat : Map (Nat × Nat × Nat) Word
  vatLbl : Map (Nat × Nat) Label
  /-- R285: what stood in the Vat words that no MXFENCE has ordered since a VTWR wrote them, and the number of the last one. -/
  vatOld : Map (Nat × Nat × Nat) (Word × Nat)
  deriving DecidableEq, Repr

/-- Teams, paths and issue groups. -/
structure Sched where
  teams : Map Nat Team
  groups : Map GRef Group
  paths : List Path
  igs : List IssueGroup
  runs : Map Nat Run
  pend : List Pend
  pendL : List PendLaunch
  /-- R317: the record copies of lanes parked at LAUNCH, in the order in which they take entries. -/
  lcopies : List (TRef × LRec)
  busy : Map (Nat × Nat × Nat) Nat
  /-- Cores that make no slot decision while surveyed, and quadrants' last formations. -/
  dropped : List (Nat × Nat × Nat)
  resolv : List Resolvable
  nextToken : Word
  /-- R57: a core's own subtractions from its view, and R60 counts found. -/
  sub : Map (Nat × QKey) Nat
  completions : List (Nat × Bool)
  /-- R325: the scratchpad passes that are booked: core, cycle and the core and quadrant of the instruction. -/
  passes : List (Nat × Nat × Nat × Nat)
  deriving DecidableEq, Repr

/-- Memory of the module and what is on its way to it. -/
structure Mem where
  mem : List Host.Cell
  host : List Host.Cell
  ll : Map Loc DWord
  l1 : List L1Line
  frames : Map Nat Frame
  scrubs : List Scrub
  wins : List HostWin
  reqs : List Req
  /-- 64-byte blocks that read as uncorrectable (R412), and frames of unspared rows. -/
  bad : List Nat
  unspared : List Nat
  /-- R128: physical lines of old shards that are read-only. -/
  readonly : List (Nat × Nat)
  /-- Table 4.1: the labels of the mappings of other stations' memory, by station and 64 KiB page; empty where none is named. -/
  fabLbl : Map (Nat × Nat) Label
  /-- R372: the TLBs of the cores. -/
  tlb : List TlbEntry
  /-- R77, R324: the lines that each L2 slice holds, oldest first, each with the cycle from which it is filled. -/
  l2 : Map Nat (List (Nat × Nat))
  deriving DecidableEq, Repr

/-- Engines of the cores. -/
structure Eng where
  copies : List Copy
  batches : List Batch
  osbs : List Osb
  plates : Map (Nat × Nat) Plate
  loads : List PlateLoad
  mxs : List Mx
  chains : List Chain
  /-- R330: of a core's Streamer port, the cycle from which it is free, and the copy that had the last row. -/
  ports : Map Nat (Nat × Nat)
  gates : List GateXfer
  calls : List Call
  deriving DecidableEq, Repr

/-- Graph-side structures. -/
structure Graph where
  parts : Map Nat Part
  queues : Map QKey Queue
  near : Map QKey Pub
  far : Map QKey Pub
  remote : Map (Nat × Nat × Nat) Pub
  /-- Table 20.7: the Parlour's filter entries. -/
  boxes : Map Nat DWord
  /-- R57: the instants of the latest publications within a die, within the package and to other stations. -/
  pubAt : DWord
  farAt : DWord
  remAt : DWord
  convs : List Conv
  preqs : List (Nat × Nat × PReq)
  renqs : List OutRenq
  /-- R318: the latest forwarding decision of a partition's port. -/
  fwd : Map (Nat × Nat) DWord
  /-- R318: the transit time by which the last record of a port's latest burst has left the port. -/
  sent : Map Nat DWord
  /-- R57, R332: lengths that the cores of the other dies of the package have had since the latest publication within the package. -/
  early : Map QKey Pub
  deriving DecidableEq, Repr

/-- Host interface. -/
structure HostIf where
  fns : Map Nat Fn
  slots : Map SlotKey LSlot
  /-- Doorbells of the Parlour mailbox and of the configuration mailbox, in order. -/
  parlourQ : List Instr
  cfgQ : List Instr
  replies : List HostReply
  /-- The Parlour command under way. -/
  pwait : Option PWait
  /-- R100: host accesses that a pinned line refuses: the time of the first refusal, and the present interval in ns. -/
  refused : List (Nat × HostAccess × DWord × Nat)
  deriving DecidableEq, Repr

/-- SEP, fabric and operator functions. -/
structure Sys where
  boot : Boot
  /-- R389: images stored since the module was made, by measurement register: version and digest. -/
  images : Map Nat (Word × List Byte)
  /-- Table 21.5: the versions of the running images. -/
  fwver : List Word
  meas : List (List Byte)
  measLog : List MeasEntry
  slots : Map Nat (Nat × Nat)
  policies : List Policy
  retired : List Word
  log : List ErrEntry
  logSeq : Word
  station : Nat
  ports : Map Nat Port
  msgs : List OutMsg
  reqs : List OutReq
  tag : Nat
  /-- UALink responses sent, with the station of each (R402). -/
  resps : List (Nat × FabResp)
  preps : List Prep
  gangs : List Gang
  pwrcap : Nat
  tmig : Nat
  minres : Nat
  power : Nat
  clock : List Nat
  tdie : List Int
  thbm : List Int
  hot : List Nat
  slow : List Nat
  counts : List Nat
  /-- R407: the transit times of the corrected errors of the last second, by unit, latest first. -/
  perSec : Map Word (List DWord)
  surveys : List Survey
  spares : Nat
  /-- R415, R418: the transit times at which the latest 1 ms window ended and the latest choice of migrations was made. -/
  winAt : DWord
  migAt : DWord
  /-- R399: the function and the ports that a LINKUP still waits for. -/
  linkups : List (Nat × Nat)
  /-- R390: attestation reports received, with their stations. -/
  reports : List (Nat × List Byte)
  deriving DecidableEq, Repr

/-- The state of the module. -/
structure State where
  clk : Clk
  r : Regs
  sch : Sched
  m : Mem
  e : Eng
  gr : Graph
  h : HostIf
  y : Sys
  deriving DecidableEq, Repr

/-- Why a step can stop with a fault. -/
inductive Fault where
  /-- Raised by the meaning of an instruction word when no issue group is selected, which no run of `step` reaches,
  since `step` runs a word only for the issue group that it has selected. Safe: the machine stops where the spec
  says nothing. -/
  | noIssueGroup
  deriving DecidableEq, Repr

/-- Why a step can be refused. -/
inductive Refusal where
  /-- Raised by an arm of `exec` whose instruction has no meaning yet. Safe: the machine stops where the hardware
  goes on. -/
  | notModelled (mnemonic : String)
  deriving DecidableEq, Repr

/-- The module right after reset, before boot stage 1: every frame Free and zero, the slot, policy and placement tables
empty, no team, and the registers at the reset values of their tables (assumptions 3 to 9 name the values that the spec
does not give). -/
def State.reset : State where
  clk := { cycle := 0, tclk := 0, tfrac := 0, free := 0, fresh := 1, cur := none, todo := [], inputs := [] }
  r := { v := [], s := [], m := [], lbl := [], thr := [], scr := [], sline := [], vat := [], vatLbl := [], vatOld := [] }
  sch := { teams := [], groups := [], paths := [], igs := [], runs := [], pend := [], pendL := [], lcopies := [], busy := [],
           dropped := [], resolv := [], nextToken := 1, sub := [], completions := [], passes := [] }
  m := { mem := [], host := [], ll := [], l1 := [], frames := [], scrubs := [], wins := [], reqs := [], bad := [],
         unspared := [], readonly := [], fabLbl := [], tlb := [], l2 := [] }
  e := { copies := [], batches := [], osbs := [], plates := [], loads := [], mxs := [], chains := [], ports := [], gates := [],
         calls := [] }
  gr := { parts := [], queues := [], near := [], far := [], remote := [], boxes := [], pubAt := 0, farAt := 0, remAt := 0, convs := [], preqs := [],
          renqs := [], fwd := [], sent := [], early := [] }
  h := { fns := [], slots := [], parlourQ := [], cfgQ := [], replies := [], pwait := none, refused := [] }
  y := { boot := { starting := false, stage := 0, fails := 0, reason := 0, minimal := false, bound := 0, failed := false },
         images := [], fwver := List.replicate 6 0, meas := List.replicate 8 (List.replicate 48 0), measLog := [], slots := [], policies := [],
         retired := [], log := [], logSeq := 0, station := 0x3FF, ports := [], msgs := [], reqs := [], tag := 0, resps := [],
         preps := [], gangs := [], pwrcap := 3600, tmig := 95, minres := 2000, power := 0,
         clock := List.replicate 8 1300, tdie := List.replicate 10 25, thbm := List.replicate 12 25, hot := [],
         slow := [], counts := List.replicate 8 0, perSec := [], surveys := [], spares := 0, winAt := 0, migAt := 0, linkups := [],
         reports := [] }

end Sys2Proof.Machine
end

