-- ==== Sys2Proof/Machine/Ops.lean ====
section
/-! DEFINITION. The named operations over registers, labels, memory cells, paths and teams, and the one operation by
which a team takes a precise fault: its report is written and the team is terminated (R39, R384). -/

namespace Sys2Proof.Machine

open Sys2Proof

/-! ## Small helpers -/

/-- Insert into a list sorted by a key, after entries of equal key. -/
def insertBy {α : Type} (key : α → Nat) (x : α) : List α → List α
  | [] => [x]
  | y :: ys => if key x < key y then x :: y :: ys else y :: insertBy key x ys

/-- Sort by a key, keeping the order of equal keys. -/
def sortBy {α : Type} (key : α → Nat) (xs : List α) : List α := xs.foldl (fun acc x => insertBy key x acc) []

/-- Keep the first of every run of equal things. -/
def dedup {α : Type} [DecidableEq α] (xs : List α) : List α :=
  (xs.foldl (fun acc x => if acc.contains x then acc else x :: acc) []).reverse

/-- The element with the least key, the first on ties. -/
def minBy? {α : Type} (key : α → Nat) : List α → Option α
  | [] => none
  | x :: xs =>
    match minBy? key xs with
    | none => some x
    | some y => if key y < key x then some y else some x

/-- Change the element of a list at a place. -/
def setAt {α : Type} (xs : List α) (i : Nat) (f : α → α) : List α := xs.modify i f

/-- R4: the number that bytes hold, lowest address first. -/
def leNat : List Byte → Nat
  | [] => 0
  | b :: bs => b.toNat + 256 * leNat bs

/-- R4: the `n` bytes of a number, lowest address first. -/
def natLE : Nat → Nat → List Byte
  | 0, _ => []
  | n + 1, x => BitVec.ofNat 8 x :: natLE n (x / 256)

/-- Bits [lo + n - 1 : lo] of a number. -/
def bitsOf (x lo n : Nat) : Nat := (x >>> lo) % 2 ^ n

/-- The lanes of a mask in ascending order. -/
def lanesOf (m : BitVec 64) : List Nat := (List.range 64).filter fun i => m.getLsbD i

/-- The mask of a list of lanes. -/
def maskOf (ls : List Nat) : BitVec 64 := ls.foldl (fun m i => m ||| (1 : BitVec 64) <<< i) 0

/-- Number of bits set. -/
def popcount (m : BitVec 64) : Nat := (lanesOf m).length

/-! ## Memory cells in canonical form -/

/-- The byte at an address; an address that the list does not hold reads as 0. -/
def cget : List Host.Cell → Nat → Byte
  | [], _ => 0
  | (a', b) :: m, a => if a' = a then b else if a < a' then 0 else cget m a

/-- Write one byte, keeping addresses rising and no entry 0. -/
def cset : List Host.Cell → Nat → Byte → List Host.Cell
  | [], a, b => if b = 0 then [] else [(a, b)]
  | (a', b') :: m, a, b =>
    if a < a' then (if b = 0 then (a', b') :: m else (a, b) :: (a', b') :: m)
    else if a = a' then (if b = 0 then m else (a, b) :: m)
    else (a', b') :: cset m a b

/-- The canonical form: addresses strictly rise from `lo` and no entry is 0. -/
def cwfFrom : Nat → List Host.Cell → Bool
  | _, [] => true
  | lo, (a, b) :: m => decide (lo ≤ a) && decide (b ≠ 0) && cwfFrom (a + 1) m

/-- The canonical form of memory. -/
def Memory.wf (m : List Host.Cell) : Bool := cwfFrom 0 m

/-- Read `n` bytes. -/
def creads (m : List Host.Cell) (a : Nat) : Nat → List Byte
  | 0 => []
  | n + 1 => cget m a :: creads m (a + 1) n

/-- Write bytes from an address upwards. -/
def csets (m : List Host.Cell) (a : Nat) : List Byte → List Host.Cell
  | [] => m
  | b :: bs => csets (cset m a b) (a + 1) bs

/-! ## Free values -/

/-- R8: draw a fresh undefined word. -/
def State.freeWord (s : State) : Word × State :=
  (Config.freeWord s.clk.free, { s with clk.free := s.clk.free + 1 })

/-- Draw `n` fresh undefined words. -/
def State.freeWords (s : State) (n : Nat) : List Word × State :=
  ((List.range n).map fun i => Config.freeWord (s.clk.free + i), { s with clk.free := s.clk.free + n })

/-- A fresh handle of the model. -/
def State.freshId (s : State) : Nat × State := (s.clk.fresh, { s with clk.fresh := s.clk.fresh + 1 })

/-! ## Threads, registers and tiles -/

def State.thr (s : State) (t : TRef) : Thread := mget {} s.r.thr t
def State.setThr (s : State) (t : TRef) (f : Thread → Thread) : State :=
  { s with r.thr := mset s.r.thr t (f (s.thr t)) }
def State.team? (s : State) (tid : Nat) : Option Team := mget? s.sch.teams tid
def State.setTeam (s : State) (tid : Nat) (f : Team → Team) : State :=
  match s.team? tid with
  | some t => { s with sch.teams := mset s.sch.teams tid (f t) }
  | none => s
def State.group? (s : State) (g : GRef) : Option Group := mget? s.sch.groups g
def State.setGroup (s : State) (g : GRef) (f : Group → Group) : State :=
  match s.group? g with
  | some x => { s with sch.groups := mset s.sch.groups g (f x) }
  | none => s
def State.part (s : State) (p : Nat) : Part := mget {} s.gr.parts p
def State.setPart (s : State) (p : Nat) (f : Part → Part) : State :=
  { s with gr.parts := mset s.gr.parts p (f (s.part p)) }
def State.fn (s : State) (n : Nat) : Fn := mget {} s.h.fns n
def State.setFn (s : State) (n : Nat) (f : Fn → Fn) : State := { s with h.fns := mset s.h.fns n (f (s.fn n)) }
def State.ctx? (s : State) (p c : Nat) : Option Context := mget? (s.part p).ctxs c
def State.stage? (s : State) (p c st : Nat) : Option Stage := (s.ctx? p c).bind fun x => mget? x.stages st
def State.stageOf (s : State) (t : Team) : Option Stage := s.stage? t.part t.ctx t.stage

/-- R41: PROGRESS as it governs promotion in a cycle: a write governs from the next cycle. -/
def Team.progressAt (t : Team) (cycle : Nat) : Bool :=
  match t.progressWas with
  | some (c, p) => if c = cycle then p else t.progress
  | none => t.progress

/-- R21: REGS, the accessible v registers of a group. -/
def State.regs (s : State) (g : GRef) : Nat := match s.group? g with | some x => 8 * x.rows | none => 128

def State.vGet (s : State) (t : TRef) (n : Nat) : Word := mget 0 s.r.v (t, n)
def State.sGet (s : State) (g : GRef) (n : Nat) : Word := mget 0 s.r.s (g, n)
/-- m7 is hard-wired true (R9). -/
def State.mGet (s : State) (t : TRef) (n : Nat) : Bool := if n = 7 then true else mget false s.r.m (t, n)
def State.vSet (s : State) (t : TRef) (n : Nat) (x : Word) : State := { s with r.v := mset s.r.v (t, n) x }
def State.sSet (s : State) (g : GRef) (n : Nat) (x : Word) : State := { s with r.s := mset s.r.s (g, n) x }
def State.mSet (s : State) (t : TRef) (n : Nat) (x : Bool) : State :=
  if n = 7 then s else { s with r.m := mset s.r.m (t, n) x }
/-- R109: the label of a tile. m7, like a constant, carries the empty label. -/
def State.tileLbl (s : State) (g : GRef) (t : Tile) : Label := if t = .m 7 then 0 else mget 0 s.r.lbl (g, t)
def State.setTileLbl (s : State) (g : GRef) (t : Tile) (l : Label) : State :=
  { s with r.lbl := mset s.r.lbl (g, t) l }
def State.joinTileLbl (s : State) (g : GRef) (t : Tile) (l : Label) : State :=
  s.setTileLbl g t (s.tileLbl g t ||| l)

/-- Write one register of a thread, by its tile. -/
def State.tileSet (s : State) (t : TRef) (k : Tile) (x : Word) : State :=
  match k with
  | .v n => s.vSet t n x
  | .s n => s.sSet t.g n x
  | .m n => s.mSet t n (x != 0)
  | .fstat => s.setThr t fun h => { h with fstat := x.extractLsb' 0 8 }
  | .seed => s.setThr t fun h => { h with seed := x }
  | .lpart => s.setThr t fun h => { h with lpart := (x.extractLsb' 0 3).toNat }
  | .link => s.setThr t fun h => { h with link := x }
  | .teamctl => s
  | .ckmode => s

/-- Every thread of a group that is live (R19). -/
def State.liveMask (s : State) (g : GRef) : BitVec 64 :=
  maskOf ((s.r.thr.filter fun kv => kv.1.tid = g.tid ∧ kv.1.grp = g.grp ∧ kv.2.live).map fun kv => kv.1.lane)
/-- Every live thread of a team. -/
def State.liveOf (s : State) (tid : Nat) : List TRef :=
  (s.r.thr.filter fun kv => kv.1.tid = tid ∧ kv.2.live).map fun kv => kv.1

/-! ## Scratchpad, Vat and their labels -/

def State.sbyte (s : State) (tid off : Nat) : Byte := mget 0 s.r.scr (tid, off)
def State.setSbyte (s : State) (tid off : Nat) (b : Byte) : State := { s with r.scr := mset s.r.scr (tid, off) b }
def State.sreads (s : State) (tid off n : Nat) : List Byte := (List.range n).map fun i => s.sbyte tid (off + i)
def State.swrites (s : State) (tid off : Nat) (bs : List Byte) : State :=
  (bs.zipIdx).foldl (fun s (b, i) => s.setSbyte tid (off + i) b) s
def State.sline (s : State) (tid line : Nat) : SLine := mget {} s.r.sline (tid, line)
def State.setSline (s : State) (tid line : Nat) (f : SLine → SLine) : State :=
  { s with r.sline := mset s.r.sline (tid, line) (f (s.sline tid line)) }
/-- The 128-byte lines of a scratchpad span. -/
def spanLines (off n : Nat) : List Nat :=
  if n = 0 then [] else (List.range ((off + n - 1) / 128 + 1 - off / 128)).map (· + off / 128)
/-- R110: the union of the labels of a span's lines. -/
def State.slabel (s : State) (tid off n : Nat) : Label :=
  (spanLines off n).foldl (fun l k => l ||| (s.sline tid k).lbl) 0
/-- R83: a line of the span has P = 0. -/
def State.sabsent (s : State) (tid off n : Nat) : Bool := (spanLines off n).any fun k => !(s.sline tid k).p
/-- R114: unite a label with every line of a span. -/
def State.sjoin (s : State) (tid off n : Nat) (l : Label) : State :=
  (spanLines off n).foldl (fun s k => s.setSline tid k fun x => { x with lbl := x.lbl ||| l }) s

/-! ## Clocks -/

/-- R417, Table 1.1: a core's cluster and its index within it. -/
def clusterOf (core : Nat) : Nat := core / 8

/-- The die of a core, and of an L2 slice of the chip (assumption 16). -/
def coreDie (core : Nat) : Nat := core / 200
def sliceDie (slice : Nat) : Nat := slice / 64

/-- R100: has 1 ms passed since the first refusal? -/
def overdue (first now : DWord) : Bool := decide (first.toNat + 1000000 ≤ now.toNat)

/-- R100: when a refused access is tried again: 32 ns after the refusal, then at intervals that double up to 1,024 ns, and not after the
1 ms in which it is served or ends. -/
def tryAt (first now : DWord) (n : Nat) : DWord :=
  if first.toNat + 1000000 < now.toNat + n then first + 1000000 else now + BitVec.ofNat 64 n

/-- Cycles that a time in ns takes at 1.3 GHz, rounded up (R6). -/
def nsCycles (ns : Nat) : Nat := (13 * ns + 9) / 10

/-! ## Fault codes of Table 20.12 -/

def fcClause : Nat := 0x01
def fcTarget : Nat := 0x02
def fcOpcode : Nat := 0x03
def fcOperand : Nat := 0x04
def fcReserved : Nat := 0x05
def fcBound : Nat := 0x06
def fcCollective : Nat := 0x07
def fcStall : Nat := 0x08
def fcTrap : Nat := 0x09
def fcKilled : Nat := 0x0A
def fcAddress : Nat := 0x10
def fcAlign : Nat := 0x11
def fcScratch : Nat := 0x12
def fcConst : Nat := 0x13
def fcLabel : Nat := 0x14
def fcPinned : Nat := 0x15
def fcAtomic : Nat := 0x16
def fcTrans : Nat := 0x17
def fcMemory : Nat := 0x18
def fcCap : Nat := 0x20
def fcUnder : Nat := 0x21
def fcQueue : Nat := 0x22
def fcLaunch : Nat := 0x23
def fcPlace : Nat := 0x24
def fcGate : Nat := 0x25
def fcRights : Nat := 0x30
def fcCopyRec : Nat := 0x31
def fcCopy : Nat := 0x32
def fcOsb : Nat := 0x33
def fcPlate : Nat := 0x34
def fcMatrix : Nat := 0x35
def fcVatEmpty : Nat := 0x36
def fcVat : Nat := 0x37
def fcChainRec : Nat := 0x38
def fcChain : Nat := 0x39

/-! ## Reports -/

/-- A fault report (Table 20.11) before its TIME is set. -/
structure Rep where
  cls : Nat := 0
  code : Nat
  part : Nat := 0
  ctx : Nat := 0
  stage : Nat := 0
  team : Word := 0
  cluster : Nat := 0
  core : Nat := 0
  quad : Nat := 0
  lane : Nat := 0
  pc : Nat := 0
  detail : Nat := 0
  addr : Nat := 0
  addr2 : Nat := 0
  token : Word := 0
  word : Word := 0
  deriving DecidableEq, Repr

/-- Table 20.11: the 64 bytes of a report. -/
def Rep.bytes (r : Rep) (station : Nat) (time : DWord) : List Byte :=
  natLE 4 (r.cls % 256 * 2 ^ 24 + r.code % 65536) ++
  natLE 4 (r.part % 16 + r.ctx % 16 * 16 + r.stage % 256 * 256 + station % 1024 * 65536) ++
  natLE 4 r.team.toNat ++
  natLE 4 (r.cluster % 256 + r.core % 8 * 256 + r.quad % 4 * 2048 + r.lane % 32 * 8192) ++
  natLE 4 r.pc ++ natLE 4 r.detail ++ natLE 8 r.addr ++ natLE 8 r.addr2 ++ natLE 8 time.toNat ++
  natLE 4 r.token.toNat ++ natLE 4 r.word.toNat ++ natLE 8 0

/-- R361: a partition's function is the VF bound to it, or the PF. -/
def State.fnOf (s : State) (p : Nat) : Nat :=
  match s.h.fns.find? fun kv => kv.1 ≠ 0 && kv.2.part == some p with
  | some kv => kv.1
  | none => 0

/-- Raise an MSI-X vector of a function. -/
def State.raiseMsix (s : State) (fn vec : Nat) : State := s.setFn fn fun f => { f with msix := vec :: f.msix }

/-- R411, Table 22.3: an entry of the error log, which keeps the last 4,096; events 2, 4, 5, 6 and 9 raise vector 2 of the PF. -/
def State.logEvent (s : State) (unit event part : Nat) (nopart : Bool) (count addr : Nat) : State :=
  let e : ErrEntry :=
    { seq := s.y.logSeq, unit := BitVec.ofNat 32 unit, time := s.clk.tclk, event := event, part := part, nopart := nopart, count := count,
      addr := BitVec.ofNat 64 addr }
  let log := s.y.log ++ [e]
  let s := { s with y.log := log.drop (log.length - 4096), y.logSeq := s.y.logSeq + 1 }
  if [2, 4, 5, 6, 9].contains event then s.raiseMsix 0 2 else s

/-- R384: has a function's fault ring no room? -/
def Fn.full (f : Fn) : Bool := (f.tail - f.head).toNat ≥ 2 ^ f.fqlog

/-- R384: write a 64-byte record into a function's fault ring, or drop it and count it. -/
def State.postRecord (s : State) (fn : Nat) (bs : List Byte) : State :=
  let f := s.fn fn
  if f.fqbase = 0 then s
  else if f.full then s.setFn fn fun f => { f with lost := if f.lost = 0xFFFFFFFF then f.lost else f.lost + 1 }
  else
    let a := f.fqbase.toNat + 64 * (f.tail.toNat % 2 ^ f.fqlog)
    let s := { s with m.host := csets s.m.host a bs }
    let s := s.setFn fn fun f => { f with tail := f.tail + 1, written := f.written + 1 }
    if (f.written + 1) % 4 = 0 then s.raiseMsix fn 1 else s

/-- R384: write a report to a function. -/
def State.report (s : State) (fn : Nat) (r : Rep) : State := s.postRecord fn (r.bytes s.y.station s.clk.tclk)

/-! ## Pinned lines -/

/-- Write bytes at a location of this module or of the host; bytes of another station travel as a request. -/
def State.putLoc (s : State) (l : Loc) (bs : List Byte) : State :=
  match l with
  | .mem a => { s with m.mem := csets s.m.mem a bs }
  | .host a _ => { s with m.host := csets s.m.host a bs }
  | .fab _ _ => s

/-- Read bytes at a location of this module or of the host. -/
def State.getLoc (s : State) (l : Loc) (n : Nat) : List Byte :=
  match l with
  | .mem a => creads s.m.mem a n
  | .host a _ => creads s.m.host a n
  | .fab _ _ => []

/-- The 128-byte line of a location. -/
def Loc.line : Loc → Loc
  | .mem a => .mem (a / 128 * 128)
  | .host a c => .host (a / 128 * 128) c
  | .fab st o => .fab st (o / 128 * 128)

/-- A location `n` bytes further on. -/
def Loc.add (l : Loc) (n : Nat) : Loc :=
  match l with
  | .mem a => .mem (a + n)
  | .host a c => .host (a + n) c
  | .fab st o => .fab st (o + n)

/-- The byte offset of a location in its line. -/
def Loc.off : Loc → Nat
  | .mem a => a % 128
  | .host a _ => a % 128
  | .fab _ o => o % 128

/-- R413: the LL at which a line of this module's memory starts. -/
def State.llStart (s : State) (l : Loc) : DWord :=
  match l with
  | .mem a => (s.part (mget {} s.m.frames (a / 65536)).owner).llFloor
  | _ => 0

/-- R89: the latest lease of a line. -/
def State.lineLL (s : State) (l : Loc) : DWord :=
  let ll := mget 0 s.m.ll l.line
  if ll.toNat < (s.llStart l).toNat then s.llStart l else ll

/-- R89: the greater of the performance time and the line's latest lease. -/
def State.gwct (s : State) (l : Loc) : DWord :=
  let ll := s.lineLL l
  if s.clk.tclk.toNat < ll.toNat then ll else s.clk.tclk

/-- R400: the active ports towards a station, in ascending order. -/
def State.portsTo (s : State) (station : Nat) : List Nat :=
  (List.range Config.ports).filter fun n => match mget? s.y.ports n with | some p => p.st = 4 && p.far = station | none => false

/-- R104, R400: the port of a request: granules are striped over the active ports, and a granule keeps its port while a request to it is
outstanding. -/
def State.pickPort (s : State) (station off : Nat) : Nat :=
  match s.y.reqs.find? fun q => q.station = station && q.off / 128 = off / 128 && q.port ≠ noPort with
  | some q => q.port
  | none =>
    let ps := s.portsTo station
    ps.getD (off / 128 % ps.length) noPort

/-- Send a UALink request to another station (R402); the response is matched by its tag. A write
to the launch slots of a peer has a KIND of its own (R356). -/
def State.sendReq (s : State) (r : OutReq) : State :=
  let kind := if r.kind = 1 && Config.pslotBase ≤ r.off then 4 else r.kind
  { s with y.reqs := s.y.reqs ++ [{ r with tag := s.y.tag, kind := kind, port := s.pickPort r.station r.off }], y.tag := s.y.tag + 1 }

/-- An unfilled UALink write of a partition's context. -/
def OutReq.write (part ctx run station off : Nat) (lbl : Label) (data : List Byte) (who : FabWho) : OutReq :=
  { tag := 0, station := station, port := 0, off := off, kind := 1, part := part, ctx := ctx, run := run, scope := 0,
    nolease := false, lbl := lbl, len := data.length, data := data, aop := 0, wide := false, uns := false, cmp := 0,
    ops := [], who := who, reissued := false }

/-- R90: a GWCT joins a thread's WCT. -/
def State.joinWct (s : State) (t : TRef) (w : DWord) : State :=
  s.setThr t fun h => { h with wct := if h.wct.toNat < w.toNat then w else h.wct }

/-- R128: does a location lie in an old shard that a conversion has marked read-only? -/
def State.roShard (s : State) (loc : Loc) : Bool :=
  match loc with
  | .mem a => s.m.readonly.any fun r => r.1 ≤ a && a < r.1 + r.2
  | _ => false

/-- The bytes of a line that a mask names, as runs: each its offset and its bytes. -/
def maskRuns (mask : BitVec 128) (bytes : List Byte) : List (Nat × List Byte) :=
  ((List.range 128).foldl (fun (acc : List (Nat × List Byte)) i =>
    if !mask.getLsbD i then acc
    else
      match acc with
      | (o, bs) :: rest => if o + bs.length = i then (o, bs ++ [bytes.getD i 0]) :: rest else (i, [bytes.getD i 0]) :: acc
      | [] => [(i, [bytes.getD i 0])]) []).reverse

/-- A write-back reaches an old shard that is read-only (R128). -/
def State.roBack (s : State) (x : L1Line) : Bool := s.roShard x.line && (match x.pin with | some p => p.mask ≠ 0 | none => false)

/-- R98, R99: the bytes of a pinned line that were written in the L1 go back to its coherence point, with the label that they were written
with (R118); an old shard that is read-only takes none (R128). The line agrees with its coherence point in its other bytes. -/
def State.writeBack (s : State) (x : L1Line) : State :=
  match x.pin with
  | none => s
  | some p =>
    if s.roBack x then s
    else
      (maskRuns p.mask x.bytes).foldl (fun s r =>
        match x.line with
        | .fab st o => s.sendReq (OutReq.write x.part 0 0 st (o + r.1) p.wlbl r.2 (.pinned p.tid))
        | l => s.putLoc (l.add r.1) r.2) s

/-- R89, R98: the write-back of a pinned line, whose GWCT joins the WCT of every live thread of the team. The GWCT of another station
comes with the response. -/
def State.flushPin (s : State) (x : L1Line) (ts : List TRef) : State :=
  match x.line with
  | .fab .. => s.writeBack x
  | l => let g := s.gwct l; ts.foldl (fun s t => s.joinWct t g) (s.writeBack x)

/-- R99: write back and unpin every pinned line of a team. -/
def State.unpinAll (s : State) (tid : Nat) : State :=
  let ps := s.m.l1.filter fun x => match x.pin with | some p => p.tid == tid | none => false
  let s := ps.foldl (fun s x => s.flushPin x (s.liveOf tid)) s
  { s with m.l1 := s.m.l1.filter fun x => match x.pin with | some p => p.tid != tid | none => true }

/-! ## The end of a team -/

/-- Remove every register, label and storage unit of a team. -/
def State.dropRegs (s : State) (tid : Nat) : State :=
  { s with
    r.v := mkeep s.r.v fun k => k.1.tid != tid
    r.s := mkeep s.r.s fun k => k.1.tid != tid
    r.m := mkeep s.r.m fun k => k.1.tid != tid
    r.lbl := mkeep s.r.lbl fun k => k.1.tid != tid
    r.thr := mkeep s.r.thr fun k => k.tid != tid
    r.scr := mkeep s.r.scr fun k => k.1 != tid
    r.sline := mkeep s.r.sline fun k => k.1 != tid
    r.vat := mkeep s.r.vat fun k => k.1 != tid
    r.vatLbl := mkeep s.r.vatLbl fun k => k.1 != tid
    r.vatOld := mkeep s.r.vatOld fun k => k.1 != tid }

/-- The paths of a team. -/
def State.pathsOf (s : State) (tid : Nat) : List Path := s.sch.paths.filter fun p => p.g.tid = tid

/-- Remove a team's additions that wait at queues. -/
def Queue.dropPaths (q : Queue) (pids : List Nat) : Queue :=
  { q with waiting := q.waiting.filter fun w => match w with | .path pid _ => !pids.contains pid | _ => true }

/-- R275: an OSB reservation released by its team goes when no MXISSUE and no copy names it. -/
def State.osbSweep (s : State) : State :=
  { s with e.osbs := s.e.osbs.filter fun o =>
      !o.released || s.e.mxs.any (fun x => x.res == o.id && !x.done) || s.e.copies.any (fun c => c.res == some o.id) }

/-- Everything of a team but its reports and its run's count leaves the machine: paths, issue groups without members,
registers, scratchpad, Vat, plates, OSB and slot (R39, R71 steps 5 and 6). -/
def State.freeTeam (s : State) (tid : Nat) : State :=
  let pids := (s.pathsOf tid).map (·.id)
  let paths := s.sch.paths.filter fun p => p.g.tid ≠ tid
  let s := s.dropRegs tid
  let s := { s with
    sch.paths := paths
    sch.igs := s.sch.igs.filter fun (g : IssueGroup) => paths.any fun (p : Path) => p.state = PState.inClause g.id
    sch.teams := mdel s.sch.teams tid
    sch.groups := mkeep s.sch.groups fun k => k.tid != tid
    sch.pend := s.sch.pend.map fun (p : Pend) => { p with
      writes := p.writes.filter fun w => w.t.tid != tid
      lbls := p.lbls.filter fun w => w.g.tid != tid
      flags := p.flags.filter fun w => w.1.tid != tid
      links := p.links.filter fun w => w.1.tid != tid
      toks := p.toks.filter fun w => w.1.tid != tid }
    sch.resolv := s.sch.resolv.filter fun (x : Resolvable) => x.tid != tid
    gr.queues := s.gr.queues.map fun (kv : QKey × Queue) => (kv.1, kv.2.dropPaths pids)
    gr.renqs := s.gr.renqs.map fun (x : OutRenq) => { x with pids := x.pids.filter fun p => !pids.contains p }
    sch.lcopies := s.sch.lcopies.filter fun (x : TRef × LRec) => x.1.tid != tid
    gr.preqs := s.gr.preqs.map fun (x : Nat × Nat × PReq) => (x.1, x.2.1, { x.2.2 with pids := x.2.2.pids.filter fun p => !pids.contains p })
    gr.convs := s.gr.convs.map fun (c : Conv) => { c with reqs := c.reqs.map fun (r : PReq) =>
      { r with pids := r.pids.filter fun p => !pids.contains p } }
    e.copies := s.e.copies.filterMap fun (c : Copy) =>
      if c.t.tid = tid then none else some { c with dests := c.dests.filter (· ≠ tid) }
    e.batches := s.e.batches.filter fun (b : Batch) => b.t.tid ≠ tid
    e.plates := mkeep s.e.plates fun k => k.1 != tid
    e.loads := s.e.loads.filter fun (l : PlateLoad) => l.tid ≠ tid
    e.chains := s.e.chains.filter fun (c : Chain) => c.t.tid ≠ tid
    e.mxs := s.e.mxs.filter fun (x : Mx) => x.tid ≠ tid
    e.osbs := s.e.osbs.map fun (o : Osb) => if o.tid = tid then { o with released := true } else o
    e.calls := s.e.calls.filter fun (c : Call) => c.t.tid ≠ tid }
  s.osbSweep

/-- R71: count a team of a run as ended. -/
def State.runEnd (s : State) (run : Nat) (terminated : Bool) : State :=
  match mget? s.sch.runs run with
  | some r =>
    let r' := { r with ended := r.ended + 1, terminated := r.terminated || terminated }
    { s with sch.runs := mset s.sch.runs run r' }
  | none => s

/-- The frames of the save area that hold a team's image are free again. -/
def State.freeImage (s : State) (p tid : Nat) : State :=
  s.setPart p fun x => { x with saveUsed := x.saveUsed.filter fun e => e.1 ≠ tid }

/-- R39: terminate a team. Its pinned lines are written back, its pending launches are dropped, it credits no
counter, and everything it holds is freed. -/
def State.terminate (s : State) (tid : Nat) : State :=
  match s.team? tid with
  | none => s
  | some t =>
    let s := s.unpinAll tid
    let s := { s with sch.pendL := s.sch.pendL.filter fun (p : PendLaunch) => p.tid ≠ tid }
    ((s.freeTeam tid).runEnd t.run true).freeImage t.part tid

/-- The report of a precise fault of a team (class 0), with the place of the lane that raised it. -/
def Team.rep (t : Team) (code detail : Nat) (core quad lane pc : Nat) (word : Word) (addr addr2 : Nat) : Rep :=
  { cls := 0, code := code, part := t.part, ctx := t.ctx, stage := t.stage, team := t.team, cluster := clusterOf core,
    core := core % 8, quad := quad, lane := lane, pc := pc, detail := detail, addr := addr, addr2 := addr2,
    word := word }

/-- Taking a precise fault: the report is written to the partition's function and the team is terminated (R39, R384). -/
def State.takeFault (s : State) (tid : Nat) (code detail core quad lane pc : Nat) (word : Word) (addr addr2 : Nat) :
    State :=
  match s.team? tid with
  | none => s
  | some t =>
    (s.report (s.fnOf t.part) (t.rep code detail core quad lane pc word addr addr2)).terminate tid

/-- A precise fault of a team that an engine or an event raises away from an issue group. -/
def State.teamFault (s : State) (tid code detail pc addr addr2 : Nat) : State :=
  match s.team? tid with
  | none => s
  | some t => s.takeFault tid code detail t.core 0 0 pc 0 addr addr2

/-- R99, R128: the pinned lines of a team are written back and unpinned; stores that an old shard no longer takes end the team. -/
def State.unpinTeam (s : State) (tid : Nat) : State :=
  let lost := s.m.l1.any fun x => (match x.pin with | some p => p.tid == tid | none => false) && s.roBack x
  let s := s.unpinAll tid
  if lost then s.teamFault tid fcPlace 2 0 0 0 else s

/-- An asynchronous report to a context's function (class 2). -/
def State.asyncReport (s : State) (part ctx code detail addr : Nat) : State :=
  s.report (s.fnOf part) { cls := 2, code := code, part := part, ctx := ctx, detail := detail, addr := addr }

/-- A report of the hypervisor class to the PF (class 3). -/
def State.pfReport (s : State) (part ctx code detail addr addr2 : Nat) : State :=
  s.report 0 { cls := 3, code := code, part := part, ctx := ctx, detail := detail, addr := addr, addr2 := addr2 }

/-! ## Paths -/

def State.path? (s : State) (pid : Nat) : Option Path := s.sch.paths.find? fun p => p.id = pid
def State.setPath (s : State) (pid : Nat) (f : Path → Path) : State :=
  { s with sch.paths := s.sch.paths.map fun p => if p.id = pid then f p else p }
def State.dropPath (s : State) (pid : Nat) : State :=
  { s with sch.paths := s.sch.paths.filter fun p => p.id ≠ pid }

/-- Put paths directly behind a path of the list. -/
def insertBehind (pid : Nat) (new : List Path) : List Path → List Path
  | [] => new
  | p :: ps => if p.id = pid then p :: (new ++ ps) else p :: insertBehind pid new ps

/-- The lanes that leave a path become a path of their own directly behind it; a path whose every lane leaves stays
whole. Answers the path that the lanes now stand on. -/
def State.splitPath (s : State) (pid : Nat) (sub : BitVec 64) : Nat × State :=
  match s.path? pid with
  | none => (pid, s)
  | some p =>
    if p.mask &&& ~~~sub = 0 then (pid, s)
    else
      let (n, s) := s.freshId
      let s := s.setPath pid fun p => { p with mask := p.mask &&& ~~~sub }
      (n, { s with sch.paths := insertBehind pid [{ p with id := n, mask := p.mask &&& sub }] s.sch.paths })

/-- R25, R40: `since` of a path of a team whose age is 0: the present cycle, or the age itself while the team is saved. -/
def State.ageZero (s : State) (tid : Nat) : Nat :=
  match s.team? tid with
  | some t => if t.status = .saved then 0 else s.clk.cycle
  | none => s.clk.cycle

/-- R46: a parked or waiting path becomes Runnable at its place of the list, with its age at 0. -/
def State.wakePath (s : State) (pid : Nat) : State :=
  s.setPath pid fun p => { p with state := .runnable, since := s.ageZero p.g.tid, readyAt := max p.readyAt s.clk.cycle }

/-! ## The current issue group and its lanes -/

/-- One member thread of an issue group. -/
structure Lane where
  t : TRef
  pid : Nat
  /-- Quadrant lane. -/
  q : Nat
  /-- The thread's context label at issue. -/
  ctx : Label
  deriving DecidableEq, Repr

def Lane.g (l : Lane) : GRef := l.t.g

def State.ig? (s : State) (id : Nat) : Option IssueGroup := s.sch.igs.find? fun g => g.id = id
def State.setIg (s : State) (id : Nat) (f : IssueGroup → IssueGroup) : State :=
  { s with sch.igs := s.sch.igs.map fun g => if g.id = id then f g else g }

/-- The quadrant lane of a group's lane (R15). -/
def qlaneOf (width half lane : Nat) : Nat := if width = 16 then 16 * half + lane else lane % 32

/-- The lanes of one path. -/
def State.pathLanes (s : State) (p : Path) : List Lane :=
  let w := match s.team? p.g.tid with | some t => t.width | none => 32
  let h := match s.group? p.g with | some g => g.half | none => 0
  (lanesOf p.mask).map fun i => ⟨⟨p.g.tid, p.g.grp, i⟩, p.id, qlaneOf w h i, p.ctxLbl⟩

/-- The member threads of an issue group, in ascending quadrant lane order. -/
def State.members (s : State) (ig : Nat) : List Lane :=
  sortBy Lane.q ((s.sch.paths.filter fun p => p.state = .inClause ig).flatMap s.pathLanes)

/-- The teams that a list of lanes belongs to. -/
def tidsOf (ls : List Lane) : List Nat := dedup (ls.map fun l => l.t.tid)

/-- An issue group without members is closed. -/
def State.sweepIg (s : State) (ig : Nat) : State :=
  if s.sch.paths.any fun p => p.state = .inClause ig then s
  else { s with sch.igs := s.sch.igs.filter fun g => g.id ≠ ig }

/-- The word at a code address of a context, if it lies in the code image (R178). -/
def State.codeWord (s : State) (part ctx pc : Nat) : Option Word :=
  (s.ctx? part ctx).bind fun c => if pc % 4 = 0 then c.code[pc / 4]? else none

/-- The instruction word that an issue group stands at. -/
def State.wordAt (s : State) (g : IssueGroup) : Word := (s.codeWord g.part g.ctx g.pc).getD 0

/-- A fault that an instruction's entry raises in a lane. -/
structure Flt where
  code : Nat
  detail : Nat := 0
  addr : Nat := 0
  addr2 : Nat := 0
  deriving DecidableEq, Repr

/-- R187: every team of the lanes takes the fault of its first lane that has one; the other teams go on. -/
def State.judge (s : State) (g : IssueGroup) (ls : List Lane) (flt : Lane → Option Flt) : State :=
  (tidsOf ls).foldl (fun s tid =>
    match (ls.filter fun l => l.t.tid = tid).findSome? fun l => (flt l).map fun f => (l, f) with
    | some (l, f) => s.takeFault tid f.code f.detail g.core g.quad l.q g.pc (s.wordAt g) f.addr f.addr2
    | none => s) s

/-- The lanes whose team is still there. -/
def State.alive (s : State) (ls : List Lane) : List Lane := ls.filter fun l => (s.team? l.t.tid).isSome

/-- Unite a label with a path's context label (R33). -/
def State.joinCtx (s : State) (pid : Nat) (l : Label) : State :=
  s.setPath pid fun p => { p with ctxLbl := p.ctxLbl ||| l }

/-- R180: change a token count of a thread. -/
def State.tokAdd (s : State) (t : TRef) (k : Nat) (up : Bool) : State :=
  s.setThr t fun h => { h with tok := setAt h.tok k fun n => if up then n + 1 else n - 1 }

/-- Raise the token that an instruction names in the lanes it takes effect in. -/
def State.tokUp (s : State) (tok : Nat) (ls : List Lane) : State :=
  if tok < 6 then ls.foldl (fun s l => s.tokAdd l.t tok true) s else s

/-- Let the token fall in some threads. -/
def State.tokDown (s : State) (tok : Nat) (ts : List TRef) : State :=
  if tok < 6 then ts.foldl (fun s t => s.tokAdd t tok false) s else s

/-- The (thread, token) pairs of a token for a list of lanes. -/
def tokPairs (tok : Nat) (ls : List Lane) : List (TRef × Nat) := if tok < 6 then ls.map fun l => (l.t, tok) else []

/-! ## Results -/

/-- The tiles of a destination operand of `w` registers; none for a discard (Table 6.3). -/
def dstTiles (c : Code) (w : Nat) : List Tile :=
  match Opnd.ofCode c with
  | .v n => (List.range w).map fun i => .v (n + i)
  | .s n => (List.range w).map fun i => .s (n + i)
  | .pred n => if n = 7 then [] else [.m n]
  | _ => []

/-- What one lane writes: its words, one for each tile, and its result label. -/
structure LaneRes where
  l : Lane
  ws : List Word
  lbl : Label
  deriving DecidableEq, Repr

/-- R34: do the lanes written cover every live thread of a group? -/
def State.covers (s : State) (g : GRef) (ls : List Lane) : Bool :=
  s.liveMask g &&& ~~~(maskOf ((ls.filter fun l => l.g = g).map fun l => l.t.lane)) = 0

/-- R167: the results of a group's lanes for an s register, the lowest %lane last: of the threads that are still live when they are
written (R203), its value stands. -/
def laneDown (g : GRef) (rs : List LaneRes) : List LaneRes :=
  (sortBy (fun r => r.l.t.lane) (rs.filter fun r => r.l.g = g)).reverse

/-- The register writes of a result (R34, R167). -/
def resWrites (tiles : List Tile) (rs : List LaneRes) : List RegWrite :=
  tiles.zipIdx.flatMap fun (k, i) =>
    match k with
    | .s _ => (dedup (rs.map fun r => r.l.g)).flatMap fun g => (laneDown g rs).map fun r => ⟨r.l.t, k, r.ws.getD i 0⟩
    | _ => rs.map fun r => ⟨r.l.t, k, r.ws.getD i 0⟩

/-- The label writes of a result (R34). -/
def State.resLbls (s : State) (tiles : List Tile) (rs : List LaneRes) : List LblWrite :=
  tiles.flatMap fun k => (dedup (rs.map fun r => r.l.g)).map fun g =>
    ⟨g, k, (rs.filter fun r => r.l.g = g).foldl (fun a r => a ||| r.lbl) 0, s.covers g (rs.map (·.l))⟩

/-- Schedule a result: it is written `lat` cycles from now (R179, R184), and the token falls then (R180). -/
def State.result (s : State) (lat : Nat) (tiles : List Tile) (rs : List LaneRes) (tok : Nat)
    (flags : List (TRef × BitVec 8)) : State :=
  { s with sch.pend := s.sch.pend ++ [{
      due := s.clk.cycle + lat
      writes := resWrites tiles rs
      lbls := s.resLbls tiles rs
      flags := flags
      links := []
      toks := tokPairs tok (rs.map (·.l)) }] }

/-- Write a label to a tile (R34). -/
def State.applyLbl (s : State) (w : LblWrite) : State :=
  s.setTileLbl w.g w.tile (if w.cover then w.lbl else s.tileLbl w.g w.tile ||| w.lbl)

/-- R19, R203: results of a thread that is no longer live are discarded. -/
def State.writeReg (s : State) (w : RegWrite) : State :=
  if (s.thr w.t).live then s.tileSet w.t w.tile w.val else s

/-- A result is written to all its destinations. -/
def State.applyPend (s : State) (p : Pend) : State :=
  let s := p.writes.foldl (fun s w => s.writeReg w) s
  let s := p.lbls.foldl (fun s w => s.applyLbl w) s
  let s := p.flags.foldl (fun s f => s.setThr f.1 fun h => { h with fstat := h.fstat ||| f.2 }) s
  let s := p.links.foldl (fun s f => s.setThr f.1 fun h => { h with linkLbl := f.2 }) s
  p.toks.foldl (fun s k => s.tokAdd k.1 k.2 false) s

/-- Every result whose cycle has come is written, in the order in which the results were scheduled. -/
def State.applyDue (s : State) : State :=
  let ready := s.sch.pend.filter fun p => p.due ≤ s.clk.cycle
  let s := { s with sch.pend := s.sch.pend.filter fun p => ¬ p.due ≤ s.clk.cycle }
  ready.foldl (fun s p => s.applyPend p) s

end Sys2Proof.Machine
end

