-- ==== Sys2Proof/Machine/Operands.lean ====
section
/-! DEFINITION. Reading the operands of an instruction word: registers and register spans, specials, constants,
literals and predicates, their labels, and the tiles that a word reads and writes (R164 to R167, R176, R217). -/

namespace Sys2Proof.Machine

open Sys2Proof

/-- How many registers a source position spans. -/
def skWidth : SK → Nat
  | .none => 0
  | .val w => w
  | .regc w => w
  | .regl w => w
  | .reg w => w
  | .vreg w => w
  | .pred => 1
  | .tile => 1

/-- How many registers a destination position spans. -/
def dkWidth : DK → Nat
  | .none => 0
  | .any w => w
  | .vs w => w
  | .v w => w
  | .vd w => w
  | .pred => 1
  | .predAny w => w
  | .predVs => 1
  | .predV => 1

/-- R15: the quadrant of a group's lane. -/
def State.quadOf (s : State) (t : TRef) : Nat :=
  match s.group? t.g, s.team? t.tid with
  | some g, some tm => if tm.width = 64 then g.quad + t.lane / 32 else g.quad
  | some g, none => g.quad
  | none, _ => 0

/-- Table 1.3: ROLE of a group. -/
def Group.roleWord (g : Group) : Word := BitVec.ofNat 32 ((if g.producer then 128 else 0) + g.roleid % 16)

/-- R217, Table 7.9: special number n of a thread at this moment; number 7 is %clk. -/
def State.special (s : State) (t : TRef) (n : Nat) : Word :=
  match s.team? t.tid, s.group? t.g with
  | some tm, some g =>
    match n with
    | 0 => BitVec.ofNat 32 t.lane
    | 1 => BitVec.ofNat 32 (t.grp * tm.width + t.lane)
    | 2 => BitVec.ofNat 32 t.grp
    | 3 => tm.team
    | 4 => g.roleWord
    | 5 => BitVec.ofNat 32 tm.stage
    | 6 => BitVec.ofNat 32 tm.part
    | 7 => BitVec.ofNat 32 s.clk.cycle
    | 8 => BitVec.ofNat 32 tm.width
    | 9 => BitVec.ofNat 32 (s.quadOf t)
    | 10 => BitVec.ofNat 32 g.row
    | 11 => BitVec.ofNat 32 (g.core % 8)
    | 12 => BitVec.ofNat 32 (clusterOf g.core)
    | 13 => BitVec.ofNat 32 s.y.station
    | _ => 0
  | _, _ => 0

/-- Table 6.4: the integer value of an integer constant code, or none for a float code. -/
def constInt (k : Nat) : Option Int :=
  match k with
  | 0 => some 0
  | 1 => some 1
  | 2 => some (-1)
  | 3 => some 2
  | 4 => some 3
  | 5 => some 4
  | 6 => some 8
  | 7 => some 16
  | 8 => some 31
  | 9 => some 32
  | _ => none

/-- Table 6.4: the FP32 pattern of a float constant code. -/
def constF32 (k : Nat) : Nat :=
  match k with
  | 10 => 0x3F000000
  | 11 => 0x3F800000
  | 12 => 0x40000000
  | 13 => 0xBF800000
  | 14 => 0x80000000
  | _ => 0x7F800000

/-- R165: a constant in an integer position of `n` bits. -/
def constBits (k n : Nat) : Nat :=
  match constInt k with
  | some x => wrapBits x n
  | none => constF32 k % 2 ^ n
where
  /-- An integer wrapped to `n` bits. -/
  wrapBits (x : Int) (n : Nat) : Nat := (x % (2 ^ n : Int)).toNat

/-- A span of v registers of a thread as one number, the first register lowest. -/
def State.vSpan (s : State) (t : TRef) (n : Nat) : Nat → Nat
  | 0 => 0
  | w + 1 => (s.vGet t n).toNat + 2 ^ 32 * s.vSpan t (n + 1) w

/-- A span of s registers of a group as one number, the first register lowest. -/
def State.sSpan (s : State) (g : GRef) (n : Nat) : Nat → Nat
  | 0 => 0
  | w + 1 => (s.sGet g n).toNat + 2 ^ 32 * s.sSpan g (n + 1) w

/-- The bits that a lane reads from an operand of `w` registers in an integer position of layout `lay` (Table 7.1);
`u` marks an unsigned or untyped operand, which zero-extends a literal to 64 bits (R165, R176). -/
def State.intVal (s : State) (t : TRef) (lit : Word) (c : Code) (w lay : Nat) (u : Bool) : Nat :=
  match Opnd.ofCode c with
  | .v n => s.vSpan t n w
  | .s n => s.sSpan t.g n w
  | .special n => (s.special t n).toNat
  | .const k =>
    match lay with
    | 2 => constBits k 16 * 0x10001
    | 3 => constBits k 8 * 0x1010101
    | _ => constBits k (32 * w)
  | .pred n => if s.mGet t n then 1 else 0
  | .lit => if w = 2 && !u then (lit.signExtend 64).toNat else lit.toNat
  | .bad => 0

/-- A 32-bit operand of a lane. -/
def State.rd32 (s : State) (t : TRef) (lit : Word) (c : Code) : Nat := s.intVal t lit c 1 0 false

/-- A predicate operand of a lane. -/
def State.rdPred (s : State) (t : TRef) (c : Code) : Bool :=
  match Opnd.ofCode c with
  | .pred n => s.mGet t n
  | _ => false

/-- The tiles of a source operand of `w` registers. -/
def srcTiles (c : Code) (w : Nat) : List Tile :=
  match Opnd.ofCode c with
  | .v n => (List.range w).map fun i => .v (n + i)
  | .s n => (List.range w).map fun i => .s (n + i)
  | .pred n => [.m n]
  | _ => []

/-- R110: the label of a source operand; specials, constants and literals carry the empty label (R165). -/
def State.opLbl (s : State) (g : GRef) (c : Code) (w : Nat) : Label :=
  (srcTiles c w).foldl (fun l k => l ||| s.tileLbl g k) 0

/-- R110: the union of the labels of an instruction's three source operands. -/
def State.srcLbl (s : State) (g : GRef) (cls op : Nat) (f : Fm) : Label :=
  let sp := spec cls op f
  s.opLbl g f.a (skWidth sp.a) ||| s.opLbl g f.b (skWidth sp.b) ||| s.opLbl g f.c (skWidth sp.c)

/-- The low word and the high word of a 64-bit value. -/
def words64 (x : Nat) : List Word := [BitVec.ofNat 32 x, BitVec.ofNat 32 (x / 2 ^ 32)]

/-- The words of a value of `w` registers, the lowest first. -/
def wordsOf (x : Nat) : Nat → List Word
  | 0 => []
  | w + 1 => BitVec.ofNat 32 x :: wordsOf (x / 2 ^ 32) w

/-- R21, R166: does an operand of `w` registers reach a v register at or above REGS? -/
def beyondRegs (c : Code) (w regs : Nat) : Bool :=
  match Opnd.ofCode c with
  | .v n => regs < n + w
  | _ => false

/-- R21: does a word name a v register that its group does not hold? -/
def State.unheld (s : State) (g : GRef) (cls op : Nat) (f : Fm) : Bool :=
  let sp := spec cls op f
  let r := s.regs g
  beyondRegs f.dst (dkWidth sp.dst) r || beyondRegs f.a (skWidth sp.a) r || beyondRegs f.b (skWidth sp.b) r ||
    beyondRegs f.c (skWidth sp.c) r

end Sys2Proof.Machine
end

