-- ==== Sys2Proof/Machine/Channel.lean ====
section
/-! DEFINITION. The capability table of a team, the queue that an entry names, and the registers of a record (R53, R54, R295,
R376): what the issue of a word must know of a queue before its faults are judged. -/

namespace Sys2Proof.Machine

open Sys2Proof

def State.queue? (s : State) (k : QKey) : Option Queue := mget? s.gr.queues k

/-- R376, R406: the queue of a partition that a message of the Parlour or of another station names by its index. -/
def State.queueOf (s : State) (part idx : Nat) : Option QKey :=
  (s.gr.queues.find? fun kv => kv.1.part = part && !kv.1.launch && kv.1.idx = idx).map (·.1)

/-- Table 2.3: the fields of a capability entry. -/
def capValid (e : Nat) : Bool := e % 2 = 1
def capKind (e : Nat) : Nat := bitsOf e 1 3
def capTarget (e : Nat) : Nat := bitsOf e 12 10
def capStation (e : Nat) : Nat := bitsOf e 22 10
def capAllow (e : Nat) : Nat := bitsOf e 32 32

/-- Table 2.3: the bit of each permission. -/
def permLen : Nat := 7
def permEnq : Nat := 8
def permInl : Nat := 9
def permDep : Nat := 10
def permLaunch : Nat := 11

/-- R53: the capability entry of a team that an instruction names. -/
def State.chanOf (s : State) (tid : Nat) (f : Fm) : Nat :=
  match s.team? tid with
  | some t => (t.chan.getD (mdCh f.md) 0).toNat
  | none => 0

/-- R295: the queue that a capability of KIND 0 or 1 names in a context. -/
def chanKey (part ctx e : Nat) : QKey := ⟨part, ctx, false, capTarget e⟩

/-- Table 20.7: the filter entry of a mailbox. -/
def State.filterOf (s : State) (n : Nat) : Nat := (mget 0 s.gr.boxes n).toNat
def filtValid (e : Nat) : Bool := bitsOf e 63 1 = 1
def filtSpart (e : Nat) : Nat := bitsOf e 56 4
def filtDpart (e : Nat) : Nat := bitsOf e 52 4
def filtQueue (e : Nat) : Nat := bitsOf e 42 10
def filtCredit (e : Nat) : Nat := bitsOf e 32 10
def filtMax (e : Nat) : Label := BitVec.ofNat 16 e

/-- R376: the queue that a mailbox serves. -/
def State.mailQueue (s : State) (n : Nat) : Option QKey :=
  s.queueOf (filtDpart (s.filterOf n)) (filtQueue (s.filterOf n))

/-- R295: the record size S of the queue that a capability names. A mailbox whose filter entry names no installed queue has none in the
spec: the model takes 16 bytes, and R55 drops the record (assumption 68). -/
def State.chanRsz (s : State) (part ctx e : Nat) : Nat :=
  let k := if capKind e = 2 then s.mailQueue (capTarget e) else some (chanKey part ctx e)
  match k.bind s.queue? with
  | some q => q.rsz
  | none => 16

/-- R295: the first register of a record in the register form. -/
def regOf (c : Code) : Nat := match Opnd.ofCode c with | .v n => n | _ => 0

/-- R294, R295: the record size that an ENQ or ENQI of a team has through the channel that it names. -/
def State.recSize (s : State) (tid : Nat) (f : Fm) : Nat :=
  match s.team? tid with
  | some t => s.chanRsz t.part t.ctx (s.chanOf tid f)
  | none => 16

/-- R295: does a word put records of v registers into a queue (SP = 0)? -/
def enqRegs (cls op : Nat) (f : Fm) : Bool := cls = 6 && op < 2 && !mdSp f.md

/-- R295: the v registers of the record of an ENQ or ENQI in register form: a to a + S ÷ 4 − 1, where S is at most 64. -/
def State.recSpan (s : State) (tid : Nat) (cls op : Nat) (f : Fm) : List Nat :=
  if enqRegs cls op f && capValid (s.chanOf tid f) && capKind (s.chanOf tid f) ≤ 2 && s.recSize tid f ≤ 64 then (List.range (s.recSize tid f / 4)).map (· + regOf f.a) else []

end Sys2Proof.Machine
end

