-- ==== Sys2Proof/Machine/Num.lean ====
section
/-! DEFINITION. The number formats of the module and the one place where a result is rounded (R133 to R148). A value is
held exactly: NaN, an infinity, or a signed integer multiple of a power of two. -/

namespace Sys2Proof.Machine

open Sys2Proof

/-- An exact value: NaN, an infinity by its sign, or (−1)^neg × m × 2^e. -/
inductive FV where
  | nan
  | inf (neg : Bool)
  | fin (neg : Bool) (m : Nat) (e : Int)
  deriving DecidableEq, Repr

/-! Sticky flags of FSTAT (Table 5.8). -/
def fNV : BitVec 8 := 0x01
def fDZ : BitVec 8 := 0x02
def fOF : BitVec 8 := 0x04
def fUF : BitVec 8 := 0x08
def fNX : BitVec 8 := 0x10
def fFZ : BitVec 8 := 0x20
def fSATF : BitVec 8 := 0x40
def fRSV4 : BitVec 8 := 0x80

/-! Format codes (Table 5.1). -/
def fmtF32 : Nat := 0
def fmtI32 : Nat := 1
def fmtBF16 : Nat := 2
def fmtF16 : Nat := 3
def fmtE4M3 : Nat := 4
def fmtE5M2 : Nat := 5
def fmtK8 : Nat := 6
def fmtI8 : Nat := 7
def fmtN8 : Nat := 8
def fmtK6 : Nat := 9
def fmtI4 : Nat := 10
def fmtI16 : Nat := 11
def fmtN16 : Nat := 12
def fmtN32 : Nat := 13
def fmtI64 : Nat := 14
def fmtN64 : Nat := 15
def fmtE8M0 : Nat := 16

/-- Table 5.1: the bits of a format. -/
def fmtBits (f : Nat) : Nat :=
  match f with
  | 0 => 32 | 1 => 32 | 2 => 16 | 3 => 16 | 4 => 8 | 5 => 8 | 6 => 8 | 7 => 8 | 8 => 8 | 9 => 6 | 10 => 4
  | 11 => 16 | 12 => 16 | 13 => 32 | 14 => 64 | 15 => 64 | _ => 8

/-- Table 5.2: exponent bits, fraction bits and bias of a binary floating-point format. -/
def fmtFloat (f : Nat) : Option (Nat × Nat × Nat) :=
  match f with
  | 0 => some (8, 23, 127)
  | 2 => some (8, 7, 127)
  | 3 => some (5, 10, 15)
  | 4 => some (4, 3, 7)
  | 5 => some (5, 2, 15)
  | _ => none

/-- R138: the least and greatest value of an integer format (i4 reads and clamps to ±7). -/
def fmtInt (f : Nat) : Option (Int × Int) :=
  match f with
  | 1 => some (-2147483648, 2147483647)
  | 7 => some (-128, 127)
  | 8 => some (0, 255)
  | 10 => some (-7, 7)
  | 11 => some (-32768, 32767)
  | 12 => some (0, 65535)
  | 13 => some (0, 4294967295)
  | 14 => some (-9223372036854775808, 9223372036854775807)
  | 15 => some (0, 18446744073709551615)
  | _ => none

/-- Two's complement reading of the low `n` bits. -/
def signedOf (x n : Nat) : Int := if 2 ^ (n - 1) ≤ x % 2 ^ n then (x % 2 ^ n : Int) - 2 ^ n else (x % 2 ^ n : Int)

/-- Wrapping of an integer to `n` bits. -/
def wrapNat (x : Int) (n : Nat) : Nat := (x % (2 ^ n : Int)).toNat

/-- An integer as an exact value. -/
def FV.ofInt (x : Int) : FV := .fin (x < 0) x.natAbs 0

/-- R134: decode a binary floating-point code. -/
def decFloat (f : Nat) (eb fb bias x : Nat) : FV :=
  let neg := x / 2 ^ (eb + fb) % 2 = 1
  let ex := x / 2 ^ fb % 2 ^ eb
  let fr := x % 2 ^ fb
  if f = fmtE4M3 && ex = 15 && fr = 7 then .nan
  else if f ≠ fmtE4M3 && ex = 2 ^ eb - 1 then (if fr = 0 then .inf neg else .nan)
  else if ex = 0 then .fin neg fr (1 - bias - fb)
  else .fin neg (2 ^ fb + fr) (ex - bias - fb : Int)

/-- The length of the run at the top of `n` bits of a magnitude field, of bits equal to `b`. -/
def runLen (b : Bool) (x : Nat) : Nat → Nat
  | 0 => 0
  | n + 1 => if x.testBit n = b then 1 + runLen b x n else 0

/-- R136: decode a tapered code of `n` bits. -/
def decK (n x : Nat) : FV :=
  let neg := x.testBit (n - 1)
  let w := n - 1
  let mag := x % 2 ^ w
  if mag = 0 then (if neg then .nan else .fin false 0 0)
  else
    let b := mag.testBit (w - 1)
    let m := runLen b mag w
    let k : Int := if b then (m : Int) - 1 else -(m : Int)
    let left := w - m - 1
    if left = 0 then .fin neg 1 (2 * k)
    else
      let e : Nat := if mag.testBit (left - 1) then 1 else 0
      let fw := left - 1
      .fin neg (2 ^ fw + mag % 2 ^ fw) (2 * k + e - fw)

/-- R134 to R141: the exact value of a code of a format. -/
def decode5 (f x : Nat) : FV :=
  match fmtFloat f with
  | some (eb, fb, bias) => decFloat f eb fb bias (x % 2 ^ (eb + fb + 1))
  | none =>
    match f with
    | 6 => decK 8 (x % 256)
    | 9 => decK 6 (x % 64)
    | 10 => if x % 16 = 8 then .fin false 0 0 else FV.ofInt (signedOf x 4)
    | 1 => FV.ofInt (signedOf x 32)
    | 7 => FV.ofInt (signedOf x 8)
    | 8 => FV.ofInt (x % 256)
    | 11 => FV.ofInt (signedOf x 16)
    | 12 => FV.ofInt (x % 65536)
    | 13 => FV.ofInt (x % 2 ^ 32)
    | 14 => FV.ofInt (signedOf x 64)
    | 15 => FV.ofInt (x % 2 ^ 64)
    | _ => if x % 256 = 255 then .nan else .fin false 1 ((x % 256 : Int) - 127)

/-- R139: does reading a code set RSV4? -/
def rsv4 (f x : Nat) : BitVec 8 := if f = fmtI4 && x % 16 = 8 then fRSV4 else 0

/-! ## Exact operations -/

def FV.neg : FV → FV
  | .nan => .nan
  | .inf s => .inf !s
  | .fin s m e => .fin (!s) m e

/-- The signed integer that a finite value is at a given exponent not above its own. -/
def atExp (neg : Bool) (m : Nat) (e e0 : Int) : Int :=
  let x : Int := m * 2 ^ (e - e0).toNat
  if neg then -x else x

/-- Exact product; `true` for 0 × Inf (R222). -/
def FV.mul : FV → FV → FV × Bool
  | .nan, _ => (.nan, false)
  | _, .nan => (.nan, false)
  | .inf s, .inf t => (.inf (s != t), false)
  | .inf s, .fin t m _ => if m = 0 then (.nan, true) else (.inf (s != t), false)
  | .fin s m _, .inf t => if m = 0 then (.nan, true) else (.inf (s != t), false)
  | .fin s m e, .fin t n d => (.fin (s != t) (m * n) (e + d), false)

/-- Exact sum of two values; a zero sum takes the sign of R222, with `rd` under RD; `true` for opposite infinities. -/
def FV.add (rd : Bool) : FV → FV → FV × Bool
  | .nan, _ => (.nan, false)
  | _, .nan => (.nan, false)
  | .inf s, .inf t => if s = t then (.inf s, false) else (.nan, true)
  | .inf s, .fin _ _ _ => (.inf s, false)
  | .fin _ _ _, .inf t => (.inf t, false)
  | .fin s m e, .fin t n d =>
    let e0 := if e ≤ d then e else d
    let x := atExp s m e e0 + atExp t n d e0
    if x = 0 then (.fin (if m = 0 && n = 0 && s == t then s else rd) 0 0, false)
    else (.fin (x < 0) x.natAbs e0, false)

/-- Exact product by a power of two (FSCALE). -/
def FV.scale (x : FV) (n : Int) : FV :=
  match x with
  | .fin s m e => .fin s m (e + n)
  | y => y

/-- The order of R224: −Inf lowest, −0 below +0, +Inf highest; NaN is not ordered. -/
def FV.lt : FV → FV → Bool
  | .nan, _ => false
  | _, .nan => false
  | .inf s, .inf t => s && !t
  | .inf s, .fin _ _ _ => s
  | .fin _ _ _, .inf t => !t
  | .fin s m e, .fin t n d =>
    if m = 0 && n = 0 then s && !t
    else
      let e0 := if e ≤ d then e else d
      atExp s m e e0 < atExp t n d e0

/-- Numerical equality, in which −0 equals +0. -/
def FV.eqv : FV → FV → Bool
  | .nan, _ => false
  | _, .nan => false
  | .inf s, .inf t => s == t
  | .inf _, .fin _ _ _ => false
  | .fin _ _ _, .inf _ => false
  | .fin s m e, .fin t n d =>
    let e0 := if e ≤ d then e else d
    atExp s m e e0 == atExp t n d e0

def FV.isNan : FV → Bool
  | .nan => true
  | _ => false
def FV.isInf : FV → Bool
  | .inf _ => true
  | _ => false
def FV.isZero : FV → Bool
  | .fin _ m _ => m == 0
  | _ => false
def FV.isNeg : FV → Bool
  | .nan => false
  | .inf s => s
  | .fin s _ _ => s

/-- The exponent of the leading bit of a nonzero finite value. -/
def topExp (m : Nat) (e : Int) : Int := e + Nat.log2 m

/-- R145: flush a subnormal FP32 value to a zero of its sign; `true` where it flushed. -/
def FV.flush (x : FV) : FV × Bool :=
  match x with
  | .fin s m e => if m ≠ 0 && topExp m e < -126 then (.fin s 0 0, true) else (x, false)
  | _ => (x, false)

/-- R145: the value that an instruction with modifier FTZ reads, with the flag of the flush. -/
def FV.ftz (on : Bool) (x : FV) : FV × BitVec 8 :=
  if on then
    let r := x.flush
    (r.1, if r.2 then fFZ else 0)
  else (x, 0)

/-! ## Rounding -/

/-- R147: one draw of the generator. -/
def draw (seed : Word) : Word :=
  let s := if seed = 0 then 0x5A17C3E1 else seed
  let s := s ^^^ (s <<< 13)
  let s := s ^^^ (s >>> 17)
  s ^^^ (s <<< 5)

/-- Table 5.5: does a magnitude that lies `r / 2^k` of the way from `n` to `n + 1` round up? `seed` is the draw of SR. -/
def roundsUp (rm : Nat) (neg : Bool) (n r k : Nat) (seed : Word) : Bool :=
  match rm with
  | 1 => false
  | 2 => !neg
  | 3 => neg
  | 5 =>
    let q := if neg then (2 ^ k - r) * 2 ^ 32 / 2 ^ k else r * 2 ^ 32 / 2 ^ k
    if neg then !(seed.toNat < q) else seed.toNat < q
  | _ => if 2 * r < 2 ^ k then false else if 2 ^ k < 2 * r then true else n % 2 = 1

/-- Split m × 2^e at the unit 2^q: whole units, and the rest as r / 2^k of a unit. A rest far below the unit is
held as a quarter of it for the modes that only ask on which side of a half it lies. -/
def splitAt (m : Nat) (e q : Int) (sr : Bool) : Nat × Nat × Nat :=
  if q ≤ e then (m * 2 ^ (e - q).toNat, 0, 0)
  else
    let k := (q - e).toNat
    if Nat.log2 m + 40 < k then
      if sr then (0, if m = 0 then 0 else 1, 40) else (0, if m = 0 then 0 else 1, 2)
    else (m / 2 ^ k, m % 2 ^ k, k)

/-- The largest finite magnitude of a floating-point format, as a code without sign. -/
def maxCode (f : Nat) : Nat :=
  match f with
  | 0 => 0x7F7FFFFF
  | 2 => 0x7F7F
  | 3 => 0x7BFF
  | 4 => 0x7E
  | _ => 0x7B

/-- The code of +Inf, or of the NaN that E4M3 gives in its place (R144). -/
def infCode (f : Nat) : Nat :=
  match f with
  | 0 => 0x7F800000
  | 2 => 0x7F80
  | 3 => 0x7C00
  | 4 => 0x7F
  | _ => 0x7C

/-- R135: the canonical NaN or NaR of a format. -/
def nanCode (f : Nat) : Nat :=
  match f with
  | 0 => 0x7FC00000
  | 2 => 0x7FC0
  | 3 => 0x7E00
  | 4 => 0x7F
  | 5 => 0x7E
  | 6 => 0x80
  | 9 => 0x20
  | _ => 0

/-- A code with the sign of a value; the NaN of E4M3 keeps its sign bit clear. -/
def signCode (f : Nat) (neg : Bool) (c : Nat) : Nat :=
  if neg && !(f == fmtE4M3 && c == 0x7F) then c + 2 ^ (fmtBits f - 1) else c

/-- Table 5.6: a floating-point result beyond range. -/
def beyond (f rm : Nat) (neg : Bool) : Nat × BitVec 8 :=
  if rm = 4 ∨ rm = 5 then (signCode f neg (maxCode f), fSATF ||| fNX)
  else if rm = 1 ∨ (rm = 2 ∧ neg) ∨ (rm = 3 ∧ !neg) then (signCode f neg (maxCode f), fOF ||| fNX)
  else (signCode f neg (infCode f), fOF ||| fNX)

/-- R143, R144: round a finite value to a floating-point format. Under SR a value between the greatest finite one and the next step has
SATF only where the draw rounds it up: R147 tests the range before the draw and R144 the rounded result, and the model takes R144
(assumption 68). -/
def roundFloat (f eb fb bias rm : Nat) (neg : Bool) (m : Nat) (e : Int) (seed : Word) : Nat × BitVec 8 :=
  if m = 0 then (signCode f neg 0, 0)
  else
    let emin : Int := 1 - bias
    let top := topExp m e
    if (2 ^ eb : Int) < top then beyond f rm neg
    else
      let q := (if top < emin then emin else top) - fb
      let (n, r, k) := splitAt m e q (rm == 5)
      let up := r ≠ 0 && roundsUp rm neg n r k seed
      let n' := if up then n + 1 else n
      let code := (q - (emin - fb)).toNat * 2 ^ fb + n'
      if maxCode f < code then beyond f rm neg
      else
        let nx := if r ≠ 0 then fNX else 0
        let uf := if r ≠ 0 && top < emin then fUF else 0
        (signCode f neg code, nx ||| uf)

/-- The exact magnitude of a positive tapered code at the exponent −40. -/
def kMag (n c : Nat) : Nat :=
  match decK n c with
  | .fin _ m e => m * 2 ^ (e + 40).toNat
  | _ => 0

/-- The greatest positive tapered code whose magnitude is at most x × 2^−40, if any. -/
def kFloor (n x : Nat) : Nat → Option Nat
  | 0 => none
  | c + 1 => if kMag n (c + 1) ≤ x then some (c + 1) else kFloor n x c

/-- R143, R144: round a finite value to k8 or k6. -/
def roundK (f n rm : Nat) (neg : Bool) (m : Nat) (e : Int) (seed : Word) : Nat × BitVec 8 :=
  if m = 0 then (0, 0)
  else
    let top := 2 ^ (n - 1) - 1
    let sat := (signCode f neg top, fSATF ||| fNX)
    if 13 < topExp m e then sat
    else
      let (x, rest, k) := splitAt m e (-40) false
      let half := rest ≠ 0
      let max := kMag n top
      if max < x || (x = max && half) then sat
      else
        match kFloor n x top with
        | none => (signCode f neg 1, fUF ||| fNX)
        | some lo =>
          let a := kMag n lo
          if x = a && !half then (signCode f neg lo, 0)
          else
            let b := kMag n (lo + 1)
            let up := roundsUpGap rm neg lo ((x - a) * 2 ^ k + rest) ((b - a) * 2 ^ k) seed
            (signCode f neg (if up then lo + 1 else lo), fNX)
where
  /-- Table 5.5 for a magnitude that lies r / g of the way from code `lo` to the next. -/
  roundsUpGap (rm : Nat) (neg : Bool) (lo r g : Nat) (seed : Word) : Bool :=
    match rm with
    | 1 => false
    | 2 => !neg
    | 3 => neg
    | 5 =>
      let q := if neg then (g - r) * 2 ^ 32 / g else r * 2 ^ 32 / g
      if neg then !(seed.toNat < q) else seed.toNat < q
    | _ => if 2 * r < g then false else if g < 2 * r then true else lo % 2 = 1

/-- R143, R144: round a finite value to an integer format; clamped outside its range. -/
def roundInt (f rm : Nat) (lo hi : Int) (neg : Bool) (m : Nat) (e : Int) (seed : Word) : Nat × BitVec 8 :=
  let bits := fmtBits f
  let clampTo (x : Int) : Nat × BitVec 8 := (wrapNat x bits, fSATF ||| fNX)
  if m = 0 then (0, 0)
  else if 70 < topExp m e then clampTo (if neg then lo else hi)
  else
    let (n, r, k) := splitAt m e 0 (rm == 5)
    let up := r ≠ 0 && roundsUp rm neg n r k seed
    let n' : Int := if up then n + 1 else n
    let x := if neg then -n' else n'
    if x < lo then clampTo lo
    else if hi < x then clampTo hi
    else (wrapNat x bits, if r ≠ 0 then fNX else 0)

/-- R142 to R144: round an exact value once to a format; `seed` is the state after the draw of SR. -/
def roundTo (f rm : Nat) (x : FV) (seed : Word) : Nat × BitVec 8 :=
  match fmtFloat f with
  | some (eb, fb, bias) =>
    match x with
    | .nan => (nanCode f, 0)
    | .inf s =>
      if rm = 4 ∨ rm = 5 then (signCode f s (maxCode f), fSATF ||| fNX)
      else (signCode f s (infCode f), if f = fmtE4M3 then fNV else 0)
    | .fin s m e => roundFloat f eb fb bias rm s m e seed
  | none =>
    match fmtInt f with
    | some (lo, hi) =>
      match x with
      | .nan => (0, fNV)
      | .inf s => (wrapNat (if s then lo else hi) (fmtBits f), fSATF ||| fNX)
      | .fin s m e => roundInt f rm lo hi s m e seed
    | none =>
      let n := if f = fmtK6 then 6 else 8
      match x with
      | .nan => (nanCode f, 0)
      | .inf s => (signCode f s (2 ^ (n - 1) - 1), fSATF ||| fNX)
      | .fin s m e => roundK f n rm s m e seed

/-- R145: flush an FP32 result that is subnormal. -/
def flushResult (ftz : Bool) (f code : Nat) : Nat × BitVec 8 :=
  if ftz && f = fmtF32 && code % 2 ^ 31 < 2 ^ 23 && code % 2 ^ 31 ≠ 0 then
    (code / 2 ^ 31 % 2 * 2 ^ 31, fFZ ||| fUF ||| fNX)
  else (code, 0)

/-- Rounding with FTZ and one draw under SR: the code, the flags, and SEED afterwards (R142 to R147). -/
def roundDraw (f rm : Nat) (ftz : Bool) (x : FV) (seed : Word) : Nat × BitVec 8 × Word :=
  let seed' := if rm = 5 then draw seed else seed
  let (c, fl) := roundTo f rm x seed'
  let (c', fl') := flushResult ftz f c
  (c', fl ||| fl', seed')

/-- R227: round a finite value to an integer, as an exact value of the same sign. -/
def FV.integral (rm : Nat) (x : FV) : FV × Bool :=
  match x with
  | .fin s m e =>
    let (n, r, k) := splitAt m e 0 false
    if r = 0 then (x, false)
    else (.fin s (if roundsUp rm s n r k 0 then n + 1 else n) 0, true)
  | _ => (x, false)

/-- round_rne(x, f32) as an exact value again, with its flags. -/
def rneF32 (x : FV) : FV × BitVec 8 :=
  let (c, fl) := roundTo fmtF32 0 x 0
  (decode5 fmtF32 c, fl)

/-- R226: the class of an FP value of a format, as a one-hot mask. -/
def classMask (f : Nat) (x : FV) : Nat :=
  let emin : Int := match fmtFloat f with | some (_, _, b) => 1 - b | none => 0
  match x with
  | .nan => 1
  | .inf true => 2
  | .inf false => 256
  | .fin s m e =>
    if m = 0 then (if s then 16 else 32)
    else if topExp m e < emin then (if s then 8 else 64)
    else (if s then 4 else 128)

end Sys2Proof.Machine
end

