-- ==== Sys2Proof/Machine/Flags.lean ====
section
/-! DEFINITION. Conditions and flags: the comparison conditions of ICMP and FCMP, which words may set a flag of FSTAT
(R218), the system registers that a word touches, and the stall contract with its checking scoreboard (R181, R183). -/

namespace Sys2Proof.Machine

open Sys2Proof

/-- R192: CMP 0 to 5 over two integers. -/
def icmpHolds (cmp : Nat) (x y : Int) : Bool :=
  match cmp with
  | 0 => x == y
  | 1 => x != y
  | 2 => x < y
  | 3 => x ≤ y
  | 4 => y < x
  | _ => y ≤ x

/-- Table 8.3: CMP 0 to 7 over two floating-point values. -/
def fcmpHolds (cmp : Nat) (x y : FV) : Bool :=
  match cmp with
  | 0 => FV.eqv x y
  | 1 => !FV.eqv x y
  | 2 => FV.lt x y && !FV.eqv x y
  | 3 => FV.lt x y || FV.eqv x y
  | 4 => FV.lt y x && !FV.eqv x y
  | 5 => FV.lt y x || FV.eqv x y
  | 6 => !x.isNan && !y.isNan
  | _ => x.isNan || y.isNan

/-- R143: does a word of class 1 round with the generator (RM = SR)? -/
def usesSeed (cls op : Nat) (f : Fm) : Bool :=
  match cls, op with
  | 1, 0 => mdRm f.md == 5
  | 1, 1 => mdRm f.md == 5
  | 1, 2 => mdRm f.md == 5
  | 1, 3 => mdRm f.md == 5
  | 1, 11 => mdRm f.md == 5
  | 1, 49 => f.imm.extractLsb' 10 3 == 5
  | 1, 50 => f.imm.extractLsb' 5 3 == 5
  | _, _ => false

/-- R218, R237: may a word set a flag of FSTAT by its result? -/
def mayFlag (cls op : Nat) (f : Fm) : Bool :=
  match cls with
  | 1 =>
    match op with
    | 4 => mdFtz f.md
    | 5 => mdFtz f.md
    | 6 => mdFtz f.md
    | 7 => false
    | 12 => false
    | 13 => false
    | _ => true
  | 2 => true
  | 4 => (op = 2 || op = 3) && mdCty f.md = 2
  | _ => false

/-- R179: has a word's register result the fixed latency of 4 cycles? -/
def fixedLat (cls op : Nat) : Bool := cls = 0 || (cls = 1 && op ≠ 50)

/-- R215, Table 7.8: the tile behind a system register that WRSR can write. -/
def srTile (n : Nat) : List Tile :=
  match n with
  | 0x12 => [.lpart]
  | 0x13 => [.teamctl]
  | 0x14 => [.ckmode]
  | 0x15 => [.fstat]
  | 0x16 => [.seed]
  | 0x19 => [.link]
  | _ => []

/-- The system registers that a word reads in a lane beside its operands. -/
def State.sysReads (s : State) (t : TRef) (cls op : Nat) (f : Fm) : List Tile :=
  match cls, op with
  | 0, 37 => srTile (s.rd32 t f.lit f.b)
  | 0, 46 => [.link]
  | 4, _ => if mdMsk f.md then [] else [.lpart]
  | 6, _ => (s.recSpan t.tid cls op f).map .v
  | _, _ => if usesSeed cls op f then [.seed] else []

/-- Table 7.8: the system registers of 64 bits, WCT and TCLK. -/
def wideSr (n : Nat) : Bool := n = 0x17 || n = 0x18

/-- The system registers that a word writes in a lane, and the second register that RDSR writes of a pair. -/
def State.sysWrites (s : State) (t : TRef) (cls op : Nat) (f : Fm) : List Tile :=
  match cls, op with
  | 0, 37 => if wideSr (s.rd32 t f.lit f.b) then (dstTiles f.dst 2).drop 1 else []
  | 0, 38 => srTile (s.rd32 t f.lit f.b)
  | 0, 3 => [.link]
  | 0, 44 => [.link]
  | 0, 45 => [.link]
  | _, _ => []

/-- The register tiles that a word reads. -/
def Fm.reads (cls op : Nat) (f : Fm) : List Tile :=
  let sp := spec cls op f
  srcTiles f.a (skWidth sp.a) ++ srcTiles f.b (skWidth sp.b) ++ srcTiles f.c (skWidth sp.c)

/-- The register tiles that a word writes. -/
def Fm.writes (cls op : Nat) (f : Fm) : List Tile := dstTiles f.dst (dkWidth (spec cls op f).dst)

/-- Table 17.5, OPND: the operand code of a register. -/
def Tile.code : Tile → Nat
  | .v n => n
  | .s n => 0x80 + n
  | .m n => 0xF0 + n
  | _ => 0

/-- Table 17.5: the detail word of a breach of the stall contract. DIST is 0 for KIND 2 alone. -/
def stallDetail (h : Thread) (e : SbEntry) (k : Tile) (write : Bool) : Nat :=
  let kind := if k = .fstat then 3 else if e.varl then 2 else if write then 1 else 0
  k.code * 2 ^ 24 + kind * 2 ^ 20 + (if kind = 2 then 0 else min 15 (h.dist - e.at_)) * 2 ^ 16 +
    (if kind = 2 then e.tok else 7) * 2 ^ 13

/-- R181: does an access of a tile break the contract that an earlier write sets? -/
def SbEntry.breaks (e : SbEntry) (h : Thread) (k : Tile) : Bool := e.tile = k && (e.varl || h.dist < e.at_ + 4)

/-- R183: the stall-check fault of a thread that makes these accesses (tile, and whether it writes). -/
def stallFlt (h : Thread) (acc : List (Tile × Bool)) : Option Flt :=
  acc.findSome? fun (k, w) =>
    (h.sb.find? fun e => e.breaks h k).map fun e => ⟨fcStall, stallDetail h e k w, 0, e.pc⟩

/-- R181, R183: note the writes of an issued word. A fixed-latency write is forgotten at distance 4. -/
def Thread.note (h : Thread) (ts : List Tile) (varl : Bool) (tok pc : Nat) : Thread :=
  { h with sb := (h.sb.filter fun e => (e.tile = .fstat || !ts.contains e.tile) && (e.varl || h.dist < e.at_ + 4)) ++
      ts.map fun k => ⟨k, h.dist, varl, tok, pc⟩ }

/-- Table 17.1: the unit of a quadrant that an operation uses: 0 arithmetic, 1 SFU, 2 coalescer, 3 collective. -/
def unitOf (cls op : Nat) : Option Nat :=
  if 42 ≤ op && op < 48 then some 0
  else
    match cls with
    | 0 => some 0
    | 1 => some 0
    | 2 => some 1
    | 3 => some 2
    | 4 => some 3
    | _ => none

/-- Table 17.1: the cycles for which an operation keeps its unit busy. -/
def busyCycles (cls op : Nat) (f : Fm) : Nat :=
  match cls with
  | 0 => if (op = 10 || op = 11 || op = 12) && mdW f.md = 1 then 4 else if op = 13 then 2 else 1
  | 1 =>
    if op = 50 then 2
    else if op = 49 then
      let sf := (f.imm.extractLsb' 0 5).toNat
      let df := (f.imm.extractLsb' 5 5).toNat
      if sf = 14 || sf = 15 || df = 14 || df = 15 then 2 else 1
    else 1
  | 2 => if mdType f.md = 1 then 8 else 4
  | 4 => if (op = 1 || op = 4) && mdCty f.md = 1 then 2 else 1
  | _ => 1

/-- Table 17.1: the result latency of class 2. -/
def sfuLat (op : Nat) (f : Fm) : Nat :=
  let b := if op = 5 || op = 6 then 28 else 20
  if mdType f.md = 1 then b + 4 else b

end Sys2Proof.Machine
end

