-- ==== Sys2Proof/Machine/Issue.lean ====
section
/-! DEFINITION. The issue of one instruction word for an issue group: the order of its faults (R187), its predicate
and labels (R33), the stall contract (R183), the lanes that park, its effect, and the advance of the group (R26). -/

namespace Sys2Proof.Machine

open Sys2Proof

/-- What the meaning of a word is given: the group as it stood, the operation, its fields, and the lanes in which it
takes effect. -/
structure Iss where
  g : IssueGroup
  cls : Nat
  op : Nat
  f : Fm
  on : List Lane
  /-- The context label of each member path before the instruction predicate joined it (R30, R31). -/
  ctx0 : List (Nat × Label)
  deriving DecidableEq, Repr

/-- The meaning of an instruction word. -/
structure Meaning where
  /-- The fault that the entry raises in a lane, after those of R187. -/
  flt : State → Iss → Lane → Option Flt := fun _ _ _ => none
  /-- Does the word close the teams' CLEAN bit in a lane (Table 7.7)? -/
  closes : State → Iss → Lane → Bool := fun _ _ _ => false
  /-- What the word must wait for before it goes on (R94), with what it does first; none where nothing holds it. A held
  word issues again when the wait is over, and finds its earlier hold in its group. -/
  hold : State → Iss → State × Option Hold := fun s _ => (s, none)
  /-- The lanes that park and will issue the word again, with the reports that this writes. -/
  stop : State → Iss → State × List (Lane × Park) := fun s _ => (s, [])
  /-- The effect in the lanes that go on. -/
  eff : State → Iss → State

/-- Table 20.12: the fault of an encoding. -/
def encFlt : EncFault → Flt
  | .illegalOpcode => ⟨fcOpcode, 0, 0, 0⟩
  | .illegalOperand => ⟨fcOperand, 0, 0, 0⟩
  | .reservedBit => ⟨fcReserved, 0, 0, 0⟩
  | .truncated => ⟨fcClause, 0, 0, 0⟩

/-- Table 6.8: does the instruction predicate hold in a thread? -/
def State.predOn (s : State) (f : Fm) (l : Lane) : Bool := s.mGet l.t f.pred != f.neg

/-- R183: the stall-check fault of a member thread. -/
def State.stallFltOf (s : State) (g : IssueGroup) (cls op : Nat) (f : Fm) (l : Lane) : Option Flt :=
  if !g.chk.contains l.pid then none
  else
    let p : List (Tile × Bool) := if f.pred = 7 then [] else [(.m f.pred, false)]
    let on : List (Tile × Bool) := if s.predOn f l then
      (Fm.reads cls op f ++ s.sysReads l.t cls op f).map (·, false) ++
        (Fm.writes cls op f ++ s.sysWrites l.t cls op f).map (·, true)
      else []
    stallFlt (s.thr l.t) (p ++ on)

/-- R166, R187, R295: the encoding fault of a word in a lane. The record of an ENQ whose span runs past v127 is an illegal operand,
which ranks before a reserved bit. -/
def State.encOf (s : State) (l : Lane) (enc : Option EncFault) (cls op : Nat) (f : Fm) : Option EncFault :=
  if (enc = none || enc = some .reservedBit) && (s.recSpan l.t.tid cls op f).any (127 < ·) then some .illegalOperand else enc

/-- R21, R295: does a lane's word name a v register that its group does not hold? -/
def State.beyond (s : State) (l : Lane) (cls op : Nat) (f : Fm) : Bool :=
  s.unheld l.g cls op f || (s.recSpan l.t.tid cls op f).any (s.regs l.g ≤ ·)

/-- The faults of one instruction word in the order of R187, then the stall check. -/
def State.judgeWord (s : State) (g : IssueGroup) (enc : Option EncFault) (cls op : Nat) (f : Fm) : State :=
  let s := s.judge g (s.members g.id) fun l => (s.encOf l enc cls op f).map encFlt
  let s := s.judge g (s.members g.id) fun l => if s.beyond l cls op f then some ⟨fcBound, 0, 0, 0⟩ else none
  s.judge g (s.members g.id) fun l => s.stallFltOf g cls op f l

/-- R33: the label of the instruction predicate joins the context label of every path that evaluates it. -/
def State.joinPred (s : State) (g : IssueGroup) (f : Fm) : State :=
  { s with sch.paths := s.sch.paths.map fun (p : Path) =>
      if p.state = .inClause g.id then { p with ctxLbl := p.ctxLbl ||| s.tileLbl p.g (.m f.pred) } else p }

/-- R25, R28, R42, R181: issuing resets the age, the promoted flag and the yield hint of every path of the group. -/
def State.markIssued (s : State) (g : IssueGroup) (stall : Nat) : State :=
  { s with sch.paths := s.sch.paths.map fun (p : Path) =>
      if p.state = .inClause g.id then
        { p with since := s.clk.cycle, promoted := false, hint := false, readyAt := s.clk.cycle + 1 + stall }
      else p }

/-- R213: CLEAN of the teams of some lanes becomes 0. -/
def State.close (s : State) (ls : List Lane) : State :=
  (tidsOf ls).foldl (fun s tid => s.setTeam tid fun t => { t with clean := false }) s

/-- The clause that a group stands in, as a path keeps it for its return. -/
def IssueGroup.mid (g : IssueGroup) (pid : Nat) : Mid := ⟨g.hdr, g.cls, g.endPc, g.yld, g.chk.contains pid⟩

/-- R39, Table 1.6: some lanes leave their path, parked at an address of the clause. -/
def State.park (s : State) (g : IssueGroup) (pc : Nat) (ls : List Lane) (why : Park) : State :=
  (dedup (ls.map (·.pid))).foldl (fun s pid =>
    let sub := maskOf ((ls.filter fun l => l.pid = pid).map fun l => l.t.lane)
    let (n, s) := s.splitPath pid sub
    s.setPath n fun p => { p with
      state := .parked why
      pc := pc
      mid := if pc < g.endPc then some (g.mid pid) else none
      since := s.clk.cycle
      promoted := false }) s

/-- Park lanes, each for its own reason, to issue the word again. -/
def State.parkAll (s : State) (g : IssueGroup) (ls : List (Lane × Park)) : State :=
  (dedup (ls.map (·.2))).foldl (fun s why => s.park g g.pc ((ls.filter fun x => x.2 = why).map (·.1)) why) s

/-- R180, R181, R183: the threads' counts of distance, the scoreboard's notes and the token of an issued word. The token rises in
every member thread, and falls again at once in a thread whose predicate is false, for which no result is to be written. -/
def State.account (s : State) (i : Iss) (all : List Lane) : State :=
  let f := i.f
  let varl := !fixedLat i.cls i.op
  let s := i.on.foldl (fun s l =>
    let ts := Fm.writes i.cls i.op f ++
      (if i.cls = 0 && (i.op = 37 || i.op = 38) then s.sysWrites l.t i.cls i.op f else []) ++
      (if mayFlag i.cls i.op f then [.fstat] else [])
    s.setThr l.t fun h => h.note ts varl f.tok i.g.pc) s
  let s := all.foldl (fun s l => s.setThr l.t fun h => { h with dist := h.dist + 1 + f.stall }) s
  (s.tokUp f.tok all).tokDown f.tok ((all.filter fun l => !(i.on.map (·.t)).contains l.t).map (·.t))

/-- R323: the unit that the word uses is busy. -/
def State.useUnit (s : State) (i : Iss) : State :=
  match unitOf i.cls i.op with
  | some u => { s with sch.busy := mset s.sch.busy (i.g.core, i.g.quad, u) (s.clk.cycle + busyCycles i.cls i.op i.f) }
  | none => s

/-- Note how far the paths of some lanes are charged. -/
def State.markCharged (s : State) (ls : List Lane) (c : Nat) : State :=
  (dedup (ls.map (·.pid))).foldl (fun s pid => s.setPath pid fun p => { p with charged := c }) s

/-- R26: a path leaves its issue group, Runnable at an address. -/
def State.leave (s : State) (g : IssueGroup) (pid pc : Nat) : State :=
  s.setPath pid fun p => { p with state := .runnable, pc := pc, hint := g.yld, mid := none, gateId := none }

/-- R26: the issue group closes; its threads return to their paths behind the clause. -/
def State.closeIg (s : State) (g : IssueGroup) : State :=
  { s with
    sch.paths := s.sch.paths.map fun (p : Path) =>
      if p.state = .inClause g.id then
        { p with state := .runnable, pc := g.endPc, hint := g.yld, mid := none, gateId := none }
      else p
    sch.igs := s.sch.igs.filter fun (x : IssueGroup) => x.id ≠ g.id }

/-- R94: hold an issue group at the word that it issues. -/
def State.holdIg (s : State) (g : IssueGroup) (h : Hold) : State :=
  let s := { s with clk.cur := none }
  s.setIg g.id fun x => { x with hold := some h, notBefore := s.clk.cycle + 1 }

/-- R26, R181: the group stands behind the word it has issued, and closes behind its last. -/
def State.advance (s : State) (g : IssueGroup) (len stall : Nat) : State :=
  let s := { s with clk.cur := none }
  let pc := g.pc + 4 * len
  if g.endPc ≤ pc then s.closeIg g
  else (s.setIg g.id fun x => { x with pc := pc, hold := none, heldAt := none, notBefore := s.clk.cycle + 1 + stall }).sweepIg g.id

/-- R187: the faults of the entry, and the lanes in which the word goes on. -/
def State.takeIn (s : State) (g : IssueGroup) (cls op : Nat) (f : Fm) (m : Meaning) : State × Iss :=
  let ctx0 := (s.sch.paths.filter fun p => p.state = .inClause g.id).map fun p => (p.id, p.ctxLbl)
  let s := (s.joinPred g f).markIssued g f.stall
  let on := (s.members g.id).filter fun l => s.predOn f l
  let i : Iss := ⟨g, cls, op, f, on, ctx0⟩
  let s := s.close (on.filter fun l => m.closes s i l)
  let s := s.judge g on fun l => m.flt s i l
  (s, { i with on := s.alive on })

/-- The word takes effect in the lanes whose predicate holds and that do not park. -/
def State.perform (s : State) (i : Iss) (m : Meaning) : State :=
  let (s, ps) := m.stop s i
  let i := { i with on := s.alive (i.on.filter fun l => !(ps.map fun x => x.1.t).contains l.t) }
  let s := s.parkAll i.g (ps.filter fun x => (s.team? x.1.t.tid).isSome)
  let s := (s.account i (s.members i.g.id)).useUnit i
  (m.eff s i).advance i.g i.f.len i.f.stall

/-- R94, R187: one instruction word issues for an issue group. A word that must wait holds the group, and issues again
when the wait is over. -/
def State.issue (s : State) (g : IssueGroup) (i : Instr) (m : Meaning) : State :=
  match i.view with
  | none => s
  | some (cls, op, b) =>
    let f := b.fm
    let (s, is) := (s.judgeWord g i.check cls op f).takeIn g cls op f m
    match m.hold s is with
    | (s, some h) => s.holdIg g h
    | (s, none) => s.perform is m

/-- An instruction word runs for the issue group that the step has selected. -/
def runWord (i : Instr) (m : Meaning) (s : State) : Host.Outcome State Fault Refusal :=
  match s.clk.cur.bind s.ig? with
  | some g => .next (s.issue g i m)
  | none => .fault .noIssueGroup

/-! ## Words that write a register -/

/-- What an operation gives in one lane: the words of its destination, the flags it sets, and SEED after its draws. -/
structure AluOut where
  ws : List Word
  fl : BitVec 8 := 0
  seed : Option Word := none
  deriving DecidableEq, Repr

/-- The label of an operation's result in a lane: its operands, SEED under SR, and the context (R110, R221). -/
def State.aluLbl (s : State) (i : Iss) (l : Lane) : Label :=
  s.srcLbl l.g i.cls i.op i.f ||| l.ctx ||| (if usesSeed i.cls i.op i.f then s.tileLbl l.g .seed else 0)

/-- R111: the label that joins the FSTAT tile of each group. -/
def flagLbls (may : Bool) (rs : List LaneRes) : List LblWrite :=
  if may then rs.map fun r => ⟨r.l.g, .fstat, r.lbl, false⟩ else []

/-- R147: the draws of some lanes write SEED, with the thread's context label. -/
def State.putSeeds (s : State) (os : List (Lane × AluOut)) : State :=
  let ds := os.filterMap fun (l, o) => o.seed.map fun x => (l, x)
  let s' := ds.foldl (fun s (l, x) => s.setThr l.t fun h => { h with seed := x }) s
  (dedup (ds.map fun d => d.1.g)).foldl (fun s' g =>
    s'.applyLbl ⟨g, .seed, (ds.filter fun d => d.1.g = g).foldl (fun a d => a ||| d.1.ctx) 0, s.covers g (ds.map (·.1))⟩) s'

/-- Write the results of an operation `lat` cycles from now, with its flags and labels. -/
def State.putAlu (s : State) (i : Iss) (lat : Nat) (os : List (Lane × AluOut)) : State :=
  let rs := os.map fun (l, o) => (⟨l, o.ws, s.aluLbl i l⟩ : LaneRes)
  let tiles := Fm.writes i.cls i.op i.f
  let s' := s.putSeeds os
  { s' with sch.pend := s'.sch.pend ++ [{
      due := s.clk.cycle + lat
      writes := resWrites tiles rs
      lbls := s.resLbls tiles rs ++ flagLbls (mayFlag i.cls i.op i.f) rs
      flags := os.map fun (l, o) => (l.t, o.fl)
      links := []
      toks := tokPairs i.f.tok i.on }] }

/-- The meaning of a word whose effect is to compute a register result in each lane. -/
def Meaning.alu (lat : Iss → Nat) (out : State → Iss → Lane → AluOut) : Meaning where
  eff s i := s.putAlu i (lat i) (i.on.map fun l => (l, out s i l))

/-- R179: the fixed latency of classes 0 and 1. -/
def lat4 (_ : Iss) : Nat := 4

end Sys2Proof.Machine
end

