-- ==== Sys2Proof/Machine/Float.lean ====
section
/-! DEFINITION. The floating-point, conversion and packing instructions of class 1 (R218 to R232), and the block
quantisation of QBLK over the members of its block (R235). -/

namespace Sys2Proof.Machine

open Sys2Proof

/-! ## Elements of a floating-point operand (R220) -/

/-- The format of the elements of TYPE. -/
def typeFmt (m : BitVec 10) : Nat :=
  match mdType m with
  | 2 => fmtF16
  | 3 => fmtBF16
  | _ => fmtF32

/-- The number of elements of TYPE and X4. -/
def typeCount (m : BitVec 10) : Nat :=
  match mdType m with
  | 0 => 1
  | 1 => 2
  | _ => if mdX4 m then 4 else 2

/-- Table 6.4: the numeric value of a constant code. -/
def constVal (k : Nat) : FV :=
  match constInt k with
  | some x => FV.ofInt x
  | none => decode5 fmtF32 (constF32 k)

/-- R165: a constant converted exactly into a format; none where the format holds no such value. -/
def constFmt (fmt k : Nat) : Option Nat :=
  if fmt = fmtE8M0 then
    match constVal k with
    | .fin false m e => if m ≠ 0 && 2 ^ Nat.log2 m = m then some (e + Nat.log2 m + 127).toNat else none
    | _ => none
  else
    let c := (roundTo fmt 0 (constVal k) 0).1
    if FV.eqv (decode5 fmt c) (constVal k) then some c else none

/-- The bits of a literal in a floating-point position of `w` registers: the literal in each of them (R176). -/
def litRegs (lit : Word) (w : Nat) : Nat := if w = 2 then lit.toNat * (2 ^ 32 + 1) else lit.toNat

/-- Put element codes of `n` bits together, element 0 lowest. -/
def packCodes (n : Nat) : List Nat → Nat
  | [] => 0
  | x :: xs => x % 2 ^ n + 2 ^ n * packCodes n xs

/-- The raw bits of a floating-point operand of `w` registers whose elements have `n` bits, `cnt` of them. -/
def State.fpRaw (s : State) (t : TRef) (lit : Word) (c : Code) (w fmt cnt : Nat) : Nat :=
  match Opnd.ofCode c with
  | .const k => packCodes (fmtBits fmt) (List.replicate cnt ((constFmt fmt k).getD 0))
  | .lit => litRegs lit w
  | _ => s.intVal t lit c w 0 true

/-- The exact value of an element, read under FTZ, with the flags of reading it (R139, R145). -/
def readElem (fmt : Nat) (ftz : Bool) (x : Nat) : FV × BitVec 8 :=
  let (v, fl) := (decode5 fmt x).ftz (ftz && fmt = fmtF32)
  (v, fl ||| rsv4 fmt x)

/-- The elements of a floating-point operand of a lane, with the flags of reading them. -/
def State.fpElems (s : State) (i : Iss) (l : Lane) (c : Code) : List (FV × BitVec 8) :=
  let m := i.f.md
  let fmt := typeFmt m
  let n := fmtBits fmt
  let x := s.fpRaw l.t i.f.lit c (fpRegs m) fmt (typeCount m)
  (List.range (typeCount m)).map fun e => readElem fmt (mdFtz m) (bitsOf x (n * e) n)

/-- Round exact results one after another into a format, each with its own draw under SR (R142 to R147). -/
def roundAll (fmt rm : Nat) (ftz : Bool) : List (FV × BitVec 8) → Word → List Nat × BitVec 8 × Word
  | [], seed => ([], 0, seed)
  | (x, fl) :: xs, seed =>
    let (c, fl', seed) := roundDraw fmt rm ftz x seed
    let (cs, fl'', seed) := roundAll fmt rm ftz xs seed
    (c :: cs, fl ||| fl' ||| fl'', seed)

/-- NV where an operation was invalid (R222). -/
def nvIf (b : Bool) : BitVec 8 := if b then fNV else 0

/-- The exact result of a rounded operation on one element: RM, the variant, and x, y, z. -/
abbrev FpOp := Nat → Nat → FV → FV → FV → FV × BitVec 8

/-- R221: the words, flags and SEED of a rounded operation in a lane. -/
def fpOut (r : FpOp) (s : State) (i : Iss) (l : Lane) : AluOut :=
  let m := i.f.md
  let fmt := typeFmt m
  let xs := s.fpElems i l i.f.a
  let ys := s.fpElems i l i.f.b
  let zs := s.fpElems i l i.f.c
  let rs := (xs.zip (ys.zip zs)).map fun ((x, fx), (y, fy), (z, fz)) =>
    let (v, fl) := r (mdRm m) (mdFopx m) x y z
    (v, fl ||| fx ||| fy ||| fz)
  let (cs, fl, seed) := roundAll fmt (mdRm m) (mdFtz m) rs (s.thr l.t).seed
  ⟨wordsOf (packCodes (fmtBits fmt) cs) (fpRegs m), fl, if mdRm m = 5 then some seed else none⟩

/-- Table 8.2 and R222. -/
def opFadd : FpOp := fun rm _ x y _ => let (v, nv) := FV.add (rm == 3) x y; (v, nvIf nv)
def opFsub : FpOp := fun rm _ x y _ => let (v, nv) := FV.add (rm == 3) x y.neg; (v, nvIf nv)
def opFmul : FpOp := fun _ _ x y _ => let (v, nv) := FV.mul x y; (v, nvIf nv)
def opFfma : FpOp := fun rm opx x y z =>
  let (p, n1) := FV.mul x y
  let p := if opx.testBit 0 then p.neg else p
  let q := if opx.testBit 1 then z.neg else z
  let (v, n2) := FV.add (rm == 3) p q
  (v, nvIf (n1 || n2))

def faddOut := fpOut opFadd
def fsubOut := fpOut opFsub
def fmulOut := fpOut opFmul
def ffmaOut := fpOut opFfma

/-- R221: the scale n of element `e` of FSCALE, an integer that FTZ never flushes. -/
def scaleArg (m : BitVec 10) (raw e : Nat) : Int :=
  if mdType m < 2 then signedOf raw 32 else signedOf (bitsOf raw (16 * e) 16) 16

/-- R221: FSCALE. -/
def fscaleOut (s : State) (i : Iss) (l : Lane) : AluOut :=
  let m := i.f.md
  let fmt := typeFmt m
  let raw := match Opnd.ofCode i.f.b with
    | .const k => if mdType m < 2 then constBits k 32
        else packCodes 16 (List.replicate (typeCount m) (constBits k 16))
    | .lit => litRegs i.f.lit (if mdX4 m then 2 else 1)
    | _ => s.intVal l.t i.f.lit i.f.b (if mdX4 m then 2 else 1) 0 true
  let xs := (s.fpElems i l i.f.a).zipIdx
  let rs := xs.map fun ((x, fx), e) => (x.scale (scaleArg m raw e), fx)
  let (cs, fl, seed) := roundAll fmt (mdRm m) (mdFtz m) rs (s.thr l.t).seed
  ⟨wordsOf (packCodes (fmtBits fmt) cs) (fpRegs m), fl, if mdRm m = 5 then some seed else none⟩

/-! ## Minimum, maximum, comparison, class and integral values -/

/-- R224: the smaller of two values (the larger with `max`), under NUM or not. -/
def pickFp (max num : Bool) (x y : FV) : FV :=
  match x.isNan, y.isNan with
  | true, true => .nan
  | true, false => if num then y else .nan
  | false, true => if num then x else .nan
  | false, false => if max then (if FV.lt x y then y else x) else (if FV.lt y x then y else x)

/-- R224: FMIN and FMAX write a value of the operands again, without rounding. -/
def minmaxOut (max : Bool) (s : State) (i : Iss) (l : Lane) : AluOut :=
  let m := i.f.md
  let fmt := typeFmt m
  let num := (mdFopx m).testBit 0
  let rs := ((s.fpElems i l i.f.a).zip (s.fpElems i l i.f.b)).map fun ((x, fx), (y, fy)) =>
    ((roundTo fmt 0 (pickFp max num x y) 0).1, fx ||| fy)
  ⟨wordsOf (packCodes (fmtBits fmt) (rs.map (·.1))) (fpRegs m), rs.foldl (fun a r => a ||| r.2) 0, none⟩

def fminOut := minmaxOut false
def fmaxOut := minmaxOut true

/-- R225. -/
def fcmpOut (s : State) (i : Iss) (l : Lane) : AluOut :=
  let m := i.f.md
  let n := fmtBits (typeFmt m)
  let rs := ((s.fpElems i l i.f.a).zip (s.fpElems i l i.f.b)).map fun ((x, fx), (y, fy)) =>
    (fcmpHolds (mdFopx m) x y, fx ||| fy)
  let fl := rs.foldl (fun a r => a ||| r.2) 0
  match Opnd.ofCode i.f.dst with
  | .pred _ => ⟨[if rs.any (·.1) then 1 else 0], fl, none⟩
  | _ => ⟨wordsOf (packCodes n (rs.map fun r => if r.1 then 2 ^ n - 1 else 0)) (fpRegs m), fl, none⟩

/-- R226: class masks lie 16 bits apart in one register. -/
def fclassOut (s : State) (i : Iss) (l : Lane) : AluOut :=
  let m := i.f.md
  let fmt := typeFmt m
  let cs := (s.fpElems i l i.f.a).map fun x => classMask fmt x.1
  match Opnd.ofCode i.f.dst with
  | .pred _ => ⟨[if (cs.headD 0) &&& (s.rd32 l.t i.f.lit i.f.b % 512) != 0 then 1 else 0], 0, none⟩
  | _ => ⟨wordsOf (packCodes 16 cs) 1, 0, none⟩

/-- R227: an integral value always has a code, so rounding it again is exact. -/
def frndOut (s : State) (i : Iss) (l : Lane) : AluOut :=
  let m := i.f.md
  let fmt := typeFmt m
  let rs := (s.fpElems i l i.f.a).map fun (x, fx) =>
    let (v, nx) := x.integral (mdRm m)
    ((roundTo fmt 0 v 0).1, fx ||| (if nx then fNX else 0))
  ⟨wordsOf (packCodes (fmtBits fmt) (rs.map (·.1))) (fpRegs m), rs.foldl (fun a r => a ||| r.2) 0, none⟩

/-! ## Dot products -/

/-- The exact sum of terms under R222: NaN where a term is NaN or where infinities of both signs meet. -/
def sumFV (rd : Bool) : List FV → FV
  | [] => .fin false 0 0
  | [x] => x
  | x :: y :: xs => sumFV' (FV.add rd x y).1 xs
where
  sumFV' (acc : FV) : List FV → FV
    | [] => acc
    | x :: xs => sumFV' (FV.add rd acc x).1 xs

/-- Infinities of both signs stand among the terms. -/
def infClash (ts : List FV) : Bool :=
  ts.any (fun x => x == .inf true) && ts.any (fun x => x == .inf false)

/-- R228: z plus the products of two element lists, rounded once to FP32. -/
def dotOut (fa fb n : Nat) (s : State) (i : Iss) (l : Lane) : AluOut :=
  let m := i.f.md
  let cnt := 32 / n
  let rd := fun c fmt => (List.range cnt).map fun e => decode5 fmt (bitsOf (s.fpRaw l.t i.f.lit c 1 fmt cnt) (n * e) n)
  let (z, fz) := readElem fmtF32 (mdFtz m) (s.fpRaw l.t i.f.lit i.f.c 1 fmtF32 1)
  let ps := ((rd i.f.a fa).zip (rd i.f.b fb)).map fun (x, y) => FV.mul x y
  let ts := z :: ps.map (·.1)
  let (c, fl, _) := roundDraw fmtF32 (mdRm m) (mdFtz m) (sumFV (mdRm m == 3) ts) 0
  ⟨[BitVec.ofNat 32 c], fz ||| fl ||| nvIf (ps.any (·.2) || infClash ts), none⟩

/-- R228: the 8-bit format of a code of FDOT4. -/
def fdot4Fmt (k : Nat) : Nat :=
  match k with
  | 0 => fmtE4M3
  | 1 => fmtE5M2
  | _ => fmtK8

def fdot2Out (s : State) (i : Iss) (l : Lane) : AluOut := dotOut (typeFmt i.f.md) (typeFmt i.f.md) 16 s i l
def fdot4Out (s : State) (i : Iss) (l : Lane) : AluOut :=
  dotOut (fdot4Fmt (mdType i.f.md)) (fdot4Fmt (mdFopx i.f.md)) 8 s i l

/-! ## Packing and conversion -/

/-- Table 8.8: the element width. -/
def packBits (m : BitVec 10) : Nat :=
  match mdType m with
  | 0 => 16
  | 1 => 8
  | _ => 4

/-- R232. -/
def packOut (s : State) (i : Iss) (l : Lane) : AluOut :=
  let w := packBits i.f.md
  ⟨[BitVec.ofNat 32 (s.rd32 l.t i.f.lit i.f.a % 2 ^ w + s.rd32 l.t i.f.lit i.f.b % 2 ^ w * 2 ^ w)], 0, none⟩

/-- R232. -/
def unpkOut (s : State) (i : Iss) (l : Lane) : AluOut :=
  let w := packBits i.f.md
  let j := s.rd32 l.t i.f.lit i.f.b % (32 / w)
  let x := bitsOf (s.rd32 l.t i.f.lit i.f.a) (w * j) w
  ⟨[if i.f.md.getLsbD 2 then BitVec.ofNat 32 (wrapNat (signedOf x w) 32) else BitVec.ofNat 32 x], 0, none⟩

/-! Fields of CVT's IMM (Table 8.6). -/
def cvtSfmt (f : Fm) : Nat := (f.imm.extractLsb' 0 5).toNat
def cvtDfmt (f : Fm) : Nat := (f.imm.extractLsb' 5 5).toNat
def cvtRm (f : Fm) : Nat := (f.imm.extractLsb' 10 3).toNat
def cvtFtz (f : Fm) : Bool := f.imm.getLsbD 13
def cvtScl (f : Fm) : Nat := (f.imm.extractLsb' 14 2).toNat

/-- Does CVT read a constant that its source format does not hold? Its value is then open (R165). -/
def cvtOpen (f : Fm) : Bool :=
  match Opnd.ofCode f.a with
  | .const k => (fmtInt (cvtSfmt f)).isNone && (constFmt (cvtSfmt f) k).isNone
  | _ => false

/-- The source code of a CVT. -/
def State.cvtSrc (s : State) (i : Iss) (l : Lane) : Nat :=
  let sf := cvtSfmt i.f
  let w := if sf = 14 || sf = 15 then 2 else 1
  match Opnd.ofCode i.f.a with
  | .const k => if (fmtInt sf).isSome then constBits k (32 * w)
      else (constFmt sf k).getD (Config.freeWord s.clk.free).toNat
  | _ => s.intVal l.t i.f.lit i.f.a w 0 false

/-- R231: the value of a scale code as an exponent, none for 0xFF (R141). -/
def scaleExp (scl c : Nat) : Option Int :=
  if scl = 0 then some 0
  else if c = 0xFF then none
  else some (if scl = 1 then (c : Int) - 127 else 127 - (c : Int))

/-- R231. -/
def cvtOut (s : State) (i : Iss) (l : Lane) : AluOut :=
  let sf := cvtSfmt i.f
  let df := cvtDfmt i.f
  let src := s.cvtSrc i l % 2 ^ fmtBits sf
  let x := decode5 sf src
  let x := match scaleExp (cvtScl i.f) (s.rd32 l.t i.f.lit i.f.b % 256) with
    | some e => x.scale e
    | none => .nan
  let (x, fz) := x.ftz (cvtFtz i.f)
  let (c, fl, seed) := roundDraw df (cvtRm i.f) (cvtFtz i.f) x (s.thr l.t).seed
  ⟨wordsOf c (if df = 14 || df = 15 then 2 else 1), rsv4 sf src ||| fz ||| fl,
    if cvtRm i.f = 5 then some seed else none⟩

/-- R231: CVT, which draws a free value for a constant that its source format does not hold. -/
def cvtMeaning : Meaning where
  eff s i :=
    let s := s.putAlu i 4 (i.on.map fun l => (l, cvtOut s i l))
    if cvtOpen i.f then { s with clk.free := s.clk.free + 1 } else s

/-! ## Block quantisation -/

/-! Fields of QBLK's IMM (Table 8.9). -/
def qblkFmt (f : Fm) : Nat := (f.imm.extractLsb' 0 5).toNat
def qblkRm (f : Fm) : Nat := (f.imm.extractLsb' 5 3).toNat
def qblkFtz (f : Fm) : Bool := f.imm.getLsbD 8

/-- R235: the largest finite magnitude of a destination format. -/
def qblkMax (fmt : Nat) : Nat :=
  match fmt with
  | 4 => 448
  | 5 => 57344
  | 6 => 4096
  | 9 => 256
  | 7 => 127
  | _ => 7

/-- Is m × 2^(e − k) at most `max`? -/
def fitsAt (max m : Nat) (e k : Int) : Bool :=
  if k ≤ e then m * 2 ^ (e - k).toNat ≤ max else m ≤ max * 2 ^ (k - e).toNat

/-- The least k from a starting point upwards with m × 2^(e − k) at most `max`. -/
def leastExp (max m : Nat) (e : Int) : Nat → Int → Int
  | 0, k => k
  | n + 1, k => if fitsAt max m e k then k else leastExp max m e n (k + 1)

/-- R235: the shared scale code of a block's inputs. -/
def qblkScale (fmt : Nat) (xs : List FV) : Nat :=
  if xs.any fun x => x.isNan || x.isInf then 0xFF
  else
    let mags := xs.map fun x => match x with | .fin _ m e => FV.fin false m e | y => y
    match mags.foldl (fun a x => if FV.lt a x then x else a) (FV.fin false 0 0) with
    | .fin _ m e =>
      if m = 0 then 127
      else
        let k := leastExp (qblkMax fmt) m e 24 (topExp m e - 16)
        ((if k < -127 then -127 else k) + 127).toNat
    | _ => 0xFF

/-- R235: one member's code, flags and SEED under the shared scale. -/
def qblkOne (f : Fm) (c : Nat) (x : FV) (seed : Word) : Nat × BitVec 8 × Word :=
  let fmt := qblkFmt f
  let rm := qblkRm f
  let drawn := if rm = 5 then draw seed else seed
  if c = 0xFF then
    (if fmt = 7 ∨ fmt = 10 then 0 else match fmt with | 4 => 0x7F | 5 => 0x7E | 6 => 0x80 | _ => 0x20, fNV, drawn)
  else
    let r := roundTo fmt rm (x.scale (127 - (c : Int))) drawn
    (r.1, r.2, drawn)

/-- R235: what each member of a complete block receives. -/
def State.qblkOuts (s : State) (i : Iss) (ls : List Lane) : List (Lane × AluOut) :=
  let xs := ls.map fun l => readElem fmtF32 (qblkFtz i.f) (s.fpRaw l.t i.f.lit i.f.a 1 fmtF32 1)
  let c := qblkScale (qblkFmt i.f) (xs.map (·.1))
  (ls.zip xs).map fun (l, (x, fz)) =>
    let (q, fl, seed) := qblkOne i.f c x (s.thr l.t).seed
    (l, ⟨[BitVec.ofNat 32 (q % 256 + c * 256)], fz ||| fl, if qblkRm i.f = 5 then some seed else none⟩)

/-! ## The instructions -/

/-- R221: x + y; short form. -/
def execFadd (f : SForm) (s : State) : Host.Outcome State Fault Refusal :=
  runWord (.fadd f) (.alu lat4 faddOut) s

/-- R221: x + y; long form. -/
def execFaddLong (f : LForm) (s : State) : Host.Outcome State Fault Refusal :=
  runWord (.faddLong f) (.alu lat4 faddOut) s

/-- R221: x − y; short form. -/
def execFsub (f : SForm) (s : State) : Host.Outcome State Fault Refusal :=
  runWord (.fsub f) (.alu lat4 fsubOut) s

/-- R221: x − y; long form. -/
def execFsubLong (f : LForm) (s : State) : Host.Outcome State Fault Refusal :=
  runWord (.fsubLong f) (.alu lat4 fsubOut) s

/-- R221: x × y; short form. -/
def execFmul (f : SForm) (s : State) : Host.Outcome State Fault Refusal :=
  runWord (.fmul f) (.alu lat4 fmulOut) s

/-- R221: x × y; long form. -/
def execFmulLong (f : LForm) (s : State) : Host.Outcome State Fault Refusal :=
  runWord (.fmulLong f) (.alu lat4 fmulOut) s

/-- R221: x × y + z, rounded once. -/
def execFfma (f : LForm) (s : State) : Host.Outcome State Fault Refusal :=
  runWord (.ffma f) (.alu lat4 ffmaOut) s

/-- R224: minimum; short form. -/
def execFmin (f : SForm) (s : State) : Host.Outcome State Fault Refusal :=
  runWord (.fmin f) (.alu lat4 fminOut) s

/-- R224: minimum; long form. -/
def execFminLong (f : LForm) (s : State) : Host.Outcome State Fault Refusal :=
  runWord (.fminLong f) (.alu lat4 fminOut) s

/-- R224: maximum; short form. -/
def execFmax (f : SForm) (s : State) : Host.Outcome State Fault Refusal :=
  runWord (.fmax f) (.alu lat4 fmaxOut) s

/-- R224: maximum; long form. -/
def execFmaxLong (f : LForm) (s : State) : Host.Outcome State Fault Refusal :=
  runWord (.fmaxLong f) (.alu lat4 fmaxOut) s

/-- R225: comparison; short form. -/
def execFcmp (f : SForm) (s : State) : Host.Outcome State Fault Refusal :=
  runWord (.fcmp f) (.alu lat4 fcmpOut) s

/-- R225: comparison; long form. -/
def execFcmpLong (f : LForm) (s : State) : Host.Outcome State Fault Refusal :=
  runWord (.fcmpLong f) (.alu lat4 fcmpOut) s

/-- R226: class; short form. -/
def execFclass (f : SForm) (s : State) : Host.Outcome State Fault Refusal :=
  runWord (.fclass f) (.alu lat4 fclassOut) s

/-- R226: class; long form. -/
def execFclassLong (f : LForm) (s : State) : Host.Outcome State Fault Refusal :=
  runWord (.fclassLong f) (.alu lat4 fclassOut) s

/-- R227: round to integral; short form. -/
def execFrnd (f : SForm) (s : State) : Host.Outcome State Fault Refusal :=
  runWord (.frnd f) (.alu lat4 frndOut) s

/-- R227: round to integral; long form. -/
def execFrndLong (f : LForm) (s : State) : Host.Outcome State Fault Refusal :=
  runWord (.frndLong f) (.alu lat4 frndOut) s

/-- R228: two-element dot product. -/
def execFdot2 (f : LForm) (s : State) : Host.Outcome State Fault Refusal :=
  runWord (.fdot2 f) (.alu lat4 fdot2Out) s

/-- R228: four-element dot product. -/
def execFdot4 (f : LForm) (s : State) : Host.Outcome State Fault Refusal :=
  runWord (.fdot4 f) (.alu lat4 fdot4Out) s

/-- R221: x × 2ⁿ; short form. -/
def execFscale (f : SForm) (s : State) : Host.Outcome State Fault Refusal :=
  runWord (.fscale f) (.alu lat4 fscaleOut) s

/-- R221: x × 2ⁿ; long form. -/
def execFscaleLong (f : LForm) (s : State) : Host.Outcome State Fault Refusal :=
  runWord (.fscaleLong f) (.alu lat4 fscaleOut) s

/-- R232: pack; short form. -/
def execPack (f : SForm) (s : State) : Host.Outcome State Fault Refusal :=
  runWord (.pack f) (.alu lat4 packOut) s

/-- R232: pack; long form. -/
def execPackLong (f : LForm) (s : State) : Host.Outcome State Fault Refusal :=
  runWord (.packLong f) (.alu lat4 packOut) s

/-- R232: unpack; short form. -/
def execUnpk (f : SForm) (s : State) : Host.Outcome State Fault Refusal :=
  runWord (.unpk f) (.alu lat4 unpkOut) s

/-- R232: unpack; long form. -/
def execUnpkLong (f : LForm) (s : State) : Host.Outcome State Fault Refusal :=
  runWord (.unpkLong f) (.alu lat4 unpkOut) s

/-- R231: conversion. -/
def execCvt (f : DForm) (s : State) : Host.Outcome State Fault Refusal :=
  runWord (.cvt f) cvtMeaning s

end Sys2Proof.Machine
end

