-- ==== Sys2Proof/Machine/Collective.lean ====
section
/-! DEFINITION. What a collective of class 4 gives each member of its complete set (R256 to R261), and the fixed trees
of reductions and scans (R156, R157). -/

namespace Sys2Proof.Machine

open Sys2Proof

/-- R36: T, the smaller of the tile size that LPART names and the group width. -/
def tileT (lpart width : Nat) : Nat := min (2 ^ lpart) width

/-- R36: the group lanes of the tile of size `T` that holds a lane. -/
def tileMask (k T : Nat) : BitVec 64 := maskOf ((List.range T).map fun i => k - k % T + i)

/-- R37: the group lanes that a membership mask names for a lane. -/
def memberMask (k : Nat) (m : Word) : BitVec 64 := m.zeroExtend 64 <<< (32 * (k / 32))

/-- The width of a team's groups. -/
def State.widthOf (s : State) (tid : Nat) : Nat :=
  match s.team? tid with
  | some t => t.width
  | none => 32

/-- R36, R37: the set that a thread names at a collective; `msk` says that a mask operand names it. -/
def State.namedSet (s : State) (f : Fm) (l : Lane) : BitVec 64 :=
  if mdMsk f.md then memberMask l.t.lane (BitVec.ofNat 32 (s.rd32 l.t f.lit f.c))
  else tileMask l.t.lane (tileT (s.thr l.t).lpart (s.widthOf l.t.tid))

/-- R234: the block of 16 group lanes that holds a lane. -/
def blockMask (k : Nat) : BitVec 64 := tileMask k 16

/-- R257: the number of positions of a set: T in tile mode and 32 in mask mode. -/
def State.positions (s : State) (f : Fm) (ls : List Lane) : Nat :=
  if mdMsk f.md then 32
  else
    match ls with
    | l :: _ => tileT (s.thr l.t).lpart (s.widthOf l.t.tid)
    | [] => 32

/-- R257: bit j of a mask stands for group lane 32 × ⌊k ÷ 32⌋ + j. -/
def maskWord (ls : List Lane) : Word := ls.foldl (fun m l => m ||| (1 : Word) <<< (l.t.lane % 32)) 0

/-! ## Trees -/

/-- Pairwise combination of one level. -/
def treeLevel {α : Type} (comb : α → α → α) : List (Option α) → List (Option α)
  | [] => []
  | [x] => [x]
  | x :: y :: xs =>
    (match x, y with
      | some a, some b => some (comb a b)
      | some a, none => some a
      | none, y => y) :: treeLevel comb xs

/-- R156: the fixed tree over 2^n positions. -/
def treeFold {α : Type} (comb : α → α → α) : Nat → List (Option α) → Option α
  | 0, xs => xs.headD none
  | n + 1, xs => treeFold comb n (treeLevel comb xs)

/-- One step of a float reduction: its value and the flags so far. -/
def combFloat (rop : Nat) (a b : FV × BitVec 8) : FV × BitVec 8 :=
  if rop = 0 then
    let (v, nv) := FV.add false a.1 b.1
    let (r, fl) := rneF32 v
    (r, a.2 ||| b.2 ||| fl ||| nvIf nv)
  else (pickFp (rop == 2) false a.1 b.1, a.2 ||| b.2)

/-- R157: the identity of an operation on a type. -/
def ropIdentity (rop ty : Nat) : Nat :=
  if ty = 2 then
    match rop with
    | 0 => 0x80000000
    | 1 => 0x7F800000
    | _ => 0xFF800000
  else
    match rop with
    | 1 => if ty = 1 then 0xFFFFFFFF else 0x7FFFFFFF
    | 2 => if ty = 1 then 0 else 0x80000000
    | 3 => 0xFFFFFFFF
    | _ => 0

/-- R260: an integer or bitwise step on 32-bit values. -/
def combInt (rop ty : Nat) (a b : Nat) : Nat :=
  let rd := fun (x : Nat) => if ty = 1 then (x : Int) else signedOf x 32
  match rop with
  | 0 => (a + b) % 2 ^ 32
  | 1 => if rd a ≤ rd b then a else b
  | 2 => if rd b ≤ rd a then a else b
  | 3 => a &&& b
  | 4 => a ||| b
  | _ => a ^^^ b

/-- R156, R157: the reduction of the values at the positions that `keep` admits, with its flags. -/
def reduceAt (rop ty n : Nat) (vals : List (Nat × Nat)) (keep : Nat → Bool) : Nat × BitVec 8 :=
  let at_ := fun j => (vals.find? fun v => v.1 = j && keep j).map (·.2)
  if ty = 2 then
    match treeFold (combFloat rop) (Nat.log2 n) ((List.range n).map fun j => (at_ j).map fun x => (decode5 fmtF32 x, 0)) with
    | some (v, fl) => ((roundTo fmtF32 0 v 0).1, fl)
    | none => (ropIdentity rop ty, 0)
  else
    match treeFold (combInt rop ty) (Nat.log2 n) ((List.range n).map at_) with
    | some x => (x, 0)
    | none => (ropIdentity rop ty, 0)

/-! ## Results -/

/-- R259: the source position of a shuffle. -/
def shflSrc (mode Tm p b : Nat) : Nat :=
  match mode with
  | 0 => b % Tm
  | 1 => (p + b) % Tm
  | 2 => p ^^^ (b % Tm)
  | _ => (Tm - 1 - p) ^^^ (b % Tm)

/-- Registers of a value of SHFL and MATCH. -/
def collRegs (f : Fm) : Nat := if mdCty f.md = 1 then 2 else 1

/-- A member's value operand. -/
def State.collVal (s : State) (f : Fm) (l : Lane) : Nat := s.intVal l.t f.lit f.a (collRegs f) 0 false

/-- R258: VOTE. -/
def State.voteOut (s : State) (f : Fm) (ls : List Lane) (_ : Lane) : AluOut :=
  let ps := ls.map fun l => s.rdPred l.t f.a
  match mdCopx f.md with
  | 0 => ⟨[if ps.any id then 1 else 0], 0, none⟩
  | 1 => ⟨[if ps.all id then 1 else 0], 0, none⟩
  | 2 => ⟨[if ps.all id || !ps.any id then 1 else 0], 0, none⟩
  | _ => ⟨[maskWord (ls.filter fun l => s.rdPred l.t f.a)], 0, none⟩

/-- R259: SHFL. -/
def State.shflOut (s : State) (f : Fm) (ls : List Lane) (q : Lane) : AluOut :=
  let Tm := s.positions f ls
  let src := shflSrc (mdCopx f.md) Tm (q.t.lane % Tm) (s.rd32 q.t f.lit f.b)
  let l := (ls.find? fun l => l.t.lane % Tm = src).getD q
  ⟨wordsOf (s.collVal f l) (collRegs f), 0, none⟩

/-- The operand of a reduction: an FP32 value or a 32-bit integer. -/
def State.rdRed (s : State) (f : Fm) (l : Lane) : Nat :=
  if mdCty f.md = 2 then s.fpRaw l.t f.lit f.a 1 fmtF32 1 else s.rd32 l.t f.lit f.a

/-- R260: REDT. -/
def State.redtOut (s : State) (f : Fm) (ls : List Lane) (_ : Lane) : AluOut :=
  let n := s.positions f ls
  let (x, fl) := reduceAt (mdRop f.md) (mdCty f.md) n (ls.map fun l => (l.t.lane % n, s.rdRed f l)) fun _ => true
  ⟨[BitVec.ofNat 32 x], fl, none⟩

/-- R260: SCANT, inclusive or exclusive. -/
def State.scantOut (s : State) (f : Fm) (ls : List Lane) (q : Lane) : AluOut :=
  let n := s.positions f ls
  let k := q.t.lane % n
  let (x, fl) := reduceAt (mdRop f.md) (mdCty f.md) n (ls.map fun l => (l.t.lane % n, s.rdRed f l)) fun j =>
    if mdCopx f.md = 1 then j < k else j ≤ k
  ⟨[BitVec.ofNat 32 x], fl, none⟩

/-- R261: MATCH. -/
def State.matchOut (s : State) (f : Fm) (ls : List Lane) (q : Lane) : AluOut :=
  ⟨[maskWord (ls.filter fun l => s.collVal f l = s.collVal f q)], 0, none⟩

/-- R261: ELECT. -/
def State.electOut (_ : State) (_ : Fm) (ls : List Lane) (q : Lane) : AluOut :=
  ⟨[if ls.all fun l => q.t.lane ≤ l.t.lane then 1 else 0], 0, none⟩

/-- R261: ACTMASK. -/
def State.actmaskOut (_ : State) (_ : Fm) (ls : List Lane) (_ : Lane) : AluOut := ⟨[maskWord ls], 0, none⟩

/-- What a member of a complete set receives. -/
def State.collOut (s : State) (op : Nat) (f : Fm) (ls : List Lane) (q : Lane) : AluOut :=
  match op with
  | 0 => s.voteOut f ls q
  | 1 => s.shflOut f ls q
  | 2 => s.redtOut f ls q
  | 3 => s.scantOut f ls q
  | 4 => s.matchOut f ls q
  | 5 => s.electOut f ls q
  | _ => s.actmaskOut f ls q

/-- Table 17.1: the result latency of a collective, from the cycle in which its set completes. -/
def collLat (op : Nat) (f : Fm) : Nat :=
  match op with
  | 1 => 8
  | 4 => 8
  | 2 => if mdCty f.md = 2 then 14 else 10
  | 3 => if mdCty f.md = 2 then 14 else 10
  | _ => 6

/-- R257: the label of every result of a set: the operand tiles and context labels of all its members. -/
def State.collLbl (s : State) (i : Iss) : Label :=
  i.on.foldl (fun a l => a ||| s.srcLbl l.g i.cls i.op i.f ||| l.ctx) 0

/-- R257: the members of a complete set receive their results, `lat` cycles from now. -/
def State.runCollective (s : State) (i : Iss) (lat : Nat) : State :=
  let lbl := s.collLbl i
  let i' := { i with on := i.on.map fun (l : Lane) => { l with ctx := l.ctx ||| lbl } }
  s.putAlu i' lat (i'.on.map fun l => (l, s.collOut i.op i.f i.on l))

/-- R235: the members of a complete block receive their results, `lat` cycles from now. -/
def State.runQblk (s : State) (i : Iss) (lat : Nat) : State :=
  let c := i.on.foldl (fun a l => a ||| l.ctx) 0
  let i' := { i with on := i.on.map fun (l : Lane) => { l with ctx := c } }
  s.putAlu i' lat (s.qblkOuts i i'.on)

end Sys2Proof.Machine
end

