-- ==== Sys2Proof/Machine/Trans.lean ====
section
/-! DEFINITION. Two-stage translation, the frame ownership table, and resolvable reports (R366, R370, R371, R384). -/

namespace Sys2Proof.Machine

open Sys2Proof

/-- Why a walk of one stage ends: the level, and whether the entry is malformed. -/
structure WalkErr where
  level : Nat
  malformed : Bool
  deriving DecidableEq, Repr

/-- A leaf of one stage: its entry, level and the address that it maps to. -/
structure Found where
  entry : Nat
  level : Nat
  addr : Nat
  deriving DecidableEq, Repr

/-- R370: the index of an address at a level. -/
def levelIndex (va level : Nat) : Nat :=
  match level with
  | 0 => bitsOf va 45 12
  | 1 => bitsOf va 33 12
  | 2 => bitsOf va 21 12
  | _ => bitsOf va 16 5

/-- R370: log₂ of the size of the table at a level. -/
def tableLog (level : Nat) : Nat := if level < 3 then 15 else 8

/-- Table 20.6: the fields of an entry. -/
def teValid (e : Nat) : Bool := e % 2 = 1
def teLeaf (e : Nat) : Bool := bitsOf e 1 1 = 1
def teWr (e : Nat) : Bool := bitsOf e 2 1 = 1
def teFab (e : Nat) : Bool := bitsOf e 3 1 = 1
def teAddr (e : Nat) : Nat := bitsOf e 8 46 * 256
def teStation (e : Nat) : Nat := bitsOf e 54 10

/-- R370: log₂ of the page that a leaf at a level maps. -/
def pageLog (level : Nat) : Nat := if level = 2 then 21 else 16

/-- R370, Table 20.6: is a valid entry malformed? `second` marks the second stage. -/
def teBad (second : Bool) (level e : Nat) : Bool :=
  bitsOf e 4 4 ≠ 0 ||
  (teFab e && !(second && teLeaf e)) ||
  (!teFab e && teStation e ≠ 0) ||
  (teFab e && bitsOf e 50 4 ≠ 0) ||
  (level < 2 && teLeaf e) ||
  (level = 3 && !teLeaf e) ||
  teAddr e % 2 ^ (if teLeaf e then pageLog level else tableLog (level + 1)) ≠ 0

/-- One stage's walk from a level down; `read` fetches the entry at an address. -/
def walk {ε : Type} (second : Bool) (read : Nat → Except ε Nat) (bad : WalkErr → ε) (va : Nat) : Nat → Nat → Except ε Found
  | 0, _ => .error (bad ⟨3, true⟩)
  | n + 1, table =>
    let level := 3 - n
    match read (table + 8 * levelIndex va level) with
    | .error x => .error x
    | .ok e =>
      if !teValid e then .error (bad ⟨level, false⟩)
      else if teBad second level e then .error (bad ⟨level, true⟩)
      else if teLeaf e then .ok ⟨e, level, teAddr e + va % 2 ^ pageLog level⟩
      else walk second read bad va n (teAddr e)

/-- R370: the second-stage leaf of a partition's guest-physical address. -/
def State.leaf2 (s : State) (part gpa : Nat) : Except WalkErr Found :=
  match (s.part part).s2root with
  | none => .error ⟨0, false⟩
  | some root => walk true (fun a => .ok (leNat (creads s.m.mem a 8))) id gpa 4 root

/-- What a second-stage leaf maps an address to. -/
def Found.leaf (f : Found) : Leaf := if teFab f.entry then .ifa (teStation f.entry) (f.addr % 2 ^ 50) else .phys f.addr

/-- R370: the second stage of a partition for a guest-physical address. -/
def State.walk2 (s : State) (part gpa : Nat) (write : Bool) : Except WalkErr Leaf :=
  match s.leaf2 part gpa with
  | .error x => .error x
  | .ok f => if write && !teWr f.entry then .error ⟨f.level, false⟩ else .ok f.leaf

/-- R109, R117: the host-memory window of a partition that holds a physical address. -/
def State.hostWin? (s : State) (part pa : Nat) : Option HostWin :=
  s.m.wins.find? fun w => w.part = part && w.base ≤ pa && pa < w.base + w.size

def State.frame (s : State) (n : Nat) : Frame := mget {} s.m.frames n

/-- Table 4.1: the label of the mapping of another station's memory. -/
def State.fabLabel (s : State) (st off : Nat) : Label := mget 0 s.m.fabLbl (st, off / 65536)

/-- Where a partition's physical address lies, and the label of its frame or window (Table 4.1). -/
def State.locOf (s : State) (part : Nat) : Leaf → Loc × Label
  | .phys pa =>
    match s.hostWin? part pa with
    | some w => (.host (w.host + (pa - w.base)) w.cxl, w.lbl)
    | none => (.mem pa, (s.frame (pa / 65536)).lbl)
  | .ifa st off => (.fab st off, s.fabLabel st off)

/-- R350: does the ATS translation of a host location fail, for the function that maps its window? It is a translation fault of the
requesting team, with DETAIL 0 (assumption 6). -/
def State.atsFail (s : State) (part : Nat) (l : Loc) : Bool :=
  match l with
  | .host ha _ => s.m.wins.any fun w => w.part = part && w.host ≤ ha && ha < w.host + w.size && Config.atsFails w.fn (ha / 4096)
  | _ => false

/-- R366: may a partition reach a location? -/
def State.owned (s : State) (part : Nat) : Loc → Bool
  | .mem a => a / 65536 < Config.frames && (s.frame (a / 65536)).state = 1 && (s.frame (a / 65536)).owner = part
  | _ => true

/-- What a translation gives. -/
inductive Tr where
  | ok (loc : Loc) (lbl : Label)
  /-- R371: a resolvable report: does it go to the PF; code, detail and guest-physical address; and log₂ of the size of the page. -/
  | page (pf : Bool) (code detail gpa log : Nat)
  /-- A precise translation fault (code 0x17) with its detail. -/
  | bad (detail : Nat)
  deriving DecidableEq, Repr

/-- R371: the fetch of a first-stage entry at its guest-physical address. -/
def State.fetchEntry (s : State) (part level gpa : Nat) : Except Tr Nat :=
  match s.walk2 part gpa false with
  | .error x => .error (if x.malformed then .bad 4 else .page true 0x61 level gpa 16)
  | .ok (.ifa _ _) => .error (.page true 0x61 level gpa 16)
  | .ok l =>
    let loc := (s.locOf part l).1
    if s.owned part loc then .ok (leNat (s.getLoc loc 8)) else .error (.bad 3)

/-- R370, R371: the first stage from a level down. -/
def State.walk1 (s : State) (part : Nat) (va : Nat) (write : Bool) : Nat → Nat → Except Tr Found
  | 0, _ => .error (.bad 4)
  | n + 1, table =>
    let level := 3 - n
    match s.fetchEntry part level (table + 8 * levelIndex va level) with
    | .error x => .error x
    | .ok e =>
      if !teValid e then .error (.page false 0x40 (level + (if write then 16 else 0)) 0 16)
      else if teBad false level e then .error (.bad 4)
      else if teLeaf e then .ok ⟨e, level, teAddr e + va % 2 ^ pageLog level⟩
      else s.walk1 part va write n (teAddr e)

/-- R321, R395: the frame of a partition's placement pool that its placement window maps at a virtual address. -/
def State.poolAddr? (s : State) (part va : Nat) : Option Nat :=
  let p := s.part part
  if p.plwin.toNat ≤ va && va < p.plwin.toNat + p.poolSize then
    p.poolFrames[(va - p.plwin.toNat) / 65536]?.map fun f => f * 65536 + va % 65536
  else none

/-- An address after a page's beginning. -/
def Leaf.add (l : Leaf) (n : Nat) : Leaf := match l with | .phys a => .phys (a + n) | .ifa st o => .ifa st (o + n)

/-- The beginning of the page that holds an address. -/
def pageBase (a log : Nat) : Nat := a / 2 ^ log * 2 ^ log

/-- R370, R371: the translation of a virtual address of a context through its tables, as an entry of a TLB. An entry covers the
smaller of the pages of the two stages. -/
def State.tableWalk (s : State) (core part ctx : Nat) (va : Nat) (write : Bool) : Except Tr TlbEntry :=
  match (s.ctx? part ctx).bind fun c => c.root with
  | none => .error (.page false 0x40 (if write then 16 else 0) 0 16)
  | some root =>
    match s.walk1 part va write 4 root with
    | .error x => .error x
    | .ok f =>
      if write && !teWr f.entry then .error (.page false 0x40 (f.level + 16) 0 (pageLog f.level))
      else
        match s.leaf2 part f.addr with
        | .error x => .error (if x.malformed then .bad 4 else .page true 0x60 x.level f.addr 16)
        | .ok g =>
          let log := min (pageLog f.level) (pageLog g.level)
          if write && !teWr g.entry then .error (.page true 0x60 g.level f.addr log)
          else
            let back := fun (n : Nat) => n - va % 2 ^ log
            let leaf := match g.leaf with | .phys a => Leaf.phys (back a) | .ifa st o => .ifa st (back o)
            .ok { core := core, part := part, ctx := ctx, log := log, va := pageBase va log, gpa := pageBase f.addr log,
                  leaf := leaf, wr := teWr f.entry && teWr g.entry }

/-- R372: the entry of a core's TLB for an access. A write that the entry does not permit walks the tables. -/
def State.tlb? (s : State) (core part ctx va : Nat) (write : Bool) : Option TlbEntry :=
  s.m.tlb.find? fun e => e.core = core && e.part = part && e.ctx = ctx && e.va ≤ va && va < e.va + 2 ^ e.log && (!write || e.wr)

/-- R370, R372: the entry by which a core translates an access: one of its TLB, or one that a walk finds. -/
def State.entryFor (s : State) (core part ctx va : Nat) (write : Bool) : Except Tr TlbEntry :=
  match s.tlb? core part ctx va write with
  | some e => .ok e
  | none => s.tableWalk core part ctx va write

/-- The translation of a virtual address of a context at a core: the placement window (R321), the core's TLB, or the tables. -/
def State.translate (s : State) (core part ctx : Nat) (va : Nat) (write : Bool) : Tr :=
  match s.poolAddr? part va with
  | some pa => .ok (.mem pa) (s.frame (pa / 65536)).lbl
  | none =>
    match s.entryFor core part ctx va write with
    | .error x => x
    | .ok e =>
      let (loc, lbl) := s.locOf part (e.leaf.add (va - e.va))
      if s.atsFail part loc then .bad 0 else .ok loc lbl

/-- R372: a core's TLB takes the entry of an access that translates. -/
def State.tlbFill (s : State) (core part ctx va : Nat) (write : Bool) : State :=
  if (s.poolAddr? part va).isSome || (s.tlb? core part ctx va write).isSome then s
  else
    match s.tableWalk core part ctx va write with
    | .error _ => s
    | .ok e => { s with m.tlb := (s.m.tlb.filter fun (x : TlbEntry) =>
        !(x.core = core && x.part = part && x.ctx = ctx && x.va = e.va && x.log = e.log)) ++ [e] }

/-- R373: the TLBs of the module drop the entries of a partition that satisfy a test. -/
def State.tlbDrop (s : State) (part : Nat) (f : TlbEntry → Bool) : State :=
  { s with m.tlb := s.m.tlb.filter fun (e : TlbEntry) => !(e.part = part && f e) }

/-- R384: would a record for the ring be dropped? -/
def Fn.dropsNow (f : Fn) : Bool := decide (f.fqbase ≠ 0) && f.full

/-- R371, R384: write a resolvable report and note its token; a report that the full ring drops is settled as ACT 1. -/
def State.resolvable (s : State) (tid : Nat) (chain : Option Nat) (pf : Bool) (code detail gpa : Nat) (core quad lane pc : Nat)
    (word : Word) (va : Nat) : Word × State :=
  match s.team? tid with
  | none => (0, s)
  | some t =>
    let fn := if pf then 0 else s.fnOf t.part
    let tok := s.sch.nextToken
    let s := { s with sch.nextToken := tok + 1 }
    let f := s.fn fn
    let r := { t.rep code detail core quad lane pc word va gpa with cls := if pf then 3 else 1, token := tok }
    let s := s.report fn r
    if f.dropsNow then (tok, s.takeFault tid fcTrans 2 core quad lane pc word va gpa)
    else
      (tok, { s with sch.resolv := s.sch.resolv ++ [⟨tok, fn, tid, chain, BitVec.ofNat 64 va, BitVec.ofNat 64 gpa, s.clk.tclk, code⟩] })

end Sys2Proof.Machine
end

