-- ==== Sys2Proof/Machine/Mem.lean ====
section
/-! DEFINITION. Global memory: the L1 of a core with its leases and pins, coherence points, and how one access of a
memory request performs (R77, R79, R86 to R100, R106, R128, R248, R249, R366). -/

namespace Sys2Proof.Machine

open Sys2Proof

/-- R91: the rank of a scope as Table 9.3 codes it: team 0, cluster 1, device 2, mesh 3, system 4. -/
def scopeRank (sc : Nat) : Nat :=
  match sc with
  | 0 => 2
  | 1 => 0
  | 2 => 1
  | n => n

/-- Table 3.2: may an L1 hold leases on a location's line? -/
def Loc.leaseable : Loc → Bool
  | .host _ cxl => cxl
  | _ => true

/-- The transit clock passes a time. -/
def DWord.past (a b : DWord) : Bool := b.toNat < a.toNat

/-! ## Pool and L1 -/

/-- Table 20.3: CORELIM of a partition on a core. -/
def State.corelim (s : State) (part core : Nat) : Nat := (mget 0 (s.part part).corelim core).toNat

def limTslot (c : Nat) : Nat := bitsOf c 0 6
def limSlotu (c : Nat) : Nat := bitsOf c 6 8
def limPool (c : Nat) : Nat := bitsOf c 14 6
def limPlates (c : Nat) : Nat := bitsOf c 20 6
def limOsb (c : Nat) : Nat := bitsOf c 26 7

/-- Does a team hold its units of a core (R40: a saved team holds none)? -/
def Team.resident (t : Team) : Bool :=
  match t.status with
  | .saved => false
  | .relaunch => false
  | _ => true

/-- The resident teams of a partition on a core. -/
def State.teamsOn (s : State) (part core : Nat) : List (Nat × Team) :=
  s.sch.teams.filter fun kv => kv.2.part = part && kv.2.resident && (kv.2.core = core || kv.2.core2 = some core)

/-- R79: the pool units other than L1 that a team of a stage takes on a core. -/
def unitsOn (st : Stage) (pair odd : Bool) : Nat :=
  if pair then (st.regu + 1) / 2 + (if odd then 0 else st.scru + st.vatu) else st.regu + st.scru + st.vatu

/-- R79: the pool units of a partition on a core that registers, scratchpads and Vats hold. -/
def State.poolHeld (s : State) (part core : Nat) : Nat :=
  (s.teamsOn part core).foldl (fun n kv =>
    match s.stageOf kv.2 with
    | some st => n + unitsOn st kv.2.core2.isSome (kv.2.core2 = some core)
    | none => n) 0

/-- R79: the lines of a partition's L1 on a core. -/
def State.l1Cap (s : State) (part core : Nat) : Nat := 256 * (limPool (s.corelim part core) - s.poolHeld part core)

/-- The copy of a line in a core's L1. -/
def State.l1? (s : State) (core part : Nat) (line : Loc) : Option L1Line :=
  s.m.l1.find? fun x => x.core = core && x.part = part && x.line = line

/-- R88: the copy of a line that a load hits. -/
def State.l1Hit (s : State) (core part : Nat) (line : Loc) : Option L1Line :=
  match s.l1? core part line with
  | some x => if x.pin.isNone && DWord.past x.expiry s.clk.tclk && 0 < s.l1Cap part core then some x else none
  | none => none

/-- The pinned copy of a line. -/
def State.pinned? (s : State) (line : Loc) : Option L1Line := s.m.l1.find? fun x => x.pin.isSome && x.line = line

/-- R97: the copy that a team holds pinned. -/
def State.pinOf (s : State) (tid : Nat) (line : Loc) : Option L1Line :=
  s.m.l1.find? fun x => x.line = line && x.pin.map (·.tid) = some tid

/-- R98, Table 3.11: is an access of a scope served, as far as pins go? A line at level team serves its holder alone,
and team scope from another team counts as cluster. -/
def State.servable (s : State) (tid : Option Nat) (scope : Nat) (line : Loc) : Bool :=
  match (s.pinned? line).bind (·.pin) with
  | none => true
  | some p => tid = some p.tid || (p.level ≠ 0 && p.level ≤ max 1 (scopeRank scope))

/-- Write bytes into a line image. -/
def overlay (line : List Byte) (off : Nat) (bs : List Byte) : List Byte :=
  line.take off ++ bs ++ line.drop (off + bs.length)

/-- Change one L1 copy. -/
def State.setL1 (s : State) (core part : Nat) (line : Loc) (f : L1Line → L1Line) : State :=
  { s with m.l1 := s.m.l1.map fun x => if x.core = core && x.part = part && x.line = line then f x else x }

/-- Drop the unpinned copy of a line from a core's L1. -/
def State.dropL1 (s : State) (core part : Nat) (line : Loc) : State :=
  { s with m.l1 := s.m.l1.filter fun x => !(x.core = core && x.part = part && x.line = line && x.pin.isNone) }

/-- Put a line into an L1. Where it is full, the line replaces the unpinned one that was put in first: the spec names replacement and no
policy (assumption 66). Without room it is not kept. -/
def State.putL1 (s : State) (x : L1Line) : State :=
  let s := s.dropL1 x.core x.part x.line
  let mine := s.m.l1.filter fun y => y.core = x.core && y.part = x.part
  if mine.length < s.l1Cap x.part x.core then { s with m.l1 := s.m.l1 ++ [x] }
  else
    match mine.find? fun y => y.pin.isNone with
    | some y => { s.dropL1 y.core y.part y.line with m.l1 := (s.dropL1 y.core y.part y.line).m.l1 ++ [x] }
    | none => s

/-- R79: an L1 that has lost units keeps no more unpinned lines than it holds; the lines that were put in first leave. Pinned lines stay
until they are written back (R97, assumption 66). -/
def State.trimL1 (s : State) (part core : Nat) : State :=
  let mine := s.m.l1.filter fun y => y.core = core && y.part = part
  ((mine.filter fun y => y.pin.isNone).take (mine.length - s.l1Cap part core)).foldl (fun s y => s.dropL1 core part y.line) s

/-- R97: is a line of a partition's L1 on a core still unpinned? -/
def State.pinRoom (s : State) (part core : Nat) : Bool :=
  (s.m.l1.filter fun x => x.core = core && x.part = part && x.pin.isSome).length < s.l1Cap part core

/-- R412: does a span of memory meet a 64-byte block that reads as uncorrectable? -/
def State.eccBad (s : State) (loc : Loc) (n : Nat) : Bool :=
  match loc with
  | .mem a => s.m.bad.any fun b => b < a + n && a < b + 64
  | _ => false

/-- R412: does a write of a span read such a block, which it does not write whole? -/
def State.eccPartial (s : State) (loc : Loc) (n : Nat) : Bool :=
  match loc with
  | .mem a => s.m.bad.any fun b => b < a + n && a < b + 64 && !(a ≤ b && b + 64 ≤ a + n)
  | _ => false

/-- Table 22.2: the unit code of the memory row of a physical address. The model takes a row to hold one 64 KiB frame, 1,048,576
rows to a stack, and the second tier divided evenly over 12 channels (assumption 21). -/
def rowUnit (pa : Nat) : Nat :=
  let f := pa / 65536
  if f < Config.firstTierFrames then 3 * 2 ^ 28 + f / 1048576 % 16 * 2 ^ 24 + f % 1048576
  else
    let g := f - Config.firstTierFrames
    4 * 2 ^ 28 + g / 2796203 % 16 * 2 ^ 24 + g % 2796203

def Loc.unit (loc : Loc) : Nat := match loc with | .mem a => rowUnit a | _ => 0

/-- R407, R408, R411: a read of a block that is uncorrectable counts, is logged, and has the row surveyed. -/
def State.rowError (s : State) (loc : Loc) (part : Option Nat) : State :=
  match loc with
  | .mem a =>
    let unit := rowUnit a
    let s := { s with y.counts := setAt s.y.counts 5 fun n => min (n + 1) 0xFFFFFFFF }
    let s := s.logEvent unit 2 (part.getD 0) part.isNone 0 (a / 64 * 64)
    if s.y.surveys.any fun x => x.unit.toNat = unit then s
    else { s with y.surveys := s.y.surveys ++ [⟨BitVec.ofNat 32 unit, some (s.clk.tclk + 1000000), a / 64 * 64⟩] }
  | _ => s

/-- The bytes of a mask from an offset on. -/
def spanMask (off n : Nat) : BitVec 128 := (BitVec.ofNat 128 (2 ^ n - 1)) <<< off

/-- A pinned copy takes bytes that perform at its coherence point, where its team has not written it since. -/
def L1Line.take (x : L1Line) (off : Nat) (bs : List Byte) : L1Line :=
  let m : BitVec 128 := match x.pin with | some p => p.mask | none => 0
  { x with bytes := x.bytes.zipIdx.map fun b =>
      if off ≤ b.2 && b.2 < off + bs.length && !m.getLsbD b.2 then bs.getD (b.2 - off) 0 else b.1 }

/-- R98: an access that a pinned line's level serves performs at the coherence point: the pinned copy takes what it writes. -/
def State.pinMerge (s : State) (loc : Loc) (bs : List Byte) : State :=
  { s with m.l1 := s.m.l1.map fun x => if x.pin.isSome && x.line = loc.line then x.take loc.off bs else x }

/-- Write at a coherence point. A block written whole is correctable again (R412). -/
def State.cohWrite (s : State) (loc : Loc) (bs : List Byte) : State :=
  let s := s.putLoc loc bs
  let s := match loc with
    | .mem a => { s with m.bad := s.m.bad.filter fun b => !(a ≤ b && b + 64 ≤ a + bs.length) }
    | _ => s
  s.pinMerge loc bs

/-- R88: raise the latest lease of a line. -/
def State.raiseLL (s : State) (line : Loc) (t : DWord) : State :=
  { s with m.ll := mupd 0 s.m.ll line fun x => if x.toNat < t.toNat then t else x }

/-! ## Atomic operations -/

/-- Addition of FP32 patterns as R248 gives it. -/
def fadd32 (a b : Nat) : Nat := (roundTo fmtF32 0 (FV.add false (decode5 fmtF32 a) (decode5 fmtF32 b)).1 0).1

/-- R248: the new value of an atomic. -/
def atomNew (aop : Nat) (wide uns : Bool) (old x : Nat) : Nat :=
  let n := if wide then 64 else 32
  let rd := fun (v : Nat) => if uns then (v : Int) else signedOf v n
  match aop with
  | 0 => (old + x) % 2 ^ n
  | 1 => if rd old ≤ rd x then old else x
  | 2 => if rd x ≤ rd old then old else x
  | 3 => old &&& x
  | 4 => old ||| x
  | 5 => old ^^^ x
  | 6 => x
  | _ => fadd32 old x

/-- What a request does to the bytes that it finds: the bytes that it writes, if any. -/
def ReqKind.write (k : ReqKind) (a : Acc) (old : List Byte) : Option (List Byte) :=
  match k with
  | .load => none
  | .lease => none
  | .pref => none
  | .store => some a.data
  | .atomic aop wide uns => some (natLE a.len (atomNew aop wide uns (leNat old) (leNat a.data)))
  | .red aop wide uns => some (natLE a.len (atomNew aop wide uns (leNat old) (leNat a.data)))
  | .cas _ => if old = a.cmp then some a.data else none
  | .decdep _ => some (natLE a.len (leNat old - 1))
  | .arcinit => some a.data
  | .arcadd => some (natLE a.len (atomNew 0 true true (leNat old) (leNat a.data)))

/-- Does a request write, or may it? -/
def ReqKind.writes : ReqKind → Bool
  | .load => false
  | .lease => false
  | .pref => false
  | _ => true

/-- Is a request an atomic, whose issue drops the L1 copy (R89)? -/
def ReqKind.rmw : ReqKind → Bool
  | .atomic .. => true
  | .red .. => true
  | .cas _ => true
  | .decdep _ => true
  | .arcadd => true
  | _ => false

/-- Which atomics combine at the host or at another station (R106)? -/
def ReqKind.combines : ReqKind → Bool
  | .atomic .. => true
  | .red .. => true
  | _ => false

/-- Which thread atomics can pin their line (R97)? -/
def ReqKind.pins : ReqKind → Bool
  | .atomic .. => true
  | .red .. => true
  | .cas _ => true
  | _ => false

/-- R106: the one operand of a combined atomic. -/
def combinedOperand (aop : Nat) (wide uns : Bool) (xs : List (Nat × Nat)) : Nat :=
  if aop = 7 then (reduceAt 0 2 32 xs fun _ => true).1
  else
    match xs with
    | [] => 0
    | x :: rest => rest.foldl (fun a y => atomNew aop wide uns a y.2) x.2

/-- R106: what lane `k` of a combined atomic receives. -/
def combinedOld (aop : Nat) (wide uns : Bool) (xs : List (Nat × Nat)) (old k : Nat) : Nat :=
  if aop = 7 then fadd32 old (reduceAt 0 2 32 xs fun j => j < k).1
  else (xs.filter fun x => x.1 < k).foldl (fun a y => atomNew aop wide uns a y.2) old

/-! ## Requests -/

def State.req? (s : State) (id : Nat) : Option Req := s.m.reqs.find? fun r => r.id = id
def State.setReq (s : State) (id : Nat) (f : Req → Req) : State :=
  { s with m.reqs := s.m.reqs.map fun r => if r.id = id then f r else r }
def State.setAcc (s : State) (id k : Nat) (f : Acc → Acc) : State :=
  s.setReq id fun r => { r with accs := setAt r.accs k f }

/-- R96, R104: two stores to a line at another station that no order joins: of two threads, to other bytes. -/
def Acc.apart (a b : Acc) : Bool :=
  match a.loc, b.loc with
  | .fab _ m, .fab _ n => a.t ≠ b.t && (m + a.len ≤ n || n + b.len ≤ m)
  | _, _ => false

/-- R314: a DECDEP performs behind the earlier DECDEPs of its threads, and a lane of it behind the lanes before it. -/
def Req.depAhead (r q : Req) : Bool :=
  match r.kind, q.kind with
  | .decdep _, .decdep _ => q.accs.any fun b => !b.done && r.accs.any fun a => a.t = b.t
  | _, _ => false

/-- R89, R96, R314: an earlier access of the same team to the same line has not performed, and stands before this one. -/
def State.blocked (s : State) (r : Req) (k : Nat) (a : Acc) : Bool :=
  let clash := fun (q : Req) (b : Acc) => !b.done && b.t.tid = a.t.tid && b.loc.line = a.loc.line &&
    !(r.kind = .store && q.kind = .store && a.apart b)
  let dep := match r.kind with | .decdep _ => true | _ => false
  ((s.m.reqs.takeWhile fun q => q.id ≠ r.id).any fun q => r.depAhead q || q.accs.any (clash q)) ||
    (r.accs.take k).any fun b => clash r b || (dep && !b.done)

/-- R96: a store or an atomic to a line is issued: the lines that older loads of the core fetch are not kept. -/
def State.noKeep (s : State) (core : Nat) (line : Loc) : State :=
  { s with m.reqs := s.m.reqs.map fun (r : Req) =>
      if r.core = core && !r.kind.writes then
        { r with accs := r.accs.map fun (a : Acc) => if !a.done && a.loc.line = line then { a with keep := false } else a }
      else r }

/-- R100: refuse an access: the first retry comes after 32 ns, and each later interval doubles up to 1,024 ns. -/
def Acc.refuse (a : Acc) (now : DWord) : Acc :=
  let n := if a.refused.isSome then min 1024 (2 * a.backoff) else 32
  { a with refused := some (a.refused.getD now), backoff := n, retryAt := now + BitVec.ofNat 64 n }

/-- A precise fault of an access: its team ends, and the access counts as done. -/
def State.accFault (s : State) (r : Req) (k : Nat) (a : Acc) (code detail : Nat) : State :=
  let s := s.takeFault a.t.tid code detail r.core r.quad a.qlane r.pc r.word a.va.toNat 0
  s.setAcc r.id k fun a => { a with done := true }

/-- An access has performed: its data or its GWCT is on its way back. -/
def State.accDone (s : State) (r : Req) (k : Nat) (old : List Byte) (gwct : DWord) (lbl : Label) : State :=
  s.setAcc r.id k fun a => { a with done := true, old := old, gwct := gwct, rlbl := lbl, back := s.clk.cycle + a.trip }

/-- The (lane, operand) pairs of some accesses. -/
def laneOps (cs : List Acc) : List (Nat × Nat) := cs.map fun b => (b.qlane, leNat b.data)

/-- The operation, width and signedness of an atomic request. -/
def ReqKind.aop : ReqKind → Nat × Bool × Bool
  | .atomic o w u => (o, w, u)
  | .red o w u => (o, w, u)
  | .cas w => (8, w, true)
  | _ => (0, true, true)

/-- R106: the lanes of a request whose operations on one address at the host or at another station combine. -/
def Req.combined (r : Req) (a : Acc) : List Acc :=
  match a.loc with
  | .mem _ => []
  | _ => if r.kind.combines then r.accs.filter fun b => !b.done && b.loc = a.loc else []

/-- R106: every lane of a combined atomic receives its value once memory has given `old`. -/
def State.combinedDone (s : State) (r : Req) (cs : List Acc) (old : Nat) (gwct : DWord) (lbl : Label) : State :=
  let (o, w, u) := r.kind.aop
  let xs := laneOps cs
  let f := fun (b : Acc) =>
    if cs.any fun c => c.t = b.t then
      { b with done := true, old := natLE b.len (combinedOld o w u xs old b.qlane), gwct := gwct, rlbl := lbl, back := s.clk.cycle + b.trip }
    else b
  s.setReq r.id fun q => { q with accs := q.accs.map f }

/-- R106: the value that a combined atomic leaves where it found `old`. -/
def Req.combinedNew (r : Req) (cs : List Acc) (old : Nat) : Nat :=
  let (o, w, u) := r.kind.aop
  atomNew o w u old (combinedOperand o w u (laneOps cs))

/-- R97: bytes are written to a pinned line in its L1. -/
def L1Line.pinWrite (x : L1Line) (off : Nat) (bs : List Byte) (lbl : Label) : L1Line :=
  { x with
    bytes := overlay x.bytes off bs
    pin := x.pin.map fun (p : Pin) => { p with level := 0, mask := p.mask ||| spanMask off bs.length, wlbl := p.wlbl ||| lbl } }

/-- R97, R106, R113, R128: an access of the team that holds the line pinned performs in that L1. -/
def State.performPinned (s : State) (r : Req) (k : Nat) (a : Acc) (x : L1Line) : State :=
  let old := (x.bytes.drop a.loc.off).take a.len
  let cs := r.combined a
  if r.kind.writes && s.roShard a.loc then s.accFault r k a fcPlace 2
  else if r.kind.writes && !Label.sub a.lbl x.lbl then s.accFault r k a fcLabel 0
  else if 1 < cs.length then
    let s := s.setL1 x.core x.part x.line fun y => y.pinWrite a.loc.off (natLE a.len (r.combinedNew cs (leNat old))) a.lbl
    s.combinedDone r cs (leNat old) s.clk.tclk x.lbl
  else
    let s := match r.kind.write a old with
      | some bs => s.setL1 x.core x.part x.line fun y => y.pinWrite a.loc.off bs a.lbl
      | none => s
    s.accDone r k old s.clk.tclk x.lbl

/-- The frame or window label of a location. -/
def State.locLbl (s : State) (part : Nat) (l : Loc) : Label :=
  match l with
  | .mem a => (s.frame (a / 65536)).lbl
  | .host a _ => match s.m.wins.find? fun w => w.part = part && w.host ≤ a && a < w.host + w.size with
    | some w => w.lbl
    | none => 0
  | .fab st off => s.fabLabel st off

/-- The cores of a team. -/
def State.coresOf (s : State) (tid core : Nat) : List Nat :=
  match s.team? tid with
  | some t => t.core :: t.core2.toList
  | none => [core]

/-- R96, R97: pin a line at level team for a team in the L1 of its (even) core. The team's cores keep no older copy of it. -/
def State.pinLine (s : State) (tid core part : Nat) (line : Loc) (bytes : List Byte) : State :=
  let cs := s.coresOf tid core
  let s := { s with m.l1 := s.m.l1.filter fun (x : L1Line) =>
    !(x.line = line && (x.pin.isSome || (x.part = part && cs.contains x.core))) }
  s.putL1 ⟨core, part, line, bytes, 0, some { tid := tid, level := 0 }, s.locLbl part line⟩

/-- The core whose L1 holds a team's pins. -/
def State.pinCore (s : State) (tid core : Nat) : Nat := match s.team? tid with | some t => t.core | none => core

/-- R96, R97: does a team hold a line pinned at one of its cores? The core keeps no leased copy beside it. -/
def State.pinnedAt (s : State) (core : Nat) (line : Loc) : Bool :=
  match (s.pinned? line).bind (·.pin) with
  | some p => (s.coresOf p.tid core).contains core
  | none => false

/-- R88: a line that a load has fetched is kept with its lease. -/
def State.keepLine (s : State) (r : Req) (a : Acc) (bytes : List Byte) (exp : DWord) (lbl : Label) : State :=
  if a.keep && !s.pinnedAt r.core a.loc.line then s.putL1 ⟨r.core, r.part, a.loc.line, bytes, exp, none, lbl⟩ else s

/-- R88, R89: an access performs at its coherence point on this chip or at the host. -/
def State.performCoherent (s : State) (r : Req) (k : Nat) (a : Acc) : State :=
  let old := s.getLoc a.loc a.len
  let lbl := s.locLbl r.part a.loc
  match r.kind.write a old with
  | some bs =>
    let g := s.gwct a.loc
    (s.cohWrite a.loc bs).accDone r k old g lbl
  | none =>
    if r.kind.writes then s.accDone r k old (s.gwct a.loc) lbl
    else if r.nl || !a.loc.leaseable || s.l1Cap r.part r.core = 0 || s.eccBad a.loc.line 128 then s.accDone r k old 0 lbl
    else
      let exp := s.clk.tclk + BitVec.ofNat 64 (s.part r.part).lease
      ((s.raiseLL a.loc.line exp).keepLine r a (s.getLoc a.loc.line 128) exp lbl).accDone r k old 0 lbl

/-- R106: a combined atomic performs at the host. -/
def State.performCombined (s : State) (r : Req) (a : Acc) (cs : List Acc) : State :=
  let old := leNat (s.getLoc a.loc a.len)
  let g := s.gwct a.loc
  let s := s.cohWrite a.loc (natLE a.len (r.combinedNew cs old))
  s.combinedDone r cs old g (s.locLbl r.part a.loc)

/-- Does an access pin its line: a team-scope atomic where some line of the L1 is still unpinned (R97)? -/
def State.wantsPin (s : State) (r : Req) (a : Acc) : Bool :=
  r.kind.pins && r.scope = 1 && a.loc.leaseable && s.pinRoom r.part (s.pinCore a.t.tid r.core)

/-- R97: the scope of an access, coded as in Table 9.3: a team-scope atomic that finds every line pinned has device scope. -/
def State.accScope (s : State) (r : Req) (a : Acc) : Nat :=
  if r.kind.pins && r.scope = 1 && a.loc.leaseable && !s.pinRoom r.part (s.pinCore a.t.tid r.core) then 0 else r.scope

/-- R402: the UALink request of an access to another station. A load fetches its whole line, for every lane that reads of it (R242), and
so does an access that pins. -/
def State.fabReq (s : State) (r : Req) (k : Nat) (a : Acc) (cs : List Acc) (line : Bool) : OutReq :=
  let (o, w, u) := r.kind.aop
  let (st, off) := match a.loc with | .fab st off => (st, off) | _ => (0, 0)
  let x := if cs.length ≤ 1 then leNat a.data else combinedOperand o w u (laneOps cs)
  let line := line || !r.kind.writes
  { tag := 0, station := st, port := 0, off := if line then off / 128 * 128 else off,
    kind := if line then 0 else if r.kind.rmw then (if cs.length ≤ 1 then 2 else 3) else 1,
    part := r.part, ctx := r.ctx, run := a.run, scope := s.accScope r a, nolease := r.nl || r.kind.writes,
    lbl := if line then 0 else a.lbl, len := if line then 128 else a.len, data := a.data, aop := o,
    wide := w, uns := u, cmp := BitVec.ofNat 64 (leNat a.cmp), ops := [BitVec.ofNat 64 x], who := .req r.id k,
    reissued := false }

/-- Has a request of an access been sent and not answered? -/
def State.fabSent (s : State) (id k : Nat) : Bool := s.y.reqs.any fun q => q.who = .req id k

/-- An access to another station leaves as a UALink request. -/
def State.sendAcc (s : State) (r : Req) (k : Nat) (a : Acc) : State :=
  if s.fabSent r.id k then s
  else if s.wantsPin r a then s.sendReq (s.fabReq r k a [a] true)
  else
    let cs := r.combined a
    if (cs.head?.map (·.t)).getD a.t = a.t then s.sendReq (s.fabReq r k a cs false) else s

/-- An access that no pin stands against performs, at its coherence point or by pinning its line. -/
def State.serveAcc (s : State) (r : Req) (k : Nat) (a : Acc) : State :=
  let line := a.loc.line
  let drop := s.accDone r k [] 0 0
  match a.loc with
  | .fab .. => s.sendAcc r k a
  | _ =>
    if !s.owned r.part a.loc then (if r.kind = .pref then drop else s.accFault r k a fcTrans 3)
    else if r.kind.writes && s.roShard a.loc then s.accFault r k a fcPlace 2
    else if s.eccBad a.loc a.len || (s.wantsPin r a && s.eccBad line 128) then
      (if r.kind = .pref then drop else (s.rowError a.loc (some r.part)).accFault r k a fcMemory a.loc.unit)
    else if s.wantsPin r a then
      let s := s.pinLine a.t.tid (s.pinCore a.t.tid r.core) r.part line (s.getLoc line 128)
      match s.pinOf a.t.tid line with
      | some x => s.performPinned r k a x
      | none => s.performCoherent r k a
    else
      let cs := r.combined a
      if 1 < cs.length then s.performCombined r a cs else s.performCoherent r k a

/-- One access of a request tries to perform. -/
def State.performAcc (s : State) (id k : Nat) : State :=
  match s.req? id with
  | none => s
  | some r =>
    match r.accs[k]? with
    | none => s
    | some a =>
      if a.done || s.clk.cycle < a.at_ || s.blocked r k a || DWord.past a.retryAt s.clk.tclk then s
      else
        match s.pinOf a.t.tid a.loc.line with
        | some x => if r.kind = .lease then s.accDone r k [] 0 x.lbl else s.performPinned r k a x
        | none =>
          if s.servable (some a.t.tid) (s.accScope r a) a.loc.line then s.serveAcc r k a
          else if r.kind = .pref then s.accDone r k [] 0 0
          else s.setAcc id k fun a => a.refuse s.clk.tclk

/-! ## Home slices and their times -/

/-- R77: the home slice of a line of this chip: the line number modulo the number of its owner's slices (assumption 67). -/
def State.sliceOf (s : State) (line : Nat) : Nat :=
  let ss := (s.part (s.frame (line / 65536)).owner).slices
  ss.getD (line / 128 % ss.length) 0

/-- Table 17.3: cycles from a core to a home slice, and back, unloaded; half of 170, or of 280 to another die (assumption 10). -/
def halfTrip : Nat := 85
def halfFar : Nat := 140

/-- Table 17.3: the cycles of an access with a fill from the tier of an address, unloaded. -/
def fillTrip (pa : Nat) : Nat := if pa / 65536 < Config.firstTierFrames then 650 else 950

/-- R324: the cycles between a core and the coherence point of a location. -/
def State.halfOf (s : State) (core : Nat) (loc : Loc) : Nat :=
  match loc with
  | .mem a => if sliceDie (s.sliceOf (a / 128 * 128)) = coreDie core then halfTrip else halfFar
  | _ => halfTrip

/-- The lines of a slice (Table 0.2: 2 MiB of 128-byte lines). -/
def sliceLines : Nat := 16384

/-- R77, R324: the cycle from which the home slice of a location holds its line, for an access of a core that issues now; the slice
fetches a line that it lacks, in place of the one that it has held longest (assumption 67). -/
def State.l2Fetch (s : State) (core : Nat) (loc : Loc) : Nat × State :=
  match loc with
  | .mem a =>
    let line := a / 128 * 128
    let sl := s.sliceOf line
    let have_ := mget [] s.m.l2 sl
    match have_.find? fun e => e.1 = line with
    | some e => (e.2, s)
    | none =>
      let t := s.clk.cycle + (fillTrip a - s.halfOf core loc)
      let keep := if have_.length < sliceLines then have_ else have_.drop 1
      (t, { s with m.l2 := mset s.m.l2 sl (keep ++ [(line, t)]) })
  | _ => (0, s)

/-- R368, R413: the slices drop the lines that satisfy a test. -/
def State.l2Drop (s : State) (f : Nat → Bool) : State :=
  { s with m.l2 := s.m.l2.map fun (kv : Nat × List (Nat × Nat)) => (kv.1, kv.2.filter fun e => !f e.1) }

/-- Table 17.3: the cycles of an answer from the team's own L1, behind the one of its issue. -/
def l1Trip : Nat := 35

/-- R97: an access that performs in the L1 of its team. -/
def Acc.inL1 (a : Acc) : Bool := a.trip = l1Trip

/-- R324: when an access of a core that issues now reaches its coherence point, and how long its answer takes from there. -/
def State.timed (s : State) (core : Nat) (a : Acc) : Acc × State :=
  if a.done then (a, s)
  else if (s.pinOf a.t.tid a.loc.line).isSome then ({ a with at_ := s.clk.cycle + 1, trip := l1Trip }, s)
  else
    let h := s.halfOf core a.loc
    let (t, s) := s.l2Fetch core a.loc
    ({ a with at_ := max (s.clk.cycle + h) t, trip := h }, s)

/-- The next cycle in which an access that has not performed is tried. -/
def State.nextTry (s : State) (r : Req) : Nat :=
  (r.accs.filter fun a => !a.done).foldl (fun n a => min n (max a.at_ (s.clk.cycle + 1))) (s.clk.cycle + 100000)

/-- R305: the threads of this station that wait for an arrival counter. -/
def Path.atCounter (p : Path) : Bool := match p.state with | .parked (.counter _) => true | _ => false

/-- Every access of a request tries to perform, each by `one`, and `seen` looks at what each has written; when all have performed, the
response comes with the last of their data. -/
def State.performAll (s : State) (id : Nat) (seen : State → State) (one : State → Nat → State) : State :=
  match s.req? id with
  | none => s
  | some r =>
    let s := (List.range r.accs.length).foldl (fun s k => seen (one s k)) s
    let next := match s.req? id with | some r => s.nextTry r | none => 0
    s.setReq id fun r =>
      if r.accs.all (·.done) then { r with back := true, due := r.accs.foldl (fun n a => max n a.back) (s.clk.cycle + 1) }
      else { r with due := next }

/-- Table 9.1: a loaded value extended into its register words. -/
def extendLoad (sz : Nat) (bs : List Byte) : List Word :=
  let x := leNat bs
  match sz with
  | 1 => wordsOf x 2
  | 2 => wordsOf x 4
  | 4 => [BitVec.signExtend 32 (BitVec.ofNat 8 x)]
  | 6 => [BitVec.signExtend 32 (BitVec.ofNat 16 x)]
  | _ => [BitVec.ofNat 32 x]

/-- The results of a request's lanes. -/
def Req.results (r : Req) : List LaneRes :=
  r.accs.map fun a => ⟨⟨a.t, 0, a.qlane, 0⟩, extendLoad r.sz a.old, a.lbl ||| a.rlbl⟩

/-- R106: lanes that name one address receive one GWCT. -/
def Req.gwctOf (r : Req) (a : Acc) : DWord :=
  (r.accs.filter fun b => b.loc = a.loc).foldl (fun t b => if t.toNat < b.gwct.toNat then b.gwct else t) a.gwct

/-- R90, R243, R245, R249: the response writes the destination, joins WCT, and lets the token fall. -/
def State.respond (s : State) (id : Nat) : State :=
  match s.req? id with
  | none => s
  | some r =>
    let rs := r.results.filter fun x => (s.team? x.l.t.tid).isSome
    let s := { s with m.reqs := s.m.reqs.filter fun q => q.id ≠ id }
    let s := (resWrites r.dst rs).foldl (fun s w => s.writeReg w) s
    let s := r.dst.foldl (fun s k => (dedup (rs.map fun x => x.l.g)).foldl (fun s g =>
      s.applyLbl ⟨g, k, (rs.filter fun x => x.l.g = g).foldl (fun a x => a ||| x.lbl) 0, r.cover.contains g⟩) s) s
    let s := if r.kind.writes then
        (r.accs.filter fun a => (s.team? a.t.tid).isSome).foldl (fun s a => s.joinWct a.t (r.gwctOf a)) s
      else s
    s.tokDown r.tok (rs.map fun x => x.l.t)

end Sys2Proof.Machine
end

