-- ==== Sys2Proof/Machine/Access.lean ====
section
/-! DEFINITION. The instructions of class 3: addresses and their checks, loads, stores, atomics, fences, LEASE, PREF and
PRES (R74 to R76, R80 to R84, R88 to R93, R113, R114, R238 to R255). -/

namespace Sys2Proof.Machine

open Sys2Proof

/-! ## Addresses -/

/-- Table 9.1: the bytes of a size code. -/
def szBytes (sz : Nat) : Nat :=
  match sz with
  | 0 => 4
  | 1 => 8
  | 2 => 16
  | 5 => 2
  | 6 => 2
  | _ => 1

/-- Is the operation one of LEASE, PREF and PRES, which name a line? -/
def lineOp (op : Nat) : Bool := 11 ≤ op

/-- Is the operation an atomic, whose MOD has the layout of Table 9.3? -/
def atomOp (op : Nat) : Bool := 5 ≤ op && op ≤ 9

/-- The bytes that an access of class 3 covers. -/
def accLen (op : Nat) (f : Fm) : Nat := if atomOp op then (if mdAW f.md = 1 then 8 else 4) else szBytes (mdSz f.md)

/-- R239, R247: the signed byte offset of an access. -/
def accOff (op : Nat) (f : Fm) : Int :=
  if atomOp op then 0 else if lineOp op then 128 * mdOff f.md else szBytes (mdSz f.md) * mdOff f.md

/-- R239: a lane's address in global memory or in the scratchpad, computed exactly; the MOD of other classes than 3 holds
no offset. -/
def State.addrOf (s : State) (i : Iss) (glob : Bool) (l : Lane) : Int :=
  (s.intVal l.t i.f.lit i.f.a (if glob then 2 else 1) 0 true : Int) + (if i.cls = 3 then accOff i.op i.f else 0)

/-- R75, R239: the faults of a global address. -/
def globFlt (a : Int) (len : Nat) (aligned : Bool) : Option Flt :=
  if a < 0 ∨ 2 ^ 57 ≤ a then some ⟨fcAddress, 0, (a % 2 ^ 64).toNat, 0⟩
  else if aligned && a % len ≠ 0 then some ⟨fcAlign, 0, a.toNat, 0⟩
  else none

/-- R76: the size of a team's scratchpad. -/
def State.scrSize (s : State) (tid : Nat) : Nat :=
  match (s.team? tid).bind s.stageOf with
  | some st => 32768 * st.scru
  | none => 0

/-- R76, R239: the faults of a scratchpad offset. -/
def State.scrFlt (s : State) (tid : Nat) (a : Int) (len : Nat) (aligned : Bool) : Option Flt :=
  if a < 0 ∨ s.scrSize tid ≤ a then some ⟨fcScratch, 0, (a % 2 ^ 64).toNat, 0⟩
  else if aligned && a % len ≠ 0 then some ⟨fcAlign, 0, a.toNat, 0⟩
  else if s.scrSize tid < a + len then some ⟨fcScratch, 0, a.toNat, 0⟩
  else none

/-! ## Translation and its parking -/

/-- R240: a lane's translated access. -/
def State.tr (s : State) (i : Iss) (write : Bool) (l : Lane) : Tr :=
  s.translate i.g.core i.g.part i.g.ctx (s.addrOf i true l).toNat write

/-- A lane whose page gives a resolvable report: its team, the address at which the page begins, and the report. -/
structure PageStop where
  l : Lane
  tid : Nat
  page : Nat
  va : Nat
  pf : Bool
  code : Nat
  detail : Nat
  gpa : Nat
  deriving DecidableEq, Repr

/-- The lanes whose address does not translate. -/
def pageStops (i : Iss) (va : Lane → Nat) (tr : Lane → Tr) : List PageStop :=
  i.on.filterMap fun l =>
    match tr l with
    | .page pf code detail gpa log => some ⟨l, l.t.tid, pageBase (va l) log, va l, pf, code, detail, gpa⟩
    | _ => none

/-- R240, R371: one report for each page of a team, in ascending page order; the lanes of a page park behind those of
the pages below it. -/
def State.reportPages (s : State) (i : Iss) (ps : List PageStop) : State × List (Lane × Park) :=
  let keys := dedup ((sortBy (·.page) ps).map fun p => (p.page, p.tid))
  keys.foldl (fun (s, out) k =>
    let mine := ps.filter fun p => (p.page, p.tid) = k
    match mine with
    | [] => (s, out)
    | p :: _ =>
      let (tok, s) := s.resolvable p.tid none p.pf p.code p.detail p.gpa i.g.core i.g.quad p.l.q i.g.pc (s.wordAt i.g) p.va
      (s, (mine.map fun m => (m.l, Park.fault tok)) ++ out)) (s, [])

/-- R240, step 2. -/
def State.pageStop (s : State) (i : Iss) (write : Bool) : State × List (Lane × Park) :=
  s.reportPages i (pageStops i (fun l => (s.addrOf i true l).toNat) fun l => s.tr i write l)

/-! ## Accesses -/

/-- One lane's access, translated. -/
def State.accOf (s : State) (i : Iss) (write : Bool) (data cmp : Lane → List Byte) (len : Nat) (l : Lane) :
    Option (Acc × Label) :=
  match s.tr i write l with
  | .ok loc fl =>
    let a : Acc :=
      { t := l.t, qlane := l.q, va := BitVec.ofNat 64 (s.addrOf i true l).toNat, loc := loc, len := len, data := data l,
        cmp := cmp l, lbl := s.aluLbl i l, rlbl := 0, done := false, old := [],
        run := match s.team? l.t.tid with | some t => t.run | none => 0 }
    some (a, fl)
  | _ => none

/-- R250: is an operation one that PCIe does not take? -/
def pcieBad (kind : ReqKind) (loc : Loc) : Bool :=
  match loc, kind with
  | .host _ false, .atomic o _ _ => o ≠ 0 && o ≠ 6
  | .host _ false, .red o _ _ => o ≠ 0 && o ≠ 6
  | _, _ => false

/-- R240, step 2, R371: the fault of an address whose tables are malformed. -/
def State.trFlt (s : State) (i : Iss) (kind : ReqKind) (l : Lane) : Option Flt :=
  match s.tr i kind.writes l with
  | .bad d => some ⟨fcTrans, d, (s.addrOf i true l).toNat, 0⟩
  | _ => none

/-- R240, step 3, R250: the operation test of an atomic that reaches the host through PCIe. -/
def State.pcieFlt (s : State) (i : Iss) (kind : ReqKind) (l : Lane) : Option Flt :=
  match s.tr i kind.writes l with
  | .ok loc _ => if pcieBad kind loc then some ⟨fcAtomic, 0, (s.addrOf i true l).toNat, 0⟩ else none
  | _ => none

/-- R113, R240, step 3: the label test. A line at another station is tested there (R118). -/
def State.storeFlt (s : State) (i : Iss) (kind : ReqKind) (l : Lane) : Option Flt :=
  match s.tr i kind.writes l with
  | .ok (.fab ..) _ => none
  | .ok loc fl =>
    if kind.writes && s.owned i.g.part loc && !Label.sub (s.aluLbl i l) fl then some ⟨fcLabel, 0, (s.addrOf i true l).toNat, 0⟩ else none
  | _ => none

/-- R132, R366: the ownership of the frame, which a load that hits in L1 needs too. -/
def State.ownFlt (s : State) (i : Iss) (kind : ReqKind) (l : Lane) : Option Flt :=
  match s.tr i kind.writes l with
  | .ok loc _ => if s.owned i.g.part loc then none else some ⟨fcTrans, 3, (s.addrOf i true l).toNat, 0⟩
  | _ => none

/-- R240, step 3, and R366: the faults of a lane's translated access, in their order. -/
def State.accFlt (s : State) (i : Iss) (kind : ReqKind) (l : Lane) : Option Flt :=
  (s.trFlt i kind l).or ((s.pcieFlt i kind l).or ((s.storeFlt i kind l).or (s.ownFlt i kind l)))

/-- R240: each test is made for every lane before the next. -/
def State.judgeAcc (s : State) (i : Iss) (kind : ReqKind) : State :=
  let s := s.judge i.g i.on fun l => s.trFlt i kind l
  let s := s.judge i.g (s.alive i.on) fun l => s.pcieFlt i kind l
  let s := s.judge i.g (s.alive i.on) fun l => s.storeFlt i kind l
  s.judge i.g (s.alive i.on) fun l => s.ownFlt i kind l

/-- R89, R252: a thread's own atomic or LEASE of a line is under way, which a load of the thread does not pass. -/
def State.rmwAhead (s : State) (t : TRef) (line : Loc) : Bool :=
  s.m.reqs.any fun r => (r.kind.rmw || r.kind = .lease) && r.accs.any fun a => !a.done && a.t = t && a.loc.line = line

/-- R88: a load that hits in L1 takes its value at issue. A line that its team holds pinned is read there (R97). -/
def State.hitAcc (s : State) (i : Iss) (a : Acc) : Acc :=
  match s.l1Hit i.g.core i.g.part a.loc.line with
  | some x =>
    if (s.pinOf a.t.tid a.loc.line).isSome || s.rmwAhead a.t a.loc.line then a
    else { a with done := true, old := (x.bytes.drop a.loc.off).take a.len, rlbl := x.lbl }
  | none => a

/-- R89, R96: what the issue of a store or an atomic does to the issuing core's L1 copy, and to the lines on their way to that L1. -/
def State.touchL1 (s : State) (i : Iss) (kind : ReqKind) (a : Acc) : State :=
  let s := if kind.writes then s.noKeep i.g.core a.loc.line else s
  if kind.rmw || kind = .lease then s.dropL1 i.g.core i.g.part a.loc.line
  else if kind.writes then
    s.setL1 i.g.core i.g.part a.loc.line fun x =>
      if x.pin.isNone then { x with bytes := overlay x.bytes a.loc.off a.data } else x
  else s

/-- R106, R248: at the host or at another station, lanes that name one address carry one another's operand labels. -/
def State.combineLbl (s : State) (i : Iss) (kind : ReqKind) (as_ : List Acc) (a : Acc) : Acc :=
  match a.loc, kind.combines with
  | .mem _, _ => a
  | _, false => a
  | _, true =>
    let ls := i.on.filter fun l => as_.any fun b => b.t = l.t && b.loc = a.loc
    { a with lbl := ls.foldl (fun x l => x ||| s.srcLbl l.g i.cls i.op i.f) a.lbl }

/-- The distinct lines of some accesses. -/
def linesOfAccs (as_ : List Acc) : Nat := (dedup (as_.map fun a => a.loc.line)).length

/-- R241: the distinct lines of some accesses that take an entry: those that neither hit in L1 nor are left. -/
def entriesOf (as_ : List Acc) : Nat := linesOfAccs (as_.filter fun a => !a.done && !a.inL1)

/-- R324: the coalescer takes four lines a cycle. -/
def State.useCoalescer (s : State) (i : Iss) (n : Nat) : State :=
  { s with sch.busy := mset s.sch.busy (i.g.core, i.g.quad, 2) (s.clk.cycle + max 1 ((n + 3) / 4)) }

/-- R324: when the accesses of a request that issues reach their coherence points. -/
def State.timeAll (s : State) (core : Nat) (as_ : List Acc) : List Acc × State :=
  as_.foldl (fun (x : List Acc × State) a => let (a, s) := x.2.timed core a; (x.1 ++ [a], s)) ([], s)

/-- R300: the decrements of one DECDEP perform together, when the last of them has reached its counter. -/
def atOnce (kind : ReqKind) (as_ : List Acc) : List Acc :=
  match kind with
  | .decdep _ => let t := as_.foldl (fun n a => max n a.at_) 0; as_.map fun a => { a with at_ := t }
  | _ => as_

/-- R240, R241: a memory request of the lanes that go on. -/
def State.request (s : State) (i : Iss) (kind : ReqKind) (scope : Nat) (nl : Bool) (as_ : List Acc) (dst : List Tile)
    (sz tok : Nat) : State :=
  if as_.isEmpty then s
  else
    let ls := i.on.filter fun l => as_.any fun a => a.t = l.t
    let s := s.useCoalescer i (linesOfAccs as_)
    let (id, s) := s.freshId
    let done := as_.all (·.done)
    let cover := (dedup (ls.map (·.g))).filter fun g => s.covers g ls
    let (as_, s) := s.timeAll i.g.core as_
    let as_ := atOnce kind as_
    let r : Req :=
      { id := id, kind := kind, core := i.g.core, quad := i.g.quad, part := i.g.part, ctx := i.g.ctx, pc := i.g.pc,
        word := s.wordAt i.g, scope := scope, nl := nl, accs := as_, dst := dst, sz := sz, tok := tok, cover := cover,
        ents := entriesOf as_, back := done, due := s.clk.cycle + 36 }
    { s with m.reqs := s.m.reqs ++ [if done then r else { r with due := s.nextTry r }] }

/-- R372: the core's TLB takes the translations of an issue. -/
def State.fillTlb (s : State) (i : Iss) (write : Bool) (vas : List Nat) : State :=
  vas.foldl (fun s va => s.tlbFill i.g.core i.g.part i.g.ctx va write) s

/-- The accesses of the lanes of an issue, as they reach the coalescer. -/
def State.accsOf (s : State) (i : Iss) (kind : ReqKind) (nl : Bool) (data cmp : Lane → List Byte) (len : Nat) : List Acc :=
  let as0 := (i.on.filterMap fun l => s.accOf i kind.writes data cmp len l).map (·.1)
  let as1 := as0.map fun a => s.combineLbl i kind as0 a
  if kind = .load && !nl then as1.map fun a => s.hitAcc i a else as1

/-- The whole of a global access after its pages have translated: the faults of step 3, and the request. -/
def State.globalAccess (s : State) (i : Iss) (kind : ReqKind) (scope : Nat) (nl : Bool) (data cmp : Lane → List Byte)
    (len : Nat) (dst : List Tile) (sz : Nat) : State :=
  let s := s.judgeAcc i kind
  let i := { i with on := s.alive i.on }
  let as_ := s.accsOf i kind nl data cmp len
  let s := s.fillTlb i kind.writes (i.on.map fun l => (s.addrOf i true l).toNat)
  let s := as_.foldl (fun s a => s.touchL1 i kind a) s
  s.request i kind scope nl as_ dst sz i.f.tok

/-- The bytes of a data operand. -/
def State.dataBytes (s : State) (i : Iss) (c : Code) (len : Nat) (l : Lane) : List Byte :=
  natLE len (s.intVal l.t i.f.lit c (if len = 8 then 2 else if len = 16 then 4 else 1) 0 true)

/-- No bytes. -/
def noBytes (_ : Lane) : List Byte := []

/-- R176, Table 9.3: the bytes of an atomic's operand. A literal is sign-extended for a signed type; the types of CAS and CASS
are untyped, so it is zero-extended there. -/
def State.atomBytes (s : State) (i : Iss) (c : Code) (l : Lane) : List Byte :=
  let w := if mdAW i.f.md = 1 then 2 else 1
  natLE (4 * w) (s.intVal l.t i.f.lit c w 0 (mdU i.f.md || i.op = 7 || i.op = 8))

/-! ## Global loads, stores and atomics -/

/-- R240, step 1. -/
def State.globFltOf (s : State) (i : Iss) (l : Lane) : Option Flt :=
  globFlt (s.addrOf i true l) (accLen i.op i.f) (!lineOp i.op)

/-- R243, R244. -/
def ldMeaning : Meaning where
  flt s i l := s.globFltOf i l
  stop s i := s.pageStop i false
  eff s i := s.globalAccess i .load 0 (mdNl i.f.md) noBytes noBytes (accLen i.op i.f) (Fm.writes i.cls i.op i.f) (mdSz i.f.md)

/-- R245. -/
def stMeaning : Meaning where
  flt s i l := s.globFltOf i l
  closes _ _ _ := true
  stop s i := s.pageStop i true
  eff s i := s.globalAccess i .store 0 false (s.dataBytes i i.f.b (accLen i.op i.f)) noBytes (accLen i.op i.f) [] 0

/-- The size code of an atomic's result. -/
def atomSz (f : Fm) : Nat := if mdAW f.md = 1 then 1 else 0

/-- R248, R249. -/
def atomMeaning : Meaning where
  flt s i l := s.globFltOf i l
  closes _ _ _ := true
  stop s i := s.pageStop i true
  eff s i := s.globalAccess i (.atomic (mdAop i.f.md) (mdAW i.f.md = 1) (mdU i.f.md)) (mdScope i.f.md) false
    (s.atomBytes i i.f.b) noBytes (accLen i.op i.f) (Fm.writes i.cls i.op i.f) (atomSz i.f)

/-- R248, R249. -/
def redMeaning : Meaning where
  flt s i l := s.globFltOf i l
  closes _ _ _ := true
  stop s i := s.pageStop i true
  eff s i := s.globalAccess i (.red (mdAop i.f.md) (mdAW i.f.md = 1) (mdU i.f.md)) (mdScope i.f.md) false
    (s.atomBytes i i.f.b) noBytes (accLen i.op i.f) [] 0

/-- R248, R249: b is the value compared and c the new one. -/
def casMeaning : Meaning where
  flt s i l := s.globFltOf i l
  closes _ _ _ := true
  stop s i := s.pageStop i true
  eff s i := s.globalAccess i (.cas (mdAW i.f.md = 1)) (mdScope i.f.md) false (s.atomBytes i i.f.c) (s.atomBytes i i.f.b)
    (accLen i.op i.f) (Fm.writes i.cls i.op i.f) (atomSz i.f)

/-! ## Scratchpad -/

/-- A lane's scratchpad offset. -/
def State.scrOff (s : State) (i : Iss) (l : Lane) : Nat := (s.addrOf i false l).toNat

/-- R76, R239. -/
def State.scrFltOf (s : State) (i : Iss) (l : Lane) : Option Flt :=
  s.scrFlt l.t.tid (s.addrOf i false l) (if lineOp i.op then 1 else accLen i.op i.f) (!lineOp i.op)

/-- R83: the lanes of each path that read an absent line park together until every line is present. -/
def State.parkLines (s : State) (i : Iss) (span : Lane → Nat × Nat) : List (Lane × Park) :=
  let out := i.on.filter fun l => s.sabsent l.t.tid (span l).1 (span l).2
  let lines := fun (pid : Nat) => dedup ((out.filter fun l => l.pid = pid).flatMap fun l => spanLines (span l).1 (span l).2)
  out.map fun l => (l, .lines (lines l.pid))

/-- R83: the stop of LDS, ATOMS and CASS. -/
def State.scrStop (s : State) (i : Iss) : State × List (Lane × Park) :=
  (s, s.parkLines i fun l => (s.scrOff i l, accLen i.op i.f))

/-- R80: the passes of some lanes' accesses: the distinct words of the busiest bank. -/
def passesOf (words : List (Nat × Nat)) : Nat :=
  (List.range 32).foldl (fun m b => max m (dedup (words.filter fun w => w.2 % 32 = b)).length) 1

/-- R325, R429: the pair link's cycles for the odd core of a pair. -/
def State.pairLat (s : State) (i : Iss) : Nat :=
  if i.on.any fun l => match s.team? l.t.tid with | some t => t.core2 = some i.g.core | none => false then 24 else 0

/-- The core whose scratchpad an issue reaches: the even core of a pair-spanning team (R79). -/
def State.scrCore (s : State) (i : Iss) : Nat :=
  match i.on.head?.bind fun l => s.team? l.t.tid with
  | some t => t.core
  | none => i.g.core

/-- The words of the scratchpad that an issue touches. -/
def State.scrWords (s : State) (i : Iss) : List (Nat × Nat) :=
  i.on.flatMap fun l => (List.range ((accLen i.op i.f + 3) / 4)).map fun k => (l.t.tid, s.scrOff i l / 4 + k)

/-- R325: the first cycle from `t` on in which the scratchpad of a core has a pass free for a quadrant: two passes a cycle, of different
quadrants. -/
def State.passAt (s : State) (core icore quad : Nat) : Nat → Nat → Nat
  | 0, t => t
  | n + 1, t =>
    let mine := s.sch.passes.filter fun x => x.1 = core && x.2.1 = t
    if mine.length < 2 && !(mine.any fun x => x.2.2 = (icore, quad)) then t else s.passAt core icore quad n (t + 1)

/-- R325: book `n` passes one after another from a cycle on; the cycle behind the last. Instructions book in the order in which they
issue. -/
def State.bookPasses (core icore quad : Nat) : Nat → Nat → State → Nat × State
  | 0, t, s => (t, s)
  | n + 1, t, s =>
    let t := s.passAt core icore quad (s.sch.passes.length + 1) t
    State.bookPasses core icore quad n (t + 1) { s with sch.passes := s.sch.passes ++ [(core, t, icore, quad)] }

/-- R325: an issue's scratchpad access takes its passes; the cycles that it waited. -/
def State.scrPasses (s : State) (i : Iss) : Nat × State :=
  if i.on.isEmpty then (0, s)
  else
    let s := { s with sch.passes := s.sch.passes.filter fun (x : Nat × Nat × Nat × Nat) => s.clk.cycle ≤ x.2.1 }
    let n := passesOf (s.scrWords i)
    let (t, s) := State.bookPasses (s.scrCore i) i.g.core i.g.quad n s.clk.cycle s
    (t - (s.clk.cycle + n), s)

/-- Table 17.3, R325: the latency of a scratchpad access that returns a value. -/
def State.scrLat (s : State) (i : Iss) : Nat × State :=
  let (w, s') := s.scrPasses i
  (20 + 2 * (passesOf (s.scrWords i) - 1) + w + s.pairLat i, s')

/-- Write the results of some lanes `lat` cycles from now. -/
def State.putRes (s : State) (i : Iss) (lat : Nat) (rs : List LaneRes) : State :=
  s.result lat (Fm.writes i.cls i.op i.f) rs i.f.tok []

/-- R243: LDS. -/
def ldsMeaning : Meaning where
  flt s i l := s.scrFltOf i l
  stop s i := s.scrStop i
  eff s i :=
    let n := accLen i.op i.f
    let (lat, s) := s.scrLat i
    s.putRes i lat (i.on.map fun l =>
      let a := s.scrOff i l
      ⟨l, extendLoad (mdSz i.f.md) (s.sreads l.t.tid a n), s.aluLbl i l ||| s.slabel l.t.tid a n⟩)

/-- R114, R245: one lane's STS. -/
def State.stsLane (s : State) (i : Iss) (l : Lane) (a : Nat) (bs : List Byte) (lbl : Label) : State :=
  (s.swrites l.t.tid a bs).sjoin l.t.tid a (accLen i.op i.f) lbl

/-- R245: STS. Lanes perform in ascending quadrant lane order (R242). -/
def stsMeaning : Meaning where
  flt s i l := s.scrFltOf i l
  eff s i :=
    let s' := i.on.foldl (fun s' l =>
      s'.stsLane i l (s.scrOff i l) (s.dataBytes i i.f.b (accLen i.op i.f) l) (s.aluLbl i l)) (s.scrPasses i).2
    s'.tokDown i.f.tok (i.on.map (·.t))

/-- R248: the scratchpad atomics of the lanes one by one, in ascending quadrant lane order. -/
def State.atomsLanes (s : State) (i : Iss) (new : Lane → List Byte → Option (List Byte)) : State × List LaneRes :=
  let n := accLen i.op i.f
  i.on.foldl (fun (s', rs) l =>
    let a := s.scrOff i l
    let old := s'.sreads l.t.tid a n
    let lbl := s.aluLbl i l ||| s'.slabel l.t.tid a n
    let s'' := match new l old with
      | some bs => s'.swrites l.t.tid a bs
      | none => s'
    (s''.sjoin l.t.tid a n (s.aluLbl i l), rs ++ [⟨l, extendLoad (atomSz i.f) old, lbl⟩])) (s, [])

/-- R248, R249: ATOMS. -/
def atomsMeaning : Meaning where
  flt s i l := s.scrFltOf i l
  stop s i := s.scrStop i
  eff s i :=
    let (lat, s) := s.scrLat i
    let (s', rs) := s.atomsLanes i fun l old =>
      some (natLE (accLen i.op i.f) (atomNew (mdAop i.f.md) (mdAW i.f.md = 1) (mdU i.f.md) (leNat old)
        (leNat (s.atomBytes i i.f.b l))))
    s'.putRes i lat rs

/-- R248, R249: CASS. -/
def cassMeaning : Meaning where
  flt s i l := s.scrFltOf i l
  stop s i := s.scrStop i
  eff s i :=
    let (lat, s) := s.scrLat i
    let (s', rs) := s.atomsLanes i fun l old =>
      if old = s.atomBytes i i.f.b l then some (s.atomBytes i i.f.c l) else none
    s'.putRes i lat rs

/-- R254: PRES. -/
def presMeaning : Meaning where
  flt s i l := s.scrFltOf i l
  eff s i :=
    let pred := match Opnd.ofCode i.f.dst with | .pred _ => true | _ => false
    s.putRes i (8 + s.pairLat i) (i.on.map fun l =>
      let x := s.sline l.t.tid (s.scrOff i l / 128)
      let p := if x.p then 1 else 0
      ⟨l, [BitVec.ofNat 32 (if pred then p else p + 2 * x.c)], s.aluLbl i l⟩)

/-! ## Constants -/

/-- The stage of an issue group. -/
def State.stageIg (s : State) (g : IssueGroup) : Option Stage := s.stage? g.part g.ctx g.stage

/-- R76, R239: the faults of a constant offset. -/
def State.constFlt (s : State) (i : Iss) (l : Lane) : Option Flt :=
  let a := s.addrOf i false l
  let n := accLen i.op i.f
  let size : Int := match s.stageIg i.g with | some st => st.const.length | none => 0
  if 65536 ≤ s.intVal l.t i.f.lit i.f.a 1 0 true ∨ a < 0 ∨ size ≤ a then some ⟨fcConst, 0, (a % 2 ^ 64).toNat, 0⟩
  else if a % n ≠ 0 then some ⟨fcAlign, 0, a.toNat, 0⟩
  else if size < a + n then some ⟨fcConst, 0, a.toNat, 0⟩
  else none

/-- R243: LDC. -/
def ldcMeaning : Meaning where
  flt s i l := s.constFlt i l
  eff s i :=
    match s.stageIg i.g with
    | some st =>
      let n := accLen i.op i.f
      let words := dedup ((s.scrWords i).map fun w => w.2)
      s.putRes i (12 + (words.length - 1)) (i.on.map fun l =>
        ⟨l, extendLoad (mdSz i.f.md) ((st.const.drop (s.scrOff i l)).take n), s.aluLbl i l ||| st.constLbl⟩)
    | none => s

/-! ## Fences -/

/-- Has a thread an access under way that a release waits for (R92, steps 1 and 2)? -/
def State.busyThread (s : State) (t : TRef) : Bool :=
  s.m.reqs.any fun r => r.kind ≠ .pref && r.accs.any fun a => a.t = t

/-- Has a thread a load under way (R93)? -/
def State.loading (s : State) (t : TRef) : Bool :=
  s.m.reqs.any fun r => r.kind ≠ .pref && (r.kind = .load || r.kind = .lease || r.kind.rmw) && r.accs.any fun a => a.t = t

/-- R92, steps 3 and 5: the transit clock has passed WCT, and no write-back of the team is under way. -/
def State.relDone (s : State) (t : TRef) (scope : Nat) : Bool :=
  let k := scopeRank scope
  !s.busyThread t && (k = 0 ||
    ((s.thr t).wct.toNat + (if 3 ≤ k then 16 else 0) < s.clk.tclk.toNat && !s.y.reqs.any fun r => r.who = .pinned t.tid))

/-- R92, R98: a release of a scope by a team writes back its pinned lines below that level; the GWCTs join the WCT of every live thread
of the team, whose stores the lines hold. A line at level system is unpinned. A line of an old shard that is read-only takes no store: the
team takes the placement fault (R128). -/
def State.releasePins (s : State) (tid rank : Nat) : State :=
  let mine := s.m.l1.filter fun x => match x.pin with | some p => p.tid = tid && p.level < rank | none => false
  let s' := mine.foldl (fun s x =>
    let s := s.flushPin x (s.liveOf tid)
    if rank = 4 then { s with m.l1 := s.m.l1.filter fun y => !(y.line = x.line && y.pin.isSome) }
    else s.setL1 x.core x.part x.line fun y =>
      { y with pin := y.pin.map fun (p : Pin) => { p with level := rank, mask := 0, wlbl := 0 } }) s
  if mine.any s.roBack then s'.teamFault tid fcPlace 2 0 0 0 else s'

/-- R92, step 5, for the threads of an issue group, each with its scope. -/
def State.flush (s : State) (ts : List (TRef × Nat)) : State :=
  (dedup (ts.map fun x => x.1.tid)).foldl (fun s tid =>
    let mine := ts.filter fun x => x.1.tid = tid && scopeRank x.2 ≠ 0
    let k := mine.foldl (fun a x => max a (scopeRank x.2)) 0
    if k = 0 then s else s.releasePins tid k) s

/-- R92, R94: a release by some threads holds the issue group until it is complete. -/
def State.release92 (s : State) (g : IssueGroup) (ts : List (TRef × Nat)) : State × Option Hold :=
  if ts.any fun x => s.busyThread x.1 then (s, some { rel := ts })
  else
    let was := match g.hold with | some h => h.flushed | none => false
    let s := if was then s else s.flush ts
    if ts.all fun x => s.relDone x.1 x.2 then (s, none) else (s, some { rel := ts, flushed := true })

/-- Table 3.6: the lines that an acquire of a scope drops on one core. -/
def dropsLine (rank : Nat) (pair : Bool) (line : Loc) : Bool :=
  match line with
  | .mem _ => 1 ≤ rank || pair
  | .fab .. => 3 ≤ rank || pair
  | .host .. => 4 ≤ rank || pair

/-- R93: an acquire by some lanes of an issue group. -/
def State.acquire (s : State) (g : IssueGroup) (ls : List Lane) (scope : Nat) : State :=
  let pair := ls.any fun l => match s.team? l.t.tid with | some t => t.core2.isSome | none => false
  if ls.isEmpty then s
  else { s with m.l1 := s.m.l1.filter fun x =>
    !(x.core = g.core && x.part = g.part && x.pin.isNone && dropsLine (scopeRank scope) (pair && scopeRank scope = 0) x.line) }

/-- R251: the lanes of an acquire have no load under way. -/
def State.acquireHold (s : State) (i : Iss) : State × Option Hold :=
  if i.on.any fun l => s.loading l.t then (s, some { loads := i.on.map (·.t) }) else (s, none)

/-- R251: FENCE. -/
def fenceMeaning : Meaning where
  hold s i :=
    if mdKind i.f.md = 2 then s.acquireHold i
    else s.release92 i.g (i.on.map fun l => (l.t, mdScope i.f.md))
  eff s i := if mdKind i.f.md = 1 then s else s.acquire i.g i.on (mdScope i.f.md)

/-! ## LEASE and PREF -/

/-- R252: a line that LEASE leaves as it is. -/
def State.leaseLeft (s : State) (i : Iss) (a : Acc) : Acc :=
  if !a.loc.leaseable || s.l1Cap i.g.part i.g.core = 0 || (s.pinOf a.t.tid a.loc.line).isSome then { a with done := true }
  else a

/-- R252: LEASE. -/
def leaseMeaning : Meaning where
  flt s i l := s.globFltOf i l
  stop s i := s.pageStop i false
  eff s i :=
    let s := s.judgeAcc i .lease
    let i := { i with on := s.alive i.on }
    let as_ := (i.on.filterMap fun l => s.accOf i false noBytes noBytes 1 l).map fun x => s.leaseLeft i x.1
    let s := s.fillTlb i false (i.on.map fun l => (s.addrOf i true l).toNat)
    let s := (as_.filter fun a => !a.done).foldl (fun s a => s.touchL1 i .lease a) s
    s.request i .lease 0 false as_ [] 0 i.f.tok

/-- R241: the entries that a request holds: its lines whose data, or GWCT, has not returned. -/
def State.entriesHeld (s : State) (r : Req) : Nat :=
  if r.ents = 0 then 0 else linesOfAccs (r.accs.filter fun a => !a.inL1 && (!a.done || s.clk.cycle < a.back))

/-- R241: the entries of a core's outstanding transaction table in use. -/
def State.entries (s : State) (core : Nat) : Nat :=
  (s.m.reqs.filter fun r => r.core = core).foldl (fun n r => n + s.entriesHeld r) 0

/-- R253: the lanes of a PREF that start a fetch, each line once. -/
def State.prefAccs (s : State) (i : Iss) : List Acc :=
  let as_ := i.on.filterMap fun l =>
    match globFlt (s.addrOf i true l) 1 false with
    | some _ => none
    | none =>
      match s.accOf i false noBytes noBytes 1 l with
      | some (a, _) =>
        if s.owned i.g.part a.loc && a.loc.leaseable && (s.pinned? a.loc.line).isNone &&
            (s.l1Hit i.g.core i.g.part a.loc.line).isNone then some a else none
      | none => none
  let firsts := (dedup (as_.map fun a => a.loc.line)).filterMap fun line => as_.find? fun a => a.loc.line = line
  firsts.take (256 - s.entries i.g.core)

/-- R253: PREF. -/
def prefMeaning : Meaning where
  eff s i :=
    let s' := s.tokDown i.f.tok (i.on.map (·.t))
    if mdNl i.f.md then (s.prefAccs i).foldl (fun s a => (s.l2Fetch i.g.core a.loc).2) s'
    else if s.l1Cap i.g.part i.g.core = 0 then s'
    else (s'.fillTlb i false ((s.prefAccs i).map fun a => a.va.toNat)).request i .pref 0 false (s.prefAccs i) [] 0 6

/-! ## The instructions -/

/-- R243, R244: LD. -/
def execLd (f : LForm) (s : State) : Host.Outcome State Fault Refusal := runWord (.ld f) ldMeaning s

/-- R245: ST, short form. -/
def execSt (f : SForm) (s : State) : Host.Outcome State Fault Refusal := runWord (.st f) stMeaning s

/-- R245: ST, long form. -/
def execStLong (f : LForm) (s : State) : Host.Outcome State Fault Refusal := runWord (.stLong f) stMeaning s

/-- R243: LDS. -/
def execLds (f : LForm) (s : State) : Host.Outcome State Fault Refusal := runWord (.lds f) ldsMeaning s

/-- R245: STS, short form. -/
def execSts (f : SForm) (s : State) : Host.Outcome State Fault Refusal := runWord (.sts f) stsMeaning s

/-- R245: STS, long form. -/
def execStsLong (f : LForm) (s : State) : Host.Outcome State Fault Refusal := runWord (.stsLong f) stsMeaning s

/-- R243: LDC. -/
def execLdc (f : LForm) (s : State) : Host.Outcome State Fault Refusal := runWord (.ldc f) ldcMeaning s

/-- R248, R249: ATOM. -/
def execAtom (f : LForm) (s : State) : Host.Outcome State Fault Refusal := runWord (.atom f) atomMeaning s

/-- R248, R249: ATOMS. -/
def execAtoms (f : LForm) (s : State) : Host.Outcome State Fault Refusal := runWord (.atoms f) atomsMeaning s

/-- R248, R249: CAS. -/
def execCas (f : LForm) (s : State) : Host.Outcome State Fault Refusal := runWord (.cas f) casMeaning s

/-- R248, R249: CASS. -/
def execCass (f : LForm) (s : State) : Host.Outcome State Fault Refusal := runWord (.cass f) cassMeaning s

/-- R248, R249: RED, short form. -/
def execRed (f : SForm) (s : State) : Host.Outcome State Fault Refusal := runWord (.red f) redMeaning s

/-- R248, R249: RED, long form. -/
def execRedLong (f : LForm) (s : State) : Host.Outcome State Fault Refusal := runWord (.redLong f) redMeaning s

/-- R251: FENCE, short form. -/
def execFence (f : SForm) (s : State) : Host.Outcome State Fault Refusal := runWord (.fence f) fenceMeaning s

/-- R251: FENCE, long form. -/
def execFenceLong (f : LForm) (s : State) : Host.Outcome State Fault Refusal := runWord (.fenceLong f) fenceMeaning s

/-- R252: LEASE, short form. -/
def execLease (f : SForm) (s : State) : Host.Outcome State Fault Refusal := runWord (.lease f) leaseMeaning s

/-- R252: LEASE, long form. -/
def execLeaseLong (f : LForm) (s : State) : Host.Outcome State Fault Refusal := runWord (.leaseLong f) leaseMeaning s

/-- R253: PREF, short form. -/
def execPref (f : SForm) (s : State) : Host.Outcome State Fault Refusal := runWord (.pref f) prefMeaning s

/-- R253: PREF, long form. -/
def execPrefLong (f : LForm) (s : State) : Host.Outcome State Fault Refusal := runWord (.prefLong f) prefMeaning s

/-- R254: PRES. -/
def execPres (f : LForm) (s : State) : Host.Outcome State Fault Refusal := runWord (.pres f) presMeaning s

end Sys2Proof.Machine
end

