-- ==== Sys2Proof/Machine/Converge.lean ====
section
/-! DEFINITION. Convergence: how threads arrive at RECONV, collectives, QBLK, GIVE, CLAIM and barriers, when a set is
complete, what its completion does, and the collective-mismatch faults (R31, R32, R36, R37, R171, R208 to R212, R310). -/

namespace Sys2Proof.Machine

open Sys2Proof

/-! ## Sets of waiting threads -/

/-- Is a path in a waiting state of Table 1.9, with its set not complete? -/
def Path.waiting (p : Path) : Bool :=
  p.gateId.isNone && (match p.state with
    | .waitReconv => true
    | .waitCollective => true
    | .waitGroup => true
    | .waitBarrier _ _ => true
    | _ => false)

/-- R36: does a path wait for the issue group of its complete set to open? -/
def Path.opening (p : Path) : Bool := p.gateId.isSome && (p.state = .waitCollective || p.state = .waitGroup)

/-- The union of the members of some paths. -/
def maskUnion (ps : List Path) : BitVec 64 := ps.foldl (fun m p => m ||| p.mask) 0

/-- The set on top of a path's scope stack (R31), without threads that are no longer live (R32). -/
def State.topSet (s : State) (p : Path) : BitVec 64 :=
  match p.scopes with
  | sc :: _ => sc.set &&& s.liveMask p.g
  | [] => s.liveMask p.g

/-- Does a set of lanes lie within another? -/
def maskSub (a b : BitVec 64) : Bool := a &&& ~~~b == 0

/-- The instruction at which a path waits: the first of the clause whose header it stands at. -/
def State.waitWord (s : State) (p : Path) : Option (Instr × Nat) :=
  match s.team? p.g.tid, p.mid with
  | some t, some m =>
    let ws := (List.range ((m.endPc - m.hdr) / 4 - 1)).filterMap fun i => s.codeWord t.part t.ctx (m.hdr + 4 + 4 * i)
    match decode m.cls ws with
    | .ok r => some r
    | .error _ => none
  | _, _ => none

/-- The clause of a waiting path as an issue group, for the labels and results of its set. -/
def State.waitIg (s : State) (p : Path) : IssueGroup :=
  let m := p.mid.getD ⟨p.pc, 0, p.pc, false, false⟩
  let (pt, cx, st) := match s.team? p.g.tid with
    | some t => (t.part, t.ctx, t.stage)
    | none => (0, 0, 0)
  { id := 0, core := p.core, quad := p.quad, part := pt, ctx := cx, stage := st, cls := m.cls, hdr := m.hdr,
    pc := m.hdr + 4, endPc := m.endPc, yld := m.yld, formed := 0, notBefore := 0,
    chk := if m.chk then [p.id] else [], hold := none }

/-- R36, R171: the set of some waiting paths is complete; the name says in which order sets complete. -/
def State.completed (s : State) (pids : List Nat) : State :=
  let (gate, s) := s.freshId
  { s with sch.paths := s.sch.paths.map fun (p : Path) =>
      if pids.contains p.id then { p with gateId := some gate, since := s.clk.cycle } else p }

/-! ## Issue groups of complete sets -/

/-- May a team form issue groups (R40)? -/
def State.running (s : State) (tid : Nat) : Bool :=
  match s.team? tid with | some t => t.status = .resident | none => false

/-- R332: does a restored team wait for its plates? -/
def State.reloading (s : State) (tid : Nat) : Bool := s.e.loads.any fun x => x.tid = tid && x.t.isNone

/-- R26: has a quadrant a free clause context? Where held groups keep all four (R94), nothing forms until one of them goes on, and
the bound of R43 does not run (assumption 64). -/
def State.contextFree (s : State) (core quad : Nat) : Bool :=
  (s.sch.igs.filter fun g => g.core = core && g.quad = quad).length < 4

/-- The paths of a quadrant whose complete sets wait to be opened. -/
def State.toOpen (s : State) (core quad : Nat) : List Path :=
  s.sch.paths.filter fun p => p.core = core && p.quad = quad && p.opening && s.running p.g.tid && !s.reloading p.g.tid

/-- R36, R171, Table 1.9: the threads of a complete set in a quadrant take a clause context as one issue group, which stands at
the first instruction of their clause. -/
def State.openSet (s : State) (p : Path) : State :=
  let (id, s) := s.freshId
  let ps := s.sch.paths.filter fun q => q.core = p.core && q.quad = p.quad && q.g = p.g && q.opening && q.gateId = p.gateId
  let ig : IssueGroup := { s.waitIg p with
    id := id
    formed := s.clk.cycle
    notBefore := ps.foldl (fun a q => max a q.readyAt) s.clk.cycle
    chk := (ps.filter fun q => (q.mid.map (·.chk)).getD false).map (·.id)
    setAt := some p.since }
  { s with
    sch.paths := s.sch.paths.map fun (q : Path) =>
      if (ps.map (·.id)).contains q.id then { q with state := PState.inClause id, mid := none } else q
    sch.igs := s.sch.igs ++ [ig] }

/-- Complete sets of a quadrant open in the order in which they completed, while a clause context is free. The fuel counts
contexts. -/
def State.openSets (s : State) (core quad : Nat) : Nat → State
  | 0 => s
  | n + 1 =>
    if !s.contextFree core quad then s
    else
      match minBy? (fun p => p.gateId.getD 0) (s.toOpen core quad) with
      | some p => (s.openSet p).openSets core quad n
      | none => s

/-- Open what complete sets a team has. -/
def State.openTeam (s : State) (tid : Nat) : State :=
  (dedup (((s.pathsOf tid).filter Path.opening).map fun p => (p.core, p.quad))).foldl (fun s x => s.openSets x.1 x.2 4) s

/-- The fields of a waiting instruction. -/
def waitFm (i : Instr) : Fm :=
  match i.view with
  | some (_, _, b) => b.fm
  | none => SForm.fm ⟨0, 0xFF, 0xE0, 0xE0, 0⟩

/-! ## RECONV -/

/-- R32: the paths that wait with the same scope on top of their stacks. -/
def State.sameScope (s : State) (p : Path) : List Path :=
  s.sch.paths.filter fun q => q.g = p.g && q.state = .waitReconv && q.scopes.length = p.scopes.length &&
    q.scopes.head?.map (·.set) == p.scopes.head?.map (·.set)

/-- R32: pop the top entry unless it is the base entry. -/
def popScope : List Scope → List Scope
  | [] => []
  | [b] => [b]
  | _ :: rest => rest

/-- R32: the merged path of one RECONV address and quadrant, at the place of the earliest-listed. -/
def mergeReconv (cycle : Nat) (ws : List Path) (p : Path) : Option Path :=
  if !(ws.map (·.id)).contains p.id then some p
  else
    let same := ws.filter fun q => q.pc = p.pc && q.quad = p.quad
    match same with
    | f :: _ =>
      if f.id = p.id then
        some { p with
          mask := maskUnion same
          scopes := popScope p.scopes
          ctxLbl := (p.scopes.head?.map (·.lbl)).getD 0
          state := .runnable
          pc := (p.mid.map (·.endPc)).getD p.pc
          hint := (p.mid.map (·.yld)).getD false
          mid := none
          gateId := none
          since := cycle
          readyAt := same.foldl (fun a q => max a q.readyAt) 0 }
      else none
    | [] => some p

/-- R32: a scope completes. -/
def State.completeScope (s : State) (p : Path) : State :=
  let ws := s.sameScope p
  { s with sch.paths := s.sch.paths.filterMap (mergeReconv s.clk.cycle ws) }

/-! ## Collectives, QBLK, GIVE and CLAIM -/

/-- R36, R171: the paths that wait at one header for one named set. -/
def State.sameSet (s : State) (p : Path) : List Path :=
  s.sch.paths.filter fun q => q.g = p.g && q.state = .waitCollective && q.gateId.isNone && q.pc = p.pc && q.named = p.named

/-- R36: every active member of the named set waits. -/
def State.setFull (s : State) (p : Path) : Bool :=
  maskSub (p.named &&& s.liveMask p.g) (maskUnion (s.sameSet p))

/-- R37: named sets at one address that intersect without being equal. -/
def State.setClash (s : State) (p : Path) : Bool :=
  s.sch.paths.any fun q => q.g = p.g && q.state = .waitCollective && q.gateId.isNone && q.pc = p.pc && q.named ≠ p.named &&
    q.named &&& p.named != 0

/-- R93: an acquire of team scope drops nothing on one core, and every leased line for a pair-spanning team. -/
def State.teamAcquire (s : State) (tid : Nat) : State :=
  match s.team? tid with
  | some t =>
    match t.core2 with
    | some c => { s with m.l1 := s.m.l1.filter fun x =>
        !(x.part = t.part && (x.core = t.core || x.core = c) && x.pin.isNone) }
    | none => s
  | none => s

/-- Is an instruction TBAR? -/
def isTbar : Instr → Bool
  | .tbar _ => true
  | .tbarLong _ => true
  | _ => false

/-- R36, R262: a set completes. The completion of TBAR is an acquire of team scope. -/
def State.completeSet (s : State) (p : Path) : State :=
  let s' := if (s.waitWord p).any fun x => isTbar x.1 then s.teamAcquire p.g.tid else s
  s'.completed ((s.sameSet p).map (·.id))

/-- The paths of a group that wait at GIVE or CLAIM at one header. -/
def State.sameGroup (s : State) (p : Path) : List Path :=
  s.sch.paths.filter fun q => q.g = p.g && q.state = .waitGroup && q.gateId.isNone && q.pc = p.pc

/-- R22, R310: every live thread of the group waits at one GIVE or CLAIM. -/
def State.completeGroup (s : State) (p : Path) : State := s.completed ((s.sameGroup p).map (·.id))

/-! ## GIVE and CLAIM -/

/-- R310: is the instruction CLAIM (and not GIVE)? -/
def isClaim : Instr → Bool
  | .claim _ => true
  | .claimLong _ => true
  | _ => false

/-- R310: which of the team's pools of free rows serves a group. -/
def poolOf (t : Team) (g : Group) : Nat := if t.core2 = some g.core then 1 else 0

/-- R22: the rows that CLAIM adds read as 0 and carry the empty label. -/
def State.zeroRows (s : State) (g : GRef) (lo hi : Nat) : State :=
  { s with
    r.v := s.r.v.filter fun kv => !(kv.1.1.g = g && lo ≤ kv.1.2 && kv.1.2 < hi)
    r.lbl := s.r.lbl.filter fun kv => !(kv.1.1 = g && (match kv.1.2 with | .v n => lo ≤ n && n < hi | _ => false)) }

/-- R22: GIVE takes the group's n highest rows to the team's pool. -/
def State.giveRows (s : State) (g : GRef) (n : Nat) : State :=
  match s.team? g.tid, s.group? g with
  | some t, some x => (s.setGroup g fun y => { y with rows := y.rows - n }).setTeam g.tid fun t' =>
      { t' with freeRows := setAt t.freeRows (poolOf t x) fun m => m + n }
  | _, _ => s

/-- R22: CLAIM takes n rows from the team's pool. -/
def State.claimRows (s : State) (g : GRef) (n : Nat) : State :=
  match s.team? g.tid, s.group? g with
  | some t, some x => ((s.zeroRows g (8 * x.rows) (8 * (x.rows + n))).setGroup g fun y => { y with rows := y.rows + n }).setTeam g.tid
      fun t' => { t' with freeRows := setAt t.freeRows (poolOf t x) fun m => m - n }
  | _, _ => s

/-- R22: has the pool that serves a group n free rows? -/
def State.rowsFree (s : State) (g : GRef) (n : Nat) : Bool :=
  match s.team? g.tid, s.group? g with
  | some t, some x => n ≤ t.freeRows.getD (poolOf t x) 0
  | _, _ => false

/-! ## Barriers -/

/-- The paths that wait at a barrier of a team. -/
def State.atBarrier (s : State) (tid bar : Nat) : List Path :=
  (s.pathsOf tid).filter fun p => match p.state with | .waitBarrier b _ => b = bar | _ => false

/-- R210, R211: a generation completes. Its threads are Runnable at the header of the barrier's clause, and issue groups for it are
formed from them alone. -/
def State.completeBarrier (s : State) (tid bar : Nat) : State :=
  let ids := (s.atBarrier tid bar).map (·.id)
  let s := s.setTeam tid fun t => { t with bars := setAt t.bars bar fun b => { b with gen := b.gen + 1, count := none } }
  let s := (s.teamAcquire tid).completed ids
  { s with sch.paths := s.sch.paths.map fun (p : Path) =>
      if ids.contains p.id then { p with state := PState.runnable } else p }

/-- R209: every live thread of the team waits at a BAR of this number. -/
def State.barFull (s : State) (tid bar : Nat) : Bool :=
  let ps := s.atBarrier tid bar
  !ps.isEmpty && (ps.all fun p => match p.state with | .waitBarrier _ none => true | _ => false) &&
    (s.liveOf tid).all fun t => ps.any fun p => p.g = t.g && p.mask.getLsbD t.lane

/-! ## Settling -/

/-- One set of a team that can complete now, completed. -/
def State.settleOne (s : State) (tid : Nat) : Option State :=
  let ps := s.pathsOf tid
  match ps.find? fun p => p.state = .waitReconv && maskSub (s.topSet p) (maskUnion (s.sameScope p)) with
  | some p => some (s.completeScope p)
  | none =>
    match ps.find? fun p => p.state = .waitCollective && p.gateId.isNone && s.setFull p with
    | some p => some (s.completeSet p)
    | none =>
      match ps.find? fun p => p.state = .waitGroup && p.gateId.isNone && maskSub (s.liveMask p.g) (maskUnion (s.sameGroup p)) with
      | some p => some (s.completeGroup p)
      | none => ((List.range 16).find? fun b => s.barFull tid b).map fun b => s.completeBarrier tid b

/-- Complete sets until none can complete. -/
def State.settleAll (s : State) (tid : Nat) : Nat → State
  | 0 => s
  | n + 1 =>
    match s.settleOne tid with
    | some s' => s'.settleAll tid n
    | none => s

/-- The lanes of a group that stand in a waiting state. -/
def State.waitingMask (s : State) (g : GRef) : BitVec 64 :=
  maskUnion (s.sch.paths.filter fun p => p.g = g && p.waiting)

/-- R37, R212: a set that can no longer complete, or a team whose every live thread waits. -/
def State.stuck (s : State) (tid : Nat) : Option Path :=
  let ps := s.pathsOf tid
  match ps.find? fun p => p.state = .waitCollective && p.gateId.isNone &&
      maskSub (p.named &&& s.liveMask p.g) (s.waitingMask p.g) with
  | some p => some p
  | none =>
    match ps.find? fun p => p.state = .waitGroup && p.gateId.isNone && maskSub (s.liveMask p.g) (s.waitingMask p.g) with
    | some p => some p
    | none => if !ps.isEmpty && ps.all Path.waiting then ps.head? else none

/-- After an arrival or an exit: complete what can complete, then judge the mismatches of R37 and R212, and open the issue groups of
complete sets. -/
def State.settle (s : State) (tid : Nat) : State :=
  match (s.pathsOf tid).find? fun p => p.state = .waitCollective && p.gateId.isNone && s.setClash p with
  | some p => s.teamFault tid fcCollective 0 p.pc 0 0
  | none =>
    let s := s.settleAll tid 4096
    match s.stuck tid with
    | some p => s.teamFault tid fcCollective 0 p.pc 0 0
    | none => s.openTeam tid

/-- Settle every team of some lanes. -/
def State.settleTeams (s : State) (ls : List Lane) : State := (tidsOf ls).foldl (fun s tid => s.settle tid) s

/-! ## Arrivals -/

/-- R171: some lanes of the group's paths wait at the clause header in a state, each path split by what its lanes
name. -/
def State.arrive (s : State) (g : IssueGroup) (ls : List Lane) (st : PState) (named : BitVec 64) : State :=
  (dedup (ls.map (·.pid))).foldl (fun s pid =>
    let sub := maskOf ((ls.filter fun l => l.pid = pid).map fun l => l.t.lane)
    let (n, s) := s.splitPath pid sub
    s.setPath n fun p => { p with state := st, pc := g.hdr, mid := some (g.mid pid), named := named, gateId := none }) s

/-- R36, R37: threads arrive at a collective, each for the set that it names. -/
def State.arriveSets (s : State) (i : Iss) (named : Lane → BitVec 64) : State :=
  let keys := dedup (i.on.map fun l => (l.g, named l))
  keys.foldl (fun s k => s.arrive i.g (i.on.filter fun l => l.g = k.1 && named l == k.2) .waitCollective k.2) s

/-- R209: the barrier and the count that a thread names. -/
def State.barOf (s : State) (i : Iss) (l : Lane) : Nat × Option Nat :=
  (s.rd32 l.t i.f.lit i.f.a, if i.op = 7 then some (s.rd32 l.t i.f.lit i.f.b) else none)

/-- R209: threads arrive at one barrier in lane order; a BARP generation takes as many as it still lacks, and the rest
open the next generation. The fuel counts generations. -/
def State.arriveBar (s : State) (g : IssueGroup) (tid bar : Nat) (count : Option Nat) (ls : List Lane) : Nat → State
  | 0 => s
  | n + 1 =>
    if ls.isEmpty then s
    else
      match count with
      | none => s.arrive g ls (.waitBarrier bar none) 0
      | some c =>
        let here := popcountAll (s.atBarrier tid bar)
        let take_ := ls.take (c - here)
        let s := s.setTeam tid fun t => { t with bars := setAt t.bars bar fun b => { b with count := some c } }
        let s := s.arrive g take_ (.waitBarrier bar (some c)) 0
        let s := if c ≤ here + take_.length then s.completeBarrier tid bar else s
        s.arriveBar g tid bar count (ls.drop (c - here)) n
where
  /-- How many threads some paths hold. -/
  popcountAll (ps : List Path) : Nat := ps.foldl (fun a p => a + popcount p.mask) 0

/-- R212: does an arrival differ in kind or count from the generation that waits? -/
def State.barClash (s : State) (tid bar : Nat) (count : Option Nat) : Bool :=
  (s.atBarrier tid bar).any fun p => match p.state with | .waitBarrier _ c => c != count | _ => false

/-- Runs of neighbours with equal keys. -/
def runsBy {α β : Type} [DecidableEq β] (key : α → β) : List α → List (List α)
  | [] => []
  | x :: xs =>
    match runsBy key xs with
    | (y :: ys) :: rest => if key x = key y then (x :: y :: ys) :: rest else [x] :: (y :: ys) :: rest
    | rest => [x] :: rest

/-- R209, R212: lanes of one team arrive at a barrier in lane order, taken together where neighbours name one count. -/
def State.arriveRuns (s : State) (g : IssueGroup) (tid bar : Nat) (runs : List (Option Nat × List Lane)) : State :=
  runs.foldl (fun s r =>
    if (s.team? tid).isNone then s
    else if s.barClash tid bar r.1 then s.teamFault tid fcCollective 0 g.hdr 0 0
    else s.arriveBar g tid bar r.1 r.2 64) s

/-- R209: the lanes of one issue group arrive, in quadrant lane order, at the barriers that they name. -/
def State.arriveBars (s : State) (i : Iss) : State :=
  let keys := dedup (i.on.map fun l => (l.t.tid, (s.barOf i l).1))
  keys.foldl (fun s' (tid, bar) =>
    let ls := i.on.filter fun l => l.t.tid = tid && (s.barOf i l).1 = bar
    let runs := (runsBy (fun l => (s.barOf i l).2) ls).filterMap fun r => r.head?.map fun l => ((s.barOf i l).2, r)
    s'.arriveRuns i.g tid bar runs) s

/-! ## Words at which threads wait -/

/-- A convergence point that opens its clause: what its arrival may fault with, how threads wait there, and what the instruction
does when its complete set issues it (R36, R171). -/
structure Point where
  /-- The faults of an arrival in a lane. -/
  flt : State → Iss → Lane → Option Flt := fun _ _ _ => none
  /-- The threads wait. -/
  wait : State → Iss → State
  /-- The instruction of the complete set. -/
  word : Meaning

/-- R171, Table 1.9: an issue group reaches a convergence point that opens its clause. Its threads wait at the header; the
instruction issues later, for the complete set. -/
def State.reach (s : State) (g : IssueGroup) (i : Instr) (m : Point) : State :=
  match i.view with
  | none => s
  | some (cls, op, b) =>
    let s := s.judgeWord g i.check cls op b.fm
    let is : Iss := ⟨g, cls, op, b.fm, s.members g.id, []⟩
    let s := { s.judge g is.on (fun l => m.flt s is l) with clk.cur := none }
    let on := s.alive is.on
    ((m.wait s { is with on := on }).sweepIg g.id).settleTeams on

/-- An issue group stands at a convergence point: the threads of a complete set issue it, and those of any other group wait. -/
def runPoint (i : Instr) (m : Point) (s : State) : Host.Outcome State Fault Refusal :=
  match s.clk.cur.bind s.ig? with
  | some g => .next (if g.setAt.isSome then s.issue g i m.word else s.reach g i m)
  | none => .fault .noIssueGroup

/-- R323: the latency of a collective counts from the cycle in which its set completed. -/
def IssueGroup.setLat (g : IssueGroup) (cycle lat : Nat) : Nat := max 1 ((g.setAt.getD cycle) + lat - cycle)

end Sys2Proof.Machine
end

