-- ==== Sys2Proof/Machine/Engine.lean ====
section
/-! DEFINITION. What the engines of a core share: records in the scratchpad, commands of single lanes, and global reads
and writes by an engine (R101, R115, R263, R264, R269). -/

namespace Sys2Proof.Machine

open Sys2Proof

/-! ## Commands of single lanes -/

/-- What a lane's command gives: its result words and label, a cause to park, or a fault. -/
inductive LaneOut where
  | done (ws : List Word) (lbl : Label)
  | park (why : Park)
  | fault (f : Flt)
  deriving DecidableEq, Repr

/-- R263: the commands of some lanes in ascending quadrant lane order; a fault ends its team. -/
def State.laneLoop (step : State → Lane → State × LaneOut) (s : State) (g : IssueGroup) (ls : List Lane) :
    State × List (Lane × LaneOut) :=
  ls.foldl (fun (s, out) l =>
    if (s.team? l.t.tid).isNone then (s, out)
    else
      match step s l with
      | (s', .fault f) => (s'.judge g [l] fun _ => some f, out)
      | (s', r) => (s', out ++ [(l, r)])) (s, [])

/-- The lanes that park. -/
def parked (outs : List (Lane × LaneOut)) : List (Lane × Park) :=
  outs.filterMap fun x => match x.2 with | .park why => some (x.1, why) | _ => none

/-- The results of the lanes that are done. -/
def finished (outs : List (Lane × LaneOut)) : List LaneRes :=
  outs.filterMap fun x => match x.2 with | .done ws lbl => some ⟨x.1, ws, lbl⟩ | _ => none

/-- R268: when a lane parks, every later lane of its path parks with it. -/
def withLater (ls : List Lane) (ps : List (Lane × Park)) : List (Lane × Park) :=
  ls.filterMap fun l =>
    match ps.find? fun p => p.1.pid = l.pid && p.1.q ≤ l.q with
    | some p => some (l, p.2)
    | none => none

/-- The union of the lines that some lanes of a path wait for. -/
def mergeLines (ps : List (Lane × Park)) : List (Lane × Park) :=
  ps.map fun p =>
    match p.2 with
    | .lines _ => (p.1, .lines (dedup ((ps.filter fun q => q.1.pid = p.1.pid).flatMap fun q =>
        match q.2 with | .lines ks => ks | _ => [])))
    | _ => p

/-- R268, R283, R289: the lanes that are accepted so far, in ascending lane order, those that park, and the engine that has no room
for the next. -/
structure Taking where
  taken : List (TRef × Nat) := []
  parks : List (Lane × Park) := []
  room : Option (Nat × Nat) := none
  deriving DecidableEq, Repr

/-- Is a lane of a command passed over: its team is gone, it is accepted, or an earlier one holds the word or parks its path? -/
def State.passedOver (s : State) (k : Taking) (l : Lane) : Bool :=
  k.room.isSome || (k.taken.any fun x => x.1 = l.t) || (k.parks.any fun x => x.1.pid = l.pid) || (s.team? l.t.tid).isNone

/-- The lanes that a held word has had accepted. -/
def takenBefore (g : IssueGroup) : List (TRef × Nat) := match g.hold with | some h => h.taken | none => []

/-- R268, R283, R289: accept the lanes of a command one by one, and hold the group while an engine has no room. -/
def State.takeLanes (s : State) (i : Iss) (step : State → Taking → Lane → State × Taking) : State × Option Hold :=
  let (s, k) := i.on.foldl (fun (s, k) l => if s.passedOver k l then (s, k) else step s k l) (s, { taken := takenBefore i.g })
  let h : Hold := { taken := k.taken, room := k.room }
  if k.room.isSome then (s, some h) else (s.setIg i.g.id fun g => { g with hold := some h }, none)

/-- The lanes whose command the group has had accepted, with their handles. -/
def State.takenNow (s : State) (i : Iss) : List (TRef × Nat) :=
  match s.ig? i.g.id with
  | some g => takenBefore g
  | none => []

/-- The lanes whose command is not accepted. -/
def State.untaken (s : State) (i : Iss) : List Lane := i.on.filter fun l => !(s.takenNow i).any fun x => x.1 = l.t

/-! ## Records -/

/-- R263: a lane's record address. -/
def State.recOff (s : State) (i : Iss) (l : Lane) : Nat := s.rd32 l.t i.f.lit i.f.a

/-- R263: the faults of a record of `n` bytes: alignment, then the bound of the scratchpad. -/
def State.recFlt (s : State) (i : Iss) (n : Nat) (l : Lane) : Option Flt :=
  let a := s.recOff i l
  if a % n ≠ 0 then some ⟨fcAlign, 0, a, 0⟩
  else if s.scrSize l.t.tid < a + n then some ⟨fcScratch, 0, a, 0⟩
  else none

/-- R263: the bytes of a lane's record, and the absent lines that park the lane. -/
def State.recBytes (s : State) (l : Lane) (a n : Nat) : Except Park (List Byte) :=
  if s.sabsent l.t.tid a n then .error (.lines (spanLines a n)) else .ok (s.sreads l.t.tid a n)

/-- R263: the label of a command: its operands, the record's lines and the context. -/
def State.cmdLbl (s : State) (i : Iss) (l : Lane) (a n : Nat) : Label := s.aluLbl i l ||| s.slabel l.t.tid a n

/-! ## Global accesses of engines -/

/-- What an engine's read gives. -/
inductive ERead where
  | bytes (bs : List Byte) (lbl : Label)
  | fab (station off : Nat) (lbl : Label)
  | refused
  /-- The code of the fault; `page` is set for a resolvable translation fault. -/
  | fault (code : Nat) (page : Option Tr)
  deriving DecidableEq, Repr

/-- The code that a translation gives an engine (R264). -/
def Tr.code : Tr → Nat
  | .page _ code _ _ _ => code
  | _ => fcTrans

/-- R269: an engine reads bytes of one line at their coherence point, without a lease. -/
def State.engRead (s : State) (tid core part ctx va n : Nat) : ERead :=
  match s.translate core part ctx va false with
  | .ok loc lbl =>
    match s.pinOf tid loc.line with
    | some x => .bytes ((x.bytes.drop loc.off).take n) x.lbl
    | none =>
      if !s.servable (some tid) 0 loc.line then .refused
      else
        match loc with
        | .fab st off => .fab st off lbl
        | _ =>
          if !s.owned part loc then .fault fcTrans none
          else if s.eccBad loc n then .fault fcMemory none
          else .bytes (s.getLoc loc n) lbl
  | .bad _ => .fault fcTrans none
  | t => .fault t.code (some t)

/-- What an engine's write gives. -/
inductive EWrite where
  | ok (gwct : DWord)
  | fab (station off : Nat)
  | refused
  | fault (code : Nat) (page : Option Tr)
  deriving DecidableEq, Repr

/-- R115, R269: an engine writes bytes of one line as a store, tested under R113. -/
def State.engWrite (s : State) (tid core part ctx va : Nat) (bs : List Byte) (lbl : Label) : State × EWrite :=
  match s.translate core part ctx va true with
  | .ok loc fl =>
    match s.pinOf tid loc.line with
    | some x =>
      if !Label.sub lbl fl then (s, .fault fcLabel none)
      else if s.roShard loc then (s, .fault fcPlace none)
      else (s.setL1 x.core x.part x.line fun y => y.pinWrite loc.off bs lbl, .ok s.clk.tclk)
    | none =>
      if !s.servable (some tid) 0 loc.line then (s, .refused)
      else
        match loc with
        | .fab st off => (s, .fab st off)
        | _ =>
          if !s.owned part loc then (s, .fault fcTrans none)
          else if !Label.sub lbl fl then (s, .fault fcLabel none)
          else if s.roShard loc then (s, .fault fcPlace none)
          else if s.eccPartial loc bs.length then (s, .fault fcMemory none)
          else
            let g := s.gwct loc
            (s.cohWrite loc bs, .ok g)
  | .bad _ => (s, .fault fcTrans none)
  | t => (s, .fault t.code (some t))

/-- The bytes up to the end of a 128-byte line. -/
def toLineEnd (a : Nat) : Nat := 128 - a % 128

/-- A span cut at 128-byte lines: addresses and lengths. The fuel counts pieces. -/
def pieces (a n : Nat) : Nat → List (Nat × Nat)
  | 0 => []
  | k + 1 =>
    if n = 0 then []
    else
      let m := min n (toLineEnd a)
      (a, m) :: pieces (a + m) (n - m) k

/-- What an engine's read of a span gives. -/
inductive SpanRead where
  | ok (bs : List Byte) (lbl : Label)
  /-- Pieces at other stations: address, station, offset and length. -/
  | far (rs : List (Nat × Nat × Nat × Nat))
  | refused
  | fault (code va : Nat) (page : Option Tr)
  deriving DecidableEq, Repr

/-- Two parts of a span. -/
def SpanRead.join : SpanRead → SpanRead → SpanRead
  | .ok a la, .ok b lb => .ok (a ++ b) (la ||| lb)
  | .fault c v p, _ => .fault c v p
  | _, .fault c v p => .fault c v p
  | .refused, _ => .refused
  | _, .refused => .refused
  | .far a, .far b => .far (a ++ b)
  | .far a, _ => .far a
  | _, .far b => .far b

/-- One piece of a span: answered by another station already, or read now. -/
def State.engPiece (s : State) (tid core : Nat) (t : Team) (got : List (Nat × List Byte)) (p : Nat × Nat) : SpanRead :=
  match got.find? fun y => y.1 = p.1 with
  | some y => .ok y.2 (match s.translate core t.part t.ctx p.1 false with | .ok _ fl => fl | _ => 0)
  | none =>
    match s.engRead tid core t.part t.ctx p.1 p.2 with
    | .bytes bs lbl => .ok bs lbl
    | .fab st off _ => .far [(p.1, st, off, p.2)]
    | .refused => .refused
    | .fault code page => .fault code p.1 page

/-- R269: an engine's read of a span, line by line. -/
def State.engSpan (s : State) (tid core : Nat) (t : Team) (got : List (Nat × List Byte)) (a n : Nat) : SpanRead :=
  ((pieces a n 8).map fun p => s.engPiece tid core t got p).foldl SpanRead.join (.ok [] 0)

/-- A UALink read without lease for an engine. -/
def OutReq.read (part ctx run station off len : Nat) (who : FabWho) : OutReq :=
  { OutReq.write part ctx run station off 0 [] who with kind := 0, scope := 0, nolease := true, len := len }

/-- R269: the pieces of a span that stand at other stations are asked for. -/
def State.askSpan (s : State) (t : Team) (who : Nat → FabWho) (rs : List (Nat × Nat × Nat × Nat)) : State :=
  rs.foldl (fun s r => s.sendReq (OutReq.read t.part t.ctx t.run r.2.1 r.2.2.1 r.2.2.2 (who r.1))) s

/-- The greater of two transit times. -/
def maxTime (a b : DWord) : DWord := if a.toNat < b.toNat then b else a

/-- R264: the report and the end of a team whose engine meets a fault: the engine's code, the cause, the PC of the
command and the record's scratchpad offset. An uncorrectable error is reported as such, with its unit (R385, R408). -/
def State.engFault (s : State) (tid code cause core pc va roff : Nat) : State :=
  if cause = fcMemory then
    match s.team? tid with
    | none => s
    | some t =>
      match s.translate core t.part t.ctx va false with
      | .ok loc _ => (s.rowError loc (some t.part)).takeFault tid fcMemory loc.unit core 0 0 pc 0 va roff
      | _ => s.takeFault tid fcMemory 0 core 0 0 pc 0 va roff
  else s.takeFault tid code cause core 0 0 pc 0 va roff

/-! ## Resuming a parked path behind its instruction -/

/-- The instruction of a clause at an address. -/
def State.wordsAt (s : State) (part ctx cls pc endPc : Nat) : Option (Instr × Nat) :=
  let ws := (List.range ((endPc - pc) / 4)).filterMap fun k => s.codeWord part ctx (pc + 4 * k)
  match decode cls ws with
  | .ok r => some r
  | .error _ => none

/-- The instruction at which a parked path stands. -/
def State.parkWord (s : State) (p : Path) : Option (Instr × Nat) :=
  match s.team? p.g.tid, p.mid with
  | some t, some m => s.wordsAt t.part t.ctx m.cls p.pc m.endPc
  | _, _ => none

/-- The issue of a parked path's instruction by its own lanes. -/
def State.parkIss (s : State) (p : Path) (i : Instr) : Option Iss :=
  match i.view with
  | some (cls, op, b) => some ⟨{ s.waitIg p with pc := p.pc }, cls, op, b.fm, s.pathLanes p, []⟩
  | none => none

/-- A path goes on behind the instruction that it was parked at. -/
def State.stepOver (s : State) (pid len stall : Nat) : State :=
  s.setPath pid fun p =>
    let m := p.mid.getD ⟨p.pc, 0, p.pc, false, false⟩
    let pc := p.pc + 4 * len
    let over_ := m.endPc ≤ pc
    { p with
      state := .runnable
      pc := if over_ then m.endPc else pc
      mid := if over_ then none else p.mid
      gateId := if over_ then none else p.gateId
      charged := 0
      hint := over_ && m.yld
      since := s.ageZero p.g.tid
      readyAt := s.clk.cycle + 1 + stall }

/-- Wake the parked paths that satisfy a test; each issues its instruction again. -/
def State.wakeIf (s : State) (f : Path → Bool) : State :=
  (s.sch.paths.filter f).foldl (fun s p => s.wakePath p.id) s

/-- R83: wake the paths of a team whose lines are all present. -/
def State.wakeLines (s : State) (tid : Nat) : State :=
  s.wakeIf fun p => p.g.tid = tid && (match p.state with
    | .parked (.lines ks) => ks.all fun k => (s.sline tid k).p
    | _ => false)

end Sys2Proof.Machine
end

