-- ==== Sys2Proof/Machine/Control.lean ====
section
/-! DEFINITION. NOP, RECONV, the barriers, the idempotent regions, system registers, collectives, QBLK, GIVE and CLAIM
(R32, R36, R37, R207 to R217, R234, R256 to R262, R310). -/

namespace Sys2Proof.Machine

open Sys2Proof

/-- A word whose effect ends at once lets its token fall (R180). -/
def State.doneNow (s : State) (i : Iss) : State := s.tokDown i.f.tok (i.on.map (·.t))

/-- R207. -/
def nopMeaning : Meaning where
  eff s i := s.doneNow i

/-- R213. -/
def regionMeaning : Meaning where
  eff s i :=
    let clean := fun (l : Lane) => match s.team? l.t.tid with | some t => t.clean | none => false
    (i.on.foldl (fun s l => if clean l then s.setThr l.t fun h => { h with idemOpen := true } else s) s).doneNow i

/-- R213. -/
def regendMeaning : Meaning where
  eff s i := (i.on.foldl (fun s l => s.setThr l.t fun h => { h with idemOpen := false }) s).doneNow i

/-! ## Arrivals -/

/-- R32, R208: RECONV. -/
def reconvMeaning : Meaning where
  eff s i := (s.arrive i.g i.on .waitReconv 0).settleTeams i.on

/-- R209, R210: BAR and BARP. An id of 16 or more, or a count of 0 or above 4,096, faults on arrival; a thread of a complete
generation goes on. -/
def barPoint : Point where
  flt s i l :=
    let (b, c) := s.barOf i l
    let bad := match c with | some n => n = 0 || 4096 < n | none => false
    if 16 ≤ b || bad then some ⟨fcOperand, 0, 0, 0⟩ else none
  wait s i := s.arriveBars i
  word := { eff := fun s _ => s }

/-- R36, R37, R257: a collective. A membership mask must hold the thread itself. -/
def collPoint : Point where
  flt s i l := if (s.namedSet i.f l).getLsbD l.t.lane then none else some ⟨fcCollective, 0, 0, 0⟩
  wait s i := s.arriveSets i fun l => s.namedSet i.f l
  word := { eff := fun s i => if i.op = 7 then s.doneNow i else s.runCollective i (i.g.setLat s.clk.cycle (collLat i.op i.f)) }

/-- R234: QBLK is a collective over the block of 16 lanes. -/
def qblkPoint : Point where
  wait s i := s.arriveSets i fun l => blockMask l.t.lane
  word := { eff := fun s i => s.runQblk i (i.g.setLat s.clk.cycle 12) }

/-! ## GIVE and CLAIM -/

/-- R310: the issue group of the other quadrant in which a path stands before the same GIVE or CLAIM. -/
def State.rowsIg (s : State) (i : Iss) (p : Path) : Option IssueGroup :=
  s.sch.igs.find? fun x => p.state = .inClause x.id && x.id ≠ i.g.id && x.setAt.isSome && x.hdr = i.g.hdr && x.pc = i.g.pc

/-- R310: the paths of a group for which, in its other quadrant, the same GIVE or CLAIM has still to be issued. -/
def State.rowsRest (s : State) (i : Iss) (g : GRef) : List Path :=
  s.sch.paths.filter fun p => p.g = g && ((p.opening && p.pc = i.g.hdr) || (s.rowsIg i p).isSome)

/-- R22: has the instruction of a lane acted for its group, in the other quadrant? -/
def State.rowsActed (s : State) (l : Lane) : Bool := (s.path? l.pid).any fun p => p.charged = 3

/-- R310: the rows that a lane names. -/
def State.rowsOf (s : State) (i : Iss) (l : Lane) : Nat := s.rd32 l.t i.f.lit i.f.b

/-- R310: every live thread of a lane's group, which all wait at this instruction. -/
def State.rowsLanes (s : State) (i : Iss) (g : GRef) : List Lane :=
  (i.on.filter fun l => l.g = g) ++ (s.rowsRest i g).flatMap s.pathLanes

/-- R22, R310: the faults of GIVE and CLAIM: n outside 1 to 15, values that differ in the group, a group of fewer than 8 registers or
of more than 128. -/
def State.rowsFlt (s : State) (i : Iss) (l : Lane) : Option Flt :=
  let n := s.rowsOf i l
  let rows := match s.group? l.g with | some g => g.rows | none => 0
  if s.rowsActed l then none
  else if n < 1 ∨ 15 < n then some ⟨fcOperand, 0, 0, 0⟩
  else if (s.rowsLanes i l.g).any fun q => s.rowsOf i q ≠ n then some ⟨fcCollective, 0, 0, 0⟩
  else if (if i.op = 14 then 16 < rows + n else rows < n + 1) then some ⟨fcOperand, 0, 0, 0⟩
  else none

/-- The groups of an issue in whose name GIVE or CLAIM has still to act, each with the rows that it names. -/
def State.rowsGroups (s : State) (i : Iss) : List (GRef × Nat) :=
  (dedup ((i.on.filter fun l => !s.rowsActed l).map (·.g))).filterMap fun g =>
    (i.on.find? fun l => l.g = g).map fun l => (g, s.rowsOf i l)

/-- R310: must a CLAIM of a group park: for want of rows, or behind a parked CLAIM of its team? -/
def State.claimParks (s : State) (x : GRef × Nat) : Bool :=
  !s.rowsFree x.1 x.2 || (s.pathsOf x.1.tid).any fun q => q.state = .parked .rows

/-- R22, R310: a CLAIM that cannot be served parks its group, in both quadrants of a group of 64. -/
def State.rowsStop (s : State) (i : Iss) : State × List (Lane × Park) :=
  if i.op ≠ 14 then (s, [])
  else
    let gs := ((s.rowsGroups i).filter s.claimParks).map (·.1)
    let rest := gs.flatMap fun g => s.rowsRest i g
    let igs := dedup ((rest.filterMap (s.rowsIg i)).map (·.id))
    let s' := { s with sch.paths := s.sch.paths.map fun (q : Path) =>
      if (rest.map (·.id)).contains q.id then
        { q with
          state := .parked .rows
          pc := i.g.pc
          mid := match s.rowsIg i q with | some x => some (x.mid q.id) | none => q.mid
          since := s.clk.cycle
          promoted := false }
      else q }
    (igs.foldl State.sweepIg s', (i.on.filter fun l => gs.contains l.g).map fun l => (l, .rows))

/-- R310: parked CLAIMs are served in the order in which they parked, and their groups go on behind them; the first that cannot be
served holds back every later one. The fuel counts groups. -/
def State.serveClaims (s : State) (tid : Nat) : Nat → State
  | 0 => s
  | n + 1 =>
    let ps := (s.pathsOf tid).filter fun p => p.state = .parked .rows
    match minBy? (fun p => 16384 * p.since + 4 * p.core + p.quad) ps with
    | none => s
    | some p =>
      match s.parkWord p with
      | none => s
      | some (i, len) =>
        let rows := match (s.parkIss p i).bind fun is => is.on.head?.map fun l => s.rowsOf is l with | some m => m | none => 0
        if !s.rowsFree p.g rows then s
        else
          let s := (ps.filter fun q => q.g = p.g).foldl (fun s q =>
            match s.parkIss q i with
            | some is => ((s.account is is.on).tokDown is.f.tok (is.on.map (·.t))).stepOver q.id len is.f.stall
            | none => s) (s.claimRows p.g rows)
          s.serveClaims tid n

/-- R22, R310: GIVE or CLAIM acts once for each group of the issue, and the CLAIMs that rows now serve go on. -/
def State.rowsAct (s : State) (i : Iss) : State :=
  let s' := (s.rowsGroups i).foldl (fun s' x =>
    let rest := (s.rowsRest i x.1).map (·.id)
    let s' := if i.op = 14 then s'.claimRows x.1 x.2 else s'.giveRows x.1 x.2
    { s' with sch.paths := s'.sch.paths.map fun (q : Path) => if rest.contains q.id then { q with charged := 3 } else q }) s
  let s' := (s'.markCharged i.on 0).doneNow i
  (tidsOf i.on).foldl (fun s tid => s.serveClaims tid 64) s'

/-- R310: GIVE and CLAIM act for the whole group. -/
def rowsPoint : Point where
  wait s i := s.arrive i.g i.on .waitGroup 0
  word := { flt := fun s i l => s.rowsFlt i l, stop := fun s i => s.rowsStop i, eff := fun s i => s.rowsAct i }

/-! ## System registers -/

/-- Table 7.8: is the number one of a register? -/
def srExists (n : Nat) : Bool := n < 0x0E || (0x10 ≤ n && n < 0x1D)

/-- Table 7.8: can WRSR write the register? -/
def srWritable (n : Nat) : Bool := (0x12 ≤ n && n < 0x17) || n = 0x19

/-- Table 1.7: TEAMCTL of a team. -/
def Team.teamctl (t : Team) : Nat := 2 * (t.fairx % 8) + (if t.progress then 1 else 0)

/-- R215, Tables 7.8 and 7.10: the value of a system register in a thread. -/
def State.srVal (s : State) (t : TRef) (n : Nat) : Nat :=
  let h := s.thr t
  match s.team? t.tid, s.group? t.g with
  | some tm, some g =>
    match n with
    | 0x10 => g.roleWord.toNat
    | 0x11 => 8 * g.rows
    | 0x12 => h.lpart
    | 0x13 => tm.teamctl
    | 0x14 => if tm.check then 1 else 0
    | 0x15 => h.fstat.toNat
    | 0x16 => h.seed.toNat
    | 0x17 => h.wct.toNat
    | 0x18 => s.clk.tclk.toNat
    | 0x19 => h.link.toNat
    | 0x1A => h.trapno
    | 0x1B => (if tm.clean then 2 else 0) + (if h.idemOpen then 1 else 0)
    | 0x1C => h.inlDepth
    | _ => (s.special t n).toNat
  | _, _ => 0

/-- Table 4.2, R188, R216: the label that a read of a system register takes from the register: FSTAT, SEED, LPART and TEAMCTL have
one. -/
def State.srLbl (s : State) (t : TRef) (n : Nat) : Label :=
  match n with
  | 0x12 => s.tileLbl t.g .lpart
  | 0x13 => match s.team? t.tid with | some tm => tm.teamctlLbl | none => 0
  | 0x15 => s.tileLbl t.g .fstat
  | 0x16 => s.tileLbl t.g .seed
  | _ => 0

/-- R215: the number that a lane names. -/
def State.srNum (s : State) (i : Iss) (l : Lane) : Nat := s.rd32 l.t i.f.lit i.f.b

/-- Is a destination the lower register of an even pair, or a discard? -/
def evenDst (c : Code) : Bool :=
  match Opnd.ofCode c with
  | .v n => n % 2 = 0
  | .s n => n % 2 = 0
  | _ => true

/-- What RDSR gives a lane: the words it writes and their label. -/
def State.rdsrRes (s : State) (i : Iss) (l : Lane) : LaneRes :=
  let n := s.srNum i l
  ⟨l, wordsOf (s.srVal l.t n) 2, s.opLbl l.g i.f.b 1 ||| l.ctx ||| s.srLbl l.t n⟩

/-- R215, R216: RDSR. A 64-bit register goes to an even pair. -/
def rdsrMeaning : Meaning where
  flt s i l :=
    let n := s.srNum i l
    if !srExists n then some ⟨fcOperand, 0, 0, 0⟩
    else if wideSr n && !evenDst i.f.dst then some ⟨fcOperand, 0, 0, 0⟩
    else if wideSr n && beyondRegs i.f.dst 2 (s.regs l.g) then some ⟨fcBound, 0, 0, 0⟩
    else none
  eff s i :=
    let rs := i.on.map fun l => s.rdsrRes i l
    let wide := (rs.filter fun r => wideSr (s.srNum i r.l)).map fun r => { r with ws := r.ws.drop 1 }
    let lo := dstTiles i.f.dst 1
    let hi := (dstTiles i.f.dst 2).drop 1
    { s with sch.pend := s.sch.pend ++ [{
        due := s.clk.cycle + 4
        writes := resWrites lo rs ++ resWrites hi wide
        lbls := s.resLbls lo rs ++ s.resLbls hi wide
        flags := []
        links := []
        toks := tokPairs i.f.tok i.on }] }

/-- The label that a WRSR gives the register it writes (R216). -/
def State.wrsrLbl (s : State) (i : Iss) (l : Lane) : Label := s.opLbl l.g i.f.a 1 ||| l.ctx

/-- The lanes that write one system register. -/
def State.wrsrLanes (s : State) (i : Iss) (n : Nat) : List Lane := i.on.filter fun l => s.srNum i l = n

/-- R216: of each team, the lane whose value stands in a register held per team. -/
def firstOfTeams (ls : List Lane) : List Lane :=
  (tidsOf ls).filterMap fun tid => minBy? Lane.q (ls.filter fun l => l.t.tid = tid)

/-- R41, R315: a write of TEAMCTL. -/
def Team.setTeamctl (t : Team) (x : Nat) (lbl : Label) (cycle : Nat) : Team :=
  let p := x % 2 = 1
  { t with
    progress := p
    fairx := bitsOf x 1 3
    teamctlLbl := lbl
    progressWas := some (cycle, t.progressAt cycle)
    promoteAt := if p then some (cycle + 1) else none }

/-- R41, R182: the registers held per team are written at issue. -/
def State.wrsrTeams (s : State) (i : Iss) : State :=
  let s' := (firstOfTeams (s.wrsrLanes i 0x13)).foldl (fun s' l =>
    s'.setTeam l.t.tid fun t => t.setTeamctl (s.rd32 l.t i.f.lit i.f.a) (s.wrsrLbl i l) s.clk.cycle) s
  (firstOfTeams (s.wrsrLanes i 0x14)).foldl (fun s' l =>
    s'.setTeam l.t.tid fun t =>
      { t with check := s.rd32 l.t i.f.lit i.f.a % 2 = 1, ckmodeLbl := s.wrsrLbl i l }) s'

/-- R216: the per-thread registers of one kind that a WRSR writes. -/
def State.wrsrRes (s : State) (i : Iss) (n : Nat) : List LaneRes :=
  (s.wrsrLanes i n).map fun l => ⟨l, [BitVec.ofNat 32 (s.rd32 l.t i.f.lit i.f.a)], s.wrsrLbl i l⟩

/-- R35, R215, R216: WRSR. -/
def wrsrMeaning : Meaning where
  flt s i l :=
    let n := s.srNum i l
    let x := s.rd32 l.t i.f.lit i.f.a % 8
    if !srWritable n then some ⟨fcOperand, 0, 0, 0⟩
    else if n = 0x12 && (x = 0 || 5 < x) then some ⟨fcOperand, 0, 0, 0⟩
    else none
  eff s i :=
    let kinds : List (Nat × Tile) := [(0x12, .lpart), (0x15, .fstat), (0x16, .seed)]
    let link := s.wrsrRes i 0x19
    let p : Pend := {
      due := s.clk.cycle + 4
      writes := (kinds.flatMap fun (n, k) => resWrites [k] (s.wrsrRes i n)) ++ resWrites [.link] link
      lbls := kinds.flatMap fun (n, k) => s.resLbls [k] (s.wrsrRes i n)
      flags := []
      links := link.map fun r => (r.l.t, r.lbl)
      toks := tokPairs i.f.tok i.on }
    let s' := s.wrsrTeams i
    { s' with sch.pend := s'.sch.pend ++ [p] }

/-! ## The instructions -/

/-- R207: NOP, short form. -/
def execNop (f : SForm) (s : State) : Host.Outcome State Fault Refusal := runWord (.nop f) nopMeaning s

/-- R207: NOP, long form. -/
def execNopLong (f : LForm) (s : State) : Host.Outcome State Fault Refusal := runWord (.nopLong f) nopMeaning s

/-- R32, R208: RECONV, short form. -/
def execReconv (f : SForm) (s : State) : Host.Outcome State Fault Refusal := runWord (.reconv f) reconvMeaning s

/-- R32, R208: RECONV, long form. -/
def execReconvLong (f : LForm) (s : State) : Host.Outcome State Fault Refusal :=
  runWord (.reconvLong f) reconvMeaning s

/-- R213: REGION, short form. -/
def execRegion (f : SForm) (s : State) : Host.Outcome State Fault Refusal := runWord (.region f) regionMeaning s

/-- R213: REGION, long form. -/
def execRegionLong (f : LForm) (s : State) : Host.Outcome State Fault Refusal :=
  runWord (.regionLong f) regionMeaning s

/-- R213: REGEND, short form. -/
def execRegend (f : SForm) (s : State) : Host.Outcome State Fault Refusal := runWord (.regend f) regendMeaning s

/-- R213: REGEND, long form. -/
def execRegendLong (f : LForm) (s : State) : Host.Outcome State Fault Refusal :=
  runWord (.regendLong f) regendMeaning s

/-- R209: BAR, short form. -/
def execBar (f : SForm) (s : State) : Host.Outcome State Fault Refusal := runPoint (.bar f) barPoint s

/-- R209: BAR, long form. -/
def execBarLong (f : LForm) (s : State) : Host.Outcome State Fault Refusal := runPoint (.barLong f) barPoint s

/-- R209: BARP, short form. -/
def execBarp (f : SForm) (s : State) : Host.Outcome State Fault Refusal := runPoint (.barp f) barPoint s

/-- R209: BARP, long form. -/
def execBarpLong (f : LForm) (s : State) : Host.Outcome State Fault Refusal := runPoint (.barpLong f) barPoint s

/-- R215: RDSR, short form. -/
def execRdsr (f : SForm) (s : State) : Host.Outcome State Fault Refusal := runWord (.rdsr f) rdsrMeaning s

/-- R215: RDSR, long form. -/
def execRdsrLong (f : LForm) (s : State) : Host.Outcome State Fault Refusal := runWord (.rdsrLong f) rdsrMeaning s

/-- R215: WRSR, short form. -/
def execWrsr (f : SForm) (s : State) : Host.Outcome State Fault Refusal := runWord (.wrsr f) wrsrMeaning s

/-- R215: WRSR, long form. -/
def execWrsrLong (f : LForm) (s : State) : Host.Outcome State Fault Refusal := runWord (.wrsrLong f) wrsrMeaning s

/-- R234, R235: QBLK. -/
def execQblk (f : DForm) (s : State) : Host.Outcome State Fault Refusal := runPoint (.qblk f) qblkPoint s

/-- R258: VOTE. -/
def execVote (f : LForm) (s : State) : Host.Outcome State Fault Refusal := runPoint (.vote f) collPoint s

/-- R259: SHFL. -/
def execShfl (f : LForm) (s : State) : Host.Outcome State Fault Refusal := runPoint (.shfl f) collPoint s

/-- R260: REDT. -/
def execRedt (f : LForm) (s : State) : Host.Outcome State Fault Refusal := runPoint (.redt f) collPoint s

/-- R260: SCANT. -/
def execScant (f : LForm) (s : State) : Host.Outcome State Fault Refusal := runPoint (.scant f) collPoint s

/-- R261: MATCH. -/
def execMatchI (f : LForm) (s : State) : Host.Outcome State Fault Refusal := runPoint (.matchI f) collPoint s

/-- R261: ELECT. -/
def execElect (f : LForm) (s : State) : Host.Outcome State Fault Refusal := runPoint (.elect f) collPoint s

/-- R261: ACTMASK. -/
def execActmask (f : LForm) (s : State) : Host.Outcome State Fault Refusal := runPoint (.actmask f) collPoint s

/-- R262: TBAR, short form. -/
def execTbar (f : SForm) (s : State) : Host.Outcome State Fault Refusal := runPoint (.tbar f) collPoint s

/-- R262: TBAR, long form. -/
def execTbarLong (f : LForm) (s : State) : Host.Outcome State Fault Refusal := runPoint (.tbarLong f) collPoint s

/-- R22, R310: GIVE, short form. -/
def execGive (f : SForm) (s : State) : Host.Outcome State Fault Refusal := runPoint (.give f) rowsPoint s

/-- R22, R310: GIVE, long form. -/
def execGiveLong (f : LForm) (s : State) : Host.Outcome State Fault Refusal := runPoint (.giveLong f) rowsPoint s

/-- R22, R310: CLAIM, short form. -/
def execClaim (f : SForm) (s : State) : Host.Outcome State Fault Refusal := runPoint (.claim f) rowsPoint s

/-- R22, R310: CLAIM, long form. -/
def execClaimLong (f : LForm) (s : State) : Host.Outcome State Fault Refusal := runPoint (.claimLong f) rowsPoint s

end Sys2Proof.Machine
end

