-- ==== Sys2Proof/Machine/Stream.lean ====
section
/-! DEFINITION. The Streamer and its batches, the OSB, and the plates (R81 to R85, R265 to R279, R330). -/

namespace Sys2Proof.Machine

open Sys2Proof

/-! ## OSB reservations -/

/-- R275: a reservation that a team holds. -/
def State.osb? (s : State) (tid h : Nat) : Option Osb :=
  s.e.osbs.find? fun o => o.tid = tid && o.handle = h && !o.released

def State.osbId? (s : State) (id : Nat) : Option Osb := s.e.osbs.find? fun o => o.id = id

/-- The units of a core's OSB in use: of every partition, and of one. -/
def State.osbUsed (s : State) (core : Nat) : Nat :=
  (s.e.osbs.filter fun o => o.core = core).foldl (fun n o => n + o.units) 0
def State.osbUsedBy (s : State) (core part : Nat) : Nat :=
  (s.e.osbs.filter fun o => o.core = core && o.part = part).foldl (fun n o => n + o.units) 0
/-- R274: the units that a team itself holds. -/
def State.osbTeam (s : State) (tid : Nat) : Nat :=
  (s.e.osbs.filter fun o => o.tid = tid && !o.released).foldl (fun n o => n + o.units) 0

/-- R273: twice the size of an element of A in bytes. -/
def eb2 (fmt : Nat) : Nat := if fmt = 10 then 1 else if fmt = 2 ∨ fmt = 3 then 4 else 2

/-- Table 10.3: the fields of a reservation record. -/
structure OsbRec where
  rows : Nat
  klen : Nat
  fmt : Nat
  asc : Bool
  bad : Bool
  deriving DecidableEq, Repr

/-- Table 10.3, R274: a reservation record and whether a field is refused. -/
def osbRec (bs : List Byte) : OsbRec :=
  let w0 := leNat (bs.take 4)
  let w1 := leNat ((bs.drop 4).take 4)
  let klen := bitsOf w1 0 16
  let fmt := bitsOf w0 0 5
  { rows := bitsOf w0 16 8 + 1, klen := klen, fmt := fmt, asc := bitsOf w0 5 1 = 1,
    bad := bitsOf w0 24 8 ≠ 0 || bitsOf w0 6 10 ≠ 0 || bitsOf w1 16 16 ≠ 0 || leNat (bs.drop 8) ≠ 0 ||
      fmt < 2 || 10 < fmt || klen % 64 ≠ 0 || klen < 64 || 2048 < klen }

/-- R273: the offset of the scales, and the end of a reservation's data. -/
def osbScales (rows klen fmt : Nat) : Nat := rows * (klen * eb2 fmt / 2)
def OsbRec.units (r : OsbRec) : Nat :=
  (osbScales r.rows r.klen r.fmt + (if r.asc then r.rows * (r.klen / 16) else 0) + 1023) / 1024

/-- The core whose OSB, plates and matrix unit serve a team (R79). -/
def State.homeCore (s : State) (tid core : Nat) : Nat := match s.team? tid with | some t => t.core | none => core

/-- R274: one lane's reservation. -/
def State.reserve (s : State) (i : Iss) (l : Lane) : State × LaneOut :=
  let a := s.recOff i l
  match s.recBytes l a 16, s.team? l.t.tid with
  | .error why, _ => (s, .park why)
  | _, none => (s, .fault ⟨fcOsb, 0, a, 0⟩)
  | .ok bs, some t =>
    let r := osbRec bs
    let held := s.e.osbs.filter fun o => o.tid = l.t.tid && !o.released
    if r.bad || 16 ≤ held.length || 64 < r.units + s.osbTeam l.t.tid then (s, .fault ⟨fcOsb, 0, a, 0⟩)
    else if 64 < s.osbUsed t.core + r.units || limOsb (s.corelim t.part t.core) < s.osbUsedBy t.core t.part + r.units then
      (s, .park .osb)
    else
      let h := ((List.range 16).find? fun h => !(held.map (·.handle)).contains h).getD 0
      let (id, s') := s.freshId
      let o : Osb :=
        { id := id, core := t.core, part := t.part, tid := l.t.tid, handle := h, rows := r.rows, klen := r.klen, fmt := r.fmt,
          asc := r.asc, units := r.units, bytes := [], lbl := 0, released := false }
      ({ s' with e.osbs := s'.e.osbs ++ [o] }, .done [BitVec.ofNat 32 h] (s.cmdLbl i l a 16))

/-- R274: OSBRES. -/
def osbresMeaning : Meaning where
  flt s i l := s.recFlt i 16 l
  stop s i := (s, mergeLines (parked (s.laneLoop (fun s l => s.reserve i l) i.g i.on).2))
  eff s i :=
    let (s', outs) := s.laneLoop (fun s l => s.reserve i l) i.g i.on
    s'.putRes i (16 + s.pairLat i) (finished outs)

/-- R274: give free units to one lane that is parked at OSBRES, in the order in which the lanes parked. A lane for which the wait for
units is over otherwise (its record faults by now, or its record's line is absent) issues its instruction again. -/
def State.serveOsbPath (s : State) (p : Path) : Option State :=
  match s.parkWord p with
  | some (i, len) =>
    match s.parkIss p i with
    | some is =>
      match is.on with
      | l :: _ =>
        match s.reserve is l with
        | (s', .done ws lbl) =>
          let (n, s') := s'.splitPath p.id (maskOf [l.t.lane])
          let is' := { is with on := [l] }
          let s' := s'.account is' [l]
          some ((s'.putRes is' (16 + s'.pairLat is') [⟨l, ws, lbl⟩]).stepOver n len is.f.stall)
        | (_, .park .osb) => none
        | _ => some (s.wakePath p.id)
      | [] => none
    | none => none
  | none => none

/-- R274: serve parked OSBRES lanes of a core while the first of them fits. -/
def State.serveOsb (s : State) (core : Nat) : Nat → State
  | 0 => s
  | n + 1 =>
    match minBy? (·.since) (s.sch.paths.filter fun p => p.state = .parked .osb && s.homeCore p.g.tid p.core = core) with
    | some p =>
      match s.serveOsbPath p with
      | some s' => s'.serveOsb core n
      | none => s
    | none => s

/-- R275: units whose reservation is gone return to the pool and reach the lanes that wait. -/
def State.osbFree (s : State) (core : Nat) : State := s.osbSweep.serveOsb core 1024

/-- R275: OSBREL in one lane. -/
def State.unreserve (s : State) (i : Iss) (l : Lane) : State × LaneOut :=
  let h := s.rd32 l.t i.f.lit i.f.a
  match s.osb? l.t.tid h with
  | some o => ({ s with e.osbs := s.e.osbs.map fun x => if x.id = o.id then { x with released := true } else x }, .done [] 0)
  | none => (s, .fault ⟨fcOsb, 0, 0, 0⟩)

/-- R275: OSBREL. -/
def osbrelMeaning : Meaning where
  eff s i :=
    let (s', _) := s.laneLoop (fun s l => s.unreserve i l) i.g i.on
    (dedup (i.on.map fun l => s.homeCore l.t.tid i.g.core)).foldl (fun s c => s.osbFree c)
      (s'.tokDown i.f.tok ((s'.alive i.on).map (·.t)))

/-! ## Batches -/

def Batch.finished (b : Batch) : Bool := b.sealed && b.open_ = 0

/-- R271: a thread's unfinished batches. -/
def State.unfinished (s : State) (t : TRef) : Nat := (s.e.batches.filter fun b => b.t = t && !b.finished).length

/-- R271: the thread's current batch, if it holds a copy. -/
def State.curBatch (s : State) (t : TRef) : Option Batch := s.e.batches.find? fun b => b.t = t && b.n = (s.thr t).batch

/-- R272: SEAL in one thread. -/
def State.sealBatch (s : State) (t : TRef) : State :=
  match s.curBatch t with
  | some b =>
    let s := { s with e.batches := s.e.batches.map fun (x : Batch) => if x.t = t && x.n = b.n then { x with sealed := true } else x }
    s.setThr t fun h => { h with batch := h.batch + 1 }
  | none => s

/-- R272: SEAL. -/
def sealMeaning : Meaning where
  eff s i := (i.on.foldl (fun s l => s.sealBatch l.t) s).tokDown i.f.tok (i.on.map (·.t))

/-- R90, R272: the GWCTs of a thread's finished batches join its WCT. -/
def State.mergeBatches (s : State) (t : TRef) : State :=
  let mine := s.e.batches.filter fun b => b.t = t && b.finished
  let s := mine.foldl (fun s b => s.joinWct t b.gwct) s
  { s with e.batches := s.e.batches.filter fun b => !(b.t = t && b.finished) }

/-- R272: WAITB. -/
def waitbMeaning : Meaning where
  flt s i l := if 7 < s.rd32 l.t i.f.lit i.f.b then some ⟨fcOperand, 0, 0, 0⟩ else none
  hold s i :=
    let s' := i.on.foldl (fun s l => s.sealBatch l.t) s
    let want := i.on.map fun l => (l.t, s.rd32 l.t i.f.lit i.f.b)
    if want.all fun x => s'.unfinished x.1 ≤ x.2 then (s', none) else (s', some { batch := want })
  eff s i := (i.on.foldl (fun s l => s.mergeBatches l.t) s).tokDown i.f.tok (i.on.map (·.t))

/-! ## Copy requests -/

/-- Table 10.2: a copy request record. -/
def copyRec (bs : List Byte) : CopyRec :=
  let w := fun k => leNat ((bs.drop k).take 4)
  let c := w 0x1C
  { src := BitVec.ofNat 64 (leNat (bs.take 8)), dst := BitVec.ofNat 64 (leNat ((bs.drop 8).take 8)),
    rows := bitsOf (w 0x10) 16 16 + 1, len := bitsOf (w 0x10) 0 16 + 1, spitch := w 0x14, dpitch := w 0x18,
    mask := bitsOf c 16 16, rel := bitsOf c 8 8, rsvd := bitsOf c 4 4, dkind := bitsOf c 2 2, skind := bitsOf c 0 2 }

/-- The last byte of a span of rows. -/
def spanEnd (base rows len pitch : Nat) : Nat := base + (rows - 1) * pitch + len - 1

/-- The base of a copy's destination: an address, or an offset in scratchpad or OSB. -/
def CopyRec.dbase (r : CopyRec) : Nat := if r.dkind = 2 then bitsOf r.dst.toNat 0 16 else r.dst.toNat
def CopyRec.handle (r : CopyRec) : Nat := bitsOf r.dst.toNat 32 4

/-- R267: is a record refused? -/
def State.copyBad (s : State) (tid : Nat) (r : CopyRec) (multi : Bool) : Bool :=
  let se := spanEnd r.src.toNat r.rows r.len r.spitch
  let de := spanEnd r.dbase r.rows r.len r.dpitch
  r.rsvd ≠ 0 || 2 ≤ r.skind || r.dkind = 3 ||
  (if multi then r.mask = 0 || r.dkind ≠ 1 else r.mask ≠ 0 || r.rel ≠ 0) ||
  (if r.skind = 1 then 2 ^ 24 ≤ r.src.toNat || s.scrSize tid ≤ se else 2 ^ 57 ≤ se) ||
  (match r.dkind with
    | 0 => decide (2 ^ 57 ≤ de)
    | 1 => decide (2 ^ 24 ≤ r.dst.toNat) || decide (s.scrSize tid ≤ de)
    | _ => bitsOf r.dst.toNat 16 16 ≠ 0 || bitsOf r.dst.toNat 36 28 ≠ 0 ||
      (match s.osb? tid r.handle with
        | some o => decide (1024 * o.units ≤ de)
        | none => true))

/-- R270: the receiving teams of a COPYM. -/
def State.copymDests (s : State) (tid core : Nat) (r : CopyRec) : List Nat :=
  match s.team? tid with
  | none => []
  | some t =>
    let rel := (BitVec.ofNat 8 r.rel).toInt
    let want := ((List.range 16).filter fun j => r.mask.testBit j).map fun (j : Nat) =>
      (((t.team.toNat : Int) + rel + j) % 2 ^ 32).toNat
    (s.sch.teams.filter fun kv => kv.2.run = t.run && want.contains kv.2.team.toNat && kv.2.status ≠ .relaunch &&
      clusterOf kv.2.core = clusterOf core).map (·.1)

/-- Does a span of rows touch a 128-byte line from row `r0`, byte `c0` on? -/
def touches (base rows len pitch r0 c0 line : Nat) : Bool :=
  (List.range (rows - r0)).any fun k =>
    let lo := base + (r0 + k) * pitch + (if k = 0 then c0 else 0)
    let hi := base + (r0 + k) * pitch + len
    lo < hi && lo / 128 ≤ line && line ≤ (hi - 1) / 128

/-- The lines of a scratchpad destination. -/
def CopyRec.lines (r : CopyRec) : List Nat :=
  if r.dkind = 1 then
    dedup ((List.range r.rows).flatMap fun k => spanLines (r.dbase + k * r.dpitch) r.len)
  else []

/-- R81, R82: the target lines of an accepted copy become pending. -/
def State.pendLines (s : State) (tid : Nat) (ls : List Nat) : State :=
  ls.foldl (fun s k => s.setSline tid k fun x => { x with c := x.c + 1, p := false }) s

/-- R271: a copy joins its thread's current batch. -/
def State.joinBatch (s : State) (t : TRef) : State :=
  let n := (s.thr t).batch
  match s.curBatch t with
  | some _ =>
    { s with e.batches := s.e.batches.map fun (b : Batch) => if b.t = t && b.n = n then { b with open_ := b.open_ + 1 } else b }
  | none => { s with e.batches := s.e.batches ++ [⟨t, n, false, 1, 0⟩] }

/-- R268: does the record's source overlap its destination, if both lie in one space? -/
def CopyRec.overlap (r : CopyRec) : Bool :=
  r.skind = r.dkind && (List.range r.rows).any fun k => (List.range r.rows).any fun j =>
    let a := r.src.toNat + k * r.spitch
    let b := r.dbase + j * r.dpitch
    a < b + r.len && b < a + r.len

/-- The copies of a core that are accepted and not complete (R265), and whether its Streamer holds fewer than 64. -/
def State.copiesOn (s : State) (core : Nat) : Nat := (s.e.copies.filter fun c => c.core = core).length
def State.coRoom (s : State) (core : Nat) : Bool := s.copiesOn core < 64

/-- What becomes of one lane's COPY or COPYM. -/
inductive CopyTry where
  | fault (f : Flt)
  | park (why : Park)
  /-- The core's Streamer has no room. -/
  | full (core : Nat)
  | ok (core : Nat) (dests : List Nat) (r : CopyRec)
  deriving DecidableEq, Repr

/-- R263, R267, R268, R271: the checks of one lane's COPY or COPYM, in their order. -/
def State.copyTry (s : State) (i : Iss) (multi : Bool) (l : Lane) : CopyTry :=
  let a := s.recOff i l
  match s.recBytes l a 32 with
  | .error why => .park why
  | .ok bs =>
    let r := copyRec bs
    if s.copyBad l.t.tid r multi then .fault ⟨fcCopyRec, 0, 0, a⟩
    else
      let dests := if multi then s.copymDests l.t.tid i.g.core r else if r.dkind = 1 then [l.t.tid] else []
      let core := if r.dkind = 2 then s.homeCore l.t.tid i.g.core else i.g.core
      if 8 ≤ s.unfinished l.t && (s.curBatch l.t).isNone then .park .copyRoom
      else if dests.any fun tid => r.lines.any fun k => 7 ≤ (s.sline tid k).c then .park .copyRoom
      else if !s.coRoom core then .full core
      else .ok core dests r

/-- R268: a lane's copy is accepted. -/
def State.acceptCopy (s : State) (i : Iss) (multi : Bool) (l : Lane) (core : Nat) (dests : List Nat) (r : CopyRec) : State :=
  let a := s.recOff i l
  let n := (s.thr l.t).batch
  let s' := (dests.foldl (fun s tid => s.pendLines tid r.lines) s).joinBatch l.t
  let (id, s') := s'.freshId
  let c : Copy :=
    { id := id, core := core, t := l.t, batch := n, pc := i.g.pc, roff := a, cr := r, multi := multi, dests := dests,
      res := if r.dkind = 2 then (s.osb? l.t.tid r.handle).map (·.id) else none, lbl := s.cmdLbl i l a 32, row := 0,
      col := 0, gwct := 0, due := s.clk.cycle + 24, overlap := r.overlap, wait := 0, refused := none, backoff := 0,
      retryAt := 0 }
  { s' with e.copies := s'.e.copies ++ [c] }

/-- R268: one lane of COPY or COPYM. -/
def State.copyLane (s : State) (i : Iss) (multi : Bool) (k : Taking) (l : Lane) : State × Taking :=
  match s.copyTry i multi l with
  | .fault f => (s.judge i.g [l] fun _ => some f, k)
  | .park why => (s, { k with parks := k.parks ++ [(l, why)] })
  | .full core => (s, { k with room := some (2, core) })
  | .ok core dests r => (s.acceptCopy i multi l core dests r, { k with taken := k.taken ++ [(l.t, 0)] })

/-- R268: the lanes that park, and every later lane of their paths with them. -/
def State.copyParks (s : State) (i : Iss) (multi : Bool) : List (Lane × Park) :=
  let rest := s.untaken i
  withLater rest (mergeLines (rest.filterMap fun l => match s.copyTry i multi l with | .park why => some (l, why) | _ => none))

/-- R265: only threads of the producer group copy. -/
def State.rightsFlt (s : State) (l : Lane) : Option Flt :=
  match s.group? l.g with
  | some g => if g.producer then none else some ⟨fcRights, 0, 0, 0⟩
  | none => some ⟨fcRights, 0, 0, 0⟩

/-- R266 to R270: COPY and COPYM. -/
def copyMeaning (multi : Bool) : Meaning where
  flt s i l := (s.rightsFlt l).or (s.recFlt i 32 l)
  closes s i l :=
    multi || (s.sabsent l.t.tid (s.recOff i l) 32 = false &&
      (copyRec (s.sreads l.t.tid (s.recOff i l) 32)).dkind = 0)
  hold s i := s.takeLanes i fun s k l => s.copyLane i multi k l
  stop s i := (s, s.copyParks i multi)
  eff s i := s.tokDown i.f.tok (i.on.map (·.t))

/-- R82, R271: would a path parked at a copy be accepted now, or hold its issue group, or fault? -/
def State.copyReady (s : State) (p : Path) : Bool :=
  match s.parkWord p with
  | some (i, _) =>
    match s.parkIss p i with
    | some is =>
      match is.on with
      | l :: _ => match s.copyTry is (is.op = 1) l with | .park .copyRoom => false | _ => true
      | [] => true
    | none => true
  | none => true

/-- Wake the copies of parked paths that would be accepted now. -/
def State.wakeCopies (s : State) : State :=
  s.wakeIf fun p => p.state = .parked .copyRoom && s.copyReady p

/-! ## Moving bytes -/

/-- R115: the label of one copy: its operands, record and context, and every source frame or line that it reads. -/
def State.copyLbl (s : State) (c : Copy) : Label :=
  (List.range c.cr.rows).foldl (fun l k =>
    let a := c.cr.src.toNat + k * c.cr.spitch
    if c.cr.skind = 1 then l ||| s.slabel c.t.tid a c.cr.len
    else
      match s.team? c.t.tid with
      | some t =>
        (List.range ((a + c.cr.len - 1) / 65536 + 1 - a / 65536)).foldl (fun l j =>
          match s.translate c.core t.part t.ctx (max a ((a / 65536 + j) * 65536)) false with
          | .ok _ fl => l ||| fl
          | _ => l) l
      | none => l) c.lbl

/-- R84, R269: the next piece of a copy: source, destination and length. It lies in one line of the destination, so that it is a
store of one granule, or covers words of the scratchpad or the OSB whole, but for those at the ends of a row. -/
def Copy.piece (c : Copy) : Nat × Nat × Nat :=
  let a := c.cr.src.toNat + c.row * c.cr.spitch + c.col
  let d := c.cr.dbase + c.row * c.cr.dpitch + c.col
  (a, d, min (c.cr.len - c.col) (toLineEnd d))

/-- Cycles of 64 bytes. -/
def cycles64 (n : Nat) : Nat := (n + 63) / 64

/-- A copy stands behind a piece. -/
def Copy.next (c : Copy) (n : Nat) : Copy :=
  let done := c.cr.len ≤ c.col + n
  { c with
    row := if done then c.row + 1 else c.row
    col := if done then 0 else c.col + n
    turn := if done then none else c.turn
    refused := none
    backoff := 0
    got := [] }

def State.copy? (s : State) (id : Nat) : Option Copy := s.e.copies.find? fun c => c.id = id
def State.setCopy (s : State) (id : Nat) (f : Copy → Copy) : State :=
  { s with e.copies := s.e.copies.map fun c => if c.id = id then f c else c }

/-- R264: a copy ends its team. -/
def State.copyFault (s : State) (c : Copy) (code va : Nat) : State :=
  s.engFault c.t.tid fcCopy code c.core c.pc va c.roff

/-- R330: a copy gives its turn at the port back; the port is free from a cycle on. -/
def State.portBack (s : State) (c : Copy) (free : Nat) : State :=
  { s.setCopy c.id fun c => { c with turn := none } with e.ports := mset s.e.ports c.core (free, c.id) }

/-- R100: a refused piece is retried, and the copy ends its team 1 ms after the first refusal. -/
def State.copyRefused (s : State) (c : Copy) (va : Nat) : State :=
  let first := c.refused.getD s.clk.tclk
  if overdue first s.clk.tclk then s.copyFault c fcPinned va
  else
    let n := if c.refused.isSome then min 1024 (2 * c.backoff) else 32
    (s.portBack c (s.clk.cycle + 1)).setCopy c.id fun c =>
      { c with refused := some first, backoff := n, retryAt := tryAt first s.clk.tclk n }

/-- R268: the bytes of a destination that the source overlaps are undefined. -/
def State.undefinedBytes (s : State) (c : Copy) (d : Nat) (bs : List Byte) : State × List Byte :=
  if !c.overlap then (s, bs)
  else
    (bs.zipIdx).foldl (fun (s, out) (b, k) =>
      let x := d + k
      let hit := (List.range c.cr.rows).any fun r =>
        let a := c.cr.src.toNat + r * c.cr.spitch
        a ≤ x && x < a + c.cr.len
      if hit then
        let (w, s) := s.freeWord
        (s, out ++ [w.extractLsb' 0 8])
      else (s, out ++ [b])) (s, [])

/-- R81, R84: a piece lands in the scratchpads; a line on which no byte of the copy is left to come loses its count. The copy's source
shares a space with its destination only in the issuing team's own scratchpad. -/
def State.copyScratch (s : State) (c : Copy) (d : Nat) (bs : List Byte) (lbl : Label) : State :=
  let c' := c.next bs.length
  let past := (spanLines d bs.length).filter fun k => !touches c.cr.dbase c.cr.rows c.cr.len c.cr.dpitch c'.row c'.col k
  c.dests.foldl (fun s tid =>
    let (s, bs) := if tid = c.t.tid then s.undefinedBytes c d bs else (s, bs)
    let s := (s.swrites tid d bs).sjoin tid d bs.length lbl
    let s := past.foldl (fun s k => s.setSline tid k fun x =>
      { x with c := x.c - 1, p := if x.c ≤ 1 then true else x.p }) s
    s.wakeLines tid) s

/-- R102: OSB bytes or Vat elements written inside the windows of matrix issues, of each those that it gives. -/
def State.dirtyMx (s : State) (codes : Mx → List Nat) : State :=
  { s with e.mxs := s.e.mxs.map fun x => if x.closed then x else { x with dirty := x.dirty ++ codes x } }

/-- Write bytes into a reservation. -/
def Osb.put (o : Osb) (off : Nat) (bs : List Byte) (lbl : Label) : Osb :=
  { o with bytes := (bs.zipIdx).foldl (fun m (b, k) => mset m (off + k) b) o.bytes, lbl := o.lbl ||| lbl }

/-- R285: what stood in some bytes of a reservation is kept until an MXFENCE orders the write. -/
def Osb.keepOld (o : Osb) (off n id : Nat) : Osb :=
  { o with olds := (List.range n).foldl (fun m k =>
      mset m (off + k) (((mget? m (off + k)).map (·.1)).getD (mget 0 o.bytes (off + k)), id)) o.olds }

/-- R102, R273: does a byte of a reservation lie in the range that an issue names? -/
def Osb.named (o : Osb) (x : Mx) (off : Nat) : Bool :=
  let np := ((List.range 32).filter fun k => x.pmask.testBit k).length
  let sc := osbScales o.rows o.klen o.fmt
  let rowIn := fun (r : Nat) => x.arow ≤ r && r ≤ x.arow + x.rows
  if off < sc then
    let rb := o.klen * eb2 o.fmt / 2
    let half := 2 * (off % rb)
    rowIn (off / rb) && x.ak0 * eb2 o.fmt ≤ half && half < (x.ak0 + 64 * np) * eb2 o.fmt
  else
    let b := (off - sc) % (o.klen / 16)
    o.asc && rowIn ((off - sc) / (o.klen / 16)) && x.ak0 / 16 ≤ b && b < x.ak0 / 16 + 4 * np

/-- R84, R275: a piece lands in an OSB reservation; after its release the bytes are discarded. -/
def State.copyOsb (s : State) (c : Copy) (d : Nat) (bs : List Byte) (lbl : Label) : State :=
  match s.e.osbs.find? fun o => c.res = some o.id && !o.released with
  | some o =>
    let s := { s with e.osbs := s.e.osbs.map fun (y : Osb) => if y.id = o.id then (y.keepOld d bs.length c.id).put d bs lbl else y }
    s.dirtyMx fun x => if x.res = o.id then ((List.range bs.length).filter fun k => o.named x (d + k)).map fun k => 2 * (d + k) else []
  | none => s

/-- A copy stands behind the piece that it has written; at the end of a row it gives the port back (R330). -/
def State.copyPast (s : State) (c : Copy) (n : Nat) : State :=
  let s := if c.cr.len ≤ c.col + n then s.portBack c (max s.clk.cycle (c.turn.getD s.clk.cycle + cycles64 c.cr.len)) else s
  s.setCopy c.id fun c => c.next n

/-- R268, R269: the bytes of a piece are written. -/
def State.copyWrite (s : State) (c : Copy) (bs : List Byte) : State :=
  let (_, d, n) := c.piece
  let lbl := s.copyLbl c
  match c.cr.dkind, s.team? c.t.tid with
  | 0, some t =>
    let (s, bs) := s.undefinedBytes c d bs
    match s.engWrite c.t.tid c.core t.part t.ctx d bs lbl with
    | (s, .ok g) => (s.copyPast c n).setCopy c.id fun c => { c with gwct := maxTime c.gwct g }
    | (s, .fab st off) =>
      let s := s.sendReq (OutReq.write t.part t.ctx t.run st off lbl bs (.copy c.id 0))
      (s.copyPast c n).setCopy c.id fun c => { c with wait := c.wait + 1 }
    | (s, .refused) => s.copyRefused c d
    | (s, .fault code _) => s.copyFault c code d
  | 1, _ => (s.copyScratch c d bs lbl).copyPast c n
  | _, _ => (s.copyOsb c d bs lbl).copyPast c n

/-- R271: a copy is complete. -/
def State.copyDone (s : State) (c : Copy) : State :=
  let f := fun (b : Batch) =>
    if b.t = c.t && b.n = c.batch then { b with open_ := b.open_ - 1, gwct := maxTime b.gwct c.gwct } else b
  let s := { s with e.copies := s.e.copies.filter fun x => x.id ≠ c.id, e.batches := s.e.batches.map f }
  (s.osbFree c.core).wakeCopies

/-- R269: a read of a copy from another station is under way. -/
def State.copyReading (s : State) (id : Nat) : Bool :=
  s.y.reqs.any fun q => q.kind = 0 && (match q.who with | .copy c _ => c = id | _ => false)

/-- R268, R269, R330: one piece of a copy performs. -/
def State.copyMove (s : State) (c : Copy) : State :=
  let (a, _, n) := c.piece
  if c.cr.skind = 1 then s.copyWrite c (s.sreads c.t.tid a n)
  else
    match s.team? c.t.tid with
    | none => s
    | some t =>
      match s.engSpan c.t.tid c.core t c.got a n with
      | .ok bs _ => s.copyWrite c bs
      | .far rs => (s.portBack c (s.clk.cycle + 1)).askSpan t (.copy c.id) rs
      | .refused => s.copyRefused c a
      | .fault code va _ => s.copyFault c code va

/-- R330: can a copy move bytes when the port turns to it? -/
def State.copyGoes (s : State) (c : Copy) : Bool :=
  c.row < c.cr.rows && c.due ≤ s.clk.cycle && !DWord.past c.retryAt s.clk.tclk && !s.copyReading c.id

/-- R330: the copies of a core that the port works on, the four accepted earliest, as far as they can move. -/
def State.portCopies (s : State) (core : Nat) : List Copy :=
  ((s.e.copies.filter fun x => x.core = core).take 4).filter s.copyGoes

/-- R330: the copy whose row the port of a core moves next: in turn, the next accepted behind the one that had the last row. -/
def State.portNext (s : State) (core : Nat) : Option Copy :=
  let xs := s.portCopies core
  let (free, last) := mget (0, 0) s.e.ports core
  if s.clk.cycle < free || xs.any fun x => x.turn.isSome then none
  else (xs.find? fun x => last < x.id).orElse fun _ => xs.head?

/-- R269, R330: does a copy do something now: it is complete, its piece has passed the port, or its row begins? -/
def State.copyDue (s : State) (c : Copy) : Bool :=
  if c.cr.rows ≤ c.row then c.wait = 0
  else if c.refused.any fun f => overdue f s.clk.tclk then true
  else
    match c.turn with
    | some t0 => t0 + (c.col + c.piece.2.2 - 1) / 64 ≤ s.clk.cycle
    | none => s.portNext c.core = some c

/-- R268, R269, R330: what a copy does next. -/
def State.copyStep (s : State) (c : Copy) : State :=
  if c.cr.rows ≤ c.row then (if c.wait = 0 then s.copyDone c else s)
  else if c.refused.any fun f => overdue f s.clk.tclk then s.copyFault c fcPinned c.piece.1
  else
    match c.turn with
    | some _ => s.copyMove c
    | none => s.setCopy c.id fun c => { c with turn := some (s.clk.cycle - c.col / 64) }

/-- R84, R268: STREAMER_WRITE_PERFORM: a piece of a copy of at most one 128-byte granule performs. -/
def execStreamerWritePerform (copy : Nat) (s : State) : Host.Outcome State Fault Refusal :=
  match s.copy? copy with
  | some c => .next (s.copyStep c)
  | none => .next s

/-! ## Plates -/

def State.plate (s : State) (tid k : Nat) : Plate := mget ⟨0, 0, false, [], [], 0, none, 0, 0, false⟩ s.e.plates (tid, k)
def State.setPlate (s : State) (tid k : Nat) (f : Plate → Plate) : State :=
  { s with e.plates := mset s.e.plates (tid, k) (f (s.plate tid k)) }

/-- R276: PLN of a team. -/
def State.pln (s : State) (tid : Nat) : Nat := match (s.team? tid).bind s.stageOf with | some st => st.pln | none => 0

/-- Table 10.4: the fields of a plate descriptor. -/
def pdPlate (d : Nat) : Nat := bitsOf d 0 5
def pdFmt (d : Nat) : Nat := bitsOf d 5 5
def pdScales (d : Nat) : Bool := bitsOf d 11 1 = 1
def pdPitch (d : Nat) : Nat := 16 * bitsOf d 12 20

/-- R276: the bytes of a K-row of a plate. -/
def plateRow (fmt : Nat) : Nat := 32 * eb2 fmt

/-- R276: the pieces of a plate's source: its rows, then its scales. -/
def platePieces (g d : Nat) : List (Nat × Nat) :=
  ((List.range 64).flatMap fun k => pieces (g + pdPitch d * k) (plateRow (pdFmt d)) 8) ++
    (if pdScales d then pieces (g + 64 * pdPitch d) 256 8 else [])

/-- R277: the plate faults of a lane's PLLOAD. -/
def State.plateFlt (s : State) (i : Iss) (l : Lane) : Option Flt :=
  let g := s.intVal l.t i.f.lit i.f.a 2 0 true
  let d := s.rd32 l.t i.f.lit i.f.b
  let last := (platePieces g d).foldl (fun m p => max m (p.1 + p.2)) 0
  if s.pln l.t.tid ≤ pdPlate d || bitsOf d 10 1 = 1 || pdFmt d < 4 || 10 < pdFmt d || pdPitch d < plateRow (pdFmt d) ||
      g % 16 ≠ 0 || 2 ^ 57 < last then some ⟨fcPlate, 0, g % 2 ^ 64, 0⟩
  else none

/-- R277: one lane's PLLOAD. -/
def State.loadPlate (s : State) (i : Iss) (l : Lane) : State :=
  let g := s.intVal l.t i.f.lit i.f.a 2 0 true
  let d := s.rd32 l.t i.f.lit i.f.b
  let (id, s') := s.freshId
  let lbl := s.aluLbl i l
  let x : PlateLoad :=
    { id := id, core := s.homeCore l.t.tid i.g.core, tid := l.t.tid, t := some l.t, tok := i.f.tok, plate := pdPlate d,
      src := BitVec.ofNat 64 g, desc := BitVec.ofNat 32 d, lbl := lbl, pc := i.g.pc, due := none, got := [], refused := none,
      backoff := 0, retryAt := 0 }
  let s' := s'.setPlate l.t.tid (pdPlate d) fun p =>
    { p with src := BitVec.ofNat 64 g, desc := BitVec.ofNat 32 d, loaded := true, load := some id, opLbl := lbl, drop := false }
  { s' with e.loads := s'.e.loads ++ [x] }

/-- R277: PLLOAD. Its token falls when the plate is loaded. -/
def plloadMeaning : Meaning where
  flt s i l := s.plateFlt i l
  eff s i := i.on.foldl (fun s l => s.loadPlate i l) s

/-- R278, R284: does an accepted issue of a team that names a plate wait to complete, accepted before `id`? -/
def State.plateBusy (s : State) (tid k id : Nat) : Bool :=
  s.e.mxs.any fun x => x.tid = tid && !x.done && x.id < id && x.pmask.testBit k

/-- R278: the plates of a team that a PLFREE has named and that no incomplete issue names are unloaded. -/
def State.sweepPlates (s : State) (tid : Nat) : State :=
  ((List.range 32).filter fun k => (mget? s.e.plates (tid, k)).any fun p => p.drop).foldl (fun s k =>
    if s.e.mxs.any fun x => x.tid = tid && !x.done && x.pmask.testBit k then s
    else s.setPlate tid k fun p => { p with loaded := false, drop := false }) s

/-- R278: PLFREE in one lane. A plate that an issue names stays loaded until that issue is complete. -/
def State.freePlates (s : State) (tid mask : Nat) : State :=
  (((List.range 32).filter fun k => mask.testBit k).foldl (fun s k =>
    if (mget? s.e.plates (tid, k)).any fun p => p.loaded then s.setPlate tid k fun p => { p with drop := true } else s) s).sweepPlates tid

/-- R278: PLFREE. -/
def plfreeMeaning : Meaning where
  flt s i l :=
    let m := s.rd32 l.t i.f.lit i.f.b
    if m / 2 ^ s.pln l.t.tid ≠ 0 then some ⟨fcPlate, 0, 0, 0⟩ else none
  eff s i := (i.on.foldl (fun s l => s.freePlates l.t.tid (s.rd32 l.t i.f.lit i.f.b)) s).tokDown i.f.tok (i.on.map (·.t))

/-- R329: the load of a plate can be read now: every issue accepted before it that names the plate is complete, and every
earlier load of the plate. -/
def State.loadReady (s : State) (x : PlateLoad) : Bool :=
  !s.plateBusy x.tid x.plate x.id && !s.e.loads.any fun y => y.tid = x.tid && y.plate = x.plate && y.id < x.id

/-- R264: a plate load ends its team. -/
def State.plateLoadFault (s : State) (x : PlateLoad) (code va : Nat) : State :=
  s.engFault x.tid fcCopy code x.core x.pc va 0

def State.setLoad (s : State) (id : Nat) (f : PlateLoad → PlateLoad) : State :=
  { s with e.loads := s.e.loads.map fun x => if x.id = id then f x else x }

/-- What the read of one piece of a plate gives: its bytes, or why there are none yet. -/
def State.platePiece (s : State) (x : PlateLoad) (t : Team) (k : Nat) (p : Nat × Nat) : ERead :=
  match x.got.find? fun y => y.1 = k with
  | some y => .bytes y.2 (match s.translate x.core t.part t.ctx p.1 false with | .ok _ fl => fl | _ => 0)
  | none => s.engRead x.tid x.core t.part t.ctx p.1 p.2

/-- R277: a plate is loaded. -/
def State.plateLoaded (s : State) (x : PlateLoad) (bs : List Byte) (lbl : Label) : State :=
  let n := 64 * plateRow (pdFmt x.desc.toNat)
  let s := s.setPlate x.tid x.plate fun p =>
    { p with
      bytes := bs.take n
      scales := bs.drop n
      lbl := x.lbl ||| lbl
      form := x.desc
      load := if p.load = some x.id then none else p.load }
  let s := { s with e.loads := s.e.loads.filter fun y => y.id ≠ x.id }
  match x.t with
  | some t => s.tokDown x.tok [t]
  | none => s

/-- R329: a plate's load proceeds: the latency of its first line (Table 17.3), then 64 bytes in each cycle. -/
def State.plateBegin (s : State) (x : PlateLoad) (t : Team) : State :=
  let (lat, s) := ((platePieces x.src.toNat x.desc.toNat).zipIdx).foldl (fun (lat, s) (p, k) =>
    match s.translate x.core t.part t.ctx p.1 false with
    | .ok loc _ =>
      let h := s.halfOf x.core loc
      let (c, s) := s.l2Fetch x.core loc
      (if k = 0 then max h (c - s.clk.cycle) + h else lat, s)
    | _ => (lat, s)) (0, s)
  let d := s.clk.cycle + lat + plateRow (pdFmt x.desc.toNat) + (if pdScales x.desc.toNat then 4 else 0)
  s.setLoad x.id fun x => { x with due := some d }

/-- R100: a refused piece of a plate is retried. -/
def State.plateRefused (s : State) (x : PlateLoad) : State :=
  let first := x.refused.getD s.clk.tclk
  let n := if x.refused.isSome then min 1024 (2 * x.backoff) else 32
  s.setLoad x.id fun x => { x with refused := some first, backoff := n, retryAt := tryAt first s.clk.tclk n }

/-- R269, R277: read a plate's tile; pieces at other stations are asked for, and a refused piece is retried. -/
def State.plateRead (s : State) (x : PlateLoad) (t : Team) : State :=
  let rs := ((platePieces x.src.toNat x.desc.toNat).zipIdx).map fun (p, k) => (k, p, s.platePiece x t k p)
  match rs.findSome? fun r => match r.2.2 with | .fault code _ => some (code, r.2.1.1) | _ => none with
  | some (code, va) => s.plateLoadFault x code va
  | none =>
    if rs.any fun r => r.2.2 = .refused then
      if x.refused.any fun f => overdue f s.clk.tclk then s.plateLoadFault x fcPinned x.src.toNat else s.plateRefused x
    else
      let far := rs.filterMap fun r => match r.2.2 with | .fab st off _ => some (r.1, st, off, r.2.1.2) | _ => none
      if far.isEmpty then
        let bs := rs.flatMap fun r => match r.2.2 with | .bytes bs _ => bs | _ => []
        let lbl := rs.foldl (fun l r => match r.2.2 with | .bytes _ fl => l ||| fl | _ => l) 0
        s.plateLoaded x bs lbl
      else s.askSpan t (.plate x.id) far

/-- R277, R329: what the load of a plate does next. -/
def State.plateStep (s : State) (x : PlateLoad) : State :=
  match s.team? x.tid with
  | none => s
  | some t => if x.due.isNone then s.plateBegin x t else s.plateRead x t

/-- R329: four loads of a core proceed at once. -/
def State.loadDue (s : State) (x : PlateLoad) : Bool :=
  (((s.e.loads.filter fun y => y.core = x.core).take 4).any fun y => y.id = x.id) && s.loadReady x &&
    (match x.due with
      | none => true
      | some d => d ≤ s.clk.cycle && !DWord.past x.retryAt s.clk.tclk &&
          !s.y.reqs.any fun q => match q.who with | .plate l _ => l = x.id | _ => false)

/-- R277: PLATE_LOAD_COMPLETE. -/
def execPlateLoadComplete (load : Nat) (s : State) : Host.Outcome State Fault Refusal :=
  match s.e.loads.find? fun x => x.id = load with
  | some x => .next (s.plateStep x)
  | none => .next s

/-! ## The instructions -/

/-- R268: COPY, short form. -/
def execCopy (f : SForm) (s : State) : Host.Outcome State Fault Refusal := runWord (.copy f) (copyMeaning false) s

/-- R268: COPY, long form. -/
def execCopyLong (f : LForm) (s : State) : Host.Outcome State Fault Refusal := runWord (.copyLong f) (copyMeaning false) s

/-- R270: COPYM, short form. -/
def execCopym (f : SForm) (s : State) : Host.Outcome State Fault Refusal := runWord (.copym f) (copyMeaning true) s

/-- R270: COPYM, long form. -/
def execCopymLong (f : LForm) (s : State) : Host.Outcome State Fault Refusal := runWord (.copymLong f) (copyMeaning true) s

/-- R272: SEAL, short form. -/
def execSeal (f : SForm) (s : State) : Host.Outcome State Fault Refusal := runWord (.seal f) sealMeaning s

/-- R272: SEAL, long form. -/
def execSealLong (f : LForm) (s : State) : Host.Outcome State Fault Refusal := runWord (.sealLong f) sealMeaning s

/-- R272: WAITB, short form. -/
def execWaitb (f : SForm) (s : State) : Host.Outcome State Fault Refusal := runWord (.waitb f) waitbMeaning s

/-- R272: WAITB, long form. -/
def execWaitbLong (f : LForm) (s : State) : Host.Outcome State Fault Refusal := runWord (.waitbLong f) waitbMeaning s

/-- R274: OSBRES. -/
def execOsbres (f : LForm) (s : State) : Host.Outcome State Fault Refusal := runWord (.osbres f) osbresMeaning s

/-- R275: OSBREL, short form. -/
def execOsbrel (f : SForm) (s : State) : Host.Outcome State Fault Refusal := runWord (.osbrel f) osbrelMeaning s

/-- R275: OSBREL, long form. -/
def execOsbrelLong (f : LForm) (s : State) : Host.Outcome State Fault Refusal := runWord (.osbrelLong f) osbrelMeaning s

/-- R277: PLLOAD, short form. -/
def execPlload (f : SForm) (s : State) : Host.Outcome State Fault Refusal := runWord (.plload f) plloadMeaning s

/-- R277: PLLOAD, long form. -/
def execPlloadLong (f : LForm) (s : State) : Host.Outcome State Fault Refusal := runWord (.plloadLong f) plloadMeaning s

/-- R278: PLFREE, short form. -/
def execPlfree (f : SForm) (s : State) : Host.Outcome State Fault Refusal := runWord (.plfree f) plfreeMeaning s

/-- R278: PLFREE, long form. -/
def execPlfreeLong (f : LForm) (s : State) : Host.Outcome State Fault Refusal := runWord (.plfreeLong f) plfreeMeaning s

end Sys2Proof.Machine
end

