-- ==== Sys2Proof/Machine/Matrix.lean ====
section
/-! DEFINITION. The matrix unit and the Vat: MXFENCE, MXISSUE, MXWAIT, VREL, VTRD and VTWR, and what a matrix issue
computes (R102, R115, R149, R152 to R155, R280 to R286, R328). -/

namespace Sys2Proof.Machine

open Sys2Proof

/-! ## Vat slots -/

/-- R280: does a team hold a Vat slot? -/
def State.vatHeld (s : State) (tid h : Nat) : Bool :=
  match s.team? tid with
  | some t =>
    (match s.stageOf t with | some st => decide (h < 2 * st.vatu) | none => false) && !t.vatFree.contains h && !t.vatBack.contains h
  | none => false

/-- R280: a slot is taken from the list: +0.0 in every element, and the empty label. -/
def State.takeSlot (s : State) (tid h : Nat) : State :=
  let s := s.setTeam tid fun t => { t with vatFree := t.vatFree.filter (· ≠ h) }
  { s with
    r.vat := s.r.vat.filter fun kv => !(kv.1.1 = tid && kv.1.2.1 = h)
    r.vatOld := s.r.vatOld.filter fun kv => !(kv.1.1 = tid && kv.1.2.1 = h)
    r.vatLbl := mdel s.r.vatLbl (tid, h) }

/-- R286: a released slot returns to the list when no issue that names it is incomplete. -/
def State.backSlots (s : State) (tid : Nat) : State :=
  s.setTeam tid fun t =>
    let ready := t.vatBack.filter fun h => !s.e.mxs.any fun x => x.tid = tid && x.slot = h && !x.done
    { t with vatBack := t.vatBack.filter fun h => !ready.contains h, vatFree := ready.foldl (fun l h => insertBy id h l) t.vatFree }

def State.vatGet (s : State) (tid h e : Nat) : Word := mget 0 s.r.vat (tid, h, e)
def State.vatSet (s : State) (tid h e : Nat) (x : Word) : State := { s with r.vat := mset s.r.vat (tid, h, e) x }
def State.vatLabel (s : State) (tid h : Nat) : Label := mget 0 s.r.vatLbl (tid, h)
def State.setVatLabel (s : State) (tid h : Nat) (l : Label) : State :=
  { s with r.vatLbl := mset s.r.vatLbl (tid, h) l }

/-! ## The parameter block -/

/-- Table 10.6: the fields of a parameter block. -/
structure MxRec where
  drow : Nat
  rows : Nat
  osbh : Nat
  vath : Nat
  new : Bool
  ovw : Bool
  pmask : Nat
  arow : Nat
  ak0 : Nat
  rsvd : Bool
  deriving DecidableEq, Repr

def mxRec (bs : List Byte) : MxRec :=
  let w := fun k => leNat ((bs.drop k).take 4)
  let c := w 0
  { drow := bitsOf c 20 6, rows := bitsOf c 14 6, osbh := bitsOf c 10 4, vath := bitsOf c 2 6, new := bitsOf c 1 1 = 1,
    ovw := bitsOf c 0 1 = 1, pmask := w 4, arow := bitsOf (w 8) 0 8, ak0 := w 12,
    rsvd := bitsOf c 26 6 ≠ 0 || bitsOf c 8 2 ≠ 0 || bitsOf (w 8) 8 24 ≠ 0 || leNat (bs.drop 16) ≠ 0 }

/-- The plates of a mask in ascending order. -/
def platesOf (mask : Nat) : List Nat := (List.range 32).filter fun k => mask.testBit k

/-- R282: the position, in its list of causes, of the first that holds; 0 for none. -/
def State.mxCause (s : State) (tid : Nat) (r : MxRec) : Nat :=
  let o := s.osb? tid r.osbh
  let rows := match o with | some o => o.rows | none => 0
  let klen := match o with | some o => o.klen | none => 0
  if r.rsvd then 1
  else if 64 < r.drow + r.rows + 1 then 2
  else if o.isNone then 3
  else if rows ≤ r.arow + r.rows then 4
  else if r.ak0 % 64 ≠ 0 then 5
  else if klen < r.ak0 + 64 * (platesOf r.pmask).length then 6
  else if r.pmask = 0 ∨ (platesOf r.pmask).any fun k => s.pln tid ≤ k || !(s.plate tid k).loaded then 7
  else if !r.new ∧ !s.vatHeld tid r.vath then 8
  else 0

/-! ## Exposure -/

/-- The bytes of a reservation as a code of `n` bits at a bit offset. -/
def Osb.code (o : Osb) (bit n : Nat) : Nat :=
  let lo := mget 0 o.bytes (bit / 8)
  let hi := mget 0 o.bytes (bit / 8 + 1)
  bitsOf (lo.toNat + 256 * hi.toNat) (bit % 8) n

/-- R140, R273: the code of element (i, k) of A. -/
def Osb.elem (o : Osb) (i k : Nat) : Nat :=
  let n := 4 * eb2 o.fmt
  o.code (i * o.klen * n + k * n) n

/-- R154: the exponent of the lowest set bit of a nonzero number, with fuel. -/
def trailing (m : Nat) : Nat → Nat
  | 0 => 0
  | n + 1 => if m % 2 = 1 ∨ m = 0 then 0 else 1 + trailing (m / 2) n

/-- R154: the exposure depth of sixteen values. -/
def exposure (xs : List FV) : Nat :=
  let u := xs.filterMap fun x => match x with
    | .fin _ m e => if m = 0 then none else some (e + (Nat.log2 m : Int), e + (trailing m 300 : Int))
    | _ => none
  match u with
  | [] => 1
  | p :: ps =>
    let hi := ps.foldl (fun a q => max a q.1) p.1
    let lo := ps.foldl (fun a q => min a q.2) p.2
    (hi - lo + 1).toNat

/-- R155: the cycles that an issue takes to expose A. -/
def State.exposeTime (s : State) (x : Mx) : Nat :=
  match s.osbId? x.res with
  | some o =>
    (List.range (x.rows + 1)).foldl (fun n i =>
      n + (List.range (4 * (platesOf x.pmask).length)).foldl (fun d b =>
        max d (exposure ((List.range 16).map fun t => decode5 o.fmt (o.elem (x.arow + i) (x.ak0 + 16 * b + t))))) 1) 0
  | none => 0

/-- R277: every load that an issue's plates wait for is complete. -/
def State.platesReady (s : State) (x : Mx) : Bool :=
  !s.e.loads.any fun l => l.tid = x.tid && x.pmask.testBit l.plate && l.id < x.id

/-- R328: give every issue of a core whose turn can be told its time of completion: exposure begins after 24 cycles of
setup and after the exposure before it, and 32 cycles of drain follow. -/
def State.retimeGo (s : State) : Nat → List Mx → List (Nat × Nat)
  | _, [] => []
  | prev, x :: xs =>
    match x.due with
    | some d => s.retimeGo (d - 32) xs
    | none =>
      if s.platesReady x then
        let d := max (x.at_ + 24) (max prev s.clk.cycle) + s.exposeTime x + 32
        (x.id, d) :: s.retimeGo (d - 32) xs
      else []

def State.retime (s : State) (core : Nat) : State :=
  let ds := s.retimeGo 0 (s.e.mxs.filter fun x => x.core = core)
  { s with e.mxs := s.e.mxs.map fun x => match mget? ds x.id with | some d => { x with due := some d } | none => x }

/-- R277: an issue of the core waited for a plate's load that is over, and can be told its time. -/
def State.untimed (s : State) (core : Nat) : Bool := !(s.retimeGo 0 (s.e.mxs.filter fun x => x.core = core)).isEmpty

/-! ## The sums -/

/-- R141: a scale as an exponent; none for 0xFF. -/
def blockScale (on : Bool) (c : Nat) : Option Int := if !on then some 0 else if c = 0xFF then none else some ((c : Int) - 127)

/-- R152, R153: one block sum, rounded, with its flags. -/
def blockSum (xs ys : List FV) (sa sb : Option Int) : FV × BitVec 8 :=
  match sa, sb with
  | some ea, some eb =>
    let ps := (xs.zip ys).map fun (x, y) => FV.mul x y
    let nv := ps.any (·.2) || infClash (ps.map (·.1))
    let (v, fl) := rneF32 ((sumFV false (ps.map (·.1))).scale (ea + eb))
    (v, fl ||| nvIf nv)
  | _, _ => (.nan, fNV)

/-- R152: the block sums of one element enter the accumulator in ascending order. -/
def accumulate : FV → List (FV × BitVec 8) → FV × BitVec 8
  | acc, [] => (acc, 0)
  | acc, (x, fx) :: xs =>
    let (v, nv) := FV.add false acc x
    let (r, fl) := rneF32 v
    let (a, fa) := accumulate r xs
    (a, fx ||| nvIf nv ||| fl ||| fa)

/-- The code of an element of a plate, and of one of its scales. -/
def Plate.code (p : Plate) (fmt bit n : Nat) : Nat :=
  bitsOf ((p.bytes.getD (bit / 8) 0).toNat) (if fmt = 10 then bit % 8 else 0) n
def Plate.elem (p : Plate) (k j : Nat) : Nat :=
  let fmt := pdFmt p.form.toNat
  let n := 4 * eb2 fmt
  p.code fmt (k * 64 * n + j * n) n
def Plate.scale (p : Plate) (b j : Nat) : Option Int :=
  blockScale (pdScales p.form.toNat) ((p.scales.getD (64 * b + j) 0).toNat)

/-- R283: block `b` of an issue for row `i` of A and column `j`: its sum and flags. -/
def State.mxBlock (s : State) (x : Mx) (o : Osb) (i b j : Nat) : FV × BitVec 8 :=
  let p := s.plate x.tid ((platesOf x.pmask).getD (b / 4) 0)
  let ac := (List.range 16).map fun t => o.elem (x.arow + i) (x.ak0 + 16 * b + t)
  let bc := (List.range 16).map fun t => p.elem (16 * (b % 4) + t) j
  let bf := pdFmt p.form.toNat
  let sa := blockScale o.asc ((mget 0 o.bytes (osbScales o.rows o.klen o.fmt + (x.arow + i) * (o.klen / 16) + x.ak0 / 16 + b)).toNat)
  let (v, fl) := blockSum (ac.map (decode5 o.fmt)) (bc.map (decode5 bf)) sa (p.scale (b % 4) j)
  (v, fl ||| (ac.foldl (fun f c => f ||| rsv4 o.fmt c) 0) ||| (bc.foldl (fun f c => f ||| rsv4 bf c) 0))

/-- R152: one element of D. -/
def State.mxElem (s : State) (x : Mx) (o : Osb) (i j : Nat) : Word × BitVec 8 :=
  let bs := (List.range (4 * (platesOf x.pmask).length)).map fun b => s.mxBlock x o i b j
  let (v, fl) :=
    if x.ovw then
      match bs with
      | [] => (.fin false 0 0, 0)
      | (y, f) :: rest => let (v, fl) := accumulate y rest; (v, f ||| fl)
    else accumulate (decode5 fmtF32 (s.vatGet x.tid x.slot ((x.drow + i) * 64 + j)).toNat) bs
  (BitVec.ofNat 32 (roundTo fmtF32 0 v 0).1, fl)

/-- R115: the label that a matrix issue gives its slot. -/
def State.mxLabel (s : State) (x : Mx) : Label :=
  let ol := match s.osbId? x.res with | some o => o.lbl | none => 0
  let pl := (platesOf x.pmask).foldl (fun l k => l ||| (s.plate x.tid k).lbl) 0
  ol ||| pl ||| x.lbl ||| (if x.ovw then 0 else s.vatLabel x.tid x.slot)

/-- R285: a byte of A that is read as the old one or the new one, as bits of a free value say: i4 codes each for itself. -/
def mixByte (i4 : Bool) (w : Word) (old new : Byte) : Byte :=
  let lo := if w.getLsbD 0 then old else new
  let hi := if i4 then (if w.getLsbD 1 then old else new) else lo
  hi.extractLsb' 4 4 ++ lo.extractLsb' 0 4

/-- R285: a reservation as an issue reads it: of each element that no MXFENCE has ordered, the old value or the new one. -/
def State.mixOsb (s : State) (x : Mx) (o : Osb) : State × Osb :=
  let unit := fun (off : Nat) => if off < osbScales o.rows o.klen o.fmt && eb2 o.fmt = 4 then off / 2 * 2 else off
  let (s, _, bs) := (o.olds.filter fun kv => o.named x kv.1).foldl
    (fun (s, last, bs) kv =>
      let (w, s) := if (last : Nat × Word).1 = unit kv.1 + 1 then (last.2, s) else s.freeWord
      (s, (unit kv.1 + 1, w), mset bs kv.1 (mixByte (eb2 o.fmt = 1) w kv.2.1 (mget 0 o.bytes kv.1))))
    (s, ((0, 0) : Nat × Word), o.bytes)
  (s, { o with bytes := bs })

/-- R285: the elements of D that no MXFENCE has ordered, as an issue that accumulates reads them. -/
def State.mixVat (s : State) (x : Mx) : State :=
  if x.ovw then s
  else
    (s.r.vatOld.filter fun kv => kv.1.1 = x.tid && kv.1.2.1 = x.slot && x.drow ≤ kv.1.2.2 / 64 && kv.1.2.2 / 64 ≤ x.drow + x.rows).foldl
      (fun s kv =>
        let (w, s) := s.freeWord
        if w.getLsbD 0 then s.vatSet x.tid x.slot kv.1.2.2 kv.2.1 else s) s

/-- R285: the writes of a team that an MXFENCE orders are no longer read as they stood before. -/
def State.orderWrites (s : State) (tid mark : Nat) : State :=
  { s with
    e.osbs := s.e.osbs.map fun (o : Osb) => if o.tid = tid then { o with olds := o.olds.filter fun kv => mark ≤ kv.2.2 } else o
    r.vatOld := s.r.vatOld.filter fun kv => kv.1.1 ≠ tid || mark ≤ kv.2.2 }

/-- R283: the result of an issue enters its slot. In overwrite mode the slot's label is the result's alone (R115); the label that it
had is kept for what is read or written inside the window (R102). -/
def State.mxEnter (s : State) (x : Mx) (o : Osb) : State :=
  let (s, o) := s.mixOsb x o
  let v := s.mixVat x
  let es : List (Nat × Word × BitVec 8) := (List.range (x.rows + 1)).flatMap fun i => (List.range 64).map fun j =>
    ((x.drow + i) * 64 + j, v.mxElem x o i j)
  let lbl := s.mxLabel x
  let fl := es.foldl (fun (f : BitVec 8) (e : Nat × Word × BitVec 8) => f ||| e.2.2) 0
  let s1 := es.foldl (fun (q : State) (e : Nat × Word × BitVec 8) => q.vatSet x.tid x.slot e.1 e.2.1) v
  let s2 := s1.setVatLabel x.tid x.slot lbl
  let up := fun (y : Mx) => if y.id = x.id then { y with done := true, flags := fl, slotLbl := lbl, oldLbl := s.vatLabel x.tid x.slot } else y
  { s2 with
    r.vatOld := s2.r.vatOld.filter fun kv => !(kv.1.1 = x.tid && kv.1.2.1 = x.slot && es.any fun e => e.1 = kv.1.2.2)
    e.mxs := s2.e.mxs.map up }

/-- R283: a matrix issue completes. -/
def State.mxFinish (s : State) (x : Mx) : State :=
  let s' := match s.osbId? x.res with
    | some o => s.mxEnter x o
    | none => { s with e.mxs := s.e.mxs.map fun (y : Mx) => if y.id = x.id then { y with done := true } else y }
  (((s'.backSlots x.tid).sweepPlates x.tid).osbFree x.core).retime x.core

/-- The issue of a core whose turn it is (R284). -/
def State.mxHead (s : State) (core : Nat) : Option Mx := s.e.mxs.find? fun x => x.core = core && !x.done

/-- R283, R328: MXISSUE_COMPLETE. -/
def execMxissueComplete (core : Nat) (s : State) : Host.Outcome State Fault Refusal :=
  match s.mxHead core with
  | some x => .next (s.mxFinish x)
  | none => .next s

/-! ## MXISSUE -/

/-- R283: does the matrix unit of a core hold fewer than 8 accepted issues? -/
def State.mxRoom (s : State) (core : Nat) : Bool := (s.e.mxs.filter fun x => x.core = core && !x.done).length < 8

/-- R283: a lane's issue is accepted; its handle. -/
def State.mxAccept (s : State) (i : Iss) (l : Lane) (a : Nat) (r : MxRec) : Nat × State :=
  let free := match s.team? l.t.tid with | some t => t.vatFree | none => []
  let h := if r.new then free.headD 0 else r.vath
  let res := match s.osb? l.t.tid r.osbh with | some o => o.id | none => 0
  let core := s.homeCore l.t.tid i.g.core
  let s' := if r.new then s.takeSlot l.t.tid h else s
  let (id, s') := s'.freshId
  let x : Mx :=
    { id := id, core := core, tid := l.t.tid, t := l.t, slot := h, res := res, drow := r.drow, rows := r.rows, ovw := r.ovw,
      pmask := r.pmask, arow := r.arow, ak0 := r.ak0, lbl := s.slabel l.t.tid a 64 ||| l.ctx, at_ := s.clk.cycle, due := none,
      done := false, flags := 0, slotLbl := 0, dirty := [], seen := [], closed := false }
  (h, { s' with e.mxs := s'.e.mxs ++ [x] }.retime core)

/-- R282, R283: one lane of MXISSUE. -/
def State.mxLane (s : State) (i : Iss) (k : Taking) (l : Lane) : State × Taking :=
  let a := s.recOff i l
  match s.recBytes l a 64 with
  | .error _ => (s, k)
  | .ok bs =>
    let r := mxRec bs
    let c := s.mxCause l.t.tid r
    let free := match s.team? l.t.tid with | some t => t.vatFree | none => []
    if c ≠ 0 then (s.judge i.g [l] fun _ => some ⟨fcMatrix, c, 0, a⟩, k)
    else if r.new && free.isEmpty then (s.judge i.g [l] fun _ => some ⟨fcVatEmpty, 0, 0, a⟩, k)
    else
      let core := s.homeCore l.t.tid i.g.core
      if !s.mxRoom core then (s, { k with room := some (0, core) })
      else
        let (h, s) := s.mxAccept i l a r
        (s, { k with taken := k.taken ++ [(l.t, h)] })

/-- R263: the lanes whose record lies on an absent line park. -/
def State.recordStop (s : State) (i : Iss) (n : Nat) : State × List (Lane × Park) :=
  (s, mergeLines ((s.untaken i).filterMap fun l =>
    match s.recBytes l (s.recOff i l) n with
    | .error why => some (l, why)
    | .ok _ => none))

/-- R283: MXISSUE. -/
def mxissueMeaning : Meaning where
  flt s i l := s.recFlt i 64 l
  hold s i := s.takeLanes i fun s k l => s.mxLane i k l
  stop s i := s.recordStop i 64
  eff s i :=
    let tk := s.takenNow i
    s.putRes i (4 + s.pairLat i) (i.on.map fun l => ⟨l, [BitVec.ofNat 32 (mget 0 tk l.t)], s.cmdLbl i l (s.recOff i l) 64⟩)

/-! ## MXFENCE and MXWAIT -/

/-- R285: the copies into a team's reservations that are incomplete. -/
def State.osbCopies (s : State) (tid : Nat) : List Nat :=
  (s.e.copies.filter fun c => c.res.isSome && (s.e.osbs.any fun o => some o.id = c.res && o.tid = tid)).map (·.id)

/-- R285: MXFENCE. Every VTWR has performed at issue (R286). -/
def mxfenceMeaning : Meaning where
  hold s i :=
    let h := i.g.hold.getD { copies := (tidsOf i.on).flatMap fun tid => s.osbCopies tid, mark := s.clk.fresh }
    if h.copies.any fun id => (s.copy? id).isSome then (s, some h)
    else (s.setIg i.g.id fun g => { g with hold := some h }, none)
  eff s i :=
    let mark := match (s.ig? i.g.id).bind (·.hold) with | some h => h.mark | none => 0
    ((tidsOf i.on).foldl (fun s tid => s.orderWrites tid mark) s).tokDown i.f.tok (i.on.map (·.t))

/-- R285: the issues that a thread's MXWAIT observes: of a slot that is not held, none. -/
def State.observes (s : State) (t : TRef) (h : Nat) : List Nat :=
  (s.e.mxs.filter fun x => x.tid = t.tid && (h = 0xFFFFFFFF || (x.slot = h && s.vatHeld t.tid h)) && !x.seen.contains t).map (·.id)

/-- R102: the window of an issue closes: the words written inside it are undefined, with the label of the old contents and of the
result. -/
def State.closeWindow (s : State) (x : Mx) : State :=
  let s := { s with e.mxs := s.e.mxs.map fun y => if y.id = x.id then { y with closed := true } else y }
  let s := if x.dirty.any fun c => c % 2 = 1 then s.setVatLabel x.tid x.slot (s.vatLabel x.tid x.slot ||| x.oldLbl ||| x.slotLbl) else s
  (dedup x.dirty).foldl (fun s c =>
    let (w, s) := s.freeWord
    if c % 2 = 1 then s.vatSet x.tid x.slot (c / 2) w
    else
      let f := fun (o : Osb) => if o.id = x.res then o.put (c / 2) [w.extractLsb' 0 8] 0 else o
      { s with e.osbs := s.e.osbs.map f }) s

/-- R149, R285: a thread's wait ends: the flags of the issues it observed, and the labels of their slots. -/
def State.observe (s : State) (t : TRef) (ids : List Nat) : State :=
  let xs := s.e.mxs.filter fun x => ids.contains x.id
  let s := xs.foldl (fun s x => if x.closed then s else s.closeWindow x) s
  let s := s.setThr t fun h => { h with fstat := xs.foldl (fun f x => f ||| x.flags) h.fstat }
  let s := xs.foldl (fun s x => s.joinTileLbl t.g .fstat (s.vatLabel x.tid x.slot)) s
  let f := fun (y : Mx) => if ids.contains y.id then { y with seen := y.seen ++ [t] } else y
  { s with e.mxs := s.e.mxs.map f }

/-- R285: MXWAIT. -/
def mxwaitMeaning : Meaning where
  flt s i l :=
    let h := s.rd32 l.t i.f.lit i.f.b
    if 64 ≤ h && h ≠ 0xFFFFFFFF then some ⟨fcOperand, 0, 0, 0⟩ else none
  hold s i :=
    let want := match i.g.hold with
      | some h => h.mxs
      | none => i.on.map fun l => (l.t, s.observes l.t (s.rd32 l.t i.f.lit i.f.b))
    let h : Hold := { mxs := want }
    if want.any fun w => s.e.mxs.any fun x => w.2.contains x.id && !x.done then (s, some h)
    else (s.setIg i.g.id fun g => { g with hold := some h }, none)
  eff s i :=
    let want := match s.ig? i.g.id with
      | some g => (match g.hold with | some h => h.mxs | none => [])
      | none => []
    let s := i.on.foldl (fun s l => s.observe l.t (mget [] want l.t)) s
    s.tokDown i.f.tok (i.on.map (·.t))

/-! ## Vat accesses -/

/-- R286: the elements that VTRD and VTWR take. -/
def vatCount (f : Fm) : Nat := 2 ^ mdType f.md
def vatAddr (a : Nat) : Nat × Nat := (bitsOf a 12 6, bitsOf a 0 12)

/-- R286: the Vat faults of an access. -/
def State.vatFlt (s : State) (i : Iss) (l : Lane) : Option Flt :=
  let a := s.rd32 l.t i.f.lit i.f.a
  let (h, e) := vatAddr a
  if 2 ^ 18 ≤ a || e % vatCount i.f ≠ 0 || !s.vatHeld l.t.tid h then some ⟨fcVat, 0, 0, 0⟩ else none

/-- R102: the issues whose window is open on a slot. -/
def State.windows (s : State) (tid h : Nat) : List Mx := s.e.mxs.filter fun x => x.tid = tid && x.slot = h && !x.closed

/-- R102, R286: what VTRD gives one lane. -/
def State.vtrdLane (s : State) (i : Iss) (l : Lane) : State × LaneOut :=
  let (h, e) := vatAddr (s.rd32 l.t i.f.lit i.f.a)
  let n := vatCount i.f
  let ws := s.windows l.t.tid h
  let lbl := s.aluLbl i l ||| s.vatLabel l.t.tid h
  if ws.isEmpty then (s, .done ((List.range n).map fun k => s.vatGet l.t.tid h (e + k)) lbl)
  else
    let (fs, s') := s.freeWords n
    (s', .done fs (ws.foldl (fun a x => a ||| (if x.done then x.slotLbl ||| x.oldLbl else s.mxLabel x)) lbl))

/-- R286: VTRD. -/
def vtrdMeaning : Meaning where
  flt s i l := s.vatFlt i l
  eff s i :=
    let (s', outs) := s.laneLoop (fun s l => s.vtrdLane i l) i.g i.on
    s'.putRes i (12 + s.pairLat i) (finished outs)

/-- R285: what stood in a Vat word is kept until an MXFENCE orders the write. -/
def State.keepVat (s : State) (tid h e id : Nat) : State :=
  { s with r.vatOld := mset s.r.vatOld (tid, h, e) (((mget? s.r.vatOld (tid, h, e)).map (·.1)).getD (s.vatGet tid h e), id) }

/-- R102, R286: one lane's VTWR. -/
def State.vtwrLane (s : State) (_i : Iss) (l : Lane) (ws : List Word) (lbl : Label) (h e : Nat) : State :=
  let (id, s) := s.freshId
  let s := (ws.zipIdx).foldl (fun s (w, k) => (s.keepVat l.t.tid h (e + k) id).vatSet l.t.tid h (e + k) w) s
  let s := s.setVatLabel l.t.tid h (s.vatLabel l.t.tid h ||| lbl)
  s.dirtyMx fun x => if x.tid = l.t.tid && x.slot = h then (List.range ws.length).map fun k => 2 * (e + k) + 1 else []

/-- R286: VTWR. -/
def vtwrMeaning : Meaning where
  flt s i l := s.vatFlt i l
  eff s i :=
    let s' := i.on.foldl (fun s' l =>
      let (h, e) := vatAddr (s.rd32 l.t i.f.lit i.f.a)
      s'.vtwrLane i l (wordsOf (s.intVal l.t i.f.lit i.f.b (vatCount i.f) 0 true) (vatCount i.f)) (s.aluLbl i l) h e) s
    s'.tokDown i.f.tok (i.on.map (·.t))

/-- R286: one lane's VREL. -/
def State.vrelLane (s : State) (i : Iss) (l : Lane) : State × LaneOut :=
  let h := s.rd32 l.t i.f.lit i.f.a
  if s.vatHeld l.t.tid h then
    ((s.setTeam l.t.tid fun t => { t with vatBack := t.vatBack ++ [h] }).backSlots l.t.tid, .done [] 0)
  else (s, .fault ⟨fcVat, 0, 0, 0⟩)

/-- R286: VREL. -/
def vrelMeaning : Meaning where
  eff s i :=
    let (s', _) := s.laneLoop (fun s l => s.vrelLane i l) i.g i.on
    s'.tokDown i.f.tok ((s'.alive i.on).map (·.t))

/-! ## The instructions -/

/-- R285: MXFENCE, short form. -/
def execMxfence (f : SForm) (s : State) : Host.Outcome State Fault Refusal := runWord (.mxfence f) mxfenceMeaning s

/-- R285: MXFENCE, long form. -/
def execMxfenceLong (f : LForm) (s : State) : Host.Outcome State Fault Refusal :=
  runWord (.mxfenceLong f) mxfenceMeaning s

/-- R283: MXISSUE. -/
def execMxissue (f : LForm) (s : State) : Host.Outcome State Fault Refusal := runWord (.mxissue f) mxissueMeaning s

/-- R285: MXWAIT, short form. -/
def execMxwait (f : SForm) (s : State) : Host.Outcome State Fault Refusal := runWord (.mxwait f) mxwaitMeaning s

/-- R285: MXWAIT, long form. -/
def execMxwaitLong (f : LForm) (s : State) : Host.Outcome State Fault Refusal := runWord (.mxwaitLong f) mxwaitMeaning s

/-- R286: VREL, short form. -/
def execVrel (f : SForm) (s : State) : Host.Outcome State Fault Refusal := runWord (.vrel f) vrelMeaning s

/-- R286: VREL, long form. -/
def execVrelLong (f : LForm) (s : State) : Host.Outcome State Fault Refusal := runWord (.vrelLong f) vrelMeaning s

/-- R286: VTRD. -/
def execVtrd (f : LForm) (s : State) : Host.Outcome State Fault Refusal := runWord (.vtrd f) vtrdMeaning s

/-- R286: VTWR, short form. -/
def execVtwr (f : SForm) (s : State) : Host.Outcome State Fault Refusal := runWord (.vtwr f) vtwrMeaning s

/-- R286: VTWR, long form. -/
def execVtwrLong (f : LForm) (s : State) : Host.Outcome State Fault Refusal := runWord (.vtwrLong f) vtwrMeaning s

end Sys2Proof.Machine
end

