-- ==== Sys2Proof/Machine/Sfu.lean ====
section
/-! DEFINITION. The special functions of class 2, each correctly rounded from a fixed-point value far more precise
than FP32 (R150, R151, R229). A value that is not exact is held as 2A + 1 half units, which lies strictly between A
and A + 1, so that rounding it sees neither a tie nor an exact result. -/

namespace Sys2Proof.Machine

open Sys2Proof

/-- Fraction bits of the fixed-point values. -/
def fxP : Nat := 460

/-- floor(π × 2^600). -/
def fxPi : Nat :=
  0x3243f6a8885a308d313198a2e03707344a4093822299f31d0082efa98ec4e6c89452821e638d01377be5466cf34e90c6cc0ac29b7c97c50dd3f84d5b5b54709179216d5d98979fb1bd1310b

/-- floor(ln 2 × 2^600). -/
def fxLn2 : Nat :=
  0xb17217f7d1cf79abc9e3b39803f2f6af40f343267298b62d8a0d175b8baafa2be7b876206debac98559552fb4afa1b10ed2eae35c138214427573b291169b8253e96ca16224ae8c51acbda

/-- A value strictly between A and A + 1 units of 2^−p. -/
def sticky (neg : Bool) (a p : Nat) : FV := .fin neg (2 * a + 1) (-(p : Int) - 1)

/-- A magnitude m × 2^e in units of 2^−p, for e ≥ −p. -/
def fxOf (m : Nat) (e : Int) (p : Nat) : Nat := m * 2 ^ (e + p).toNat

/-- Sum of the powers y^k ÷ k!, from the term `t` of index k on. -/
def fxExpSum (y p : Nat) : Nat → Nat → Nat → Nat
  | 0, _, _ => 0
  | n + 1, k, t => t + fxExpSum y p n (k + 1) (t * y / 2 ^ p / (k + 1))

/-- e^y for 0 ≤ y < 1 in units of 2^−p. -/
def fxExp (y p : Nat) : Nat := fxExpSum y p 110 0 (2 ^ p)

/-- Alternating sum of the powers r^(2j + k0) ÷ (2j + k0)!, from the term `t` of index k on. -/
def fxAlt (r2 p : Nat) : Nat → Nat → Nat → Int
  | 0, _, _ => 0
  | n + 1, k, t => (t : Int) - fxAlt r2 p n (k + 2) (t * r2 / 2 ^ p / ((k + 1) * (k + 2)))

/-- sin r for 0 ≤ r < 1 in units of 2^−p. -/
def fxSin (r p : Nat) : Nat := (fxAlt (r * r / 2 ^ p) p 60 1 r).toNat
/-- cos r for 0 ≤ r < 1 in units of 2^−p. -/
def fxCos (r p : Nat) : Nat := (fxAlt (r * r / 2 ^ p) p 60 0 (2 ^ p)).toNat

/-- Sum of the terms z^(2k + 1) ÷ (2k + 1), from the power `t` of index k on. -/
def fxAtanhSum (z2 p : Nat) : Nat → Nat → Nat → Nat
  | 0, _, _ => 0
  | n + 1, k, t => t / (2 * k + 1) + fxAtanhSum z2 p n (k + 1) (t * z2 / 2 ^ p)

/-- ln(t ÷ 2^n) for 2^n ≤ t < 2^(n+1), in units of 2^−p. -/
def fxLn (t n p : Nat) : Nat :=
  let z := (t - 2 ^ n) * 2 ^ p / (t + 2 ^ n)
  2 * fxAtanhSum (z * z / 2 ^ p) p 160 0 z

/-- The largest a of k bits with a² ≤ n. -/
def isqrt (n : Nat) : Nat → Nat → Nat
  | 0, a => a
  | k + 1, a => isqrt n k (if (a + 2 ^ k) * (a + 2 ^ k) ≤ n then a + 2 ^ k else a)

/-- e^−y for y = m × 2^e, y at most 160, in units of 2^−fxP. -/
def fxExpNeg (m : Nat) (e : Int) : Nat :=
  let y := fxOf m e 600
  let n := y / fxLn2
  let r := y - n * fxLn2
  -- e^−y = 2^−(n+1) × e^(ln 2 − r)
  fxExp ((fxLn2 - r) / 2 ^ (600 - fxP)) fxP / 2 ^ (n + 1)

/-- The quotient 2^p × a ÷ b, exact or sticky. -/
def fxDiv (neg : Bool) (a b p : Nat) (e : Int) : FV :=
  let q := a * 2 ^ p / b
  if q * b = a * 2 ^ p then .fin neg q (e - p) else .fin neg (2 * q + 1) (e - p - 1)

/-- FRCP of a nonzero finite value. -/
def sfuRcp (neg : Bool) (m : Nat) (e : Int) : FV := fxDiv neg 1 m 200 (-e)

/-- m × 2^e with an even exponent. -/
def evenExp (m : Nat) (e : Int) : Nat × Int := if e % 2 = 0 then (m, e) else (2 * m, e - 1)

/-- FSQRT of a positive value. -/
def sfuSqrt (m : Nat) (e : Int) : FV :=
  let (m, e) := evenExp m e
  let q := isqrt (m * 2 ^ 200) 120 0
  if q * q = m * 2 ^ 200 then .fin false q (e / 2 - 100) else .fin false (2 * q + 1) (e / 2 - 101)

/-- FRSQ of a positive value. -/
def sfuRsq (m : Nat) (e : Int) : FV :=
  let (m, e) := evenExp m e
  let q := isqrt (2 ^ 400 / m) 205 0
  if q * q * m = 2 ^ 400 then .fin false q (-(e / 2) - 200) else .fin false (2 * q + 1) (-(e / 2) - 201)

/-- FEXP2 of a finite value; the result of a value far beyond the range of FP32 is held as a power far beyond it. -/
def sfuExp2 (neg : Bool) (m : Nat) (e : Int) : FV :=
  if m = 0 then .fin false 1 0
  else if 9 ≤ topExp m e then .fin false 1 (if neg then -300 else 300)
  else
    let x : Int := if neg then -(fxOf m e 600 : Int) else fxOf m e 600
    let n := x / 2 ^ 600
    let f := (x % 2 ^ 600).toNat
    if f = 0 then .fin false 1 n
    else .fin false (2 * fxExp (f * fxLn2 / 2 ^ (1200 - fxP)) fxP + 1) (n - fxP - 1)

/-- FLOG2 of a positive value. -/
def sfuLog2 (m : Nat) (e : Int) : FV :=
  let n := Nat.log2 m
  if m = 2 ^ n then FV.ofInt (e + n)
  else
    let frac := fxLn m n 600 * 2 ^ fxP / fxLn2
    let x : Int := (e + n) * 2 ^ fxP + frac
    if x < 0 then sticky true (x + 1).natAbs fxP else sticky false x.toNat fxP

/-- x − k × π ÷ 2 for the nearest k: the quadrant k mod 4, the sign and the magnitude of the rest in 2^−fxP. -/
def trigReduce (m : Nat) (e : Int) : Nat × Bool × Nat :=
  let x := fxOf m e 600
  let h := fxPi / 2
  let k := (x + h / 2) / h
  -- the rest by all the bits of π held: 2x against kπ
  let d : Int := 2 * (x : Int) - k * fxPi
  (k % 4, d < 0, d.natAbs / 2 ^ (601 - fxP))

/-- FSIN of a nonzero finite value. -/
def sfuSin (neg : Bool) (m : Nat) (e : Int) : FV :=
  let (q, s, r) := trigReduce m e
  match q with
  | 0 => sticky (neg != s) (fxSin r fxP) fxP
  | 1 => sticky neg (fxCos r fxP) fxP
  | 2 => sticky (neg == s) (fxSin r fxP) fxP
  | _ => sticky (!neg) (fxCos r fxP) fxP

/-- FCOS of a nonzero finite value. -/
def sfuCos (m : Nat) (e : Int) : FV :=
  let (q, s, r) := trigReduce m e
  match q with
  | 0 => sticky false (fxCos r fxP) fxP
  | 1 => sticky (!s) (fxSin r fxP) fxP
  | 2 => sticky true (fxCos r fxP) fxP
  | _ => sticky s (fxSin r fxP) fxP

/-- FTANH of a nonzero finite value. -/
def sfuTanh (neg : Bool) (m : Nat) (e : Int) : FV :=
  if 6 ≤ topExp m e then sticky neg (2 ^ fxP - 1) fxP
  else
    let u := fxExpNeg m (e + 1)
    sticky neg ((2 ^ fxP - u) * 2 ^ fxP / (2 ^ fxP + u)) fxP

/-- FSIGM of a nonzero finite value. -/
def sfuSigm (neg : Bool) (m : Nat) (e : Int) : FV :=
  if 7 ≤ topExp m e then (if neg then .fin false 1 (-300) else sticky false (2 ^ fxP - 1) fxP)
  else
    let u := fxExpNeg m e
    if neg then sticky false (u * 2 ^ fxP / (2 ^ fxP + u)) fxP
    else sticky false (2 ^ fxP * 2 ^ fxP / (2 ^ fxP + u)) fxP

/-- Table 5.9 and R150: function `op` of an exact operand, with the flags that its special operands set. -/
def sfuVal (op : Nat) (x : FV) : FV × BitVec 8 :=
  match op, x with
  | _, .nan => (.nan, 0)
  | 0, .inf s => (.fin s 0 0, 0)
  | 0, .fin s m e => if m = 0 then (.inf s, fDZ) else (sfuRcp s m e, 0)
  | 1, .inf s => if s then (.nan, fNV) else (.fin false 0 0, 0)
  | 1, .fin s m e => if m = 0 then (.inf s, fDZ) else if s then (.nan, fNV) else (sfuRsq m e, 0)
  | 2, .inf s => if s then (.nan, fNV) else (.inf false, 0)
  | 2, .fin s m e => if m = 0 then (x, 0) else if s then (.nan, fNV) else (sfuSqrt m e, 0)
  | 3, .inf s => if s then (.fin false 0 0, 0) else (.inf false, 0)
  | 3, .fin s m e => (sfuExp2 s m e, 0)
  | 4, .inf s => if s then (.nan, fNV) else (.inf false, 0)
  | 4, .fin s m e => if m = 0 then (.inf true, fDZ) else if s then (.nan, fNV) else (sfuLog2 m e, 0)
  | 5, .inf _ => (.nan, fNV)
  | 5, .fin s m e => if m = 0 then (x, 0) else (sfuSin s m e, 0)
  | 6, .inf _ => (.nan, fNV)
  | 6, .fin _ m e => if m = 0 then (.fin false 1 0, 0) else (sfuCos m e, 0)
  | 7, .inf s => (.fin s 1 0, 0)
  | 7, .fin s m e => if m = 0 then (x, 0) else (sfuTanh s m e, 0)
  | _, .inf s => if s then (.fin false 0 0, 0) else (.fin false 1 0, 0)
  | _, .fin s m e => if m = 0 then (.fin false 1 (-1), 0) else (sfuSigm s m e, 0)

/-- R229: the words and flags of a special function in a lane. -/
def sfuOut (op : Nat) (s : State) (i : Iss) (l : Lane) : AluOut :=
  let m := i.f.md
  let rs := (s.fpElems i l i.f.a).map fun (x, fx) =>
    let (v, fl) := sfuVal op x
    (v, fx ||| fl)
  let (cs, fl, _) := roundAll fmtF32 0 (mdFtz m) rs 0
  ⟨wordsOf (packCodes 32 cs) (fpRegs m), fl, none⟩

/-- Table 17.1: the result latency of a special function. -/
def latSfu (i : Iss) : Nat := sfuLat i.op i.f

def frcpOut := sfuOut 0
def frsqOut := sfuOut 1
def fsqrtOut := sfuOut 2
def fexp2Out := sfuOut 3
def flog2Out := sfuOut 4
def fsinOut := sfuOut 5
def fcosOut := sfuOut 6
def ftanhOut := sfuOut 7
def fsigmOut := sfuOut 8

/-! ## The instructions -/

/-- R229: 1 ÷ x. -/
def execFrcp (f : LForm) (s : State) : Host.Outcome State Fault Refusal :=
  runWord (.frcp f) (.alu latSfu frcpOut) s

/-- R229: 1 ÷ √x. -/
def execFrsq (f : LForm) (s : State) : Host.Outcome State Fault Refusal :=
  runWord (.frsq f) (.alu latSfu frsqOut) s

/-- R229: √x. -/
def execFsqrt (f : LForm) (s : State) : Host.Outcome State Fault Refusal :=
  runWord (.fsqrt f) (.alu latSfu fsqrtOut) s

/-- R229: 2^x. -/
def execFexp2 (f : LForm) (s : State) : Host.Outcome State Fault Refusal :=
  runWord (.fexp2 f) (.alu latSfu fexp2Out) s

/-- R229: log₂ x. -/
def execFlog2 (f : LForm) (s : State) : Host.Outcome State Fault Refusal :=
  runWord (.flog2 f) (.alu latSfu flog2Out) s

/-- R229: sin x. -/
def execFsin (f : LForm) (s : State) : Host.Outcome State Fault Refusal :=
  runWord (.fsin f) (.alu latSfu fsinOut) s

/-- R229: cos x. -/
def execFcos (f : LForm) (s : State) : Host.Outcome State Fault Refusal :=
  runWord (.fcos f) (.alu latSfu fcosOut) s

/-- R229: tanh x. -/
def execFtanh (f : LForm) (s : State) : Host.Outcome State Fault Refusal :=
  runWord (.ftanh f) (.alu latSfu ftanhOut) s

/-- R229: 1 ÷ (1 + e^(−x)). -/
def execFsigm (f : LForm) (s : State) : Host.Outcome State Fault Refusal :=
  runWord (.fsigm f) (.alu latSfu fsigmOut) s

end Sys2Proof.Machine
end

