-- ==== Sys2Proof/Machine/Churn.lean ====
section
/-! DEFINITION. The Churn: CHAIN and its record, the element steps, and CHWAIT (R103, R115, R142, R149, R287 to R291,
R331). -/

namespace Sys2Proof.Machine

open Sys2Proof

/-! ## The chain record -/

/-- Table 10.7: an operation record. -/
def chainOp (bs : List Byte) : ChainOp :=
  let w := leNat (bs.take 4)
  { kv := BitVec.ofNat 32 (leNat ((bs.drop 4).take 4)), selc := bitsOf w 20 4, selb := bitsOf w 16 4, sela := bitsOf w 12 4,
    ftz := bitsOf w 11 1 = 1, rm := bitsOf w 8 3, fn := bitsOf w 0 5 }

/-- The rsvd bits of an operation record. -/
def chainOpRsvd (bs : List Byte) : Bool :=
  let w := leNat (bs.take 4)
  bitsOf w 24 8 ≠ 0 || bitsOf w 5 3 ≠ 0

/-- Four 32-bit fields from an offset. -/
def fours (bs : List Byte) (k : Nat) : List Nat := (List.range 4).map fun d => leNat ((bs.drop (k + 4 * d)).take 4)

/-- Table 10.9: an iterator record. -/
def chainIter (bs : List Byte) : Iter :=
  let w := leNat ((bs.drop 8).take 8)
  { base := BitVec.ofNat 64 (leNat (bs.take 8)), ftz := bitsOf w 15 1 = 1, rm := bitsOf w 12 3, ndim := bitsOf w 10 2 + 1,
    bcast := bitsOf w 6 4, scratch := bitsOf w 5 1 = 1, fmt := bitsOf w 0 5, size := fours bs 0x10,
    str := (fours bs 0x20).map fun x => signedOf x 32, idx := fours bs 0x30 }

/-- The rsvd bits of an iterator record. -/
def iterRsvd (bs : List Byte) : Bool := leNat ((bs.drop 10).take 6) ≠ 0

/-- The header and the iterators of a chain record. -/
structure ChainRec where
  ops : List ChainOp
  nin : Nat
  nout : Nat
  sel0 : Nat
  sel1 : Nat
  ins : List Iter
  outs : List Iter
  rsvd : Bool
  deriving DecidableEq, Repr

/-- The counts of a chain's control word (Table 10.8). -/
def chainCtl (bs : List Byte) : Nat := leNat ((bs.drop 0x40).take 4)
def chainNin (bs : List Byte) : Nat := bitsOf (chainCtl bs) 3 3
def chainNout (bs : List Byte) : Nat := bitsOf (chainCtl bs) 6 2

/-- How many bytes a chain record takes, by its header. -/
def chainLen (bs : List Byte) : Nat := 128 + 64 * (chainNin bs + chainNout bs)

/-- R287: a chain record. -/
def chainRec (bs : List Byte) : ChainRec :=
  let w := chainCtl bs
  let nops := bitsOf w 0 3 + 1
  let its := (List.range (chainNin bs + chainNout bs)).map fun k => (bs.drop (128 + 64 * k)).take 64
  { ops := (List.range nops).map fun k => chainOp (bs.drop (8 * k))
    nin := chainNin bs
    nout := chainNout bs
    sel0 := bitsOf w 8 4
    sel1 := bitsOf w 12 4
    ins := (its.take (chainNin bs)).map chainIter
    outs := (its.drop (chainNin bs)).map chainIter
    rsvd := bitsOf w 16 16 ≠ 0 || leNat ((bs.drop 0x48).take 56) ≠ 0 ||
      ((List.range 8).any fun k => chainOpRsvd (bs.drop (8 * k))) || its.any iterRsvd }

/-- How many sources an FN reads. -/
def chainReads (fn : Nat) : Nat := if fn = 4 then 3 else if fn ≤ 6 then 2 else 1

/-- R288: is a selector out of range for operation `k` of a chain of `nin` inputs? -/
def selBad (nin k sel : Nat) : Bool := if sel < 4 then nin ≤ sel else if sel < 12 then k ≤ sel - 4 else sel = 15

/-- R287, R288: is an operation refused? -/
def chainOpBad (nin k : Nat) (o : ChainOp) : Bool :=
  o.fn = 0 || 15 < o.fn || (if 7 ≤ o.fn then o.rm ≠ 0 else 4 < o.rm) || selBad nin k o.sela ||
    (if 2 ≤ chainReads o.fn then selBad nin k o.selb else o.selb ≠ 13) ||
    (if 3 ≤ chainReads o.fn then selBad nin k o.selc else o.selc ≠ 13)

/-- R288: is an output's selector refused? An output names an input, a result or a constant of every operation. -/
def outSelBad (nin nops sel : Nat) : Bool := selBad nin nops sel || sel = 12

/-- Is a dimension one of an iterator, and broadcast? -/
def Iter.has (x : Iter) (d : Nat) : Bool := d < x.ndim
def Iter.bc (x : Iter) (d : Nat) : Bool := x.bcast.testBit d

/-- R288: is an index of an iterator beyond its extent? -/
def idxBad (x : Iter) : Bool := (List.range 4).any fun d => x.has d && x.size.getD d 0 ≤ x.idx.getD d 0

/-- R288: does an iterator disagree with output 0? -/
def iterBad (o x : Iter) : Bool :=
  x.ndim ≠ o.ndim || (List.range 4).any fun d =>
    x.has d && (if x.bc d then x.size.getD d 0 ≠ 1
      else x.size.getD d 0 ≠ o.size.getD d 0 || x.idx.getD d 0 ≠ o.idx.getD d 0)

/-- R288: is the format of an input or an output refused? -/
def inFmtBad (f : Nat) : Bool := f = 1 || 13 ≤ f
def outFmtBad (f : Nat) : Bool := 16 ≤ f

/-- R288: is a chain record refused? -/
def ChainRec.bad (r : ChainRec) : Bool :=
  r.rsvd || 4 < r.nin || r.nout = 0 || 2 < r.nout ||
  (r.ops.zipIdx.any fun x => chainOpBad r.nin x.2 x.1) ||
  outSelBad r.nin r.ops.length r.sel0 || (r.nout = 2 && outSelBad r.nin r.ops.length r.sel1) ||
  (r.ins.any fun x => inFmtBad x.fmt || x.rm ≠ 0) || (r.outs.any fun x => outFmtBad x.fmt || 4 < x.rm) ||
  (match r.outs with
    | o :: rest => ((r.ins ++ r.outs).any idxBad) || (r.ins ++ rest).any fun x => iterBad o x
    | [] => true)

/-! ## Elements -/

/-- The bytes of an element; an i4 element is a nibble of one. -/
def elemBytes (fmt : Nat) : Nat := (fmtBits fmt + 7) / 8

/-- R288: the element number of an iterator at an index vector. -/
def Iter.elem (x : Iter) (at_ : List Nat) : Int :=
  (List.range x.ndim).foldl (fun e d => if x.bc d then e else e + (at_.getD d 0 : Int) * x.str.getD d 0) 0

/-- R288: the byte address of an element, and whether it is the upper nibble of an i4 byte. -/
def Iter.place (x : Iter) (at_ : List Nat) : Int × Bool :=
  let e := x.elem at_
  let base : Int := if x.scratch then bitsOf x.base.toNat 0 24 else x.base.toNat
  if x.fmt = fmtI4 then (base + e / 2, e % 2 = 1) else (base + e * elemBytes x.fmt, false)

/-- The index vector after one of output 0, dimension 0 fastest; none behind the last. -/
def nextIndex : List (Nat × Nat) → Option (List Nat)
  | [] => none
  | (x, n) :: rest =>
    if x + 1 < n then some ((x + 1) :: rest.map (·.1))
    else (nextIndex rest).map fun r => 0 :: r

/-- The index vector after `at_` in the iteration space of an iterator. -/
def Iter.after (o : Iter) (at_ : List Nat) : Option (List Nat) :=
  (nextIndex ((at_.take o.ndim).zip (o.size.take o.ndim))).map fun r => r ++ at_.drop o.ndim

/-- The bytes of an element of an iterator. -/
def State.chRead (s : State) (c : Chain) (t : Team) (x : Iter) (at_ : List Nat) : SpanRead :=
  let a := (x.place at_).1
  let n := elemBytes x.fmt
  if x.scratch then
    if a < 0 ∨ s.scrSize c.t.tid < a + n then .fault fcScratch (a % 2 ^ 64).toNat none
    else .ok (s.sreads c.t.tid a.toNat n) (s.slabel c.t.tid a.toNat n)
  else if a < 0 ∨ 2 ^ 57 < a + n then .fault fcAddress (a % 2 ^ 64).toNat none
  else s.engSpan c.t.tid c.core t c.got a.toNat n

/-- An element's code from its bytes. -/
def Iter.code (x : Iter) (at_ : List Nat) (bs : List Byte) : Nat :=
  let v := leNat bs
  if x.fmt = fmtI4 then (if (x.place at_).2 then v / 16 else v % 16) else v % 2 ^ fmtBits x.fmt

/-- The bytes that an element's code leaves, given those that stood there. -/
def Iter.bytes (x : Iter) (at_ : List Nat) (was : List Byte) (code : Nat) : List Byte :=
  if x.fmt = fmtI4 then
    let v := leNat was
    natLE 1 (if (x.place at_).2 then v % 16 + 16 * (code % 16) else v / 16 * 16 + code % 16)
  else natLE (elemBytes x.fmt) code

/-! ## The operations -/

/-- R287: the value of a selector. -/
def selVal (ins ts : List FV) (kv : Word) (sel : Nat) : FV :=
  if sel < 4 then ins.getD sel (.fin false 0 0)
  else if sel < 12 then ts.getD (sel - 4) (.fin false 0 0)
  else if sel = 12 then decode5 fmtF32 kv.toNat
  else if sel = 14 then .fin false 1 0
  else .fin false 0 0

/-- R289: one operation, as the class 1 or 2 instruction with its RM and FTZ (R221 to R229). -/
def chainFn (o : ChainOp) (x y z : FV) : FV × BitVec 8 :=
  let (x, fx) := x.ftz o.ftz
  let (y, fy) := if 2 ≤ chainReads o.fn then y.ftz o.ftz else (y, 0)
  let (z, fz) := if 3 ≤ chainReads o.fn then z.ftz o.ftz else (z, 0)
  let fl := fx ||| fy ||| fz
  if o.fn = 5 then (pickFp false false x y, fl)
  else if o.fn = 6 then (pickFp true false x y, fl)
  else
    let (v, f1) : FV × BitVec 8 :=
      match o.fn with
      | 1 => opFadd o.rm 0 x y z
      | 2 => opFsub o.rm 0 x y z
      | 3 => opFmul o.rm 0 x y z
      | 4 => opFfma o.rm 0 x y z
      | n => sfuVal (n - 7) x
    let (c, f2, _) := roundDraw fmtF32 o.rm o.ftz v 0
    (decode5 fmtF32 c, fl ||| f1 ||| f2)

/-- R289: the operations of one element, in order. -/
def chainOps (ins : List FV) (ops : List ChainOp) : List FV × BitVec 8 :=
  ops.foldl (fun (ts, fl) o =>
    let (v, f) := chainFn o (selVal ins ts o.kv o.sela) (selVal ins ts o.kv o.selb) (selVal ins ts o.kv o.selc)
    (ts ++ [v], fl ||| f)) ([], 0)

/-- R289: an output's code and flags; FTZ flushes a subnormal FP32 result (R145). -/
def chainOut (x : Iter) (v : FV) : Nat × BitVec 8 :=
  let (c, fl, _) := roundDraw x.fmt x.rm x.ftz v 0
  (c, fl)

/-! ## The element step -/

def State.setChain (s : State) (id : Nat) (f : Chain → Chain) : State :=
  { s with e.chains := s.e.chains.map fun c => if c.id = id then f c else c }

/-- R264: a chain ends its team. -/
def State.chainFault (s : State) (c : Chain) (code va : Nat) : State :=
  s.engFault c.t.tid fcChain code c.core c.pc va c.roff

/-- R290: a translation fault holds the chain, with a resolvable report. -/
def State.chainHold (s : State) (c : Chain) (va : Nat) (t : Tr) : State :=
  match t with
  | .page pf code detail gpa _ =>
    let (tok, s) := s.resolvable c.t.tid (some c.id) pf code detail gpa c.core 0 0 c.pc 0 va
    s.setChain c.id fun c => { c with held := some tok, again := true, got := [], elem := none, due := none }
  | _ => s.chainFault c fcTrans va

/-- R100: a refused access of an element is retried, and the chain ends its team 1 ms after the first refusal. -/
def State.chainRefused (s : State) (c : Chain) : State :=
  let first := c.refused.getD s.clk.tclk
  if overdue first s.clk.tclk then s.chainFault c fcPinned 0
  else
    let n := if c.refused.isSome then min 1024 (2 * c.backoff) else 32
    s.setChain c.id fun c => { c with refused := some first, backoff := n, retryAt := tryAt first s.clk.tclk n }

/-- How the write of a chain's element ends. -/
inductive ChEnd where
  | ok
  | refused
  | fault (code va : Nat) (page : Option Tr)
  deriving DecidableEq, Repr

/-- What the write of a chain's element gives: the GWCT of its parts, how many of them go to other stations, and how it ends. -/
structure ChWrite where
  gwct : DWord
  sent : Nat
  how : ChEnd
  deriving DecidableEq, Repr

/-- R115, R289: an output element is written, part by part. -/
def State.chWrite (s : State) (c : Chain) (t : Team) (x : Iter) (at_ : List Nat) (bs : List Byte) (lbl : Label) :
    State × ChWrite :=
  let a := (x.place at_).1
  if x.scratch then
    if a < 0 ∨ s.scrSize c.t.tid < a + bs.length then (s, ⟨0, 0, .fault fcScratch (a % 2 ^ 64).toNat none⟩)
    else ((s.swrites c.t.tid a.toNat bs).sjoin c.t.tid a.toNat bs.length lbl, ⟨0, 0, .ok⟩)
  else if a < 0 ∨ 2 ^ 57 < a + bs.length then (s, ⟨0, 0, .fault fcAddress (a % 2 ^ 64).toNat none⟩)
  else
    (pieces a.toNat bs.length 8).foldl (fun (s, w) p =>
      if w.how ≠ .ok then (s, w)
      else
        let part := (bs.drop (p.1 - a.toNat)).take p.2
        match s.engWrite c.t.tid c.core t.part t.ctx p.1 part lbl with
        | (s, .ok g) => (s, { w with gwct := maxTime w.gwct g })
        | (s, .fab st off) =>
          (s.sendReq (OutReq.write t.part t.ctx t.run st off lbl part (.chain c.id 0)), { w with sent := w.sent + 1 })
        | (s, .refused) => (s, { w with how := .refused })
        | (s, .fault code page) => (s, { w with how := .fault code p.1 page })) (s, ⟨0, 0, .ok⟩)

/-- The bits that an element takes: the first, and the one behind the last. -/
def Iter.bits (x : Iter) (at_ : List Nat) : Int × Int :=
  let (a, hi) := x.place at_
  let b := 8 * a + (if hi then 4 else 0)
  (b, b + (if x.fmt = fmtI4 then 4 else 8 * elemBytes x.fmt))

/-- R290: does an output element alias an input element, in one space? -/
def chAlias (c : Chain) (o : Iter) (at_ : List Nat) : Bool :=
  c.ins.any fun x =>
    let a := x.bits at_
    let b := o.bits at_
    x.scratch = o.scratch && a.1 < b.2 && b.1 < a.2

/-- What stands in an output's byte (for a nibble), or nothing to know. -/
def State.chWas (s : State) (c : Chain) (t : Team) (o : Iter) (at_ : List Nat) : SpanRead :=
  if o.fmt = fmtI4 then s.chRead c t o at_ else .ok [] 0

/-- R290: the bytes of an output element; undefined where a restarted element aliases its inputs. -/
def State.chBytes (s : State) (c : Chain) (o : Iter) (at_ : List Nat) (was : List Byte) (code : Nat) : State × List Byte :=
  if c.again && chAlias c o at_ then
    let (ws, s) := s.freeWords 2
    (s, o.bytes at_ was (leNat (ws.flatMap fun w => natLE 4 w.toNat) % 2 ^ fmtBits o.fmt))
  else (s, o.bytes at_ was code)

/-- The chain stands behind its element. -/
def Chain.step (c : Chain) (at_ : List Nat) (e : ChElem) : Chain :=
  let next := (c.outs.head?).bind fun o => o.after at_
  { c with
    at_ := next
    flags := c.flags ||| e.flags
    resLbl := c.resLbl ||| e.lbl
    left := c.left - 1
    elem := none
    again := false
    refused := none
    backoff := 0
    got := []
    done := next.isNone }

/-- R264, R290: an access of a chain faults. -/
def State.chainStop1 (s : State) (c : Chain) (code va : Nat) (page : Option Tr) : State :=
  match page with
  | some p => s.chainHold c va p
  | none => s.chainFault c code va

/-- R289: the inputs of an element are read, and its outputs computed. -/
def State.chainRead (s : State) (c : Chain) (t : Team) (at_ : List Nat) : State :=
  let ins := c.ins.map fun x => s.chRead c t x at_
  match ins.foldl SpanRead.join (.ok [] 0) with
  | .fault code va page => s.chainStop1 c code va page
  | .refused => s.chainRefused c
  | .far rs => s.askSpan t (.chain c.id) rs
  | .ok _ _ =>
    let codes := (c.ins.zip ins).map fun x => (x.1.fmt, x.1.code at_ (match x.2 with | .ok bs _ => bs | _ => []))
    let lbl := ins.foldl (fun l r => match r with | .ok _ fl => l ||| fl | _ => l) c.lbl
    let vals := codes.map fun x => decode5 x.1 x.2
    let (ts, fl) := chainOps vals c.ops
    let os := c.outs.zipIdx.map fun x => chainOut x.1 (selVal vals ts 0 ([c.sel0, c.sel1].getD x.2 13))
    let fl := os.foldl (fun f o => f ||| o.2) (codes.foldl (fun f x => f ||| rsv4 x.1 x.2) fl)
    s.setChain c.id fun c =>
      { c with elem := some ⟨os.zipIdx.map fun o => (o.2, o.1.1), fl, lbl⟩, got := [], refused := none, backoff := 0 }

/-- R103, R289: an output of the element is written; the next waits until it has performed. -/
def State.chainWrite (s : State) (c : Chain) (t : Team) (at_ : List Nat) (e : ChElem) (o : Iter) (code : Nat)
    (rest : List (Nat × Nat)) : State :=
  match s.chWas c t o at_ with
  | .fault code va page => s.chainStop1 c code va page
  | .refused => s.chainRefused c
  | .far rs => s.askSpan t (.chain c.id) rs
  | .ok was _ =>
    let (s, bs) := s.chBytes c o at_ was code
    let (s, w) := s.chWrite c t o at_ bs e.lbl
    let s := s.setChain c.id fun c => { c with wait := c.wait + w.sent, gwct := maxTime c.gwct w.gwct }
    match w.how with
    | .ok => s.setChain c.id fun c => { c with elem := some { e with todo := rest }, got := [], refused := none, backoff := 0 }
    | .refused => s.chainRefused c
    | .fault code va page => s.chainStop1 c code va page

/-- R289: the next access of a chain's element, or the end of the element. -/
def State.chainElem (s : State) (c : Chain) (at_ : List Nat) : State :=
  match s.team? c.t.tid with
  | none => s
  | some t =>
    match c.elem with
    | none => s.chainRead c t at_
    | some e =>
      match e.todo with
      | [] => s.setChain c.id fun c => c.step at_ e
      | (m, code) :: rest =>
        match c.outs[m]? with
        | some o => s.chainWrite c t at_ e o code rest
        | none => s.setChain c.id fun c => { c with elem := some { e with todo := rest } }

/-- R331: the cycles of a step of 16 elements. -/
def Chain.stepTime (c : Chain) : Nat :=
  let w := c.ops.foldl (fun n o => n + (if o.fn < 7 then 1 else 4)) 0
  let its := c.ins ++ c.outs
  let glob := (its.filter fun x => !x.scratch).foldl (fun n x => n + 2 * fmtBits x.fmt) 0
  let scr := (its.filter fun x => x.scratch).foldl (fun n x => n + 2 * fmtBits x.fmt) 0
  max 1 (max ((w + 1) / 2) (max ((glob + 63) / 64) ((scr + 127) / 128)))

def State.chain? (s : State) (id : Nat) : Option Chain := s.e.chains.find? fun c => c.id = id

/-- Does a chain wait for another station: for bytes that it reads, or until a write has performed (R103)? -/
def State.chainReading (s : State) (id : Nat) : Bool := s.y.reqs.any fun q => (match q.who with | .chain c _ => c = id | _ => false) && q.kind = 0
def State.chainWaits (s : State) (c : Chain) : Bool := c.wait ≠ 0 || s.chainReading c.id

/-- R290: may a chain begin an element: its team is not being pre-empted? -/
def State.chainFree (s : State) (c : Chain) : Bool :=
  match s.team? c.t.tid with
  | some t => t.status = .resident
  | none => false

/-- Accesses of a chain, until its step is over, or it is held, refused, complete or waits for another station. The fuel counts
accesses and ends of elements. -/
def State.chainGo (s : State) (id : Nat) : Nat → State
  | 0 => s
  | n + 1 =>
    match s.chain? id with
    | none => s
    | some c =>
      match c.at_ with
      | none => s
      | some at_ =>
        if c.held.isSome || c.left = 0 || s.chainWaits c || DWord.past c.retryAt s.clk.tclk || (c.elem.isNone && !s.chainFree c) then s
        else (s.chainElem c at_).chainGo id n

/-- R289, R290: the chain that a core's Churn turns to: the one whose step is under way, or else the earliest that is not held. -/
def State.chainHead (s : State) (core : Nat) : Option Chain :=
  let xs := s.e.chains.filter fun c => c.core = core && !c.done && c.held.isNone && (s.chainFree c || c.elem.isSome)
  (xs.find? fun c => c.due.isSome).orElse fun _ => xs.head?

/-- R289, R331: what the Churn does for a chain: it begins a step of 16 elements, or the step ends. -/
def State.chainStep (s : State) (c : Chain) : State :=
  match c.due with
  | none => s.setChain c.id fun c => { c with due := some (s.clk.cycle + c.stepTime), left := 16 }
  | some _ =>
    if c.refused.any fun f => overdue f s.clk.tclk then s.chainFault c fcPinned 0
    else
      (s.chainGo c.id 80).setChain c.id fun c =>
        if c.left = 0 || c.done || c.held.isSome then { c with due := none, left := 0 } else c

/-- R289: CHAIN_ELEMENT_STEP. -/
def execChainElementStep (core : Nat) (s : State) : Host.Outcome State Fault Refusal :=
  match s.chainHead core with
  | some c => .next (s.chainStep c)
  | none => .next s

/-- R331: does a core's Churn do something now? -/
def State.chainDue (s : State) (core : Nat) : Bool :=
  match s.chainHead core with
  | some c =>
    (match c.due with
      | none => c.start ≤ s.clk.cycle
      | some d => d ≤ s.clk.cycle && !DWord.past c.retryAt s.clk.tclk && !s.chainWaits c && (c.elem.isSome || s.chainFree c))
  | none => false

/-! ## CHAIN and CHWAIT -/

/-- R289: does a core's Churn hold fewer than 8 incomplete chains? -/
def State.chRoom (s : State) (core : Nat) : Bool := (s.e.chains.filter fun c => c.core = core && !c.done).length < 8

/-- R287: the bytes of a chain record at an offset, and the lines that its lane waits for. -/
def State.chainBytes (s : State) (l : Lane) (a : Nat) : Except Park (List Byte) :=
  match s.recBytes l a 128 with
  | .error why => .error why
  | .ok h => s.recBytes l a (chainLen h)

/-- R263: the record of a chain runs past the scratchpad. -/
def State.chainFlt (s : State) (i : Iss) (l : Lane) : Option Flt :=
  match s.recFlt i 128 l with
  | some f => some f
  | none =>
    let a := s.recOff i l
    match s.recBytes l a 128 with
    | .ok h => if s.scrSize l.t.tid < a + chainLen h then some ⟨fcScratch, 0, a, 0⟩ else none
    | .error _ => none

/-- R288, R289: one lane of CHAIN. -/
def State.chainLane (s : State) (i : Iss) (k : Taking) (l : Lane) : State × Taking :=
  let a := s.recOff i l
  match s.chainBytes l a with
  | .error _ => (s, k)
  | .ok bs =>
    let r := chainRec bs
    if r.bad then (s.judge i.g [l] fun _ => some ⟨fcChainRec, 0, 0, a⟩, k)
    else if !s.chRoom i.g.core then (s, { k with room := some (1, i.g.core) })
    else
      let (id, s') := s.freshId
      let c : Chain :=
        { id := id, core := i.g.core, t := l.t, pc := i.g.pc, roff := a, ops := r.ops, ins := r.ins, outs := r.outs,
          sel0 := r.sel0, sel1 := r.sel1, lbl := s.cmdLbl i l a bs.length, at_ := r.outs.head?.map (·.idx), flags := 0,
          gwct := 0, start := s.clk.cycle + 32, due := none, left := 0, elem := none, held := none, again := false, resLbl := 0,
          done := false, refused := none, backoff := 0, retryAt := 0, got := [], wait := 0 }
      ({ s' with e.chains := s'.e.chains ++ [c] }, { k with taken := k.taken ++ [(l.t, id)] })

/-- R263: the lanes whose chain record lies on an absent line park. -/
def State.chainStop (s : State) (i : Iss) : State × List (Lane × Park) :=
  (s, mergeLines ((s.untaken i).filterMap fun l =>
    match s.chainBytes l (s.recOff i l) with
    | .error why => some (l, why)
    | .ok _ => none))

/-- Does a chain write global memory? -/
def State.chainCloses (s : State) (l : Lane) (a : Nat) : Bool :=
  match s.chainBytes l a with
  | .ok bs => (chainRec bs).outs.any fun x => !x.scratch
  | .error _ => false

/-- R289: CHAIN. -/
def chainMeaning : Meaning where
  flt s i l := s.chainFlt i l
  closes s i l := s.chainCloses l (s.recOff i l)
  hold s i := s.takeLanes i fun s k l => s.chainLane i k l
  stop s i := s.chainStop i
  eff s i := s.tokDown i.f.tok (i.on.map (·.t))

/-- R291: the chains of a thread. -/
def State.chainsOf (s : State) (t : TRef) : List Nat := (s.e.chains.filter fun c => c.t = t).map (·.id)

/-- R90, R149, R291: the wait of a thread ends: its chains' GWCTs join WCT, and their flags and labels FSTAT. -/
def State.takeChains (s : State) (t : TRef) (ids : List Nat) : State :=
  let cs := s.e.chains.filter fun c => ids.contains c.id
  let s := cs.foldl (fun s c => s.joinWct t c.gwct) s
  let s := s.setThr t fun h => { h with fstat := cs.foldl (fun f c => f ||| c.flags) h.fstat }
  let s := cs.foldl (fun s c => s.joinTileLbl t.g .fstat c.resLbl) s
  { s with e.chains := s.e.chains.filter fun c => !ids.contains c.id }

/-- R291: CHWAIT. -/
def chwaitMeaning : Meaning where
  hold s i :=
    let want := match i.g.hold with
      | some h => h.chains
      | none => i.on.map fun l => (l.t, s.chainsOf l.t)
    let h : Hold := { chains := want }
    if want.any fun w => s.e.chains.any fun c => w.2.contains c.id && !c.done then (s, some h)
    else (s.setIg i.g.id fun g => { g with hold := some h }, none)
  eff s i :=
    let want := match s.ig? i.g.id with
      | some g => (match g.hold with | some h => h.chains | none => [])
      | none => []
    let s := i.on.foldl (fun s l => s.takeChains l.t (mget [] want l.t)) s
    s.tokDown i.f.tok (i.on.map (·.t))

/-! ## The instructions -/

/-- R289: CHAIN, short form. -/
def execChain (f : SForm) (s : State) : Host.Outcome State Fault Refusal := runWord (.chain f) chainMeaning s

/-- R289: CHAIN, long form. -/
def execChainLong (f : LForm) (s : State) : Host.Outcome State Fault Refusal := runWord (.chainLong f) chainMeaning s

/-- R291: CHWAIT, short form. -/
def execChwait (f : SForm) (s : State) : Host.Outcome State Fault Refusal := runWord (.chwait f) chwaitMeaning s

/-- R291: CHWAIT, long form. -/
def execChwaitLong (f : LForm) (s : State) : Host.Outcome State Fault Refusal := runWord (.chwaitLong f) chwaitMeaning s

end Sys2Proof.Machine
end

