-- ==== Sys2Proof/Machine/Fetch.lean ====
section
/-! DEFINITION. Fetching the word at which the selected issue group stands, the passing of one cycle, and how a program's
word is placed where the next step fetches it (R6, R26, R168, R178, R187). -/

namespace Sys2Proof.Machine

open Sys2Proof

/-- The words of an issue group's clause from the place at which it stands (R26). -/
def State.groupWords (s : State) (g : IssueGroup) : List Word :=
  (List.range ((g.endPc - g.pc) / 4)).filterMap fun k => s.codeWord g.part g.ctx (g.pc + 4 * k)

/-- What the selected issue group's next word decodes to (R187). -/
def State.fetched (s : State) (g : IssueGroup) : Except EncFault (Instr × Nat) := decode g.cls (s.groupWords g)

/-- R187: a word that decodes to no instruction ends every member team. -/
def State.encStop (s : State) (g : IssueGroup) (e : EncFault) : State :=
  let s := { s with clk.cur := none }
  s.judge g (s.members g.id) fun _ => some (encFlt e)

/-- The quadrants whose turn it is to issue (R5, R26). -/
def State.quadrants (s : State) : List (Nat × Nat) :=
  sortBy (fun x => 4 * x.1 + x.2) <| dedup (s.sch.paths.filterMap fun p =>
    match p.state with
    | .runnable => some (p.core, p.quad)
    | .inClause _ => some (p.core, p.quad)
    | _ => if p.gateId.isSome then some (p.core, p.quad) else none)

/-- R6: one cycle of 1.3 GHz passes, 10/13 ns of the transit clock; results that are due are written (R179), and every
quadrant has its turn. -/
def State.tick (s : State) : State :=
  let f := s.clk.tfrac + 10
  let s := { s with
    clk.cycle := s.clk.cycle + 1
    clk.tclk := if 13 ≤ f then s.clk.tclk + 1 else s.clk.tclk
    clk.tfrac := if 13 ≤ f then f - 13 else f }
  let s := s.applyDue
  { s with clk.todo := s.quadrants }

/-! ## Placing a program's word (assumption 14) -/

/-- A stage that one group of 32 threads runs, with every optional part absent. -/
def plainStage : Stage :=
  { inkind := 0, inidx := 0, outs := [], width := 32, groups := 1, rows := 16, spare := 0, depthmax := 0, weight := 1, pln := 0,
    regu := 1, scru := 1, vatu := 1, l1u := 0, batchwait := 0, check := false, fairx := 3, progress := false, entry := 0,
    ientry := 0, traph := 0xFFFFFFFF, inl := false, irows := 0, hasRec := false, recbase := 0, stkbase := 0, stksz := 0,
    jrole := List.replicate 16 0xFFFFFFFF, chan := [], dpgrp := 0, drolemap := [0], const := [], constLbl := 0, desc := [] }

/-- A resident team of one stage run. -/
def plainTeam (run : Nat) (began : DWord) : Team :=
  { part := 0, ctx := 0, stage := 0, run := run, team := 0, width := 32, groups := 1, core := 0, core2 := none, slot := 0,
    slot2 := none, status := .resident, began := began, drainBy := none, progress := false, fairx := 3, teamctlLbl := 0,
    check := false, ckmodeLbl := 0, clean := true, chan := List.replicate 16 0, freeRows := [0, 0],
    bars := List.replicate 16 {}, dealt := 0, first := [], param := 0, arc := 0, launchLbl := 0, count := 1, pgrp := 0,
    rolemap := [0], vatFree := [0, 1], vatBack := [], promoteAt := none, gang := none, moving := false, savedAt := 0, noSave := false }

/-- The code image that holds one instruction's words behind a header. -/
def plainCode (cls : Nat) (ws : List Word) : List Word := headerWord ws.length cls 0 7 false false :: ws

/-- Put one live thread of a new team into a clause of a code image, at its first word, as the selected issue group. A convergence
point issues there for its complete set, the one thread. -/
def State.withClause (s : State) (cls : Nat) (ws : List Word) : State :=
  let id := s.clk.fresh
  let g : GRef := ⟨id, 0⟩
  let t : TRef := ⟨id, 0, 0⟩
  let c : Context := { root := none, code := plainCode cls ws, stages := [(0, plainStage)], ttabs := [] }
  let r : Run :=
    { part := 0, ctx := 0, stage := 0, total := some 1, next := 1, ended := 0, stores := 0, terminated := false,
      reported := false, arc := 0 }
  let grp : Group := { producer := true, roleid := 0, rows := 16, core := 0, quad := 0, half := 0, row := 0 }
  let p : Path :=
    { id := id, g := g, core := 0, quad := 0, pc := 0, mask := 1, scopes := [⟨1, 0⟩], ctxLbl := 0, state := .inClause id,
      since := s.clk.cycle, promoted := false, hint := false, readyAt := s.clk.cycle, mid := none, named := 0, gateId := none }
  let ig : IssueGroup :=
    { id := id, core := 0, quad := 0, part := 0, ctx := 0, stage := 0, cls := cls, hdr := 0, pc := 4,
      endPc := 4 + 4 * ws.length, yld := false, formed := s.clk.cycle, notBefore := s.clk.cycle, chk := [], hold := none,
      setAt := some s.clk.cycle }
  let s := s.setPart 0 fun x => { x with ctxs := mset x.ctxs 0 c }
  let s := { s with
    clk.fresh := id + 1
    clk.cur := some id
    sch.teams := mset s.sch.teams id (plainTeam id s.clk.tclk)
    sch.groups := mset s.sch.groups g grp
    sch.paths := s.sch.paths ++ [p]
    sch.igs := s.sch.igs ++ [ig]
    sch.runs := mset s.sch.runs id r }
  s.setThr t fun h => { h with live := true }

/-- How many words an instruction of the opcode table takes. -/
def tableLen (ws : List Word) : Nat :=
  match ws with
  | w :: _ => wordLen w
  | [] => 0

/-- The words and the engine class of an instruction given as the opcode table numbers its bits. -/
def fetchWords (nbits w : Nat) : Nat × List Word :=
  let ws := tableWords (w % 2 ^ nbits)
  let cls := match tableClass ws with | some (c, _) => c | none => 0
  (cls, ws.take (tableLen ws))

end Sys2Proof.Machine
end

