-- ==== Sys2Proof/Machine/Branch.lean ====
section
/-! DEFINITION. Branches, calls, traps and exits: where each thread goes, how a path splits, its labels and its scope
stack (R30, R31, R33, R178, R201 to R206). -/

namespace Sys2Proof.Machine

open Sys2Proof

/-- R178: is an address a legal target of a context: aligned, in the code image, and marked as a header? -/
def State.targetOk (s : State) (part ctx pc : Nat) : Bool :=
  match s.codeWord part ctx pc with
  | some w => hMark w == 0x3F
  | none => false

/-- The illegal-target fault of a branch to an address, if any. -/
def State.targetFlt (s : State) (i : Iss) (pc : Nat) : Option Flt :=
  if s.targetOk i.g.part i.g.ctx pc then none else some ⟨fcTarget, 0, pc, 0⟩

/-- R30: the arms of a path: each target with its lanes. -/
def armsOf (ls : List (Nat × Nat)) : List (Nat × List Nat) :=
  (dedup (ls.map (·.1))).map fun t => (t, (ls.filter fun x => x.1 = t).map (·.2))

/-- R30: the order of arms. Under a conditional branch the larger arm comes first, and on equal counts the fall-through
arm; otherwise arms go by descending count and then by ascending address. -/
def orderArms (cond : Bool) (fall : Nat) (arms : List (Nat × List Nat)) : List (Nat × List Nat) :=
  let byPc := if cond then sortBy (fun a => if a.1 = fall then 0 else 1) arms else sortBy (fun a => a.1) arms
  sortBy (fun a => 64 - a.2.length) byPc

/-- R31: the scope stack of the arms of a path that splits: a push unless the member set is the top set. -/
def State.pushScope (s : State) (p : Path) (lbl : Label) : List Scope :=
  if p.mask = s.topSet p then p.scopes else ⟨p.mask, lbl⟩ :: p.scopes

/-- R30, R31: a path leaves its issue group for the targets of its lanes. `lbl` is its context label before the branch. -/
def State.splitTo (s : State) (g : IssueGroup) (p : Path) (lbl : Label) (arms : List (Nat × List Nat)) : State :=
  match arms with
  | [] => s
  | [(pc, _)] => s.leave g p.id pc
  | arms =>
    let scopes := s.pushScope p lbl
    let fresh := s.clk.fresh
    let new := arms.zipIdx.map fun ((pc, ls), k) =>
      { p with
        id := if k = 0 then p.id else fresh + k
        mask := maskOf ls
        scopes := scopes
        state := .runnable
        pc := pc
        hint := g.yld
        mid := none
        gateId := none }
    { s with
      clk.fresh := fresh + arms.length
      sch.paths := s.sch.paths.flatMap fun (q : Path) => if q.id = p.id then new else [q] }

/-- R33, R201: a branch of every path of the group. `fall` is where the other lanes go, `tgt` the target of a lane that
takes it, and `lbl` the label of the register that names it. -/
def State.branchFrom (s : State) (i : Iss) (cond : Bool) (fall : Nat) (tgt : Lane → Nat) (lbl : Lane → Label) : State :=
  (s.sch.paths.filter fun p => p.state = .inClause i.g.id).foldl (fun s p =>
    let ls := s.pathLanes p
    let on := ls.filter fun l => (i.on.map (·.t)).contains l.t
    let s := s.joinCtx p.id (on.foldl (fun a l => a ||| lbl l) 0)
    let to_ := ls.map fun l => (if (i.on.map (·.t)).contains l.t then tgt l else fall, l.t.lane)
    match s.path? p.id with
    | some p' => s.splitTo i.g p' (((i.ctx0.find? fun x => x.1 = p.id).map (·.2)).getD 0)
        (orderArms cond fall (armsOf to_))
    | none => s) s

/-- R201: a branch whose other lanes go on behind it. -/
def State.branch (s : State) (i : Iss) (cond : Bool) (tgt : Lane → Nat) (lbl : Lane → Label) : State :=
  s.branchFrom i cond (i.g.pc + 4 * i.f.len) tgt lbl

/-- R202: CALL and CALLX write LINK, with the thread's context label. -/
def State.setLink (s : State) (ls : List Lane) (pc : Nat) : State :=
  ls.foldl (fun s l => s.setThr l.t fun h => { h with link := BitVec.ofNat 32 pc, linkLbl := l.ctx }) s

/-- No label but those that the path holds already. -/
def noLbl (_ : Lane) : Label := 0

/-- R177: the target of a branch with an offset: the branch word's address + 4 × OFFSET. -/
def offTarget (pc : Nat) (off : BitVec 18) : Nat := (((pc : Int) + 4 * off.toInt) % 2 ^ 32).toNat

/-- R201: the value of the TARGET register in a lane. -/
def State.regTarget (s : State) (i : Iss) (l : Lane) : Nat := s.rd32 l.t 0 i.f.a

/-- R201: the label of the TARGET register. -/
def State.regLbl (s : State) (i : Iss) (l : Lane) : Label := s.opLbl l.g i.f.a 1

def braMeaning (off : BitVec 18) : Meaning where
  flt s i _ := s.targetFlt i (offTarget i.g.pc off)
  eff s i := s.branch i true (fun _ => offTarget i.g.pc off) noLbl

def brxMeaning : Meaning where
  flt s i l := s.targetFlt i (s.regTarget i l)
  eff s i := s.branch i false (s.regTarget i) (s.regLbl i)

def callMeaning (off : BitVec 18) : Meaning where
  flt s i _ := s.targetFlt i (offTarget i.g.pc off)
  eff s i := (s.setLink i.on (i.g.pc + 4)).branch i true (fun _ => offTarget i.g.pc off) noLbl

def callxMeaning : Meaning where
  flt s i l := s.targetFlt i (s.regTarget i l)
  eff s i := (s.setLink i.on (i.g.pc + 4)).branch i false (s.regTarget i) (s.regLbl i)

/-- R296: a RET to the top of the thread's inline return stack pops it and lowers INLDEPTH. -/
def Thread.popInline (h : Thread) : Thread :=
  match h.inlStack with
  | e :: rest => if e.ret = h.link.toNat then { h with inlStack := rest, inlDepth := h.inlDepth - 1 } else h
  | [] => h

def retMeaning : Meaning where
  flt s i l := s.targetFlt i (s.thr l.t).link.toNat
  eff s i :=
    let s' := i.on.foldl (fun s l => s.setThr l.t Thread.popInline) s
    s'.branch i false (fun l => (s.thr l.t).link.toNat) fun l => (s.thr l.t).linkLbl

/-- R203: threads stop being live and leave their paths at once. -/
def State.exitThreads (s : State) (ls : List Lane) : State :=
  let s := ls.foldl (fun s l => s.setThr l.t fun h => { h with live := false }) s
  let off := fun (p : Path) => maskOf ((ls.filter fun l => l.pid = p.id).map fun l => l.t.lane)
  let paths := s.sch.paths.map fun (p : Path) => { p with mask := p.mask &&& ~~~(off p) }
  { s with sch.paths := paths.filter fun (p : Path) => p.mask ≠ 0 }

def exitMeaning : Meaning where
  eff s i := (s.exitThreads i.on).settleTeams i.on

/-! ## TRAP, JROLE and YIELD -/

/-- R204: the handler of a lane's stage, 0xFFFFFFFF for none (Table 18.4). -/
def State.trapHandler (s : State) (i : Iss) : Option Nat :=
  match s.stage? i.g.part i.g.ctx i.g.stage with
  | some st => if st.traph = 0xFFFFFFFF then none else some st.traph
  | none => none

def trapMeaning : Meaning where
  flt s i l :=
    let n := s.rd32 l.t i.f.lit i.f.b
    if 16 ≤ n then some ⟨fcOperand, 0, 0, 0⟩
    else
      match s.trapHandler i with
      | none => some ⟨fcTrap, n, 0, 0⟩
      | some _ => none
  eff s i :=
    let s' := i.on.foldl (fun s' l => s'.setThr l.t fun h => { h with
      trapno := s.rd32 l.t i.f.lit i.f.b
      trapLbl := s.opLbl l.g i.f.b 1 ||| l.ctx
      link := BitVec.ofNat 32 (i.g.pc + 4 * i.f.len)
      linkLbl := l.ctx }) s
    (s'.branch i true (fun _ => (s.trapHandler i).getD 0) noLbl).tokDown i.f.tok (i.on.map (·.t))

/-- R205: where JROLE sends a lane. -/
def State.jroleTarget (s : State) (i : Iss) (l : Lane) : Nat :=
  let dflt := (((i.g.pc : Int) + 4 * i.f.imm.toInt) % 2 ^ 32).toNat
  match s.stage? i.g.part i.g.ctx i.g.stage, s.group? l.g with
  | some st, some g =>
    let e := st.jrole.getD g.roleid 0xFFFFFFFF
    if e = 0xFFFFFFFF then dflt else e
  | _, _ => dflt

def jroleMeaning : Meaning where
  flt s i l := s.targetFlt i (s.jroleTarget i l)
  eff s i := (s.branch i true (s.jroleTarget i) noLbl).tokDown i.f.tok (i.on.map (·.t))

/-- R44: the Runnable paths of a path's group in its quadrant. -/
def State.runnableBeside (s : State) (p : Path) : List Path :=
  s.sch.paths.filter fun q => q.g = p.g && q.quad = p.quad && q.id ≠ p.id && q.state = .runnable

/-- R44: a path moves to the back of its group's list; the only Runnable path of its group stays. -/
def State.moveBack (s : State) (pid : Nat) : State :=
  match s.path? pid with
  | some p =>
    if (s.runnableBeside p).isEmpty then s
    else { s with sch.paths := (s.sch.paths.filter fun q => q.id ≠ pid) ++ [p] }
  | none => s

def yieldMeaning : Meaning where
  eff s i :=
    let s := (dedup (i.on.map (·.pid))).foldl (fun s pid => s.moveBack pid) s
    s.tokDown i.f.tok (i.on.map (·.t))

/-! ## The instructions -/

/-- R201: BRA. -/
def execBra (f : BForm) (s : State) : Host.Outcome State Fault Refusal := runWord (.bra f) (braMeaning f.off) s

/-- R201: BRX. -/
def execBrx (f : XForm) (s : State) : Host.Outcome State Fault Refusal := runWord (.brx f) brxMeaning s

/-- R201, R202: CALL. -/
def execCall (f : BForm) (s : State) : Host.Outcome State Fault Refusal := runWord (.call f) (callMeaning f.off) s

/-- R201, R202: CALLX. -/
def execCallx (f : XForm) (s : State) : Host.Outcome State Fault Refusal := runWord (.callx f) callxMeaning s

/-- R201, R202: RET. -/
def execRet (f : RForm) (s : State) : Host.Outcome State Fault Refusal := runWord (.ret f) retMeaning s

/-- R203: EXIT. -/
def execExit (f : RForm) (s : State) : Host.Outcome State Fault Refusal := runWord (.exit f) exitMeaning s

/-- R204: TRAP, short form. -/
def execTrap (f : SForm) (s : State) : Host.Outcome State Fault Refusal := runWord (.trap f) trapMeaning s

/-- R204: TRAP, long form. -/
def execTrapLong (f : LForm) (s : State) : Host.Outcome State Fault Refusal := runWord (.trapLong f) trapMeaning s

/-- R205: JROLE. -/
def execJrole (f : DForm) (s : State) : Host.Outcome State Fault Refusal := runWord (.jrole f) jroleMeaning s

/-- R44, R206: YIELD, short form. -/
def execYield (f : SForm) (s : State) : Host.Outcome State Fault Refusal := runWord (.yield f) yieldMeaning s

/-- R44, R206: YIELD, long form. -/
def execYieldLong (f : LForm) (s : State) : Host.Outcome State Fault Refusal := runWord (.yieldLong f) yieldMeaning s

end Sys2Proof.Machine
end

