-- ==== Sys2Proof/Machine/Queue.lean ====
section
/-! DEFINITION. Queues: positions, the hot ring and the Cellar, ready queues, published lengths and the core's view of
them (R47 to R51, R56, R57, R65, R428), and the capability table (R53, R54). -/

namespace Sys2Proof.Machine

open Sys2Proof

/-! ## Rings and Cellars -/

/-- Records in the ring, and in the Cellar, of all priorities together. -/
def Queue.ringLen (q : Queue) : Nat := q.rings.foldl (fun n r => n + r.length) 0
def Queue.cellarLen (q : Queue) : Nat := q.cellars.foldl (fun n r => n + r.length) 0

/-- R56: what a queue's records count: teams still to be launched for a launch record. -/
def QRec.count (x : QRec) : Nat := if x.launch.isSome then x.left else 1

/-- R56: the length of a queue without the saved teams of its stage. -/
def Queue.len (q : Queue) : Nat :=
  (q.rings ++ q.cellars).foldl (fun n r => r.foldl (fun n x => n + x.count) n) 0

/-- R51: full. -/
def Queue.full (q : Queue) : Bool := q.ring ≤ q.ringLen && q.cellarQuota ≤ q.cellarLen

/-- R50, R65: do `n` more records of a priority have places? -/
def Queue.fits (q : Queue) (p n : Nat) : Bool :=
  n ≤ (if (q.cellars.getD p []).isEmpty then q.ring - q.ringLen else 0) + (q.cellarQuota - q.cellarLen)

/-- R50: a record takes its place at the tail of the ring or of the Cellar. -/
def Queue.put (q : Queue) (p : Nat) (x : QRec) : Queue :=
  let q := { q with next := q.next + 1 }
  if (q.cellars.getD p []).isEmpty && q.ringLen < q.ring then { q with rings := setAt q.rings p (· ++ [x]) }
  else { q with cellars := setAt q.cellars p (· ++ [x]) }

/-- The priorities of a queue, highest first. -/
def Queue.prios (q : Queue) : List Nat := (List.range q.rings.length).reverse

/-- R50, R65: the priority from whose ring head a dequeue takes; none where there is nothing, or it waits for a refill. -/
def Queue.from? (q : Queue) : Option Nat :=
  match q.prios.find? fun p => !(q.rings.getD p []).isEmpty || !(q.cellars.getD p []).isEmpty with
  | none => none
  | some p =>
    if !(q.rings.getD p []).isEmpty then some p
    else if q.ringLen < q.ring then none
    else q.prios.find? fun p => !(q.rings.getD p []).isEmpty

/-- R50: does a dequeue that wants a record wait for a refill? -/
def Queue.waits (q : Queue) : Bool := q.from?.isNone && 0 < q.cellarLen

/-- The record that a dequeue takes next. -/
def Queue.head? (q : Queue) : Option QRec := q.from?.bind fun p => (q.rings.getD p []).head?

/-- A dequeue. -/
def Queue.pop? (q : Queue) : Option (QRec × Queue) :=
  match q.from? with
  | none => none
  | some p =>
    match q.rings.getD p [] with
    | [] => none
    | x :: rest => some (x, { q with rings := setAt q.rings p fun _ => rest })

/-- Up to `n` dequeues. -/
def Queue.popN (q : Queue) : Nat → List QRec × Queue
  | 0 => ([], q)
  | n + 1 =>
    match q.pop? with
    | none => ([], q)
    | some (x, q) => let (xs, q) := q.popN n; (x :: xs, q)

/-- R50, R65: one record moves from the Cellar head of the highest priority that holds any to its ring tail. -/
def Queue.refillOne (q : Queue) : Queue :=
  if q.ring ≤ q.ringLen then q
  else
    match q.prios.find? fun p => !(q.cellars.getD p []).isEmpty with
    | none => q
    | some p =>
      match q.cellars.getD p [] with
      | [] => q
      | x :: rest => { q with cellars := setAt q.cellars p (fun _ => rest), rings := setAt q.rings p (· ++ [x]) }

/-- R428: one refill step: up to 16 records. -/
def Queue.refillStep (q : Queue) : Queue := (List.range 16).foldl (fun q _ => q.refillOne) { q with refill := none }

/-- Table 17.3: the fill time of the Cellar's memory, which the model takes as first-tier memory (assumption 15). -/
def cellarFill : Nat := 650

/-- R428: a refill step starts while the ring has room and the Cellar holds records. -/
def Queue.startRefill (q : Queue) (cycle : Nat) : Queue :=
  if q.refill.isNone && q.ringLen < q.ring && 0 < q.cellarLen then { q with refill := some (cycle + cellarFill) } else q

/-! ## Queues of the state -/

def State.setQueue (s : State) (k : QKey) (f : Queue → Queue) : State :=
  match s.queue? k with
  | some q => { s with gr.queues := mset s.gr.queues k ((f q).startRefill s.clk.cycle) }
  | none => s

/-- R49: a record takes the next position of a queue. -/
def State.placeRec (s : State) (k : QKey) (p : Nat) (r : Rec) (lr : Option LRec) (left : Nat) : State :=
  s.setQueue k fun q => q.put p ⟨q.next, r, s.clk.tclk, lr, left⟩

/-- R51: no addition waits at a queue, and `n` more records fit. -/
def State.roomFor (s : State) (k : QKey) (p n : Nat) : Bool :=
  match s.queue? k with
  | some q => q.waiting.isEmpty && q.fits p n
  | none => false

/-- An addition begins to wait at a queue. -/
def State.waitAt (s : State) (k : QKey) (w : Waiter) : State := s.setQueue k fun q => { q with waiting := q.waiting ++ [w] }

/-! ## Views -/

/-- The die of a queue's home. -/
def State.homeDie (s : State) (k : QKey) : Nat :=
  match s.queue? k with
  | some q => sliceDie ((s.part k.part).slices.getD q.slice 0)
  | none => 0

/-- R57, R332: what a core's view holds of a queue. -/
def State.viewPub (s : State) (core : Nat) (k : QKey) : Pub :=
  if s.homeDie k = coreDie core then mget {} s.gr.near k else mget (mget {} s.gr.far k) s.gr.early k

/-- R57: the length of a queue in a core's view. -/
def State.viewLen (s : State) (core : Nat) (k : QKey) : Nat := (s.viewPub core k).len - mget 0 s.sch.sub (core, k)

/-- R57: a core subtracts records that it has dealt. -/
def State.subView (s : State) (core : Nat) (k : QKey) (n : Nat) : State :=
  { s with sch.sub := mupd 0 s.sch.sub (core, k) (· + n) }

/-! ## Capabilities -/

/-- R294: is a lane issuing its word again after it was charged? -/
def State.chargedLane (s : State) (l : Lane) : Bool := (s.path? l.pid).any fun p => p.charged ≠ 0

/-- R54, R294: the lanes of a lane's team that are charged by this issue. -/
def State.chargeCount (s : State) (i : Iss) (tid : Nat) : Nat :=
  (i.on.filter fun l => l.t.tid = tid && !s.chargedLane l).length

/-- R54, R294: the capability fault of a lane. `cost` says whether a lane is charged. -/
def State.capFlt (s : State) (i : Iss) (kinds : List Nat) (perm : Nat) (cost : Bool) (l : Lane) : Option Flt :=
  let e := s.chanOf l.t.tid i.f
  let n := if cost then s.chargeCount i l.t.tid else 0
  if s.chargedLane l then none
  else if !capValid e || !kinds.contains (capKind e) || !e.testBit perm ||
      (capAllow e ≠ 0xFFFFFFFF && capAllow e < n) then some ⟨fcCap, 0, 0, 0⟩
  else none

/-- R54: ALLOW of an entry falls. -/
def capCharge (n : Nat) (e : DWord) : DWord :=
  if capAllow e.toNat = 0xFFFFFFFF then e else e - BitVec.ofNat 64 (n * 2 ^ 32)

/-- R54: every team of an issue group is charged for its lanes. -/
def State.charge (s : State) (i : Iss) : State :=
  let s' := (tidsOf i.on).foldl (fun s' tid =>
    s'.setTeam tid fun t => { t with chan := setAt t.chan (mdCh i.f.md) (capCharge (s.chargeCount i tid)) }) s
  s'.markCharged (i.on.filter fun l => !s.chargedLane l) 1

end Sys2Proof.Machine
end

