-- ==== Sys2Proof/Machine/Enqueue.lean ====
section
/-! DEFINITION. ENQ and ENQI, what waits at a queue, inlined calls, DEQMORE and QLEN (R49 to R52, R55, R61, R66, R116,
R292 to R298, R339, R376, R406). -/

namespace Sys2Proof.Machine

open Sys2Proof

/-! ## Messages -/

/-- R404: a fabric-extension message leaves. -/
def State.sendMsg (s : State) (typ tpart spart tstation : Nat) (body : List Byte) : State :=
  let m : OutMsg := { typ := typ, tpart := tpart, spart := spart, tstation := tstation, time := s.clk.tclk, body := body }
  { s with y.msgs := s.y.msgs ++ [m] }

/-- Bytes padded with zeros to a multiple of 8. -/
def pad8 (bs : List Byte) : List Byte := bs ++ List.replicate ((8 - bs.length % 8) % 8) 0

/-- Table 21.10: the body of RENQ. -/
def renqBody (req : Word) (queue : Nat) (fwd : Bool) (rsz : Nat) (recs : List Rec) : List Byte :=
  natLE 4 req.toNat ++ natLE 4 (queue % 1024 + (if fwd then 1024 else 0) + (rsz / 16 - 1) % 16 * 4096 + recs.length * 65536) ++
    pad8 (recs.flatMap fun r => natLE 2 r.lbl.toNat) ++ recs.flatMap (·.bytes)

/-- Table 21.10: the body of RENQACK. -/
def renqackBody (req : Word) : List Byte := natLE 8 req.toNat

/-! ## Records of ENQ -/

/-- The capability entry of an issue group's first lane; all its lanes belong to one stage. -/
def State.groupChan (s : State) (i : Iss) : Nat := match i.on with | l :: _ => s.chanOf l.t.tid i.f | [] => 0

/-- R295: the record size of an issue. -/
def State.enqRsz (s : State) (i : Iss) : Nat := s.chanRsz i.g.part i.g.ctx (s.groupChan i)

/-- R292, R295: the faults of a lane's record. -/
def State.enqRecFlt (s : State) (i : Iss) (l : Lane) : Option Flt :=
  let n := s.enqRsz i
  if mdSp i.f.md then
    let a := s.recOff i l
    if a % 16 ≠ 0 then some ⟨fcAlign, 0, a, 0⟩
    else if s.scrSize l.t.tid < a + n then some ⟨fcScratch, 0, a, 0⟩
    else none
  else if 64 < n then some ⟨fcQueue, 0, 0, 0⟩
  else none

/-- R49, R295: a lane's record with its label, or the absent lines that park the lane. -/
def State.enqRec (s : State) (i : Iss) (l : Lane) : Except Park Rec :=
  let n := s.enqRsz i
  if mdSp i.f.md then
    let a := s.recOff i l
    match s.recBytes l a n with
    | .ok bs => .ok ⟨bs, s.cmdLbl i l a n, false⟩
    | .error why => .error why
  else
    let r := regOf i.f.a
    .ok ⟨natLE n (s.vSpan l.t r (n / 4)), s.opLbl l.g i.f.a (n / 4) ||| l.ctx, false⟩

/-- The records of some lanes, in lane order. -/
def State.enqRecs (s : State) (i : Iss) (ls : List Lane) : List Rec :=
  ls.filterMap fun l => match s.enqRec i l with | .ok r => some r | .error _ => none

/-! ## Inline execution -/

/-- R339: the consumer of a record queue. -/
def State.consumer (s : State) (k : QKey) : Option Stage :=
  (s.ctx? k.part k.ctx).bind fun c =>
    (c.stages.find? fun kv => kv.2.inkind = 1 && kv.2.inidx = k.idx).map (·.2)

/-- R66, R339: may a lane inline its record into a consumer? -/
def State.mayInline (s : State) (i : Iss) (st : Stage) (l : Lane) : Bool :=
  (s.chanOf l.t.tid i.f).testBit permInl && st.inl && 8 * (st.irows + 1) ≤ s.regs l.g && (s.thr l.t).inlDepth < st.depthmax

/-- R296: do the lanes of an ENQI inline, and into which stage? Records that fit are enqueued, behind what waits (R51). -/
def State.inlines (s : State) (i : Iss) : Option Stage :=
  let e := s.groupChan i
  let k := chanKey i.g.part i.g.ctx e
  if i.op ≠ 1 || capKind e ≠ 0 || i.on.isEmpty || (s.queue? k).all (fun q => q.fits 0 i.on.length) || 64 < s.enqRsz i then none
  else
    match s.consumer k with
    | some st => if i.on.all fun l => s.mayInline i st l then some st else none
    | none => none

/-- R66, R296: a register of the record in an inlined call: its value and label, zero beyond the record. -/
def State.inlReg (s : State) (i : Iss) (l : Lane) (r : Rec) (j : Nat) : Word × Label :=
  let n := r.bytes.length / 4
  if j < n then
    (BitVec.ofNat 32 (leNat ((r.bytes.drop (4 * j)).take 4)),
      (if mdSp i.f.md then s.slabel l.t.tid (s.recOff i l + 4 * j) 4 else s.tileLbl l.g (.v (regOf i.f.a + j))) ||| l.ctx)
  else (0, l.ctx)

/-- R296: a thread calls the consumer. -/
def State.inlineCall (s : State) (ret : Nat) (l : Lane) : State :=
  s.setThr l.t fun h => { h with
    inlStack := ⟨ret, h.link, h.linkLbl⟩ :: h.inlStack
    inlDepth := h.inlDepth + 1
    link := BitVec.ofNat 32 ret
    linkLbl := l.ctx }

/-- R296: the lanes of an issue group inline their records. -/
def State.inlineAll (s : State) (i : Iss) (st : Stage) : State :=
  let rs := i.on.filterMap fun l => match s.enqRec i l with | .ok r => some (l, r) | .error _ => none
  let writes := (List.range 16).flatMap fun j => rs.map fun (l, r) => (j, l, s.inlReg i l r j)
  let s' := writes.foldl (fun s' w => s'.vSet w.2.1.t w.1 w.2.2.1) s
  let s' := (List.range 16).foldl (fun s' j =>
    (dedup (i.on.map (·.g))).foldl (fun s' g =>
      let ls := (writes.filter fun w => w.1 = j && w.2.1.g = g).foldl (fun a w => a ||| w.2.2.2) 0
      s'.applyLbl ⟨g, .v j, ls, s.covers g i.on⟩) s') s'
  let s' := i.on.foldl (fun s' l => s'.inlineCall i.g.endPc l) s'
  let s' := s'.tokDown i.f.tok (i.on.map (·.t))
  (s'.markCharged i.on 0).branchFrom i true i.g.endPc (fun _ => st.ientry) noLbl

/-! ## What waits at a queue -/

/-- R51: the records of a path that is parked at a queue take positions, and the path goes on behind its instruction. -/
def State.servePath (s : State) (k : QKey) (p : Path) : Option State :=
  match s.parkWord p with
  | none => some s
  | some (i, len) =>
    match s.parkIss p i with
    | none => some s
    | some is =>
      let rs := s.enqRecs is is.on
      if rs.length < is.on.length then
        some (s.setPath p.id fun p => { p with state := .parked (.lines (dedup (is.on.flatMap fun l => spanLines (s.recOff is l) (s.enqRsz is)))) })
      else
        match s.queue? k with
        | none => some s
        | some q =>
          if !q.fits 0 rs.length then none
          else
            let s := rs.foldl (fun s r => s.placeRec k 0 r none 1) s
            let s := (s.account is is.on).tokDown is.f.tok (is.on.map (·.t))
            some (s.stepOver p.id len is.f.stall)

def State.gang? (s : State) (origin : Nat) (id : Word) : Option Gang := s.y.gangs.find? fun g => g.origin = origin && g.id = id
def State.setGang (s : State) (origin : Nat) (id : Word) (f : Gang → Gang) : State :=
  { s with y.gangs := s.y.gangs.map fun (g : Gang) => if g.origin = origin && g.id = id then f g else g }

/-- R358: 1 ms, in ns. -/
def gangKeep : DWord := 1000000

/-- R358: a gang that this station has not yet heard of. -/
def Gang.new (id : Word) (origin : Nat) (deadline : DWord) (part : Nat) : Gang :=
  { id := id, origin := origin, deadline := deadline, members := [], acked := [], accepted := false, aborted := false, held := false,
    part := part, ctx := 0, keep := deadline + gangKeep }

/-- R73, R358: an acknowledgement reaches the originator. -/
def State.takeGack (s : State) (station part : Nat) (id : Word) (deadline : DWord) : State :=
  let s := if (s.gang? s.y.station id).isSome then s else { s with y.gangs := s.y.gangs ++ [Gang.new id s.y.station deadline part] }
  match s.gang? s.y.station id with
  | none => s
  | some g =>
    if g.aborted then (if station = s.y.station then s else s.sendMsg 0x29 part part station (natLE 8 id.toNat))
    else if s.clk.tclk.toNat ≤ g.deadline.toNat then s.setGang s.y.station id fun g => { g with acked := dedup (g.acked ++ [station]) }
    else s

/-- R73, R358: a launch queue has taken a packet of a gang. -/
def State.ackGang (s : State) (lr : LRec) : State :=
  match lr.gang with
  | none => s
  | some (origin, id, deadline) =>
    if origin = s.y.station then s.takeGack origin lr.part id deadline
    else s.sendMsg 0x28 lr.part lr.part origin (natLE 8 id.toNat ++ natLE 8 deadline.toNat)

/-- R70, R71: an accepted launch record: its run, and its place in the launch queue. -/
def State.acceptLaunch (s : State) (k : QKey) (lr : LRec) : State :=
  let count := bitsOf (leNat (lr.bytes.take 4)) 0 13
  let (run, s) := s.freshId
  let r : Run :=
    { part := k.part, ctx := k.ctx, stage := k.idx, total := some count, next := 0, ended := 0, stores := 0,
      terminated := false, reported := false, arc := BitVec.ofNat 64 (leNat ((lr.bytes.drop 0x10).take 8)) }
  let s := { s with sch.runs := mset s.sch.runs run r }
  let s := s.placeRec k 0 ⟨lr.bytes, lr.lbl, lr.mark⟩ (some { lr with run := run }) count
  (s.setQueue k fun q => { q with accepted := s.clk.cycle + 1 }).ackGang lr

/-- R180, R317: the token of the LAUNCH at which a path is parked falls in a lane. -/
def State.launchTok (s : State) (p : Path) (t : TRef) : State :=
  match (s.parkWord p).bind fun x => x.1.view with
  | some (_, _, b) => s.tokDown b.fm.tok [t]
  | none => s

/-- R316, R317: an entry of a team frees: the first parked lane takes it, and its path is woken when it was the last. -/
def State.freeEntry (s : State) (tid entry : Nat) : State :=
  let s := { s with sch.pendL := s.sch.pendL.filter fun p => !(p.tid = tid && p.entry = entry) }
  match s.sch.lcopies.find? fun (c : TRef × LRec) => c.1.tid = tid with
  | none => s
  | some c =>
    let e : PendLaunch := ⟨tid, entry, c.2, s.clk.cycle, false⟩
    let s := { s with
      sch.lcopies := s.sch.lcopies.filter fun (x : TRef × LRec) => x.1 ≠ c.1
      sch.pendL := s.sch.pendL ++ [e] }
    match s.sch.paths.find? fun (p : Path) => p.g = c.1.g && p.state = .parked .launchEntry && p.mask.getLsbD c.1.lane with
    | some p =>
      let s := s.launchTok p c.1
      if s.sch.lcopies.any fun x => x.1.g = p.g && p.mask.getLsbD x.1.lane then s
      else (s.setPath p.id fun p => { p with charged := 2 }).wakePath p.id
    | none => s

/-- R71, R302: a launch record's launch slot is free (R355). -/
def State.freeSlot (s : State) (k : SlotKey) (seq : Word) : State :=
  { s with h.slots := mupd {} s.h.slots k fun x => { x with busy := false, wait := none, last := some seq, src := none, adm := none } }

/-- The waiter at the head of a queue is served, where it can be: none where it holds back the others. -/
def State.serveHead (s : State) (k : QKey) (q : Queue) : Option State :=
  let pop := fun (s : State) => s.setQueue k fun q => { q with waiting := q.waiting.drop 1 }
  match q.waiting with
  | [] => none
  | .path pid _ :: _ =>
    (match s.path? pid with
      | none => some (pop s)
      | some p => (s.servePath k p).map pop)
  | .task prio r :: _ => if q.fits prio 1 then some (pop (s.placeRec k prio r none 1)) else none
  | .mail _ r :: _ => if q.fits 0 1 then some (pop (s.placeRec k 0 r none 1)) else none
  | .fabric recs st part req fwd :: _ =>
    let n := if fwd then min 1 recs.length else recs.length
    if !q.fits 0 n then none
    else
      let s := (recs.take n).foldl (fun s r => s.placeRec k 0 r none 1) s
      let rest := recs.drop n
      if rest.isEmpty then some ((pop s).sendMsg 0x19 part k.part st (renqackBody req))
      else some (s.setQueue k fun q => { q with waiting := .fabric rest st part req fwd :: q.waiting.drop 1 })
  | .launch lr entry slot :: _ =>
    let gone := match entry with
      | some (tid, e) => !s.sch.pendL.any fun p => p.tid = tid && p.entry = e && p.waits
      | none => false
    if gone then some (pop s)
    else if !q.fits 0 1 || s.clk.cycle < q.accepted then none
    else
      let s := (pop s).acceptLaunch k lr
      let s := match entry with | some (tid, e) => s.freeEntry tid e | none => s
      some (match slot with | some x => s.freeSlot x lr.seq | none => s)

/-- R51: every addition that waits at a queue and can be served now, in the order in which they began to wait. -/
def State.serveQueue (s : State) (k : QKey) : Nat → State
  | 0 => s
  | n + 1 =>
    match s.queue? k with
    | none => s
    | some q =>
      match s.serveHead k q with
      | some s' => s'.serveQueue k n
      | none => s

/-- R428: a dequeue that waits takes the refill step that brings its record. `at_` is the cycle from which the step can begin, and
afterwards the one in which it returns. Which record the dequeue takes is settled at once: the refill decides no result (R50). -/
def Queue.awaitRefill (q : Queue) (at_ : Nat) : Queue × Nat :=
  if q.waits then (q.refillStep, q.refill.getD (at_ + cellarFill)) else (q, at_)

/-- Up to `n` dequeues, with the cycle in which the last refill step that one of them waits for returns (R50, R65, R428). -/
def Queue.takeN (q : Queue) (at_ : Nat) : Nat → List QRec × Queue × Nat
  | 0 => ([], q, at_)
  | n + 1 =>
    let (q, at_) := q.awaitRefill at_
    match q.pop? with
    | none => ([], q, at_)
    | some (x, q) => let (xs, q, at_) := q.takeN at_ n; (x :: xs, q, at_)

/-- R428: how many cycles the records of a dequeue are late by: they are served in the cycle after the step that brings the last. -/
def lateBy (now at_ : Nat) : Nat := if at_ ≤ now then 0 else at_ + 1 - now

/-- R428: the next refill step begins when the last one has returned. -/
def Queue.resumeRefill (q : Queue) (now at_ : Nat) : Queue :=
  if now < at_ && q.refill.isNone && q.ringLen < q.ring && 0 < q.cellarLen then { q with refill := some (at_ + cellarFill) } else q

/-- Records in a queue. -/
def Queue.records (q : Queue) : Nat := q.ringLen + q.cellarLen

/-- R49: dequeue records of a queue, with how many cycles they are late by. -/
def State.dequeue (s : State) (k : QKey) (n : Nat) : List QRec × Nat × State :=
  match s.queue? k with
  | none => ([], 0, s)
  | some q =>
    let (xs, q', at_) := q.takeN s.clk.cycle n
    (xs, lateBy s.clk.cycle at_, (s.setQueue k fun _ => q'.resumeRefill s.clk.cycle at_).serveQueue k 4096)

/-! ## ENQ and ENQI -/

/-- R116: the ceiling of a queue. -/
def State.ceilOf (s : State) (k : QKey) : Label := match s.queue? k with | some q => q.ceil | none => 0

/-- R116, R294: the label fault of a lane's record at a local queue. -/
def State.enqLblFlt (s : State) (i : Iss) (l : Lane) : Option Flt :=
  let e := s.groupChan i
  if capKind e ≠ 0 || (s.inlines i).isSome then none
  else
    match s.enqRec i l with
    | .ok r => if Label.sub r.lbl (s.ceilOf (chanKey i.g.part i.g.ctx e)) then none else some ⟨fcLabel, 0, 0, 0⟩
    | .error _ => none

/-- R294, R295: the faults of ENQ and ENQI in a lane. -/
def State.enqFlt (s : State) (i : Iss) (l : Lane) : Option Flt :=
  ((s.capFlt i [0, 1, 2] permEnq true l).or (s.enqRecFlt i l)).or (s.enqLblFlt i l)

/-- R376: how many records of a mailbox the Parlour holds. -/
def State.heldMail (s : State) (n : Nat) : Nat :=
  s.gr.queues.foldl (fun c kv => c + (kv.2.waiting.filter fun w => match w with | .mail b _ => b = n | _ => false).length) 0

/-- R295, R312, R376: is a mailbox full: does the Parlour hold CREDIT records of its valid entry? -/
def State.mailFull (s : State) (n : Nat) : Bool := filtValid (s.filterOf n) && filtCredit (s.filterOf n) ≤ s.heldMail n

/-- R51, R295: the lanes that park: on absent lines, or all at the queue or the full mailbox. -/
def State.enqStop (s : State) (i : Iss) : State × List (Lane × Park) :=
  let out := mergeLines (i.on.filterMap fun l => match s.enqRec i l with | .error why => some (l, why) | .ok _ => none)
  let rest := i.on.filter fun l => !(out.map (·.1.t)).contains l.t
  let e := s.groupChan i
  let k := chanKey i.g.part i.g.ctx e
  let wait := !rest.isEmpty && (capKind e = 1 || (capKind e = 0 && !s.roomFor k 0 rest.length)) &&
    (s.inlines { i with on := rest }).isNone
  let full := capKind e = 2 && s.mailFull (capTarget e)
  (s, out ++ if wait then rest.map fun l => (l, .queue k) else if full then rest.map fun l => (l, .mail (capTarget e)) else [])

/-- The paths that an issue has parked for a reason in this cycle. -/
def State.justParked (s : State) (i : Iss) (why : Park) : List Path :=
  s.sch.paths.filter fun p => p.state = .parked why && p.pc = i.g.pc && p.core = i.g.core && p.quad = i.g.quad &&
    p.since = s.clk.cycle

/-- The paths that an ENQ has parked at their queue in this cycle. -/
def State.justQueued (s : State) (i : Iss) : List Path :=
  s.sch.paths.filter fun p => (match p.state with | .parked (.queue _) => true | _ => false) && p.pc = i.g.pc &&
    p.core = i.g.core && p.quad = i.g.quad && p.since = s.clk.cycle

/-- R295: the records of an issue group go to a remote queue as one request. -/
def State.sendRenq (s : State) (i : Iss) (k : QKey) (e : Nat) : State :=
  let ps := (s.justParked i (.queue k)).filter fun p => !s.gr.renqs.any fun x => x.pids.contains p.id
  let ls := sortBy Lane.q (ps.flatMap s.pathLanes)
  match s.queue? k with
  | none => s
  | some q =>
    if ls.isEmpty then s
    else
      let rs := s.enqRecs i ls
      let (id, s) := s.freshId
      let req : Word := BitVec.ofNat 32 id
      let o : OutRenq :=
        { req := req, q := k, part := k.part, ctx := k.ctx, station := capStation e, queue := q.hqueue, pids := ps.map (·.id),
          toks := [], recs := rs, fwd := false, port := 0 }
      { s with gr.renqs := s.gr.renqs ++ [o] }.sendMsg 0x18 k.part k.part (capStation e) (renqBody req q.hqueue false q.rsz rs)

/-- R55, R376: the Parlour passes one record on, or drops it with a report. A group that an empty enough mailbox has let in can fill it:
the records beyond CREDIT are dropped. -/
def State.mail (s : State) (i : Iss) (n : Nat) (r : Rec) : State :=
  let e := s.filterOf n
  let no := s.asyncReport i.g.part i.g.ctx 0x50 0 0
  match s.mailQueue n with
  | none => no
  | some k =>
    if !filtValid e || filtSpart e ≠ i.g.part || !Label.sub r.lbl (filtMax e) || filtCredit e ≤ s.heldMail n ||
        !Label.sub r.lbl (s.ceilOf k) then no
    else if s.roomFor k 0 1 then s.placeRec k 0 r none 1
    else s.waitAt k (.mail n r)

/-- R295: the paths parked at full mailboxes that have room again issue their word again. -/
def State.mailReady (s : State) (p : Path) : Bool :=
  match p.state with | .parked (.mail n) => s.running p.g.tid && !s.mailFull n | _ => false
def State.wakeMail (s : State) : State := s.wakeIf s.mailReady

/-- R295: the effect of ENQ in the lanes that go on, and the waiting of those that parked. -/
def State.enqueue (s : State) (i : Iss) : State :=
  let all := sortBy Lane.q (i.on ++ (s.justQueued i).flatMap s.pathLanes)
  let e := match all with | l :: _ => s.chanOf l.t.tid i.f | [] => 0
  let k := chanKey i.g.part i.g.ctx e
  let rs := s.enqRecs i i.on
  let s' : State := match capKind e with
    | 0 =>
      let s' : State := rs.foldl (fun (s' : State) r => s'.placeRec k 0 r none 1) s
      (s.justParked i (.queue k)).foldl (fun (s' : State) p => s'.waitAt k (.path p.id s.clk.tclk)) s'
    | 1 => s.sendRenq { i with on := all } k e
    | _ => rs.foldl (fun (s' : State) r => s'.mail i (capTarget e) r) s
  (s'.markCharged i.on 0).tokDown i.f.tok (i.on.map (·.t))

/-- R295, R296: ENQ and ENQI. -/
def enqMeaning : Meaning where
  flt s i l := s.enqFlt i l
  closes _ _ _ := true
  hold s i := (s.charge i, none)
  stop s i := s.enqStop i
  eff s i :=
    match s.inlines i with
    | some st => s.inlineAll i st
    | none => s.enqueue i

/-! ## DEQMORE and QLEN -/

/-- R47: the queue that feeds a stage. -/
def State.inputOf (s : State) (part ctx idx : Nat) (st : Stage) : QKey :=
  match st.inkind with
  | 0 => ⟨part, ctx, true, idx⟩
  | 1 => ⟨part, ctx, false, st.inidx⟩
  | _ => ⟨part, ctx, false, match (s.ctx? part ctx).bind fun c => mget? c.ttabs st.inidx with | some t => t.queue | none => 1024⟩

/-- R52: an acquire by a team on one core, of device scope, or of mesh scope for marked records. -/
def State.acquireAt (s : State) (core part rank : Nat) : State :=
  { s with m.l1 := s.m.l1.filter fun x => !(x.core = core && x.part = part && x.pin.isNone && dropsLine rank false x.line) }

/-- R297: the queue fault of DEQMORE. -/
def State.deqFlt (s : State) (i : Iss) (_ : Lane) : Option Flt :=
  match s.stageIg i.g with
  | some st => if st.inkind = 0 || !st.hasRec then some ⟨fcQueue, 0, 0, 0⟩ else none
  | none => some ⟨fcQueue, 0, 0, 0⟩

/-- R61, R297: a record enters the record area for a thread. -/
def State.dealArea (s : State) (tid base thr : Nat) (r : Rec) : State :=
  let a := base + thr * r.bytes.length
  (s.swrites tid a r.bytes).sjoin tid a r.bytes.length r.lbl

/-- R297, R428: DEQMORE in one lane: the records dealt, its result, and the cycles that its dequeue waits. -/
def State.deqLane (s : State) (i : Iss) (st : Stage) (l : Lane) : State × LaneRes × Nat :=
  match s.team? l.t.tid with
  | none => (s, ⟨l, [0], 0⟩, 0)
  | some t =>
    let k := s.inputOf i.g.part i.g.ctx i.g.stage st
    let first := t.dealt
    let m := min (s.rd32 l.t i.f.lit i.f.b) (min (t.groups * t.width - first) (s.viewLen i.g.core k))
    let lbl := s.aluLbl i l
    let (xs, late, s) := s.dequeue k m
    let n := xs.length
    let s := (xs.zipIdx).foldl (fun s x => s.dealArea l.t.tid st.recbase (first + x.2) x.1.r) s
    let s := s.setTeam l.t.tid fun t => { t with dealt := first + n }
    let s := s.subView i.g.core k n
    let s := s.acquireAt i.g.core i.g.part (if xs.any fun x => x.r.mark then 3 else 2)
    (s, ⟨l, [BitVec.ofNat 32 (n + first * 65536)], xs.foldl (fun a x => a ||| x.r.lbl) lbl⟩, late)

/-- R297: DEQMORE. -/
def deqmoreMeaning : Meaning where
  flt s i l := s.deqFlt i l
  closes _ _ _ := true
  eff s i :=
    match s.stageIg i.g with
    | none => s
    | some st =>
      let (s', rs, late) := i.on.foldl (fun (s, rs, n) l => let (s, r, m) := s.deqLane i st l; (s, rs ++ [r], max n m)) (s, [], 0)
      let n := rs.foldl (fun a r => a + (r.ws.headD 0).toNat % 65536) 0
      s'.putRes i (late + 170 + 2 * (n - 1) + s.pairLat i) rs

/-- R298: the length that QLEN gives. -/
def State.qlenOf (s : State) (i : Iss) (e : Nat) : Nat :=
  let k := chanKey i.g.part i.g.ctx e
  let n := match s.queue? k with
    | some q => if q.kind = 1 then (mget {} s.gr.remote (k.part, q.hqueue, q.hstation)).len else s.viewLen i.g.core k
    | none => 0
  min n 0xFFFFFFFF

/-- R298: QLEN. -/
def qlenMeaning : Meaning where
  flt s i l := s.capFlt i [0, 1] permLen false l
  eff s i :=
    s.putRes i 8 (i.on.map fun l =>
      let e := s.chanOf l.t.tid i.f
      ⟨l, [BitVec.ofNat 32 (s.qlenOf i e)], s.ceilOf (chanKey i.g.part i.g.ctx e) ||| l.ctx⟩)

/-! ## The instructions and the events -/

/-- R295: ENQ, short form. -/
def execEnq (f : SForm) (s : State) : Host.Outcome State Fault Refusal := runWord (.enq f) enqMeaning s

/-- R295: ENQ, long form. -/
def execEnqLong (f : LForm) (s : State) : Host.Outcome State Fault Refusal := runWord (.enqLong f) enqMeaning s

/-- R296: ENQI, short form. -/
def execEnqi (f : SForm) (s : State) : Host.Outcome State Fault Refusal := runWord (.enqi f) enqMeaning s

/-- R296: ENQI, long form. -/
def execEnqiLong (f : LForm) (s : State) : Host.Outcome State Fault Refusal := runWord (.enqiLong f) enqMeaning s

/-- R297: DEQMORE. -/
def execDeqmore (f : LForm) (s : State) : Host.Outcome State Fault Refusal := runWord (.deqmore f) deqmoreMeaning s

/-- R298: QLEN. -/
def execQlen (f : LForm) (s : State) : Host.Outcome State Fault Refusal := runWord (.qlen f) qlenMeaning s

/-- R50, R428: CELLAR_REFILL_STEP. -/
def execCellarRefillStep (q : QKey) (s : State) : Host.Outcome State Fault Refusal :=
  .next ((s.setQueue q Queue.refillStep).serveQueue q 4096)

end Sys2Proof.Machine
end

