-- ==== Sys2Proof/Machine/Tasks.lean ====
section
/-! DEFINITION. Task tables and DECDEP, LAUNCH and what becomes of launch records, and arrival counters (R63, R64, R70,
R72, R105, R299 to R306, R316, R317). -/

namespace Sys2Proof.Machine

open Sys2Proof

/-! ## DECDEP -/

/-- R299: the task table of a KIND 4 capability. -/
def State.ttab? (s : State) (part ctx n : Nat) : Option TTab := (s.ctx? part ctx).bind fun c => mget? c.ttabs n

/-- R47: the ready queue of a task table. -/
def readyKey (part ctx : Nat) (t : TTab) : QKey := ⟨part, ctx, false, t.queue⟩

/-- R299: the size of an entry: 16 + S. -/
def State.entrySize (s : State) (part ctx : Nat) (t : TTab) : Nat :=
  16 + (match s.queue? (readyKey part ctx t) with | some q => q.rsz | none => 16)

/-- The table of an issue. -/
def State.depTab (s : State) (i : Iss) : Option TTab := s.ttab? i.g.part i.g.ctx (capTarget (s.groupChan i))

/-- R300: a lane's task index. -/
def State.depIndex (s : State) (i : Iss) (l : Lane) : Nat := s.rd32 l.t i.f.lit i.f.a

/-- R299: the address of a lane's task entry. -/
def State.depVa (s : State) (i : Iss) (t : TTab) (l : Lane) : Nat :=
  t.base.toNat + s.depIndex i l * s.entrySize i.g.part i.g.ctx t

/-- R300: the faults of a lane's task index. -/
def State.depFlt (s : State) (i : Iss) (l : Lane) : Option Flt :=
  (s.capFlt i [4] permDep true l).or
    (match s.depTab i with
      | some t =>
        if t.count ≤ s.depIndex i l then some ⟨fcQueue, 0, 0, 0⟩
        else globFlt (s.depVa i t l) (s.entrySize i.g.part i.g.ctx t) false
      | none => some ⟨fcQueue, 0, 0, 0⟩)

/-- The first address of each 64 KiB page that a span touches. -/
def pageHeads (a n : Nat) : List Nat :=
  a :: (List.range ((a + n - 1) / 65536 - a / 65536)).map fun k => (a / 65536 + k + 1) * 65536

/-- The translations of an entry: of its counter for a write, of what follows for a read. -/
def State.depTrs (s : State) (i : Iss) (t : TTab) (l : Lane) : List (Nat × Tr) :=
  let a := s.depVa i t l
  (pageHeads a (s.entrySize i.g.part i.g.ctx t)).map fun x => (x, s.translate i.g.core i.g.part i.g.ctx x (x = a))

/-- R240, R300: the lanes whose entry has a page that does not translate. -/
def State.depStop (s : State) (i : Iss) : State × List (Lane × Park) :=
  match s.depTab i with
  | none => (s, [])
  | some t => s.reportPages i (i.on.filterMap fun l =>
      (s.depTrs i t l).findSome? fun x => match x.2 with
        | .page pf code detail gpa log => some ⟨l, l.t.tid, pageBase x.1 log, x.1, pf, code, detail, gpa⟩
        | _ => none)

/-- R113, R300, R366: the faults of a translated entry. A counter at another station is tested there (R118). -/
def State.depAccFlt (s : State) (i : Iss) (t : TTab) (l : Lane) : Option Flt :=
  (s.depTrs i t l).findSome? fun x =>
    match x.2 with
    | .bad d => some ⟨fcTrans, d, x.1, 0⟩
    | .page .. => none
    | .ok (.fab ..) _ => none
    | .ok loc fl =>
      if !s.owned i.g.part loc then some ⟨fcTrans, 3, x.1, 0⟩
      else if x.1 = s.depVa i t l && !Label.sub (s.aluLbl i l) fl then some ⟨fcLabel, 0, x.1, 0⟩
      else none

/-- A lane's decrement. -/
def State.depAcc (s : State) (i : Iss) (t : TTab) (l : Lane) : Option Acc :=
  match s.translate i.g.core i.g.part i.g.ctx (s.depVa i t l) true with
  | .ok loc _ => some
      { t := l.t, qlane := l.q, va := BitVec.ofNat 64 (s.depVa i t l), loc := loc, len := 4, data := [], cmp := [],
        lbl := s.aluLbl i l, rlbl := 0, done := false, old := [],
        run := match s.team? l.t.tid with | some t => t.run | none => 0 }
  | _ => none

/-- R300: DECDEP. -/
def decdepMeaning : Meaning where
  flt s i l := s.depFlt i l
  closes _ _ _ := true
  hold s i := (s.charge i, none)
  stop s i := s.depStop i
  eff s i :=
    match s.depTab i with
    | none => s
    | some t =>
      let s := s.judge i.g i.on fun l => s.depAccFlt i t l
      let i := { i with on := s.alive i.on }
      let as_ := i.on.filterMap fun l => s.depAcc i t l
      let s := s.fillTlb i true (i.on.map fun l => s.depVa i t l)
      let s := as_.foldl (fun s a => s.touchL1 i (.decdep 0) a) s
      (s.markCharged i.on 0).request i (.decdep (capTarget (s.groupChan i))) 0 false as_ [] 0 i.f.tok

/-- The bytes of a span at their coherence points, with the union of the frame labels; the detail of a translation fault
otherwise. -/
def State.spanBytes (s : State) (core part ctx a n : Nat) : Except Nat (List Byte × Label) :=
  (pieces a n (n + 1)).foldl (fun r x =>
    match r, s.translate core part ctx x.1 false with
    | .error d, _ => .error d
    | .ok (bs, l), .ok loc fl => if s.owned part loc then .ok (bs ++ s.getLoc loc x.2, l ||| fl) else .error 3
    | .ok _, .bad d => .error d
    | .ok _, .page .. => .error 1) (.ok ([], 0))

/-- A precise fault of the thread of an access. -/
def State.depFault (s : State) (r : Req) (a : Acc) (code detail : Nat) : State :=
  s.takeFault a.t.tid code detail r.core r.quad a.qlane r.pc r.word a.va.toNat 0

/-- R64, R65, R116, R299: the bytes of an entry whose counter has reached 0 place its record in the ready queue. -/
def State.placeTask (s : State) (r : Req) (a : Acc) (t : TTab) (bs : List Byte) (fl : Label) : State :=
  let k := readyKey r.part r.ctx t
  let lbl := fl ||| a.lbl
  let prio := leNat ((bs.drop 4).take 1) % 4
  let x : Rec := ⟨bs.drop 16, lbl, false⟩
  if !Label.sub lbl (s.ceilOf k) then s.depFault r a fcLabel 0
  else if s.roomFor k prio 1 then s.placeRec k prio x none 1
  else s.waitAt k (.task prio x)

/-- R64: the decrement that takes a counter of this chip from 1 to 0 releases the task. -/
def State.releaseTask (s : State) (r : Req) (a : Acc) (table : Nat) : State :=
  match s.ttab? r.part r.ctx table with
  | none => s
  | some t =>
    match s.spanBytes r.core r.part r.ctx a.va.toNat (s.entrySize r.part r.ctx t) with
    | .error d => s.depFault r a fcTrans d
    | .ok (bs, fl) => s.placeTask r a t bs fl

/-- R64, R402: the next request about an entry of another station: a read of the counter, the exchange that decrements it, then the reads
of the entry. -/
def State.depSend (s : State) (r : Req) (k : Nat) (a : Acc) (st off n : Nat) : State :=
  let base := OutReq.write r.part r.ctx a.run st off 0 [] (.req r.id k)
  if a.cmp.isEmpty || !a.old.isEmpty then s.sendReq { base with kind := 0, len := n, nolease := true }
  else s.sendReq { base with kind := 2, len := 4, lbl := a.lbl, aop := 8, uns := true, cmp := BitVec.ofNat 64 (leNat a.cmp),
                             ops := [BitVec.ofNat 64 (leNat a.cmp - 1)], scope := 0 }

/-- R64: bytes of an entry that has reached 0 have been read. -/
def State.depGot (s : State) (r : Req) (k : Nat) (bs : List Byte) (fl : Label) : State :=
  s.setAcc r.id k fun a => { a with data := a.data ++ bs, rlbl := a.rlbl ||| fl }

/-- R64, R300: the access ends without a task. -/
def State.depEnd (s : State) (r : Req) (k : Nat) : State := s.setAcc r.id k fun a => { a with done := true, back := s.clk.cycle + a.trip }

/-- R63, R64: the next step of a decrement at another station: towards the decrement, then towards the bytes of the released entry. -/
def State.depFar (s : State) (r : Req) (k : Nat) (a : Acc) (t : TTab) : State :=
  if s.fabSent r.id k then s
  else if a.old.isEmpty then (match a.loc with | .fab st off => s.depSend r k a st off 4 | _ => s)
  else
    let n := s.entrySize r.part r.ctx t
    let o := a.data.length
    if n ≤ o then (s.placeTask r a t a.data a.rlbl).depEnd r k
    else
      let va := a.va.toNat + o
      let m := min (n - o) (toLineEnd va)
      match s.translate r.core r.part r.ctx va false with
      | .ok loc fl =>
        (match s.pinOf a.t.tid loc.line, loc with
          | some x, _ => s.depGot r k ((x.bytes.drop loc.off).take m) fl
          | none, .fab st off => s.depSend r k a st off m
          | none, loc => if s.owned r.part loc then s.depGot r k (s.getLoc loc m) fl else (s.depFault r a fcTrans 3).depEnd r k)
      | .bad d => (s.depFault r a fcTrans d).depEnd r k
      | .page .. => (s.depFault r a fcTrans 1).depEnd r k

/-- R64, R300: what a decrement that found `old` does: it ends in the underflow fault, or it is complete, or its task is released. -/
def State.depFound (s : State) (r : Req) (k old : Nat) (a : Acc) : State :=
  if old = 0 then (s.depFault r a fcUnder 0).depEnd r k
  else if old = 1 then s.setAcc r.id k fun a => { a with done := false, old := natLE 4 1, data := [], rlbl := 0 }
  else s.depEnd r k

/-- R64: the answer of another station about an entry. -/
def State.depAnswer (s : State) (o : OutReq) (x : FabResp) (r : Req) (k : Nat) (a : Acc) : State :=
  if !a.old.isEmpty then s.depGot r k x.data (s.locLbl r.part (.fab o.station o.off))
  else
    let old := if o.kind = 0 then leNat x.data else (x.olds.headD 0).toNat
    if old = 0 then s.depFound r k 0 a
    else if o.kind ≠ 0 && old = leNat a.cmp then
      (s.setAcc r.id k fun a => { a with gwct := x.time }).depFound r k old a
    else s.setAcc r.id k fun a => { a with cmp := natLE 4 old }

/-- R64, R300: one decrement. A lane whose team has ended does not perform. -/
def State.performDep (s : State) (id table k : Nat) : State :=
  match s.req? id with
  | none => s
  | some r =>
    match r.accs[k]?, s.ttab? r.part r.ctx table with
    | none, _ => s
    | some _, none => s.depEnd r k
    | some a, some t =>
      if a.done then s
      else if (s.team? a.t.tid).isNone then s.setAcc id k fun a => { a with done := true }
      else
        let far := match a.loc with | .fab .. => true | _ => false
        if far && (!a.old.isEmpty || (s.pinOf a.t.tid a.loc.line).isNone) then
          (if s.clk.cycle < a.at_ || s.blocked r k a || DWord.past a.retryAt s.clk.tclk then s
            else if a.old.isEmpty && !s.servable (some a.t.tid) 0 a.loc.line then s.setAcc id k fun a => a.refuse s.clk.tclk
            else s.depFar r k a t)
        else
          let s := s.performAcc id k
          match (s.req? id).bind fun r => r.accs[k]? with
          | none => s
          | some b =>
            if !b.done || b.old.isEmpty then s
            else if leNat b.old = 0 then s.depFault r a fcUnder 0
            else if leNat b.old = 1 then (if far then s.depFound r k 1 b else s.releaseTask r a table)
            else s

/-! ## LAUNCH -/

/-- R70: the launch queue that a KIND 3 capability names. -/
def State.launchKey (s : State) (i : Iss) : QKey := ⟨i.g.part, i.g.ctx, true, capTarget (s.groupChan i)⟩

/-- Table 11.5: is a launch record refused for a stage (R302, step 1)? -/
def launchRecBad (bs : List Byte) (groups : Nat) : Bool :=
  let w := fun (o n : Nat) => leNat ((bs.drop o).take n)
  let count := w 0 4 % 2 ^ 13
  w 0 4 ≥ 2 ^ 13 || w 4 4 ≥ 64 || w 0x18 8 ≠ 0 || count = 0 || 4096 < count || groups ≤ w 4 4 ||
    w 0x20 32 ≥ 16 ^ groups || w 0x10 8 % 16 ≠ 0

/-- R302: the faults of a lane's launch record, when it can be read. -/
def State.launchRecFlt (s : State) (i : Iss) (l : Lane) : Option Flt :=
  let a := s.recOff i l
  match s.stage? i.g.part i.g.ctx (capTarget (s.groupChan i)) with
  | none => some ⟨fcCap, 0, 0, 0⟩
  | some st =>
    match s.recBytes l a 64 with
    | .error _ => none
    | .ok bs =>
      if launchRecBad bs st.groups then some ⟨fcLaunch, 0, 0, a⟩
      else if !Label.sub (s.cmdLbl i l a 64) (s.ceilOf (s.launchKey i)) then some ⟨fcLabel, 0, 0, a⟩
      else none

/-- R317: has a lane's LAUNCH taken its entry while it was parked? -/
def State.launchedLane (s : State) (l : Lane) : Bool := (s.path? l.pid).any fun p => p.charged = 2

/-- R294, R302: the faults of LAUNCH in a lane. -/
def State.launchFlt (s : State) (i : Iss) (l : Lane) : Option Flt :=
  if s.launchedLane l then none
  else ((s.capFlt i [3] permLaunch true l).or (s.recFlt i 64 l)).or (s.launchRecFlt i l)

/-- R70: the pending-launch entries of a team that are free, and no parked lane waits for. -/
def State.freeEntries (s : State) (tid : Nat) : List Nat :=
  if s.sch.lcopies.any fun c => c.1.tid = tid then []
  else (List.range 4).filter fun e => !s.sch.pendL.any fun p => p.tid = tid && p.entry = e

/-- The lanes that are new to their LAUNCH. -/
def State.launchNew (s : State) (ls : List Lane) : List Lane := ls.filter fun l => !s.launchedLane l

/-- R302, step 3: the lanes that park: on absent lines, or for want of an entry. -/
def State.launchStop (s : State) (i : Iss) : State × List (Lane × Park) :=
  let new : List Lane := s.launchNew i.on
  let out : List (Lane × Park) := mergeLines (new.filterMap fun l =>
    match s.recBytes l (s.recOff i l) 64 with | .error why => some (l, why) | .ok _ => none)
  let rest := new.filter fun l => !(out.map (·.1.t)).contains l.t
  let late := (tidsOf rest).flatMap fun tid => (rest.filter fun l => l.t.tid = tid).drop (s.freeEntries tid).length
  (s, out ++ late.map fun l => (l, .launchEntry))

/-- R302, R317: a lane's copy of its launch record. -/
def State.launchCopy (s : State) (i : Iss) (l : Lane) : LRec :=
  let a := s.recOff i l
  let k := s.launchKey { i with on := [l] }
  { bytes := s.sreads l.t.tid a 64, lbl := s.cmdLbl i l a 64, part := k.part, ctx := k.ctx, stage := k.idx, run := 0 }

/-- R302: a lane takes the lowest free entry of its team. -/
def State.takeEntry (s : State) (i : Iss) (l : Lane) : State :=
  match s.freeEntries l.t.tid with
  | [] => s
  | e :: _ =>
    let x : PendLaunch := ⟨l.t.tid, e, s.launchCopy i l, s.clk.cycle, false⟩
    { s with sch.pendL := s.sch.pendL ++ [x] }

/-- R302, R317: LAUNCH. The token is up from the first issue in the lanes that park for an entry, too. -/
def launchMeaning : Meaning where
  flt s i l := s.launchFlt i l
  closes _ _ _ := true
  hold s i := (s.charge { i with on := s.launchNew i.on }, none)
  stop s i := s.launchStop i
  eff s i :=
    let s := (s.launchNew i.on).foldl (fun s l => s.takeEntry i l) s
    let late : List Lane := sortBy Lane.q ((s.justParked i .launchEntry).flatMap s.pathLanes)
    let s := { s with sch.lcopies := s.sch.lcopies ++ late.map fun (l : Lane) => (l.t, s.launchCopy i l) }
    let s := s.tokUp i.f.tok late
    (s.markCharged i.on 0).tokDown i.f.tok (i.on.map (·.t))

/-- R316: the pending-launch entry that a launch queue turns to next. -/
def State.nextEntry (s : State) (k : QKey) : Option PendLaunch :=
  s.sch.pendL.find? fun p => !p.waits && p.lr.part = k.part && p.lr.ctx = k.ctx && p.lr.stage = k.idx

/-- R316: 64 cycles have passed since an entry was taken. -/
def State.entryDue (s : State) (p : PendLaunch) : Bool := p.at_ + 64 ≤ s.clk.cycle

/-- R70, R316: a launch queue accepts the record of a pending-launch entry, or the record begins to wait for room. -/
def State.acceptEntry (s : State) (k : QKey) (p : PendLaunch) : State :=
  match s.queue? k with
  | none => s
  | some q =>
    if s.roomFor k 0 1 && q.accepted ≤ s.clk.cycle then (s.acceptLaunch k p.lr).freeEntry p.tid p.entry
    else
      let s := { s with sch.pendL := s.sch.pendL.map fun (x : PendLaunch) =>
        if x.tid = p.tid && x.entry = p.entry then { x with waits := true } else x }
      s.waitAt k (.launch p.lr (some (p.tid, p.entry)) none)

/-- Has a launch queue something to accept in this cycle? -/
def State.acceptsNow (s : State) (k : QKey) (q : Queue) : Bool :=
  k.launch && ((s.nextEntry k).any s.entryDue ||
    (q.accepted ≤ s.clk.cycle && q.fits 0 1 && (match q.waiting.head? with | some (.launch ..) => true | _ => false)))

/-! ## Arrival counters -/

/-- R303: the faults of a counter's address. -/
def State.arcFlt (s : State) (i : Iss) (l : Lane) : Option Flt := globFlt (s.addrOf i true l) 16 true

/-- R304: ARCINIT. -/
def arcinitMeaning : Meaning where
  flt s i l := s.arcFlt i l
  closes _ _ _ := true
  stop s i := s.pageStop i true
  eff s i := s.globalAccess i .arcinit 0 false
    (fun l => natLE 8 0 ++ natLE 8 (s.intVal l.t i.f.lit i.f.b 2 0 true)) noBytes 16 [] 0

/-- R105: the scope of the release that ARCADD performs, by where the counter lives (Table 9.3). -/
def State.arcScope (s : State) (i : Iss) (l : Lane) : Nat :=
  match s.tr i true l with
  | .ok (.fab ..) _ => 3
  | .ok (.host ..) _ => 4
  | _ => 0

/-- R105, R304: ARCADD. -/
def arcaddMeaning : Meaning where
  flt s i l := s.arcFlt i l
  closes _ _ _ := true
  hold s i := s.release92 i.g (i.on.map fun l => (l.t, s.arcScope i l))
  stop s i := s.pageStop i true
  eff s i := s.globalAccess i .arcadd 0 false (fun l => natLE 8 (s.rd32 l.t i.f.lit i.f.b)) noBytes 8 [] 0

/-- The value of a counter: COUNT and GOAL; none for one at another station, or where no page maps it. -/
def State.counterAt (s : State) (tid core part ctx va : Nat) : Option (Nat × Nat) :=
  match s.translate core part ctx va false with
  | .ok loc _ =>
    let bs := match s.pinOf tid loc.line with
      | some x => (x.bytes.drop loc.off).take 16
      | none => s.getLoc loc 16
    if bs.length < 16 || !s.owned part loc then none else some (leNat (bs.take 8), leNat (bs.drop 8))
  | _ => none

/-- R305: has a counter reached its goal? -/
def State.reached (s : State) (tid core part ctx va : Nat) : Bool :=
  match s.counterAt tid core part ctx va with
  | some (c, g) => g ≤ c
  | none => false

/-- R305: has a lane's counter reached its goal? -/
def State.arcReached (s : State) (i : Iss) (l : Lane) : Bool :=
  s.reached l.t.tid i.g.core i.g.part i.g.ctx (s.addrOf i true l).toNat

/-- R305, R366: the faults of a counter that translates. -/
def State.arcAccFlt (s : State) (i : Iss) (l : Lane) : Option Flt :=
  match s.tr i false l with
  | .bad d => some ⟨fcTrans, d, (s.addrOf i true l).toNat, 0⟩
  | .ok loc _ => if s.owned i.g.part loc then none else some ⟨fcTrans, 3, (s.addrOf i true l).toNat, 0⟩
  | .page .. => none

/-- R305: the lanes that park: on a page, or until their counter reaches its goal. -/
def State.arcStop (s : State) (i : Iss) : State × List (Lane × Park) :=
  let s := s.judge i.g i.on fun l => s.arcAccFlt i l
  let i := { i with on := s.alive i.on }
  let (s, out) := s.pageStop i false
  let rest := i.on.filter fun l => !(out.map (·.1.t)).contains l.t
  (s.fillTlb i false (rest.map fun l => (s.addrOf i true l).toNat),
    out ++ (rest.filter fun l => !s.arcReached i l).map fun l => (l, .counter (i.f.md.getLsbD 0)))

/-- R105: the acquire of mesh scope at the core of an issue. -/
def State.arcAcquire (s : State) (i : Iss) (ls : List Lane) : State := s.acquire i.g ls 3

/-- R305, R306: ARCWAIT. -/
def arcwaitMeaning : Meaning where
  flt s i l := s.arcFlt i l
  hold s i := s.acquireHold i
  stop s i := s.arcStop i
  eff s i :=
    let ps := s.justParked i (.counter (i.f.md.getLsbD 0))
    let s := ps.foldl (fun (s : State) p => s.setPath p.id fun p => { p with named := 0 }) s
    (s.arcAcquire i i.on).tokDown i.f.tok (i.on.map (·.t))

/-- R305: some lanes of a path that is parked at ARCWAIT complete it and go on behind it. -/
def State.arcGo (s : State) (p : Path) (ts : List TRef) : State :=
  match s.parkWord p with
  | none => s
  | some (ins, len) =>
    match s.parkIss p ins with
    | none => s
    | some i =>
      let ls := i.on.filter fun l => ts.contains l.t
      if ls.isEmpty then s
      else
        let i := { i with on := ls }
        let (n, s) := s.splitPath p.id (maskOf (ls.map fun l => l.t.lane))
        let s := ((s.arcAcquire i ls).account i ls).tokDown i.f.tok (ls.map (·.t))
        (s.setTeam p.g.tid fun t => { t with noSave := false }).stepOver n len i.f.stall

/-- The threads of a path parked at ARCWAIT whose counter has reached its goal. `named` holds those whose counter a write, or a read at
another station, has shown at its goal. -/
def State.arcReady (s : State) (p : Path) : List TRef :=
  match (s.parkWord p).bind fun x => s.parkIss p x.1 with
  | some i => (i.on.filter fun l => s.arcReached i l || p.named.getLsbD l.t.lane).map (·.t)
  | none => []

/-- R305: the threads parked at counters look at them: the lanes whose counter stands at its goal are noted. -/
def State.seeCounters (s : State) : State :=
  { s with sch.paths := s.sch.paths.map fun (p : Path) =>
      if p.atCounter then { p with named := p.named ||| maskOf ((s.arcReady p).map (·.lane)) } else p }

/-- R89: a request at its coherence points. Waiters look at their counter after each of its writes (R305). -/
def State.performAny (s : State) (id : Nat) : State :=
  match (s.req? id).map (fun (r : Req) => r.kind) with
  | some (ReqKind.decdep t) => s.performAll id State.seeCounters fun s k => s.performDep id t k
  | some k => s.performAll id (if k.writes then State.seeCounters else fun s => s) fun s k => s.performAcc id k
  | none => s

/-- R305: a path parked at a counter some of whose lanes can go on. -/
def State.arcWoken (s : State) : Option (Path × List TRef) :=
  s.sch.paths.findSome? fun p =>
    if p.atCounter && s.running p.g.tid then
      match s.arcReady p with
      | [] => none
      | ts => some (p, ts)
    else none

/-- R305: a thread parked at a counter of another station for which no read is under way. -/
def State.arcPoll (s : State) : Option (Path × TRef × Nat × Nat) :=
  s.sch.paths.findSome? fun p =>
    if !p.atCounter then none
    else
      match (s.parkWord p).bind fun x => s.parkIss p x.1 with
      | none => none
      | some i => i.on.findSome? fun l =>
        if p.named.getLsbD l.t.lane || s.y.reqs.any fun q => q.who = .arc l.t then none
        else
          match s.translate i.g.core i.g.part i.g.ctx (s.addrOf i true l).toNat false with
          | .ok (.fab st off) _ => some (p, l.t, st, off)
          | _ => none

/-- R305, R402: read an arrival counter at another station. -/
def State.pollCounter (s : State) (x : Path × TRef × Nat × Nat) : State :=
  let (p, t, st, off) := x
  let (part, ctx, run) := match s.team? p.g.tid with | some tm => (tm.part, tm.ctx, tm.run) | none => (0, 0, 0)
  s.sendReq { OutReq.write part ctx run st off 0 [] (.arc t) with kind := 0, len := 16, nolease := true }

/-- R305: the answer of another station about a counter. -/
def State.arcAnswer (s : State) (t : TRef) (bs : List Byte) : State :=
  if leNat ((bs.drop 8).take 8) ≤ leNat (bs.take 8) && bs.length = 16 then
    { s with sch.paths := s.sch.paths.map fun (p : Path) =>
        if p.g = t.g && p.mask.getLsbD t.lane && p.atCounter then { p with named := p.named ||| (1 : BitVec 64) <<< t.lane } else p }
  else s

/-- R306: every live thread of a team is parked at an ARCWAIT.swap. -/
def State.swapReady (s : State) (tid : Nat) : Bool :=
  let ls := s.liveOf tid
  s.running tid && !((s.team? tid).any fun t => t.noSave) && !ls.isEmpty && ls.all fun t =>
    s.sch.paths.any fun p => p.g = t.g && p.mask.getLsbD t.lane && p.state = .parked (.counter true)

/-! ## The instructions and the events -/

/-- R300: DECDEP, short form. -/
def execDecdep (f : SForm) (s : State) : Host.Outcome State Fault Refusal := runWord (.decdep f) decdepMeaning s

/-- R300: DECDEP, long form. -/
def execDecdepLong (f : LForm) (s : State) : Host.Outcome State Fault Refusal := runWord (.decdepLong f) decdepMeaning s

/-- R302: LAUNCH, short form. -/
def execLaunch (f : SForm) (s : State) : Host.Outcome State Fault Refusal := runWord (.launch f) launchMeaning s

/-- R302: LAUNCH, long form. -/
def execLaunchLong (f : LForm) (s : State) : Host.Outcome State Fault Refusal := runWord (.launchLong f) launchMeaning s

/-- R304: ARCINIT, short form. -/
def execArcinit (f : SForm) (s : State) : Host.Outcome State Fault Refusal := runWord (.arcinit f) arcinitMeaning s

/-- R304: ARCINIT, long form. -/
def execArcinitLong (f : LForm) (s : State) : Host.Outcome State Fault Refusal := runWord (.arcinitLong f) arcinitMeaning s

/-- R304: ARCADD, short form. -/
def execArcadd (f : SForm) (s : State) : Host.Outcome State Fault Refusal := runWord (.arcadd f) arcaddMeaning s

/-- R304: ARCADD, long form. -/
def execArcaddLong (f : LForm) (s : State) : Host.Outcome State Fault Refusal := runWord (.arcaddLong f) arcaddMeaning s

/-- R305: ARCWAIT, short form. -/
def execArcwait (f : SForm) (s : State) : Host.Outcome State Fault Refusal := runWord (.arcwait f) arcwaitMeaning s

/-- R305: ARCWAIT, long form. -/
def execArcwaitLong (f : LForm) (s : State) : Host.Outcome State Fault Refusal := runWord (.arcwaitLong f) arcwaitMeaning s

/-- R306: ARCWAIT with SWAP. -/
def execArcwaitSwap (f : LForm) (s : State) : Host.Outcome State Fault Refusal := runWord (.arcwaitSwap f) arcwaitMeaning s

/-- R316: LAUNCH_RECORD_ACCEPT. -/
def execLaunchRecordAccept (q : QKey) (s : State) : Host.Outcome State Fault Refusal :=
  .next (match s.nextEntry q with
    | some p => if s.entryDue p then s.acceptEntry q p else s.serveQueue q 4096
    | none => s.serveQueue q 4096)

/-- R88, R89, R96: COHERENCE_POINT_ACCESS. -/
def execCoherencePointAccess (req : Nat) (s : State) : Host.Outcome State Fault Refusal := .next (s.performAny req)

/-- R90: MEMORY_RESPONSE. -/
def execMemoryResponse (req : Nat) (s : State) : Host.Outcome State Fault Refusal := .next (s.respond req)

end Sys2Proof.Machine
end

