-- ==== Sys2Proof/Machine/Frames.lean ====
section
/-! DEFINITION. Frames on their way from Owned through Scrubbing to Free (R366 to R368). -/

namespace Sys2Proof.Machine

open Sys2Proof

def State.setFrame (s : State) (n : Nat) (f : Frame) : State := { s with m.frames := mset s.m.frames n f }

/-- The frame that an L1 line lies in. -/
def L1Line.inFrames (x : L1Line) (fs : List Nat) : Bool :=
  match x.line with
  | .mem a => fs.contains (a / 65536)
  | _ => false

/-- R88, R368, steps 1 to 3: frames become Scrubbing, their lines leave every L1, pinned ones without write-back, and every slice, and the
4,000 ns begin. -/
def State.startScrub (s : State) (fs : List Nat) (fn : Option Nat) (bad : Bool) : State :=
  let (id, s) := s.freshId
  let s := fs.foldl (fun s n => s.setFrame n { s.frame n with state := 2 }) s
  let x : Scrub := ⟨id, fs, s.clk.tclk + 4000, fn, bad⟩
  { s with
    m.l1 := s.m.l1.filter fun (y : L1Line) => !y.inFrames fs
    m.scrubs := s.m.scrubs ++ [x] }.l2Drop fun a => fs.contains (a / 65536)

/-- R368, steps 4 and 5: the frames are zeroed and Free. -/
def State.endScrub (s : State) (x : Scrub) : State :=
  let s := x.frames.foldl (fun s n => s.setFrame n {}) s
  { s with
    m.mem := s.m.mem.filter fun (c : Host.Cell) => !x.frames.contains (c.1 / 65536)
    m.bad := s.m.bad.filter fun (b : Nat) => !x.frames.contains (b / 65536)
    m.l1 := s.m.l1.filter fun (y : L1Line) => !y.inFrames x.frames
    m.scrubs := s.m.scrubs.filter fun (y : Scrub) => y.id ≠ x.id }

end Sys2Proof.Machine
end

