-- ==== Sys2Proof/Machine/Shard.lean ====
section
/-! DEFINITION. Where a distributed tensor's elements lie under a state word, and what a conversion gives each station (R123 to
R125, R127, R130, Table 4.6). -/

namespace Sys2Proof.Machine

open Sys2Proof

/-- Table 4.5: bytes of an element. -/
def plBytes (fmt : Nat) : Nat := if fmt ≤ 1 then 4 else if fmt ≤ 3 then 2 else 1

/-- Table 4.5: an axis of a state word: its kind, its dimension or operation, and its low bits. -/
def axKind (st : Word) (a : Nat) : Nat := bitsOf st.toNat (8 * a + 6) 2
def axArg (st : Word) (a : Nat) : Nat := bitsOf st.toNat (8 * a + 4) 2
def axLow (st : Word) (a : Nat) : Nat := bitsOf st.toNat (8 * a) 4

/-- Do two state words agree on an axis? -/
def axSame (x y : Word) (a : Nat) : Bool := axKind x a = axKind y a && (axKind x a = 0 || axArg x a = axArg y a)

/-- A state word with an axis of another. -/
def setAx (st : Word) (a : Nat) (d : Word) : Word :=
  let m : Word := 0xFF <<< (8 * a)
  (st &&& ~~~m) ||| (d &&& m)

/-- R126: does a state match a demand? -/
def demandMatches (st d : Word) : Bool := (List.range 4).all fun a => axKind d a = 3 || axSame d st a

/-- Table 4.5: has a state word a reserved encoding (kind 3 aside)? -/
def axReserved (d : Word) (a : Nat) : Bool := axLow d a ≠ 0 || (axKind d a = 2 && 2 ≤ axArg d a)

/-- R307: has a demanded state word a reserved field? -/
def demandReserved (d : Word) : Bool := (List.range 4).any fun a => axReserved d a

/-- Does an axis split a dimension? -/
def splitsDim (st : Word) (d a : Nat) : Bool := axKind st a = 1 && axArg st a = d

/-- R125: how many parts a dimension is split into. -/
def partsOf (sizes : List Nat) (st : Word) (d : Nat) : Nat :=
  (List.range 4).foldl (fun n a => if splitsDim st d a then n * sizes.getD a 1 else n) 1

/-- R125: the local extent of a dimension. -/
def localExt (sizes ext : List Nat) (st : Word) (d : Nat) : Nat := ext.getD d 1 / partsOf sizes st d

/-- R125: does every split of a state divide its extent? -/
def divides (sizes ext : List Nat) (st : Word) : Bool := (List.range 4).all fun d => ext.getD d 1 % partsOf sizes st d = 0

/-- R125: bytes of a shard. -/
def shardBytes (fmt : Nat) (sizes ext : List Nat) (st : Word) : Nat :=
  plBytes fmt * (List.range 4).foldl (fun n d => n * localExt sizes ext st d) 1

/-- R128, step 3: the steps of a conversion: each axis that changes, in ascending order, with the state before it. -/
def convSteps (st demand : Word) : List (Nat × Word) :=
  ((List.range 4).foldl (fun (x : List (Nat × Word) × Word) a =>
    if axKind demand a = 3 || axSame demand x.2 a then x else (x.1 ++ [(a, x.2)], setAx x.2 a demand)) ([], st)).1

/-- The state that a conversion reaches. -/
def convFinal (st demand : Word) : Word :=
  (List.range 4).foldl (fun st a => if axKind demand a = 3 || axSame demand st a then st else setAx st a demand) st

/-- R127: can no conversion satisfy a demand? -/
def demandBad (sizes ext : List Nat) (st demand : Word) : Bool :=
  (convSteps st demand).any fun x =>
    axKind demand x.1 = 2 || sizes.length ≤ x.1 || !divides sizes ext (setAx x.2 x.1 demand)

/-! ## Coordinates -/

/-- R123: the coordinates of a position. -/
def coordsOf : List Nat → Nat → List Nat
  | [], _ => []
  | n :: ns, p => p % n :: coordsOf ns (p / n)

/-- R123: the position of coordinates. -/
def posOf : List Nat → List Nat → Nat
  | n :: ns, c :: cs => c + n * posOf ns cs
  | _, _ => 0

/-- R125: the coordinate along an axis of the stations that hold an index of the dimension it splits. -/
def holderCoord (sizes ext : List Nat) (st : Word) (g : List Nat) (a : Nat) : Nat :=
  let d := axArg st a
  ((List.range (a + 1)).foldl (fun (x : Nat × Nat × Nat) b =>
    if splitsDim st d b then
      let n := x.1 / sizes.getD b 1
      (n, x.2.1 % n, x.2.1 / n)
    else x) (ext.getD d 1, g.getD d 0, 0)).2.2

/-- R125: the first index of a dimension that a station holds. -/
def firstIndex (sizes ext : List Nat) (st : Word) (c : List Nat) (d : Nat) : Nat :=
  ((List.range 4).foldl (fun (x : Nat × Nat) a =>
    if splitsDim st d a then
      let n := x.1 / sizes.getD a 1
      (n, x.2 + c.getD a 0 * n)
    else x) (ext.getD d 1, 0)).2

/-- R125: the byte offset of an element in a shard that holds it. -/
def elemOff (fmt : Nat) (sizes ext : List Nat) (st : Word) (g : List Nat) : Nat :=
  plBytes fmt * (List.range 4).foldl (fun n d =>
    let x := localExt sizes ext st d
    n * x + g.getD d 0 % x) 0

/-- R125: the elements of a station's shard, in the order in which they lie. -/
def shardElems (sizes ext : List Nat) (st : Word) (c : List Nat) : List (List Nat) :=
  let l := fun d => localExt sizes ext st d
  let at0 := fun d k => firstIndex sizes ext st c d + k
  (List.range (l 0)).flatMap fun a => (List.range (l 1)).flatMap fun b =>
    (List.range (l 2)).flatMap fun x => (List.range (l 3)).map fun y => [at0 0 a, at0 1 b, at0 2 x, at0 3 y]

/-! ## Values -/

/-- R128, Table 4.6: an element at a station after some steps, the last of them first. `fetch` gives it as it stands in the
old shard at some coordinates, and `fold` folds the values along an axis. -/
def convVal {α : Type} (sizes ext : List Nat) (fetch : List Nat → α) (fold : Nat → List α → α) (g : List Nat) :
    List (Nat × Word) → List Nat → α
  | [], c => fetch c
  | x :: earlier, c =>
    let c' := (List.range sizes.length).map fun b => if axKind x.2 b = 1 then holderCoord sizes ext x.2 g b else c.getD b 0
    if axKind x.2 x.1 = 2 then
      fold (axArg x.2 x.1) ((List.range (sizes.getD x.1 1)).map fun j => convVal sizes ext fetch fold g earlier (c'.set x.1 j))
    else convVal sizes ext fetch fold g earlier c'

/-- R130: the greater of two FP32 patterns: −0 below +0, and any NaN gives the canonical one. -/
def fmax32 (a b : Nat) : Nat :=
  let nan := fun x => 0x7F800000 < x % 2 ^ 31
  let key := fun x => if x < 2 ^ 31 then x + 2 ^ 31 else 2 ^ 32 - 1 - x
  if nan a || nan b then 0x7FC00000 else if key a < key b then b else a

/-- R130: one step of a fold. -/
def foldStep (fmt op a b : Nat) : Nat :=
  if op = 0 then (if fmt = 0 then fadd32 a b else (a + b) % 2 ^ 32)
  else if fmt = 0 then fmax32 a b
  else if signedOf a 32 < signedOf b 32 then b else a

/-- R130: fold partials in ascending coordinate. -/
def foldPartials (fmt op : Nat) : List Nat → Nat
  | [] => 0
  | x :: xs => xs.foldl (foldStep fmt op) x

/-- Does a conversion fold? -/
def convFolds (st demand : Word) : Bool := (convSteps st demand).any fun x => axKind x.2 x.1 = 2

/-- The position whose old shard gives an element of a conversion that folds nothing. -/
def convSrc (sizes ext : List Nat) (st demand : Word) (g c : List Nat) : Nat :=
  convVal sizes ext (posOf sizes) (fun _ xs => xs.headD 0) g (convSteps st demand).reverse c

/-- Bytes that follow one another within a 128-byte granule are joined. -/
def joinRuns (xs : List (Nat × List Byte)) : List (Nat × List Byte) :=
  (xs.foldl (fun (acc : List (Nat × List Byte)) x =>
    match acc with
    | [] => [x]
    | y :: ys => if y.1 + y.2.length = x.1 && x.1 % 128 ≠ 0 then (y.1, y.2 ++ x.2) :: ys else x :: y :: ys) []).reverse

end Sys2Proof.Machine
end

