-- ==== Sys2Proof/Machine/Placement.lean ====
section
/-! DEFINITION. The placement table, PLDEM and PLSTATE, and conversions with their messages (R123 to R132, R307, R404, R405). -/

namespace Sys2Proof.Machine

open Sys2Proof

/-! ## Entries -/

def State.place? (s : State) (part n : Nat) : Option Place := mget? (s.part part).places n
def State.setPlace (s : State) (part n : Nat) (f : Place → Place) : State :=
  match s.place? part n with
  | some p => s.setPart part fun x => { x with places := mset x.places n (f p) }
  | none => s

def State.meshOf (s : State) (part : Nat) (p : Place) : Mesh := mget ⟨[], []⟩ (s.part part).meshes p.mesh

/-- R123: the home station of a mesh. -/
def Mesh.home (m : Mesh) : Nat := (minBy? id m.stations).getD 0

/-- The position of a station in a mesh. -/
def Mesh.pos (m : Mesh) (st : Nat) : Nat := m.stations.idxOf st

/-- This station's coordinates. -/
def State.myCoords (s : State) (m : Mesh) : List Nat := coordsOf m.sizes (m.pos s.y.station)

/-- R123: is this station the home of an entry? -/
def State.isHome (s : State) (part : Nat) (p : Place) : Bool := (s.meshOf part p).home = s.y.station

/-- The other stations of a mesh. -/
def State.others (s : State) (m : Mesh) : List Nat := m.stations.filter (· ≠ s.y.station)

/-- Table 4.5: the control word's high word. -/
def Place.hiWord (p : Place) : Nat :=
  p.epoch % 65536 * 65536 + p.fmt % 16 * 4096 + p.mesh % 8 * 512 + p.ndim % 4 * 64 + (if p.busy then 1 else 0)

/-- R307: the word of an entry that SEL chooses. -/
def Place.word (p : Place) (sel : Nat) : Word :=
  match sel with
  | 0 => p.state
  | 1 => BitVec.ofNat 32 p.hiWord
  | 6 => BitVec.ofNat 32 p.base
  | 7 => BitVec.ofNat 32 (p.base / 2 ^ 32)
  | k => BitVec.ofNat 32 (p.ext.getD (k - 2) 1)

/-- The bytes of an entry's shard under a state. -/
def State.shardSize (s : State) (part : Nat) (p : Place) (st : Word) : Nat :=
  shardBytes p.fmt (s.meshOf part p).sizes p.ext st

/-! ## The pool -/

/-- The pool frames of a shard. -/
def State.poolSlice (s : State) (part base bytes : Nat) : List Nat :=
  ((s.part part).poolFrames.drop (base / 65536)).take ((bytes + 65535) / 65536)

/-- R128, step 2: has the pool room for a shard at an offset? -/
def State.poolRoom (s : State) (part base bytes : Nat) : Bool :=
  let fs := s.poolSlice part base bytes
  base % 65536 = 0 && fs.length = (bytes + 65535) / 65536 && fs.all fun n => (s.frame n).state = 0

/-- R128, R397: frames of the pool are mapped for a shard. -/
def State.mapShard (s : State) (part : Nat) (fs : List Nat) (lbl : Label) : State :=
  fs.foldl (fun s n => s.setFrame n ⟨1, part, lbl⟩) s

/-- R128: the offset that the home chooses, one of those with room (assumption 12). -/
def State.chooseBase (s : State) (part bytes : Nat) (conv : Word) : Option Nat :=
  let cs := ((List.range (s.part part).poolFrames.length).map (· * 65536)).filter fun b => s.poolRoom part b bytes
  match cs with
  | [] => none
  | c :: _ => some (cs.getD (Config.freePlace conv.toNat % cs.length) c)

/-- The physical address of a byte of a shard that lies in some frames. -/
def shardAddr (fs : List Nat) (off : Nat) : Nat := fs.getD (off / 65536) 0 * 65536 + off % 65536

/-- The physical ranges of a shard. -/
def shardRanges (fs : List Nat) (bytes : Nat) : List (Nat × Nat) :=
  fs.zipIdx.map fun x => (x.1 * 65536, min 65536 (bytes - 65536 * x.2))

/-- Bytes of a shard of this station. -/
def State.shardRead (s : State) (fs : List Nat) (off n : Nat) : List Byte := creads s.m.mem (shardAddr fs off) n

/-! ## Waiting paths -/

/-- Does an outstanding request name a path? -/
def State.pldemOpen (s : State) (pid : Nat) : Bool :=
  (s.gr.preqs.any fun x => x.2.2.pids.contains pid) || s.gr.convs.any fun c => c.reqs.any fun r => r.pids.contains pid

/-- R129: a path parked at PLDEM goes on behind it, with an acquire of mesh scope. -/
def State.pldemGo (s : State) (p : Path) : State :=
  match s.parkWord p with
  | none => s
  | some (ins, len) =>
    match s.parkIss p ins with
    | none => s
    | some i =>
      let s := ((s.acquire i.g i.on 3).account i i.on).tokDown i.f.tok (i.on.map (·.t))
      s.stepOver p.id len i.f.stall

/-- Is a path parked at PLDEM? -/
def Path.atPlace (p : Path) : Bool := match p.state with | .parked (.placement ..) => true | _ => false

/-- The faults, requests and entry of a path parked at PLDEM. -/
def Path.place? (p : Path) : Option (Nat × Nat × Option Nat) :=
  match p.state with | .parked (.placement n e f) => some (n, e, f) | _ => none

/-- R126, R129: the paths of resident teams whose requests have all completed go on. -/
def State.pldemWake (s : State) (pids : List Nat) : State :=
  pids.foldl (fun s pid =>
    match s.path? pid with
    | some p => if p.atPlace && s.running p.g.tid && !s.pldemOpen pid then s.pldemGo p else s
    | none => s) s

/-- R127, R131, R307: the placement fault of a path parked at PLDEM. -/
def State.placeFlt (s : State) (p : Path) (detail : Nat) : State :=
  let word := match s.team? p.g.tid with | some t => (s.codeWord t.part t.ctx p.pc).getD 0 | none => 0
  s.takeFault p.g.tid fcPlace detail p.core p.quad 0 p.pc word 0 0

/-- R127, R129, R131: every team with a path of a request takes a placement fault, a saved team when it is restored. -/
def State.pldemFault (s : State) (pids : List Nat) (detail : Nat) : State :=
  pids.foldl (fun s pid =>
    match s.path? pid with
    | some p =>
      if (s.team? p.g.tid).any Team.resident then s.placeFlt p detail
      else
        match p.place? with
        | some (n, e, f) => s.setPath p.id fun p => { p with state := .parked (.placement n e (f.orElse fun _ => some detail)) }
        | none => s
    | none => s) s

/-- R129: a path waits no longer for its requests of one entry. -/
def State.pldemDrop (s : State) (part entry pid : Nat) : State :=
  let f := fun (r : PReq) => { r with pids := r.pids.filter (· ≠ pid) }
  { s with
    gr.preqs := s.gr.preqs.map fun (x : Nat × Nat × PReq) => if x.1 = part && x.2.1 = entry then (x.1, x.2.1, f x.2.2) else x
    gr.convs := s.gr.convs.map fun (c : Conv) => if c.part = part && c.entry = entry then { c with reqs := c.reqs.map f } else c }

/-- R129: a restored path parked at PLDEM: it takes the fault of an abandoned conversion, goes on where EPOCH has advanced or every
request of its lanes is complete, and otherwise waits on. -/
def State.pldemBack (s : State) (pid : Nat) : State :=
  match s.path? pid with
  | none => s
  | some p =>
    match p.place?, s.team? p.g.tid with
    | some (_, _, some d), _ => s.placeFlt p d
    | some (n, e, none), some t =>
      let s := if (s.place? t.part n).any fun x => x.epoch ≠ e then s.pldemDrop t.part n pid else s
      if s.pldemOpen pid then s else s.pldemGo p
    | _, _ => s

/-! ## Conversions at a station -/

def State.conv? (s : State) (part entry : Nat) : Option Conv := s.gr.convs.find? fun c => c.part = part && c.entry = entry
def State.setConv (s : State) (part entry : Nat) (f : Conv → Conv) : State :=
  { s with gr.convs := s.gr.convs.map fun (c : Conv) => if c.part = part && c.entry = entry then f c else c }
def State.dropConv (s : State) (part entry : Nat) : State :=
  { s with gr.convs := s.gr.convs.filter fun (c : Conv) => !(c.part = part && c.entry = entry) }

/-- The requests of an entry that wait in order. -/
def State.waitingReqs (s : State) (part entry : Nat) : List PReq :=
  (s.gr.preqs.filter fun x => x.1 = part && x.2.1 = entry).map fun x => x.2.2

/-- Take the requests of an entry that satisfy a test out of the order. -/
def State.takeReqs (s : State) (part entry : Nat) (f : PReq → Bool) : List PReq × State :=
  ((s.waitingReqs part entry).filter f,
    { s with gr.preqs := s.gr.preqs.filter fun (x : Nat × Nat × PReq) => !(x.1 = part && x.2.1 = entry && f x.2.2) })

/-- A message body that opens with an entry and a conversion number (Table 21.10). -/
def convBody (entry : Nat) (conv : Word) (rest : List Byte) : List Byte := natLE 4 (entry % 4096) ++ natLE 4 conv.toNat ++ rest

/-- R128, step 1, and R129: this station's part of the start. -/
def State.convStart (s : State) (part entry : Nat) (conv demand : Word) (home : Bool) (reqs : List PReq) : State :=
  match s.place? part entry with
  | none => s
  | some p =>
    let goal := s.shardSize part p (convFinal p.state demand)
    let c : Conv :=
      { part := part, entry := entry, conv := conv, demand := demand, home := home, reqs := reqs, ready := [], base := 0, lbl := 0,
        frames := [], expect := 0, got := 0, read := [], answered := false }
    let s := s.setPlace part entry fun p => { p with busy := true, count := 0, goal := goal }
    { s with
      m.readonly := s.m.readonly ++ shardRanges p.frames (s.shardSize part p p.state)
      gr.convs := s.gr.convs ++ [c] }

/-- R405: what this station's old shard gives another station of a conversion that folds nothing: offsets and bytes. -/
def State.pushRuns (s : State) (m : Mesh) (p : Place) (demand : Word) (st : Nat) : List (Nat × List Byte) :=
  let fin := convFinal p.state demand
  let c := coordsOf m.sizes (m.pos st)
  joinRuns ((shardElems m.sizes p.ext fin c).filterMap fun g =>
    if convSrc m.sizes p.ext p.state demand g c = m.pos s.y.station then
      some (elemOff p.fmt m.sizes p.ext fin g,
        s.shardRead p.frames (elemOff p.fmt m.sizes p.ext p.state g) (plBytes p.fmt))
    else none)

/-- R405: the bytes that other stations write into this station's new shard. -/
def State.expectBytes (s : State) (m : Mesh) (p : Place) (demand : Word) : Nat :=
  if convFolds p.state demand then 0
  else
    let c := s.myCoords m
    plBytes p.fmt * ((shardElems m.sizes p.ext (convFinal p.state demand) c).filter fun g =>
      convSrc m.sizes p.ext p.state demand g c ≠ m.pos s.y.station).length

/-- A UALink request of a Collimator. -/
def State.convReq (s : State) (c : Conv) (st off : Nat) (data : List Byte) (len : Nat) : State :=
  s.sendReq { OutReq.write c.part 0 0 st off c.lbl data (.conv c.part c.entry) with
    kind := if data.isEmpty then 0 else 1, lbl := if data.isEmpty then 0 else c.lbl, len := len, nolease := true }

/-- R128, step 3, and R405: the Collimator writes what other stations need from this one; of a conversion that folds, it reads
their old shards. -/
def State.convMove (s : State) (part entry : Nat) : State :=
  match s.conv? part entry, s.place? part entry with
  | some c, some p =>
    let m := s.meshOf part p
    let s := s.setConv part entry fun c => { c with expect := s.expectBytes m p c.demand }
    (s.others m).foldl (fun s st =>
      if convFolds p.state c.demand then
        (pieces p.base (s.shardSize part p p.state) (s.shardSize part p p.state + 1)).foldl (fun s x => s.convReq c st x.1 [] x.2) s
      else (s.pushRuns m p c.demand st).foldl (fun s x => s.convReq c st (c.base + x.1) x.2 x.2.length) s) s
  | _, _ => s

/-- An element as this station finds it at a position: in its own old shard, or in what its Collimator has read. -/
def State.convFetch (s : State) (m : Mesh) (p : Place) (c : Conv) (g coords : List Nat) : Nat :=
  let pos := posOf m.sizes coords
  let off := elemOff p.fmt m.sizes p.ext p.state g
  let n := plBytes p.fmt
  if pos = m.pos s.y.station then leNat (s.shardRead p.frames off n)
  else
    match c.read.find? fun x => x.1 = pos && x.2.1 ≤ p.base + off && p.base + off < x.2.1 + x.2.2.length with
    | some x => leNat ((x.2.2.drop (p.base + off - x.2.1)).take n)
    | none => 0

/-- Table 4.6: this station writes the elements of its new shard that no other station writes. -/
def State.convFill (s : State) (m : Mesh) (p : Place) (c : Conv) : State :=
  let fin := convFinal p.state c.demand
  let me := s.myCoords m
  let folds := convFolds p.state c.demand
  (shardElems m.sizes p.ext fin me).foldl (fun s' g =>
    if folds || convSrc m.sizes p.ext p.state c.demand g me = m.pos s.y.station then
      let x := convVal m.sizes p.ext (s.convFetch m p c g) (foldPartials p.fmt) g (convSteps p.state c.demand).reverse me
      { s' with m.mem := csets s'.m.mem (shardAddr c.frames (elemOff p.fmt m.sizes p.ext fin g)) (natLE (plBytes p.fmt) x) }
    else s') s

/-- R408: does the old shard of this station hold a block that is uncorrectable? -/
def State.shardBad (s : State) (part : Nat) (p : Place) : Option Loc :=
  (shardRanges p.frames (s.shardSize part p p.state)).findSome? fun x => if s.eccBad (.mem x.1) x.2 then some (.mem x.1) else none

/-- R405: has this station's Collimator nothing more to wait for? -/
def State.convIdle (s : State) (c : Conv) : Bool :=
  !c.frames.isEmpty && !c.answered && c.expect ≤ c.got && !s.y.reqs.any fun r => r.who = .conv c.part c.entry

/-- R128, step 4, and R129: the switch at this station. -/
def State.convSwitch (s : State) (part entry : Nat) : State :=
  match s.conv? part entry, s.place? part entry with
  | some c, some p =>
    let size := s.shardSize part p p.state
    let fin := convFinal p.state c.demand
    let old := shardRanges p.frames size
    let s := s.setPlace part entry fun p =>
      { p with state := fin, base := c.base, epoch := (p.epoch + 1) % 65536, busy := false, frames := c.frames, lbl := c.lbl,
               count := p.count + p.goal }
    let s := { s with m.readonly := s.m.readonly.filter fun (x : Nat × Nat) => !old.contains x }
    let s := (s.startScrub p.frames none false).dropConv part entry
    let (mine, s) := s.takeReqs part entry fun r => r.demand = c.demand && !c.home
    s.pldemWake ((mine ++ c.reqs).flatMap (·.pids))
  | _, _ => s

/-- R129, R131: a conversion is abandoned at this station. -/
def State.convAbandon (s : State) (part entry reason : Nat) : State :=
  match s.conv? part entry, s.place? part entry with
  | some c, some p =>
    let old := shardRanges p.frames (s.shardSize part p p.state)
    let s := s.setPlace part entry fun p => { p with busy := false, count := p.goal }
    let s := { s with
      m.readonly := s.m.readonly.filter fun (x : Nat × Nat) => !old.contains x
      y.reqs := s.y.reqs.filter fun (r : OutReq) => r.who ≠ FabWho.conv part entry }
    let s := (if c.frames.isEmpty then s else s.startScrub c.frames none false).dropConv part entry
    let (mine, s) := s.takeReqs part entry fun r => r.demand = c.demand && !c.home
    s.pldemFault ((mine ++ c.reqs).flatMap fun (r : PReq) => r.pids) reason
  | _, _ => s

/-! ## The home -/

/-- Send a conversion message to every other station of an entry's mesh. -/
def State.convCast (s : State) (part : Nat) (p : Place) (typ : Nat) (body : List Byte) : State :=
  (s.others (s.meshOf part p)).foldl (fun s st => s.sendMsg typ part part st body) s

/-- R128, step 2: the union of the old shards' labels, which every station of the mesh has alike: PLINSTALL gives its first shards one
label at all of them (R397), and so does every conversion. -/
def State.oldLabels (s : State) (p : Place) : Label := p.frames.foldl (fun l n => l ||| (s.frame n).lbl) p.lbl

/-- R405: the request of a station that needs no conversion is complete. -/
def State.reqDone (s : State) (part entry : Nat) (r : PReq) (epoch : Nat) : State :=
  if r.station = s.y.station then s.pldemWake r.pids
  else s.sendMsg 0x36 part part r.station (convBody entry 0 (natLE 8 epoch))

/-- R127: a demand that no conversion can satisfy. -/
def State.reqRefuse (s : State) (part entry : Nat) (r : PReq) : State :=
  if r.station = s.y.station then s.pldemFault r.pids 1
  else s.sendMsg 0x35 part part r.station (convBody entry 0 (natLE 8 1))

/-- R131: the home ends a conversion at every station. -/
def State.homeAbandon (s : State) (part entry reason : Nat) : State :=
  match s.conv? part entry, s.place? part entry with
  | some c, some p => (s.convCast part p 0x35 (convBody entry c.conv (natLE 8 reason))).convAbandon part entry reason
  | _, _ => s

/-- R131: a conversion cannot go on at this station: the home ends it, and any other station tells the home. -/
def State.convBreak (s : State) (part entry reason : Nat) : State :=
  match s.conv? part entry, s.place? part entry with
  | some c, some p =>
    if c.home then s.homeAbandon part entry reason
    else s.sendMsg 0x35 part part (s.meshOf part p).home (convBody entry c.conv (natLE 8 reason))
  | _, _ => s

/-- R405: the home takes a station's answer. The switch follows the last. -/
def State.convAnswer (s : State) (part entry st status : Nat) : State :=
  match s.conv? part entry, s.place? part entry with
  | some c, some p =>
    if status = 3 then s.homeAbandon part entry 3
    else if status = 1 then s
    else
      let got := dedup (st :: c.ready)
      let s := s.setConv part entry fun c => { c with ready := got }
      if (s.meshOf part p).stations.all fun x => got.contains x then
        (s.convCast part p 0x34 (convBody entry c.conv [])).convSwitch part entry
      else s
  | _, _ => s

/-- R405: this station answers PREADY. -/
def State.convReady (s : State) (part entry status : Nat) : State :=
  match s.conv? part entry, s.place? part entry with
  | some c, some p =>
    if c.home then s.convAnswer part entry s.y.station status
    else s.sendMsg 0x33 part part (s.meshOf part p).home (convBody entry c.conv (natLE 8 status))
  | _, _ => s

/-- R405: once nothing more is under way, the new shard is complete here. -/
def State.convProgress (s : State) (part entry : Nat) : State :=
  match s.conv? part entry, s.place? part entry with
  | some c, some p =>
    if s.convIdle c then
      let s := s.convFill (s.meshOf part p) p c
      (s.setConv part entry fun c => { c with answered := true }).convReady part entry 0
    else s
  | _, _ => s

/-- R128, step 2: this station allocates the new shard, or finds its pool short; a later label for a shard that it holds already
joins that shard's frames. -/
def State.convAlloc (s : State) (part entry base : Nat) (lbl : Label) : State :=
  match s.conv? part entry, s.place? part entry with
  | some c, some p =>
    let bytes := s.shardSize part p (convFinal p.state c.demand)
    if !c.frames.isEmpty then
      (s.mapShard part c.frames (c.lbl ||| lbl)).setConv part entry fun c => { c with lbl := c.lbl ||| lbl }
    else if !s.poolRoom part base bytes then s.convReady part entry 3
    else
      let fs := s.poolSlice part base bytes
      let s := (s.mapShard part fs lbl).setConv part entry fun c => { c with base := base, lbl := lbl, frames := fs }
      match s.shardBad part p with
      | some loc => (s.rowError loc none).convBreak part entry 4
      | none => ((s.convReady part entry 1).convMove part entry).convProgress part entry
  | _, _ => s

/-- R128: the home starts a conversion for some merged requests. -/
def State.homeStart (s : State) (part entry : Nat) (p : Place) (demand : Word) (reqs : List PReq) : State :=
  let conv := (s.part part).convNext
  let s := s.setPart part fun x => { x with convNext := conv + 1 }
  let s := s.convCast part p 0x31 (convBody entry conv (natLE 4 demand.toNat ++ natLE 4 p.epoch))
  let s := s.convStart part entry conv demand true reqs
  let lbl := reqs.foldl (fun l r => l ||| r.lbl) (s.oldLabels p)
  match s.chooseBase part (s.shardSize part p (convFinal p.state demand)) conv with
  | none => s.homeAbandon part entry 3
  | some base =>
    (s.convCast part p 0x32 (convBody entry conv (natLE 8 base ++ natLE 8 lbl.toNat))).convAlloc part entry base lbl

/-- R127: the home starts the requests of an entry, each at its turn. -/
def State.homeTurn (s : State) (part entry : Nat) : Nat → State
  | 0 => s
  | n + 1 =>
    match s.conv? part entry, s.place? part entry, s.waitingReqs part entry with
    | none, some p, r :: _ =>
      let (rs, s) := s.takeReqs part entry fun x => x.demand = r.demand
      if demandMatches p.state r.demand then
        (rs.foldl (fun s x => s.reqDone part entry x p.epoch) s).homeTurn part entry n
      else if demandBad (s.meshOf part p).sizes p.ext p.state r.demand then
        (rs.foldl (fun s x => s.reqRefuse part entry x) s).homeTurn part entry n
      else (s.homeStart part entry p r.demand rs).homeTurn part entry n
    | _, _, _ => s

/-- R127: a request reaches the home. One that is equal to the running conversion's merges with it. -/
def State.homeRequest (s : State) (part entry : Nat) (r : PReq) : State :=
  match s.conv? part entry, s.place? part entry with
  | some c, some p =>
    if c.demand = r.demand then
      let s := s.setConv part entry fun c => { c with reqs := c.reqs ++ [r] }
      if Label.sub r.lbl c.lbl then s
      else (s.convCast part p 0x32 (convBody entry c.conv (natLE 8 c.base ++ natLE 8 (c.lbl ||| r.lbl).toNat))).convAlloc
        part entry c.base r.lbl
    else { s with gr.preqs := s.gr.preqs ++ [(part, entry, r)] }
  | _, _ => { s with gr.preqs := s.gr.preqs ++ [(part, entry, r)] }.homeTurn part entry 4096

/-- The requests that wait at a home after a conversion of their entry has ended. -/
def State.homeNext (s : State) (part entry : Nat) : State :=
  match s.place? part entry with
  | some p => if s.isHome part p then s.homeTurn part entry 4096 else s
  | none => s

/-! ## PLDEM and PLSTATE -/

/-- R307: the entry that a lane names. -/
def State.plIndex (s : State) (i : Iss) (l : Lane) : Nat := s.rd32 l.t i.f.lit i.f.a
def State.plOf (s : State) (i : Iss) (l : Lane) : Option Place :=
  let n := s.plIndex i l
  if n < (s.part i.g.part).plSize then s.place? i.g.part n else none

/-- R307: the demanded state word of a lane. -/
def State.plDemand (s : State) (i : Iss) (l : Lane) : Word := BitVec.ofNat 32 (s.rd32 l.t i.f.lit i.f.b)

/-- R307: the faults of PLDEM and PLSTATE in a lane. -/
def State.plFlt (s : State) (i : Iss) (l : Lane) : Option Flt :=
  if (s.plOf i l).isNone then some ⟨fcPlace, 6, 0, 0⟩
  else if i.op = 9 && demandReserved (s.plDemand i l) then some ⟨fcPlace, 7, 0, 0⟩
  else none

/-- R126: does a lane's demand complete at once? -/
def State.plMet (s : State) (i : Iss) (l : Lane) : Bool :=
  match s.plOf i l with
  | some p => demandMatches p.state (s.plDemand i l) && !p.busy
  | none => true

/-- R126, R307: does a lane of some that issue together send a request: its demand is not met, or an earlier lane demands another state
of its entry? -/
def State.plSends (s : State) (i : Iss) (ls : List Lane) (l : Lane) : Bool :=
  !s.plMet i l || ls.any fun x => x.q < l.q && s.plIndex i x = s.plIndex i l && !s.plMet i x

/-- R126, R307: a path with a lane that sends a request parks whole. -/
def State.plStop (s : State) (i : Iss) : State × List (Lane × Park) :=
  (s, i.on.filterMap fun l =>
    match i.on.find? fun x => x.pid = l.pid && s.plSends i i.on x with
    | some x => some (l, .placement (s.plIndex i x) (((s.plOf i x).map fun p => p.epoch).getD 0) none)
    | none => none)

/-- R126: a lane's request goes to the home. -/
def State.plRequest (s : State) (i : Iss) (l : Lane) : State :=
  match s.plOf i l with
  | none => s
  | some p =>
    let n := s.plIndex i l
    let d := s.plDemand i l
    let lbl := s.aluLbl i l
    let r : PReq := { station := s.y.station, demand := d, lbl := lbl, pids := [l.pid] }
    if s.isHome i.g.part p then s.homeRequest i.g.part n r
    else
      let s := { s with gr.preqs := s.gr.preqs ++ [(i.g.part, n, r)] }
      s.sendMsg 0x30 i.g.part i.g.part (s.meshOf i.g.part p).home
        (natLE 4 (n % 4096) ++ natLE 4 d.toNat ++ natLE 4 (lbl.toNat + i.g.core * 65536) ++ natLE 4 0)

/-- The lanes of the paths that PLDEM has parked in this issue. -/
def State.plParked (s : State) (i : Iss) : List Lane :=
  sortBy Lane.q ((s.sch.paths.filter fun p => p.atPlace && p.pc = i.g.pc && p.core = i.g.core && p.quad = i.g.quad &&
    p.since = s.clk.cycle && !s.pldemOpen p.id).flatMap s.pathLanes)

/-- R126, R127, R307: PLDEM. -/
def pldemMeaning : Meaning where
  flt s i l := s.plFlt i l
  closes _ _ _ := true
  hold s i := s.release92 i.g (i.on.map fun l => (l.t, 3))
  stop s i := s.plStop i
  eff s i :=
    let ls := s.plParked i
    let s := (ls.filter fun l => s.plSends i ls l).foldl (fun s l => s.plRequest i l) s
    s.tokDown i.f.tok (i.on.map (·.t))

/-- R307: PLSTATE. -/
def plstateMeaning : Meaning where
  flt s i l := s.plFlt i l
  eff s i := s.putRes i 8 (i.on.map fun l =>
    ⟨l, [match s.plOf i l with | some p => p.word (mdSel i.f.md) | none => 0], s.aluLbl i l⟩)

/-! ## Messages -/

/-- R404: is a message taken: it is meant for this station, its rsvd fields are 0, and its MINOR is one that a port towards the
sender has agreed on? -/
def State.msgOk (s : State) (h : MsgHdr) : Bool :=
  !h.rsvd && h.tstation = s.y.station &&
    s.y.ports.any fun kv => kv.2.st = 4 && kv.2.far = h.sstation && h.minor ≤ kv.2.minor

/-- Take a message, or discard it. -/
def State.onMsg (s : State) (h : MsgHdr) (f : State → State) : Host.Outcome State Fault Refusal :=
  .next (if s.msgOk h then f s else s)

/-! ## The instructions and the messages -/

/-- R126, R307: PLDEM, short form. -/
def execPldem (f : SForm) (s : State) : Host.Outcome State Fault Refusal := runWord (.pldem f) pldemMeaning s

/-- R126, R307: PLDEM, long form. -/
def execPldemLong (f : LForm) (s : State) : Host.Outcome State Fault Refusal := runWord (.pldemLong f) pldemMeaning s

/-- R307: PLSTATE. -/
def execPlstate (f : LForm) (s : State) : Host.Outcome State Fault Refusal := runWord (.plstate f) plstateMeaning s

/-- R127, R405: PREQ. A station that is not the home discards it. CORE orders the requests of one cycle (`firstLate`). -/
def execPreq (h : MsgHdr) (entry : Nat) (demand : Word) (label : Label) (_core : Nat) (s : State) :
    Host.Outcome State Fault Refusal :=
  s.onMsg h fun s =>
    match s.place? h.tpart entry with
    | some p => if s.isHome h.tpart p then s.homeRequest h.tpart entry ⟨h.sstation, demand, label, []⟩ else s
    | none => s

/-- R128, step 1: PSTART. -/
def execPstart (h : MsgHdr) (entry : Nat) (conv demand : Word) (_epoch : Nat) (s : State) : Host.Outcome State Fault Refusal :=
  s.onMsg h fun s => if (s.conv? h.tpart entry).isSome then s else s.convStart h.tpart entry conv demand false []

/-- Does a message name the conversion that runs for an entry? -/
def State.convIs (s : State) (part entry : Nat) (conv : Word) : Bool := (s.conv? part entry).any fun c => c.conv = conv

/-- R128, step 2: PALLOC. -/
def execPalloc (h : MsgHdr) (entry : Nat) (conv : Word) (base : DWord) (lnew : Label) (s : State) :
    Host.Outcome State Fault Refusal :=
  s.onMsg h fun s => if s.convIs h.tpart entry conv then s.convAlloc h.tpart entry (base.toNat % 2 ^ 50) lnew else s

/-- R405: PREADY. -/
def execPready (h : MsgHdr) (entry : Nat) (conv : Word) (status : Nat) (s : State) : Host.Outcome State Fault Refusal :=
  s.onMsg h fun s =>
    if s.convIs h.tpart entry conv then (s.convAnswer h.tpart entry h.sstation status).homeNext h.tpart entry else s

/-- R128, step 4: PSWITCH. -/
def execPswitch (h : MsgHdr) (entry : Nat) (conv : Word) (s : State) : Host.Outcome State Fault Refusal :=
  s.onMsg h fun s => if s.convIs h.tpart entry conv then s.convSwitch h.tpart entry else s

/-- R131: PABANDON. One without a conversion refuses this station's oldest request of the entry that no conversion can satisfy. -/
def execPabandon (h : MsgHdr) (entry : Nat) (conv : Word) (reason : Nat) (s : State) : Host.Outcome State Fault Refusal :=
  s.onMsg h fun s =>
    match s.conv? h.tpart entry, s.place? h.tpart entry with
    | some c, _ =>
      if c.conv ≠ conv then s
      else if c.home then (s.homeAbandon h.tpart entry reason).homeNext h.tpart entry
      else s.convAbandon h.tpart entry reason
    | none, some p =>
      match (s.waitingReqs h.tpart entry).find? fun r => demandBad (s.meshOf h.tpart p).sizes p.ext p.state r.demand with
      | some r =>
        let (rs, s) := s.takeReqs h.tpart entry fun x => x.demand = r.demand
        s.pldemFault (rs.flatMap (·.pids)) reason
      | none => s
    | none, none => s

/-- R127, R129: PDONE. -/
def execPdone (h : MsgHdr) (entry : Nat) (_conv : Word) (_epoch : Nat) (s : State) : Host.Outcome State Fault Refusal :=
  s.onMsg h fun s =>
    match s.place? h.tpart entry with
    | some p =>
      let (rs, s) := s.takeReqs h.tpart entry fun r => demandMatches p.state r.demand
      s.pldemWake (rs.flatMap (·.pids))
    | none => s

end Sys2Proof.Machine
end

