-- ==== Sys2Proof/Machine/Service.lean ====
section
/-! DEFINITION. GATE and the Release Gate, LBLRD, and SYSCALL with the Parlour's services (R117, R119 to R122, R308, R309, R311,
R377). -/

namespace Sys2Proof.Machine

open Sys2Proof

/-! ## The gate -/

/-- Table 11.8: a gate request. -/
structure GateRec where
  policy : Nat
  n : Nat
  src : Nat
  dst : Nat
  rsvd : Bool
  deriving DecidableEq, Repr

def gateRec (bs : List Byte) : GateRec :=
  let w := fun (o n : Nat) => leNat ((bs.drop o).take n)
  { policy := w 0 2, n := w 4 4, src := w 8 8, dst := w 0x10 8, rsvd := w 2 2 ≠ 0 || w 0x18 8 ≠ 0 }

/-- R308: is a request refused before R120 begins? -/
def GateRec.bad (r : GateRec) : Bool :=
  r.rsvd || r.n % 16 ≠ 0 || r.n < 16 || 2 ^ 20 < r.n || r.src % 16 ≠ 0 || r.dst % 16 ≠ 0 || 2 ^ 57 < r.src + r.n || 2 ^ 57 < r.dst + r.n

/-- A lane's request, where its lines are present. -/
def State.gateOf (s : State) (i : Iss) (l : Lane) : Option GateRec :=
  match s.recBytes l (s.recOff i l) 32 with | .ok bs => some (gateRec bs) | .error _ => none

/-- R308: the faults of a lane's request. -/
def State.gateFlt (s : State) (i : Iss) (l : Lane) : Option Flt :=
  (s.recFlt i 32 l).or
    (match s.gateOf i l with
      | some r => if r.bad then some ⟨fcGate, 1, 0, s.recOff i l⟩ else none
      | none => none)

/-- The translations of a span, one for each of its pages. -/
def State.spanTrs (s : State) (i : Iss) (a n : Nat) (write : Bool) : List (Nat × Tr) :=
  (pageHeads a n).map fun x => (x, s.translate i.g.core i.g.part i.g.ctx x write)

/-- The translations of a request's source and destination. -/
def State.gateTrs (s : State) (i : Iss) (r : GateRec) : List (Nat × Tr) :=
  s.spanTrs i r.src r.n false ++ s.spanTrs i r.dst r.n true

/-- R120: the lanes whose request has a page that does not translate. -/
def State.gatePages (s : State) (i : Iss) : State × List (Lane × Park) :=
  s.reportPages i (i.on.filterMap fun l =>
    (s.gateOf i l).bind fun r => (s.gateTrs i r).findSome? fun x =>
      match x.2 with
      | .page pf code detail gpa log => some ⟨l, l.t.tid, pageBase x.1 log, x.1, pf, code, detail, gpa⟩
      | _ => none)

/-- R120: the union of the frame labels of a source. -/
def State.gateSrcLbl (s : State) (i : Iss) (r : GateRec) : Label :=
  (s.spanTrs i r.src r.n false).foldl (fun l x => match x.2 with | .ok _ fl => l ||| fl | _ => l) 0

/-- The label of a slot. -/
def slotLbl (n : Nat) : Label := (1 : BitVec 16) <<< n

/-- Table 4.1, R119, R120: does a destination page belong to a policy's destination? A window belongs to the principal whose slot its label
holds, and a frame of this module to that of its partition's function. A frame or window of the destination's principal whose label
lacks DSLOT is no destination either: the spec does not say whether that is a gate fault or the label fault of R113, and the model takes
the gate fault, with no charge (assumption 68). -/
def State.gateDstOk (s : State) (part : Nat) (e : Policy) (x : Tr) : Bool :=
  match x with
  | .ok loc fl =>
    Label.sub (slotLbl e.dslot) fl &&
      (match loc with
        | .host a _ => e.dkind = 0 && s.m.wins.any fun w => w.part = part && w.host ≤ a && a < w.host + w.size &&
            (s.fn w.fn).slot = some e.dslot
        | .mem a => e.dkind = 1 && (s.fn (s.fnOf (s.frame (a / 65536)).owner)).slot = some e.dslot
        | .fab .. => e.dkind = 1 && fl = slotLbl e.dslot)
  | _ => false

/-- R120, R366: does a request's translation end the team? -/
def State.gateTrFlt (s : State) (i : Iss) (r : GateRec) : Option Flt :=
  (s.gateTrs i r).findSome? fun x =>
    match x.2 with
    | .bad d => some ⟨fcTrans, d, x.1, 0⟩
    | .ok loc _ => if s.owned i.g.part loc then none else some ⟨fcTrans, 3, x.1, 0⟩
    | .page .. => none

/-- R120, R121: a lane's request at its turn: a gate fault, or the charge and the transfer. -/
def State.gateLane (s : State) (i : Iss) (park : Nat) (l : Lane) : State × LaneOut :=
  match s.gateOf i l with
  | none => (s, .done [] 0)
  | some r =>
    match s.gateTrFlt i r with
    | some f => (s, .fault f)
    | none =>
      match s.y.policies.find? fun e => e.id = r.policy with
      | none => (s, .fault ⟨fcGate, 2, 0, 0⟩)
      | some e =>
        let lsrc := s.gateSrcLbl i r ||| s.cmdLbl i l (s.recOff i l) 32
        if decide (e.notafter ≠ 0) && DWord.past s.clk.tclk e.notafter then (s, .fault ⟨fcGate, 2, 0, 0⟩)
        else if !Label.sub lsrc e.lset then (s, .fault ⟨fcGate, 3, 0, 0⟩)
        else if !(s.spanTrs i r.dst r.n true).all fun x => s.gateDstOk i.g.part e x.2 then (s, .fault ⟨fcGate, 4, 0, 0⟩)
        else if e.remain.toNat < r.n then (s, .fault ⟨fcGate, 5, 0, 0⟩)
        else
          let (id, s) := s.freshId
          let x : GateXfer :=
            { id := id, t := l.t, src := r.src, dst := r.dst, n := r.n, dslot := e.dslot, due := s.clk.cycle + 2 * halfTrip, gwct := 0,
              moved := 0, got := [], refused := none, backoff := 0 }
          let s := { s with
            y.policies := s.y.policies.map fun (p : Policy) =>
              if p.id = r.policy then { p with remain := p.remain - BitVec.ofNat 64 r.n } else p
            e.gates := s.e.gates ++ [x] }
          (s, .park (.gate park))

/-- R120: absent lines, pages that do not translate, and the transfers that begin. -/
def State.gateStop (s : State) (i : Iss) : State × List (Lane × Park) :=
  let out : List (Lane × Park) := mergeLines (i.on.filterMap fun l =>
    match s.recBytes l (s.recOff i l) 32 with | .error why => some (l, why) | .ok _ => none)
  let (s, pages) := s.gatePages { i with on := i.on.filter fun l => !(out.map (·.1.t)).contains l.t }
  let gone := (out ++ pages).map (·.1.t)
  let (n, s) := s.freshId
  let (s, outs) := s.laneLoop (fun s l => s.gateLane i n l) i.g (i.on.filter fun l => !gone.contains l.t)
  (s, out ++ pages ++ parked outs)

/-- R120, R308: GATE. -/
def gateMeaning : Meaning where
  flt s i l := s.gateFlt i l
  closes _ _ _ := true
  hold s i := s.release92 i.g (i.on.map fun l => (l.t, 4))
  stop s i := s.gateStop i
  eff s _ := s

/-- A path parked behind a transfer or a service call goes on behind its instruction, with an acquire where one is due. -/
def State.goBehind (s : State) (p : Path) (acq : Option Nat) : State :=
  match s.parkWord p with
  | none => s
  | some (ins, len) =>
    match s.parkIss p ins with
    | none => s
    | some i =>
      let s := match acq with | some sc => s.acquire i.g i.on sc | none => s
      ((s.account i i.on).tokDown i.f.tok (i.on.map (·.t))).stepOver p.id len i.f.stall

/-- Is a path parked at GATE, with no transfer of its threads under way? -/
def State.gateDone (s : State) (p : Path) : Bool :=
  (match p.state with | .parked (.gate _) => true | _ => false) &&
    !s.e.gates.any fun x => x.t.g = p.g && p.mask.getLsbD x.t.lane

/-- R120: resident paths whose transfers have all completed go on. -/
def State.gateWake (s : State) : State :=
  (s.sch.paths.filter fun p => s.running p.g.tid && s.gateDone p).foldl (fun s p => s.goBehind p none) s

def State.gate? (s : State) (id : Nat) : Option GateXfer := s.e.gates.find? fun x => x.id = id
def State.setGate (s : State) (id : Nat) (f : GateXfer → GateXfer) : State :=
  { s with e.gates := s.e.gates.map fun x => if x.id = id then f x else x }
def State.dropGate (s : State) (id : Nat) : State := { s with e.gates := s.e.gates.filter fun (x : GateXfer) => x.id ≠ id }

/-- Has a transfer a fabric request under way? -/
def State.gateSent (s : State) (id : Nat) : Bool :=
  s.y.reqs.any fun r => match r.who with | .gate g _ => g = id | _ => false

/-- R120: one granule of a transfer: read, and written with the destination's label. The answer says whether it has moved. -/
def State.gateMove (s : State) (x : GateXfer) (core part ctx off n : Nat) : State × Bool :=
  let stop := fun (s : State) (code : Nat) (va : Nat) =>
    let s := s.dropGate x.id
    (if code = fcMemory then s.engFault x.t.tid code fcMemory core 0 va 0
      else s.teamFault x.t.tid code 0 0 va 0, false)
  let wait := fun (s : State) =>
    let first := x.refused.getD s.clk.tclk
    let b := if x.refused.isSome then min 1024 (2 * x.backoff) else 32
    (s.setGate x.id fun x =>
      { x with refused := some first, backoff := b, due := s.clk.cycle + nsCycles ((tryAt first s.clk.tclk b).toNat - s.clk.tclk.toNat) }, false)
  let put := fun (s : State) (bs : List Byte) =>
    match s.engWrite x.t.tid core part ctx (x.dst + off) bs (slotLbl x.dslot) with
    | (s, .ok g) => (s.setGate x.id fun x => { x with moved := off + n, gwct := maxTime x.gwct g, refused := none }, true)
    | (s, .fab st o) =>
      ((s.sendReq (OutReq.write part ctx 0 st o (slotLbl x.dslot) bs (.gate x.id off))).setGate x.id fun x =>
        { x with moved := off + n, refused := none }, true)
    | (s, .refused) => wait s
    | (s, .fault code _) => stop s code (x.dst + off)
  match s.engRead x.t.tid core part ctx (x.src + off) n with
  | .bytes bs _ => put s bs
  | .refused => wait s
  | .fault code _ => stop s code (x.src + off)
  | .fab st o _ =>
    match x.got.find? fun y => y.1 = off with
    | some y => put s y.2
    | none => (s.sendReq { OutReq.write part ctx 0 st o 0 [] (.gate x.id off) with kind := 0, len := n, nolease := true }, false)

/-- The granules of a transfer that are still to move: pieces that lie in one line of the source and of the destination. -/
def gatePieces (x : GateXfer) : List (Nat × Nat) :=
  ((List.range (x.n / 16)).map fun k => (16 * k, 16)).filter fun y => x.moved ≤ y.1

/-- R100, R120: a transfer moves what it can; when every byte is acknowledged, its GWCT joins WCT and the GATE resumes. -/
def State.gateAdvance (s : State) (id : Nat) : State :=
  match s.gate? id with
  | none => s
  | some x =>
    match s.team? x.t.tid with
    | none => s.dropGate id
    | some t =>
      let late := x.refused.any fun a => overdue a s.clk.tclk
      if late then (s.dropGate id).teamFault x.t.tid fcPinned 0 0 x.src 0
      else
        let (s, _) := (gatePieces x).foldl (fun (sb : State × Bool) y =>
          if sb.2 then (match sb.1.gate? id with | some x => sb.1.gateMove x t.core t.part t.ctx y.1 y.2 | none => (sb.1, false)) else sb) (s, true)
        match s.gate? id with
        | none => s
        | some x =>
          if x.n ≤ x.moved && !s.gateSent id then ((s.joinWct x.t x.gwct).dropGate id).gateWake else s

/-! ## LBLRD -/

/-- R309: the tile that LBLRD names. -/
def tileOf (c : Code) : Tile :=
  match Opnd.ofCode c with
  | .v n => .v n
  | .s n => .s n
  | .pred n => .m n
  | _ => .m 7

/-- R309: the plates that a lane's stage declares. -/
def State.plnOf (s : State) (l : Lane) : Nat := match (s.team? l.t.tid).bind s.stageOf with | some st => st.pln | none => 0

/-- R309: the faults of a lane of LBLRD. -/
def State.lblrdFlt (s : State) (i : Iss) (l : Lane) : Option Flt :=
  match mdSel i.f.md with
  | 1 => globFlt (s.addrOf i true l) 1 false
  | 2 => s.scrFlt l.t.tid (s.addrOf i false l) 1 false
  | 4 => if s.vatHeld l.t.tid (s.recOff i l) then none else some ⟨fcVat, 0, 0, 0⟩
  | 5 => if (s.osb? l.t.tid (s.recOff i l)).isSome then none else some ⟨fcOsb, 0, 0, 0⟩
  | 6 => if s.recOff i l < s.plnOf l then none else some ⟨fcPlate, 0, 0, 0⟩
  | _ => none

/-- R309: the label that a lane reads. -/
def State.lblrdVal (s : State) (i : Iss) (l : Lane) : Label :=
  let a := s.recOff i l
  match mdSel i.f.md with
  | 0 => s.tileLbl l.g (tileOf i.f.a)
  | 1 => match s.tr i false l with | .ok _ fl => fl | _ => 0
  | 2 => (s.sline l.t.tid (a / 128)).lbl
  | 3 => l.ctx
  | 4 => s.vatLabel l.t.tid a
  | 5 => match s.osb? l.t.tid a with | some o => o.lbl | none => 0
  | _ => let p := s.plate l.t.tid a; if p.loaded then p.lbl else 0

/-- R429: the latency of LBLRD. -/
def State.lblrdLat (s : State) (i : Iss) : Nat :=
  match mdSel i.f.md with
  | 0 => 6
  | 1 => 36
  | 3 => 6
  | 6 => 10
  | _ => 10 + s.pairLat i

/-- R309: LBLRD. -/
def lblrdMeaning : Meaning where
  flt s i l := s.lblrdFlt i l
  stop s i := if mdSel i.f.md = 1 then s.pageStop i false else (s, [])
  eff s i :=
    let s := s.judge i.g i.on fun l =>
      if mdSel i.f.md = 1 then
        (match s.tr i false l with | .bad d => some ⟨fcTrans, d, (s.addrOf i true l).toNat, 0⟩ | _ => none)
      else none
    let i := { i with on := s.alive i.on }
    s.putRes i (s.lblrdLat i) (i.on.map fun l =>
      ⟨l, [(s.lblrdVal i l).zeroExtend 32], s.aluLbl i l ||| s.lblrdVal i l⟩)

/-! ## The Parlour -/

/-- How long the Parlour takes to reply, which the spec leaves open below 1 ms (assumption 10). -/
def parlourNs : DWord := 1000

/-- R311: a lane's call. -/
def State.callOf (s : State) (i : Iss) (id : Nat) (l : Lane) : Call :=
  { id := id, t := l.t, service := BitVec.ofNat 32 (s.rd32 l.t i.f.lit i.f.b),
    arg := BitVec.ofNat 64 (s.intVal l.t i.f.lit i.f.a 2 0 true), lbl := s.aluLbl i l,
    due := s.clk.tclk + parlourNs, status := none }

/-- R311: the calls go to the Parlour, and their paths park. -/
def State.syscallStop (s : State) (i : Iss) : State × List (Lane × Park) :=
  let (n, s) := s.freshId
  let s := i.on.foldl (fun s l =>
    let (id, s) := s.freshId
    { s with e.calls := s.e.calls ++ [s.callOf i id l] }) s
  (s, i.on.map fun l => (l, .service n))

/-- R311: SYSCALL. -/
def syscallMeaning : Meaning where
  closes _ _ _ := true
  hold s i := s.release92 i.g (i.on.map fun l => (l.t, 4))
  stop s i := s.syscallStop i
  eff s _ := s

/-- The bytes of a global span at their coherence points, with their label; none where some page does not translate or is not
the partition's, or lies at another station. -/
def State.argBytes (s : State) (core part ctx a n : Nat) : Option (List Byte × Label) :=
  match s.spanBytes core part ctx a n with
  | .ok (bs, l) => if bs.length = n then some (bs, l) else none
  | .error _ => none

/-- Where each piece of a global span of this module or the host lies, with the frame labels, for a write. -/
def State.argLocs (s : State) (core part ctx a n : Nat) : Option (List (Loc × Nat) × Label) :=
  (pieces a n (n + 1)).foldl (fun r x =>
    match r, s.translate core part ctx x.1 true with
    | some (ls, lbl), .ok loc fl =>
      (match loc with
        | .fab .. => none
        | _ => if s.owned part loc then some (ls ++ [(loc, x.2)], lbl &&& fl) else none)
    | _, _ => none) (some ([], 0xFFFF))

/-- R377: service 1: 40 bytes at the argument. -/
def State.service1 (s : State) (c : Call) (part ctx core : Nat) : Nat × State :=
  match s.argLocs core part ctx c.arg.toNat 40 with
  | none => (2, s)
  | some (ls, fl) =>
    if !Label.sub c.lbl fl then (3, s)
    else
      let p := s.part part
      let bs := natLE 8 (s.corelim part core) ++ natLE 8 p.grant.toNat ++ natLE 8 (s.fn (s.fnOf part)).ftmo ++
        natLE 8 (p.meth * 2 ^ 20 + p.dl) ++ natLE 8 0
      (0, (ls.foldl (fun (x : State × List Byte) y => (x.1.cohWrite y.1 (x.2.take y.2), x.2.drop y.2)) (s, bs)).1)

/-- R117, R377: may a label leave to the principal of a function? -/
def State.egressOk (s : State) (fn : Nat) (l : Label) : Bool :=
  l = 0 || (match (s.fn fn).slot with | some k => l = slotLbl k | none => false)

/-- R377: service 2: the block goes to the fault queue of the partition's function as code 0x59 of class 2. -/
def State.service2 (s : State) (c : Call) (core part ctx : Nat) : Nat × State :=
  match s.argBytes core part ctx c.arg.toNat 64 with
  | none => (2, s)
  | some (bs, l) =>
    let fn := s.fnOf part
    if s.egressOk fn (l ||| c.lbl) then (0, s.postRecord fn (natLE 4 (2 * 2 ^ 24 + 0x59) ++ bs.drop 4)) else (3, s)

/-- R377: the Parlour serves a call: its status. -/
def State.serve (s : State) (c : Call) (t : Team) (core : Nat) : Nat × State :=
  if c.service = 0 then (0, s)
  else if c.service = 1 then (if 2 ^ 57 < c.arg.toNat + 40 then (2, s) else s.service1 c t.part t.ctx core)
  else if c.service = 2 then (if 2 ^ 57 < c.arg.toNat + 64 then (2, s) else s.service2 c core t.part t.ctx)
  else (1, s)

/-- The calls of a path's threads. -/
def State.callsOf (s : State) (p : Path) : List Call := s.e.calls.filter fun x => x.t.g = p.g && p.mask.getLsbD x.t.lane

/-- Is a path parked at SYSCALL, with every call of its threads answered? -/
def State.callsDone (s : State) (p : Path) : Bool :=
  (match p.state with | .parked (.service _) => true | _ => false) && (s.callsOf p).all fun x => x.status.isSome

/-- R311: the replies of a path's calls are written to d with their labels, and the path goes on with an acquire of system scope. -/
def State.callGo (s : State) (p : Path) : State :=
  match (s.parkWord p).bind fun x => s.parkIss p x.1 with
  | none => s
  | some i =>
    let rs : List LaneRes := i.on.filterMap fun l =>
      ((s.callsOf p).find? fun c => c.t = l.t).map fun c => ⟨l, [c.status.getD 0], c.lbl⟩
    let tiles := Fm.writes i.cls i.op i.f
    let s' := { s with e.calls := s.e.calls.filter fun (c : Call) => !(c.t.g = p.g && p.mask.getLsbD c.t.lane) }
    let s' := (resWrites tiles rs).foldl (fun s' w => s'.writeReg w) s'
    let s' := (s.resLbls tiles rs).foldl (fun s' w => s'.applyLbl w) s'
    s'.goBehind p (some 4)

/-- R311: resident paths whose calls have all been answered go on. -/
def State.callWake (s : State) : State :=
  (s.sch.paths.filter fun p => s.running p.g.tid && s.callsDone p).foldl (fun s p => s.callGo p) s

/-- R311: a call is answered with a status. -/
def State.callEnd (s : State) (c : Call) (status : Word) : State :=
  { s with e.calls := s.e.calls.map fun (x : Call) => if x.id = c.id then { x with status := some status } else x }.callWake

/-- R311, R377: the Parlour replies. -/
def State.reply (s : State) (id : Nat) : State :=
  match s.e.calls.find? fun c => c.id = id with
  | none => s
  | some c =>
    match s.team? c.t.tid with
    | none => { s with e.calls := s.e.calls.filter fun (x : Call) => x.id ≠ id }
    | some t =>
      let core := match s.group? c.t.g with | some g => g.core | none => t.core
      let (st, s) := s.serve c t core
      s.callEnd c (BitVec.ofNat 32 st)

/-! ## The instructions and the events -/

/-- R120, R308: GATE, short form. -/
def execGate (f : SForm) (s : State) : Host.Outcome State Fault Refusal := runWord (.gate f) gateMeaning s

/-- R120, R308: GATE, long form. -/
def execGateLong (f : LForm) (s : State) : Host.Outcome State Fault Refusal := runWord (.gateLong f) gateMeaning s

/-- R309: LBLRD. -/
def execLblrd (f : LForm) (s : State) : Host.Outcome State Fault Refusal := runWord (.lblrd f) lblrdMeaning s

/-- R311: SYSCALL. -/
def execSyscall (f : LForm) (s : State) : Host.Outcome State Fault Refusal := runWord (.syscall f) syscallMeaning s

/-- R120: GATE_TRANSFER_ACK. -/
def execGateTransferAck (gate : Nat) (s : State) : Host.Outcome State Fault Refusal := .next (s.gateAdvance gate)

/-- R311: SYSCALL_REPLY. -/
def execSyscallReply (call : Nat) (s : State) : Host.Outcome State Fault Refusal := .next (s.reply call)

/-- R311: SYSCALL_TIMEOUT. -/
def execSyscallTimeout (call : Nat) (s : State) : Host.Outcome State Fault Refusal :=
  .next (match s.e.calls.find? fun c => c.id = call with
    | some c => s.callEnd c 0xFFFFFFFF
    | none => s)

end Sys2Proof.Machine
end

