-- ==== Sys2Proof/Machine/Sched.lean ====
section
/-! DEFINITION. The issue of a quadrant: which open issue group issues, how a new one forms, and promotion (R24 to R28, R40, R42,
R94, R169, R171, R180, R181, R241, R315, R323). -/

namespace Sys2Proof.Machine

open Sys2Proof

/-! ## Ranks -/

/-- Lists of numbers in the order of their first difference. -/
def lexLt : List Nat → List Nat → Bool
  | [], [] => false
  | [], _ :: _ => true
  | _ :: _, [] => false
  | x :: xs, y :: ys => decide (x < y) || (x = y && lexLt xs ys)

/-- The element of least rank, the first on ties. -/
def leastBy {α : Type} (key : α → List Nat) : List α → Option α
  | [] => none
  | x :: xs =>
    match leastBy key xs with
    | none => some x
    | some y => if lexLt (key y) (key x) then some y else some x

/-- Insert after the elements of no greater rank. -/
def insertLex {α : Type} (key : α → List Nat) (x : α) : List α → List α
  | [] => [x]
  | y :: ys => if lexLt (key x) (key y) then x :: y :: ys else y :: insertLex key x ys

/-- Sort by rank, keeping the order of equal ranks. -/
def sortLex {α : Type} (key : α → List Nat) (xs : List α) : List α := xs.foldl (fun acc x => insertLex key x acc) []

/-! ## May an open group issue? -/

/-- R94: has everything that a hold waits for come true? -/
def State.holdDone (s : State) (h : Hold) : Bool :=
  let there := fun (t : TRef) => (s.team? t.tid).isSome
  (h.rel.all fun x => !there x.1 || (if h.flushed then s.relDone x.1 x.2 else !s.busyThread x.1)) &&
  (h.loads.all fun t => !there t || !s.loading t) &&
  (h.batch.all fun x => !there x.1 || s.unfinished x.1 ≤ x.2) &&
  (h.copies.all fun c => !s.e.copies.any fun x => x.id = c) &&
  (h.mxs.all fun x => !there x.1 || x.2.all fun k => !s.e.mxs.any fun m => m.id = k && !m.done) &&
  (h.chains.all fun x => !there x.1 || x.2.all fun k => !s.e.chains.any fun c => c.id = k && !c.done) &&
  (match h.room with
    | some (0, core) => s.mxRoom core
    | some (1, core) => s.chRoom core
    | some (_, core) => s.coRoom core
    | none => true)

/-- Does an operation of class 3 use the outstanding transaction table? PREF does not wait for it (R253). -/
def usesTable (op : Nat) : Bool := op = 0 || op = 1 || op = 5 || op = 7 || op = 9 || op = 11

/-- R241: the global addresses by which the lanes of a word use the outstanding transaction table. -/
def State.tableVas (s : State) (i : Iss) : List (Lane × Nat) :=
  if (i.cls = 3 && usesTable i.op) || (i.cls = 6 && (i.op = 6 || i.op = 7)) then i.on.map fun l => (l, (s.addrOf i true l).toNat)
  else if i.cls = 6 && i.op = 4 then
    match s.depTab i with
    | some t => i.on.map fun l => (l, s.depVa i t l)
    | none => []
  else []

/-- R241: the line for which a lane's access takes an entry: none where it hits in L1, or is left by LEASE, or goes no further than its
page. -/
def State.entryLine (s : State) (i : Iss) (l : Lane) (va : Nat) : Option Loc :=
  match s.translate i.g.core i.g.part i.g.ctx va (!(i.cls = 3 && (i.op = 0 || i.op = 11))) with
  | .ok loc _ =>
    let hit := i.cls = 3 && i.op = 0 && !mdNl i.f.md && (s.l1Hit i.g.core i.g.part loc.line).isSome && !s.rmwAhead l.t loc.line
    let left := i.cls = 3 && i.op = 11 && (!loc.leaseable || s.l1Cap i.g.part i.g.core = 0)
    if hit || left || (s.pinOf l.t.tid loc.line).isSome then none else some loc.line
  | _ => none

/-- R241: the entries that a word needs: the distinct lines for which its lanes take one. -/
def State.linesOf (s : State) (g : IssueGroup) (cls op : Nat) (f : Fm) : Nat :=
  let i : Iss := ⟨g, cls, op, f, (s.members g.id).filter fun l => s.predOn f l, []⟩
  (dedup ((s.tableVas i).filterMap fun x => s.entryLine i x.1 x.2)).length

/-- R241: does another issue group of the core wait for entries that was held before this one? Of one cycle, the lower quadrant and the
group that formed first. -/
def State.heldBefore (s : State) (g : IssueGroup) : Bool :=
  s.sch.igs.any fun h => h.core = g.core && h.id ≠ g.id &&
    (match h.heldAt, g.heldAt with
      | none, _ => false
      | some _, none => true
      | some a, some b => a < b || (a = b && (h.quad < g.quad || (h.quad = g.quad && h.id < g.id))))

/-- R241: does a word find the entries that it needs? Freed entries go to held groups in the order in which they were held. -/
def State.tableRoom (s : State) (g : IssueGroup) (cls op : Nat) (f : Fm) : Bool :=
  let n := s.linesOf g cls op f
  n = 0 || (s.entries g.core + n ≤ 256 && !s.heldBefore g)

/-- Table 6.6: does an operation open its clause as a convergence point? -/
def opensClause (cls op : Nat) : Bool :=
  match placeOf cls op with
  | .first => true
  | _ => false

/-- R180, R211, R241, R257, R262, R323: may the next word of an open issue group issue? Threads that will wait at a convergence point
issue nothing yet: they need neither token nor unit, but an arrival at a barrier or at TBAR is a release of team scope. -/
def State.canIssue (s : State) (g : IssueGroup) : Bool :=
  match s.fetched g with
  | .error _ => true
  | .ok (i, _) =>
    match i.view with
    | none => true
    | some (cls, op, b) =>
      let f := b.fm
      let ls := s.members g.id
      let waits := opensClause cls op && g.setAt.isNone
      (waits || !decide (f.tok < 6) || ls.all fun l => (s.thr l.t).tok.getD f.tok 0 < 7) &&
      (waits || match unitOf cls op with
        | some u => mget 0 s.sch.busy (g.core, g.quad, u) ≤ s.clk.cycle
        | none => true) &&
      s.tableRoom g cls op f &&
      (!(waits && ((cls = 0 && (op = 6 || op = 7)) || (cls = 4 && op = 7))) || ls.all fun l => !s.busyThread l.t)

/-- R26: may an open group issue in this cycle, as far as its own stall and hold go? -/
def State.groupDue (s : State) (g : IssueGroup) : Bool :=
  g.notBefore ≤ s.clk.cycle && (match g.hold with | some h => s.holdDone h | none => true)

/-- R241: the open groups of a quadrant whose next word finds too few transaction entries are held from now on. -/
def State.markHeld (s : State) (core quad : Nat) : State :=
  { s with sch.igs := s.sch.igs.map fun (g : IssueGroup) =>
      if g.core = core && g.quad = quad && g.heldAt.isNone && s.groupDue g &&
          (match s.fetched g with
            | .ok (i, _) => (match i.view with | some (cls, op, b) => !s.tableRoom g cls op b.fm | none => false)
            | .error _ => false)
      then { g with heldAt := some s.clk.cycle } else g }

/-- R26, step 1: the open issue group of a quadrant that issues. -/
def State.openGroup (s : State) (core quad : Nat) : Option IssueGroup :=
  (s.sch.igs.filter fun g => g.core = core && g.quad = quad).find? fun g => s.groupDue g && s.canIssue g

/-! ## Paths of a quadrant -/

/-- R23: are two Runnable paths of a group one? -/
def Path.same (p q : Path) : Bool :=
  p.state = .runnable && q.state = .runnable && p.g = q.g && p.core = q.core && p.quad = q.quad && p.pc = q.pc &&
    p.scopes = q.scopes && p.ctxLbl = q.ctxLbl && p.mid = q.mid && p.gateId = q.gateId && p.charged = q.charged

/-- R23, R27: a path takes up a later one that is the same. -/
def Path.join (p q : Path) : Path :=
  { p with
    mask := p.mask ||| q.mask
    since := min p.since q.since
    promoted := p.promoted || q.promoted
    hint := p.hint && q.hint
    readyAt := max p.readyAt q.readyAt }

/-- Put a path at the end of a list of paths, or into the path of the list that it is one with. -/
def joinInto (p : Path) : List Path → List Path
  | [] => [p]
  | q :: qs => if q.same p then q.join p :: qs else q :: joinInto p qs

/-- R23: paths are maximal. -/
def State.mergePaths (s : State) (core quad : Nat) : State :=
  { s with sch.paths := s.sch.paths.foldl (fun acc p =>
      if p.core = core && p.quad = quad then joinInto p acc else acc ++ [p]) [] }

/-- R24, R45: does a path keep the paths behind it deferred? One that stands in a clause does, since a path stops being Runnable
only by waiting, parking or exiting. -/
def Path.holdsList (p : Path) : Bool := match p.state with | .runnable => true | .inClause _ => true | _ => false

/-- R24: the active paths of a quadrant whose teams may form issue groups (R40, R332). -/
def State.activePaths (s : State) (core quad : Nat) : List Path :=
  let run := s.sch.paths.filter fun p => p.core = core && p.quad = quad && p.holdsList
  ((dedup (run.map (·.g))).filterMap fun g =>
    if s.running g.tid && !s.reloading g.tid then run.find? fun p => p.g = g else none).filter fun p => p.state = .runnable

/-- The header word at a path's address and the words of its clause. -/
def State.clauseAt (s : State) (p : Path) : Option (Word × List Word) :=
  match s.team? p.g.tid with
  | none => none
  | some t =>
    (s.codeWord t.part t.ctx p.pc).map fun h =>
      (h, (List.range (hN h)).filterMap fun k => s.codeWord t.part t.ctx (p.pc + 4 + 4 * k))

/-- R27: does a header's wait mask name a token that is not clear in some thread of a path? -/
def State.waitsTok (s : State) (p : Path) (h : Word) : Bool :=
  (s.pathLanes p).any fun l => (List.range 6).any fun k => (hWait h).getLsbD k && (s.thr l.t).tok.getD k 0 ≠ 0

/-- R27: the lanes of a path for which a header's clause predicate is true. -/
def State.clauseOn (s : State) (p : Path) (h : Word) : BitVec 64 :=
  maskOf (((s.pathLanes p).filter fun l => s.mGet l.t (hPred h) != hNeg h).map fun l => l.t.lane)

/-- R183: the threads that pass a header have waited for the tokens that it names. -/
def State.passWait (s : State) (ls : List Lane) (h : Word) : State :=
  ls.foldl (fun s l => s.setThr l.t fun x =>
    { x with sb := x.sb.filter fun e => !(e.varl && (hWait h).getLsbD e.tok) }) s

/-- R27: the threads of a path skip the clause that they stand at, as if they issued it: age and promoted flag end. The clause that they
skip closes for none of them, so the yield hint of their last closed clause stays (assumption 64). -/
def State.skipClause (s : State) (pid : Nat) (h : Word) : State :=
  let s := match s.path? pid with | some p => s.passWait (s.pathLanes p) h | none => s
  s.setPath pid fun p =>
    { p with pc := p.pc + 4 + 4 * hN h, since := s.clk.cycle, readyAt := s.clk.cycle + 1, promoted := false }

/-- R27, R169: what a header does to an active path whose stall has elapsed: a clause fault ends its team, and the threads
whose clause predicate is false skip the clause. -/
def State.evalPath (s : State) (pid : Nat) : State :=
  match s.path? pid with
  | none => s
  | some p =>
    if p.mid.isSome || s.clk.cycle < p.readyAt then s
    else
      let fault := s.takeFault p.g.tid fcClause 0 p.core p.quad 0 p.pc 0 0 0
      match s.clauseAt p with
      | none => fault
      | some (h, ws) =>
        if hMark h ≠ 0x3F then fault
        else if s.waitsTok p h then s
        else if clauseBad h ws then fault
        else
          let on := s.clauseOn p h
          let s := s.joinCtx pid (s.tileLbl p.g (.m (hPred h)))
          if on = p.mask then s
          else if on = 0 then s.skipClause pid h
          else
            let (n, s) := s.splitPath pid (p.mask &&& ~~~on)
            s.skipClause n h

/-- R27: is an active path ready? -/
def State.isReady (s : State) (p : Path) : Bool :=
  p.readyAt ≤ s.clk.cycle &&
    (p.mid.isSome ||
      match s.clauseAt p with
      | none => false
      | some (h, ws) => !clauseBad h ws && !s.waitsTok p h && s.clauseOn p h = p.mask)

/-! ## Trial groups -/

/-- R28: what the paths of one trial group share. -/
structure TrialKey where
  pc : Nat
  part : Nat
  ctx : Nat
  stage : Nat
  /-- R171: a completed set forms its group alone. -/
  gateId : Option Nat
  /-- The header of the clause that the paths are in the middle of. -/
  hdr : Option Nat
  deriving DecidableEq, Repr

def State.trialKey (s : State) (p : Path) : TrialKey :=
  match s.team? p.g.tid with
  | some t => ⟨p.pc, t.part, t.ctx, t.stage, p.gateId, p.mid.map (·.hdr)⟩
  | none => ⟨p.pc, 0, 0, 0, none, none⟩

/-- R28, R41: has a path the rank that promotion gives? -/
def State.ranksFirst (s : State) (p : Path) : Bool :=
  p.promoted && (match s.team? p.g.tid with | some t => t.progressAt s.clk.cycle | none => false)

/-- R28: descending age, then the lower row, then the lower half. -/
def State.ageRank (s : State) (p : Path) : List Nat :=
  match s.group? p.g with
  | some g => [p.since, g.row, g.half]
  | none => [p.since, 0, 0]

/-- R28, building, step 2: the order of candidates for the first path. -/
def State.firstRank (s : State) (p : Path) : List Nat :=
  (if s.ranksFirst p then 0 else if p.hint then 2 else 1) :: s.ageRank p

/-- The quadrant lanes of a path. -/
def State.qlanes (s : State) (p : Path) : List Nat := (s.pathLanes p).map (·.q)

/-- R28, building, step 3: candidates join whole, where none of their lanes is covered. -/
def State.joinTrial (s : State) (got : List Path) (p : Path) : List Path :=
  let cov := got.flatMap s.qlanes
  if (s.qlanes p).any fun q => cov.contains q then got else got ++ [p]

/-- R28: the trial group of some candidates, its first path at the head. The yield hint ranks the candidates for the first path and
the trial groups; the others join by age, row and half alone (assumption 64). -/
def State.trial (s : State) (ps : List Path) : List Path :=
  match leastBy s.firstRank ps with
  | none => []
  | some f => (sortLex s.ageRank (ps.filter fun p => p.id ≠ f.id)).foldl s.joinTrial [f]

/-- R28, choosing: the rank of a trial group. A tie that is left between partitions or contexts goes to the lower partition, then
to the lower context (assumption 64). -/
def State.trialRank (s : State) (ps : List Path) : List Nat :=
  match ps with
  | [] => [3]
  | f :: _ =>
    let k := s.trialKey f
    let tail := [k.pc, k.stage, k.part, k.ctx]
    if s.ranksFirst f then (0 :: s.ageRank f) ++ tail
    else [if f.hint then 2 else 1, 64 - (ps.flatMap s.qlanes).length, f.since] ++ tail

/-- R28: the trial group that a quadrant takes. -/
def State.chooseTrial (s : State) (ready : List Path) : Option (List Path) :=
  let keys := dedup (ready.map s.trialKey)
  leastBy s.trialRank (keys.map fun k => s.trial (ready.filter fun p => s.trialKey p = k))

/-! ## Opening an issue group -/

/-- R26, R171, R182, R210: the clause context of a chosen trial group. Paths that stand at the header of a clause that they have begun
are threads of a complete barrier generation. -/
def State.newIg (s : State) (id core quad : Nat) (f : Path) (k : TrialKey) (chk : List Nat) : IssueGroup :=
  match f.mid with
  | some m =>
    { id := id, core := core, quad := quad, part := k.part, ctx := k.ctx, stage := k.stage, cls := m.cls, hdr := m.hdr,
      pc := if f.pc = m.hdr then m.hdr + 4 else f.pc, endPc := m.endPc, yld := m.yld, formed := s.clk.cycle,
      notBefore := s.clk.cycle, chk := chk, hold := none, setAt := if f.pc = m.hdr then some f.since else none }
  | none =>
    let h := (s.codeWord k.part k.ctx f.pc).getD 0
    { id := id, core := core, quad := quad, part := k.part, ctx := k.ctx, stage := k.stage, cls := hCls h, hdr := f.pc,
      pc := f.pc + 4, endPc := f.pc + 4 + 4 * hN h, yld := hYield h, formed := s.clk.cycle, notBefore := s.clk.cycle,
      chk := chk, hold := none }

/-- R182: the paths of a trial group whose checking scoreboard holds for the clause. -/
def State.chkOf (s : State) (ps : List Path) : List Nat :=
  (ps.filter fun p =>
    match p.mid with
    | some m => m.chk
    | none => (match s.team? p.g.tid with | some t => t.check | none => false)).map (·.id)

/-- R26, step 2: a chosen trial group takes a clause context, and issues its first instruction where it can. -/
def State.openIg (s : State) (core quad : Nat) (ps : List Path) : State :=
  match ps with
  | [] => s
  | f :: _ =>
    let (id, s) := s.freshId
    let g := s.newIg id core quad f (s.trialKey f) (s.chkOf ps)
    let s := if f.mid.isSome then s
      else s.passWait (ps.flatMap s.pathLanes) ((s.codeWord g.part g.ctx g.hdr).getD 0)
    let ids := ps.map (·.id)
    let s := { s with
      sch.paths := s.sch.paths.map fun (p : Path) =>
        if ids.contains p.id then { p with state := PState.inClause id, mid := none } else p
      sch.igs := s.sch.igs ++ [g] }
    if s.canIssue g then { s with clk.cur := some id } else s

/-- R27, R28: a quadrant forms a new issue group. -/
def State.formGroup (s : State) (core quad : Nat) : State :=
  let s := s.mergePaths core quad
  let s := (s.activePaths core quad).foldl (fun s p => s.evalPath p.id) s
  match s.chooseTrial ((s.activePaths core quad).filter s.isReady) with
  | some ps => s.openIg core quad ps
  | none => s

/-- R26: QUADRANT_ISSUE_CYCLE. Complete sets that wait for a clause context take one before a new group forms (R171). -/
def execQuadrantIssueCycle (core quad : Nat) (s : State) : Host.Outcome State Fault Refusal :=
  let s := s.markHeld core quad
  .next (match s.openGroup core quad with
    | some g => { s with clk.cur := some g.id }
    | none =>
      let s := s.openSets core quad 4
      match s.openGroup core quad with
      | some g => { s with clk.cur := some g.id }
      | none => if s.contextFree core quad then s.formGroup core quad else s)

/-! ## Promotion -/

/-- Table 1.7: the fairness timer F of a team. -/
def fairTime (fairx : Nat) : Nat := 256 * 2 ^ fairx

/-- Put a path before the first path of its group in its quadrant. -/
def toFront (p : Path) (ps : List Path) : List Path :=
  let rest := ps.filter fun q => q.id ≠ p.id
  match rest.findIdx? fun q => q.g = p.g && q.quad = p.quad with
  | some k => rest.take k ++ p :: rest.drop k
  | none => ps.map fun q => if q.id = p.id then p else q

/-- R42: a path is promoted. -/
def State.promote (s : State) (pid : Nat) : State :=
  match s.path? pid with
  | some p => { s with sch.paths := toFront { p with promoted := true } s.sch.paths }
  | none => s

/-- R25: the age of a path. -/
def State.age (s : State) (p : Path) : Nat := s.clk.cycle - p.since

/-- R42: does a path reach the fairness timer of its team? -/
def State.agesOut (s : State) (p : Path) : Bool :=
  p.state = .runnable && !p.promoted &&
    (match s.team? p.g.tid with
      | some t => t.status = .resident && t.progressAt s.clk.cycle && t.promoteAt.isNone && fairTime t.fairx ≤ s.age p
      | none => false)

/-- The paths of a list in the order in which they move to the front, so that the oldest stands first (R42). -/
def State.frontOrder (s : State) (ps : List Path) : List Path := sortBy s.age ps.reverse

/-- R42: the path whose promotion comes next. -/
def State.nextPromotion (s : State) : Option Path := (s.frontOrder (s.sch.paths.filter s.agesOut)).head?

/-- R42: AGE_PROMOTION. -/
def execAgePromotion (pid : Nat) (s : State) : Host.Outcome State Fault Refusal :=
  .next (match s.path? pid with
    | some p => if s.agesOut p then s.promote pid else s
    | none => s)

/-- R315: TEAMCTL_PROMOTION. -/
def execTeamctlPromotion (tid : Nat) (s : State) : Host.Outcome State Fault Refusal :=
  .next (match s.team? tid with
    | some t =>
      match t.promoteAt with
      | none => s
      | some at_ =>
        if s.clk.cycle < at_ then s
        else
          let ps := (s.pathsOf tid).filter fun p => p.state = .runnable && fairTime t.fairx ≤ s.age p
          let s := if t.progress then (s.frontOrder ps).foldl (fun s p => s.promote p.id) s else s
          s.setTeam tid fun t => { t with promoteAt := none }
    | none => s)

end Sys2Proof.Machine
end

