-- ==== Sys2Proof/Machine/Pins.lean ====
section
/-! DEFINITION. The end of a lease, and the retries and the time-out of a refused access (R88, R100). -/

namespace Sys2Proof.Machine

open Sys2Proof

/-- The number that names a line in an event: its byte address or offset divided by 128. -/
def Loc.lineNum : Loc → Nat
  | .mem a => a / 128
  | .host a _ => a / 128
  | .fab _ o => o / 128

/-- R88: has the lease of an unpinned copy expired? -/
def State.expired (s : State) (x : L1Line) : Bool := x.pin.isNone && !DWord.past x.expiry s.clk.tclk

/-- R88: LEASE_EXPIRY. -/
def execLeaseExpiry (core line : Nat) (s : State) : Host.Outcome State Fault Refusal :=
  .next { s with m.l1 := s.m.l1.filter fun (x : L1Line) => !(x.core = core && x.line.lineNum = line && s.expired x) }

/-- R100: an access that has been refused waits to be retried. -/
def Acc.waits (a : Acc) : Bool := !a.done && a.refused.isSome

/-- R100: 1 ms has passed since the first refusal of an access. -/
def Acc.timedOut (a : Acc) (now : DWord) : Bool :=
  a.waits && (match a.refused with | some t => decide (t.toNat + 1000000 ≤ now.toNat) | none => false)

/-- R100: PINNED_RETRY. -/
def execPinnedRetry (req : Nat) (s : State) : Host.Outcome State Fault Refusal :=
  .next (if (s.req? req).any fun r => r.accs.any Acc.waits then s.performAny req else s)

/-- R100: the accesses of a request that have timed out end their teams. -/
def State.pinTimeouts (s : State) (r : Req) : State :=
  r.accs.zipIdx.foldl (fun (s : State) (x : Acc × Nat) =>
    if x.1.timedOut s.clk.tclk then s.accFault r x.2 x.1 fcPinned 0 else s) s

/-- R100: PINNED_LINE_TIMEOUT. -/
def execPinnedLineTimeout (req : Nat) (s : State) : Host.Outcome State Fault Refusal :=
  .next (match s.req? req with
    | some r => s.pinTimeouts r
    | none => s)

end Sys2Proof.Machine
end

