-- ==== Sys2Proof/Machine/Teams.lean ====
section
/-! DEFINITION. Where a team fits and what it starts with: slot units, pool units, plates and team slots, register values, labels
and first paths (R15 to R22, R24, R52, R58, R61, R79, R316, R338, R364, R410). -/

namespace Sys2Proof.Machine

open Sys2Proof

/-! ## Units -/

/-- Table 22.2: the unit code of a core. -/
def coreUnit (core : Nat) : Word := BitVec.ofNat 32 (0x10000000 + core)

/-- R409, R410, R418: a core that makes no slot decision: retired, under survey, or on a hot die. -/
def State.coreClosed (s : State) (core : Nat) : Bool :=
  s.y.retired.contains (coreUnit core) || (s.y.surveys.any fun x => x.unit = coreUnit core) || s.y.hot.contains (coreDie core)

/-- A slot unit: row, quadrant and half (R13). -/
abbrev Spot := Nat × Nat × Nat

/-- R15: the slot units that a group of a width takes from its first one on. -/
def spotUnits (width : Nat) (x : Spot) : List Spot :=
  match width with
  | 16 => [x]
  | 32 => [(x.1, x.2.1, 0), (x.1, x.2.1, 1)]
  | _ => [(x.1, x.2.1, 0), (x.1, x.2.1, 1), (x.1, x.2.1 + 1, 0), (x.1, x.2.1 + 1, 1)]

/-- R16: the places of a group of a width, in the order in which they are tried. -/
def spotOrder (width : Nat) : List Spot :=
  (List.range 16).flatMap fun row =>
    match width with
    | 16 => (List.range 4).flatMap fun q => [(row, q, 0), (row, q, 1)]
    | 32 => (List.range 4).map fun q => (row, q, 0)
    | _ => [(row, 0, 0), (row, 2, 0)]

/-- R16: places for `n` groups in ascending group index; none where they do not fit. -/
def placeGroups (width : Nat) (taken : List Spot) : Nat → Option (List Spot)
  | 0 => some []
  | n + 1 =>
    match (spotOrder width).find? fun x => (spotUnits width x).all fun u => !taken.contains u with
    | none => none
    | some x => (placeGroups width (taken ++ spotUnits width x) n).map (x :: ·)

/-- The groups of the resident teams on a core, with their teams. -/
def State.groupsOn (s : State) (core : Nat) : List (Group × Team) :=
  s.sch.groups.filterMap fun kv =>
    match s.team? kv.1.tid with
    | some t => if t.resident && kv.2.core = core then some (kv.2, t) else none
    | none => none

/-- The slot units of some groups. -/
def unitsOf (gs : List (Group × Team)) : List Spot := gs.flatMap fun x => spotUnits x.2.width (x.1.row, x.1.quad, x.1.half)

/-- R79: the pool units that a team of a stage takes on a core. -/
def poolNeed (st : Stage) (pair odd : Bool) : Nat := unitsOn st pair odd + st.l1u

/-- R79: the pool units of a partition on a core that resident teams hold. -/
def State.poolTaken (s : State) (part core : Nat) : Nat :=
  (s.teamsOn part core).foldl (fun n kv =>
    match s.stageOf kv.2 with
    | some st => n + poolNeed st kv.2.core2.isSome (kv.2.core2 = some core)
    | none => n) 0

/-- R79: the plates of a partition on a core that resident teams declare. -/
def State.platesTaken (s : State) (part core : Nat) : Nat :=
  ((s.teamsOn part core).filter fun kv => kv.2.core = core).foldl (fun n kv =>
    match s.stageOf kv.2 with | some st => n + st.pln | none => n) 0

/-- Where a team can be placed. -/
structure Fit where
  core : Nat
  core2 : Option Nat
  slot : Nat
  slot2 : Option Nat
  /-- The core and the place of each group, in ascending group index. -/
  spots : List (Nat × Spot)
  deriving DecidableEq, Repr

/-- R58: the lowest physical team slot of a core that no team holds. -/
def State.freeTeamSlot (s : State) (core : Nat) : Option Nat :=
  (List.range 32).find? fun n => !s.sch.teams.any fun kv =>
    kv.2.resident && ((kv.2.core = core && kv.2.slot = n) || (kv.2.core2 = some core && kv.2.slot2 = some n))

/-- R58, R364: places on one core for `n` groups of a stage, and its team slot. -/
def State.fitCore (s : State) (part core : Nat) (st : Stage) (pair odd : Bool) (n : Nat) : Option (Nat × List (Nat × Spot)) :=
  let lim := s.corelim part core
  let gs := s.groupsOn core
  let mine := (unitsOf (gs.filter fun x => x.2.part = part)).length
  if s.coreClosed core || limTslot lim ≤ (s.teamsOn part core).length ||
      limSlotu lim < mine + n * (spotUnits st.width (0, 0, 0)).length ||
      limPool lim < s.poolTaken part core + poolNeed st pair odd ||
      (!odd && limPlates lim < s.platesTaken part core + st.pln) then none
  else
    match s.freeTeamSlot core, placeGroups st.width (unitsOf gs) n with
    | some k, some xs => some (k, xs.map fun x => (core, x))
    | _, _ => none

/-- R17, R58: where a team of a stage fits when a core decides. A team of more than 32 groups spans the core's pair. -/
def State.fit (s : State) (part core : Nat) (st : Stage) : Option Fit :=
  if st.groups ≤ 32 then
    (s.fitCore part core st false false st.groups).map fun x => ⟨core, none, x.1, none, x.2⟩
  else
    let even := core / 2 * 2
    match s.fitCore part even st true false 32, s.fitCore part (even + 1) st true true (st.groups - 32) with
    | some a, some b => some ⟨even, some (even + 1), a.1, some b.1, a.2 ++ b.2⟩
    | _, _ => none

/-! ## What a team starts with -/

/-- What a team is formed of: the records dealt to its threads, or a launch record. -/
structure Seed where
  part : Nat
  ctx : Nat
  stage : Nat
  run : Nat
  team : Word
  recs : List Rec
  lr : Option LRec
  /-- R428: how many cycles the dequeue of its records waits for a refill. -/
  late : Nat := 0
  deriving DecidableEq, Repr

/-- Table 11.5: fields of a launch record. -/
def LRec.field (lr : LRec) (off n : Nat) : Nat := leNat ((lr.bytes.drop off).take n)
def LRec.count (lr : LRec) : Nat := lr.field 0 4 % 2 ^ 13
def LRec.param (lr : LRec) : DWord := BitVec.ofNat 64 (lr.field 8 8)
def LRec.arc (lr : LRec) : DWord := BitVec.ofNat 64 (lr.field 0x10 8)
def LRec.pgrp (lr : LRec) : Nat := lr.field 4 4 % 64
def LRec.rolemap (lr : LRec) : List Nat := (List.range 64).map fun g => bitsOf (lr.field 0x20 32) (4 * g) 4

/-- R17, R310: the free rows of each core at launch. A pair-spanning team's spare rows are halved as its REGU is. -/
def spareRows (st : Stage) (pair : Bool) : List Nat := if pair then [(st.spare + 1) / 2, st.spare / 2] else [st.spare, 0]

/-- R20, R41, R53, R61, R182, R213, R280: a team as it starts. -/
def Team.start (st : Stage) (x : Seed) (f : Fit) (now : DWord) : Team :=
  { part := x.part, ctx := x.ctx, stage := x.stage, run := x.run, team := x.team, width := st.width, groups := st.groups,
    core := f.core, core2 := f.core2, slot := f.slot, slot2 := f.slot2, status := .resident, began := now, drainBy := none,
    progress := st.progress, fairx := st.fairx, teamctlLbl := 0, check := st.check, ckmodeLbl := 0, clean := true,
    chan := st.chan, freeRows := spareRows st f.core2.isSome, bars := List.replicate 16 {}, dealt := x.recs.length,
    first := x.recs,
    param := (match x.lr with | some lr => lr.param | none => 0),
    arc := (match x.lr with | some lr => lr.arc | none => 0),
    launchLbl := (match x.lr with | some lr => lr.lbl | none => 0),
    count := (match x.lr with | some lr => lr.count | none => x.recs.length),
    pgrp := (match x.lr with | some lr => lr.pgrp | none => st.dpgrp),
    rolemap := (match x.lr with | some lr => lr.rolemap | none => st.drolemap),
    vatFree := List.range (2 * st.vatu), vatBack := [], promoteAt := none,
    gang := (match x.lr with | some lr => lr.gang | none => none), moving := false, savedAt := 0, noSave := false }

/-- R20, R21, R340: group `n` of a team at a place. -/
def Team.group (t : Team) (st : Stage) (n : Nat) (x : Nat × Spot) : Group :=
  { producer := n = t.pgrp, roleid := t.rolemap.getD n 0 % 16, rows := st.rows, core := x.1, quad := x.2.2.1, half := x.2.2.2,
    row := x.2.1 }

/-- Is a thread of a team live at launch: every thread of a launch record's team, and the threads with a record? -/
def Seed.live (x : Seed) (thr : Nat) : Bool := x.lr.isSome || thr < x.recs.length

/-- R61, R70: what the launch sets in v0 to v15 of a thread; zero where it names nothing. -/
def Seed.words (x : Seed) (st : Stage) (thr : Nat) : List Word :=
  match x.lr with
  | some lr => words64 lr.param.toNat
  | none =>
    match x.recs[thr]? with
    | some r =>
      if 64 < r.bytes.length then [BitVec.ofNat 32 (st.recbase + thr * r.bytes.length)]
      else (List.range (r.bytes.length / 4)).map fun i => BitVec.ofNat 32 (leNat ((r.bytes.drop (4 * i)).take 4))
    | none => []

/-- R61, R302: the label of v0 to v15 of a group, or of v0 and v1 under a launch record; and that of s0. -/
def Seed.vLbl (x : Seed) (width grp : Nat) : Label :=
  match x.lr with
  | some lr => lr.lbl
  | none => ((x.recs.drop (grp * width)).take width).foldl (fun l r => l ||| r.lbl) 0
def Seed.sLbl (x : Seed) : Label :=
  match x.lr with
  | some lr => lr.lbl
  | none => x.recs.foldl (fun l r => l ||| r.lbl) 0

/-- R61: s0: the records of the team, or the teams of the run. -/
def Seed.s0 (x : Seed) : Word :=
  match x.lr with
  | some lr => BitVec.ofNat 32 lr.count
  | none => BitVec.ofNat 32 x.recs.length

/-- R61, R146, R338: one live thread as it starts. -/
def State.startThread (s : State) (tid : Nat) (st : Stage) (x : Seed) (grp lane : Nat) : State :=
  let t : TRef := ⟨tid, grp, lane⟩
  let thr := grp * st.width + lane
  let regs := 8 * st.rows
  let s := s.setThr t fun _ =>
    { live := true, seed := BitVec.ofNat 32 ((thr + 1) * 0x2C1B3C6D), dealt := x.lr.isNone }
  let s := ((x.words st thr).zipIdx.filter fun w => w.1 ≠ 0 ∧ w.2 < regs).foldl (fun s w => s.vSet t w.2 w.1) s
  if st.stksz ≠ 0 ∧ 16 < regs then s.vSet t 16 (BitVec.ofNat 32 (st.stkbase + (thr + 1) * st.stksz)) else s

/-- R24, R31: the first path of a group in one of its quadrants. -/
def State.startPath (s : State) (tid : Nat) (st : Stage) (late grp : Nat) (g : Group) (quad : Nat) (all mask : BitVec 64) : State :=
  if mask = 0 then s
  else
    let (id, s) := s.freshId
    let p : Path :=
      { id := id, g := ⟨tid, grp⟩, core := g.core, quad := quad, pc := st.entry, mask := mask, scopes := [⟨all, 0⟩], ctxLbl := 0,
        state := .runnable, since := s.clk.cycle, promoted := false, hint := false, readyAt := s.clk.cycle + 1 + late, mid := none,
        named := 0, gateId := none }
    { s with sch.paths := s.sch.paths ++ [p] }

/-- R15: the lanes of a group in its quadrants: the quadrant and the mask of the group's lanes there. -/
def quadMasks (width quad : Nat) : List (Nat × BitVec 64) :=
  if width = 64 then [(quad, 0xFFFFFFFF), (quad + 1, 0xFFFFFFFF00000000)] else [(quad, 0xFFFFFFFFFFFFFFFF)]

/-- R61: one group of a team as it starts. -/
def State.startGroup (s : State) (tid : Nat) (st : Stage) (x : Seed) (grp : Nat) (g : Group) : State :=
  let gr : GRef := ⟨tid, grp⟩
  let lanes := (List.range st.width).filter fun i => x.live (grp * st.width + i)
  let all := maskOf lanes
  let s := { s with sch.groups := mset s.sch.groups gr g }
  let s := lanes.foldl (fun s i => s.startThread tid st x grp i) s
  let set := if x.lr.isSome then 2 else 16
  let vl := x.vLbl st.width grp
  let s := if vl = 0 then s
    else ((List.range set).filter (· < 8 * st.rows)).foldl (fun s n => s.setTileLbl gr (.v n) vl) s
  let s := (s.sSet gr 0 x.s0).setTileLbl gr (.s 0) x.sLbl
  (quadMasks st.width g.quad).foldl (fun s q => s.startPath tid st x.late grp g q.1 all (all &&& q.2)) s

/-- R61: records of more than 64 bytes enter the record area. -/
def State.dealAreas (s : State) (tid : Nat) (st : Stage) (recs : List Rec) : State :=
  (recs.zipIdx.filter fun r => 64 < r.1.bytes.length).foldl (fun s r => s.dealArea tid st.recbase r.2 r.1) s

/-- R52: the acquire of a team on each of its cores. -/
def State.startAcquire (s : State) (part : Nat) (f : Fit) (x : Seed) : State :=
  let marked := (match x.lr with | some lr => lr.mark | none => false) || x.recs.any fun r => r.mark
  let cores := match f.core2 with | some c => [f.core, c] | none => [f.core]
  cores.foldl (fun s c => s.acquireAt c part (if marked then 3 else 2)) s

/-- R15 to R24, R52, R61, R79: a team starts at a place, under a handle. -/
def State.startTeam (s : State) (tid : Nat) (st : Stage) (x : Seed) (f : Fit) : State :=
  let t := Team.start st x f s.clk.tclk
  let s := { s with sch.teams := mset s.sch.teams tid t }
  let s := (f.spots.zipIdx).foldl (fun s p => s.startGroup tid st x p.2 (t.group st p.2 p.1)) s
  let s := (f.core :: f.core2.toList).foldl (fun s c => s.trimL1 x.part c) s
  (s.dealAreas tid st x.recs).startAcquire x.part f x

/-- R18: the run of a stage without a fixed count of teams, opened where there is none. -/
def State.openRun (s : State) (part ctx stage : Nat) : Nat × State :=
  match s.sch.runs.find? fun kv =>
      kv.2.part = part && kv.2.ctx = ctx && kv.2.stage = stage && kv.2.total.isNone && !kv.2.reported with
  | some kv => (kv.1, s)
  | none =>
    let (id, s) := s.freshId
    let r : Run :=
      { part := part, ctx := ctx, stage := stage, total := none, next := 0, ended := 0, stores := 0, terminated := false,
        reported := false, arc := 0 }
    (id, { s with sch.runs := mset s.sch.runs id r })

/-- R18: the next %team of a run. -/
def State.nextTeam (s : State) (run : Nat) : Word × State :=
  match mget? s.sch.runs run with
  | some r => (r.next, { s with sch.runs := mset s.sch.runs run { r with next := r.next + 1 } })
  | none => (0, s)

/-- R60, R61: a team is formed of records that have been dequeued. -/
def State.formOfRecs (s : State) (part ctx stage : Nat) (st : Stage) (f : Fit) (recs : List Rec) (late : Nat) : State :=
  let (run, s) := s.openRun part ctx stage
  let (no, s) := s.nextTeam run
  let (tid, s) := s.freshId
  s.startTeam tid st ⟨part, ctx, stage, run, no, recs, none, late⟩ f

/-- R70: a team is formed of a launch record. -/
def State.formOfLaunch (s : State) (st : Stage) (f : Fit) (lr : LRec) (late : Nat) : State :=
  let (no, s) := s.nextTeam lr.run
  let (tid, s) := s.freshId
  s.startTeam tid st ⟨lr.part, lr.ctx, lr.stage, lr.run, no, [], some lr, late⟩ f

end Sys2Proof.Machine
end

