-- ==== Sys2Proof/Machine/Image.lean ====
section
/-! DEFINITION. State images: the header, the section table, and the sections of Table 20.10 with the bytes that the model gives them
(R1, R4, R381). The table names what each section holds, in order, and fixes no width or code of a field but those of the copies it
cites; every other width and code here is the model's (assumption 17). -/

namespace Sys2Proof.Machine

open Sys2Proof

/-! ## Sections -/

/-- R381: one section of an image: its type, what it counts, and how many bytes it has. -/
structure Section_ where
  typ : Nat
  count : Nat
  size : Nat
  deriving DecidableEq, Repr

/-- Bytes cut or filled with zeros to a length. -/
def fitTo (n : Nat) (bs : List Byte) : List Byte := (bs ++ List.replicate (n - bs.length) 0).take n

/-- Bytes of a path without its scope stack, of a scope stack entry, and of a thread, in sections 0x8002 and 0x8003. -/
def pathSize : Nat := 48
def scopeSize : Nat := 16
def threadSize : Nat := 192

/-- The tiles and lanes that the register section holds of a group. -/
def groupBytes (t : Team) (g : Group) : Nat := g.rows * 8 * t.width * 4 + 256 + t.width + 2 * (8 * g.rows + 72)

/-- The units that a team's stage declares. -/
def State.scruOf (s : State) (t : Team) : Nat := match s.stageOf t with | some st => st.scru | none => 0
def State.vatuOf (s : State) (t : Team) : Nat := match s.stageOf t with | some st => st.vatu | none => 0

/-- The Vat handles that a team holds. -/
def State.vatTaken (s : State) (t : Team) : List Nat := (List.range (2 * s.vatuOf t)).filter fun h => !t.vatFree.contains h

/-- What the sections of a team list: its groups, reservations, loaded plates, launches, chains and batches. -/
def State.groupsOf (s : State) (tid : Nat) : List (GRef × Group) := s.sch.groups.filter fun kv => kv.1.tid = tid
def State.osbsOf (s : State) (tid : Nat) : List Osb := s.e.osbs.filter fun o => o.tid = tid && !o.released
def State.platesOf (s : State) (tid : Nat) : List ((Nat × Nat) × Plate) := s.e.plates.filter fun kv => kv.1.1 = tid && kv.2.loaded
def State.launchesOf (s : State) (tid : Nat) : List LRec :=
  (s.sch.pendL.filter fun p => p.tid = tid).map (·.lr) ++ (s.sch.lcopies.filter fun c => c.1.tid = tid).map (·.2)
def State.teamChains (s : State) (tid : Nat) : List Chain := s.e.chains.filter fun c => c.t.tid = tid
def State.batchesOf (s : State) (tid : Nat) : List Batch := s.e.batches.filter fun b => b.t.tid = tid

/-- Table 20.10: the sections of a team's image. -/
def State.sections (s : State) (tid : Nat) (t : Team) (relaunch : Bool) : List Section_ :=
  let recs : Section_ := ⟨0x800B, t.first.length, t.first.foldl (fun n r => n + r.bytes.length + 2) 0⟩
  let ctl : Section_ := ⟨0x8001, 1, 320 + 12 + 16 + 8 * 16 + 8 * 16⟩
  if relaunch then [ctl, recs]
  else
    let ps := s.pathsOf tid
    let gs := s.groupsOf tid
    let held := (s.vatTaken t).length
    let osbs := s.osbsOf tid
    [ctl, ⟨0x8002, ps.length, ps.foldl (fun n p => n + pathSize + scopeSize * p.scopes.length) 0⟩,
      ⟨0x8003, gs.length, gs.foldl (fun n g => n + groupBytes t g.2) 0 + threadSize * (s.liveOf tid).length⟩,
      ⟨0x8004, 1, (32768 + 4 * 256) * s.scruOf t⟩, ⟨0x8005, held, 64 + held * 16386⟩,
      ⟨0x8006, osbs.length, osbs.foldl (fun n o => n + 24 + 1024 * o.units) 0⟩, ⟨0x8007, (s.platesOf tid).length, 16 * (s.platesOf tid).length⟩,
      ⟨0x8008, (s.batchesOf tid).length, 16 * (s.batchesOf tid).length⟩,
      ⟨0x8009, (s.launchesOf tid).length, 64 * (s.launchesOf tid).length⟩,
      ⟨0x800A, (s.teamChains tid).length, 64 * (s.teamChains tid).length⟩]

/-- R381: the size of an image. -/
def imageSize (xs : List Section_) : Nat := xs.foldl (fun n x => n + x.size) (64 + 16 * xs.length)

/-- R381: the section table, the sections following one another. -/
def sectionTable : List Section_ → Nat → List Byte
  | [], _ => []
  | x :: xs, off => natLE 2 x.typ ++ natLE 2 1 ++ natLE 4 x.count ++ natLE 4 off ++ natLE 4 x.size ++ sectionTable xs (off + x.size)

/-- R381: the header and the section table of an image; KIND 0 save, 2 relaunch. -/
def State.imageHead (s : State) (t : Team) (xs : List Section_) (kind : Nat) : List Byte :=
  natLE 4 0x49535842 ++ natLE 4 0x10000 ++ natLE 4 xs.length ++ natLE 4 kind ++ natLE 8 (imageSize xs) ++
    natLE 4 (t.part % 16 + t.ctx % 16 * 16 + t.stage % 256 * 256 + s.y.station % 1024 * 65536) ++ natLE 4 t.team.toNat ++
    natLE 8 s.clk.tclk.toNat ++ List.replicate 24 0 ++ sectionTable xs (64 + 16 * xs.length)

/-! ## The bytes of the sections -/

/-- A truth value as a byte. -/
def flagByte (b : Bool) : List Byte := [if b then 1 else 0]

/-- R340: REGS of a team on a core of it: that of its first group there. -/
def State.regsAt (s : State) (tid core : Nat) : Nat :=
  match (s.groupsOf tid).find? fun kv => kv.2.core = core with | some kv => 8 * kv.2.rows | none => 0

/-- Section 0x8001: the stage descriptor copy (Table 18.4); TEAMCTL, CKMODE, IDEM.CLEAN; REGS and the free-row pool per core; barrier
counts and generations; the capability table with ALLOW. -/
def State.ctlBytes (s : State) (tid : Nat) (t : Team) : List Byte :=
  fitTo 320 ((s.stageOf t).elim [] (·.desc)) ++ natLE 4 t.teamctl ++ natLE 4 (if t.check then 1 else 0) ++ natLE 4 (if t.clean then 1 else 0) ++
    (fitTo 16 ((t.freeRows.zip (t.core :: t.core2.toList)).flatMap fun x => natLE 4 (s.regsAt tid x.2) ++ natLE 4 x.1)) ++
    fitTo 128 (t.bars.flatMap fun b => natLE 4 b.gen ++ natLE 4 ((b.count.map (· + 1)).getD 0)) ++
    fitTo 128 (t.chan.flatMap fun e => natLE 8 e.toNat)

/-- The code of a path's state, and what its wait names: the waited set, or the counter, entry or queue that it is parked at. -/
def Park.code : Park → Nat × Nat
  | .fault token => (0, token.toNat)
  | .lines ls => (1, ls.headD 0)
  | .copyRoom => (2, 0)
  | .rows => (3, 0)
  | .launchEntry => (4, 0)
  | .queue q => (5, q.idx)
  | .placement entry epoch _ => (6, entry % 65536 + epoch % 65536 * 65536)
  | .counter swap => (7, if swap then 1 else 0)
  | .osb => (8, 0)
  | .vat => (9, 0)
  | .engine => (10, 0)
  | .gate n => (11, n)
  | .service n => (12, n)
  | .mail n => (13, n)
def PState.code : PState → Nat × Nat
  | .runnable => (0, 0)
  | .inClause _ => (1, 0)
  | .waitReconv => (2, 0)
  | .waitCollective => (3, 0)
  | .waitGroup => (4, 0)
  | .waitBarrier bar count => (5 + bar * 256, (count.map (· + 1)).getD 0)
  | .parked why => (16 + why.code.1, why.code.2)

/-- Section 0x8002: a path, at its position in its list: PC, member mask, group, row, state, age, promoted flag, list position, context
label, waited set or counter address, and scope stack. -/
def State.pathBytes (s : State) (p : Path) (pos : Nat) : List Byte :=
  let row := match s.group? p.g with | some g => g.row | none => 0
  fitTo pathSize (natLE 4 p.pc ++ natLE 8 p.mask.toNat ++ natLE 2 p.g.grp ++ natLE 1 row ++ natLE 1 p.quad ++ natLE 4 p.state.code.1 ++
      natLE 4 (s.clk.cycle - p.since) ++ flagByte p.promoted ++ flagByte p.hint ++ natLE 2 pos ++ natLE 2 p.ctxLbl.toNat ++
      natLE 2 p.scopes.length ++ natLE 8 p.named.toNat ++ natLE 8 p.state.code.2) ++
    p.scopes.flatMap fun x => fitTo scopeSize (natLE 8 x.set.toNat ++ natLE 2 x.lbl.toNat)

/-- Section 0x8002: the paths of a team, quadrant by quadrant. -/
def State.pathsBytes (s : State) (tid : Nat) : List Byte :=
  ((sortBy (fun (p : Path) => p.core * 4 + p.quad) (s.pathsOf tid)).zipIdx).flatMap fun x => s.pathBytes x.1 x.2

/-- Section 0x8003: the registers of a group: v rows per lane, s0 to s63, m0 to m7, and each tile's label. -/
def State.groupImage (s : State) (t : Team) (g : GRef) (rows : Nat) : List Byte :=
  ((List.range (8 * rows)).flatMap fun r => (List.range t.width).flatMap fun l => natLE 4 (s.vGet ⟨g.tid, g.grp, l⟩ r).toNat) ++
    ((List.range 64).flatMap fun n => natLE 4 (s.sGet g n).toNat) ++
    ((List.range t.width).map fun l =>
      BitVec.ofNat 8 ((List.range 8).foldl (fun b n => b + if s.mGet ⟨g.tid, g.grp, l⟩ n then 2 ^ n else 0) 0)) ++
    ((List.range (8 * rows)).flatMap fun n => natLE 2 (s.tileLbl g (.v n)).toNat) ++
    ((List.range 64).flatMap fun n => natLE 2 (s.tileLbl g (.s n)).toNat) ++
    ((List.range 8).flatMap fun n => natLE 2 (s.tileLbl g (.m n)).toNat)

/-- Section 0x8003: a thread: LPART, FSTAT, SEED, WCT, LINK, TRAPNO, IDEM.OPEN, INLDEPTH, inline return stack, token counts. -/
def State.threadImage (s : State) (t : TRef) : List Byte :=
  let h := s.thr t
  fitTo threadSize (natLE 4 h.lpart ++ natLE 1 h.fstat.toNat ++ natLE 4 h.seed.toNat ++ natLE 8 h.wct.toNat ++ natLE 4 h.link.toNat ++
    natLE 2 h.linkLbl.toNat ++ natLE 4 h.trapno ++ natLE 2 h.trapLbl.toNat ++ flagByte h.idemOpen ++ natLE 1 h.inlDepth ++
    fitTo 96 (h.inlStack.flatMap fun e => natLE 4 e.ret ++ natLE 4 e.link.toNat ++ natLE 4 e.linkLbl.toNat) ++
    h.tok.flatMap fun n => natLE 1 n)

/-- Section 0x8003. -/
def State.regsBytes (s : State) (tid : Nat) (t : Team) : List Byte :=
  ((s.groupsOf tid).flatMap fun kv => s.groupImage t kv.1 kv.2.rows) ++ (s.liveOf tid).flatMap s.threadImage

/-- Section 0x8004: the scratchpad's bytes, and P, C and the label of each line. -/
def State.scratchBytes (s : State) (tid : Nat) (t : Team) : List Byte :=
  s.sreads tid 0 (32768 * s.scruOf t) ++ (List.range (256 * s.scruOf t)).flatMap fun k =>
    let x := s.sline tid k
    flagByte x.p ++ natLE 1 x.c ++ natLE 2 x.lbl.toNat

/-- Section 0x8005: the free list, and the words and label of each held slot. -/
def State.vatBytes (s : State) (tid : Nat) (t : Team) : List Byte :=
  fitTo 64 (t.vatFree.flatMap fun h => natLE 1 (h + 1)) ++ (s.vatTaken t).flatMap fun h =>
    ((List.range 4096).flatMap fun w => natLE 4 (mget 0 s.r.vat (tid, h, w)).toNat) ++ natLE 2 (mget 0 s.r.vatLbl (tid, h)).toNat

/-- Section 0x8006: a reservation: its handle, its record (Table 10.3), its bytes and its label. -/
def osbImage (o : Osb) : List Byte :=
  fitTo 24 (natLE 4 o.handle ++ natLE 4 o.rows ++ natLE 4 o.klen ++ natLE 2 o.fmt ++ flagByte o.asc ++ natLE 1 o.units ++
    natLE 2 o.lbl.toNat) ++ (List.range (1024 * o.units)).map fun i => mget 0 o.bytes i

/-- Section 0x800A: a chain: its record offset, counters, flags and label. -/
def chainImage (c : Chain) : List Byte :=
  fitTo 64 (natLE 4 c.roff ++ natLE 1 c.flags.toNat ++ flagByte c.done ++ natLE 2 c.resLbl.toNat ++
    (c.at_.getD []).flatMap fun n => natLE 4 n)

/-- Table 20.10: the bytes of a section. -/
def State.sectionBytes (s : State) (tid : Nat) (t : Team) (typ : Nat) : List Byte :=
  match typ with
  | 0x8001 => s.ctlBytes tid t
  | 0x8002 => s.pathsBytes tid
  | 0x8003 => s.regsBytes tid t
  | 0x8004 => s.scratchBytes tid t
  | 0x8005 => s.vatBytes tid t
  | 0x8006 => (s.osbsOf tid).flatMap osbImage
  | 0x8007 => (s.platesOf tid).flatMap fun kv => natLE 4 kv.1.2 ++ natLE 8 kv.2.src.toNat ++ natLE 4 kv.2.desc.toNat
  | 0x8008 => (s.batchesOf tid).flatMap fun b => natLE 2 b.t.grp ++ natLE 2 b.t.lane ++ natLE 4 b.n ++ natLE 8 b.gwct.toNat
  | 0x8009 => (s.launchesOf tid).flatMap fun r => fitTo 64 r.bytes
  | 0x800A => (s.teamChains tid).flatMap chainImage
  | _ => t.first.flatMap fun r => r.bytes ++ natLE 2 r.lbl.toNat

/-- R381: the sections of an image, one after another. -/
def State.imageBody (s : State) (tid : Nat) (t : Team) (xs : List Section_) : List Byte :=
  xs.flatMap fun x => fitTo x.size (s.sectionBytes tid t x.typ)

end Sys2Proof.Machine
end

