-- ==== Sys2Proof/Machine/Save.lean ====
section
/-! DEFINITION. Where state images are written and read, saving and discarding a team, restoring it, and the Orrery's choice among drain, save and discard
(R40, R60, R82, R85, R99, R214, R279, R284, R290, R306, R378 to R383, R409). -/

namespace Sys2Proof.Machine

open Sys2Proof

/-! ## Images -/

/-- R383: the offset of the save area at which an image has room. -/
def Part.imageRoom (p : Part) (n : Nat) : Option Nat :=
  ((0 :: p.saveUsed.map fun u => u.2.1 + u.2.2).map fun o => (o + 127) / 128 * 128).find? fun o =>
    o + n ≤ p.saveSize && p.saveUsed.all fun u => o + n ≤ u.2.1 || u.2.1 + u.2.2 ≤ o

/-- R383: bytes at a guest-physical address of the save area; no page, no bytes. -/
def State.gpaLoc (s : State) (part gpa : Nat) : Option Loc :=
  match s.walk2 part gpa true with
  | .ok l => let loc := (s.locOf part l).1; if s.owned part loc then some loc else none
  | .error _ => none

/-- R383: write bytes of an image. Image writes are not tested under R113. -/
def State.gpaWrite (s : State) (part gpa : Nat) (bs : List Byte) : State :=
  (pieces gpa bs.length (bs.length + 1)).foldl (fun s x =>
    match s.gpaLoc part x.1 with
    | some loc => s.cohWrite loc ((bs.drop (x.1 - gpa)).take x.2)
    | none => s) s

/-- Bytes of the save area. -/
def State.gpaRead (s : State) (part gpa n : Nat) : List Byte :=
  (pieces gpa n (n + 1)).flatMap fun x =>
    match s.gpaLoc part x.1 with
    | some loc => s.getLoc loc x.2
    | none => List.replicate x.2 0

/-- R4, R381, R383: write a team's image, header, section table and sections, kept under a handle; none where the save area lacks room. -/
def State.writeImage (s : State) (tid key : Nat) (relaunch : Bool) : Option State :=
  match s.team? tid with
  | none => none
  | some t =>
    let xs := s.sections tid t relaunch
    let p := s.part t.part
    match p.imageRoom (imageSize xs) with
    | none => none
    | some off =>
      let s := s.setPart t.part fun p => { p with saveUsed := p.saveUsed ++ [(key, off, imageSize xs)] }
      some (s.gpaWrite t.part (p.saveBase + off) (s.imageHead t xs (if relaunch then 2 else 0) ++ s.imageBody tid t xs))

/-- R382: is the image of a team one that this station reads? -/
def State.imageOk (s : State) (tid : Nat) (t : Team) : Bool :=
  match (s.part t.part).saveUsed.find? fun u => u.1 = tid with
  | none => false
  | some u =>
    let a := (s.part t.part).saveBase + u.2.1
    let h := s.gpaRead t.part a 64
    let n := leNat ((h.drop 8).take 4)
    let known := fun (k : Nat) =>
      let e := s.gpaRead t.part (a + 64 + 16 * k) 4
      let ty := leNat (e.take 2)
      (ty < 0x8000 || (0x8001 ≤ ty && ty ≤ 0x800B)) && leNat (e.drop 2) ≤ 1
    leNat (h.take 4) = 0x49535842 && leNat ((h.drop 6).take 2) = 1 && n ≤ 16 && (List.range n).all known

/-! ## Saving -/

/-- The core that the reservations and chains of a saved team are noted on, so that no core counts them; its odd core is the next. -/
def noCore : Nat := 0x100000

/-- Where something of a team goes when the team leaves or takes its cores. -/
def moveCore (t : Team) (even odd core : Nat) : Nat := if t.core2 = some core then odd else even

/-- R25, R40: the paths of a team keep their age while it is saved: `since` then holds the age. -/
def State.parkAges (s : State) (tid : Nat) : State :=
  { s with sch.paths := s.sch.paths.map fun (p : Path) => if p.g.tid = tid then { p with since := s.clk.cycle - p.since } else p }

/-- R40: what a team holds on its cores is freed: slot, pool and OSB units. -/
def State.leaveCores (s : State) (tid : Nat) (t : Team) : State :=
  let s := s.parkAges tid
  let s := { s with
    e.osbs := s.e.osbs.map fun (o : Osb) => if o.tid = tid then { o with core := noCore } else o
    e.chains := s.e.chains.map fun (c : Chain) => if c.t.tid = tid then { c with core := moveCore t noCore (noCore + 1) c.core, due := none, left := 0 } else c }
  let s := s.setTeam tid fun t => { t with status := .saved, savedAt := s.clk.tclk, drainBy := none, moving := false }
  s.serveOsb t.core 1024

/-- R383: a team whose image finds no room goes on; its drain has no deadline. A survey terminates it instead (R409). -/
def State.noRoom (s : State) (tid : Nat) (t : Team) : State :=
  let cores := match t.core2 with | some c => [t.core, c] | none => [t.core]
  match cores.find? fun c => s.y.surveys.any fun x => x.unit = coreUnit c with
  | some c => s.teamFault tid fcMemory (coreUnit c).toNat 0 0 0
  | none =>
    (s.setTeam tid fun t => { t with status := .resident, noSave := true, drainBy := none }).pfReport t.part t.ctx 0x5A 0 0 0

/-- R40, R99: a team is saved. Its pinned lines are written back first. -/
def State.saveTeam (s : State) (tid : Nat) : State :=
  match s.team? tid with
  | none => s
  | some t =>
    let s' := s.unpinTeam tid
    if (s'.team? tid).isNone then s'
    else
      match s'.writeImage tid tid false with
      | some s => s.leaveCores tid t
      | none => s.noRoom tid t

/-- R213, R214: may a team be discarded? -/
def State.discardable (s : State) (tid : Nat) : Bool :=
  match s.team? tid with
  | some t => t.clean && (s.liveOf tid).all fun x => (s.thr x).idemOpen
  | none => false

/-- The launch record that a team was launched with. -/
def Team.lrec (t : Team) : LRec :=
  let map := (t.rolemap.take 64).zipIdx.foldl (fun n x => n + x.1 % 16 * 16 ^ x.2) 0
  { bytes := natLE 4 t.count ++ natLE 4 t.pgrp ++ natLE 8 t.param.toNat ++ natLE 8 t.arc.toNat ++ natLE 8 0 ++ natLE 32 map,
    lbl := t.launchLbl, mark := true, part := t.part, ctx := t.ctx, stage := t.stage, run := t.run, gang := t.gang }

/-- R380: a team is discarded; its relaunch image stands under a handle of its own. -/
def State.discardTeam (s : State) (tid : Nat) : State :=
  match s.team? tid with
  | none => s
  | some t =>
    let (key, s) := s.freshId
    match s.writeImage tid key true with
    | none => s.noRoom tid t
    | some s =>
      let s := (s.unpinTeam tid).freeTeam tid
      { s with sch.teams := s.sch.teams ++ [(key, { t with status := .relaunch, savedAt := s.clk.tclk, drainBy := none, moving := false })] }

/-- R40: is no thread of a team in an open issue group? -/
def State.clausesDone (s : State) (tid : Nat) : Bool :=
  (s.pathsOf tid).all fun p => match p.state with | .inClause _ => false | _ => true

/-- R284: are the accepted matrix issues of a team complete? -/
def State.mxDone (s : State) (tid : Nat) : Bool := !s.e.mxs.any fun x => x.tid = tid && !x.done

/-- R379: Ts × 128: the bytes of a team's image. -/
def State.imageBytes (s : State) (tid : Nat) : Nat :=
  match s.team? tid with
  | some t => imageSize (s.sections tid t false)
  | none => 0

/-- R290: does each chain of a team stand at an element boundary? -/
def State.chainsIdle (s : State) (tid : Nat) : Bool :=
  s.e.chains.all fun c => c.t.tid ≠ tid || c.done || (c.elem.isNone && !s.chainWaits c)

/-- R40, R379: can the pre-emption of a stopping team be carried out now? A save writes 128 bytes per ns. -/
def State.saveDue (s : State) (tid : Nat) : Bool :=
  match s.team? tid with
  | some t =>
    match t.status with
    | .stopping discard =>
      !(s.liveOf tid).isEmpty && s.clausesDone tid &&
        ((discard && s.discardable tid) ||
          (s.mxDone tid && s.chainsIdle tid && decide (128 * (t.savedAt.toNat) + s.imageBytes tid ≤ 128 * s.clk.tclk.toNat)))
    | .resident => s.swapReady tid && s.clausesDone tid && s.mxDone tid && s.chainsIdle tid
    | _ => false
  | none => false

/-- R40, R306, R379, R380: TEAM_SAVE. A team that was to be discarded and no longer can be is saved. -/
def execTeamSave (tid : Nat) (s : State) : Host.Outcome State Fault Refusal :=
  .next (if !s.saveDue tid then s
    else
      match s.team? tid with
      | some t => if t.status = .stopping true && s.discardable tid then s.discardTeam tid else s.saveTeam tid
      | none => s)

/-! ## The Orrery -/

/-- R379: the elapsed residency of a team in ns. -/
def State.elapsed (s : State) (t : Team) : Nat := s.clk.tclk.toNat - t.began.toNat

/-- R379: the estimated time until a team retires by itself. -/
def State.drainTime (s : State) (t : Team) : Option Nat :=
  (mget? (s.part t.part).mean (t.ctx, t.stage, clusterOf t.core)).map fun m => m - s.elapsed t

/-- The ways of pre-emption, in the order in which ties go (R379). -/
inductive Method where
  | drain
  | discard
  | save
  deriving DecidableEq, Repr

/-- R379: the eligible methods with 128 times their costs in ns, in the order of ties. -/
def State.methods (s : State) (tid : Nat) (t : Team) (drainOk : Bool) : List (Method × Nat) :=
  let p := s.part t.part
  let ts := s.imageBytes tid
  (match s.drainTime t with
    | some td => if drainOk && p.meth.testBit 0 && td ≤ p.dl then [(Method.drain, 128 * td)] else []
    | none => []) ++
  (if p.meth.testBit 2 && s.discardable tid then [(Method.discard, 128 * s.elapsed t)] else []) ++
  (if p.meth.testBit 1 && ts ≤ 128 * p.dl then [(Method.save, 2 * ts)] else [])

/-- R379: the Orrery's choice: the least cost; where none is eligible, a save. -/
def State.choice (s : State) (tid : Nat) (t : Team) (drainOk : Bool) : Method :=
  match minBy? (fun x => x.2) (s.methods tid t drainOk) with
  | some x => x.1
  | none => .save

/-- R379: the pre-emption of a team begins. -/
def State.preempt (s : State) (tid : Nat) (drainOk : Bool) : State :=
  match s.team? tid with
  | some t =>
    if t.status ≠ .resident then s
    else
      match s.choice tid t drainOk with
      | .drain => s.setTeam tid fun t => { t with drainBy := some (s.clk.tclk + BitVec.ofNat 64 (s.part t.part).dl), moving := true }
      | .discard => s.setTeam tid fun t => { t with status := .stopping true, savedAt := s.clk.tclk, drainBy := none, moving := true }
      | .save => s.setTeam tid fun t => { t with status := .stopping false, savedAt := s.clk.tclk, drainBy := none, moving := true }
  | none => s

/-- R380: has the drain of a team missed its deadline? -/
def State.drainLate (s : State) (t : Team) : Bool :=
  t.status = .resident && (match t.drainBy with | some d => decide (d.toNat ≤ s.clk.tclk.toNat) | none => false)

/-- R380: DRAIN_DEADLINE_EXPIRY. -/
def execDrainDeadlineExpiry (tid : Nat) (s : State) : Host.Outcome State Fault Refusal :=
  .next (match s.team? tid with
    | some t => if s.drainLate t then s.preempt tid false else s
    | none => s)

/-! ## Restoring -/

/-- R306: is a saved team ready to be restored: a relaunch image, or a team that waits for no counter as a whole, or all of whose
counters have reached their goals (R85: and at whose scratchpad no copy aims)? -/
def State.restorable (s : State) (tid : Nat) : Bool :=
  match s.team? tid with
  | some t =>
    match t.status with
    | .relaunch => true
    | .saved =>
      !(s.e.copies.any fun c => c.dests.contains tid) &&
        (let ps := s.pathsOf tid
         !(ps.all fun p => p.state = .parked (.counter true)) ||
           ps.all fun p => (s.arcReady p).length = popcount p.mask)
    | _ => false
  | none => false

/-- The OSB units that a saved team's reservations take (R274, R364). -/
def State.osbFits (s : State) (tid part core : Nat) : Bool :=
  let n := s.osbTeam tid
  s.osbUsed core + n ≤ 64 && s.osbUsedBy core part + n ≤ limOsb (s.corelim part core)

/-- R60: the oldest saved team of a stage that is ready to be restored and whose reservations fit a core: the one that was saved first,
since the spec does not say from when the age of a saved team counts (assumption 68). -/
def State.oldestSaved (s : State) (part ctx stage core : Nat) : Option Nat :=
  (minBy? (fun (kv : Nat × Team) => kv.2.savedAt.toNat) (s.sch.teams.filter fun kv =>
    kv.2.part = part && kv.2.ctx = ctx && kv.2.stage = stage && s.restorable kv.1 && s.osbFits kv.1 part core)).map (·.1)

/-- R279, R332: a restored team's plates are read again from their sources, four at once. -/
def State.reloadPlates (s : State) (tid core : Nat) : State :=
  (s.e.plates.filter fun kv => kv.1.1 = tid && kv.2.loaded).foldl (fun s kv =>
    let (id, s) := s.freshId
    let x : PlateLoad :=
      { id := id, core := core, tid := tid, t := none, tok := 6, plate := kv.1.2, src := kv.2.src, desc := kv.2.desc, lbl := kv.2.opLbl,
        pc := 0, due := none, got := [], refused := none, backoff := 0, retryAt := 0 }
    let s := s.setPlate tid kv.1.2 fun p => { p with load := some id }
    { s with e.loads := s.e.loads ++ [x] }) s

/-- R40: the groups and paths of a restored team at their new places. -/
def State.placeBack (s : State) (tid : Nat) (f : Fit) : State :=
  let old := fun (g : GRef) => match s.group? g with | some x => x.quad | none => 0
  let s' := (f.spots.zipIdx).foldl (fun (s : State) (p : (Nat × Spot) × Nat) =>
    s.setGroup ⟨tid, p.2⟩ fun g => { g with core := p.1.1, row := p.1.2.1, quad := p.1.2.2.1, half := p.1.2.2.2 }) s
  { s' with sch.paths := s'.sch.paths.map fun (p : Path) =>
      if p.g.tid = tid then
        match s'.group? p.g with
        | some g => { p with core := g.core, quad := g.quad + (p.quad - old p.g), since := s'.clk.cycle - p.since,
                             readyAt := s'.clk.cycle + 1 }
        | none => p
      else p }

/-- The paths of a restored team whose wait ended while it was saved go on (R82, R83, R120, R126, R311). -/
def State.resumeWaits (s : State) (tid core : Nat) : State :=
  let s := (s.wakeLines tid).wakeCopies
  let s := ((s.pathsOf tid).map (·.id)).foldl (fun s pid => s.pldemBack pid) s
  (s.gateWake.callWake).serveOsb core 1024

/-- R40, R85, R279, R332, R382: a saved team is restored at a place, with the acquire that a new core needs. -/
def State.restoreSaved (s : State) (tid : Nat) (t : Team) (f : Fit) : State :=
  if !s.imageOk tid t then (s.teamFault tid fcTrans 7 0 0 0)
  else
    let s := (s.placeBack tid f).freeImage t.part tid
    let s := s.setTeam tid fun t =>
      { t with core := f.core, core2 := f.core2, slot := f.slot, slot2 := f.slot2, status := .resident, began := s.clk.tclk,
               drainBy := none, moving := false, noSave := false }
    let odd := f.core2.getD f.core
    let s := { s with
      e.osbs := s.e.osbs.map fun (o : Osb) => if o.tid = tid then { o with core := f.core } else o
      e.chains := s.e.chains.map fun (c : Chain) =>
        if c.t.tid = tid then { c with core := if c.core = noCore + 1 then odd else f.core, start := s.clk.cycle + 32 } else c }
    let s := (s.acquireAt f.core t.part 3).acquireAt odd t.part 3
    (s.reloadPlates tid f.core).resumeWaits tid f.core

/-- R380: a relaunch image restores as a fresh launch from ENTRY, with the values first given. -/
def State.relaunch (s : State) (tid : Nat) (t : Team) (st : Stage) (f : Fit) : State :=
  if !s.imageOk tid t then (s.teamFault tid fcTrans 7 0 0 0)
  else
    let s := s.freeImage t.part tid
    let s := { s with sch.teams := mdel s.sch.teams tid }
    let lr := if st.inkind = 0 then some t.lrec else none
    s.startTeam tid st ⟨t.part, t.ctx, t.stage, t.run, t.team, t.first, lr, 0⟩ f

/-- R60: a saved team or a relaunch image is restored. -/
def State.restore (s : State) (tid : Nat) (st : Stage) (f : Fit) : State :=
  match s.team? tid with
  | some t => if t.status = .relaunch then s.relaunch tid t st f else s.restoreSaved tid t f
  | none => s

end Sys2Proof.Machine
end

