-- ==== Sys2Proof/Machine/Slots.lean ====
section
/-! DEFINITION. The launch law: published lengths, eligibility, the choice of a stage, forming a team, retirement, and completion
reports (R56 to R62, R71, R72, R313, R342). -/

namespace Sys2Proof.Machine

open Sys2Proof

/-! ## The Ephemeris -/

/-- R56: the saved teams of a queue's stage that are ready to be restored. -/
def State.savedReady (s : State) (k : QKey) : Nat :=
  (s.sch.teams.filter fun kv =>
    kv.2.part = k.part && kv.2.ctx = k.ctx && s.restorable kv.1 &&
      (match s.stageOf kv.2 with | some st => s.inputOf kv.2.part kv.2.ctx kv.2.stage st = k | none => false)).length

/-- R56: the transit time at which the earliest path parked at a queue did so. -/
def Queue.parkedAt (q : Queue) : Option DWord := q.waiting.findSome? fun w => match w with | .path _ t => some t | _ => none

/-- R56: what is published of a queue. -/
def State.pubOf (s : State) (k : QKey) (q : Queue) : Pub :=
  let n := min (q.len + s.savedReady k) 0xFFFFFFFF
  match q.parkedAt with
  | some t => if q.full then ⟨n, true, t⟩ else ⟨n, false, 0⟩
  | none => ⟨n, false, 0⟩

/-- R57: the lengths of every queue as they stand. -/
def State.publication (s : State) : Map QKey Pub := s.gr.queues.map fun kv => (kv.1, s.pubOf kv.1 kv.2)

/-- R57: the update periods, in ns. -/
def nearPeriod : Nat := 32
def farPeriod : Nat := 128
def remotePeriod : Nat := 1000

/-- R57: is a publication within a die, or within the package, due? -/
def State.nearDue (s : State) : Bool := s.gr.pubAt.toNat + nearPeriod ≤ s.clk.tclk.toNat
def State.farDue (s : State) : Bool := s.gr.farAt.toNat + farPeriod ≤ s.clk.tclk.toNat

/-- R57: a publication within the dies: a core's own subtractions from queues of its die are reflected now. -/
def State.publishNear (s : State) : State :=
  { s with
    gr.near := s.publication
    gr.pubAt := s.clk.tclk
    sch.sub := s.sch.sub.filter fun (x : (Nat × QKey) × Nat) => s.homeDie x.1.2 ≠ coreDie x.1.1 }

/-- R57: a publication within the package. -/
def State.publishFar (s : State) : State :=
  { s with
    gr.far := s.publication
    gr.farAt := s.clk.tclk
    gr.early := []
    sch.sub := s.sch.sub.filter fun (x : (Nat × QKey) × Nat) => s.homeDie x.1.2 = coreDie x.1.1 }

/-! ## Stages -/

/-- The stages of a partition, each with its context and index. -/
def State.stagesOf (s : State) (part : Nat) : List (Nat × Nat × Stage) :=
  (s.part part).ctxs.flatMap fun c => c.2.stages.map fun st => (c.1, st.1, st.2)

/-- R313, R342: the queues that a stage outputs to. -/
def State.outputs (s : State) (part ctx : Nat) (st : Stage) : List QKey :=
  (st.outs.map fun q => (⟨part, ctx, false, q⟩ : QKey)) ++
    st.chan.filterMap fun e =>
      if capValid e.toNat && capKind e.toNat = 4 then
        (s.ttab? part ctx (capTarget e.toNat)).map fun t => readyKey part ctx t
      else none

/-- R57, R59: the length of an output queue in a core's view. -/
def State.outLen (s : State) (core : Nat) (k : QKey) : Nat :=
  match s.queue? k with
  | some q => if q.kind = 1 then (mget {} s.gr.remote (k.part, q.hqueue, q.hstation)).len else s.viewLen core k
  | none => 0

/-- R59: D(s). -/
def State.differential (s : State) (core part ctx idx : Nat) (st : Stage) : Int :=
  let out := (s.outputs part ctx st).foldl (fun m k => max m (s.outLen core k)) 0
  st.weight * ((s.viewLen core (s.inputOf part ctx idx st) : Int) - out)

/-! ## Partial batches -/

/-- R62: has a stage a team that is resident or saved, or that waits in a launch queue or for one? -/
def State.stageBusy (s : State) (part ctx idx : Nat) : Bool :=
  (s.sch.teams.any fun kv => kv.2.part = part && kv.2.ctx = ctx && kv.2.stage = idx) ||
  (s.sch.pendL.any fun p => p.lr.part = part && p.lr.ctx = ctx && p.lr.stage = idx) ||
  (match s.queue? ⟨part, ctx, true, idx⟩ with
    | some q => 0 < q.len || !q.waiting.isEmpty
    | none => false)

/-- R62, R319: is a burst towards a queue in flight: one that has left its home and is on its way here, or whose last record waits for a
position? -/
def State.burstComing (s : State) (k : QKey) : Bool :=
  (s.clk.inputs.any fun x => match x.2 with
    | .renq h _ queue fwd _ _ => fwd && decide (h.time.toNat ≤ s.clk.tclk.toNat) && s.queueOf h.tpart queue = some k
    | _ => false) ||
  (s.queue? k).any fun q => q.waiting.any fun w => match w with | .fabric _ _ _ _ fwd => fwd | _ => false

/-- R62, R313: no producer of a queue is about, and no burst towards it is in flight. -/
def State.producersIdle (s : State) (k : QKey) : Bool :=
  !((s.stagesOf k.part).any fun x => x.1 = k.ctx && (s.outputs k.part x.1 x.2.2).contains k && s.stageBusy k.part x.1 x.2.1) &&
    !s.burstComing k

/-- R62: the transit time at which the oldest record still in a queue took its position. -/
def Queue.oldest (q : Queue) : Option DWord :=
  (minBy? (fun (x : QRec) => x.at_.toNat) ((q.rings ++ q.cellars).filterMap List.head?)).map (·.at_)

/-- R62: has BATCHWAIT elapsed? -/
def State.batchOver (s : State) (k : QKey) (st : Stage) : Bool :=
  match (s.queue? k).bind Queue.oldest with
  | some t => t.toNat + st.batchwait ≤ s.clk.tclk.toNat
  | none => false

/-- R58, R62: does the partial-batch condition hold? -/
def State.partialOk (s : State) (k : QKey) (st : Stage) : Bool := st.inkind ≠ 0 && (s.producersIdle k || s.batchOver k st)

/-! ## The decision -/

/-- A stage that is eligible at a core. -/
structure Cand where
  ctx : Nat
  stage : Nat
  st : Stage
  fit : Fit
  pressed : Bool
  park : DWord
  d : Int
  deriving DecidableEq, Repr

/-- R58: is a stage eligible at a decision of a core, and with what rank? -/
def State.eligible (s : State) (part core ctx idx : Nat) (st : Stage) : Option Cand :=
  let k := s.inputOf part ctx idx st
  let n := s.viewLen core k
  let pub := s.viewPub core k
  match s.fit part core st with
  | none => none
  | some f =>
    if n = 0 then none
    else if st.inkind = 0 || st.groups * st.width ≤ n || s.partialOk k st || pub.pressed ||
        (s.oldestSaved part ctx idx f.core).isSome then
      some ⟨ctx, idx, st, f, pub.pressed, pub.park, s.differential core part ctx idx st⟩
    else none

/-- R59: does a candidate go before another? The spec ends with the stage index; of two stages of the same index, the model takes that of the
lower context (assumption 68). -/
def Cand.before (a b : Cand) : Bool :=
  let tail := b.d < a.d || (a.d = b.d && (a.stage < b.stage || (a.stage = b.stage && a.ctx < b.ctx)))
  if a.pressed && b.pressed then a.park.toNat < b.park.toNat || (a.park = b.park && tail)
  else if a.pressed != b.pressed then a.pressed
  else tail

/-- R59: the first of some candidates. -/
def bestCand : List Cand → Option Cand
  | [] => none
  | x :: xs =>
    match bestCand xs with
    | none => some x
    | some y => if y.before x then some y else some x

/-- R59: the launch law's choice for a partition's free team slot on a core. -/
def State.launchLaw (s : State) (part core : Nat) : Option Cand :=
  bestCand ((s.stagesOf part).filterMap fun x => s.eligible part core x.1 x.2.1 x.2.2)

/-- R60: a decision is dropped: the core takes the count that it found into its view, and decides again in the next cycle. -/
def State.dropDecision (s : State) (part core : Nat) (k : QKey) (found : Nat) : State :=
  { s with
    sch.sub := mset s.sch.sub (core, k) ((s.viewPub core k).len - found)
    sch.dropped := (s.sch.dropped.filter fun (x : Nat × Nat × Nat) => x.2.2 = s.clk.cycle) ++ [(part, core, s.clk.cycle)] }

/-- R60, R70: a team of the launch record at the head of a launch queue. -/
def State.formLaunch (s : State) (part core : Nat) (c : Cand) (k : QKey) : State :=
  match s.queue? k with
  | none => s
  | some q =>
    let (q, at_) := q.awaitRefill s.clk.cycle
    let late := lateBy s.clk.cycle at_
    let q := q.resumeRefill s.clk.cycle at_
    match q.head?, q.pop? with
    | some x, some (_, rest) =>
      match x.launch with
      | none => s.dropDecision part core k 0
      | some lr =>
        let s := s.subView core k 1
        let s :=
          if 1 < x.left then
            s.setQueue k fun _ => { q with rings := setAt q.rings 0 fun r => setAt r 0 fun y => { y with left := y.left - 1 } }
          else (s.setQueue k fun _ => rest).serveQueue k 4096
        s.formOfLaunch c.st c.fit lr late
    | _, _ => s.dropDecision part core k 0

/-- R60, R61: a team of the records of a queue, or a dropped decision. -/
def State.formRecs (s : State) (part core : Nat) (c : Cand) (k : QKey) : State :=
  let full := c.st.groups * c.st.width
  let found := match s.queue? k with | some q => q.records | none => 0
  if found = 0 || (found < full && !c.pressed && !s.partialOk k c.st) then s.dropDecision part core k found
  else
    let (xs, late, s) := s.dequeue k (min full found)
    let s := s.subView core k xs.length
    s.formOfRecs part c.ctx c.stage c.st c.fit (xs.map (·.r)) late

/-- R60: a candidate is placed. A restore deals no record, and so takes nothing from the view (R57). -/
def State.placeCand (s : State) (part core : Nat) (c : Cand) : State :=
  match s.oldestSaved part c.ctx c.stage c.fit.core with
  | some tid => s.restore tid c.st c.fit
  | none =>
    let k := s.inputOf part c.ctx c.stage c.st
    if c.st.inkind = 0 then s.formLaunch part core c k else s.formRecs part core c k

/-- R60: has a core dropped its decision for a partition in this cycle? -/
def State.droppedNow (s : State) (part core : Nat) : Bool := s.sch.dropped.contains (part, core, s.clk.cycle)

/-- R58, R59: SLOT_DECISION. -/
def execSlotDecision (part core : Nat) (s : State) : Host.Outcome State Fault Refusal :=
  .next (if s.droppedNow part core then s
    else
      match s.launchLaw part core with
      | some c => s.placeCand part core c
      | none => s)

/-- R62: BATCHWAIT_EXPIRY: once BATCHWAIT has elapsed, the cores that hold grants decide for the stage that the queue feeds. The
condition itself stands in `batchOver`, which every decision reads; the event makes the first core decide. -/
def execBatchwaitExpiry (q : QKey) (s : State) : Host.Outcome State Fault Refusal :=
  .next (
    let late := (s.stagesOf q.part).any fun x =>
      x.1 = q.ctx && s.inputOf q.part x.1 x.2.1 x.2.2 = q && s.batchOver q x.2.2
    match ((s.part q.part).corelim.map (·.1)).find? fun core => (s.launchLaw q.part core).isSome with
    | some core =>
      (match s.launchLaw q.part core with
        | some c => if late && !s.droppedNow q.part core then s.placeCand q.part core c else s
        | none => s)
    | none => s)

/-! ## Publications -/

/-- R332: has a queue grown since the latest publication within the package, while a core of another die has a free slot that fits its
stage? -/
def State.wantsEarly (s : State) (k : QKey) (p : Pub) : Bool :=
  (mget (mget {} s.gr.far k) s.gr.early k).len < p.len &&
    (s.stagesOf k.part).any fun x =>
      x.1 = k.ctx && s.inputOf k.part x.1 x.2.1 x.2.2 = k && (s.part k.part).corelim.any fun c =>
        coreDie c.1 ≠ s.homeDie k && limTslot (s.corelim k.part c.1) ≠ 0 && (s.fit k.part c.1 x.2.2).isSome

/-- R57, R332: with a publication within the dies, the cores of the other dies have the lengths of the queues that their free slots
wait for. No view is older for it, and the ports keep theirs (assumption 67). -/
def State.publishEarly (s : State) : State :=
  let ks := s.gr.near.filter fun kv => s.wantsEarly kv.1 kv.2
  { s with
    gr.early := ks.foldl (fun m kv => mset m kv.1 kv.2) s.gr.early
    sch.sub := s.sch.sub.filter fun (x : (Nat × QKey) × Nat) =>
      s.homeDie x.1.2 = coreDie x.1.1 || !ks.any fun kv => kv.1 = x.1.2 }

/-- R57: EPHEMERIS_PUBLISH. -/
def execEphemerisPublish (s : State) : Host.Outcome State Fault Refusal :=
  .next (
    let s := if s.nearDue then s.publishNear.publishEarly else s
    if s.farDue then s.publishFar else s)

/-- R59: a partition and core whose decision would place a team now, the lower partition first. -/
def State.slotDue (s : State) : Option (Nat × Nat) :=
  (sortBy id (s.gr.parts.map (·.1))).findSome? fun p =>
    (sortBy id ((s.part p).corelim.map (·.1))).findSome? fun c =>
      if limTslot (s.corelim p c) ≠ 0 && !s.droppedNow p c && (s.launchLaw p c).isSome then some (p, c) else none

/-! ## Retirement -/

/-- R71, R107: a store that performs at another station, which retirement does not wait for. -/
def Req.awayStore (r : Req) (a : Acc) : Bool :=
  r.kind.writes && r.dst.isEmpty && (match r.kind with | .decdep _ => false | _ => true) &&
    (match a.loc with | .fab .. => true | _ => false)

/-- R71, step 3: has everything that a team has sent performed? -/
def State.performed (s : State) (tid : Nat) : Bool :=
  !(s.m.reqs.any fun r => r.kind ≠ .pref && r.accs.any fun a => a.t.tid = tid && !r.awayStore a) &&
    !(s.y.reqs.any fun r => r.who = .pinned tid) &&
    (s.r.thr.filter fun kv => kv.1.tid = tid).all fun kv => kv.2.wct.toNat < s.clk.tclk.toNat

/-- R71, step 1: are the copies, chains and matrix issues of a team complete, and its plate loads? -/
def State.enginesDone (s : State) (tid : Nat) : Bool :=
  (!s.e.copies.any fun c => c.t.tid = tid) && (!s.e.chains.any fun c => c.t.tid = tid && !c.done) && s.mxDone tid &&
    !s.e.loads.any fun x => x.tid = tid

/-- R71, step 2: is every pending-launch entry of a team accepted? -/
def State.launchesDone (s : State) (tid : Nat) : Bool :=
  (!s.sch.pendL.any fun p => p.tid = tid) && !s.sch.lcopies.any fun c => c.1.tid = tid

/-- R71: has a resident team no live thread, with steps 1 and 2 done? -/
def State.ended (s : State) (tid : Nat) : Bool :=
  match s.team? tid with
  | some t => t.resident && (s.liveOf tid).isEmpty && s.enginesDone tid && s.launchesDone tid && s.clausesDone tid
  | none => false

/-- R99: has a team pinned lines? -/
def State.hasPins (s : State) (tid : Nat) : Bool :=
  s.m.l1.any fun x => match x.pin with | some p => p.tid = tid | none => false

/-- R99: the latest GWCT that the write-backs of a team's pinned lines return. -/
def State.pinGwct (s : State) (tid : Nat) : DWord :=
  (s.m.l1.filter fun x => match x.pin with | some p => p.tid = tid | none => false).foldl (fun g x => maxTime g (s.gwct x.line)) 0

/-- R99: within step 3, a retiring team's pinned lines are written back, and their GWCT passes before the credit. -/
def State.retirePins (s : State) (tid : Nat) : State :=
  let g := s.pinGwct tid
  let s := s.unpinTeam tid
  match s.r.thr.find? fun kv => kv.1.tid = tid with
  | some kv => s.joinWct kv.1 g
  | none => s

/-- R72, R75, R302: an arrival counter is credited; one whose address is outside the address space, or does not translate, is reported to
the launching context. -/
def State.credit (s : State) (t : Team) : State :=
  let lost := s.asyncReport t.part t.ctx 0x56 0 t.arc.toNat
  if t.arc = 0 then s
  else if 2 ^ 57 ≤ t.arc.toNat then lost
  else
    match s.translate t.core t.part t.ctx t.arc.toNat true with
    | .ok (.fab st off) _ =>
      let r := OutReq.write t.part t.ctx t.run st off 0 (natLE 8 1) .slot
      s.sendReq { r with kind := 2, wide := true, uns := true, ops := [1] }
    | .ok loc _ => if s.owned t.part loc then s.cohWrite loc (natLE 8 (leNat (s.getLoc loc 8) + 1)) else lost
    | _ => lost

/-- R98, R303: does a pinned line refuse the credit of a team? -/
def State.creditHeld (s : State) (t : Team) : Bool :=
  t.arc ≠ 0 && t.arc.toNat < 2 ^ 57 &&
    (match s.translate t.core t.part t.ctx t.arc.toNat true with
      | .ok loc _ => !s.servable none 0 loc.line
      | _ => false)

/-- R100: a credit that is refused is tried again; after 1 ms it is reported to the launching context, and the retirement goes on. -/
def State.creditOver (s : State) (t : Team) : Bool :=
  match t.creditAt with
  | some a => overdue a s.clk.tclk
  | none => false

/-- R379: the mean residency of a stage on a cluster takes up a retirement. -/
def State.noteMean (s : State) (t : Team) : State :=
  let key := (t.ctx, t.stage, clusterOf t.core)
  let r := s.elapsed t
  s.setPart t.part fun p => { p with mean := mset p.mean key (match mget? p.mean key with
    | some m => ((m : Int) + ((r : Int) - m) / 8).toNat
    | none => r) }

/-- R71, step 4: the credit; one that a pinned line has refused for 1 ms is reported instead (R100). -/
def State.creditTeam (s : State) (tid : Nat) : State :=
  match s.team? tid with
  | none => s
  | some t =>
    let s := if s.creditHeld t then s.asyncReport t.part t.ctx fcPinned 0 t.arc.toNat else s.credit t
    s.setTeam tid fun t => { t with credited := true }

/-- R71, step 4: has a team's counter had its credit? -/
def State.credited (s : State) (tid : Nat) : Bool := (s.team? tid).any fun t => t.credited

/-- R270: a copy aimed at a team is incomplete. -/
def State.aimed (s : State) (tid : Nat) : Bool := s.e.copies.any fun c => c.row < c.cr.rows && c.dests.contains tid

/-- R71, steps 5 and 6: the freeing of what the team holds, and the end of its part of the run. -/
def State.retire (s : State) (tid : Nat) : State :=
  match s.team? tid with
  | none => s
  | some t =>
    let s := (s.noteMean t).freeTeam tid
    let s := s.runEnd t.run false
    (s.serveOsb t.core 1024).wakeCopies

/-- R100: a refused credit of a team waits. -/
def State.creditWaits (s : State) (tid : Nat) : Bool :=
  match s.team? tid with
  | some t => s.creditHeld t && !s.creditOver t
  | none => false

/-- R100: has the credit of a team been refused before? -/
def State.creditSeen (s : State) (tid : Nat) : Bool := (s.team? tid).any fun t => t.creditAt.isSome

/-- R71: does the next part of a team's retirement follow now? -/
def State.retireDue (s : State) (tid : Nat) : Bool :=
  s.ended tid && (s.hasPins tid || (s.performed tid &&
    (if s.credited tid then !s.aimed tid else !s.creditWaits tid || !s.creditSeen tid)))

/-- R71: TEAM_RETIREMENT. -/
def execTeamRetirement (tid : Nat) (s : State) : Host.Outcome State Fault Refusal :=
  .next (if !s.ended tid then s
    else if s.hasPins tid then s.retirePins tid
    else if !s.performed tid then s
    else if !s.credited tid then
      (if s.creditWaits tid then s.setTeam tid fun t => { t with creditAt := some (t.creditAt.getD s.clk.tclk) } else s.creditTeam tid)
    else if s.aimed tid then s
    else s.retire tid)

/-! ## Completion reports -/

/-- R71: have all teams of a run ended, with every fabric store of theirs acknowledged? -/
def State.runDone (s : State) (id : Nat) (r : Run) : Bool :=
  !r.reported && (match r.total with | some n => decide (n ≤ r.ended) | none => false) &&
    (!s.y.reqs.any fun q => q.run = id && q.kind ≠ 0) &&
    !s.m.reqs.any fun r => r.accs.any fun a => a.run = id && !a.done && r.awayStore a

/-- R71: the completion report of a run, with whether it was terminated. Table 20.12 has no code for it and the spec gives it no
form, so the report stands in `completions` (assumption 18). -/
def State.reportRun (s : State) (id : Nat) (r : Run) : State :=
  { s with
    sch.runs := mset s.sch.runs id { r with reported := true }
    sch.completions := (id, r.terminated) :: s.sch.completions }

/-- R71: STAGE_RUN_COMPLETION_REPORT. -/
def execStageRunCompletionReport (run : Nat) (s : State) : Host.Outcome State Fault Refusal :=
  .next (match mget? s.sch.runs run with
    | some r => if s.runDone run r then s.reportRun run r else s
    | none => s)

end Sys2Proof.Machine
end

