-- ==== Sys2Proof/Machine/Forward.lean ====
section
/-! DEFINITION. Distributed queues: forwarding decisions and bursts, remote enqueues at their target and their answers at the
source, and the lengths that stations publish to one another (R57, R68, R69, R295, R318, R319, R357, R398, R404, R406). -/

namespace Sys2Proof.Machine

open Sys2Proof

def State.port (s : State) (n : Nat) : Port := mget {} s.y.ports n
def State.setPort (s : State) (n : Nat) (f : Port → Port) : State := { s with y.ports := mset s.y.ports n (f (s.port n)) }

/-! ## Forwarding -/

/-- R318, R398: is a decision of a partition's port due now? -/
def State.forwardDue (s : State) (part port : Nat) : Bool :=
  let p := s.part part
  p.ports.testBit port && (s.port port).st = 4 && s.clk.tclk.toNat % p.fwdper = p.phase &&
    mget? s.gr.fwd (part, port) ≠ some s.clk.tclk

/-- R68: F(q) of a distributed queue of a partition, as the fabric ports see it, towards a station. -/
def State.forwardValue (s : State) (k : QKey) (q : Queue) (far : Nat) : Option Int :=
  (mget? s.gr.remote (k.part, k.idx, far)).map fun p => q.weight * (((mget {} s.gr.far k).len : Int) - p.len)

/-- R68: the queues that qualify for a port towards a station. Before the first EPHEM of its far copy has arrived a queue has no far length
in the spec, and qualifies for nothing (assumption 68). -/
def State.forwardCands (s : State) (part far : Nat) : List (QKey × Queue × Int) :=
  s.gr.queues.filterMap fun kv =>
    if kv.1.part = part && !kv.1.launch && kv.2.kind = 2 then
      match s.forwardValue kv.1 kv.2 far with
      | some f => if (kv.2.theta : Int) < f then some (kv.1, kv.2, f) else none
      | none => none
    else none

/-- R68: the queue of greatest F; ties go to the lower index. -/
def bestForward : List (QKey × Queue × Int) → Option (QKey × Queue × Int)
  | [] => none
  | x :: xs =>
    match bestForward xs with
    | none => some x
    | some y => if x.2.2 < y.2.2 || (x.2.2 = y.2.2 && y.1.idx < x.1.idx) then some y else some x

/-- R318, Table 0.2: how long a port transmits a burst, in ns: 36 ports share 3.6 TB/s, so one moves 100 bytes in a ns. -/
def burstNs (bytes : Nat) : Nat := (bytes + 99) / 100

/-- R318: has the previous burst of a port left it? -/
def State.portIdle (s : State) (port : Nat) : Bool := (mget 0 s.gr.sent port).toNat ≤ s.clk.tclk.toNat

/-- R69: a burst leaves the local copy for the far one. -/
def State.burst (s : State) (k : QKey) (q : Queue) (port : Nat) : State :=
  let far := (s.port port).far
  let (xs, late, s) := s.dequeue k q.burst
  if xs.isEmpty then s
  else
    let rs : List Rec := xs.map fun x => x.r
    let (id, s) := s.freshId
    let req : Word := BitVec.ofNat 32 id
    let body := renqBody req k.idx true q.rsz rs
    let s := { s with gr.sent := mset s.gr.sent port (s.clk.tclk + BitVec.ofNat 64 (burstNs (16 + body.length) + late * 10 / 13)) }
    let o : OutRenq :=
      { req := req, q := k, part := k.part, ctx := k.ctx, station := far, queue := k.idx, pids := [], toks := [], recs := rs, fwd := true,
        port := port }
    { s with gr.renqs := s.gr.renqs ++ [o] }.sendMsg 0x18 k.part k.part far body

/-- R68, R318: one decision. A port whose previous burst has not left it skips it. -/
def State.forward (s : State) (part port : Nat) : State :=
  let s := { s with gr.fwd := mset s.gr.fwd (part, port) s.clk.tclk }
  if !s.portIdle port then s
  else
    match bestForward (s.forwardCands part (s.port port).far) with
    | some (k, q, _) => s.burst k q port
    | none => s

/-- R68, R318: FORWARDING_DECISION. -/
def execForwardingDecision (part port : Nat) (s : State) : Host.Outcome State Fault Refusal :=
  .next (if s.forwardDue part port then s.forward part port else s)

/-- R318: a decision that is due, lower ports first. -/
def State.nextForward (s : State) : Option (Nat × Nat) :=
  (List.range Config.ports).findSome? fun port =>
    (sortBy id (s.gr.parts.map (·.1))).findSome? fun p => if s.forwardDue p port then some (p, port) else none

/-! ## Remote enqueues at the target -/

/-- Table 19.7: the fields of an access-control entry. -/
def aclValid (e : Nat) : Bool := e.testBit 63
def aclLaunch (e : Nat) : Bool := e.testBit 62
def aclEnq (e : Nat) : Bool := e.testBit 61
def aclSpart (e : Nat) : Nat := bitsOf e 48 4
def aclStation (e : Nat) : Nat := bitsOf e 32 10
def aclMax (e : Nat) : Label := BitVec.ofNat 16 e

/-- R357: the first valid entry of a partition that matches a source. -/
def State.aclEntry (s : State) (part spart station : Nat) : Option Nat :=
  (List.range 64).findSome? fun n =>
    let e := (mget 0 (s.part part).acl n).toNat
    if aclValid e && aclSpart e = spart && aclStation e = station then some e else none

/-- R116, R357, R406: why a remote enqueue is refused: the CAUSE of Table 21.10. -/
def State.renqCause (s : State) (h : MsgHdr) (queue : Nat) (fwd : Bool) (rsz : Nat) (lbls : List Label) : Option Nat :=
  match (s.queueOf h.tpart queue).bind s.queue? with
  | none => some 5
  | some q =>
    let free := fwd && q.kind = 2 && h.spart = h.tpart
    let aclOk := match s.aclEntry h.tpart h.spart h.sstation with
      | some e => aclEnq e && lbls.all fun l => Label.sub l (aclMax e)
      | none => false
    if q.rsz ≠ rsz || q.kind = 1 then some 5
    else if !free && !aclOk then some 8
    else if !lbls.all fun l => Label.sub l q.ceil then some 9
    else none

/-- R404: a REFUSE to the sender of a message. -/
def State.sendRefuse (s : State) (h : MsgHdr) (cause : Nat) (ref : Word) : State :=
  s.sendMsg 0x11 h.spart h.tpart h.sstation (natLE 4 cause ++ natLE 4 ref.toNat)

/-- R406: a RENQ reaches its target. -/
def State.takeRenq (s : State) (h : MsgHdr) (req : Word) (queue : Nat) (fwd : Bool) (rsz : Nat) (recs : List (Label × List Byte)) :
    State :=
  match s.renqCause h queue fwd rsz (recs.map (·.1)), s.queueOf h.tpart queue with
  | none, some k =>
    let rs : List Rec := recs.map fun r => ⟨r.2, r.1, true⟩
    (s.waitAt k (.fabric rs h.sstation h.spart req fwd)).serveQueue k 4096
  | some c, _ => s.sendRefuse h c req
  | none, none => s

/-- R406: RENQ. -/
def execRenq (h : MsgHdr) (req : Word) (queue : Nat) (fwd : Bool) (rsz : Nat) (recs : List (Label × List Byte)) (s : State) :
    Host.Outcome State Fault Refusal := s.onMsg h fun s => s.takeRenq h req queue fwd rsz recs

/-! ## Answers at the source -/

def State.renq? (s : State) (station : Nat) (req : Word) : Option OutRenq :=
  s.gr.renqs.find? fun o => o.req = req && o.station = station

def State.dropRenq (s : State) (req : Word) : State :=
  { s with gr.renqs := s.gr.renqs.filter fun (o : OutRenq) => o.req ≠ req }

/-- R295: a remote enqueue has ended: its paths go on behind their instruction. -/
def State.renqEnd (s : State) (o : OutRenq) : State :=
  o.pids.foldl (fun s pid => match s.path? pid with | some p => s.goBehind p none | none => s) (s.dropRenq o.req)

/-- R406: RENQACK. -/
def execRenqack (h : MsgHdr) (req : Word) (status : Nat) (s : State) : Host.Outcome State Fault Refusal :=
  s.onMsg h fun s =>
    match s.renq? h.sstation req with
    | some o => if status = 0 then s.renqEnd o else s
    | none => s

/-- R116, Table 20.12: the code of the report of a refused remote enqueue. -/
def refuseCode (cause : Nat) : Nat := if cause = 9 then 0x52 else 0x54

/-- R116, R295, R356, R404: REFUSE: an enqueue's paths go on and its context has the report; a refused notify is reported to the
partition that sent it. -/
def execRefuse (h : MsgHdr) (cause : Nat) (ref : Word) (s : State) : Host.Outcome State Fault Refusal :=
  s.onMsg h fun s =>
    match s.renq? h.sstation ref with
    | some o => (s.renqEnd o).asyncReport o.part o.ctx (refuseCode cause) 0 0
    | none => s.asyncReport h.tpart 0 0x58 0 0

/-! ## Lengths between stations -/

/-- R57: the stations that this one publishes to: those that its active ports reach, and those of its meshes. -/
def State.peers (s : State) : List Nat :=
  sortBy id <| (dedup ((s.y.ports.filterMap fun kv => if kv.2.st = 4 then some kv.2.far else none) ++
    s.gr.parts.flatMap fun kv => kv.2.meshes.flatMap fun m => m.2.stations)).filter fun n => n ≠ s.y.station

/-- Table 21.10: one entry of EPHEM. -/
def ephemBytes (q : Nat) (p : Pub) : List Byte :=
  natLE 4 (q % 1024 + (if p.pressed then 1024 else 0)) ++ natLE 4 p.len ++ natLE 8 p.park.toNat

/-- R57, R406: the lengths of a partition's queues as an EPHEM carries them. -/
def State.ephemBody (s : State) (part : Nat) : List Byte :=
  let es := s.gr.queues.filter fun kv => kv.1.part = part && !kv.1.launch && kv.2.kind ≠ 1
  natLE 8 es.length ++ es.flatMap fun kv => ephemBytes kv.1.idx (s.pubOf kv.1 kv.2)

/-- R57: every partition's lengths go to every other station. -/
def State.publishRemote (s : State) : State :=
  let s := { s with gr.remAt := s.clk.tclk }
  let ps := dedup ((s.gr.queues.filter fun kv => !kv.1.launch && kv.2.kind ≠ 1).map fun kv => kv.1.part)
  s.peers.foldl (fun s st => (sortBy id ps).foldl (fun s p => s.sendMsg 0x20 p p st (s.ephemBody p)) s) s

/-- R57: is a publication to the other stations due? -/
def State.remoteDue (s : State) : Bool := s.gr.remAt.toNat + remotePeriod ≤ s.clk.tclk.toNat

/-- R57: EPHEMERIS_REMOTE_PUBLICATION. -/
def execEphemerisRemotePublication (s : State) : Host.Outcome State Fault Refusal := .next s.publishRemote

/-- R57, R406: EPHEM: the lengths enter this station's view. -/
def execEphem (h : MsgHdr) (es : List EphemEntry) (s : State) : Host.Outcome State Fault Refusal :=
  s.onMsg h fun s =>
    es.foldl (fun s e => { s with
      gr.remote := mset s.gr.remote (h.tpart, e.queue, h.sstation) ⟨e.len, e.pressed, e.park⟩ }) s

end Sys2Proof.Machine
end

