-- ==== Sys2Proof/Machine/Packet.lean ====
section
/-! DEFINITION. Launch packets: launch slots of the host and of peers, notifies, the seal, the checks, and gangs (R73, R353 to R358,
R360). -/

namespace Sys2Proof.Machine

open Sys2Proof

/-! ## Functions and partitions -/

/-- R361: the partition that a function acts for: the one bound to a VF; for the PF the lowest to which no VF is bound. -/
def State.partOfFn (s : State) (fn : Nat) : Option Nat :=
  if fn ≠ 0 then (s.fn fn).part else (List.range 16).find? fun p => s.fnOf p = 0

/-- R387: boot stage 4 has opened the host interface, and the module is not in minimal mode (R388). -/
def State.hostOpen (s : State) : Bool := s.y.boot.stage = 4 && !s.y.boot.minimal

/-- R359, R388: does a function answer accesses? -/
def State.fnUp (s : State) (fn : Nat) : Bool :=
  s.hostOpen && (fn = 0 || ((s.fn fn).enabled && (s.fn fn).resetting.isNone))

/-- R355, R391: the label of the principal of a function; empty where it has none. -/
def State.fnLbl (s : State) (fn : Nat) : Label := match (s.fn fn).slot with | some k => slotLbl k | none => 0

/-! ## Slots -/

def State.slot (s : State) (k : SlotKey) : LSlot := mget {} s.h.slots k
def State.setSlot (s : State) (k : SlotKey) (f : LSlot → LSlot) : State := { s with h.slots := mset s.h.slots k (f (s.slot k)) }

/-- The 128 bytes of a slot. -/
def LSlot.packet (x : LSlot) : List Byte := (List.range 128).map fun i => mget 0 x.bytes i

/-- The number in some bytes of a packet. -/
def field (bs : List Byte) (off n : Nat) : Nat := leNat ((bs.drop off).take n)

/-- Table 19.4: SEAL. -/
def LSlot.sealWord (x : LSlot) : Word := BitVec.ofNat 32 (field x.packet 0x7C 4)

/-- Bytes arrive in a slot, with the label that their write carries. -/
def State.slotStore (s : State) (k : SlotKey) (off : Nat) (bs : List Byte) (lbl : Label) : State :=
  s.setSlot k fun x => { x with
    lbls := bs.zipIdx.foldl (fun m b => mset m (off + b.2) lbl) x.lbls
    bytes := bs.zipIdx.foldl (fun m b => mset m (off + b.2) b.1) x.bytes }

/-- R356: the label of a peer's packet. -/
def LSlot.lbl (x : LSlot) : Label := x.lbls.foldl (fun l b => l ||| b.2) 0

/-- R355: LERR after a report. -/
def lerrWord (slot cause : Nat) (sv : Word) : DWord :=
  BitVec.ofNat 64 (2 ^ 63 + slot % 64 * 2 ^ 40 + cause % 256 * 2 ^ 32 + sv.toNat)

/-- R355: LERR := (slot, cause). -/
def State.setLerr (s : State) (fn slot cause : Nat) (sv : Word) : State :=
  s.setFn fn fun f => { f with lerr := lerrWord slot cause sv }

/-! ## The checks -/

/-- Table 19.4: the fields of a packet. -/
def pkStage (bs : List Byte) : Nat := field bs 0x40 1
def pkMembers (bs : List Byte) : Nat := field bs 0x58 8
def pkNmemb (bs : List Byte) : Nat := field bs 0x46 2
def pkGang (bs : List Byte) : Bool := bitsOf (field bs 0x44 4) 10 1 = 1
def pkOrigin (bs : List Byte) : Nat := bitsOf (field bs 0x44 4) 0 10
def pkGangId (bs : List Byte) : Word := BitVec.ofNat 32 (field bs 0x48 4)
def pkDeadline (bs : List Byte) : DWord := BitVec.ofNat 64 (field bs 0x50 8)

/-- Table 19.4: does a packet break a rule of its own layout, at a station? -/
def packetBad (bs : List Byte) (station : Nat) : Bool :=
  field bs 0x41 3 ≠ 0 || bitsOf (field bs 0x44 4) 11 5 ≠ 0 || field bs 0x4C 4 ≠ 0 || field bs 0x60 28 ≠ 0 ||
  (if pkGang bs then
    (if pkOrigin bs = station then decide (pkNmemb bs = 0) || decide (1024 < pkNmemb bs) else decide (pkNmemb bs ≠ 0))
  else decide (pkOrigin bs ≠ 0) || decide (pkNmemb bs ≠ 0) || decide (pkGangId bs ≠ 0) || decide (pkDeadline bs ≠ 0))

/-- R353, R361: the context and the stage that a packet names: of the contexts of the partition that have the stage, the lowest. -/
def State.packetStage (s : State) (part n : Nat) : Option (Nat × Stage) :=
  (sortBy id ((s.part part).ctxs.map (·.1))).findSome? fun c => (s.stage? part c n).map fun st => (c, st)

/-- Table 19.4: the member list of an originator's packet; none where it cannot be read or is malformed. -/
def State.packetMembers (s : State) (part ctx : Nat) (bs : List Byte) : Option (List Nat) :=
  if pkGang bs && pkOrigin bs = s.y.station then
    match s.argBytes noCore part ctx (pkMembers bs) (2 * pkNmemb bs) with
    | none => none
    | some (ms, _) =>
      let ids := (List.range (pkNmemb bs)).map fun i => field ms (2 * i) 2
      if ids.any fun x => 1024 ≤ x then none else some ids
  else some []

/-- R355, R357: why a packet of a slot is refused. A peer's packet is held to the access-control entry that admitted its notify. -/
def State.packetCause (s : State) (k : SlotKey) (part : Nat) (bs : List Byte) (lbl : Label) : Option Nat :=
  match s.packetStage part (pkStage bs) with
  | none => some 5
  | some (ctx, st) =>
    let maxOk := !k.peer || (s.slot k).adm.any fun m => Label.sub lbl m
    if packetBad bs s.y.station || st.inkind ≠ 0 || launchRecBad (bs.take 64) st.groups || (s.packetMembers part ctx bs).isNone then some 5
    else if !maxOk then some 8
    else if !Label.sub lbl (s.ceilOf ⟨part, ctx, true, pkStage bs⟩) then some 6
    else none

/-- R355, R356: a slot is free again after a refusal, which the sender learns: the host by LERR and the fault queue, a peer by a
REFUSE. -/
def State.slotFail (s : State) (k : SlotKey) (cause : Nat) (seq sv : Word) : State :=
  let x := s.slot k
  let s := s.setSlot k fun x => { x with busy := false, wait := none, src := none, adm := none }
  if k.peer then
    match x.src with
    | some (station, spart) => s.sendMsg 0x11 spart k.owner station (natLE 4 cause ++ natLE 4 seq.toNat)
    | none => s
  else
    let s := s.setLerr k.owner k.slot cause sv
    if cause = 4 then s.raiseMsix k.owner 0
    else match s.partOfFn k.owner with | some p => s.asyncReport p 0 0x58 0 0 | none => s

/-! ## Gangs -/

/-- R358: a packet of a gang has been accepted here. -/
def State.joinGang (s : State) (lr : LRec) (members : List Nat) : State :=
  match lr.gang with
  | none => s
  | some (origin, id, deadline) =>
    let s := if (s.gang? origin id).isSome then s else { s with y.gangs := s.y.gangs ++ [Gang.new id origin deadline lr.part] }
    s.setGang origin id fun g => { g with accepted := true, members := members, part := lr.part, ctx := lr.ctx }

/-- R358: is a gang aborted at this station, so that its packets are discarded when they arrive within 1 ms after their DEADLINE? -/
def State.gangGone (s : State) (gang : Option (Nat × Word × DWord)) : Bool :=
  match gang with
  | some (origin, id, deadline) =>
    (s.gang? origin id).any fun g => g.aborted && decide (s.clk.tclk.toNat ≤ deadline.toNat + gangKeep.toNat)
  | none => false

/-- Does something belong to a gang? -/
def ofGang (origin : Nat) (id : Word) (g : Option (Nat × Word × DWord)) : Bool :=
  match g with | some (o, i, _) => o = origin && i = id | none => false

/-- R73: records of a gang leave the launch queues, and what waits for one. -/
def Queue.dropGang (q : Queue) (origin : Nat) (id : Word) : Queue :=
  let keep := fun (x : QRec) => match x.launch with | some lr => !ofGang origin id lr.gang | none => true
  { q with
    rings := q.rings.map fun r => r.filter keep
    cellars := q.cellars.map fun r => r.filter keep
    waiting := q.waiting.filter fun w => match w with | .launch lr _ _ => !ofGang origin id lr.gang | _ => true }

/-- R355: a slot whose record a queue will never take is free. -/
def State.freeGangSlots (s : State) (origin : Nat) (id : Word) : State :=
  s.gr.queues.foldl (fun s kv => kv.2.waiting.foldl (fun s w =>
    match w with
    | .launch lr _ (some x) => if ofGang origin id lr.gang then s.freeSlot x lr.seq else s
    | _ => s) s) s

/-- R73: the abort of a gang at this station. Its contexts have a report for each station that failed, with the gang id in ADDR, the count
of those stations in DETAIL, and the station in ADDR2. GABORT names none (Table 21.10), so a member's contexts have one report with the
gang id alone (assumption 50). -/
def State.abortHere (s : State) (origin : Nat) (id : Word) (failed : List Nat) : State :=
  let ts := s.sch.teams.filter fun kv => ofGang origin id kv.2.gang
  let g := s.gang? origin id
  let own := match g with | some g => if g.accepted then [(g.part, g.ctx)] else [] | none => []
  let ctxs := dedup (own ++ ts.map fun kv => (kv.2.part, kv.2.ctx))
  let s := s.freeGangSlots origin id
  let s := { s with gr.queues := s.gr.queues.map fun (kv : QKey × Queue) => (kv.1, kv.2.dropGang origin id) }
  let s := ts.foldl (fun s kv => s.terminate kv.1) s
  let told := if failed.isEmpty then [0] else sortBy (fun (x : Nat) => x) failed
  ctxs.foldl (fun s c => told.foldl (fun s st =>
    s.report (s.fnOf c.1)
      { cls := 2, code := 0x51, part := c.1, ctx := c.2, detail := failed.length, addr := id.toNat, addr2 := st }) s) s

/-- R73, R358: the originator's decision at the deadline. -/
def State.gangDecide (s : State) (g : Gang) : State :=
  let missing := g.members.filter fun m => !g.acked.contains m
  if g.accepted && missing.isEmpty then s.setGang g.origin g.id fun g => { g with held := true }
  else
    let s := s.setGang g.origin g.id fun g => { g with aborted := true }
    let tell := (if g.accepted then g.members else g.acked).filter fun m => m ≠ s.y.station
    let s := tell.foldl (fun s m => s.sendMsg 0x29 g.part g.part m (natLE 8 g.id.toNat)) s
    s.abortHere g.origin g.id (if g.accepted then missing else [s.y.station])

/-- R358: does a gang's decision fall now? An acknowledgement that arrives by the deadline counts. -/
def State.gangDue (s : State) (g : Gang) : Bool :=
  g.origin = s.y.station && !g.aborted && !g.held && DWord.past s.clk.tclk g.deadline

/-- R73, R358: GANG_DEADLINE. -/
def execGangDeadline (gang : Nat) (s : State) : Host.Outcome State Fault Refusal :=
  .next (match s.y.gangs.find? fun g => g.id.toNat = gang && s.gangDue g with
    | some g => s.gangDecide g
    | none => s)

/-- R358: GANG_ID_RETENTION_EXPIRY. -/
def execGangIdRetentionExpiry (gang : Nat) (s : State) : Host.Outcome State Fault Refusal :=
  .next { s with y.gangs := s.y.gangs.filter fun (g : Gang) => !(g.id.toNat = gang && g.keep.toNat ≤ s.clk.tclk.toNat) }

/-- R358: GACK. -/
def execGack (h : MsgHdr) (gang : Word) (deadline : DWord) (s : State) : Host.Outcome State Fault Refusal :=
  s.onMsg h fun s =>
    let late := DWord.past s.clk.tclk deadline
    if late && (s.gang? s.y.station gang).isNone then
      if (deadline + gangKeep).toNat ≤ s.clk.tclk.toNat then s
      else ({ s with y.gangs := s.y.gangs ++ [{ Gang.new gang s.y.station deadline h.tpart with aborted := true }] }).takeGack
        h.sstation h.tpart gang deadline
    else s.takeGack h.sstation h.tpart gang deadline

/-- R73, R358: GABORT. -/
def execGabort (h : MsgHdr) (gang : Word) (s : State) : Host.Outcome State Fault Refusal :=
  s.onMsg h fun s =>
    let s := if (s.gang? h.sstation gang).isSome then s
      else { s with y.gangs := s.y.gangs ++ [{ Gang.new gang h.sstation s.clk.tclk h.tpart with keep := s.clk.tclk + gangKeep }] }
    (s.setGang h.sstation gang fun g => { g with aborted := true }).abortHere h.sstation gang []

/-! ## Taking a packet -/

/-- R353: the launch record of a packet. -/
def State.packetRec (_s : State) (k : SlotKey) (part ctx : Nat) (bs : List Byte) (lbl : Label) (seq : Word) : LRec :=
  { bytes := bs.take 64, lbl := lbl, mark := k.peer, part := part, ctx := ctx, stage := pkStage bs, run := 0,
    gang := if pkGang bs then some (pkOrigin bs, pkGangId bs, pkDeadline bs) else none, slot := some k, seq := seq }

/-- R70, R355: a record from a slot enters its launch queue, or waits for room there with the slot busy. -/
def State.enterLaunch (s : State) (k : SlotKey) (lr : LRec) : State :=
  let q : QKey := ⟨lr.part, lr.ctx, true, lr.stage⟩
  match s.queue? q with
  | none => s
  | some x =>
    if s.roomFor q 0 1 && x.accepted ≤ s.clk.cycle then (s.acceptLaunch q lr).freeSlot k lr.seq
    else s.waitAt q (.launch lr none (some k))

/-- R355: the seal matches: the packet is read once, checked, and entered or refused. -/
def State.takePacket (s : State) (k : SlotKey) (seq : Word) : State :=
  let s := s.setSlot k fun x => { x with wait := none }
  let x := s.slot k
  let bs := x.packet
  let lbl := if k.peer then x.lbl else s.fnLbl k.owner
  match (if k.peer then some k.owner else s.partOfFn k.owner) with
  | none => s.slotFail k 5 seq 0
  | some part =>
    match s.packetCause k part bs lbl, s.packetStage part (pkStage bs) with
    | none, some (ctx, _) =>
      let lr := s.packetRec k part ctx bs lbl seq
      if s.gangGone lr.gang then s.freeSlot k seq
      else (s.joinGang lr ((s.packetMembers part ctx bs).getD [])).enterLaunch k lr
    | some c, _ => s.slotFail k c seq 0
    | none, none => s

/-- R355: the SEAL is read again. -/
def State.seeSeal (s : State) (k : SlotKey) : State :=
  match (s.slot k).wait with
  | some (seq, _) => if (s.slot k).sealWord = seq then s.takePacket k seq else s
  | none => s

/-- R355: 10 µs, in ns. -/
def sealNs : DWord := 10000

/-- R355: a slot becomes busy, and its SEAL is awaited. -/
def State.beginSlot (s : State) (k : SlotKey) (seq : Word) (src : Option (Nat × Nat)) (adm : Option Label) : State :=
  (s.setSlot k fun x => { x with busy := true, wait := some (seq, s.clk.tclk + sealNs), src := src, adm := adm }).seeSeal k

/-! ## The events -/

/-- R355, R360: NOTIFY. -/
def State.notify (s : State) (fn bytes : Nat) (val : DWord) : State :=
  let seq : Word := BitVec.ofNat 32 (val.toNat / 2 ^ 32)
  let slot := val.toNat % 64
  let k : SlotKey := ⟨false, fn, slot⟩
  if (s.fn fn).hifsel = 0 then s.setLerr fn 0 7 0
  else if seq = 0 || bitsOf val.toNat 6 26 ≠ 0 || bytes ≠ 8 then s.setLerr fn slot 1 0
  else if (s.slot k).busy then s.setLerr fn slot 2 0
  else if (s.slot k).last = some seq then s.setLerr fn slot 3 0
  else s.beginSlot k seq none none

/-- R355: NOTIFY_WRITE. -/
def execNotifyWrite (fn bytes : Nat) (val : DWord) (s : State) : Host.Outcome State Fault Refusal :=
  .next (if s.fnUp fn then s.notify fn bytes val else s)

/-- R354, R355: LAUNCH_SLOT_WRITE. -/
def execLaunchSlotWrite (fn slot off : Nat) (data : List Byte) (s : State) : Host.Outcome State Fault Refusal :=
  .next (if s.fnUp fn && slot < 64 && off + data.length ≤ 128 then
      (s.slotStore ⟨false, fn, slot⟩ off data 0).seeSeal ⟨false, fn, slot⟩
    else s)

/-- R355: SEAL_WAIT_TIMEOUT. -/
def execSealWaitTimeout (k : SlotKey) (s : State) : Host.Outcome State Fault Refusal :=
  .next (match (s.slot k).wait with
    | some (seq, t) => if t.toNat ≤ s.clk.tclk.toNat then s.slotFail k 4 seq (s.slot k).sealWord else s
    | none => s)

/-- R355: LERR_CLEAR. -/
def execLerrClear (fn : Nat) (val : DWord) (s : State) : Host.Outcome State Fault Refusal :=
  .next (if val.toNat.testBit 63 then s.setFn fn fun f => { f with lerr := BitVec.ofNat 64 (f.lerr.toNat % 2 ^ 63) } else s)

/-- R356, R357: NOTIFY from a peer. -/
def execNotifyMsg (h : MsgHdr) (seq : Word) (slot : Nat) (s : State) : Host.Outcome State Fault Refusal :=
  s.onMsg h fun s =>
    let k : SlotKey := ⟨true, h.tpart, slot % 64⟩
    let acl := (s.aclEntry h.tpart h.spart h.sstation).filter aclLaunch
    if acl.isNone then s.sendRefuse h 8 seq
    else if seq = 0 || 64 ≤ slot then s.sendRefuse h 1 seq
    else if (s.slot k).busy then s.sendRefuse h 2 seq
    else if (s.slot k).last = some seq then s.sendRefuse h 3 seq
    else s.beginSlot k seq (some (h.sstation, h.spart)) (acl.map aclMax)

end Sys2Proof.Machine
end

