-- ==== Sys2Proof/Machine/FaultQ.lean ====
section
/-! DEFINITION. Settling resolvable reports (R290, R371, R384). -/

namespace Sys2Proof.Machine

open Sys2Proof

/-- R371: the unsettled report of a token in a function's fault queue. -/
def State.resolv? (s : State) (fn : Nat) (token : Word) : Option Resolvable :=
  s.sch.resolv.find? fun x => x.token = token && x.fn = fn

/-- A report is settled. -/
def State.settled (s : State) (token : Word) : State :=
  { s with sch.resolv := s.sch.resolv.filter fun (x : Resolvable) => x.token ≠ token }

/-- R290, R371: the lanes parked on a report issue their word again, and a chain that it holds goes on. -/
def State.reissue (s : State) (x : Resolvable) : State :=
  let s := s.settled x.token
  match x.chain with
  | some c => s.setChain c fun c => { c with held := none }
  | none => s.wakeIf fun p => p.state = .parked (.fault x.token)

/-- The PC of the lanes or the chain that a report names. -/
def State.resolvPc (s : State) (x : Resolvable) : Nat :=
  match x.chain with
  | some c => (match s.e.chains.find? fun (y : Chain) => y.id = c with | some y => y.pc | none => 0)
  | none => (match s.sch.paths.find? fun p => p.state = .parked (.fault x.token) with | some p => p.pc | none => 0)

/-- R371: a report ends its team with a translation fault. -/
def State.settleEnd (s : State) (x : Resolvable) (detail : Nat) (gpa : DWord) : State :=
  (s.settled x.token).teamFault x.tid fcTrans detail (s.resolvPc x) x.va.toNat gpa.toNat

/-- R371: FQRES_REISSUE. -/
def execFqresReissue (fn : Nat) (token : Word) (s : State) : Host.Outcome State Fault Refusal :=
  .next (match s.resolv? fn token with | some x => s.reissue x | none => s)

/-- R371: FQRES_TERMINATE. -/
def execFqresTerminate (fn : Nat) (token : Word) (s : State) : Host.Outcome State Fault Refusal :=
  .next (match s.resolv? fn token with | some x => s.settleEnd x 2 0 | none => s)

/-- R371: FQRES_REFLECT, which only the PF has. The report goes to the queue of the context's function with the VA and the GPA. -/
def execFqresReflect (fn : Nat) (token : Word) (s : State) : Host.Outcome State Fault Refusal :=
  .next (match s.resolv? fn token with | some x => if fn = 0 then s.settleEnd x 6 x.gpa else s | none => s)

/-- R371: has a report stood unsettled for FTMO? -/
def State.resolvLate (s : State) (x : Resolvable) : Bool := x.at_.toNat + 1000000 * (s.fn x.fn).ftmo ≤ s.clk.tclk.toNat

/-- R371: FAULT_RESOLUTION_TIMEOUT. -/
def execFaultResolutionTimeout (token : Word) (s : State) : Host.Outcome State Fault Refusal :=
  .next (match s.sch.resolv.find? fun x => x.token = token with
    | some x => if s.resolvLate x then s.settleEnd x 1 0 else s
    | none => s)

end Sys2Proof.Machine
end

