-- ==== Sys2Proof/Machine/Regs.lean ====
section
/-! DEFINITION. The function registers, the two mailboxes with their command blocks, and the VF controls (R5, R87, R352, R355,
R360, R362, R363, R384, R386 and Tables 19.3, 20.1, 20.2, 21.1, 21.2, 22.1). -/

namespace Sys2Proof.Machine

open Sys2Proof

/-! ## Versions -/

/-- R360: the highest version within two ranges, each laid out as Table 19.8: its major and minor. -/
def commonVersion (a b : Nat) : Option (Nat × Nat) :=
  let hi := min (a / 65536) (b / 65536)
  if max (a % 65536) (b % 65536) ≤ hi then some (hi / 256, hi % 256) else none

/-- R360, Table 19.8: HIFDEV: version 1.0 alone. -/
def hifDev : Nat := 0x01000100

/-- R360: HIFSEL after a write of HIFDRV. -/
def hifSelect (drv : Word) : Word :=
  match commonVersion hifDev drv.toNat with
  | some (major, minor) => BitVec.ofNat 32 (major * 2 ^ 24 + minor * 2 ^ 16)
  | none => 0

/-- R360: HIFDRV. -/
def State.setHifdrv (s : State) (fn : Nat) (val : Word) : State :=
  s.setFn fn fun f => { f with hifdrv := val, hifsel := hifSelect val }

/-! ## Apertures and grants -/

/-- Table 0.2, R365: the memory that a partition's channels hold: 64 GiB a stack, a twelfth of 2 TiB a second-tier channel. -/
def State.grantBytes (s : State) (part : Nat) : Nat :=
  popcount (BitVec.ofNat 64 (s.part part).hbm) * 2 ^ 36 + popcount (BitVec.ofNat 64 (s.part part).chans) * (2 ^ 41 / 12)

/-- R352: VF v is bound to partition v − 1 (assumption 19). -/
def vfPart (vf : Nat) : Nat := vf - 1

/-- R352: log₂ of a VF's BAR4 size: from 30 to 40, and no more than the grant. A partition without a grant has the least aperture, which
reaches nothing, since it owns no frame. -/
def State.barSize (s : State) (vf log : Nat) : Nat :=
  max 30 (min (max 30 (min 40 log)) (Nat.log2 (s.grantBytes (vfPart vf))))

/-- R352: log₂ of a function's BAR4 size. -/
def State.barLogOf (s : State) (fn : Nat) : Nat := if fn = 0 then 40 else (s.fn fn).barLog

/-- R352: APBASE is stored rounded down to the BAR4 size. -/
def State.setApbase (s : State) (fn : Nat) (val : DWord) : State :=
  let n := 2 ^ s.barLogOf fn
  s.setFn fn fun f => { f with apbase := BitVec.ofNat 64 (val.toNat / n * n) }

/-- R87: LEASECFG stores 64 to 4,000. -/
def leaseLen (val : Word) : Nat := max 64 (min 4000 (val.toNat % 8192))

/-- R87: LEASECFG of a function's partition. -/
def State.setLease (s : State) (fn : Nat) (val : Word) : State :=
  match s.partOfFn fn with
  | some p => s.setPart p fun x => { x with lease := leaseLen val }
  | none => s

/-! ## Command blocks -/

/-- The 64 bytes of a command block. -/
def blockBytes (m : List (Nat × Byte)) : List Byte := (List.range 64).map fun i => mget 0 m i

/-- R363: the command that a block holds, with the function that issues it. -/
def cmdOf (fn : Nat) (bs : List Byte) : Cmd :=
  let w := field bs 0 4
  { fn := fn, part := bitsOf w 8 4, rsvd := decide (bitsOf w 12 20 ≠ 0) || decide (field bs 0x20 32 ≠ 0),
    arg0 := BitVec.ofNat 32 (field bs 4 4), arg1 := BitVec.ofNat 64 (field bs 8 8), arg2 := BitVec.ofNat 64 (field bs 0x10 8),
    arg3 := BitVec.ofNat 64 (field bs 0x18 8) }

/-- R363: OP. -/
def opOf (bs : List Byte) : Nat := field bs 0 1

/-- Table 20.2: the Parlour's commands. -/
def parlourOp (op : Nat) (c : Cmd) : Option Instr :=
  match op with
  | 0x01 => some (.setcore c)
  | 0x02 => some (.setmem c)
  | 0x03 => some (.setslices c)
  | 0x04 => some (.mapframes c)
  | 0x05 => some (.relframes c)
  | 0x06 => some (.sets2 c)
  | 0x07 => some (.setctx c)
  | 0x08 => some (.inval c)
  | 0x09 => some (.killctx c)
  | 0x0A => some (.setfilter c)
  | 0x0B => some (.setorr c)
  | 0x0C => some (.evict c)
  | 0x0D => some (.savearea c)
  | 0x0E => some (.fabwin c)
  | _ => none

/-- Tables 21.2 and 22.1: the commands of the configuration mailbox. -/
def configOp (op : Nat) (c : Cmd) : Option Instr :=
  match op with
  | 0x01 => some (.getreport c)
  | 0x02 => some (.getcert c)
  | 0x03 => some (.fwstage c)
  | 0x10 => some (.bindslot c)
  | 0x11 => some (.unbindslot c)
  | 0x12 => some (.bindfn c)
  | 0x13 => some (.setgrant c)
  | 0x20 => some (.polinstall c)
  | 0x21 => some (.polrevoke c)
  | 0x22 => some (.polread c)
  | 0x30 => some (.plpool c)
  | 0x31 => some (.meshdef c)
  | 0x32 => some (.plinstall c)
  | 0x33 => some (.plremove c)
  | 0x40 => some (.fwdcfg c)
  | 0x41 => some (.portres c)
  | 0x42 => some (.stationid c)
  | 0x43 => some (.linkup c)
  | 0x44 => some (.portquery c)
  | 0x50 => some (.telemetry c)
  | 0x51 => some (.errlog c)
  | 0x52 => some (.settherm c)
  | 0x53 => some (.measlog c)
  | 0x54 => some (.survey c)
  | _ => none

/-- R362: a command of the Parlour mailbox is complete with a status. -/
def State.mbDone (s : State) (fn code : Nat) : State := s.setFn fn fun f => { f with mbbusy := false, mbcode := code }

/-- R386: a command of the configuration mailbox is complete with a status. -/
def State.cfgDone (s : State) (fn code : Nat) : State := s.setFn fn fun f => { f with cfgbusy := false, cfgcode := code }

/-- R362: MBDOOR. A doorbell while a command executes does nothing. -/
def State.mbDoor (s : State) (fn : Nat) : State :=
  let f := s.fn fn
  let bs := blockBytes f.mbcmd
  if f.mbbusy then s
  else
    match parlourOp (opOf bs) (cmdOf fn bs) with
    | some i => { s.setFn fn fun f => { f with mbbusy := true } with h.parlourQ := s.h.parlourQ ++ [i] }
    | none => s.mbDone fn 2

/-- R386: CFGDOOR. -/
def State.cfgDoor (s : State) (fn : Nat) : State :=
  let f := s.fn fn
  let bs := blockBytes f.cfgcmd
  if f.cfgbusy then s
  else
    match configOp (opOf bs) (cmdOf fn bs) with
    | some i => { s.setFn fn fun f => { f with cfgbusy := true } with h.cfgQ := s.h.cfgQ ++ [i] }
    | none => s.cfgDone fn (if s.y.boot.minimal then 8 else 2)

/-! ## Writes -/

/-- The bytes that a write of a register leaves in a 64-bit register. -/
def mergeWrite (old : DWord) (off bytes : Nat) (val : DWord) : DWord :=
  if 8 ≤ bytes then val
  else
    let k := 8 * (off % 8)
    let m := (2 ^ (8 * bytes) - 1) * 2 ^ k
    BitVec.ofNat 64 (old.toNat - Nat.land old.toNat m + val.toNat % 2 ^ (8 * bytes) * 2 ^ k)

/-- Bytes written into a block. -/
def blockWrite (m : List (Nat × Byte)) (off bytes : Nat) (val : DWord) : List (Nat × Byte) :=
  (natLE bytes val.toNat).zipIdx.foldl (fun m b => mset m (off + b.2) b.1) m

/-- Table 19.7: the writable fields of an access-control entry. -/
def aclMask : DWord := 0xE00F03FF0000FFFF

/-- Table 20.1: FQCFG.LOG from 6 to 16, and FTMO from 1 to 1,000 (assumption 20). -/
def fqLog (val : DWord) : Nat := max 6 (min 16 (val.toNat % 32))
def ftmoMs (val : DWord) : Nat := max 1 (min 1000 (val.toNat % 1024))

/-- R5, R371, Table 20.1: FQRES. Its rsvd bits are ignored. -/
def State.fqres (s : State) (fn : Nat) (val : DWord) : State :=
  let token : Word := BitVec.ofNat 32 (val.toNat / 2 ^ 32)
  match s.resolv? fn token, val.toNat % 4 with
  | some x, 0 => s.reissue x
  | some x, 1 => s.settleEnd x 2 0
  | some x, 2 => if fn = 0 then s.settleEnd x 6 x.gpa else s
  | _, _ => s

/-- R352: VFCTL. -/
def State.setVfctl (s : State) (vf : Nat) (val : DWord) : State :=
  s.setFn vf fun f => { f with vfctl := s.barSize vf (val.toNat % 256) }

/-- R357: an access-control entry. -/
def State.setAcl (s : State) (off bytes : Nat) (val : DWord) : State :=
  let part := (off - 0x4000) / 0x200
  let n := (off - 0x4000) % 0x200 / 8
  s.setPart part fun p => { p with acl := mset p.acl n (mergeWrite (mget 0 p.acl n) off bytes val &&& aclMask) }

/-- R5: a write of the registers of the configuration mailbox. -/
def State.writeCfg (s : State) (fn off bytes : Nat) (val : DWord) : State :=
  if 0x1200 ≤ off && off < 0x1240 then
    (if (s.fn fn).cfgbusy then s else s.setFn fn fun f => { f with cfgcmd := blockWrite f.cfgcmd (off - 0x1200) bytes val })
  else if off = 0x1240 then (if val.toNat.testBit 0 then s.cfgDoor fn else s)
  else s

/-- R5, R362, R371, R384: a write of the fault-queue and Parlour mailbox registers. -/
def State.writeQueueReg (s : State) (fn off bytes : Nat) (val : DWord) : State :=
  if off = 0x1000 || off = 0x1004 then
    s.setFn fn fun f => { f with fqbase := mergeWrite f.fqbase off bytes val &&& 0xFFFFFFFFFFFFF000 }
  else if off = 0x1008 then s.setFn fn fun f => { f with fqlog := fqLog val }
  else if off = 0x1010 then s.setFn fn fun f => { f with head := BitVec.ofNat 32 val.toNat }
  else if off = 0x1018 then (if val.toNat % 2 ^ 32 = 0 then s.setFn fn fun f => { f with lost := 0 } else s)
  else if off = 0x1020 then (if bytes = 8 then s.fqres fn val else s)
  else if off = 0x1028 then s.setFn fn fun f => { f with ftmo := ftmoMs val }
  else if 0x1100 ≤ off && off < 0x1140 then
    (if (s.fn fn).mbbusy then s else s.setFn fn fun f => { f with mbcmd := blockWrite f.mbcmd (off - 0x1100) bytes val })
  else if off = 0x1140 then (if val.toNat.testBit 0 then s.mbDoor fn else s)
  else s.writeCfg fn off bytes val

/-- R5, Table 19.3: a write of a register of BAR0. Every other offset ignores it. -/
def State.writeReg0 (s : State) (fn off bytes : Nat) (val : DWord) : State :=
  if off = 0x0004 then s.setHifdrv fn (BitVec.ofNat 32 val.toNat)
  else if off = 0x0040 then s.setLease fn (BitVec.ofNat 32 val.toNat)
  else if off = 0x0048 || off = 0x004C then s.setApbase fn (mergeWrite (s.fn fn).apbase off bytes val)
  else if off = 0x0100 then s.notify fn bytes val
  else if off = 0x0110 then
    (if bytes = 8 && val.toNat.testBit 63 then s.setFn fn fun f => { f with lerr := BitVec.ofNat 64 (f.lerr.toNat % 2 ^ 63) } else s)
  else if 0x1000 ≤ off && off < 0x2000 then s.writeQueueReg fn off bytes val
  else if fn = 0 && 0x2008 ≤ off && off ≤ 0x2080 && off % 8 = 0 then s.setVfctl ((off - 0x2000) / 8) val
  else if fn = 0 && 0x4000 ≤ off && off < 0x6000 then s.setAcl off bytes val
  else s

/-! ## Reads -/

/-- R391: BOOTSTAT. -/
def State.bootstat (s : State) : Nat :=
  (if s.y.boot.minimal then 2 ^ 24 else 0) + s.y.boot.fails % 256 * 2 ^ 16 + s.y.boot.stage % 256 * 256 + s.y.boot.reason % 256

/-- MBSTAT and CFGSTAT. -/
def statWord (busy : Bool) (code : Nat) : Nat := (if busy then 2 ^ 31 else 0) + code % 256

/-- R355: LBUSY. -/
def State.lbusy (s : State) (fn : Nat) : Nat :=
  (List.range 64).foldl (fun n i => n + if (s.slot ⟨false, fn, i⟩).busy then 2 ^ i else 0) 0

/-- R359: RSTSTAT. -/
def State.rststat (s : State) : Nat :=
  (List.range 17).foldl (fun n v => n + if v ≠ 0 && (s.fn v).resetting.isSome then 2 ^ v else 0) 0

/-- Table 19.3, Table 20.1: the offset of the 64-bit register whose upper half lies at an offset. -/
def upperOf (off : Nat) : Option Nat :=
  if [0x004C, 0x010C, 0x0114, 0x1004].contains off || ((0x200C ≤ off && off ≤ 0x2084) || (0x4004 ≤ off && off < 0x6000)) && off % 8 = 4 then
    some (off - 4)
  else none

/-- R5, Tables 19.3, 20.1 and 21.1: what a read of a register gives: its 64-bit value, or 0 in the upper half of a 32-bit
register. Write-only registers and every other offset read 0. -/
def State.readAt (s : State) (fn off : Nat) : Nat :=
  let f := s.fn fn
  if off = 0x1248 then statWord f.cfgbusy f.cfgcode
  else if off = 0x1250 then (if fn = 0 then s.bootstat else 0)
  else if 0x1200 ≤ off && off < 0x1240 then field (blockBytes f.cfgcmd) (off - 0x1200) 8
  else if s.y.boot.minimal then 0
  else if off = 0x0000 then hifDev
  else if off = 0x0004 then f.hifdrv.toNat
  else if off = 0x0008 then f.hifsel.toNat
  else if off = 0x0040 then (match s.partOfFn fn with | some p => (s.part p).lease | none => 0)
  else if off = 0x0048 then f.apbase.toNat
  else if off = 0x0108 then s.lbusy fn
  else if off = 0x0110 then f.lerr.toNat
  else if off = 0x1000 then f.fqbase.toNat
  else if off = 0x1008 then f.fqlog
  else if off = 0x1010 then f.head.toNat
  else if off = 0x1014 then f.tail.toNat
  else if off = 0x1018 then f.lost.toNat
  else if off = 0x1028 then f.ftmo
  else if 0x1100 ≤ off && off < 0x1140 then field (blockBytes f.mbcmd) (off - 0x1100) 8
  else if off = 0x1148 then statWord f.mbbusy f.mbcode
  else if fn = 0 && off = 0x2100 then s.rststat
  else if fn = 0 && 0x2008 ≤ off && off ≤ 0x2080 && off % 8 = 0 then (s.fn ((off - 0x2000) / 8)).vfctl
  else if fn = 0 && 0x4000 ≤ off && off < 0x6000 && off % 8 = 0 then
    (mget 0 (s.part ((off - 0x4000) / 0x200)).acl ((off - 0x4000) % 0x200 / 8)).toNat
  else 0

/-- R5: a read of a register, or of the upper half of a 64-bit register. -/
def State.readReg (s : State) (fn off : Nat) : Nat :=
  match upperOf off with
  | some low => s.readAt fn low / 2 ^ 32
  | none => s.readAt fn off

/-! ## The events -/

/-- R360: HIFDRV_WRITE. -/
def execHifdrvWrite (fn : Nat) (val : Word) (s : State) : Host.Outcome State Fault Refusal :=
  .next (if s.fnUp fn then s.setHifdrv fn val else s)

/-- R352: APBASE_WRITE. -/
def execApbaseWrite (fn : Nat) (val : DWord) (s : State) : Host.Outcome State Fault Refusal :=
  .next (if s.fnUp fn then s.setApbase fn val else s)

/-- R87: LEASECFG_WRITE. -/
def execLeasecfgWrite (fn : Nat) (val : Word) (s : State) : Host.Outcome State Fault Refusal :=
  .next (if s.fnUp fn then s.setLease fn val else s)

/-- R352: VFCTL_WRITE. -/
def execVfctlWrite (vf : Nat) (val : DWord) (s : State) : Host.Outcome State Fault Refusal :=
  .next (if s.hostOpen && vf ≠ 0 && vf ≤ 16 then s.setVfctl vf val else s)

/-- R384: FQLOST_CLEAR. -/
def execFqlostClear (fn : Nat) (val : Word) (s : State) : Host.Outcome State Fault Refusal :=
  .next (if s.fnUp fn && val = 0 then s.setFn fn fun f => { f with lost := 0 } else s)

/-- R5, R362, R386, R388: REGISTER_WRITE. In minimal mode the PF has the configuration mailbox alone. -/
def execRegisterWrite (fn off bytes : Nat) (val : DWord) (s : State) : Host.Outcome State Fault Refusal :=
  .next (if s.fnUp fn then s.writeReg0 fn off bytes val
    else if s.y.boot.minimal && fn = 0 then s.writeCfg fn off bytes val
    else s)

/-- R352: VF_ENABLE_SET. -/
def execVfEnableSet (s : State) : Host.Outcome State Fault Refusal :=
  .next (if !s.hostOpen then s
    else (List.range 16).foldl (fun s n =>
      let v := n + 1
      if (s.fn v).enabled then s
      else s.setFn v fun f => { f with enabled := true, part := some (vfPart v), barLog := s.barSize v f.vfctl }) s)

end Sys2Proof.Machine
end

