-- ==== Sys2Proof/Machine/HostMem.lean ====
section
/-! DEFINITION. Host accesses to device memory through BAR4 and CXL.mem, and resets of virtual functions (R100, R117, R351, R352,
R359, R408). -/

namespace Sys2Proof.Machine

open Sys2Proof

/-! ## Host accesses -/

/-- An input at a later time. -/
def State.putInput (s : State) (at_ : DWord) (i : Instr) : State :=
  { s with clk.inputs := insertBy (fun (x : DWord × Instr) => x.1.toNat) (at_, i) s.clk.inputs }

/-- R351, R352: the device's answer to a host read; a refused one gives none. A write has no answer. -/
def State.hostAnswer (s : State) (fn : Nat) (a : HostAccess) (data : Option (List Byte)) : State :=
  if a.write then s else { s with h.replies := s.h.replies ++ [⟨fn, a.tag, data⟩] }

/-- R117, R351, R352, R408: a host access is refused, with a report of code 0x57 to a function. -/
def State.hostRefuse (s : State) (fn : Nat) (a : HostAccess) (tell part addr : Nat) : State :=
  (s.hostAnswer fn a none).report tell { cls := 2, code := 0x57, part := part, addr := addr }

/-- R352: the address that an access names: APBASE + o; a CXL.mem offset is the guest-physical address itself. -/
def State.hostAddr (s : State) (cxl : Bool) (fn : Nat) (a : HostAccess) : Nat :=
  if cxl then a.off else (s.fn fn).apbase.toNat + a.off

/-- R352: the physical address that an access reaches: the PF names it; a VF's is translated by the second stage of its
partition. -/
def State.hostTarget (s : State) (cxl : Bool) (fn : Nat) (a : HostAccess) : Option Nat :=
  let n := s.hostAddr cxl fn a
  if fn = 0 && !cxl then some n
  else
    match s.partOfFn fn with
    | none => none
    | some p => (match s.walk2 p n a.write with | .ok (.phys pa) => if (s.hostWin? p pa).isSome then none else some pa | _ => none)

/-- R352: does a frame belong to the partition of a function? -/
def State.hostOwns (s : State) (fn pa : Nat) : Bool :=
  let f := s.frame (pa / 65536)
  pa / 65536 < Config.frames && f.state = 1 && s.fnOf f.owner = fn

/-- Table 4.3: may the principal of a function read a frame? -/
def State.hostMayRead (s : State) (fn : Nat) (l : Label) : Bool := s.egressOk fn l

/-- R100: the entry of a host access that pinned lines refuse. -/
def State.hostWait? (s : State) (fn : Nat) (a : HostAccess) : Option (DWord × Nat) :=
  (s.h.refused.find? fun x => x.1 = fn && x.2.1 = a).map fun x => x.2.2

def State.dropHostWait (s : State) (fn : Nat) (a : HostAccess) : State :=
  { s with h.refused := s.h.refused.filter fun (x : Nat × HostAccess × DWord × Nat) => !(x.1 = fn && x.2.1 = a) }

/-- R100: a host access meets a pinned line: it is tried again. -/
def State.hostHold (s : State) (fn : Nat) (a : HostAccess) (again : Instr) : State :=
  let (first, n) := match s.hostWait? fn a with
    | some (t, n) => (t, min 1024 (2 * n))
    | none => (s.clk.tclk, 32)
  { s.dropHostWait fn a with h.refused := (s.dropHostWait fn a).h.refused ++ [(fn, a, first, n)] }.putInput (tryAt first s.clk.tclk n) again

/-- R100: has a host access waited for 1 ms? -/
def State.hostOver (s : State) (fn : Nat) (a : HostAccess) : Bool := (s.hostWait? fn a).any fun x => overdue x.1 s.clk.tclk

/-- R117, R351, R412: an access that reaches a frame of the function's partition. -/
def State.hostServe (s : State) (cxl : Bool) (fn : Nat) (a : HostAccess) (pa : Nat) (again : Instr) : State :=
  let f := s.frame (pa / 65536)
  let addr := s.hostAddr cxl fn a
  let ps := pieces pa a.len (a.len + 1)
  let no := (s.dropHostWait fn a).hostRefuse fn a (s.fnOf f.owner) f.owner addr
  if s.hostOver fn a then no
  else if ps.any fun x => !s.servable none 4 (Loc.mem x.1).line then s.hostHold fn a again
  else if a.write then
    if !Label.sub (s.fnLbl fn) f.lbl || s.roShard (.mem pa) then no
    else if s.eccPartial (.mem pa) a.len then no.rowError (.mem pa) none
    else
      (ps.foldl (fun (x : State × List Byte) y => (x.1.cohWrite (.mem y.1) (x.2.take y.2), x.2.drop y.2)) (s.dropHostWait fn a, a.data)).1
  else if !s.hostMayRead fn f.lbl then no
  else if s.eccBad (.mem pa) a.len then no.rowError (.mem pa) none
  else (s.dropHostWait fn a).hostAnswer fn a (some (creads s.m.mem pa a.len))

/-- R351, R352: a host access. -/
def State.hostAccess (s : State) (cxl : Bool) (fn : Nat) (a : HostAccess) (again : Instr) : State :=
  if !s.fnUp fn then s.hostAnswer fn a none
  else if !cxl && 2 ^ s.barLogOf fn < a.off + a.len then s.hostAnswer fn a none
  else
    match s.hostTarget cxl fn a with
    | none => s.hostRefuse fn a fn ((s.partOfFn fn).getD 0) (s.hostAddr cxl fn a)
    | some pa =>
      if s.hostOwns fn pa && s.hostOwns fn (pa + (a.len - 1)) && pa / 65536 = (pa + (a.len - 1)) / 65536 then s.hostServe cxl fn a pa again
      else s.hostRefuse fn a fn ((s.partOfFn fn).getD 0) (s.hostAddr cxl fn a)

/-- R352: BAR4_ACCESS. -/
def execBar4Access (fn : Nat) (a : HostAccess) (s : State) : Host.Outcome State Fault Refusal :=
  .next (s.hostAccess false fn a (.bar4Access fn a))

/-- R351: CXL_MEM_ACCESS. -/
def execCxlMemAccess (fn : Nat) (a : HostAccess) (s : State) : Host.Outcome State Fault Refusal :=
  .next (s.hostAccess true fn a (.cxlMemAccess fn a))

/-! ## Resets of virtual functions -/

/-- R359: the stations that a partition's access-control table and fabric windows name. -/
def State.namedStations (s : State) (part : Nat) : List Nat :=
  let p := s.part part
  let meshes := dedup (p.meshes.flatMap fun m => m.2.stations)
  let acl := p.acl.filterMap fun e => if aclValid e.2.toNat then some (aclStation e.2.toNat) else none
  let wins := p.wins.flatMap fun w => if !w.2.valid then [] else if w.2.sstation = 0x3FF then meshes else [w.2.sstation]
  (dedup (acl ++ wins)).filter fun n => n ≠ s.y.station

/-- The frames that a partition owns. -/
def State.framesOf (s : State) (part : Nat) : List Nat :=
  (s.m.frames.filter fun kv => kv.2.state = 1 && kv.2.owner = part).map fun kv => kv.1

/-- R359: everything of a partition's contexts leaves the machine: teams, records, images, runs, requests and conversions. -/
def State.dropContexts (s : State) (part : Nat) : State :=
  let ts := (s.sch.teams.filter fun kv => kv.2.part = part).map fun kv => kv.1
  let s := (ts.foldl (fun s t => s.terminate t) s).tlbDrop part fun _ => true
  { s with
    gr.queues := s.gr.queues.filter fun (kv : QKey × Queue) => kv.1.part ≠ part
    gr.near := s.gr.near.filter fun (kv : QKey × Pub) => kv.1.part ≠ part
    gr.far := s.gr.far.filter fun (kv : QKey × Pub) => kv.1.part ≠ part
    gr.early := s.gr.early.filter fun (kv : QKey × Pub) => kv.1.part ≠ part
    gr.convs := s.gr.convs.filter fun (c : Conv) => c.part ≠ part
    gr.preqs := s.gr.preqs.filter fun (x : Nat × Nat × PReq) => x.1 ≠ part
    gr.renqs := s.gr.renqs.filter fun (x : OutRenq) => x.part ≠ part
    sch.runs := s.sch.runs.filter fun (kv : Nat × Run) => kv.2.part ≠ part
    y.reqs := s.y.reqs.filter fun (r : OutReq) => r.part ≠ part || r.kind = 1 || r.kind = 4
    y.gangs := s.y.gangs.filter fun (g : Gang) => g.part ≠ part
    m.reqs := s.m.reqs.filter fun (r : Req) => r.part ≠ part
    h.slots := s.h.slots.filter fun (kv : SlotKey × LSlot) =>
      !((kv.1.peer && kv.1.owner = part) || (!kv.1.peer && s.partOfFn kv.1.owner = some part)) }

/-- R359: a partition's controls after the reset of its VF: grants, channels and slices stay (Table 22.7). -/
def Part.resetKeep (p : Part) : Part :=
  { p with ctxs := [], saveUsed := [], plSize := 0, poolSize := 0, poolFrames := [], places := [], mean := [], lease := 500 }

/-- R359: a function's registers after an FLR; VFCTL and the bindings stay. -/
def Fn.afterReset (f : Fn) (scrub : Nat) : Fn :=
  { vfctl := f.vfctl, barLog := f.barLog, enabled := f.enabled, part := f.part, slot := f.slot, resetting := some scrub }

/-- R359: what the reset of a function does to a partition of it; the registers of the function are reset with the handle of the scrub. -/
def State.resetPart (s : State) (fn part : Nat) : State :=
  let tell := s.namedStations part
  let frames := s.framesOf part
  let ro := s.m.readonly.filter fun r => !frames.contains (r.1 / 65536)
  let s := s.dropContexts part
  let s := (s.setPart part Part.resetKeep).startScrub frames none false
  let id := s.clk.fresh - 1
  let s := { s with
    m.readonly := ro
    h.fns := mset s.h.fns fn ((s.fn fn).afterReset id) }
  tell.foldl (fun s st => s.sendMsg 0x40 part part st (natLE 8 part)) s

/-- R359: the reset of a VF. -/
def State.resetVf (s : State) (vf : Nat) : State :=
  match (s.fn vf).part with
  | none => s
  | some part => s.resetPart vf part

/-- R359: VF Enable is cleared. -/
def State.clearVfs (s : State) : State :=
  (List.range 16).foldl (fun s n =>
    let v := n + 1
    if (s.fn v).enabled then (s.resetVf v).setFn v fun f => { f with enabled := false, part := none } else s) s

/-- R350: the FLR of the PF, which Table 19.1 names and no rule describes: VF Enable is cleared, each partition without a VF is reset as a
VF's is, and the PF's registers stand as after reset (assumption 69). -/
def State.resetPf (s : State) : State :=
  let ps := sortBy id ((s.gr.parts.map (·.1)).filter fun p => s.fnOf p = 0)
  let s := ps.foldl (fun s p => s.resetPart 0 p) s.clearVfs
  { s with h.fns := mset s.h.fns 0 { (s.fn 0).afterReset 0 with resetting := none } }

/-- R350, R359: VF_FLR, and the FLR of the PF as function 0. -/
def execVfFlr (vf : Nat) (s : State) : Host.Outcome State Fault Refusal := .next (if vf = 0 then s.resetPf else s.resetVf vf)

/-- R359: VF_ENABLE_CLEAR. -/
def execVfEnableClear (s : State) : Host.Outcome State Fault Refusal := .next s.clearVfs

end Sys2Proof.Machine
end

