-- ==== Sys2Proof/Machine/Parlour.lean ====
section
/-! DEFINITION. The commands of the Parlour mailbox (R361 to R383, R421). -/

namespace Sys2Proof.Machine

open Sys2Proof

/-! ## Running a command -/

/-- R362, R363: a command of the Parlour mailbox: malformed, not permitted, or run. `f` answers the final status, or none for a
command that is not complete yet. -/
def State.parlour (s : State) (c : Cmd) (pf : Bool) (f : State → Option Nat × State) : Host.Outcome State Fault Refusal :=
  .next (
    if c.rsvd then s.mbDone c.fn 2
    else if c.fn ≠ 0 && (pf || s.partOfFn c.fn ≠ some c.part) then s.mbDone c.fn 3
    else
      match f s with
      | (some code, s) => s.mbDone c.fn code
      | (none, s) => s)

/-- Run the first refusal of a list of checks, or the effect. -/
def checked (checks : List (Bool × Nat)) (s : State) (eff : State → State) : Option Nat × State :=
  match checks.find? fun x => x.1 with
  | some (_, code) => (some code, s)
  | none => (some 0, eff s)

/-- Host memory that a command names; none where the address runs past 2⁶⁴. -/
def State.hostBytes (s : State) (a : DWord) (n : Nat) : Option (List Byte) :=
  if a.toNat + n ≤ 2 ^ 64 then some (creads s.m.host a.toNat n) else none

/-- Has no other partition something? -/
def State.othersHave (s : State) (part : Nat) (f : Part → Bool) : Bool := s.gr.parts.any fun kv => kv.1 ≠ part && f kv.2

/-! ## Grants -/

/-- R364: the sum over all partitions of a CORELIM field on a core, with a new value for one partition. -/
def State.limSum (s : State) (part core : Nat) (new : Nat) (field : Nat → Nat) : Nat :=
  s.gr.parts.foldl (fun n kv => if kv.1 = part then n else n + field (mget 0 kv.2.corelim core).toNat) (field new)

/-- R364: SETCORE. -/
def State.setCore (s : State) (c : Cmd) : Option Nat × State :=
  let core := c.arg0.toNat
  let v := c.arg1.toNat
  let sum := fun (f : Nat → Nat) => s.limSum c.part core v f
  let wide := 32 < limTslot v || 128 < limSlotu v || 32 < limPool v || 32 < limPlates v || 64 < limOsb v
  checked [(decide (Config.cores ≤ core) || decide (2 ^ 33 ≤ v) || wide, 2),
      (s.y.retired.contains (coreUnit core) || decide (32 < sum limTslot) || decide (128 < sum limSlotu) || decide (32 < sum limPool) ||
        decide (32 < sum limPlates) || decide (64 < sum limOsb), 4)] s fun s =>
    ((s.setPart c.part fun p => { p with corelim := mset p.corelim core c.arg1 }).trimL1 c.part core).serveOsb core 1024

/-- R365: the channel of a frame: a stack 0 to 11, or 12 and more for a second-tier channel (assumption 21). -/
def chanOfFrame (n : Nat) : Nat :=
  if n < Config.firstTierFrames then n / 1048576 else 12 + (n - Config.firstTierFrames) / 2796203

/-- R365: does a partition own the channel of a frame? -/
def Part.ownsChan (p : Part) (n : Nat) : Bool :=
  let k := chanOfFrame n
  if k < 12 then p.hbm.testBit k else p.chans.testBit (k - 12)

/-- R365, R421: SETMEM. -/
def State.setMem (s : State) (c : Cmd) : Option Nat × State :=
  let a := c.arg0.toNat
  let hbm := bitsOf a 0 12
  let chans := bitsOf a 16 12
  let new : Part := { s.part c.part with hbm := hbm, chans := chans }
  checked [(decide (bitsOf a 12 4 ≠ 0) || decide (bitsOf a 28 4 ≠ 0), 2),
      (s.othersHave c.part fun p => Nat.land p.hbm hbm ≠ 0 || Nat.land p.chans chans ≠ 0, 4),
      ((s.framesOf c.part).any fun n => !new.ownsChan n, 5)] s fun s =>
    s.setPart c.part fun p => { p with hbm := hbm, chans := chans }

/-- R365: SETSLICES. -/
def State.setSlices (s : State) (c : Cmd) : Option Nat × State :=
  match s.hostBytes c.arg1 64 with
  | none => (some 6, s)
  | some bs =>
    let map := leNat bs
    let ss := (List.range Config.slices).filter fun i => map.testBit i
    checked [(s.othersHave c.part (fun p => p.slices.any fun x => ss.contains x) ||
          (ss.any fun x => s.y.retired.contains (BitVec.ofNat 32 (0x20000000 + x))), 4),
        (s.sch.teams.any fun kv => kv.2.part = c.part, 5)] s fun s =>
      (s.l2Drop fun a => (s.frame (a / 65536)).owner = c.part).setPart c.part fun p => { p with slices := ss }

/-! ## Frames -/

/-- Is a frame one of a placement pool? -/
def State.inPool (s : State) (n : Nat) : Bool := s.gr.parts.any fun kv => kv.2.poolFrames.contains n

/-- R367: frames from one on are mapped, until one that is not Free. -/
def State.mapFrom (s : State) (part n : Nat) (lbl : Label) : Nat → Nat × State
  | 0 => (0, s)
  | k + 1 =>
    if (s.frame n).state ≠ 0 || s.inPool n then (5, s)
    else (s.setFrame n ⟨1, part, lbl⟩).mapFrom part (n + 1) lbl k

/-- R365, R367: MAPFRAMES. -/
def State.mapFrames (s : State) (c : Cmd) : Option Nat × State :=
  let n := c.arg0.toNat
  let first := c.arg1.toNat
  let lbl : Label := BitVec.ofNat 16 c.arg2.toNat
  let p := s.part c.part
  if 2 ^ 16 ≤ c.arg2.toNat then (some 2, s)
  else if Config.frames < first + n then (some 6, s)
  else if !Label.sub lbl p.grant || !(List.range n).all fun i => p.ownsChan (first + i) then (some 3, s)
  else let (code, s) := s.mapFrom c.part first lbl n; (some code, s)

/-- R368, R412: RELFRAMES. It is complete when its frames are Free. -/
def State.relFrames (s : State) (c : Cmd) : Option Nat × State :=
  let first := c.arg1.toNat
  let fs := (List.range c.arg0.toNat).map (· + first)
  if Config.frames < first + c.arg0.toNat then (some 6, s)
  else if fs.any fun n => (s.frame n).state ≠ 1 || (s.frame n).owner ≠ c.part then (some 5, s)
  else
    let stuck := fs.filter fun n => s.m.unspared.contains n
    let s := stuck.foldl (fun s n => s.setFrame n { s.frame n with state := 2 }) s
    (none, s.startScrub (fs.filter fun n => !stuck.contains n) (some c.fn) (!stuck.isEmpty))

/-- R359, R368: FRAME_SCRUB_COMPLETE. -/
def execFrameScrubComplete (scrub : Nat) (s : State) : Host.Outcome State Fault Refusal :=
  .next (match s.m.scrubs.find? fun x => x.id = scrub with
    | none => s
    | some x =>
      if DWord.past x.at_ s.clk.tclk then s
      else
        let s := s.endScrub x
        let s := { s with h.fns := s.h.fns.map fun (kv : Nat × Fn) =>
          if kv.2.resetting = some scrub then (kv.1, { kv.2 with resetting := none }) else kv }
        match x.fn with
        | some fn => s.mbDone fn (if x.bad then 6 else 0)
        | none => s)

/-! ## Translation -/

/-- R370: SETS2. -/
def State.setS2 (s : State) (c : Cmd) : Option Nat × State :=
  let a := c.arg1.toNat
  checked [(decide (a % 2 ^ 15 ≠ 0) || decide (Config.frames * 65536 ≤ a), 6)] s fun s =>
    s.setPart c.part fun p => { p with s2root := some a }

/-- R361: SETCTX. -/
def State.setCtx (s : State) (c : Cmd) : Option Nat × State :=
  let n := c.arg0.toNat
  let a := c.arg1.toNat
  checked [(decide (16 ≤ n), 2), (decide (a % 2 ^ 15 ≠ 0) || decide (2 ^ 54 ≤ a), 6)] s fun s =>
    s.setPart c.part fun p => { p with
      ctxs := mupd { root := none, code := [], stages := [], ttabs := [] } p.ctxs n fun x => { x with root := if a = 0 then none else some a } }

/-- R373: does an entry of a TLB lie in the range of an INVAL: of a context's virtual addresses, or of guest-physical addresses? -/
def TlbEntry.meets (e : TlbEntry) (second : Bool) (ctx a n : Nat) : Bool :=
  let at_ := if second then e.gpa else e.va
  (second || e.ctx = ctx) && (n = 0 || (at_ < a + n && a < at_ + 2 ^ e.log))

/-- R373: INVAL. The TLBs drop their entries for the range; the command is complete when the accesses under way have performed. -/
def State.invalidate (s : State) (c : Cmd) : Option Nat × State :=
  let a := c.arg0.toNat
  if bitsOf a 4 4 ≠ 0 || bitsOf a 9 23 ≠ 0 then (some 2, s)
  else
    let s := s.tlbDrop c.part fun e => e.meets (a.testBit 8) (bitsOf a 0 4) c.arg1.toNat c.arg2.toNat
    (none, { s with h.pwait := some (.inval c.fn c.part s.clk.fresh s.y.tag) })

/-- R374: FABWIN's descriptor. -/
def winOf (bs : List Byte) : FabWin :=
  let w := field bs 0x18 8
  { ifabase := field bs 0 8, size := field bs 8 8, gpabase := field bs 0x10 8, valid := w.testBit 63, rd := w.testBit 62,
    wr := w.testBit 61, tpart := bitsOf w 56 4, spart := bitsOf w 52 4, sstation := bitsOf w 32 10, arc := field bs 0x20 8 }

/-- R374: is a window descriptor refused for a partition? -/
def winBad (bs : List Byte) (part : Nat) : Bool :=
  let x := winOf bs
  let w := field bs 0x18 8
  2 ^ 50 ≤ x.ifabase || 2 ^ 50 ≤ x.size || 2 ^ 57 ≤ x.gpabase || 2 ^ 57 ≤ x.arc || field bs 0x28 8 ≠ 0 ||
    bitsOf w 60 1 ≠ 0 || bitsOf w 42 10 ≠ 0 || bitsOf w 0 32 ≠ 0 ||
    x.ifabase % 65536 ≠ 0 || x.size % 65536 ≠ 0 || x.gpabase % 65536 ≠ 0 || x.arc % 16 ≠ 0 ||
    Config.pslotBase < x.ifabase + x.size || x.tpart ≠ part

/-- R374: FABWIN. -/
def State.setWin (s : State) (c : Cmd) : Option Nat × State :=
  let n := c.arg0.toNat
  match s.hostBytes c.arg1 48 with
  | none => (some 6, s)
  | some bs =>
    checked [(decide (64 ≤ n) || winBad bs c.part, 2)] s fun s =>
      s.setPart c.part fun p => { p with wins := mset p.wins n (winOf bs) }

/-! ## Ending a context -/

/-- The teams of a context. -/
def State.teamsOf (s : State) (part ctx : Nat) : List (Nat × Team) :=
  s.sch.teams.filter fun kv => kv.2.part = part && kv.2.ctx = ctx

/-- R375: the conversions that paths of a context have asked for. -/
def State.convsOf (s : State) (part ctx : Nat) : List (Nat × Nat) :=
  let pids := (s.teamsOf part ctx).flatMap fun kv => (s.pathsOf kv.1).map fun p => p.id
  let mine := fun (r : PReq) => r.pids.any fun p => pids.contains p
  (s.gr.convs.filter fun c => c.part = part && (c.reqs.any mine || (s.waitingReqs part c.entry).any fun r => r.demand = c.demand && mine r)).map
    fun c => (c.part, c.entry)

/-- R71, R375: the completion reports of a context's runs, each of which reports termination. -/
def State.endRuns (s : State) (part ctx : Nat) : State :=
  (s.sch.runs.filter fun kv => kv.2.part = part && kv.2.ctx = ctx && !kv.2.reported).foldl
    (fun s kv => s.reportRun kv.1 { kv.2 with terminated := true }) s

/-- R375: the context's graph and what stands in its queues go; launch packets that wait for room lose their slots silently. -/
def State.dropGraph (s : State) (part ctx : Nat) : State :=
  let qs := s.gr.queues.filter fun kv => kv.1.part = part && kv.1.ctx = ctx
  let s := qs.foldl (fun s kv => kv.2.waiting.foldl (fun s w =>
    match w with | .launch lr _ (some x) => s.freeSlot x lr.seq | _ => s) s) s
  { s with
    gr.queues := s.gr.queues.filter fun (kv : QKey × Queue) => !(kv.1.part = part && kv.1.ctx = ctx)
    gr.near := s.gr.near.filter fun (kv : QKey × Pub) => !(kv.1.part = part && kv.1.ctx = ctx)
    gr.far := s.gr.far.filter fun (kv : QKey × Pub) => !(kv.1.part = part && kv.1.ctx = ctx)
    gr.early := s.gr.early.filter fun (kv : QKey × Pub) => !(kv.1.part = part && kv.1.ctx = ctx)
    gr.renqs := s.gr.renqs.filter fun (x : OutRenq) => !(x.part = part && x.ctx = ctx) }.setPart part fun p =>
      { p with ctxs := (p.ctxs.map fun (kv : Nat × Context) =>
          if kv.1 = ctx then (kv.1, { kv.2 with code := [], stages := [], ttabs := [] }) else kv) }

/-- R375: KILLCTX. -/
def State.killCtx (s : State) (c : Cmd) : Option Nat × State :=
  let ctx := c.arg0.toNat
  checked [(decide (16 ≤ ctx), 2)] s fun s =>
    let convs := s.convsOf c.part ctx
    let ts := s.teamsOf c.part ctx
    let s := s.dropGraph c.part ctx
    let s := ts.foldl (fun s kv => if kv.2.status = .saved || kv.2.status = .relaunch then s.terminate kv.1 else s) s
    let s := ts.foldl (fun s kv => s.teamFault kv.1 fcKilled 0 0 0 0) s
    let s := convs.foldl (fun s x => (s.convBreak x.1 x.2 4).homeNext x.1 x.2) s
    s.endRuns c.part ctx

/-! ## Filter, Orrery and save area -/

/-- R376: SETFILTER. -/
def State.setFilter (s : State) (c : Cmd) : Option Nat × State :=
  let n := c.arg0.toNat
  let e := c.arg1.toNat
  checked [(decide (256 ≤ n) || decide (bitsOf e 60 3 ≠ 0) || decide (bitsOf e 16 16 ≠ 0) || (filtValid e && decide (filtCredit e = 0)), 2),
      (!Label.sub (filtMax e) (s.part (filtDpart e)).grant, 3)] s fun s =>
    { s with gr.boxes := mset s.gr.boxes n c.arg1 }

/-- R378: SETORR. -/
def State.setOrr (s : State) (c : Cmd) : Option Nat × State :=
  let v := c.arg1.toNat
  let dl := bitsOf v 0 20
  checked [(decide (2 ^ 23 ≤ v) || decide (dl < 1000) || decide (1000000 < dl), 2)] s fun s =>
    s.setPart c.part fun p => { p with meth := bitsOf v 20 3, dl := dl }

/-- R379: the teams of a partition that a core, or any core, holds. -/
def State.onCore (s : State) (part : Nat) (core : Option Nat) : List (Nat × Team) :=
  s.sch.teams.filter fun kv =>
    kv.2.part = part && kv.2.resident && (match core with | some n => kv.2.core = n || kv.2.core2 = some n | none => true)

/-- R379: EVICT. -/
def State.evict (s : State) (c : Cmd) : Option Nat × State :=
  let n := c.arg0.toNat
  if Config.cores ≤ n && n ≠ 0xFFFF then (some 2, s)
  else
    let core := if n = 0xFFFF then none else some n
    let s := (s.onCore c.part core).foldl (fun s kv => s.preempt kv.1 true) s
    (none, { s with h.pwait := some (.evict c.fn c.part core) })

/-- R383: do the frames of a span of guest-physical addresses carry the partition's slot grant mask? -/
def State.areaOk (s : State) (part gpa n : Nat) : Bool :=
  (List.range ((n + 65535) / 65536)).all fun i =>
    match s.gpaLoc part (gpa + 65536 * i) with
    | some (.mem a) => (s.frame (a / 65536)).lbl = (s.part part).grant
    | _ => false

/-- R383: SAVEAREA. -/
def State.setSaveArea (s : State) (c : Cmd) : Option Nat × State :=
  let a := c.arg1.toNat
  let n := c.arg2.toNat
  checked [(decide (a % 65536 ≠ 0) || decide (2 ^ 57 < a + n) || !s.areaOk c.part a n, 6),
      (!(s.part c.part).saveUsed.isEmpty, 5)] s fun s =>
    s.setPart c.part fun p => { p with saveBase := a, saveSize := n }

/-! ## Commands under way -/

/-- R362: does a command that has begun hold back the next? -/
def State.parlourHeld (s : State) : Bool := s.h.pwait.isSome || s.m.scrubs.any fun x => x.fn.isSome

/-- R373, R379: the function whose command under way is complete now. -/
def State.parlourEnds (s : State) : Option Nat :=
  match s.h.pwait with
  | some (.evict fn part core) => if (s.onCore part core).isEmpty then some fn else none
  | some (.inval fn part req tag) =>
    if (s.m.reqs.any fun r => r.part = part && r.id < req && r.accs.any fun a => !a.done) ||
        (s.y.reqs.any fun r => r.part = part && r.tag < tag) then none
    else some fn
  | none => none

/-- A command that was under way is complete. -/
def State.endParlour (s : State) (fn : Nat) : State := { s with h.pwait := none }.mbDone fn 0

/-! ## The commands -/

/-- R364: SETCORE. -/
def execSetcore (c : Cmd) (s : State) : Host.Outcome State Fault Refusal := s.parlour c true fun s => s.setCore c

/-- R365, R421: SETMEM. -/
def execSetmem (c : Cmd) (s : State) : Host.Outcome State Fault Refusal := s.parlour c true fun s => s.setMem c

/-- R365: SETSLICES. -/
def execSetslices (c : Cmd) (s : State) : Host.Outcome State Fault Refusal := s.parlour c true fun s => s.setSlices c

/-- R367: MAPFRAMES. -/
def execMapframes (c : Cmd) (s : State) : Host.Outcome State Fault Refusal := s.parlour c true fun s => s.mapFrames c

/-- R368: RELFRAMES. -/
def execRelframes (c : Cmd) (s : State) : Host.Outcome State Fault Refusal := s.parlour c true fun s => s.relFrames c

/-- R370: SETS2. -/
def execSets2 (c : Cmd) (s : State) : Host.Outcome State Fault Refusal := s.parlour c true fun s => s.setS2 c

/-- R361: SETCTX. -/
def execSetctx (c : Cmd) (s : State) : Host.Outcome State Fault Refusal := s.parlour c false fun s => s.setCtx c

/-- R373: INVAL. -/
def execInval (c : Cmd) (s : State) : Host.Outcome State Fault Refusal := s.parlour c false fun s => s.invalidate c

/-- R375: KILLCTX. -/
def execKillctx (c : Cmd) (s : State) : Host.Outcome State Fault Refusal := s.parlour c false fun s => s.killCtx c

/-- R376: SETFILTER. -/
def execSetfilter (c : Cmd) (s : State) : Host.Outcome State Fault Refusal := s.parlour c true fun s => s.setFilter c

/-- R378: SETORR. -/
def execSetorr (c : Cmd) (s : State) : Host.Outcome State Fault Refusal := s.parlour c false fun s => s.setOrr c

/-- R379: EVICT. -/
def execEvict (c : Cmd) (s : State) : Host.Outcome State Fault Refusal := s.parlour c true fun s => s.evict c

/-- R383: SAVEAREA. -/
def execSavearea (c : Cmd) (s : State) : Host.Outcome State Fault Refusal := s.parlour c true fun s => s.setSaveArea c

/-- R374: FABWIN. -/
def execFabwin (c : Cmd) (s : State) : Host.Outcome State Fault Refusal := s.parlour c true fun s => s.setWin c

end Sys2Proof.Machine
end

