-- ==== Sys2Proof/Machine/Sep.lean ====
section
/-! DEFINITION. The SEP's commands of the configuration mailbox: attestation, firmware, slots, bindings, grants and release policies
(R119, R386 to R394, R424). -/

namespace Sys2Proof.Machine

open Sys2Proof

/-! ## Running a command -/

/-- R388: the commands that minimal mode serves: GETREPORT, GETCERT and FWSTAGE. -/
def State.config (s : State) (c : Cmd) (pf minimal : Bool) (f : State → Option Nat × State) : Host.Outcome State Fault Refusal :=
  .next (
    if s.y.boot.minimal && !minimal then s.cfgDone c.fn 8
    else if c.rsvd then s.cfgDone c.fn 2
    else if c.fn ≠ 0 && (pf || s.partOfFn c.fn ≠ some c.part) then s.cfgDone c.fn 3
    else
      match f s with
      | (some code, s) => s.cfgDone c.fn code
      | (none, s) => s)

/-- Host memory that a command writes; none where the address runs past 2⁶⁴. -/
def State.hostPut (s : State) (a : DWord) (bs : List Byte) : Option State :=
  if a.toNat + bs.length ≤ 2 ^ 64 then some { s with m.host := csets s.m.host a.toNat bs } else none

/-- A command that writes bytes and ends with status 0, or 6 for a bad address. -/
def State.hostReport (s : State) (a : DWord) (bs : List Byte) : Option Nat × State :=
  match s.hostPut a bs with
  | some s => (some 0, s)
  | none => (some 6, s)

/-! ## Measurement -/

/-- R390: an extension of a measurement register. -/
def State.extend (s : State) (i : Nat) (d : List Byte) : State :=
  { s with y.meas := setAt s.y.meas i fun m => sha384 (m ++ d) }

/-- R424: an extension of MEAS6 or MEAS7, with its entry of the log, which holds up to 4,096. -/
def State.extendLog (s : State) (e : MeasEntry) : State :=
  let s := s.extend e.reg e.digest
  if s.y.measLog.length < 4096 then { s with y.measLog := s.y.measLog ++ [e] } else s

/-- R423, Table 21.5: FWVER: in minimal mode the SEP ROM's version alone. -/
def State.versions (s : State) : List Word :=
  if s.y.boot.minimal then [Config.romVersion, 0, 0, 0, 0, 0] else s.y.fwver

/-- Table 21.5: bytes 0x000 to 0x1EF of a report. -/
def State.reportHead (s : State) (nonce : List Byte) : List Byte :=
  natLE 4 0x41545A42 ++ natLE 4 0x10000 ++ natLE 4 592 ++ natLE 4 s.bootstat ++ natLE 8 s.y.station ++ natLE 8 s.clk.tclk.toNat ++
    nonce.take 48 ++ List.replicate (48 - nonce.length) 0 ++ s.y.meas.flatMap (fun m => m) ++
    s.versions.flatMap (fun v => natLE 4 v.toNat) ++ List.replicate 8 0

/-- R390: a signed report. -/
def State.attest (s : State) (nonce : List Byte) : List Byte :=
  let head := s.reportHead nonce
  let sig := Config.attestSignature (sha384 head)
  head ++ (List.range 96).map fun i => sig.getD i 0

/-- R390: GETREPORT. -/
def State.getReport (s : State) (c : Cmd) : Option Nat × State :=
  match s.hostBytes c.arg1 48 with
  | none => (some 6, s)
  | some nonce => s.hostReport c.arg2 (s.attest nonce)

/-- Table 21.2: GETCERT. -/
def State.getCert (s : State) (c : Cmd) : Option Nat × State :=
  if c.arg3.toNat < Config.certificateChain.length then (some 4, s) else s.hostReport c.arg2 Config.certificateChain

/-- R389: FWSTAGE. -/
def State.fwStage (s : State) (c : Cmd) : Option Nat × State :=
  match s.hostBytes c.arg1 c.arg2.toNat with
  | none => (some 6, s)
  | some img =>
    match Config.imageKind img with
    | none => (some 2, s)
    | some k =>
      let d := sha384 (Config.imageBody img)
      let sig := Config.imageSig img
      if 6 ≤ k then (some 2, s)
      else if !ecdsaOk Config.rootKey d sig.1 sig.2 then (some 7, s)
      else
        (some 0, { s with
          y.images := mset s.y.images k (Config.imageVersion img, d)
          y.boot.fails := 0 })

/-- R424: MEASLOG: a header and as many whole entries as fit. -/
def State.measBytes (s : State) (n : Nat) : List Byte :=
  let es := s.y.measLog.take ((n - 48) / 56)
  natLE 8 es.length ++ natLE 8 s.clk.tclk.toNat ++ List.replicate 32 0 ++ es.flatMap fun e =>
    natLE 4 (e.reg + e.slot % 16 * 256 + e.policy % 65536 * 65536) ++ natLE 4 0 ++ e.digest

/-- R424: MEASLOG. -/
def State.measLog (s : State) (c : Cmd) : Option Nat × State :=
  if c.arg2.toNat < 48 then (some 4, s) else s.hostReport c.arg1 (s.measBytes c.arg2.toNat)

/-! ## Slots -/

/-- Is a slot bound? -/
def State.bound (s : State) (slot : Nat) : Bool := (mget? s.y.slots slot).isSome

/-- Is every slot of a label bound? -/
def State.allBound (s : State) (l : Label) : Bool := (List.range 16).all fun i => !l.getLsbD i || s.bound i

/-- R391: BINDSLOT. -/
def State.bindSlot (s : State) (c : Cmd) : Option Nat × State :=
  let k := c.arg0.toNat
  match s.hostBytes c.arg1 97 with
  | none => (some 6, s)
  | some bs =>
    match keyOf bs with
    | none => (some 2, s)
    | some q =>
      checked [(decide (16 ≤ k), 2), (s.bound k || s.y.slots.any fun kv => kv.2 = q, 5)] s fun s =>
        { s with y.slots := mset s.y.slots k q }.extendLog ⟨6, k, 0, sha384 bs⟩

/-- R391: is a slot named anywhere? -/
def State.slotUsed (s : State) (k : Nat) : Bool :=
  let has := fun (l : Label) => l.getLsbD k
  (s.m.frames.any fun kv => kv.2.state ≠ 0 && has kv.2.lbl) || (s.gr.parts.any fun kv => has kv.2.grant) ||
    (s.gr.queues.any fun kv => has kv.2.ceil) || (s.y.policies.any fun p => has p.lset || p.dslot = k) ||
    s.h.fns.any fun kv => kv.2.slot = some k

/-- R391: UNBINDSLOT. -/
def State.unbindSlot (s : State) (c : Cmd) : Option Nat × State :=
  let k := c.arg0.toNat
  checked [(decide (16 ≤ k), 2), (!s.bound k, 6), (s.slotUsed k, 5)] s fun s => { s with y.slots := mdel s.y.slots k }

/-- R392: BINDFN. -/
def State.bindFn (s : State) (c : Cmd) : Option Nat × State :=
  let a := c.arg0.toNat
  let fn := bitsOf a 0 5
  let none_ := a.testBit 12
  checked [(decide (bitsOf a 5 3 ≠ 0) || decide (2 ^ 13 ≤ a) || decide (16 < fn), 2), (!none_ && !s.bound (bitsOf a 8 4), 3)] s fun s =>
    s.setFn fn fun f => { f with slot := if none_ then none else some (bitsOf a 8 4) }

/-- R392: the labels that a partition's slot grant mask must cover. -/
def State.grantUses (s : State) (part : Nat) : List Label :=
  ((s.m.frames.filter fun kv => kv.2.state ≠ 0 && kv.2.owner = part).map fun kv => kv.2.lbl) ++
    ((s.stagesOf part).map fun x => x.2.2.constLbl) ++
    ((s.gr.queues.filter fun kv => kv.1.part = part).map fun kv => kv.2.ceil) ++
    s.gr.boxes.filterMap fun kv => if filtValid kv.2.toNat && filtDpart kv.2.toNat = part then some (filtMax kv.2.toNat) else none

/-- R392: SETGRANT. -/
def State.setGrant (s : State) (c : Cmd) : Option Nat × State :=
  let l : Label := BitVec.ofNat 16 c.arg0.toNat
  checked [(decide (2 ^ 16 ≤ c.arg0.toNat), 2), (!s.allBound l, 3), (!(s.grantUses c.part).all fun x => Label.sub x l, 5)] s fun s =>
    s.setPart c.part fun p => { p with grant := l }

/-! ## Policies -/

/-- Table 4.4: the fields of a policy record. -/
def polId (bs : List Byte) : Nat := bitsOf (field bs 0 8) 48 16
def polLset (bs : List Byte) : Label := BitVec.ofNat 16 (field bs 0 8 / 2 ^ 32)
def polDslot (bs : List Byte) : Nat := bitsOf (field bs 0 8) 24 4
def polDkind (bs : List Byte) : Nat := bitsOf (field bs 0 8) 16 4

/-- R119: is a record refused for its own fields, or its id? -/
def State.polBad (s : State) (bs : List Byte) : Bool :=
  let w := field bs 0 8
  bitsOf w 28 4 ≠ 0 || bitsOf w 20 4 ≠ 0 || bitsOf w 0 16 ≠ 0 || field bs 0x18 8 ≠ 0 || polLset bs = 0 || polId bs = 0 ||
    2 ≤ polDkind bs || s.y.policies.any fun p => p.id = polId bs

/-- R119: does every signer of a policy agree? -/
def State.polSigned (s : State) (bs : List Byte) : Bool :=
  let hash := sha384 (bs.take 32)
  let slots := (List.range 16).filter fun i => (polLset bs).getLsbD i
  slots.zipIdx.all fun x =>
    match mget? s.y.slots x.1 with
    | some key => ecdsaOk key hash (beNat ((bs.drop (32 + 96 * x.2)).take 48)) (beNat ((bs.drop (80 + 96 * x.2)).take 48))
    | none => false

/-- R119: an installed policy. -/
def polOf (bs : List Byte) : Policy :=
  { id := polId bs, lset := polLset bs, dslot := polDslot bs, dkind := polDkind bs, notafter := BitVec.ofNat 64 (field bs 0x10 8),
    remain := BitVec.ofNat 64 (field bs 8 8), bytes := bs.take 32 }

/-- R119, R393: POLINSTALL. The refusals are tested in the order in which R393 gives them. -/
def State.polInstall (s : State) (c : Cmd) : Option Nat × State :=
  match s.hostBytes c.arg1 (max 32 c.arg2.toNat) with
  | none => (some 6, s)
  | some bs =>
    checked [(decide (c.arg2.toNat ≠ 0x20 + 96 * popcount ((polLset bs).zeroExtend 64)), 2),
        (!s.allBound (polLset bs) || !s.bound (polDslot bs), 3), (!s.polSigned bs, 7), (s.polBad bs, 2),
        (decide (64 ≤ s.y.policies.length), 4)] s fun s =>
      { s with y.policies := s.y.policies ++ [polOf bs] }.extendLog ⟨7, 0, polId bs, sha384 (bs.take 32)⟩

/-- R394: POLREVOKE. -/
def State.polRevoke (s : State) (c : Cmd) : Option Nat × State :=
  let n := c.arg0.toNat
  match s.y.policies.find? fun p => p.id = n with
  | none => (some (if 2 ^ 16 ≤ n then 2 else 6), s)
  | some p =>
    let may := c.fn = 0 || (match (s.fn c.fn).slot with | some k => p.lset.getLsbD k | none => false)
    if !may then (some 3, s) else (some 0, { s with y.policies := s.y.policies.filter fun (p : Policy) => p.id ≠ n })

/-- R393: POLREAD. -/
def State.polRead (s : State) (c : Cmd) : Option Nat × State :=
  let n := c.arg0.toNat
  match s.y.policies.find? fun p => p.id = n with
  | none => (some (if 2 ^ 16 ≤ n then 2 else 6), s)
  | some p => s.hostReport c.arg1 (p.bytes ++ natLE 8 p.remain.toNat)

/-! ## The commands -/

/-- R390: GETREPORT. -/
def execGetreport (c : Cmd) (s : State) : Host.Outcome State Fault Refusal := s.config c false true fun s => s.getReport c

/-- R390: GETCERT. -/
def execGetcert (c : Cmd) (s : State) : Host.Outcome State Fault Refusal := s.config c false true fun s => s.getCert c

/-- R389: FWSTAGE. -/
def execFwstage (c : Cmd) (s : State) : Host.Outcome State Fault Refusal := s.config c true true fun s => s.fwStage c

/-- R391: BINDSLOT. -/
def execBindslot (c : Cmd) (s : State) : Host.Outcome State Fault Refusal := s.config c true false fun s => s.bindSlot c

/-- R391: UNBINDSLOT. -/
def execUnbindslot (c : Cmd) (s : State) : Host.Outcome State Fault Refusal := s.config c true false fun s => s.unbindSlot c

/-- R392: BINDFN. -/
def execBindfn (c : Cmd) (s : State) : Host.Outcome State Fault Refusal := s.config c true false fun s => s.bindFn c

/-- R392: SETGRANT. -/
def execSetgrant (c : Cmd) (s : State) : Host.Outcome State Fault Refusal := s.config c true false fun s => s.setGrant c

/-- R393: POLINSTALL. -/
def execPolinstall (c : Cmd) (s : State) : Host.Outcome State Fault Refusal := s.config c false false fun s => s.polInstall c

/-- R394: POLREVOKE. -/
def execPolrevoke (c : Cmd) (s : State) : Host.Outcome State Fault Refusal := s.config c false false fun s => s.polRevoke c

/-- R393: POLREAD. -/
def execPolread (c : Cmd) (s : State) : Host.Outcome State Fault Refusal := s.config c false false fun s => s.polRead c

/-- R424: MEASLOG. -/
def execMeaslog (c : Cmd) (s : State) : Host.Outcome State Fault Refusal := s.config c false false fun s => s.measLog c

/-- R390: ATTREQ: the SEP answers a peer with a report. -/
def execAttreq (h : MsgHdr) (nonce : List Byte) (s : State) : Host.Outcome State Fault Refusal :=
  s.onMsg h fun s => s.sendMsg 0x49 h.spart h.tpart h.sstation (s.attest nonce)

/-- R390: ATTRESP: the report is kept with the station that sent it. -/
def execAttresp (h : MsgHdr) (report : List Byte) (s : State) : Host.Outcome State Fault Refusal :=
  s.onMsg h fun s => { s with y.reports := s.y.reports ++ [(h.sstation, report)] }

end Sys2Proof.Machine
end

