-- ==== Sys2Proof/Machine/PlConfig.lean ====
section
/-! DEFINITION. Placement pools, meshes and entries, and the commands that several stations commit together (R123 to R125, R395 to
R397, R404). -/

namespace Sys2Proof.Machine

open Sys2Proof

/-! ## PLPOOL -/

/-- R395: the frames of the old pool that hold nothing are the partition's own again. -/
def State.dropPool (s : State) (part : Nat) : State :=
  let fs := (s.part part).poolFrames.filter fun n => (s.frame n).state = 0
  let s := fs.foldl (fun s n => s.setFrame n ⟨1, part, 0⟩) s
  s.setPart part fun p => { p with poolFrames := [], poolSize := 0 }

/-- R395: the frames that the Parlour takes for a pool: the highest-numbered ones that the partition owns (assumption 24). -/
def State.poolPick (s : State) (part n : Nat) : List Nat :=
  let own := sortBy id ((s.framesOf part).filter fun x => (s.frame x).state = 1)
  own.drop (own.length - n)

/-- R395: the frames become the pool: zero, and free for shards. -/
def State.takePool (s : State) (part : Nat) (fs : List Nat) : State :=
  (s.endScrub ⟨0, fs, 0, none, false⟩).setPart part fun p => { p with poolFrames := fs }

/-- R395: PLPOOL. -/
def State.plPool (s : State) (c : Cmd) : Option Nat × State :=
  let size := c.arg0.toNat
  let win := c.arg1.toNat
  let bytes := c.arg2.toNat
  if size = 0 || 4096 < size || win % 2 ^ 21 ≠ 0 || bytes % 2 ^ 21 ≠ 0 then (some 2, s)
  else if !(s.part c.part).places.isEmpty then (some 5, s)
  else
    let s' := s.dropPool c.part
    let fs := s'.poolPick c.part (bytes / 65536)
    if fs.length < bytes / 65536 then (some 4, s)
    else (some 0, (s'.takePool c.part fs).setPart c.part fun p => { p with plSize := size, plwin := c.arg1, poolSize := bytes })

/-- R395: PLPOOL. -/
def execPlpool (c : Cmd) (s : State) : Host.Outcome State Fault Refusal := s.config c true false fun s => s.plPool c

/-! ## Descriptors -/

/-- R396: a mesh descriptor: the index and the mesh; none for a refused one. -/
def meshOfBytes (bs : List Byte) : Option (Nat × Mesh) :=
  let w := field bs 0 4
  let axes := bitsOf w 4 2 + 1
  let sizes := (List.range 4).map fun a => field bs (4 + 2 * a) 2
  let n := field bs 0x0C 4
  let ids := (List.range n).map fun k => field bs (0x10 + 2 * k) 2
  if bitsOf w 3 1 ≠ 0 || bitsOf w 6 26 ≠ 0 || 1024 < n || sizes.any (· = 0) || (sizes.drop axes).any (· ≠ 1) then none
  else if sizes.foldl (· * ·) 1 ≠ n || (dedup ids).length ≠ n || ids.any (1024 ≤ ·) then none
  else some (w % 8, ⟨sizes.take axes, ids⟩)

/-- R124, Table 4.5: a placement entry; none where a field that the descriptor must leave 0 is set. -/
def placeOfBytes (bs : List Byte) (lbl : Label) : Option Place :=
  let w := field bs 0 8
  let b := field bs 0x18 8
  if bitsOf w 40 1 ≠ 0 || bitsOf w 33 5 ≠ 0 || bitsOf b 50 14 ≠ 0 then none
  else
    some
      { epoch := 0, fmt := bitsOf w 44 4, mesh := bitsOf w 41 3, ndim := bitsOf w 38 2, busy := false, state := BitVec.ofNat 32 w,
        ext := (List.range 4).map fun d => field bs (8 + 4 * d) 4, base := b % 2 ^ 50, frames := [], lbl := lbl, count := 0, goal := 0 }

/-- R124, R125: may an entry over a mesh be installed? -/
def placeOk (m : Mesh) (p : Place) : Bool :=
  p.fmt ≤ 8 &&
  ((List.range 4).all fun d => d ≤ p.ndim || p.ext.getD d 0 = 1) &&
  ((List.range 4).all fun a =>
    !axReserved p.state a && axKind p.state a ≠ 3 &&
      (a < m.sizes.length || axKind p.state a = 0) &&
      (axKind p.state a ≠ 2 || p.fmt ≤ 1) &&
      (axKind p.state a ≠ 1 || axArg p.state a ≤ p.ndim)) &&
  divides m.sizes p.ext p.state

/-! ## What a station answers to a command prepared on several -/

/-- R397: the label and the index in ARG0 of PLINSTALL. -/
def plLbl (arg0 : Word) : Label := BitVec.ofNat 16 (arg0.toNat / 65536)
def plIdx (arg0 : Word) : Nat := arg0.toNat % 4096

/-- R396: what a station says to MESHDEF: a status of CFGSTAT. -/
def State.voteMesh (s : State) (part : Nat) (body : List Byte) : Nat :=
  match meshOfBytes body with
  | none => 2
  | some (i, m) =>
    if m.stations.contains s.y.station && (mget? s.gr.parts part).isNone then 2
    else if (s.part part).places.any fun kv => kv.2.mesh = i then 5
    else 0

/-- R397: what a station says to PLINSTALL, with the entry. -/
def State.votePlace (s : State) (part : Nat) (arg0 : Word) (body : List Byte) : Nat × Option Place :=
  match placeOfBytes body (plLbl arg0) with
  | none => (2, none)
  | some p =>
    match mget? (s.part part).meshes p.mesh with
    | none => (2, none)
    | some m =>
      if bitsOf arg0.toNat 12 4 ≠ 0 || (s.part part).plSize ≤ plIdx arg0 || !placeOk m p then (2, none)
      else if !Label.sub (plLbl arg0) (s.part part).grant then (3, none)
      else if (s.place? part (plIdx arg0)).isSome then (5, none)
      else if !s.poolRoom part p.base (s.shardSize part p p.state) then (4, none)
      else (0, some p)

/-- R397: what a station says to PLREMOVE. -/
def State.voteRemove (s : State) (part : Nat) (arg0 : Word) : Nat :=
  match s.place? part (plIdx arg0) with
  | none => 6
  | some p => if p.busy then 5 else 0

/-- R396, R397: a station's vote. -/
def State.vote (s : State) (part op : Nat) (arg0 : Word) (body : List Byte) : Nat :=
  match op with
  | 0x31 => s.voteMesh part body
  | 0x32 => (s.votePlace part arg0 body).1
  | 0x33 => s.voteRemove part arg0
  | _ => 2

/-- R397: the pool frames that the shard of a voted PLINSTALL takes at this station. -/
def State.votedFrames (s : State) (part op : Nat) (arg0 : Word) (body : List Byte) : List Nat :=
  if op ≠ 0x32 then []
  else
    match (s.votePlace part arg0 body).2 with
    | some p => s.poolSlice part p.base (s.shardSize part p p.state)
    | none => []

/-! ## Preparing, committing, dropping -/

/-- A station holds a prepared command, and maps the frames of its shard. -/
def State.prepare (s : State) (p : Prep) : State :=
  { s.mapShard p.part p.frames (plLbl p.arg0) with y.preps := s.y.preps ++ [p] }

/-- A prepared command is forgotten. -/
def State.dropPrep (s : State) (p : Prep) : State :=
  { s with y.preps := s.y.preps.filter fun (x : Prep) => !(x.id = p.id && x.origin = p.origin) }

/-- R396, R397: a command takes effect at this station. -/
def State.commitPrep (s : State) (p : Prep) : State :=
  let s := s.dropPrep p
  match p.op with
  | 0x31 =>
    match meshOfBytes p.body with
    | some (i, m) => s.setPart p.part fun x => { x with meshes := mset x.meshes i m }
    | none => s
  | 0x32 =>
    match placeOfBytes p.body (plLbl p.arg0) with
    | some e => s.setPart p.part fun x => { x with places := mset x.places (plIdx p.arg0) { e with frames := p.frames } }
    | none => s
  | _ =>
    match s.place? p.part (plIdx p.arg0) with
    | some e => (s.startScrub e.frames none false).setPart p.part fun x => { x with places := mdel x.places (plIdx p.arg0) }
    | none => s

/-- R396, R397: a command comes to nothing at this station: the frames that it held are free again. -/
def State.abortPrep (s : State) (p : Prep) : State :=
  (if p.frames.isEmpty then s else s.endScrub ⟨0, p.frames, 0, none, false⟩).dropPrep p

/-- R396, R397: the decision, at the station that issued the command. -/
def State.decidePrep (s : State) (p : Prep) (others : List Nat) (status : Nat) : State :=
  let body := natLE 4 p.id.toNat ++ natLE 4 (if status = 0 then 1 else 0)
  let s := others.foldl (fun s st => s.sendMsg 0x3A p.part p.part st body) s
  let mine := (p.op = 0x31 && (match meshOfBytes p.body with | some (_, m) => m.stations.contains s.y.station | none => false)) ||
    p.op ≠ 0x31
  let s := if status = 0 && mine then s.commitPrep p else s.abortPrep p
  match p.fn with
  | some fn => s.cfgDone fn status
  | none => s

/-- R399: does an active port reach a station? -/
def State.reaches (s : State) (st : Nat) : Bool := s.y.ports.any fun kv => kv.2.st = 4 && kv.2.far = st

/-- The stations that a prepared command concerns. -/
def State.prepStations (s : State) (p : Prep) : List Nat :=
  match p.op with
  | 0x31 => (match meshOfBytes p.body with | some (_, m) => m.stations | none => [])
  | 0x32 => (match placeOfBytes p.body 0 with | some e => (s.meshOf p.part e).stations | none => [])
  | _ => (match s.place? p.part (plIdx p.arg0) with | some e => (s.meshOf p.part e).stations | none => [])

/-- R396, R397: a command goes to every station it concerns, and takes effect when all of them accept it. -/
def State.castPrep (s : State) (c : Cmd) (op : Nat) (body : List Byte) : Option Nat × State :=
  let (id, s') := s.freshId
  let p0 : Prep := { id := BitVec.ofNat 32 id, op := op, fn := some c.fn, part := c.part, origin := s.y.station, arg0 := c.arg0, body := body,
                     waiting := [], frames := [] }
  let others := (s.prepStations p0).filter fun st => st ≠ s.y.station
  let p := { p0 with waiting := others, frames := s.votedFrames c.part op c.arg0 body }
  let v := s.vote c.part op c.arg0 body
  if v ≠ 0 then (some v, s)
  else if !others.all s.reaches then (some 9, s)
  else if others.isEmpty then (none, (s'.prepare p).decidePrep p [] 0)
  else (none, others.foldl (fun s st => s.sendMsg 0x38 c.part c.part st
    (natLE 4 op ++ natLE 4 id ++ body ++ natLE 8 c.arg0.toNat)) (s'.prepare p))

/-- R396: MESHDEF. -/
def State.meshDef (s : State) (c : Cmd) : Option Nat × State :=
  match s.hostBytes c.arg1 16 with
  | none => (some 6, s)
  | some head =>
    let n := field head 0x0C 4
    if 1024 < n then (some 2, s)
    else
      match s.hostBytes c.arg1 (16 + 2 * n) with
      | none => (some 6, s)
      | some bs => s.castPrep c 0x31 bs

/-- R397: PLINSTALL. -/
def State.plInstall (s : State) (c : Cmd) : Option Nat × State :=
  match s.hostBytes c.arg1 32 with
  | none => (some 6, s)
  | some bs => s.castPrep c 0x32 bs

/-- R397: PLREMOVE. -/
def State.plRemove (s : State) (c : Cmd) : Option Nat × State :=
  if 4096 ≤ c.arg0.toNat then (some 2, s) else s.castPrep c 0x33 []

/-- R396: MESHDEF. -/
def execMeshdef (c : Cmd) (s : State) : Host.Outcome State Fault Refusal := s.config c false false fun s => s.meshDef c

/-- R397: PLINSTALL. -/
def execPlinstall (c : Cmd) (s : State) : Host.Outcome State Fault Refusal := s.config c false false fun s => s.plInstall c

/-- R397: PLREMOVE. -/
def execPlremove (c : Cmd) (s : State) : Host.Outcome State Fault Refusal := s.config c false false fun s => s.plRemove c

/-! ## Messages -/

/-- R396, R404: CPREP: the station votes, and holds a command that it accepts. -/
def execCprep (h : MsgHdr) (op : Nat) (cmd : Word) (body : List Byte) (arg0 : Word) (s : State) : Host.Outcome State Fault Refusal :=
  s.onMsg h fun s =>
    let v := s.vote h.tpart op arg0 body
    let p : Prep := { id := cmd, op := op, fn := none, part := h.tpart, origin := h.sstation, arg0 := arg0, body := body, waiting := [],
                      frames := s.votedFrames h.tpart op arg0 body }
    (if v = 0 then s.prepare p else s).sendMsg 0x39 h.tpart h.spart h.sstation (natLE 4 cmd.toNat ++ natLE 4 v)

/-- The prepared command of a station with an id. -/
def State.prep? (s : State) (origin : Nat) (id : Word) : Option Prep := s.y.preps.find? fun p => p.id = id && p.origin = origin

/-- R396: CVOTE: a station that does not accept ends the command; the last that accepts lets it take effect. -/
def execCvote (h : MsgHdr) (cmd : Word) (status : Nat) (s : State) : Host.Outcome State Fault Refusal :=
  s.onMsg h fun s =>
    match s.prep? s.y.station cmd with
    | none => s
    | some p =>
      let others := (s.prepStations p).filter fun st => st ≠ s.y.station
      let left := p.waiting.filter fun st => st ≠ h.sstation
      if !p.waiting.contains h.sstation then s
      else if status ≠ 0 then s.decidePrep p others status
      else if left.isEmpty then s.decidePrep p others 0
      else { s with y.preps := s.y.preps.map fun (x : Prep) =>
        if x.id = p.id && x.origin = p.origin then { x with waiting := left } else x }

/-- R396: CCOMMIT. -/
def execCcommit (h : MsgHdr) (cmd : Word) (commit : Bool) (s : State) : Host.Outcome State Fault Refusal :=
  s.onMsg h fun s =>
    match s.prep? h.sstation cmd with
    | some p => if commit then s.commitPrep p else s.abortPrep p
    | none => s

/-- R386: does a command of the configuration mailboxes still execute, so that the next one waits? -/
def State.cfgHeld (s : State) : Bool := (s.y.preps.any fun p => p.fn.isSome) || !s.y.linkups.isEmpty

end Sys2Proof.Machine
end

