-- ==== Sys2Proof/Machine/Fabric.lean ====
section
/-! DEFINITION. The fabric of a station: bring-up of its ports, UALink requests at their target, responses at their source, and the loss
of ports, clocks and peers (R86, R98, R100, R104, R106, R118, R246, R356, R359, R374, R398 to R403, R405). -/

namespace Sys2Proof.Machine

open Sys2Proof

/-! ## The commands -/

/-- R398: FWDCFG. -/
def State.fwdCfg (s : State) (c : Cmd) : Option Nat × State :=
  let per := bitsOf c.arg2.toNat 0 13
  let phase := bitsOf c.arg2.toNat 16 13
  if 2 ^ 36 ≤ c.arg1.toNat || bitsOf c.arg2.toNat 13 3 ≠ 0 || 2 ^ 29 ≤ c.arg2.toNat || per < 64 || 4096 < per || per ≤ phase then (some 2, s)
  else (some 0, s.setPart c.part fun p => { p with ports := c.arg1.toNat, fwdper := per, phase := phase })

/-- R398: FWDCFG. -/
def execFwdcfg (c : Cmd) (s : State) : Host.Outcome State Fault Refusal := s.config c true false fun s => s.fwdCfg c

/-- R401: the sum of all partitions' minima on a port, with a new one for a partition. -/
def State.minSum (s : State) (part port new : Nat) : Nat :=
  s.gr.parts.foldl (fun n kv => if kv.1 = part then n else n + mget 0 kv.2.rxmin port) new

/-- R401: PORTRES. -/
def State.portRes (s : State) (c : Cmd) : Option Nat × State :=
  let port := c.arg0.toNat
  let slots := c.arg1.toNat
  let ps := if port = 63 then List.range Config.ports else [port]
  if (Config.ports ≤ port && port ≠ 63) || 1024 ≤ slots then (some 2, s)
  else if ps.any fun n => 768 < s.minSum c.part n slots then (some 4, s)
  else (some 0, s.setPart c.part fun p => { p with rxmin := ps.foldl (fun m n => mset m n slots) p.rxmin })

/-- R401: PORTRES. -/
def execPortres (c : Cmd) (s : State) : Host.Outcome State Fault Refusal := s.config c true false fun s => s.portRes c

/-- R399: STATIONID. -/
def State.stationId (s : State) (c : Cmd) : Option Nat × State :=
  if 1024 ≤ c.arg0.toNat then (some 2, s)
  else if s.y.ports.any fun kv => kv.2.st = 4 then (some 5, s)
  else (some 0, { s with y.station := c.arg0.toNat })

/-- R399: STATIONID. -/
def execStationid (c : Cmd) (s : State) : Host.Outcome State Fault Refusal := s.config c true false fun s => s.stationId c

/-- R399: the fabric-extension versions of this manual: 1.0 alone, laid out as HIFDEV. -/
def fabVersions : Nat := 0x01000100

/-- Send a message that belongs to a port. -/
def State.sendPort (s : State) (port typ : Nat) (body : List Byte) : State :=
  let m : OutMsg := { typ := typ, tpart := 0, spart := 0, tstation := (s.port port).far, time := s.clk.tclk, body := body, port := some port }
  { s with y.msgs := s.y.msgs ++ [m] }

/-- R399, R404: a CLOCK leaves by a port. -/
def State.sendClock (s : State) (port : Nat) : State :=
  (s.setPort port fun p => { p with sents := p.sents ++ [s.clk.tclk] }).sendPort port 0x02 (natLE 8 (s.port port).clk.toNat)

/-- R399, step 4: the partner's station and versions. -/
def State.meet (s : State) (port station : Nat) (range : Word) : State :=
  if station = s.y.station then s.setPort port fun p => { p with st := 5, cause := 2 }
  else
    match commonVersion fabVersions range.toNat with
    | none => s.setPort port fun p => { p with st := 5, cause := 1 }
    | some (major, minor) =>
      (s.setPort port fun p => { p with major := major, minor := minor, far := station, clk := 0, sents := [] }).sendClock port

/-- R399: does a port still need what a LINKUP brings? -/
def Port.needed (p : Port) : Bool := !p.retired && p.st ≠ 4

/-- R399, steps 1 to 4: a port is trained, and this station's HELLO leaves by it. -/
def State.linkPort (s : State) (port : Nat) : State :=
  let s := (s.setPort port fun p => { p with st := 3, cause := 0, far := 0, major := 0, minor := 0 }).sendPort port 0x01
    (natLE 4 s.y.station ++ natLE 4 fabVersions)
  match (s.port port).early with
  | some (st, range) => (s.setPort port fun p => { p with early := none }).meet port st range
  | none => s

/-- R399: is every port of a LINKUP active, refused or retired? -/
def State.linksDone (s : State) (mask : Nat) : Bool :=
  (List.range Config.ports).all fun n => !mask.testBit n || (s.port n).retired || (s.port n).st = 4 || (s.port n).st = 5

/-- R399: the LINKUPs whose ports are all active or refused end. -/
def State.linkEnds (s : State) : State :=
  let done := s.y.linkups.filter fun x => s.linksDone x.2
  let s := { s with y.linkups := s.y.linkups.filter fun (x : Nat × Nat) => !done.contains x }
  done.foldl (fun s x => s.cfgDone x.1 0) s

/-- R399: LINKUP. -/
def State.linkUp (s : State) (c : Cmd) : Option Nat × State :=
  let mask := c.arg1.toNat
  if 2 ^ 36 ≤ mask then (some 2, s)
  else
    let ps := (List.range Config.ports).filter fun n => mask.testBit n && (s.port n).needed
    let s := ps.foldl State.linkPort s
    (none, { s with y.linkups := s.y.linkups ++ [(c.fn, mask)] }.linkEnds)

/-- R399: LINKUP. -/
def execLinkup (c : Cmd) (s : State) : Host.Outcome State Fault Refusal := s.config c true false fun s => s.linkUp c

/-- R400: a port's status word. -/
def Port.status (p : Port) : Nat := p.st + p.cause * 2 ^ 8 + p.minor * 2 ^ 16 + p.major * 2 ^ 24 + p.far * 2 ^ 32

/-- R400: PORTQUERY. -/
def execPortquery (c : Cmd) (s : State) : Host.Outcome State Fault Refusal :=
  s.config c false false fun s =>
    s.hostReport c.arg1 ((List.range Config.ports).flatMap fun n => natLE 8 (s.port n).status)

/-! ## HELLO and CLOCK -/

/-- R399, step 4: HELLO. One that comes before this station's LINKUP is kept for it. -/
def execHello (h : MsgHdr) (port station : Nat) (range : Word) (s : State) : Host.Outcome State Fault Refusal :=
  let p := s.port port
  .next (if h.rsvd || p.retired || Config.ports ≤ port then s
    else if p.st = 3 then (s.meet port station range).linkEnds
    else if p.st = 4 then s
    else s.setPort port fun p => { p with early := some (station, range) })

/-- When this station sent the CLOCK that its partner took at `prev`: the first one while the port comes up, then the latest that can
have arrived by then. -/
def Port.sentFor (p : Port) (prev : DWord) : DWord :=
  if p.st = 4 then ((p.sents.filter fun t => t.toNat ≤ prev.toNat + 16).getLast?).getD (p.sents.headD 0) else p.sents.headD 0

/-- R404: twice the partner's clock less this station's, from a pair of CLOCKs. -/
def clockOffset (sent prev time now : DWord) : Int :=
  ((prev.toNat : Int) - sent.toNat) + ((time.toNat : Int) - now.toNat)

/-- R86, R399: is a port's station within ±16 ns? -/
def clockOk (x : Int) : Bool := -32 ≤ x && x ≤ 32

/-! ## The end of a request -/

def State.dropReq (s : State) (tag : Nat) : State := { s with y.reqs := s.y.reqs.filter fun (r : OutReq) => r.tag ≠ tag }

/-- The response of a thread's request is under way once every access has performed. -/
def State.settleReq (s : State) (id : Nat) : State := s.performAll id (fun s => s) fun s _ => s

/-- The accesses of a thread's request that a UALink request answers for: one, the lanes that were combined, or the lanes that load of
one line. -/
def State.sharers (s : State) (o : OutReq) (id k : Nat) : List (Acc × Nat) :=
  match s.req? id with
  | none => []
  | some r =>
    match r.accs[k]? with
    | none => []
    | some a => r.accs.zipIdx.filter fun x => !x.1.done && (x.2 = k || (o.kind = 3 && x.1.loc = a.loc) ||
      (o.kind = 0 && !r.kind.writes && x.1.loc.line = a.loc.line))

/-- R8, R403: the accesses of a request that ends with an asynchronous report go on; what they return is undefined. -/
def State.loseAccs (s : State) (id : Nat) (xs : List (Acc × Nat)) : State :=
  (xs.foldl (fun s x =>
    let (ws, s) := s.freeWords 4
    s.setAcc id x.2 fun a => { a with done := true, old := (ws.flatMap fun w => natLE 4 w.toNat).take a.len }) s).settleReq id

/-- R403: a thread's access ends: precisely while its token has not fallen, or with an asynchronous report. -/
def State.accEnd (s : State) (o : OutReq) (id k : Nat) (precise : Option Nat) (code detail : Nat) : State :=
  match s.req? id with
  | none => s.asyncReport o.part o.ctx code detail o.off
  | some r =>
    let xs := s.sharers o id k
    if r.kind = .pref then (xs.foldl (fun s x => s.accDone r x.2 [] 0 0) s).settleReq id
    else
      match precise with
      | some pc =>
        if (r.tok < 6 || pc = fcMemory) && xs.any fun x => (s.team? x.1.t.tid).isSome then (xs.foldl (fun s x => s.accFault r x.2 x.1 pc detail) s).settleReq id
        else (s.asyncReport o.part o.ctx code detail o.off).loseAccs id xs
      | none => (s.asyncReport o.part o.ctx code detail o.off).loseAccs id xs

/-- R131: a fabric error ends a conversion at this station. -/
def State.convError (s : State) (part entry : Nat) : State := (s.convBreak part entry 4).homeNext part entry

/-- R264, R403: a request ends without having been served: with a code for a precise fault where it has one, and the code of an
asynchronous report. -/
def State.reqEnd (s : State) (o : OutReq) (precise : Option Nat) (code detail : Nat) : State :=
  let s := s.dropReq o.tag
  let tell := fun (s : State) => if code = fcMemory then s else s.asyncReport o.part o.ctx code detail o.off
  match o.who with
  | .req id k => s.accEnd o id k precise code detail
  | .copy id a => (match s.copy? id with | some c => (tell s).copyFault c code a | none => tell s)
  | .plate id _ => (match s.e.loads.find? fun x => x.id = id with | some x => (tell s).plateLoadFault x code 0 | none => tell s)
  | .chain id a => (match s.chain? id with | some c => (tell s).chainFault c code a | none => tell s)
  | .gate id _ => (match s.gate? id with | some x => ((tell s).dropGate id).teamFault x.t.tid (precise.getD code) detail 0 x.src 0 | none => tell s)
  | .conv part entry => s.convError part entry
  | .slot => s.asyncReport o.part o.ctx (if code = 0x54 then 0x56 else code) detail o.off
  | .arc t => s.teamFault t.tid (precise.getD code) detail 0 o.off 0
  | .pinned _ => s.asyncReport o.part o.ctx code detail o.off

/-- R359, R400: a fabric timeout. -/
def State.reqTimeout (s : State) (o : OutReq) : State := s.reqEnd o none 0x55 0

/-- Requests that satisfy a test time out. -/
def State.timeoutReqs (s : State) (f : OutReq → Bool) : State := (s.y.reqs.filter f).foldl State.reqTimeout s

/-! ## Ports that leave the active state -/

/-- R396: commands prepared on a station that no active port reaches any more come to nothing. -/
def State.prepsLost (s : State) : State :=
  (s.y.preps.filter fun p => p.fn.isSome && p.waiting.any fun st => !s.reaches st).foldl (fun s p =>
    s.decidePrep p ((s.prepStations p).filter fun st => st ≠ s.y.station && s.reaches st) 9) s

/-- R400: the unanswered requests of a port leave by another active port, once; the others time out. -/
def State.reissueReqs (s : State) (port : Nat) : State :=
  let mine := s.y.reqs.filter fun r => r.port = port
  let s := mine.foldl (fun s o =>
    match s.portsTo o.station with
    | n :: _ =>
      if o.reissued then s.reqTimeout o
      else { s with y.reqs := s.y.reqs.map fun (r : OutReq) => if r.tag = o.tag then { r with port := n, reissued := true } else r }
    | [] => s.reqTimeout o) s
  s.prepsLost

/-- R400, R410: a port leaves the active state. -/
def State.portDown (s : State) (port st : Nat) : State := (s.setPort port fun p => { p with st := st }).reissueReqs port

/-- R400: PORT_LEAVES_ACTIVE. -/
def execPortLeavesActive (port : Nat) (s : State) : Host.Outcome State Fault Refusal :=
  .next (if (s.port port).st = 4 then s.portDown port 0 else s)

/-- R400: this station's clock has left the bound: every active port goes back to state 3, and begins its step 5 again. -/
def State.clockLost (s : State) : State :=
  let ps := (List.range Config.ports).filter fun n => (s.port n).st = 4
  let s := ps.foldl (fun s n => s.setPort n fun p => { p with st := 3, sents := [] }) s
  (ps.foldl (fun s n => s.reissueReqs n) s |> fun s => ps.foldl (fun s n => s.sendClock n) s)

/-- R400: CLOCK_OUT_OF_BOUND. -/
def execClockOutOfBound (s : State) : Host.Outcome State Fault Refusal := .next s.clockLost

/-- R399, step 5: the port of a CLOCK, judged by the offset. -/
def State.clockJudge (s : State) (port : Nat) (prev time : DWord) : State :=
  let p := s.port port
  let ok := clockOk (clockOffset (p.sentFor prev) prev time s.clk.tclk)
  if p.st = 4 then
    (if ok then s.setPort port fun p => { p with sents := p.sents.drop (p.sents.length - 4) } else s.clockLost)
  else if ok then s.setPort port fun p => { p with st := 4 }
  else if s.y.linkups.any fun x => x.2.testBit port then s.setPort port fun p => { p with st := 5, cause := 3 }
  else (s.setPort port fun p => { p with sents := [] }).sendClock port

/-- R399, R404: CLOCK. -/
def execClock (h : MsgHdr) (port : Nat) (prev : DWord) (s : State) : Host.Outcome State Fault Refusal :=
  let p := s.port port
  .next (if h.rsvd || p.retired || (p.st ≠ 3 && p.st ≠ 4) || p.far ≠ h.sstation || p.major = 0 || p.minor < h.minor then s
    else
      let s := s.setPort port fun p => { p with clk := s.clk.tclk }
      if prev = 0 then s.sendClock port else (s.clockJudge port prev h.time).linkEnds)

/-- R404: has 1 ms passed since an active port's latest CLOCK? -/
def State.clockDue (s : State) (port : Nat) : Bool :=
  let p := s.port port
  p.st = 4 && (p.sents.getLastD 0).toNat + 1000000 ≤ s.clk.tclk.toNat

/-- R404: CLOCK_MESSAGE_PERIOD. -/
def execClockMessagePeriod (s : State) : Host.Outcome State Fault Refusal :=
  .next ((List.range Config.ports).foldl (fun s n => if s.clockDue n then s.sendClock n else s) s)

/-! ## Requests at their target -/

/-- R374: where a request lands: the partition, its physical address or the level at which its second stage ends, whether the window
lets it read and write, the counter that a write credits, and whether it is a placement pool. -/
structure FabDest where
  part : Nat
  leaf : Except WalkErr Leaf
  gpa : Nat
  rd : Bool
  wr : Bool
  arc : Nat
  pool : Bool

/-- R374: is a station one of a partition's meshes? -/
def Part.meshHas (p : Part) (st : Nat) : Bool := p.meshes.any fun kv => kv.2.stations.contains st

/-- R374, R395: a partition's placement pool as a window. -/
def State.poolDest (s : State) (part : Nat) (r : FabReq) : Option FabDest :=
  let p := s.part part
  if r.spart = part && p.meshHas r.sstation && r.off + r.len ≤ p.poolSize then
    p.poolFrames[r.off / 65536]?.map fun f => ⟨part, .ok (.phys (f * 65536 + r.off % 65536)), r.off, true, true, 0, true⟩
  else none

/-- R374: the first valid window of a partition that contains a request and matches its source. -/
def State.windowDest (s : State) (part : Nat) (r : FabReq) : Option FabDest :=
  let p := s.part part
  let hit := fun (w : FabWin) => w.valid && w.ifabase ≤ r.off && r.off + r.len ≤ w.ifabase + w.size && w.spart = r.spart &&
    (if w.sstation = 0x3FF then p.meshHas r.sstation else w.sstation = r.sstation)
  ((List.range 64).findSome? fun n => match mget? p.wins n with | some w => if hit w then some w else none | none => none).map fun w =>
    let gpa := w.gpabase + (r.off - w.ifabase)
    ⟨part, s.walk2 part gpa (r.kind ≠ 0), gpa, w.rd, w.wr, w.arc, false⟩

/-- R374: where a request lands, the lower partition first. -/
def State.fabDest (s : State) (r : FabReq) : Option FabDest :=
  (sortBy id (s.gr.parts.map (·.1))).findSome? fun p => (s.poolDest p r).or (s.windowDest p r)

/-- R402: a response with a status alone. -/
def fabRefuse (r : FabReq) (status : Nat) : FabResp := { tag := r.tag, time := 0, status := status, data := [], olds := [] }

/-- R104, R246: a write credits the counter of its window. -/
def State.creditWindow (s : State) (d : FabDest) (n : Nat) : State :=
  if d.arc = 0 then s
  else
    match s.walk2 d.part d.arc true with
    | .ok (.phys a) =>
      if s.owned d.part (.mem a) then s.cohWrite (.mem a) (natLE 8 (leNat (s.getLoc (.mem a) 8) + n))
      else s.asyncReport d.part 0 0x56 0 d.arc
    | _ => s.asyncReport d.part 0 0x56 0 d.arc

/-- R98, R104, R303: does a pinned line refuse the credit that a request brings? The bytes and their credit perform together. -/
def State.creditPinned (s : State) (r : FabReq) (d : FabDest) : Bool :=
  r.kind = 1 && d.arc ≠ 0 &&
    (match s.walk2 d.part d.arc true with
      | .ok (.phys a) => !s.servable none 0 (Loc.mem a).line
      | _ => false)

/-- R405: bytes written into the new shard of a running conversion. -/
def State.convGot (s : State) (d : FabDest) (pa n : Nat) : State :=
  match s.gr.convs.find? fun c => d.pool && c.part = d.part && c.frames.contains (pa / 65536) with
  | none => s
  | some c =>
    let s := s.setConv c.part c.entry fun c => { c with got := c.got + n }
    (s.convProgress c.part c.entry).homeNext c.part c.entry

/-- R106, R248: an atomic at its target: the operations in order, with the value that each finds. -/
def fabFold (r : FabReq) (old : Nat) : Nat × List DWord :=
  r.ops.foldl (fun (x : Nat × List DWord) op =>
    let new := if r.aop = 8 then (if x.1 = r.cmp.toNat % 2 ^ (8 * r.len) then op.toNat else x.1) else atomNew r.aop r.wide r.uns x.1 op.toNat
    (new % 2 ^ (8 * r.len), x.2 ++ [BitVec.ofNat 64 x.1])) (old, [])

/-- R89, R402: a request performs at its coherence point. -/
def State.fabPerform (s : State) (r : FabReq) (d : FabDest) (loc : Loc) (pa : Nat) : FabResp × State :=
  let ok := fun (time : DWord) (data : List Byte) (olds : List DWord) =>
    ({ tag := r.tag, time := time, status := 0, data := data, olds := olds } : FabResp)
  if r.kind = 0 then
    let data := s.getLoc loc r.len
    if r.nolease || !loc.leaseable then (ok 0 data [], s)
    else
      let exp := s.clk.tclk + BitVec.ofNat 64 (s.part d.part).lease
      (ok exp data [], s.raiseLL loc.line exp)
  else
    let g := s.gwct loc
    if r.kind = 1 then (ok g [] [], ((s.cohWrite loc r.data).creditWindow d r.data.length).convGot d pa r.data.length)
    else
      let (new, olds) := fabFold r (leNat (s.getLoc loc r.len))
      (ok g [] olds, s.cohWrite loc (natLE r.len new))

/-- R117, R118: the label test at the target: a subset of the frame's label, which in another partition is empty or one slot. -/
def fabLabelOk (r : FabReq) (part : Nat) (fl : Label) : Bool :=
  r.kind = 0 || (Label.sub r.label fl && (r.spart = part || popcount (fl.setWidth 64) ≤ 1))

/-- R402: a request to memory: the tests at the target, or its performance. -/
def State.fabMemory (s : State) (r : FabReq) : FabResp × State :=
  match s.fabDest r with
  | none => (fabRefuse r 3, s)
  | some d =>
    if (r.kind ≠ 1 && !d.rd) || (r.kind ≠ 0 && !d.wr) then (fabRefuse r 3, s)
    else
      match d.leaf with
      | .error x => (fabRefuse r 5, s.pfReport d.part 0 0x62 x.level 0 d.gpa)
      | .ok (.ifa _ _) => (fabRefuse r 3, s)
      | .ok (.phys pa) =>
        let loc := (s.locOf d.part (.phys pa)).1
        if !s.owned d.part loc then (fabRefuse r 3, s)
        else if !fabLabelOk r d.part (s.locLbl d.part loc) then (fabRefuse r 2, s)
        else if r.kind ≠ 0 && s.roShard loc then (fabRefuse r 4, s)
        else if !s.servable none (if r.kind = 1 then 0 else r.scope) loc.line || s.creditPinned r d then (fabRefuse r 1, s)
        else if (if r.kind = 1 then s.eccPartial loc r.len else s.eccBad loc r.len) then (fabRefuse r 6, s.rowError loc none)
        else s.fabPerform r d loc pa

/-- R356: a write into a peer launch slot. -/
def State.fabSlot (s : State) (r : FabReq) : FabResp × State :=
  let at_ := r.off - Config.pslotBase
  let part := at_ / 0x2000
  let k : SlotKey := ⟨true, part, at_ % 0x2000 / 0x80⟩
  let ok := r.off % 0x80 + r.data.length ≤ 0x80 && (match s.aclEntry part r.spart r.sstation with
    | some e => aclLaunch e && Label.sub r.label (aclMax e)
    | none => false)
  if !ok then (fabRefuse r 3, s)
  else ({ tag := r.tag, time := s.clk.tclk, status := 0, data := [], olds := [] }, (s.slotStore k (r.off % 0x80) r.data r.label).seeSeal k)

/-- R356, R402: a request at its target. -/
def State.fabServe (s : State) (r : FabReq) : FabResp × State :=
  if r.rsvd || 5 ≤ r.kind then (fabRefuse r 3, s)
  else if Config.pslotBase ≤ r.off && r.off < 2 ^ 50 then (if r.kind = 1 || r.kind = 4 then s.fabSlot r else (fabRefuse r 3, s))
  else if r.kind = 4 || (r.kind = 2 || r.kind = 3) && r.len ≠ (if r.wide then 8 else 4) then (fabRefuse r 3, s)
  else s.fabMemory r

/-- R402: FABRIC_REQUEST. -/
def execFabricRequest (r : FabReq) (s : State) : Host.Outcome State Fault Refusal :=
  let (x, s) := s.fabServe r
  .next { s with y.resps := s.y.resps ++ [(r.sstation, x)] }

/-! ## Responses at their source -/

/-- R97, R98: the line that a team-scope atomic has fetched from another station is pinned, and the atomic performs in it. A line that
another team has pinned meanwhile is tested as any access to it is; what its pin holds is the line. -/
def State.pinAnswer (s : State) (q : Req) (k : Nat) (a : Acc) (data : List Byte) : State :=
  let line := a.loc.line
  match s.pinOf a.t.tid line with
  | some x => s.performPinned q k a x
  | none =>
    if !s.servable (some a.t.tid) (s.accScope q a) line then s.setAcc q.id k fun a => a.refuse s.clk.tclk
    else if !s.wantsPin q a then s
    else
      let s := s.pinLine a.t.tid (s.pinCore a.t.tid q.core) q.part line (match s.pinned? line with | some x => x.bytes | none => data)
      match s.pinOf a.t.tid line with
      | some x => s.performPinned q k a x
      | none => s

/-- R88, R242: a line of another station serves every lane of a load that reads of it. -/
def State.loadAnswer (s : State) (o : OutReq) (r : FabResp) (q : Req) (a : Acc) (lbl : Label) : State :=
  let line := a.loc.line
  let s := if r.time ≠ 0 && !o.nolease then s.keepLine q a r.data r.time lbl else s
  q.accs.zipIdx.foldl (fun s x =>
    if !x.1.done && x.1.loc.line = line then s.accDone q x.2 ((r.data.drop x.1.loc.off).take x.1.len) 0 lbl else s) s

/-- R89, R106: a store or an atomic has performed at another station. A copy that a team of this chip holds pinned takes what it has
written (R98). -/
def State.storeAnswer (s : State) (o : OutReq) (r : FabResp) (q : Req) (k : Nat) (a : Acc) (lbl : Label) : State :=
  let old := natLE a.len (r.olds.headD 0).toNat
  if o.kind = 3 then
    let cs := q.combined a
    (s.pinMerge a.loc (natLE a.len (q.combinedNew cs (leNat old)))).combinedDone q cs (r.olds.headD 0).toNat r.time lbl
  else
    (match q.kind.write a old with | some bs => s.pinMerge a.loc bs | none => s).accDone q k old r.time lbl

/-- R88, R97: the answer to a thread's request performs its accesses: a line that it pins, a line that it leases, or a value. -/
def State.accAnswer (s : State) (o : OutReq) (r : FabResp) (id k : Nat) : State :=
  match s.req? id with
  | none => s
  | some q =>
    match q.accs[k]? with
    | none => s
    | some a =>
      let lbl := s.locLbl q.part a.loc
      let s := match q.kind with
        | .decdep _ => s.depAnswer o r q k a
        | _ =>
          if o.kind = 0 && q.kind.pins then s.pinAnswer q k a r.data
          else if o.kind = 0 then s.loadAnswer o r q a lbl
          else s.storeAnswer o r q k a lbl
      s.settleReq id

/-- R403: STATUS 0: what waited for the request goes on. -/
def State.reqDoneWith (s : State) (o : OutReq) (r : FabResp) : State :=
  let s := s.dropReq o.tag
  match o.who with
  | .req id k => s.accAnswer o r id k
  | .copy id a =>
    s.setCopy id fun c =>
      if o.kind = 0 then { c with got := c.got ++ [(a, r.data)] } else { c with wait := c.wait - 1, gwct := maxTime c.gwct r.time }
  | .plate id chunk => s.setLoad id fun x => { x with got := x.got ++ [(chunk, r.data)] }
  | .chain id a =>
    s.setChain id fun c =>
      if o.kind = 0 then { c with got := c.got ++ [(a, r.data)] } else { c with wait := c.wait - 1, gwct := maxTime c.gwct r.time }
  | .gate id off =>
    (s.setGate id fun x =>
      if o.kind = 0 then { x with got := x.got ++ [(off, r.data)] } else { x with gwct := maxTime x.gwct r.time }).gateAdvance id
  | .conv part entry =>
    let st := o.station
    let s := if o.kind = 0 then
        match s.place? part entry with
        | some p => s.setConv part entry fun c => { c with read := c.read ++ [((s.meshOf part p).pos st, o.off, r.data)] }
        | none => s
      else s
    (s.convProgress part entry).homeNext part entry
  | .slot => s
  | .arc t => s.arcAnswer t r.data
  | .pinned tid => (s.liveOf tid).foldl (fun s t => s.joinWct t r.time) s

/-- R100, R403: STATUS 1: the request is tried again. -/
def State.reqRetry (s : State) (o : OutReq) : State :=
  match o.who with
  | .req id k =>
    let xs := s.sharers o id k
    (xs.foldl (fun s x => s.setAcc id x.2 fun a => a.refuse s.clk.tclk) (s.dropReq o.tag)).settleReq id
  | _ =>
    let first := o.refused.getD s.clk.tclk
    if overdue first s.clk.tclk then s.reqEnd o (some fcPinned) fcPinned 0
    else
      let n := if o.refused.isSome then min 1024 (2 * o.backoff) else 32
      { s with y.reqs := s.y.reqs.map fun (x : OutReq) =>
        if x.tag = o.tag then { x with refused := some first, backoff := n, retryAt := tryAt first s.clk.tclk n } else x }

/-- Table 21.8: a response is acted on. -/
def State.reqAnswer (s : State) (o : OutReq) (r : FabResp) : State :=
  match r.status with
  | 0 => s.reqDoneWith o r
  | 1 => s.reqRetry o
  | 2 => s.reqEnd o (some fcLabel) 0x53 0
  | 3 => s.reqEnd o (some 0x54) 0x54 0
  | 4 => s.reqEnd o (some fcPlace) fcPlace 2
  | 5 => s.reqEnd o (some 0x54) 0x54 0
  | 6 => s.reqEnd o (some fcMemory) fcMemory 0
  | _ => s

/-- R403: FABRIC_RESPONSE. -/
def execFabricResponse (r : FabResp) (s : State) : Host.Outcome State Fault Refusal :=
  .next (match s.y.reqs.find? fun o => o.tag = r.tag with
    | some o => s.reqAnswer o r
    | none => s)

/-! ## A peer's reset -/

/-- R131, R359: RESET. -/
def execResetMsg (h : MsgHdr) (part : Nat) (s : State) : Host.Outcome State Fault Refusal :=
  s.onMsg h fun s =>
    let cs := s.gr.convs.filter fun c => c.part = part &&
      (match s.place? part c.entry with | some p => (s.meshOf part p).stations.contains h.sstation | none => false)
    let s := cs.foldl (fun s c => (s.convBreak part c.entry 5).homeNext part c.entry) s
    let s := s.timeoutReqs fun o => o.station = h.sstation && o.part = part
    { s with y.gangs := s.y.gangs.map fun (g : Gang) =>
      if g.part = part then { g with acked := g.acked.filter fun st => st ≠ h.sstation } else g }

end Sys2Proof.Machine
end

