-- ==== Sys2Proof/Machine/Operator.lean ====
section
/-! DEFINITION. The operator's functions: errors, surveys, retirement, the error log, telemetry, clocks and thermal migration (R407 to R419
and Tables 22.1 to 22.6). -/

namespace Sys2Proof.Machine

open Sys2Proof

/-! ## Units -/

/-- Table 22.2: the fields of a unit code. -/
def unitKind (u : Word) : Nat := bitsOf u.toNat 28 4
def unitChan (u : Word) : Nat := bitsOf u.toNat 24 4
def unitIndex (u : Word) : Nat := bitsOf u.toNat 0 24

/-- Table 22.2: the unit codes of a slice, a port and a hub unit. -/
def sliceUnit (n : Nat) : Word := BitVec.ofNat 32 (2 * 2 ^ 28 + n)
def portUnit (n : Nat) : Word := BitVec.ofNat 32 (5 * 2 ^ 28 + n)

/-- R366: the second-tier frames, spread over 12 channels (assumption 21). -/
def chanRows : Nat := 2796203

/-- Table 22.2: is a unit code one of the table, with its index in range? -/
def unitKnown (u : Word) : Bool :=
  let i := unitIndex u
  match unitKind u with
  | 1 => unitChan u = 0 && i < Config.cores
  | 2 => unitChan u = 0 && i < Config.slices
  | 3 => unitChan u < 12 && i < 1048576
  | 4 => unitChan u < 12 && Config.firstTierFrames + unitChan u * chanRows + i < Config.frames
  | 5 => unitChan u = 0 && i < Config.ports
  | 6 => unitChan u = 0 && i < 256
  | _ => false

/-- The frame of a memory row (assumption 21). -/
def rowFrame (u : Word) : Nat :=
  if unitKind u = 3 then unitChan u * 1048576 + unitIndex u else Config.firstTierFrames + unitChan u * chanRows + unitIndex u

/-! ## Surveys -/

/-- Do teams stand on a core? -/
def State.coreBusy (s : State) (core : Nat) : Bool :=
  s.sch.teams.any fun kv => (kv.2.core = core || kv.2.core2 = some core) && kv.2.status ≠ .saved && kv.2.status ≠ .relaunch

/-- R409, R412, R413: the survey's test ends within 1 ms. -/
def State.surveyEnd (s : State) : DWord := s.clk.tclk + 1000000

/-- R407, R409: a survey of a unit begins. Teams on a core are pre-empted without drain. -/
def State.startSurvey (s : State) (u : Word) (addr : Nat) : State :=
  if (s.y.surveys.any fun x => x.unit = u) || s.y.retired.contains u || !unitKnown u then s
  else
    let core := unitIndex u
    let at_ := if unitKind u = 1 && s.coreBusy core then none else some s.surveyEnd
    let s := { s with y.surveys := s.y.surveys ++ [⟨u, at_, addr⟩] }
    if unitKind u ≠ 1 then s
    else
      let ts := (s.sch.teams.filter fun kv => kv.2.core = core || kv.2.core2 = some core).map fun kv => kv.1
      ts.foldl (fun s t => s.preempt t false) s

/-- R407: SURVEY. -/
def State.survey (s : State) (c : Cmd) : Option Nat × State :=
  if !unitKnown c.arg0 then (some 2, s)
  else if s.y.retired.contains c.arg0 then (some 5, s)
  else (some 0, s.startSurvey c.arg0 0)

/-- R407: SURVEY. -/
def execSurvey (c : Cmd) (s : State) : Host.Outcome State Fault Refusal := s.config c true false fun s => s.survey c

/-- R409: a core whose teams have all gone begins its self-test. -/
def State.selfTests (s : State) : State :=
  { s with y.surveys := s.y.surveys.map fun (x : Survey) =>
    if x.at_.isNone && !s.coreBusy (unitIndex x.unit) then { x with at_ := some s.surveyEnd } else x }

/-- Does a core stand ready for its self-test? -/
def State.selfTestReady (s : State) : Bool := s.y.surveys.any fun x => x.at_.isNone && !s.coreBusy (unitIndex x.unit)

def State.survey? (s : State) (u : Word) : Option Survey := s.y.surveys.find? fun x => x.unit = u && x.at_.isSome
def State.dropSurvey (s : State) (u : Word) : State := { s with y.surveys := s.y.surveys.filter fun (x : Survey) => x.unit ≠ u }

/-- R414: a counter of Table 22.5 rises, and saturates. -/
def State.countUp (s : State) (i : Nat) : State := { s with y.counts := setAt s.y.counts i fun n => min (n + 1) 0xFFFFFFFF }

/-- R409: a survey is passed. -/
def State.surveyPassed (s : State) (u : Word) : State := ((s.dropSurvey u).countUp 6).logEvent u.toNat 3 0 true 0 0

/-- R410: a unit is retired. -/
def State.retireUnit (s : State) (u : Word) : State :=
  let s := { s with y.retired := dedup (s.y.retired ++ [u]) }
  match unitKind u with
  | 1 => { s with gr.parts := s.gr.parts.map fun (kv : Nat × Part) => (kv.1, { kv.2 with corelim := mdel kv.2.corelim (unitIndex u) }) }
  | 5 => (s.setPort (unitIndex u) fun p => { p with retired := true }).portDown (unitIndex u) 0
  | _ => s

/-- R409: a survey is failed, and the unit retired. -/
def State.surveyFailed (s : State) (u : Word) : State :=
  (((s.dropSurvey u).countUp 7).logEvent u.toNat 4 0 true 0 0).retireUnit u

/-- R409: SELF_TEST_COMPLETE. -/
def execSelfTestComplete (core : Nat) (pass : Bool) (s : State) : Host.Outcome State Fault Refusal :=
  .next (match s.survey? (coreUnit core) with
    | none => if s.y.boot.starting && s.y.boot.stage = 2 && !pass then s.surveyFailed (coreUnit core) else s
    | some _ => if pass then s.surveyPassed (coreUnit core) else s.surveyFailed (coreUnit core))

/-- R412: a row fails: its addresses are steered to a spare, or it stays in service unspared. -/
def State.rowFailed (s : State) (x : Survey) (spare : Bool) : State :=
  let s := (s.dropSurvey x.unit).countUp 7
  if spare then { s with y.spares := s.y.spares + 1 }.logEvent x.unit.toNat 5 0 true 0 x.addr
  else { s with m.unspared := dedup (s.m.unspared ++ [rowFrame x.unit]) }.logEvent x.unit.toNat 6 0 true 0 x.addr

/-- R412: ROW_SURVEY_COMPLETE. -/
def execRowSurveyComplete (unit : Word) (pass spare : Bool) (s : State) : Host.Outcome State Fault Refusal :=
  .next (match s.survey? unit with
    | none => s
    | some x => if unitKind unit ≠ 3 && unitKind unit ≠ 4 then s else if pass then s.surveyPassed unit else s.rowFailed x spare)

/-- R413: a partition loses a slice: its lines are rehashed, and without a slice its teams end. -/
def State.loseSlice (s : State) (slice part : Nat) : State :=
  let s := s.l2Drop fun a => (s.frame (a / 65536)).owner = part
  let s := s.setPart part fun p => { p with slices := p.slices.filter (· ≠ slice), llFloor := s.clk.tclk + 4000 }
  if (s.part part).slices.isEmpty then
    let u := (sliceUnit slice).toNat
    let ts := (s.sch.teams.filter fun kv => kv.2.part = part).map fun kv => kv.1
    (ts.foldl (fun s t => s.teamFault t fcMemory u 0 0 0) s).pfReport part 0 0x5B u 0 0
  else s

/-- R413: SLICE_SURVEY_COMPLETE. -/
def execSliceSurveyComplete (slice : Nat) (pass : Bool) (s : State) : Host.Outcome State Fault Refusal :=
  .next (match s.survey? (sliceUnit slice) with
    | none => s
    | some _ =>
      if pass then s.surveyPassed (sliceUnit slice)
      else
        let ps := (s.gr.parts.filter fun kv => kv.2.slices.contains slice).map fun kv => kv.1
        ps.foldl (fun s p => s.loseSlice slice p) (s.surveyFailed (sliceUnit slice)))

/-- R407, R410: a port's or a hub unit's survey is over. A failed hub unit stays in service. -/
def State.unitSurveyed (s : State) (x : Survey) : State :=
  let fails := Config.surveyFails x.unit s.clk.free
  let s := { s with clk.free := s.clk.free + 1 }
  if !fails then s.surveyPassed x.unit
  else if unitKind x.unit = 5 then s.surveyFailed x.unit
  else (s.dropSurvey x.unit).countUp 7

/-- R409, R412, R413: the outcome of a survey whose bound has come. -/
def State.surveyOver (s : State) (x : Survey) : Host.Outcome State Fault Refusal :=
  let fails := Config.surveyFails x.unit s.clk.free
  let spare := Config.spareLeft x.unit s.clk.free
  let s' := { s with clk.free := s.clk.free + 1 }
  match unitKind x.unit with
  | 1 => execSelfTestComplete (unitIndex x.unit) (!fails) s'
  | 2 => execSliceSurveyComplete (unitIndex x.unit) (!fails) s'
  | 3 => execRowSurveyComplete x.unit (!fails) spare s'
  | 4 => execRowSurveyComplete x.unit (!fails) spare s'
  | _ => .next (s.unitSurveyed x)

/-- The survey whose bound has come. -/
def State.surveyDue (s : State) : Option Survey :=
  s.y.surveys.find? fun x => match x.at_ with | some t => decide (t.toNat ≤ s.clk.tclk.toNat) | none => false

/-- R412, R413: does a survey hold the accesses to a location: of its row, or of a slice of its partition (the hash that picks the
slice is not given, so every line of the partition waits)? -/
def State.surveyHolds (s : State) (loc : Loc) : Bool :=
  match loc with
  | .mem a => s.y.surveys.any fun x =>
      x.unit.toNat = rowUnit a ||
      (unitKind x.unit = 2 && ((s.part (s.frame (a / 65536)).owner).slices.contains (unitIndex x.unit)))
  | _ => false

/-! ## Errors -/

/-- R407, R408, R411: an uncorrectable error is counted and logged, its block stays uncorrectable, and its unit is surveyed. -/
def State.unitError (s : State) (unit : Word) (part : Option Nat) (addr : Nat) : State :=
  let block := addr / 64 * 64
  let s := (s.countUp 5).logEvent unit.toNat 2 (part.getD 0) part.isNone 0 block
  let s := if 2 ≤ unitKind unit && unitKind unit ≤ 4 then { s with m.bad := dedup (s.m.bad ++ [block]) } else s
  s.startSurvey unit block

/-- The partition of a team. -/
def State.partOfTeam (s : State) (tid : Nat) : Option Nat := (s.team? tid).map fun t => t.part

/-- R408: a team's access consumed the error. -/
def State.errorEnds (s : State) (tid : Nat) (unit : Word) (addr : Nat) : State := s.teamFault tid fcMemory unit.toNat 0 addr 0

/-- R408: an engine's access consumed the error: R264, with the unit code. -/
def State.engineError (s : State) (tid core pc roff : Nat) (unit : Word) (addr : Nat) : State :=
  s.takeFault tid fcMemory unit.toNat core 0 0 pc 0 addr roff

/-- R408: who consumed an error, by partition. -/
def State.errorPart (s : State) (who : Consumer) : Option Nat :=
  match who with
  | .team tid => s.partOfTeam tid
  | .copy id => (s.copy? id).bind fun c => s.partOfTeam c.t.tid
  | .plate id => (s.e.loads.find? fun x => x.id = id).bind fun x => s.partOfTeam x.tid
  | .chain core => (s.chainHead core).bind fun c => s.partOfTeam c.t.tid
  | .save tid => s.partOfTeam tid
  | .gate id => (s.gate? id).bind fun x => s.partOfTeam x.t.tid
  | _ => none

/-- R408: what an uncorrectable error does to the operation that consumed it. -/
def State.errorTaken (s : State) (unit : Word) (who : Consumer) (addr : Nat) : State :=
  match who with
  | .team tid => s.errorEnds tid unit addr
  | .copy id => (match s.copy? id with | some c => s.engineError c.t.tid c.core c.pc c.roff unit addr | none => s)
  | .plate id => (match s.e.loads.find? fun x => x.id = id with | some x => s.engineError x.tid x.core x.pc 0 unit addr | none => s)
  | .chain core => (match s.chainHead core with | some c => s.engineError c.t.tid c.core c.pc c.roff unit addr | none => s)
  | .save tid => s.errorEnds tid unit addr
  | .collimator part entry => (s.convBreak part entry 4).homeNext part entry
  | .gate id => (match s.gate? id with | some x => (s.dropGate id).errorEnds x.t.tid unit addr | none => s)
  | .hostRead fn tag =>
    let owner := (s.frame (addr / 65536)).owner
    { s with h.replies := s.h.replies ++ [({ fn := fn, tag := tag, data := none } : HostReply)] }.report (s.fnOf owner) { cls := 2, code := 0x57, part := owner, addr := addr }
  | .nobody => s

/-- R407, R408: UNCORRECTABLE_ERROR. -/
def execUncorrectableError (unit : Word) (who : Consumer) (addr : Nat) (s : State) : Host.Outcome State Fault Refusal :=
  .next (if !unitKnown unit then s else (s.errorTaken unit who addr).unitError unit (s.errorPart who) addr)

/-- Table 22.5: the counter of corrected errors of a unit. -/
def correctedIndex (u : Word) : Option Nat :=
  match unitKind u with
  | 3 => some 0
  | 4 => some 1
  | 2 => some 2
  | 1 => some 3
  | 5 => some 4
  | _ => none

/-- R407: the corrected errors of a unit within the last second. -/
def State.recent (s : State) (u : Word) : List DWord :=
  (mget [] s.y.perSec u).filter fun t => s.clk.tclk.toNat < t.toNat + 1000000000

/-- R414: CORRECTED_ERROR. -/
def execCorrectedError (unit : Word) (s : State) : Host.Outcome State Fault Refusal :=
  .next (if !unitKnown unit then s
    else
      let s := match correctedIndex unit with | some i => s.countUp i | none => s
      { s with y.perSec := mset s.y.perSec unit (s.clk.tclk :: s.recent unit) })

/-- R407: is a unit over the threshold? -/
def State.overThreshold (s : State) (u : Word) : Bool := 16 < (s.recent u).length

/-- R407, R411: CORRECTED_ERROR_THRESHOLD. -/
def execCorrectedErrorThreshold (unit : Word) (s : State) : Host.Outcome State Fault Refusal :=
  .next (if s.overThreshold unit then
      let n := (s.recent unit).length
      ({ s with y.perSec := mdel s.y.perSec unit }.logEvent unit.toNat 1 0 true n 0).startSurvey unit 0
    else s)

/-- A unit over the threshold. -/
def State.thresholdDue (s : State) : Option Word := (s.y.perSec.find? fun kv => s.overThreshold kv.1).map fun kv => kv.1

/-! ## The log and telemetry -/

/-- Table 22.3: an entry. -/
def ErrEntry.bytes (e : ErrEntry) : List Byte :=
  natLE 4 e.seq.toNat ++ natLE 4 e.unit.toNat ++ natLE 8 e.time.toNat ++
    natLE 4 (e.event % 256 + e.part % 16 * 256 + (if e.nopart then 4096 else 0)) ++ natLE 4 e.count ++ natLE 8 e.addr.toNat

/-- R411: ERRLOG. -/
def State.errLog (s : State) (c : Cmd) : Option Nat × State :=
  let es := (s.y.log.filter fun e => c.arg0.toNat ≤ e.seq.toNat).take (c.arg2.toNat / 32)
  s.hostReport c.arg1 (es.flatMap ErrEntry.bytes)

/-- R411: ERRLOG. -/
def execErrlog (c : Cmd) (s : State) : Host.Outcome State Fault Refusal := s.config c true false fun s => s.errLog c

/-- R410, R414: the units of a kind that are retired. -/
def State.retiredOf (s : State) (kind : Nat) : Nat := (s.y.retired.filter fun u => unitKind u = kind).length

/-- A signed byte. -/
def tempByte (t : Int) : List Byte := [BitVec.ofInt 8 t]

/-- R414, Table 22.5: the record. -/
def State.teleBytes (s : State) : List Byte :=
  let y := s.y
  natLE 4 0x4D4C4554 ++ natLE 4 0x10000 ++ natLE 8 s.clk.tclk.toNat ++ natLE 2 y.power ++ natLE 2 y.pwrcap ++
    ((List.range 8).flatMap fun d => natLE 2 (y.clock.getD d 0)) ++
    natLE 2 (Config.cores - s.retiredOf 1) ++ natLE 2 (Config.slices - s.retiredOf 2) ++ natLE 2 (Config.ports - s.retiredOf 5) ++
    natLE 2 y.spares ++ ((List.range 10).flatMap fun d => tempByte (y.tdie.getD d 0)) ++
    ((List.range 12).flatMap fun d => tempByte (y.thbm.getD d 0)) ++ natLE 1 y.tmig ++ [0] ++ natLE 4 y.minres ++
    ((List.range 8).flatMap fun i => natLE 4 (y.counts.getD i 0)) ++ List.replicate 152 0

/-- R414: TELEMETRY. -/
def execTelemetry (c : Cmd) (s : State) : Host.Outcome State Fault Refusal :=
  s.config c true false fun s => s.hostReport c.arg1 s.teleBytes

/-! ## Power and temperature -/

/-- The unit code by which the log names a core die: its first core (assumption 25). -/
def dieUnit (die : Nat) : Nat := (coreUnit (200 * die)).toNat

/-- R415: a core die's clock at the end of a window. -/
def State.stepClock (s : State) (die : Nat) : State :=
  let f := s.y.clock.getD die 1300
  let t := s.y.tdie.getD die 0
  if s.y.pwrcap < s.y.power || 105 < t then
    (if f ≤ 700 then s else { s with y.clock := s.y.clock.set die (f - 100) }.logEvent (dieUnit die) 8 0 true 0 0)
  else if 100 * s.y.power < 95 * s.y.pwrcap && t < 100 then { s with y.clock := s.y.clock.set die (min 1300 (f + 100)) }
  else s

/-- R415: the stacks whose bandwidth is halved. -/
def State.slowStacks (s : State) : List Nat :=
  (List.range 12).filter fun k => 95 < s.y.thbm.getD k 0 || (s.y.slow.contains k && 90 < s.y.thbm.getD k 0)

/-- R415: CLOCK_WINDOW. -/
def execClockWindow (s : State) : Host.Outcome State Fault Refusal :=
  let s := { s with
    y.power := Config.modulePower s.clk.free
    y.winAt := s.clk.tclk
    clk.free := s.clk.free + 1 }
  let s := (List.range 8).foldl State.stepClock s
  .next { s with y.slow := s.slowStacks }

/-- R415: has a 1 ms window ended? -/
def State.windowDue (s : State) : Bool := s.y.winAt.toNat + 1000000 ≤ s.clk.tclk.toNat

/-- R418: a core die marks itself hot, or clears the mark. The sensors of hub dies (8 and 9) and of stacks (10 to 21) only read. -/
def State.senseDie (s : State) (die : Nat) (temp : Int) : State :=
  if die < 8 then
    let s := { s with y.tdie := s.y.tdie.set die temp }
    if (s.y.tmig : Int) ≤ temp then { s with y.hot := dedup (s.y.hot ++ [die]) }
    else if temp ≤ (s.y.tmig : Int) - 5 then { s with y.hot := s.y.hot.filter (· ≠ die) }
    else s
  else if die < 10 then { s with y.tdie := s.y.tdie.set die temp }
  else { s with y.thbm := s.y.thbm.set (die - 10) temp }

/-- R418: DIE_MARKED_HOT. -/
def execDieMarkedHot (die : Nat) (temp : Int) (s : State) : Host.Outcome State Fault Refusal := .next (s.senseDie die temp)

/-- R418: SETTHERM. -/
def State.setTherm (s : State) (c : Cmd) : Option Nat × State :=
  let cap := bitsOf c.arg0.toNat 0 16
  let mig := bitsOf c.arg0.toNat 16 8
  let res := c.arg1.toNat
  if bitsOf c.arg0.toNat 24 8 ≠ 0 || cap < 1200 || 3600 < cap || mig < 70 || 105 < mig || res < 500 || 60000 < res then (some 2, s)
  else
    let s := { s with y.pwrcap := cap, y.tmig := mig, y.minres := res }
    (some 0, (List.range 8).foldl (fun s d => s.senseDie d (s.y.tdie.getD d 0)) s)

/-- R418: SETTHERM. -/
def execSettherm (c : Cmd) (s : State) : Host.Outcome State Fault Refusal := s.config c true false fun s => s.setTherm c

/-- R418, R419: may a team be chosen on a hot die? -/
def State.mayMigrate (s : State) (die : Nat) (t : Team) : Bool :=
  let cores := match t.core2 with | some c => [t.core, c] | none => [t.core]
  t.status = .resident && !t.moving && coreDie t.core = die && 1000 * s.y.minres ≤ s.elapsed t &&
    !cores.any fun c => s.y.surveys.any fun x => x.unit = coreUnit c

/-- R418: the oldest team of a hot die; ties go to the lower core, then the lower slot. -/
def State.migrant (s : State) (die : Nat) : Option (Nat × Team) :=
  minBy? (fun kv => (kv.2.began.toNat * 2048 + kv.2.core) * 64 + kv.2.slot) (s.sch.teams.filter fun kv => s.mayMigrate die kv.2)

/-- R418: MIGRATION_CHOICE. -/
def execMigrationChoice (s : State) : Host.Outcome State Fault Refusal :=
  let s := { s with y.migAt := s.clk.tclk }
  .next ((sortBy id s.y.hot).foldl (fun s die =>
    match s.migrant die with
    | some (tid, t) => ((s.setTeam tid fun t => { t with moving := true }).preempt tid true).logEvent (coreUnit t.core).toNat 7 0 true 0 0
    | none => s) s)

/-- R418: is a choice due? -/
def State.choiceDue (s : State) : Bool := !s.y.hot.isEmpty && s.y.migAt.toNat + 1000000 ≤ s.clk.tclk.toNat

end Sys2Proof.Machine
end

