-- ==== Sys2Proof/Machine/Boot.lean ====
section
/-! DEFINITION. Resets of the module, the boot stages and minimal mode (R387 to R391, R417). -/

namespace Sys2Proof.Machine

open Sys2Proof

/-- R387, R410, R411: the module after a reset: every volatile thing as `State.reset` has it; the host's memory, the error log, the
retired units, the stored images, FAILS and REASON stay. Transit time goes on, and %clk counts from this reset (R217). -/
def State.moduleReset (s : State) : State :=
  let r := State.reset
  let ports := (s.y.ports.filter fun kv => kv.2.retired).map fun kv => (kv.1, ({ retired := true } : Port))
  { r with
    clk := { s.clk with cycle := 0, cur := none, todo := [] }
    m := { r.m with host := s.m.host, unspared := s.m.unspared }
    h := { r.h with replies := s.h.replies }
    y := { r.y with
      boot := { r.y.boot with fails := s.y.boot.fails, reason := s.y.boot.reason }
      images := s.y.images, retired := s.y.retired, log := s.y.log, logSeq := s.y.logSeq, spares := s.y.spares, ports := ports,
      tdie := s.y.tdie, thbm := s.y.thbm, winAt := s.clk.tclk, migAt := s.clk.tclk } }

/-- R388: a reset or a loss of power: a start in progress has failed. -/
def State.lost (s : State) : State :=
  let starting := s.y.boot.starting
  let s := s.moduleReset
  if starting then { s with y.boot := { s.y.boot with reason := 6 } } else s

/-- R387, Table 21.3: the bound of a stage in ns, by the last stage completed. -/
def stageBound (stage : Nat) : DWord :=
  match stage with
  | 0 => 50000000
  | 1 => 200000000
  | 2 => 2000000000
  | _ => 100000000

/-- R387, R388: BOOT_START: the module is reset, and stage 1 or minimal mode begins. -/
def execBootStart (s : State) : Host.Outcome State Fault Refusal :=
  let s := s.lost
  .next (if 3 ≤ s.y.boot.fails then { s with y.boot := { s.y.boot with minimal := true } }
    else { s with y.boot := { s.y.boot with fails := s.y.boot.fails + 1, starting := true, bound := s.clk.tclk + stageBound 0 } })

/-- R387, R388: a reset has come, and no start has begun since. -/
def State.startDue (s : State) : Bool :=
  let b := s.y.boot
  !b.starting && !b.minimal && !b.failed && b.stage = 0

/-- R387, R390: the stored image of a measurement register runs: its digest extends the register. -/
def State.runImage (s : State) (i : Nat) : State :=
  let (v, d) := (mget? s.y.images i).getD (Config.factoryVersion i, Config.factoryDigest i)
  { s with y.fwver := s.y.fwver.set i v }.extend i d

/-- Table 21.3: the work of the stage that completes. -/
def State.stageWork (s : State) (stage : Nat) : State :=
  match stage with
  | 0 => s.runImage 0
  | 1 => [1, 2, 3, 4, 5].foldl State.runImage s
  | 2 => s
  | _ => { s with
      m.frames := []
      m.mem := []
      y.slots := []
      y.policies := []
      gr.parts := s.gr.parts.map fun (kv : Nat × Part) => (kv.1, { kv.2 with places := [] }) }

/-- R388: a start has failed for a reason. -/
def State.startFailed (s : State) (reason : Nat) : State :=
  { s with y.boot := { s.y.boot with starting := false, failed := true, reason := reason } }

/-- R387, R388: BOOT_STAGE_COMPLETE. -/
def execBootStageComplete (s : State) : Host.Outcome State Fault Refusal :=
  let b := s.y.boot
  .next (if !b.starting then s
    else if DWord.past s.clk.tclk b.bound then s.startFailed 3
    else
      let s := s.stageWork b.stage
      if b.stage = 3 then { s with y.boot := { s.y.boot with stage := 4, starting := false, fails := 0 } }
      else { s with y.boot := { s.y.boot with stage := b.stage + 1, bound := s.clk.tclk + stageBound (b.stage + 1) } })

/-- R388: BOOT_STAGE_TIMEOUT: a start fails for REASON 1 to 5; 3 is an exceeded bound. -/
def execBootStageTimeout (reason : Nat) (s : State) : Host.Outcome State Fault Refusal :=
  .next (if s.y.boot.starting then s.startFailed (if 1 ≤ reason && reason ≤ 5 then reason else 3) else s)

/-- R388: POWER_LOSS. -/
def execPowerLoss (s : State) : Host.Outcome State Fault Refusal := .next s.lost

/-- R417: THERMAL_SHUTDOWN: the module is reset, and the shutdown counts as no failed start. -/
def execThermalShutdown (unit : Word) (s : State) : Host.Outcome State Fault Refusal :=
  let fails := if s.y.boot.starting then s.y.boot.fails - 1 else s.y.boot.fails
  let s := (s.logEvent unit.toNat 9 0 true 0 0).moduleReset
  .next { s with y.boot := { s.y.boot with fails := fails } }

end Sys2Proof.Machine
end

