-- ==== Sys2Proof/Machine/Integer.lean ====
section
/-! DEFINITION. The integer, logic, shift, bit-field, predicate and immediate instructions of class 0 (R189 to R200). -/

namespace Sys2Proof.Machine

open Sys2Proof

/-! ## Elements of a packed operand (Table 7.1) -/

/-- Bits of one element. -/
def elemBits (w : Nat) : Nat :=
  match w with
  | 0 => 32
  | 1 => 64
  | 2 => 16
  | _ => 8

/-- Elements of an operand. -/
def elemCount (w : Nat) : Nat :=
  match w with
  | 2 => 2
  | 3 => 4
  | _ => 1

/-- Element `e` of a packed operand, read signed unless `u`. -/
def elemAt (w : Nat) (u : Bool) (x e : Nat) : Int :=
  let n := elemBits w
  let y := bitsOf x (n * e) n
  if u then (y : Int) else signedOf y n

/-- R191: saturate to the element type. -/
def satInt (n : Nat) (u : Bool) (r : Int) : Int :=
  let lo : Int := if u then 0 else -(2 ^ (n - 1))
  let hi : Int := if u then 2 ^ n - 1 else 2 ^ (n - 1) - 1
  if r < lo then lo else if hi < r then hi else r

/-- Put elements together, element 0 lowest. -/
def packElems (n : Nat) : List Nat → Nat
  | [] => 0
  | x :: xs => x % 2 ^ n + 2 ^ n * packElems n xs

/-- R191: the destination from an exact result per element. -/
def packInt (w : Nat) (u sat : Bool) (r : Nat → Int) : Nat :=
  let n := elemBits w
  packElems n ((List.range (elemCount w)).map fun e => wrapNat (if sat then satInt n u (r e) else r e) n)

/-- The operands of an integer operation in a lane, as raw bits. -/
structure IntArgs where
  w : Nat
  u : Bool
  sat : Bool
  opx : Nat
  x : Nat
  y : Nat
  z : Nat
  deriving DecidableEq, Repr

/-- R189, R191: read an integer operation's operands, each as wide as its entry says. -/
def State.intArgs (s : State) (i : Iss) (l : Lane) : IntArgs :=
  let m := i.f.md
  let sp := spec i.cls i.op i.f
  let rd := fun (c : Code) (k : SK) => s.intVal l.t i.f.lit c (skWidth k) (mdW m) (mdU m)
  ⟨mdW m, mdU m, mdSat m, mdOpx m, rd i.f.a sp.a, rd i.f.b sp.b, rd i.f.c sp.c⟩

/-- An operation whose exact result per element is a function of the elements of a, b and c. -/
def intOut (r : Nat → Int → Int → Int → Int) (s : State) (i : Iss) (l : Lane) : AluOut :=
  let a := s.intArgs i l
  let el := elemAt a.w a.u
  ⟨wordsOf (packInt a.w a.u a.sat fun e => r (elemBits a.w) (el a.x e) (el a.y e) (el a.z e)) (intRegs a.w), 0, none⟩

/-- An operation over the raw bits of its operands, with a result of `regs` registers. -/
def bitOut (regs : IntArgs → Nat) (r : IntArgs → Nat) (s : State) (i : Iss) (l : Lane) : AluOut :=
  let a := s.intArgs i l
  ⟨wordsOf (r a) (regs a), 0, none⟩

/-- The registers of a destination of the element layout. -/
def regsLay (a : IntArgs) : Nat := intRegs a.w
/-- One 32-bit register or predicate. -/
def regsOne (_ : IntArgs) : Nat := 1
/-- A pair. -/
def regsTwo (_ : IntArgs) : Nat := 2

/-- Bits chosen one by one. -/
def bitwise (n : Nat) (p : Nat → Bool) : Nat := (List.range n).foldl (fun acc k => if p k then acc + 2 ^ k else acc) 0

/-! ## Results of Table 7.3 -/

def rAdd (_ : Nat) (x y _z : Int) : Int := x + y
def rSub (_ : Nat) (x y _z : Int) : Int := x - y
def rMul (_ : Nat) (x y _z : Int) : Int := x * y
def rMulh (n : Nat) (x y _z : Int) : Int := x * y / 2 ^ n
def rMad (_ : Nat) (x y z : Int) : Int := x * y + z
def rAbs (_ : Nat) (x _y _z : Int) : Int := x.natAbs
def rMin (_ : Nat) (x y _z : Int) : Int := if x ≤ y then x else y
def rMax (_ : Nat) (x y _z : Int) : Int := if y ≤ x then x else y

/-- IMADW: x × y + z wrapped to 64 bits. -/
def rMadw (a : IntArgs) : Nat := wrapNat (elemAt 0 a.u a.x 0 * elemAt 0 a.u a.y 0 + (a.z : Int)) 64

/-- R192: ICMP into a register gives all ones or 0 in each element; for W = 1 one register of 32 bits. -/
def rCmp (a : IntArgs) : Nat :=
  let t := fun e => icmpHolds a.opx (elemAt a.w a.u a.x e) (elemAt a.w a.u a.y e)
  let n := if a.w = 1 then 32 else elemBits a.w
  packElems n ((List.range (elemCount a.w)).map fun e => if t e then 2 ^ n - 1 else 0)

/-- R192: the one comparison that a predicate receives. -/
def rCmpPred (a : IntArgs) : Nat := if icmpHolds a.opx (elemAt a.w a.u a.x 0) (elemAt a.w a.u a.y 0) then 1 else 0

/-- R193. -/
def rSel (a : IntArgs) : Nat := if a.z ≠ 0 then a.x else a.y

/-- y, or not y under INVB. -/
def invB (a : IntArgs) : Nat := if a.opx % 2 = 1 then 2 ^ elemBits a.w - 1 - a.y else a.y

def rAnd (a : IntArgs) : Nat := a.x &&& invB a
def rOr (a : IntArgs) : Nat := a.x ||| invB a
def rXor (a : IntArgs) : Nat := a.x ^^^ invB a

/-- R194: bit i is entry aᵢ + 2bᵢ + 4cᵢ of the table. -/
def rLop3 (tt : BitVec 8) (n x y z : Nat) : Nat :=
  bitwise n fun k => tt.getLsbD
    ((if x.testBit k then 1 else 0) + (if y.testBit k then 2 else 0) + (if z.testBit k then 4 else 0))

/-- R195: a shift element by element; for W = 1 the amount is all of the 32-bit b. -/
def shiftBy (r : Nat → Nat → Nat → Nat) (a : IntArgs) : Nat :=
  let n := elemBits a.w
  packElems n ((List.range (elemCount a.w)).map fun e =>
    r n (bitsOf a.x (n * e) n) (if a.w = 2 then bitsOf a.y (16 * e) 16 else a.y))

def rShl (n x k : Nat) : Nat := if k < n then x * 2 ^ k % 2 ^ n else 0
def rShr (n x k : Nat) : Nat := if k < n then x / 2 ^ k else 0
def rSar (n x k : Nat) : Nat := wrapNat (signedOf x n / 2 ^ (if k < n then k else n)) n

/-- R195: rotate left, or right under DIR. -/
def rRot (a : IntArgs) : Nat :=
  let n := elemBits a.w
  let k := a.y % n
  let k := if a.opx % 2 = 1 then (n - k) % n else k
  a.x * 2 ^ k % 2 ^ n + a.x / 2 ^ (n - k)

/-- R195. -/
def rFunnel (a : IntArgs) : Nat :=
  let w := a.y * 2 ^ 32 + a.x
  let k := a.z % 32
  if a.opx % 2 = 1 then w * 2 ^ k / 2 ^ 32 % 2 ^ 32 else w / 2 ^ k % 2 ^ 32

def rPopc (a : IntArgs) : Nat := ((List.range (elemBits a.w)).filter fun k => a.x.testBit k).length
def rClz (a : IntArgs) : Nat := if a.x = 0 then elemBits a.w else elemBits a.w - 1 - Nat.log2 a.x
def rBrev (a : IntArgs) : Nat := bitwise (elemBits a.w) fun k => a.x.testBit (elemBits a.w - 1 - k)

/-- R196: position and length of a field of an n-bit value; length 0 where the field is empty. -/
def bitField (n y : Nat) : Nat × Nat :=
  let p := y % 256
  let l := y / 256 % 256
  if l = 0 ∨ n ≤ p then (0, 0) else (p, min l (n - p))

/-- R196. -/
def rBfx (a : IntArgs) : Nat :=
  let n := elemBits a.w
  let (p, l) := bitField n a.y
  if l = 0 then 0
  else if a.u then bitsOf a.x p l
  else wrapNat (signedOf (bitsOf a.x p l) l) n

/-- R196. -/
def rBfi (a : IntArgs) : Nat :=
  let n := elemBits a.w
  let (p, l) := bitField n a.z
  if l = 0 then a.x
  else bitwise n fun k => if p ≤ k && k < p + l then a.y.testBit (k - p) else a.x.testBit k

def rMov (a : IntArgs) : Nat := a.y

/-- R197. -/
def rLea (a : IntArgs) : Nat :=
  let y : Int := if a.u then (a.y : Int) else signedOf a.y 32
  wrapNat ((a.x : Int) + y * 2 ^ a.opx) 64

/-- R198. -/
def rPset (a : IntArgs) : Nat := if ((a.x &&& a.y) != 0) != (a.opx % 2 = 1) then 1 else 0

/-! ## Words that give one lane's result -/

def iaddOut := intOut rAdd
def isubOut := intOut rSub
def imulOut := intOut rMul
def imulhOut := intOut rMulh
def imadOut := intOut rMad
def imadwOut := bitOut regsTwo rMadw
def iabsOut := intOut rAbs
def iminOut := intOut rMin
def imaxOut := intOut rMax

/-- R192. -/
def icmpOut (s : State) (i : Iss) (l : Lane) : AluOut :=
  match Opnd.ofCode i.f.dst with
  | .pred _ => bitOut regsOne rCmpPred s i l
  | _ => bitOut regsOne rCmp s i l

def iselOut := bitOut regsLay rSel
def andOut := bitOut regsLay rAnd
def orOut := bitOut regsLay rOr
def xorOut := bitOut regsLay rXor

/-- R194: LOP3 reads MOD as a table and W, not as Table 7.1. Its operands are untyped, so a literal is zero-extended (R176). -/
def lop3Out (s : State) (i : Iss) (l : Lane) : AluOut :=
  let w := mdW i.f.md
  let rd := fun c => s.intVal l.t i.f.lit c (intRegs w) w true
  ⟨wordsOf (rLop3 (i.f.md.extractLsb' 2 8) (elemBits w) (rd i.f.a) (rd i.f.b) (rd i.f.c)) (intRegs w), 0, none⟩

def shlOut := bitOut regsLay (shiftBy rShl)
def shrOut := bitOut regsLay (shiftBy rShr)
def sarOut := bitOut regsLay (shiftBy rSar)
def rotOut := bitOut regsLay rRot
def funnelOut := bitOut regsOne rFunnel
def popcOut := bitOut regsOne rPopc
def clzOut := bitOut regsOne rClz
def brevOut := bitOut regsLay rBrev
def bfxOut := bitOut regsLay rBfx
def bfiOut := bitOut regsLay rBfi
def movOut := bitOut regsLay rMov
def leaOut := bitOut regsTwo rLea
def psetOut := bitOut regsOne rPset

/-- R199: bit 4a + 2b + c of LUT. -/
def plopOut (s : State) (i : Iss) (l : Lane) : AluOut :=
  let b := fun c => if s.rdPred l.t c then 1 else 0
  let k := 4 * b i.f.a + 2 * b i.f.b + b i.f.c
  ⟨[if (i.f.md.extractLsb' 2 8).getLsbD k then 1 else 0], 0, none⟩

/-- R200. -/
def lilOut (_ : State) (i : Iss) (_ : Lane) : AluOut := ⟨[i.f.imm.zeroExtend 32], 0, none⟩

/-- R200. -/
def lihOut (s : State) (i : Iss) (l : Lane) : AluOut :=
  ⟨[BitVec.ofNat 32 (i.f.imm.toNat * 65536 + s.rd32 l.t i.f.lit i.f.a % 65536)], 0, none⟩

/-! ## The instructions -/

/-- R191: d = x + y in each element; short form. -/
def execIadd (f : SForm) (s : State) : Host.Outcome State Fault Refusal :=
  runWord (.iadd f) (.alu lat4 iaddOut) s

/-- R191: d = x + y in each element; long form. -/
def execIaddLong (f : LForm) (s : State) : Host.Outcome State Fault Refusal :=
  runWord (.iaddLong f) (.alu lat4 iaddOut) s

/-- R191: d = x − y in each element; short form. -/
def execIsub (f : SForm) (s : State) : Host.Outcome State Fault Refusal :=
  runWord (.isub f) (.alu lat4 isubOut) s

/-- R191: d = x − y in each element; long form. -/
def execIsubLong (f : LForm) (s : State) : Host.Outcome State Fault Refusal :=
  runWord (.isubLong f) (.alu lat4 isubOut) s

/-- R191: d = x × y in each element; short form. -/
def execImul (f : SForm) (s : State) : Host.Outcome State Fault Refusal :=
  runWord (.imul f) (.alu lat4 imulOut) s

/-- R191: d = x × y in each element; long form. -/
def execImulLong (f : LForm) (s : State) : Host.Outcome State Fault Refusal :=
  runWord (.imulLong f) (.alu lat4 imulOut) s

/-- R191: d = floor(x × y ÷ 2ⁿ) in each element; short form. -/
def execImulh (f : SForm) (s : State) : Host.Outcome State Fault Refusal :=
  runWord (.imulh f) (.alu lat4 imulhOut) s

/-- R191: d = floor(x × y ÷ 2ⁿ) in each element; long form. -/
def execImulhLong (f : LForm) (s : State) : Host.Outcome State Fault Refusal :=
  runWord (.imulhLong f) (.alu lat4 imulhOut) s

/-- R191: d = x × y + z in each element. -/
def execImad (f : LForm) (s : State) : Host.Outcome State Fault Refusal :=
  runWord (.imad f) (.alu lat4 imadOut) s

/-- R191: d = x × y + z in 64 bits. -/
def execImadw (f : LForm) (s : State) : Host.Outcome State Fault Refusal :=
  runWord (.imadw f) (.alu lat4 imadwOut) s

/-- R191: d = abs(x) in each element; short form. -/
def execIabs (f : SForm) (s : State) : Host.Outcome State Fault Refusal :=
  runWord (.iabs f) (.alu lat4 iabsOut) s

/-- R191: d = abs(x) in each element; long form. -/
def execIabsLong (f : LForm) (s : State) : Host.Outcome State Fault Refusal :=
  runWord (.iabsLong f) (.alu lat4 iabsOut) s

/-- R191: the smaller of x and y; short form. -/
def execImin (f : SForm) (s : State) : Host.Outcome State Fault Refusal :=
  runWord (.imin f) (.alu lat4 iminOut) s

/-- R191: the smaller of x and y; long form. -/
def execIminLong (f : LForm) (s : State) : Host.Outcome State Fault Refusal :=
  runWord (.iminLong f) (.alu lat4 iminOut) s

/-- R191: the larger of x and y; short form. -/
def execImax (f : SForm) (s : State) : Host.Outcome State Fault Refusal :=
  runWord (.imax f) (.alu lat4 imaxOut) s

/-- R191: the larger of x and y; long form. -/
def execImaxLong (f : LForm) (s : State) : Host.Outcome State Fault Refusal :=
  runWord (.imaxLong f) (.alu lat4 imaxOut) s

/-- R192: comparison of x and y; short form. -/
def execIcmp (f : SForm) (s : State) : Host.Outcome State Fault Refusal :=
  runWord (.icmp f) (.alu lat4 icmpOut) s

/-- R192: comparison of x and y; long form. -/
def execIcmpLong (f : LForm) (s : State) : Host.Outcome State Fault Refusal :=
  runWord (.icmpLong f) (.alu lat4 icmpOut) s

/-- R193: x where the predicate c holds, else y. -/
def execIsel (f : LForm) (s : State) : Host.Outcome State Fault Refusal :=
  runWord (.isel f) (.alu lat4 iselOut) s

/-- R191: x and y, with INVB x and not y; short form. -/
def execAndI (f : SForm) (s : State) : Host.Outcome State Fault Refusal :=
  runWord (.andI f) (.alu lat4 andOut) s

/-- R191: x and y, with INVB x and not y; long form. -/
def execAndLong (f : LForm) (s : State) : Host.Outcome State Fault Refusal :=
  runWord (.andLong f) (.alu lat4 andOut) s

/-- R191: x or y, with INVB x or not y; short form. -/
def execOrI (f : SForm) (s : State) : Host.Outcome State Fault Refusal :=
  runWord (.orI f) (.alu lat4 orOut) s

/-- R191: x or y, with INVB x or not y; long form. -/
def execOrLong (f : LForm) (s : State) : Host.Outcome State Fault Refusal :=
  runWord (.orLong f) (.alu lat4 orOut) s

/-- R191: x xor y, with INVB x xor not y; short form. -/
def execXorI (f : SForm) (s : State) : Host.Outcome State Fault Refusal :=
  runWord (.xorI f) (.alu lat4 xorOut) s

/-- R191: x xor y, with INVB x xor not y; long form. -/
def execXorLong (f : LForm) (s : State) : Host.Outcome State Fault Refusal :=
  runWord (.xorLong f) (.alu lat4 xorOut) s

/-- R194: any function of three bits. -/
def execLop3 (f : LForm) (s : State) : Host.Outcome State Fault Refusal :=
  runWord (.lop3 f) (.alu lat4 lop3Out) s

/-- R195: shift left; short form. -/
def execShl (f : SForm) (s : State) : Host.Outcome State Fault Refusal :=
  runWord (.shl f) (.alu lat4 shlOut) s

/-- R195: shift left; long form. -/
def execShlLong (f : LForm) (s : State) : Host.Outcome State Fault Refusal :=
  runWord (.shlLong f) (.alu lat4 shlOut) s

/-- R195: logical shift right; short form. -/
def execShr (f : SForm) (s : State) : Host.Outcome State Fault Refusal :=
  runWord (.shr f) (.alu lat4 shrOut) s

/-- R195: logical shift right; long form. -/
def execShrLong (f : LForm) (s : State) : Host.Outcome State Fault Refusal :=
  runWord (.shrLong f) (.alu lat4 shrOut) s

/-- R195: arithmetic shift right; short form. -/
def execSar (f : SForm) (s : State) : Host.Outcome State Fault Refusal :=
  runWord (.sar f) (.alu lat4 sarOut) s

/-- R195: arithmetic shift right; long form. -/
def execSarLong (f : LForm) (s : State) : Host.Outcome State Fault Refusal :=
  runWord (.sarLong f) (.alu lat4 sarOut) s

/-- R195: rotate; short form. -/
def execRot (f : SForm) (s : State) : Host.Outcome State Fault Refusal :=
  runWord (.rot f) (.alu lat4 rotOut) s

/-- R195: rotate; long form. -/
def execRotLong (f : LForm) (s : State) : Host.Outcome State Fault Refusal :=
  runWord (.rotLong f) (.alu lat4 rotOut) s

/-- R195: funnel shift. -/
def execFunnel (f : LForm) (s : State) : Host.Outcome State Fault Refusal :=
  runWord (.funnel f) (.alu lat4 funnelOut) s

/-- R191: number of bits set; short form. -/
def execPopc (f : SForm) (s : State) : Host.Outcome State Fault Refusal :=
  runWord (.popc f) (.alu lat4 popcOut) s

/-- R191: number of bits set; long form. -/
def execPopcLong (f : LForm) (s : State) : Host.Outcome State Fault Refusal :=
  runWord (.popcLong f) (.alu lat4 popcOut) s

/-- R191: leading zero bits; short form. -/
def execClz (f : SForm) (s : State) : Host.Outcome State Fault Refusal :=
  runWord (.clz f) (.alu lat4 clzOut) s

/-- R191: leading zero bits; long form. -/
def execClzLong (f : LForm) (s : State) : Host.Outcome State Fault Refusal :=
  runWord (.clzLong f) (.alu lat4 clzOut) s

/-- R191: bits reversed; short form. -/
def execBrev (f : SForm) (s : State) : Host.Outcome State Fault Refusal :=
  runWord (.brev f) (.alu lat4 brevOut) s

/-- R191: bits reversed; long form. -/
def execBrevLong (f : LForm) (s : State) : Host.Outcome State Fault Refusal :=
  runWord (.brevLong f) (.alu lat4 brevOut) s

/-- R196: bit-field extract; short form. -/
def execBfx (f : SForm) (s : State) : Host.Outcome State Fault Refusal :=
  runWord (.bfx f) (.alu lat4 bfxOut) s

/-- R196: bit-field extract; long form. -/
def execBfxLong (f : LForm) (s : State) : Host.Outcome State Fault Refusal :=
  runWord (.bfxLong f) (.alu lat4 bfxOut) s

/-- R196: bit-field insert. -/
def execBfi (f : LForm) (s : State) : Host.Outcome State Fault Refusal :=
  runWord (.bfi f) (.alu lat4 bfiOut) s

/-- R191: d = y; short form. -/
def execMov (f : SForm) (s : State) : Host.Outcome State Fault Refusal :=
  runWord (.mov f) (.alu lat4 movOut) s

/-- R191: d = y; long form. -/
def execMovLong (f : LForm) (s : State) : Host.Outcome State Fault Refusal :=
  runWord (.movLong f) (.alu lat4 movOut) s

/-- R197: 64-bit address arithmetic; short form. -/
def execLea (f : SForm) (s : State) : Host.Outcome State Fault Refusal :=
  runWord (.lea f) (.alu lat4 leaOut) s

/-- R197: 64-bit address arithmetic; long form. -/
def execLeaLong (f : LForm) (s : State) : Host.Outcome State Fault Refusal :=
  runWord (.leaLong f) (.alu lat4 leaOut) s

/-- R199: predicate logic. -/
def execPlop (f : LForm) (s : State) : Host.Outcome State Fault Refusal :=
  runWord (.plop f) (.alu lat4 plopOut) s

/-- R198: bit test into a predicate; short form. -/
def execPset (f : SForm) (s : State) : Host.Outcome State Fault Refusal :=
  runWord (.pset f) (.alu lat4 psetOut) s

/-- R198: bit test into a predicate; long form. -/
def execPsetLong (f : LForm) (s : State) : Host.Outcome State Fault Refusal :=
  runWord (.psetLong f) (.alu lat4 psetOut) s

/-- R200: zero-extended immediate. -/
def execLil (f : DForm) (s : State) : Host.Outcome State Fault Refusal :=
  runWord (.lil f) (.alu lat4 lilOut) s

/-- R200: the upper half replaced. -/
def execLih (f : DForm) (s : State) : Host.Outcome State Fault Refusal :=
  runWord (.lih f) (.alu lat4 lihOut) s

end Sys2Proof.Machine
end

