-- ==== Sys2Proof/Machine/Dispatch.lean ====
section
/-! DEFINITION. The dispatch of every instruction, event, command and message to its meaning. -/

namespace Sys2Proof.Machine

/-- What each instruction, event, command or message does to the machine. -/
def exec (i : Instr) (s : State) : Host.Outcome State Fault Refusal :=
  match i with
  | .nop f => Sys2Proof.Machine.execNop f s
  | .nopLong f => Sys2Proof.Machine.execNopLong f s
  | .reconv f => Sys2Proof.Machine.execReconv f s
  | .reconvLong f => Sys2Proof.Machine.execReconvLong f s
  | .yield f => Sys2Proof.Machine.execYield f s
  | .yieldLong f => Sys2Proof.Machine.execYieldLong f s
  | .trap f => Sys2Proof.Machine.execTrap f s
  | .trapLong f => Sys2Proof.Machine.execTrapLong f s
  | .region f => Sys2Proof.Machine.execRegion f s
  | .regionLong f => Sys2Proof.Machine.execRegionLong f s
  | .regend f => Sys2Proof.Machine.execRegend f s
  | .regendLong f => Sys2Proof.Machine.execRegendLong f s
  | .bar f => Sys2Proof.Machine.execBar f s
  | .barLong f => Sys2Proof.Machine.execBarLong f s
  | .barp f => Sys2Proof.Machine.execBarp f s
  | .barpLong f => Sys2Proof.Machine.execBarpLong f s
  | .iadd f => Sys2Proof.Machine.execIadd f s
  | .iaddLong f => Sys2Proof.Machine.execIaddLong f s
  | .isub f => Sys2Proof.Machine.execIsub f s
  | .isubLong f => Sys2Proof.Machine.execIsubLong f s
  | .imul f => Sys2Proof.Machine.execImul f s
  | .imulLong f => Sys2Proof.Machine.execImulLong f s
  | .imulh f => Sys2Proof.Machine.execImulh f s
  | .imulhLong f => Sys2Proof.Machine.execImulhLong f s
  | .imad f => Sys2Proof.Machine.execImad f s
  | .imadw f => Sys2Proof.Machine.execImadw f s
  | .iabs f => Sys2Proof.Machine.execIabs f s
  | .iabsLong f => Sys2Proof.Machine.execIabsLong f s
  | .imin f => Sys2Proof.Machine.execImin f s
  | .iminLong f => Sys2Proof.Machine.execIminLong f s
  | .imax f => Sys2Proof.Machine.execImax f s
  | .imaxLong f => Sys2Proof.Machine.execImaxLong f s
  | .icmp f => Sys2Proof.Machine.execIcmp f s
  | .icmpLong f => Sys2Proof.Machine.execIcmpLong f s
  | .isel f => Sys2Proof.Machine.execIsel f s
  | .andI f => Sys2Proof.Machine.execAndI f s
  | .andLong f => Sys2Proof.Machine.execAndLong f s
  | .orI f => Sys2Proof.Machine.execOrI f s
  | .orLong f => Sys2Proof.Machine.execOrLong f s
  | .xorI f => Sys2Proof.Machine.execXorI f s
  | .xorLong f => Sys2Proof.Machine.execXorLong f s
  | .lop3 f => Sys2Proof.Machine.execLop3 f s
  | .shl f => Sys2Proof.Machine.execShl f s
  | .shlLong f => Sys2Proof.Machine.execShlLong f s
  | .shr f => Sys2Proof.Machine.execShr f s
  | .shrLong f => Sys2Proof.Machine.execShrLong f s
  | .sar f => Sys2Proof.Machine.execSar f s
  | .sarLong f => Sys2Proof.Machine.execSarLong f s
  | .rot f => Sys2Proof.Machine.execRot f s
  | .rotLong f => Sys2Proof.Machine.execRotLong f s
  | .funnel f => Sys2Proof.Machine.execFunnel f s
  | .popc f => Sys2Proof.Machine.execPopc f s
  | .popcLong f => Sys2Proof.Machine.execPopcLong f s
  | .clz f => Sys2Proof.Machine.execClz f s
  | .clzLong f => Sys2Proof.Machine.execClzLong f s
  | .brev f => Sys2Proof.Machine.execBrev f s
  | .brevLong f => Sys2Proof.Machine.execBrevLong f s
  | .bfx f => Sys2Proof.Machine.execBfx f s
  | .bfxLong f => Sys2Proof.Machine.execBfxLong f s
  | .bfi f => Sys2Proof.Machine.execBfi f s
  | .mov f => Sys2Proof.Machine.execMov f s
  | .movLong f => Sys2Proof.Machine.execMovLong f s
  | .lea f => Sys2Proof.Machine.execLea f s
  | .leaLong f => Sys2Proof.Machine.execLeaLong f s
  | .plop f => Sys2Proof.Machine.execPlop f s
  | .pset f => Sys2Proof.Machine.execPset f s
  | .psetLong f => Sys2Proof.Machine.execPsetLong f s
  | .rdsr f => Sys2Proof.Machine.execRdsr f s
  | .rdsrLong f => Sys2Proof.Machine.execRdsrLong f s
  | .wrsr f => Sys2Proof.Machine.execWrsr f s
  | .wrsrLong f => Sys2Proof.Machine.execWrsrLong f s
  | .lil f => Sys2Proof.Machine.execLil f s
  | .lih f => Sys2Proof.Machine.execLih f s
  | .jrole f => Sys2Proof.Machine.execJrole f s
  | .bra f => Sys2Proof.Machine.execBra f s
  | .brx f => Sys2Proof.Machine.execBrx f s
  | .call f => Sys2Proof.Machine.execCall f s
  | .callx f => Sys2Proof.Machine.execCallx f s
  | .ret f => Sys2Proof.Machine.execRet f s
  | .exit f => Sys2Proof.Machine.execExit f s
  | .fadd f => Sys2Proof.Machine.execFadd f s
  | .faddLong f => Sys2Proof.Machine.execFaddLong f s
  | .fsub f => Sys2Proof.Machine.execFsub f s
  | .fsubLong f => Sys2Proof.Machine.execFsubLong f s
  | .fmul f => Sys2Proof.Machine.execFmul f s
  | .fmulLong f => Sys2Proof.Machine.execFmulLong f s
  | .ffma f => Sys2Proof.Machine.execFfma f s
  | .fmin f => Sys2Proof.Machine.execFmin f s
  | .fminLong f => Sys2Proof.Machine.execFminLong f s
  | .fmax f => Sys2Proof.Machine.execFmax f s
  | .fmaxLong f => Sys2Proof.Machine.execFmaxLong f s
  | .fcmp f => Sys2Proof.Machine.execFcmp f s
  | .fcmpLong f => Sys2Proof.Machine.execFcmpLong f s
  | .fclass f => Sys2Proof.Machine.execFclass f s
  | .fclassLong f => Sys2Proof.Machine.execFclassLong f s
  | .frnd f => Sys2Proof.Machine.execFrnd f s
  | .frndLong f => Sys2Proof.Machine.execFrndLong f s
  | .fdot2 f => Sys2Proof.Machine.execFdot2 f s
  | .fdot4 f => Sys2Proof.Machine.execFdot4 f s
  | .fscale f => Sys2Proof.Machine.execFscale f s
  | .fscaleLong f => Sys2Proof.Machine.execFscaleLong f s
  | .pack f => Sys2Proof.Machine.execPack f s
  | .packLong f => Sys2Proof.Machine.execPackLong f s
  | .unpk f => Sys2Proof.Machine.execUnpk f s
  | .unpkLong f => Sys2Proof.Machine.execUnpkLong f s
  | .cvt f => Sys2Proof.Machine.execCvt f s
  | .qblk f => Sys2Proof.Machine.execQblk f s
  | .frcp f => Sys2Proof.Machine.execFrcp f s
  | .frsq f => Sys2Proof.Machine.execFrsq f s
  | .fsqrt f => Sys2Proof.Machine.execFsqrt f s
  | .fexp2 f => Sys2Proof.Machine.execFexp2 f s
  | .flog2 f => Sys2Proof.Machine.execFlog2 f s
  | .fsin f => Sys2Proof.Machine.execFsin f s
  | .fcos f => Sys2Proof.Machine.execFcos f s
  | .ftanh f => Sys2Proof.Machine.execFtanh f s
  | .fsigm f => Sys2Proof.Machine.execFsigm f s
  | .ld f => Sys2Proof.Machine.execLd f s
  | .st f => Sys2Proof.Machine.execSt f s
  | .stLong f => Sys2Proof.Machine.execStLong f s
  | .lds f => Sys2Proof.Machine.execLds f s
  | .sts f => Sys2Proof.Machine.execSts f s
  | .stsLong f => Sys2Proof.Machine.execStsLong f s
  | .ldc f => Sys2Proof.Machine.execLdc f s
  | .atom f => Sys2Proof.Machine.execAtom f s
  | .atoms f => Sys2Proof.Machine.execAtoms f s
  | .cas f => Sys2Proof.Machine.execCas f s
  | .cass f => Sys2Proof.Machine.execCass f s
  | .red f => Sys2Proof.Machine.execRed f s
  | .redLong f => Sys2Proof.Machine.execRedLong f s
  | .fence f => Sys2Proof.Machine.execFence f s
  | .fenceLong f => Sys2Proof.Machine.execFenceLong f s
  | .lease f => Sys2Proof.Machine.execLease f s
  | .leaseLong f => Sys2Proof.Machine.execLeaseLong f s
  | .pref f => Sys2Proof.Machine.execPref f s
  | .prefLong f => Sys2Proof.Machine.execPrefLong f s
  | .pres f => Sys2Proof.Machine.execPres f s
  | .vote f => Sys2Proof.Machine.execVote f s
  | .shfl f => Sys2Proof.Machine.execShfl f s
  | .redt f => Sys2Proof.Machine.execRedt f s
  | .scant f => Sys2Proof.Machine.execScant f s
  | .matchI f => Sys2Proof.Machine.execMatchI f s
  | .elect f => Sys2Proof.Machine.execElect f s
  | .actmask f => Sys2Proof.Machine.execActmask f s
  | .tbar f => Sys2Proof.Machine.execTbar f s
  | .tbarLong f => Sys2Proof.Machine.execTbarLong f s
  | .copy f => Sys2Proof.Machine.execCopy f s
  | .copyLong f => Sys2Proof.Machine.execCopyLong f s
  | .copym f => Sys2Proof.Machine.execCopym f s
  | .copymLong f => Sys2Proof.Machine.execCopymLong f s
  | .seal f => Sys2Proof.Machine.execSeal f s
  | .sealLong f => Sys2Proof.Machine.execSealLong f s
  | .waitb f => Sys2Proof.Machine.execWaitb f s
  | .waitbLong f => Sys2Proof.Machine.execWaitbLong f s
  | .osbres f => Sys2Proof.Machine.execOsbres f s
  | .osbrel f => Sys2Proof.Machine.execOsbrel f s
  | .osbrelLong f => Sys2Proof.Machine.execOsbrelLong f s
  | .plload f => Sys2Proof.Machine.execPlload f s
  | .plloadLong f => Sys2Proof.Machine.execPlloadLong f s
  | .plfree f => Sys2Proof.Machine.execPlfree f s
  | .plfreeLong f => Sys2Proof.Machine.execPlfreeLong f s
  | .mxfence f => Sys2Proof.Machine.execMxfence f s
  | .mxfenceLong f => Sys2Proof.Machine.execMxfenceLong f s
  | .mxissue f => Sys2Proof.Machine.execMxissue f s
  | .mxwait f => Sys2Proof.Machine.execMxwait f s
  | .mxwaitLong f => Sys2Proof.Machine.execMxwaitLong f s
  | .vrel f => Sys2Proof.Machine.execVrel f s
  | .vrelLong f => Sys2Proof.Machine.execVrelLong f s
  | .vtrd f => Sys2Proof.Machine.execVtrd f s
  | .vtwr f => Sys2Proof.Machine.execVtwr f s
  | .vtwrLong f => Sys2Proof.Machine.execVtwrLong f s
  | .chain f => Sys2Proof.Machine.execChain f s
  | .chainLong f => Sys2Proof.Machine.execChainLong f s
  | .chwait f => Sys2Proof.Machine.execChwait f s
  | .chwaitLong f => Sys2Proof.Machine.execChwaitLong f s
  | .enq f => Sys2Proof.Machine.execEnq f s
  | .enqLong f => Sys2Proof.Machine.execEnqLong f s
  | .enqi f => Sys2Proof.Machine.execEnqi f s
  | .enqiLong f => Sys2Proof.Machine.execEnqiLong f s
  | .deqmore f => Sys2Proof.Machine.execDeqmore f s
  | .qlen f => Sys2Proof.Machine.execQlen f s
  | .decdep f => Sys2Proof.Machine.execDecdep f s
  | .decdepLong f => Sys2Proof.Machine.execDecdepLong f s
  | .launch f => Sys2Proof.Machine.execLaunch f s
  | .launchLong f => Sys2Proof.Machine.execLaunchLong f s
  | .arcinit f => Sys2Proof.Machine.execArcinit f s
  | .arcinitLong f => Sys2Proof.Machine.execArcinitLong f s
  | .arcadd f => Sys2Proof.Machine.execArcadd f s
  | .arcaddLong f => Sys2Proof.Machine.execArcaddLong f s
  | .arcwait f => Sys2Proof.Machine.execArcwait f s
  | .arcwaitLong f => Sys2Proof.Machine.execArcwaitLong f s
  | .arcwaitSwap f => Sys2Proof.Machine.execArcwaitSwap f s
  | .pldem f => Sys2Proof.Machine.execPldem f s
  | .pldemLong f => Sys2Proof.Machine.execPldemLong f s
  | .plstate f => Sys2Proof.Machine.execPlstate f s
  | .gate f => Sys2Proof.Machine.execGate f s
  | .gateLong f => Sys2Proof.Machine.execGateLong f s
  | .lblrd f => Sys2Proof.Machine.execLblrd f s
  | .give f => Sys2Proof.Machine.execGive f s
  | .giveLong f => Sys2Proof.Machine.execGiveLong f s
  | .claim f => Sys2Proof.Machine.execClaim f s
  | .claimLong f => Sys2Proof.Machine.execClaimLong f s
  | .syscall f => Sys2Proof.Machine.execSyscall f s
  | .quadrantIssueCycle core quad => Sys2Proof.Machine.execQuadrantIssueCycle core quad s
  | .bar4Access fn a => Sys2Proof.Machine.execBar4Access fn a s
  | .cxlMemAccess fn a => Sys2Proof.Machine.execCxlMemAccess fn a s
  | .setcore c => Sys2Proof.Machine.execSetcore c s
  | .setmem c => Sys2Proof.Machine.execSetmem c s
  | .setslices c => Sys2Proof.Machine.execSetslices c s
  | .mapframes c => Sys2Proof.Machine.execMapframes c s
  | .relframes c => Sys2Proof.Machine.execRelframes c s
  | .sets2 c => Sys2Proof.Machine.execSets2 c s
  | .setctx c => Sys2Proof.Machine.execSetctx c s
  | .inval c => Sys2Proof.Machine.execInval c s
  | .killctx c => Sys2Proof.Machine.execKillctx c s
  | .setfilter c => Sys2Proof.Machine.execSetfilter c s
  | .setorr c => Sys2Proof.Machine.execSetorr c s
  | .evict c => Sys2Proof.Machine.execEvict c s
  | .savearea c => Sys2Proof.Machine.execSavearea c s
  | .fabwin c => Sys2Proof.Machine.execFabwin c s
  | .getreport c => Sys2Proof.Machine.execGetreport c s
  | .getcert c => Sys2Proof.Machine.execGetcert c s
  | .fwstage c => Sys2Proof.Machine.execFwstage c s
  | .bindslot c => Sys2Proof.Machine.execBindslot c s
  | .unbindslot c => Sys2Proof.Machine.execUnbindslot c s
  | .bindfn c => Sys2Proof.Machine.execBindfn c s
  | .setgrant c => Sys2Proof.Machine.execSetgrant c s
  | .polinstall c => Sys2Proof.Machine.execPolinstall c s
  | .polrevoke c => Sys2Proof.Machine.execPolrevoke c s
  | .polread c => Sys2Proof.Machine.execPolread c s
  | .plpool c => Sys2Proof.Machine.execPlpool c s
  | .meshdef c => Sys2Proof.Machine.execMeshdef c s
  | .plinstall c => Sys2Proof.Machine.execPlinstall c s
  | .plremove c => Sys2Proof.Machine.execPlremove c s
  | .fwdcfg c => Sys2Proof.Machine.execFwdcfg c s
  | .portres c => Sys2Proof.Machine.execPortres c s
  | .stationid c => Sys2Proof.Machine.execStationid c s
  | .linkup c => Sys2Proof.Machine.execLinkup c s
  | .portquery c => Sys2Proof.Machine.execPortquery c s
  | .telemetry c => Sys2Proof.Machine.execTelemetry c s
  | .errlog c => Sys2Proof.Machine.execErrlog c s
  | .settherm c => Sys2Proof.Machine.execSettherm c s
  | .measlog c => Sys2Proof.Machine.execMeaslog c s
  | .survey c => Sys2Proof.Machine.execSurvey c s
  | .agePromotion pid => Sys2Proof.Machine.execAgePromotion pid s
  | .teamctlPromotion tid => Sys2Proof.Machine.execTeamctlPromotion tid s
  | .slotDecision part core => Sys2Proof.Machine.execSlotDecision part core s
  | .batchwaitExpiry q => Sys2Proof.Machine.execBatchwaitExpiry q s
  | .teamRetirement tid => Sys2Proof.Machine.execTeamRetirement tid s
  | .stageRunCompletionReport run => Sys2Proof.Machine.execStageRunCompletionReport run s
  | .cellarRefillStep q => Sys2Proof.Machine.execCellarRefillStep q s
  | .ephemerisPublish => Sys2Proof.Machine.execEphemerisPublish s
  | .forwardingDecision part port => Sys2Proof.Machine.execForwardingDecision part port s
  | .launchRecordAccept q => Sys2Proof.Machine.execLaunchRecordAccept q s
  | .gangDeadline gang => Sys2Proof.Machine.execGangDeadline gang s
  | .coherencePointAccess req => Sys2Proof.Machine.execCoherencePointAccess req s
  | .memoryResponse req => Sys2Proof.Machine.execMemoryResponse req s
  | .leaseExpiry core line => Sys2Proof.Machine.execLeaseExpiry core line s
  | .pinnedRetry req => Sys2Proof.Machine.execPinnedRetry req s
  | .pinnedLineTimeout req => Sys2Proof.Machine.execPinnedLineTimeout req s
  | .streamerWritePerform copy => Sys2Proof.Machine.execStreamerWritePerform copy s
  | .plateLoadComplete load => Sys2Proof.Machine.execPlateLoadComplete load s
  | .mxissueComplete core => Sys2Proof.Machine.execMxissueComplete core s
  | .chainElementStep core => Sys2Proof.Machine.execChainElementStep core s
  | .gateTransferAck gate => Sys2Proof.Machine.execGateTransferAck gate s
  | .syscallReply call => Sys2Proof.Machine.execSyscallReply call s
  | .syscallTimeout call => Sys2Proof.Machine.execSyscallTimeout call s
  | .teamSave tid => Sys2Proof.Machine.execTeamSave tid s
  | .drainDeadlineExpiry tid => Sys2Proof.Machine.execDrainDeadlineExpiry tid s
  | .notifyWrite fn bytes val => Sys2Proof.Machine.execNotifyWrite fn bytes val s
  | .launchSlotWrite fn slot off data => Sys2Proof.Machine.execLaunchSlotWrite fn slot off data s
  | .sealWaitTimeout k => Sys2Proof.Machine.execSealWaitTimeout k s
  | .lerrClear fn val => Sys2Proof.Machine.execLerrClear fn val s
  | .hifdrvWrite fn val => Sys2Proof.Machine.execHifdrvWrite fn val s
  | .apbaseWrite fn val => Sys2Proof.Machine.execApbaseWrite fn val s
  | .leasecfgWrite fn val => Sys2Proof.Machine.execLeasecfgWrite fn val s
  | .vfctlWrite vf val => Sys2Proof.Machine.execVfctlWrite vf val s
  | .fqlostClear fn val => Sys2Proof.Machine.execFqlostClear fn val s
  | .registerWrite fn off bytes val => Sys2Proof.Machine.execRegisterWrite fn off bytes val s
  | .fqresReissue fn token => Sys2Proof.Machine.execFqresReissue fn token s
  | .fqresTerminate fn token => Sys2Proof.Machine.execFqresTerminate fn token s
  | .fqresReflect fn token => Sys2Proof.Machine.execFqresReflect fn token s
  | .faultResolutionTimeout token => Sys2Proof.Machine.execFaultResolutionTimeout token s
  | .frameScrubComplete scrub => Sys2Proof.Machine.execFrameScrubComplete scrub s
  | .bootStart => Sys2Proof.Machine.execBootStart s
  | .bootStageTimeout reason => Sys2Proof.Machine.execBootStageTimeout reason s
  | .vfFlr vf => Sys2Proof.Machine.execVfFlr vf s
  | .vfEnableClear => Sys2Proof.Machine.execVfEnableClear s
  | .fabricRequest r => Sys2Proof.Machine.execFabricRequest r s
  | .fabricResponse r => Sys2Proof.Machine.execFabricResponse r s
  | .hello h port station range => Sys2Proof.Machine.execHello h port station range s
  | .clock h port prev => Sys2Proof.Machine.execClock h port prev s
  | .notifyMsg h seq slot => Sys2Proof.Machine.execNotifyMsg h seq slot s
  | .refuse h cause ref => Sys2Proof.Machine.execRefuse h cause ref s
  | .renq h req queue fwd rsz recs => Sys2Proof.Machine.execRenq h req queue fwd rsz recs s
  | .renqack h req status => Sys2Proof.Machine.execRenqack h req status s
  | .ephem h es => Sys2Proof.Machine.execEphem h es s
  | .gack h gang deadline => Sys2Proof.Machine.execGack h gang deadline s
  | .gabort h gang => Sys2Proof.Machine.execGabort h gang s
  | .preq h entry demand label core => Sys2Proof.Machine.execPreq h entry demand label core s
  | .pstart h entry conv demand epoch => Sys2Proof.Machine.execPstart h entry conv demand epoch s
  | .palloc h entry conv base lnew => Sys2Proof.Machine.execPalloc h entry conv base lnew s
  | .pready h entry conv status => Sys2Proof.Machine.execPready h entry conv status s
  | .pswitch h entry conv => Sys2Proof.Machine.execPswitch h entry conv s
  | .pabandon h entry conv reason => Sys2Proof.Machine.execPabandon h entry conv reason s
  | .pdone h entry conv epoch => Sys2Proof.Machine.execPdone h entry conv epoch s
  | .cprep h op cmd body arg0 => Sys2Proof.Machine.execCprep h op cmd body arg0 s
  | .cvote h cmd status => Sys2Proof.Machine.execCvote h cmd status s
  | .ccommit h cmd commit => Sys2Proof.Machine.execCcommit h cmd commit s
  | .resetMsg h part => Sys2Proof.Machine.execResetMsg h part s
  | .attreq h nonce => Sys2Proof.Machine.execAttreq h nonce s
  | .attresp h report => Sys2Proof.Machine.execAttresp h report s
  | .portLeavesActive port => Sys2Proof.Machine.execPortLeavesActive port s
  | .clockOutOfBound => Sys2Proof.Machine.execClockOutOfBound s
  | .uncorrectableError unit who addr => Sys2Proof.Machine.execUncorrectableError unit who addr s
  | .correctedErrorThreshold unit => Sys2Proof.Machine.execCorrectedErrorThreshold unit s
  | .selfTestComplete core pass => Sys2Proof.Machine.execSelfTestComplete core pass s
  | .rowSurveyComplete unit pass spare => Sys2Proof.Machine.execRowSurveyComplete unit pass spare s
  | .sliceSurveyComplete slice pass => Sys2Proof.Machine.execSliceSurveyComplete slice pass s
  | .clockWindow => Sys2Proof.Machine.execClockWindow s
  | .migrationChoice => Sys2Proof.Machine.execMigrationChoice s
  | .thermalShutdown unit => Sys2Proof.Machine.execThermalShutdown unit s
  | .ephemerisRemotePublication => Sys2Proof.Machine.execEphemerisRemotePublication s
  | .clockMessagePeriod => Sys2Proof.Machine.execClockMessagePeriod s
  | .gangIdRetentionExpiry gang => Sys2Proof.Machine.execGangIdRetentionExpiry gang s
  | .bootStageComplete => Sys2Proof.Machine.execBootStageComplete s
  | .powerLoss => Sys2Proof.Machine.execPowerLoss s
  | .dieMarkedHot die temp => Sys2Proof.Machine.execDieMarkedHot die temp s
  | .correctedError unit => Sys2Proof.Machine.execCorrectedError unit s
  | .vfEnableSet => Sys2Proof.Machine.execVfEnableSet s

end Sys2Proof.Machine
end

