-- ==== Sys2Proof/Machine/Install.lean ====
section
/-! DEFINITION. The installation of a graph image into a context, as the driver performs it from outside the machine: descriptors and the
refusals (R47, R48, R66, R78, R109, R116, R313, R340 to R344, R349). -/

namespace Sys2Proof.Machine

open Sys2Proof

/-- R348: a relocation of type ABS64: the section relocated and the offset in it, the section of its data symbol and the symbol's offset
there, and the addend. -/
structure Reloc where
  sec : Nat
  off : Nat
  symSec : Nat
  value : Nat
  addend : Int
  deriving DecidableEq, Repr

/-- R349: a graph image: the code from PC 0, the descriptors, the constant banks by section index with the label each is given, and what
the driver places in the partition's memory. -/
structure GraphImage where
  code : List Word
  stages : List (List Byte)
  queues : List (List Byte)
  tables : List (List Byte)
  consts : List (Nat × List Byte × Label)
  /-- DATA and ZERO sections: the section index, the global address that the driver gives it, and the bytes (zeros for ZERO). -/
  data : List (Nat × Nat × List Byte) := []
  /-- REL sections of type ABS64. -/
  rels : List Reloc := []
  deriving DecidableEq, Repr

/-- A 32-bit word of a descriptor. -/
def dword (bs : List Byte) (off : Nat) : Nat := field bs off 4

/-! ## Stages -/

/-- Table 18.4: the team width in threads. -/
def widthOf (n : Nat) : Nat := 16 * 2 ^ n

/-- Table 18.4: a stage descriptor. -/
def stageOfBytes (g : GraphImage) (bs : List Byte) : Stage :=
  let w := dword bs
  let pool := w 0x08
  let bank := (g.consts.find? fun c => c.1 = w 0x30).elim ([], 0) fun c => c.2
  { inkind := bitsOf (w 0) 22 2, inidx := bitsOf (w 0) 12 10,
    outs := (List.range (bitsOf (w 0) 8 4)).map fun k => field bs (0x38 + 2 * k) 2,
    width := widthOf (bitsOf (w 0) 6 2), groups := bitsOf (w 0) 0 6 + 1, rows := bitsOf (w 4) 28 4 + 1, spare := bitsOf (w 4) 20 8,
    depthmax := bitsOf (w 4) 16 4, weight := bitsOf (w 4) 8 8, pln := bitsOf (w 4) 0 6, regu := bitsOf pool 0 6, scru := bitsOf pool 6 6,
    vatu := bitsOf pool 12 6, l1u := bitsOf pool 18 6, batchwait := bitsOf (w 0x0C) 16 16, check := bitsOf (w 0x0C) 4 1 = 1,
    fairx := bitsOf (w 0x0C) 1 3, progress := bitsOf (w 0x0C) 0 1 = 1, entry := w 0x10, ientry := w 0x14, traph := w 0x18,
    inl := bitsOf (w 0x1C) 31 1 = 1, irows := bitsOf (w 0x1C) 0 4, hasRec := bitsOf (w 0x20) 31 1 = 1, recbase := bitsOf (w 0x20) 0 24,
    stkbase := bitsOf (w 0x24) 0 24, stksz := bitsOf (w 0x28) 0 24, jrole := (List.range 16).map fun k => w (0x48 + 4 * k),
    chan := (List.range 16).map fun k => BitVec.ofNat 64 (field bs (0x88 + 8 * k) 8), dpgrp := bitsOf (w 0x108) 0 6,
    drolemap := (List.range 64).map fun k => bitsOf (field bs (0x120 + k / 2) 1) (4 * (k % 2)) 4,
    const := bank.1.take (bitsOf (w 0x2C) 0 17), constLbl := bank.2, desc := bs }

/-- Table 18.4: is a reserved bit set, or does a field hold a value that the table refuses? -/
def stageFieldBad (bs : List Byte) : Bool :=
  let w := dword bs
  let nout := bitsOf (w 0) 8 4
  bs.length ≠ 320 || bitsOf (w 0) 22 2 = 3 || 8 < nout || bitsOf (w 0) 6 2 = 3 || bitsOf (w 4) 16 4 = 0 || 8 < bitsOf (w 4) 16 4 ||
    bitsOf (w 4) 8 8 = 0 || bitsOf (w 4) 6 2 ≠ 0 || 32 < bitsOf (w 4) 0 6 || bitsOf (w 8) 24 8 ≠ 0 || bitsOf (w 0x0C) 5 11 ≠ 0 ||
    bitsOf (w 0x1C) 4 27 ≠ 0 || bitsOf (w 0x20) 24 7 ≠ 0 || bitsOf (w 0x24) 24 8 ≠ 0 || bitsOf (w 0x28) 24 8 ≠ 0 ||
    bitsOf (w 0x2C) 17 15 ≠ 0 || 65536 < bitsOf (w 0x2C) 0 17 || w 0x34 ≠ 0 || bitsOf (w 0x108) 6 26 ≠ 0 || bitsOf (w 0x10C) 5 10 ≠ 0 ||
    bitsOf (w 0x114) 9 23 ≠ 0 || field bs 0x118 8 ≠ 0 ||
    ((List.range 8).any fun k => 1024 ≤ field bs (0x38 + 2 * k) 2 || (nout ≤ k && field bs (0x38 + 2 * k) 2 ≠ 0)) ||
    ((List.range 16).any fun k => bitsOf (field bs (0x88 + 8 * k) 8) 4 3 ≠ 0) ||
    (bitsOf (w 0) 22 2 = 0 && bitsOf (w 0) 12 10 ≠ 0)

/-- R78, R340: the pool word, the record area and the stacks. -/
def poolBad (st : Stage) (recSize : Nat) : Bool :=
  let threads := st.groups * st.width
  let scr := st.scru * 32768
  32 < st.l1u + st.vatu + st.scru + st.regu || st.regu = 0 ||
    st.regu * 32768 < (st.rows * st.groups + st.spare) * 32 * st.width ||
    (st.hasRec && scr < st.recbase + threads * recSize) ||
    st.stksz % 128 ≠ 0 || st.stkbase % 128 ≠ 0 ||
    scr < st.stkbase + threads * st.stksz ||
    (st.stksz ≠ 0 && (st.rows < 3 ||
      (st.hasRec && st.stkbase < st.recbase + threads * recSize && st.recbase < st.stkbase + threads * st.stksz)))

/-- R342: is an address that of a clause header inside the code image? -/
def isHeader (code : List Word) (pc : Nat) : Bool :=
  pc % 4 = 0 && (match code[pc / 4]? with | some w => hMark w = 0x3F | none => false)

/-- R342: the PCs of a stage. -/
def stagePcsBad (code : List Word) (st : Stage) : Bool :=
  !isHeader code st.entry || (st.ientry ≠ 0 && !isHeader code st.ientry) || (st.traph ≠ 0xFFFFFFFF && !isHeader code st.traph) ||
    (st.jrole.any fun p => p ≠ 0xFFFFFFFF && !isHeader code p) || st.inl ≠ decide (st.ientry ≠ 0)

/-- R20, R342: the producer group and the roles of formed teams. -/
def stageRolesBad (st : Stage) : Bool :=
  st.groups ≤ st.dpgrp || (st.drolemap.drop st.groups).any (· ≠ 0)

/-! ## Queues and tables -/

/-- Table 18.6: an empty queue of a descriptor; `grant` is the partition's slot grant mask. -/
def queueOfBytes (bs : List Byte) (grant : Label) : Queue :=
  let w := dword bs
  let kind := bitsOf (w 0) 30 2
  let parts := if kind = 3 then 4 else 1
  { kind := kind, rsz := 16 * (bitsOf (w 0) 16 4 + 1), ring := 2 ^ bitsOf (w 0) 11 5, cellarQuota := w 4, weight := bitsOf (w 8) 8 8,
    theta := bitsOf (w 8) 16 16, burst := bitsOf (w 8) 0 8, ceil := if bitsOf (w 0x0C) 15 1 = 1 then grant else BitVec.ofNat 16 (w 0x0C / 65536),
    hstation := bitsOf (w 0x10) 22 10, hqueue := bitsOf (w 0x10) 12 10, slice := bitsOf (w 0x10) 0 9, next := 0,
    rings := List.replicate parts [], cellars := List.replicate parts [], waiting := [], refill := none }

/-- Table 18.6: the index of a queue descriptor. -/
def queueIndex (bs : List Byte) : Nat := bitsOf (dword bs 0) 20 10

/-- Table 2.1, R48: ring capacity and Cellar quota. -/
def capacityBad (ringLog cellar : Nat) : Bool := ringLog < 3 || 16 < ringLog || 2 ^ ringLog + cellar < 32

/-- R344: does a queue descriptor break Table 18.6 or Table 2.1? -/
def queueBad (bs : List Byte) (slices : Nat) (grant : Label) : Bool :=
  let w := dword bs
  let kind := bitsOf (w 0) 30 2
  let burst := bitsOf (w 8) 0 8
  let weight := bitsOf (w 8) 8 8
  bs.length ≠ 32 || bitsOf (w 0) 0 11 ≠ 0 || bitsOf (w 0x0C) 0 15 ≠ 0 || bitsOf (w 0x10) 9 3 ≠ 0 || field bs 0x14 12 ≠ 0 ||
    capacityBad (bitsOf (w 0) 11 5) (w 4) || (bitsOf (w 0x0C) 15 1 = 1 && w 0x0C / 65536 ≠ 0) ||
    !Label.sub (queueOfBytes bs grant).ceil grant ||
    (if kind = 2 then weight = 0 || burst = 0 || 64 < burst else weight ≠ 0 || burst ≠ 0 || bitsOf (w 8) 16 16 ≠ 0) ||
    (kind ≠ 1 && slices ≤ bitsOf (w 0x10) 0 9)

/-- Table 18.7: a task table. -/
def tableOfBytes (bs : List Byte) : TTab :=
  { base := BitVec.ofNat 64 (field bs 0 8), count := dword bs 8, queue := bitsOf (dword bs 0x0C) 12 10 }

def tableIndex (bs : List Byte) : Nat := bitsOf (dword bs 0x0C) 22 10

/-- R344: does a task-table descriptor break Table 18.7? -/
def tableBad (g : GraphImage) (bs : List Byte) : Bool :=
  let t := tableOfBytes bs
  bs.length ≠ 32 || t.base.toNat % 16 ≠ 0 || t.count = 0 || 2 ^ 24 < t.count || bitsOf (dword bs 0x0C) 0 12 ≠ 0 || field bs 0x10 16 ≠ 0 ||
    !g.queues.any fun q => queueIndex q = t.queue && bitsOf (dword q 0) 30 2 = 3

/-! ## Stages beside their queues -/

/-- The descriptor of a queue index. -/
def GraphImage.queue? (g : GraphImage) (n : Nat) : Option (List Byte) := g.queues.find? fun q => queueIndex q = n

/-- The kind of a queue index. -/
def GraphImage.kindOf (g : GraphImage) (n : Nat) : Option Nat := (g.queue? n).map fun q => bitsOf (dword q 0) 30 2

/-- R47: the queue that feeds a stage; none for its launch queue. -/
def GraphImage.inQueue (g : GraphImage) (st : Stage) : Option Nat :=
  match st.inkind with
  | 1 => some st.inidx
  | 2 => (g.tables.find? fun t => tableIndex t = st.inidx).map fun t => (tableOfBytes t).queue
  | _ => none

/-- The record size of a stage's input; 64 for launch records. -/
def GraphImage.inSize (g : GraphImage) (st : Stage) : Nat :=
  match (g.inQueue st).bind g.queue? with
  | some q => 16 * (bitsOf (dword q 0) 16 4 + 1)
  | none => 64

/-- Table 18.4: the launch queue of a stage, as Table 2.1 has a local queue of 64-byte records. -/
def launchQueueOf (bs : List Byte) (grant : Label) : Queue :=
  let w := dword bs
  { kind := 0, rsz := 64, ring := 2 ^ bitsOf (w 0x10C) 0 5, cellarQuota := w 0x110, weight := 0, theta := 0, burst := 0,
    ceil := if bitsOf (w 0x10C) 15 1 = 1 then grant else BitVec.ofNat 16 (w 0x10C / 65536), hstation := 0, hqueue := 0,
    slice := bitsOf (w 0x114) 0 9, next := 0, rings := [[]], cellars := [[]], waiting := [], refill := none }

/-- R342: the launch-queue fields of a stage. -/
def launchFieldsBad (bs : List Byte) (slices : Nat) (grant : Label) : Bool :=
  let w := dword bs
  if bitsOf (w 0) 22 2 = 0 then
    capacityBad (bitsOf (w 0x10C) 0 5) (w 0x110) || (bitsOf (w 0x10C) 15 1 = 1 && w 0x10C / 65536 ≠ 0) ||
      !Label.sub (launchQueueOf bs grant).ceil grant || slices ≤ bitsOf (w 0x114) 0 9
  else w 0x10C ≠ 0 || w 0x110 ≠ 0 || w 0x114 ≠ 0

/-- R294, R342, R376: does the TARGET of a valid capability name something installed, and no ready queue with KIND 0 or 1? -/
def GraphImage.chanOk (g : GraphImage) (x : DWord) : Bool :=
  let n := x.toNat
  let target := bitsOf n 12 10
  if n % 2 = 0 then true
  else
    match bitsOf n 1 3 with
    | 0 => (g.kindOf target).any (· ≠ 3)
    | 1 => g.kindOf target = some 1
    | 2 => target < 256
    | 3 => g.stages.any fun s => field s 3 1 = target && bitsOf (dword s 0) 22 2 = 0
    | 4 => g.tables.any fun t => tableIndex t = target
    | _ => true

/-- R66, R342: is a stage a producer of a queue: does it output to it, or name it with a KIND 0 channel? -/
def Stage.feeds (p : Stage) (q : Nat) : Bool :=
  p.outs.contains q || p.chan.any fun x => capValid x.toNat && capKind x.toNat = 0 && capTarget x.toNat = q

/-- R66, R342: the bindings of an inlineable stage are those of every stage that produces for it. -/
def GraphImage.inlineBad (g : GraphImage) (st : Stage) : Bool :=
  st.inl && (match g.inQueue st with
    | some q => g.stages.any fun bs => (stageOfBytes g bs).feeds q && (stageOfBytes g bs).chan ≠ st.chan
    | none => false)

/-- R342: a stage's input and outputs. The model also refuses INKIND 1 with a remote queue, whose records are at another station
(assumption 68). -/
def GraphImage.edgesBad (g : GraphImage) (st : Stage) : Bool :=
  (st.inkind ≠ 0 && ((g.inQueue st).bind g.queue?).isNone) ||
    (st.inkind = 1 && (g.kindOf st.inidx = some 3 || g.kindOf st.inidx = some 1)) ||
    (st.outs.any fun q => g.kindOf q = none || g.kindOf q = some 3) || (dedup st.outs).length ≠ st.outs.length ||
    (!st.hasRec && st.inkind ≠ 0 && 64 < g.inSize st) || st.chan.any fun x => !g.chanOk x

/-- R342: is a stage descriptor refused? -/
def GraphImage.stageBad (g : GraphImage) (slices : Nat) (grant : Label) (bs : List Byte) : Bool :=
  let st := stageOfBytes g bs
  stageFieldBad bs || poolBad st (g.inSize st) || stagePcsBad g.code st || stageRolesBad st || launchFieldsBad bs slices grant ||
    g.edgesBad st || g.inlineBad st

/-- R47: each queue feeds one stage at most: no rule refuses two by name, and the model refuses the graph (assumption 68). -/
def GraphImage.inputs (g : GraphImage) : List Nat := g.stages.filterMap fun bs => g.inQueue (stageOfBytes g bs)

/-- R47, R48, R78, R340 to R344: is a graph refused? -/
def GraphImage.bad (g : GraphImage) (slices : Nat) (grant : Label) : Bool :=
  let twice := fun (xs : List Nat) => (dedup xs).length ≠ xs.length
  (g.stages.any (g.stageBad slices grant)) || (g.queues.any fun q => queueBad q slices grant) || (g.tables.any (tableBad g)) ||
    twice (g.stages.map fun s => field s 3 1) || twice (g.queues.map queueIndex) || twice (g.tables.map tableIndex) ||
    twice (g.tables.map fun t => (tableOfBytes t).queue) || twice g.inputs || g.consts.any fun c => !Label.sub c.2.2 grant

/-! ## Installation -/

/-- R348, Table 18.11: the value that an ABS64 relocation writes: S + A, where S is the global address of a data symbol. -/
def GraphImage.relValue (g : GraphImage) (r : Reloc) : Option Nat :=
  (g.data.find? fun d => d.1 = r.symSec).map fun d => (((d.2.1 + r.value : Nat) + r.addend) % 2 ^ 64).toNat

/-- Bytes with others in the place of some of them; none where they do not lie inside. -/
def patch (bs : List Byte) (off : Nat) (new : List Byte) : Option (List Byte) :=
  if off + new.length ≤ bs.length then some (bs.take off ++ new ++ bs.drop (off + new.length)) else none

/-- R349: one relocation is applied to the DATA or CONST section that it names; none where that cannot be done. -/
def GraphImage.applyRel (g : GraphImage) (r : Reloc) : Option GraphImage :=
  match g.relValue r with
  | none => none
  | some v =>
    match g.data.find? fun d => d.1 = r.sec, g.consts.find? fun c => c.1 = r.sec with
    | some d, _ => (patch d.2.2 r.off (natLE 8 v)).map fun bs =>
        { g with data := g.data.map fun x => if x.1 = r.sec then (x.1, x.2.1, bs) else x }
    | none, some c => (patch c.2.1 r.off (natLE 8 v)).map fun bs =>
        { g with consts := g.consts.map fun x => if x.1 = r.sec then (x.1, bs, x.2.2) else x }
    | none, none => none

/-- R349: every ABS64 relocation is applied. -/
def GraphImage.relocate (g : GraphImage) : Option GraphImage := g.rels.foldl (fun g r => g.bind fun g => g.applyRel r) (some g)

/-- R349: DATA and ZERO are placed in the partition's memory, at addresses of the context; none where a byte has no place there. -/
def State.placeData (s : State) (part ctx : Nat) (ds : List (Nat × Nat × List Byte)) : Option State :=
  (ds.flatMap fun d => (pieces d.2.1 d.2.2.length (d.2.2.length + 1)).map fun x => (x, (d.2.2.drop (x.1 - d.2.1)).take x.2)).foldl
    (fun s x => s.bind fun s =>
      match s.translate noCore part ctx x.1.1 true with
      | .ok (.mem a) _ => if s.owned part (.mem a) then some (s.cohWrite (.mem a) x.2) else none
      | _ => none) (some s)

/-- R76: has a context a resident team? A constant bank does not change while a team of its stage is resident. -/
def State.ctxBusy (s : State) (part ctx : Nat) : Bool :=
  s.sch.teams.any fun kv => kv.2.part = part && kv.2.ctx = ctx && kv.2.resident

/-- R349: the descriptors of a graph enter a context. -/
def State.putGraph (s : State) (part ctx : Nat) (g : GraphImage) : State :=
  let p := s.part part
  let c := (s.ctx? part ctx).getD { root := none, code := [], stages := [], ttabs := [] }
  let stages := g.stages.foldl (fun m bs => mset m (field bs 3 1) (stageOfBytes g bs)) []
  let tabs := g.tables.foldl (fun m bs => mset m (tableIndex bs) (tableOfBytes bs)) []
  let qs := g.queues.map fun bs => ((⟨part, ctx, false, queueIndex bs⟩ : QKey), queueOfBytes bs p.grant)
  let lqs := (g.stages.filter fun bs => bitsOf (dword bs 0) 22 2 = 0).map fun bs =>
    ((⟨part, ctx, true, field bs 3 1⟩ : QKey), launchQueueOf bs p.grant)
  let s := s.setPart part fun p => { p with ctxs := mset p.ctxs ctx { c with code := g.code, stages := stages, ttabs := tabs } }
  { s with gr.queues := (qs ++ lqs).foldl (fun m kv => mset m kv.1 kv.2) s.gr.queues }

/-- R47, R76, R349: a graph is installed into a context, all of it or none. -/
def State.installGraph (s : State) (part ctx : Nat) (g : GraphImage) : Option State :=
  let p := s.part part
  if g.bad p.slices.length p.grant || s.ctxBusy part ctx then none
  else g.relocate.bind fun g => (s.placeData part ctx g.data).map fun s => s.putGraph part ctx g

end Sys2Proof.Machine
end

