-- ==== Sys2Proof/Machine/Due.lean ====
section
/-! DEFINITION. Which thing the machine does next: the selected word, an input of the outside world, a command of a mailbox,
an event that is due, a quadrant's turn, or the passing of a cycle (assumption 1). -/

namespace Sys2Proof.Machine

open Sys2Proof

/-- What a step does: run an instruction, command or message on a state, stand at a state, or end as an event of the machine's own
has ended. -/
inductive Todo where
  | run (i : Instr) (s : State)
  | done (s : State)
  | did (o : Host.Outcome State Fault Refusal)

/-! ## Boot -/

/-- R387, R388: a start begins, and its stages complete at once (assumption 10). -/
def State.bootDo (s : State) : Option Todo :=
  if s.startDue then some (.did (execBootStart s))
  else if !s.y.boot.starting then none
  else if DWord.past s.clk.tclk s.y.boot.bound then some (.did (execBootStageTimeout 3 s))
  else some (.did (execBootStageComplete s))

/-! ## Memory -/

/-- Would an access of a request do something now, rather than wait for an earlier access, for its retry, for the answer of
another station, or for a survey? -/
def State.accReady (s : State) (r : Req) (k : Nat) (a : Acc) : Bool :=
  !a.done && a.at_ ≤ s.clk.cycle && !s.blocked r k a && !DWord.past a.retryAt s.clk.tclk && !s.surveyHolds a.loc &&
    ((s.pinOf a.t.tid a.loc.line).isSome ||
      match a.loc with
      | .fab .. => !s.fabSent r.id k && (s.wantsPin r a || ((r.combined a).head?.map (·.t)).getD a.t = a.t)
      | _ => true)

/-- The accesses of a request, each with its place, that would do something now. -/
def State.readyAccs (s : State) (r : Req) : List (Acc × Nat) := r.accs.zipIdx.filter fun x => s.accReady r x.2 x.1

/-- What the machine does for a request now. -/
def State.reqDo (s : State) (r : Req) : Option Todo :=
  if r.accs.any fun a => a.timedOut s.clk.tclk then some (.did (execPinnedLineTimeout r.id s))
  else if s.clk.cycle < r.due then none
  else if r.back then some (.did (execMemoryResponse r.id s))
  else if (s.readyAccs r).any fun x => x.1.waits then some (.did (execPinnedRetry r.id s))
  else if !(s.readyAccs r).isEmpty || r.accs.all (·.done) then some (.did (execCoherencePointAccess r.id s))
  else none

/-- What the machine does for a UALink request now: it goes out again (R100), or no port can carry it (R400). -/
def State.outDo (s : State) (o : OutReq) : Option Todo :=
  if o.port = noPort then some (.done (s.reqTimeout o))
  else if o.retryAt ≠ 0 && !DWord.past o.retryAt s.clk.tclk then
    if overdue (o.refused.getD s.clk.tclk) s.clk.tclk then some (.done (s.reqEnd o (some fcPinned) fcPinned 0))
    else some (.done { s with y.reqs := s.y.reqs.map fun (x : OutReq) => if x.tag = o.tag then { x with retryAt := 0 } else x })
  else none

/-- R88, R90, R96, R100: memory. -/
def State.memDo (s : State) : Option Todo :=
  (s.m.reqs.findSome? s.reqDo).orElse fun _ =>
  (s.y.reqs.findSome? s.outDo).orElse fun _ =>
  (s.m.l1.find? s.expired).map fun x => .did (execLeaseExpiry x.core x.line.lineNum s)

/-! ## Engines and the Parlour's services -/

/-- Is the head of a core's matrix engine complete? -/
def State.mxDue (s : State) (core : Nat) : Bool :=
  match s.mxHead core with
  | some x => (match x.due with | some d => decide (d ≤ s.clk.cycle) | none => false)
  | none => false

/-- The cores at which the Crucible or the Churn has work. -/
def State.engineCores (s : State) : List Nat := dedup (s.e.mxs.map (·.core) ++ s.e.chains.map (·.core))

/-- R84, R120, R277, R283, R290, R311: the engines. -/
def State.engineDo (s : State) : Option Todo :=
  ((s.e.copies.find? s.copyDue).map fun c => Todo.did (execStreamerWritePerform c.id s)).orElse fun _ =>
  ((s.e.loads.find? s.loadDue).map fun x => Todo.did (execPlateLoadComplete x.id s)).orElse fun _ =>
  ((s.engineCores.find? s.untimed).map fun c => Todo.done (s.retime c)).orElse fun _ =>
  ((s.engineCores.find? s.chainDue).map fun c => Todo.did (execChainElementStep c s)).orElse fun _ =>
  ((s.engineCores.find? s.mxDue).map fun c => Todo.did (execMxissueComplete c s)).orElse fun _ =>
  ((s.e.gates.find? fun x => x.due ≤ s.clk.cycle && !s.gateSent x.id).map fun x => Todo.did (execGateTransferAck x.id s)).orElse fun _ =>
  (s.e.calls.find? fun c => c.status.isNone && !DWord.past c.due s.clk.tclk).map fun c => .did (execSyscallReply c.id s)

/-! ## Queues and teams -/

/-- R51: can the addition at the head of those that wait at a queue be served now? -/
def State.servesNow (s : State) (k : QKey) (q : Queue) : Bool :=
  match q.waiting with
  | [] => false
  | .launch .. :: _ => false
  | _ :: _ => (s.serveHead k q).isSome

/-- R51, R70, R316, R428: the queues. -/
def State.queueDo (s : State) : Option Todo :=
  ((s.gr.queues.find? fun kv => s.acceptsNow kv.1 kv.2).map fun kv => Todo.did (execLaunchRecordAccept kv.1 s)).orElse fun _ =>
  ((s.gr.queues.find? fun kv => s.servesNow kv.1 kv.2).map fun kv => Todo.done (s.serveQueue kv.1 4096)).orElse fun _ =>
  (s.gr.queues.find? fun kv => match kv.2.refill with | some c => decide (c ≤ s.clk.cycle) | none => false).map fun kv =>
    .did (execCellarRefillStep kv.1 s)

/-- R315: a promotion that a TEAMCTL write asks for is due. -/
def State.asksNow (s : State) (t : Team) : Bool := match t.promoteAt with | some c => decide (c ≤ s.clk.cycle) | none => false

/-- R25, R71, R315, R378 to R381: the teams, and slot decisions (R57: before the decisions of forwarding). -/
def State.teamDo (s : State) : Option Todo :=
  ((s.sch.teams.find? fun kv => s.saveDue kv.1).map fun kv => Todo.did (execTeamSave kv.1 s)).orElse fun _ =>
  ((s.sch.teams.find? fun kv => s.drainLate kv.2).map fun kv => Todo.did (execDrainDeadlineExpiry kv.1 s)).orElse fun _ =>
  ((s.sch.teams.find? fun kv => s.retireDue kv.1).map fun kv => Todo.did (execTeamRetirement kv.1 s)).orElse fun _ =>
  ((s.sch.runs.find? fun kv => s.runDone kv.1 kv.2).map fun kv => Todo.did (execStageRunCompletionReport kv.1 s)).orElse fun _ =>
  (s.slotDue.map fun x => Todo.did (execSlotDecision x.1 x.2 s)).orElse fun _ =>
  (s.nextPromotion.map fun p => Todo.did (execAgePromotion p.id s)).orElse fun _ =>
  (s.sch.teams.find? fun kv => s.asksNow kv.2).map fun kv => .did (execTeamctlPromotion kv.1 s)

/-- R57: publications. -/
def State.ephemDo (s : State) : Option Todo :=
  if s.nearDue || s.farDue then some (.did (execEphemerisPublish s))
  else if s.remoteDue then some (.did (execEphemerisRemotePublication s))
  else none

/-! ## Deadlines -/

/-- R358: the id of a gang is kept no longer. -/
def State.gangOver (s : State) (g : Gang) : Bool := g.keep ≠ 0 && !DWord.past g.keep s.clk.tclk

/-- R356: a slot's wait for its sealed word is over. -/
def State.sealLate (s : State) (x : LSlot) : Bool :=
  match x.wait with | some (_, t) => !DWord.past t s.clk.tclk | none => false

/-- R356, R358, R368, R371: gangs, scrubs, launch slots and resolvable faults. -/
def State.deadlineDo (s : State) : Option Todo :=
  ((s.y.gangs.find? s.gangDue).map fun g => Todo.did (execGangDeadline g.id.toNat s)).orElse fun _ =>
  ((s.y.gangs.find? s.gangOver).map fun g => Todo.did (execGangIdRetentionExpiry g.id.toNat s)).orElse fun _ =>
  ((s.m.scrubs.find? fun x => !DWord.past x.at_ s.clk.tclk).map fun x => Todo.did (execFrameScrubComplete x.id s)).orElse fun _ =>
  ((s.h.slots.find? fun kv => s.sealLate kv.2).map fun kv => Todo.did (execSealWaitTimeout kv.1 s)).orElse fun _ =>
  (s.sch.resolv.find? s.resolvLate).map fun x => .did (execFaultResolutionTimeout x.token s)

/-! ## Operator functions -/

/-- R404, R407, R409, R415, R418: surveys, thresholds, windows and clock messages. -/
def State.operatorDo (s : State) : Option Todo :=
  if s.selfTestReady then some (.done s.selfTests)
  else
    (s.surveyDue.map fun x => Todo.did (s.surveyOver x)).orElse fun _ =>
    (s.thresholdDue.map fun u => Todo.did (execCorrectedErrorThreshold u s)).orElse fun _ =>
    if s.windowDue then some (.did (execClockWindow s))
    else if s.choiceDue then some (.did (execMigrationChoice s))
    else if (List.range Config.ports).any s.clockDue then some (.did (execClockMessagePeriod s))
    else none

/-! ## Waits that have come to their end -/

/-- Would the first lane of a core that waits at OSBRES be served now (R274)? -/
def State.osbServable (s : State) (core : Nat) : Bool :=
  match minBy? (·.since) (s.sch.paths.filter fun p => p.state = .parked .osb && s.homeCore p.g.tid p.core = core) with
  | some p => (s.serveOsbPath p).isSome
  | none => false

/-- Lanes parked at counters, at OSBRES and at copies that can go on, and a Parlour command that is complete
(R82, R274, R305, R362). -/
def State.wakeDo (s : State) : Option Todo :=
  (s.arcWoken.map fun x => Todo.done (s.arcGo x.1 x.2)).orElse fun _ =>
  (s.arcPoll.map fun x => Todo.done (s.pollCounter x)).orElse fun _ =>
  (((s.sch.paths.filter fun p => p.state = .parked .osb).map fun p => s.homeCore p.g.tid p.core).find? s.osbServable).map
    (fun c => Todo.done (s.serveOsb c 1)) |>.orElse fun _ =>
  if s.sch.paths.any fun p => p.state = .parked .copyRoom && s.copyReady p then some (.done s.wakeCopies)
  else if s.sch.paths.any s.mailReady then some (.done s.wakeMail)
  else s.parlourEnds.map fun fn => .done (s.endParlour fn)

/-! ## The next thing -/

/-- An event of the machine's own that is due. -/
def State.eventDo (s : State) : Option Todo :=
  s.memDo.orElse fun _ => s.engineDo.orElse fun _ => s.queueDo.orElse fun _ => s.teamDo.orElse fun _ =>
  s.ephemDo.orElse fun _ => s.deadlineDo.orElse fun _ => s.operatorDo

/-- A mailbox command, unless an earlier one is still under way (R362, R386). -/
def State.mailDo (s : State) : Option Todo :=
  match s.h.parlourQ, s.parlourHeld with
  | i :: rest, false => some (.run i { s with h.parlourQ := rest })
  | _, _ =>
    match s.h.cfgQ, s.cfgHeld with
    | i :: rest, false => some (.run i { s with h.cfgQ := rest })
    | _, _ => none

/-- R49, R127: a request from the fabric to a queue or to a placement table, which ranks behind this station's of the same cycle: its
station, and the core that it comes from. -/
def lateKey : Instr → Option (Nat × Nat)
  | .renq h .. => some (h.sstation, 0)
  | .preq h _ _ _ core => some (h.sstation, core)
  | _ => none

/-- The inputs whose time has come, in order. -/
def State.dueInputs (s : State) : List (DWord × Instr) := s.clk.inputs.takeWhile fun x => !DWord.past x.1 s.clk.tclk

/-- The machine takes an input. -/
def State.takeInput (s : State) (x : DWord × Instr) : Todo := .run x.2 { s with clk.inputs := s.clk.inputs.erase x }

/-- An input whose time has come. -/
def State.inputDo (s : State) : Option Todo := (s.dueInputs.find? fun x => (lateKey x.2).isNone).map s.takeInput

/-- R127: of the PLDEM requests that have come in this cycle, the first in the order of stations and cores; every other request in its
order of arrival. -/
def firstLate (xs : List (DWord × Instr)) : Option (DWord × Instr) :=
  match xs.find? fun x => (lateKey x.2).isSome with
  | some (at_, .preq h e d l c) =>
    let ps := xs.filter fun x => match x.2 with | .preq .. => true | _ => false
    some ((minBy? (fun x => match lateKey x.2 with | some (st, core) => st * 65536 + core | none => 0) ps).getD (at_, .preq h e d l c))
  | x => x

/-- R49, R127, R319: what follows the quadrants' turns of a cycle: the ports' dequeues, and then the requests from the fabric
(assumption 67). -/
def State.lateDo (s : State) : Option Todo :=
  (s.nextForward.map fun x => Todo.did (execForwardingDecision x.1 x.2 s)).orElse fun _ => (firstLate s.dueInputs).map s.takeInput

/-- The next quadrant's turn, what follows them, or the passing of a cycle. -/
def State.turnDo (s : State) : Todo :=
  match s.clk.todo with
  | (core, quad) :: rest => .did (execQuadrantIssueCycle core quad { s with clk.todo := rest })
  | [] => s.lateDo.getD (.done s.tick)

/-- What the machine does when no word is selected. -/
def State.between (s : State) : Todo :=
  (s.bootDo.orElse fun _ => s.wakeDo.orElse fun _ => s.inputDo.orElse fun _ => s.mailDo.orElse fun _ => s.eventDo).getD s.turnDo

/-- What the machine does next. -/
def State.choose (s : State) : Todo :=
  match s.clk.cur with
  | none => s.between
  | some id =>
    match s.ig? id with
    | none => .done { s with clk.cur := none }
    | some g =>
      match s.fetched g with
      | .ok (i, _) => .run i s
      | .error e => .done (s.encStop g e)

end Sys2Proof.Machine
end

