-- ==== Sys2Proof/Machine/Step.lean ====
section
/-! DEFINITION. One step of the machine: it does the one thing that comes next (`State.choose`). -/

namespace Sys2Proof.Machine

open Sys2Proof

/-- One step. -/
def step (s : State) : Host.Outcome State Fault Refusal :=
  match s.choose with
  | .run i s' => exec i s'
  | .done s' => .next s'
  | .did o => o

/-- The state with an instruction placed where the next step fetches it: a team of one thread stands in a clause that
holds the instruction, and its issue group is selected (assumption 14). -/
def State.withFetchWord (s : State) (nbits w : Nat) : State :=
  s.withClause (fetchWords nbits w).1 (fetchWords nbits w).2

end Sys2Proof.Machine
end

