-- ==== Sys2Proof/Laws/Map.lean ====
section
/-! SUPPORT. What reading a keyed map answers after a change of it, and folds that leave a thing as it was. -/

namespace Sys2Proof

variable {κ α : Type} [DecidableEq κ]

theorem mget?_mdel_same (m : Map κ α) (k : κ) : mget? (mdel m k) k = none := by
  induction m with
  | nil => rfl
  | cons p m ih => obtain ⟨k', v⟩ := p; by_cases h : k' = k <;> simp [mdel, mget?, h, ih]

theorem mget?_mdel_other (m : Map κ α) {k k' : κ} (h : k' ≠ k) : mget? (mdel m k) k' = mget? m k' := by
  induction m with
  | nil => rfl
  | cons p m ih =>
    obtain ⟨a, v⟩ := p
    by_cases ha : a = k
    · have : a ≠ k' := fun e => h (e ▸ ha)
      simp [mdel, mget?, ha, ih, Ne.symm h]
    · by_cases hb : a = k'
      · subst hb; simp [mdel, mget?, h]
      · simp [mdel, mget?, ha, hb, ih]

theorem mget?_mset_same (m : Map κ α) (k : κ) (v : α) : mget? (mset m k v) k = some v := by
  induction m with
  | nil => simp [mset, mget?]
  | cons p m ih => obtain ⟨a, w⟩ := p; by_cases ha : a = k <;> simp [mset, mget?, ha, ih]

theorem mget?_mset_other (m : Map κ α) {k k' : κ} (v : α) (h : k' ≠ k) : mget? (mset m k v) k' = mget? m k' := by
  induction m with
  | nil => simp [mset, mget?, Ne.symm h]
  | cons p m ih =>
    obtain ⟨a, w⟩ := p
    by_cases ha : a = k
    · simp [mset, mget?, ha, Ne.symm h, mget?_mdel_other m h]
    · by_cases hb : a = k'
      · subst hb; simp [mset, mget?, h]
      · simp [mset, mget?, ha, hb, ih]

theorem mget?_mset (m : Map κ α) (k k' : κ) (v : α) : mget? (mset m k v) k' = if k' = k then some v else mget? m k' := by
  by_cases h : k' = k
  · simp [h, mget?_mset_same]
  · simp [h, mget?_mset_other m v h]

theorem mget_mset (d : α) (m : Map κ α) (k k' : κ) (v : α) : mget d (mset m k v) k' = if k' = k then v else mget d m k' := by
  unfold mget; rw [mget?_mset]; split <;> rfl

/-- A fold whose every step leaves the thing as it was leaves it as it was. -/
theorem foldl_same {σ β : Type} (f : σ → β → σ) (xs : List β) (s : σ) (h : ∀ x ∈ xs, f s x = s) : xs.foldl f s = s := by
  induction xs with
  | nil => rfl
  | cons x xs ih =>
    rw [List.foldl_cons, h x (by simp)]
    exact ih fun y hy => h y (by simp [hy])

/-- What every step of a fold keeps, the fold keeps. -/
theorem foldl_keeps {σ β : Type} (P : σ → Prop) (f : σ → β → σ) (h : ∀ s x, P s → P (f s x)) (xs : List β) (s : σ)
    (hs : P s) : P (xs.foldl f s) := by
  induction xs generalizing s with
  | nil => exact hs
  | cons x xs ih => exact ih _ (h s x hs)

end Sys2Proof
end

