-- ==== Sys2Proof/Safety.lean ====
section
/-! DEFINITION. What counts as a safe run: no step is refused, no step finds itself without an issue group, and the module's
memory and the host's keep their canonical form. With it the terms in which the statements speak of an instruction word
that issues: when one issues without a fault, the lanes in which it acts, and what its issue alone changes. -/

namespace Sys2Proof.Machine

open Sys2Proof

/-! ## Safe runs -/

/-- Device memory and host memory are in canonical form. -/
def State.memOk (s : State) : Bool := Memory.wf s.m.mem && Memory.wf s.m.host

/-- An outcome goes on. -/
def goesOn (o : Host.Outcome State Fault Refusal) : Prop := ∃ s, o = .next s

/-- A state from which `n` steps go on, each leaving the memories in canonical form. -/
def safeFor : Nat → State → Prop
  | 0, s => s.memOk = true
  | n + 1, s => s.memOk = true ∧ ∃ t, step s = .next t ∧ safeFor n t

/-! ## The issue of one word -/

/-- The operation number of an instruction word. -/
def opNo (i : Instr) : Nat := match i.view with | some (_, op, _) => op | none => 0

/-- The fields of an instruction word (R172 to R174). -/
def fieldsOf (i : Instr) : Fm := match i.view with | some (_, _, b) => b.fm | none => RForm.fm ⟨false, 7, 0⟩

/-- R187: the selected issue group stands at an instruction word, and no team of its members has an encoding fault, a
register beyond its bound or a breach of the stall contract to report. -/
def State.ready (s : State) (g : IssueGroup) (i : Instr) : Bool :=
  i.view.isSome && s.clk.cur == some g.id && s.ig? g.id == some g && i.check == none &&
    (s.members g.id).all fun l =>
      (s.encOf l none i.cls (opNo i) (fieldsOf i)).isNone && !s.beyond l i.cls (opNo i) (fieldsOf i) && (s.stallFltOf g i.cls (opNo i) (fieldsOf i) l).isNone

/-- R33: the paths of the group have evaluated the instruction predicate, and their age is 0 (R25). -/
def State.entered (s : State) (g : IssueGroup) (i : Instr) : State :=
  (s.joinPred g (fieldsOf i)).markIssued g (fieldsOf i).stall

/-- Table 6.8: the lanes in which a word acts: the members, in quadrant lane order, whose instruction predicate holds. -/
def State.acting (s : State) (g : IssueGroup) (i : Instr) : List Lane :=
  let t := s.entered g i
  t.alive ((t.members g.id).filter fun l => t.predOn (fieldsOf i) l)

/-- What the meaning of a word is given when it acts (R30, R31). -/
def State.iss (s : State) (g : IssueGroup) (i : Instr) : Iss :=
  { g := g, cls := i.cls, op := opNo i, f := fieldsOf i, on := s.acting g i,
    ctx0 := (s.sch.paths.filter fun p => p.state = .inClause g.id).map fun p => (p.id, p.ctxLbl) }

/-- The state in which a word that parks no lane takes effect: its issue is counted, and its unit is busy. -/
def State.counted (s : State) (g : IssueGroup) (i : Instr) : State :=
  ((s.entered g i).account (s.iss g i) ((s.entered g i).members g.id)).useUnit (s.iss g i)

/-- The members whose instruction predicate holds, at the entry of a word. -/
def State.entrants (s : State) (g : IssueGroup) (i : Instr) : List Lane :=
  ((s.entered g i).members g.id).filter fun l => (s.entered g i).predOn (fieldsOf i) l

/-- R213: the state at the entry of a word that sets CLEAN to 0 in its teams. -/
def State.closed (s : State) (g : IssueGroup) (i : Instr) : State := (s.entered g i).close (s.entrants g i)

/-- The state in which a word takes effect, whose entry has led to the state `u`. -/
def State.countedAt (u s : State) (g : IssueGroup) (i : Instr) : State :=
  (u.account (s.iss g i) (u.members g.id)).useUnit (s.iss g i)

/-- A word completes: its entry has led to the state `u`, its issue is counted, its effect `eff` happens, and its group goes
on behind it (R26). -/
def Takes (s : State) (g : IssueGroup) (i : Instr) (u : State) (eff : State → State) : Prop :=
  exec i s = .next ((eff (u.countedAt s g i)).advance g (fieldsOf i).len (fieldsOf i).stall)

/-- R26, R28, R33, R181: a path of the group behind the word that has issued. -/
def Path.behind (p : Path) (s : State) (g : IssueGroup) (i : Instr) : Path :=
  if p.state = .inClause g.id then
    let q := { p with
      ctxLbl := p.ctxLbl ||| s.tileLbl p.g (.m (fieldsOf i).pred)
      since := s.clk.cycle, promoted := false, hint := false
      readyAt := s.clk.cycle + 1 + (fieldsOf i).stall }
    if g.endPc ≤ g.pc + 4 * (fieldsOf i).len then
      { q with state := .runnable, pc := g.endPc, hint := g.yld, mid := none, gateId := none }
    else q
  else p

/-- A thread without what its issue alone changes: the counts of its tokens, its distance and the scoreboard's notes. -/
def Thread.bare (h : Thread) : Thread := { h with tok := [], dist := 0, sb := [] }

/-- What issuing a word changes whatever the word does: the group moves on and closes behind its last word, its paths with
it, its unit is busy, and its threads count (R26, R180, R181, R323). All else of the machine is as before, but for what a
statement says beside: results that are under way (`pend`), and with the stochastic rounding mode SEED. -/
structure Issued (s t : State) (g : IssueGroup) (i : Instr) : Prop where
  clock : t.clk = { s.clk with cur := none }
  memory : t.m = s.m
  engines : t.e = s.e
  graph : t.gr = s.gr
  host : t.h = s.h
  system : t.y = s.y
  registers : t.r = { s.r with thr := t.r.thr, lbl := t.r.lbl }
  labels : ∀ x k, k ≠ .seed ∨ usesSeed i.cls (opNo i) (fieldsOf i) = false → t.tileLbl x k = s.tileLbl x k
  threads : ∀ x, { (t.thr x).bare with seed := 0 } = { (s.thr x).bare with seed := 0 }
  schedule : { t.sch with paths := [], igs := [], pend := [], busy := [] } =
    { s.sch with paths := [], igs := [], pend := [], busy := [] }
  paths : t.sch.paths = s.sch.paths.map fun p => p.behind s g i
  others : ∀ k, k ≠ g.id → t.ig? k = s.ig? k
  group : (∃ p ∈ s.sch.paths, p.state = .inClause g.id) →
    t.ig? g.id = if g.endPc ≤ g.pc + 4 * (fieldsOf i).len then none else
      some { g with
        pc := g.pc + 4 * (fieldsOf i).len, hold := none, heldAt := none, notBefore := s.clk.cycle + 1 + (fieldsOf i).stall }

/-- A word issues with the effect `b`: the machine is as the state `b` with what the issue of the word alone changes. -/
def Does (s : State) (g : IssueGroup) (i : Instr) (b : State) : Prop :=
  ∃ t, exec i s = .next t ∧ Issued b t g i ∧ t.sch.pend = b.sch.pend ∧ ∀ x, (t.thr x).bare = (b.thr x).bare

/-- A state without its paths, its issue groups, the names given so far, the busy units and the threads' own registers. -/
def State.sansPaths (s : State) : State :=
  { s with clk.cur := none, clk.fresh := 0, sch.paths := [], sch.igs := [], sch.busy := [], r.thr := [] }

/-- Only paths, issue groups and what issue counts differ. -/
def PathsOnly (b t : State) : Prop := t.sansPaths = b.sansPaths ∧ ∀ x, (t.thr x).bare = (b.thr x).bare

/-- Every path holds threads, and has a name of its own, which has been given. -/
def State.named (s : State) : Prop := (s.sch.paths.map (·.id)).Nodup ∧ ∀ p ∈ s.sch.paths, p.id < s.clk.fresh ∧ p.mask ≠ 0

/-- A thread stands in a Runnable path, at an address. -/
def Stands (t : State) (x : TRef) (pc : Nat) : Prop :=
  ∃ p ∈ t.sch.paths, p.g = x.g ∧ p.mask.getLsbD x.lane = true ∧ p.state = .runnable ∧ p.pc = pc

/-- The only path of the machine holds every live thread of its team, and all of them act in the word, the first of its
clause. -/
structure Lone (s : State) (g : IssueGroup) (i : Instr) (p : Path) (tm : Team) : Prop where
  paths : s.sch.paths = [p]
  here : p.state = .inClause g.id
  team : s.team? p.g.tid = some tm
  acting : s.acting g i = (s.entered g i).members g.id
  live : s.liveMask p.g = p.mask
  only : ∀ x ∈ s.liveOf p.g.tid, x.g = p.g ∧ p.mask.getLsbD x.lane = true
  nonempty : p.mask ≠ 0
  first : g.pc = g.hdr + 4
  word : s.waitWord { p with mid := some (g.mid p.id) } = some (i, (fieldsOf i).len)

/-- R171: the only path of the machine stands behind the word, whose set is complete. -/
def Behind (s t : State) (g : IssueGroup) (i : Instr) (p : Path) : Prop :=
  ∃ q, t.sch.paths = [q] ∧ q.state = .runnable ∧ q.pc = (if g.endPc ≤ g.pc + 4 * (fieldsOf i).len then g.endPc else
      g.pc + 4 * (fieldsOf i).len) ∧
    q.id = p.id ∧ q.g = p.g ∧ q.mask = p.mask ∧ q.scopes = p.scopes ∧
    q.ctxLbl = p.ctxLbl ||| s.tileLbl p.g (.m (fieldsOf i).pred) ∧ q.since = s.clk.cycle ∧
    q.readyAt = s.clk.cycle + 1 + (fieldsOf i).stall

/-- The number that the words of a result hold, the first lowest (R166). -/
def wordsNat : List Word → Nat
  | [] => 0
  | w :: ws => w.toNat + 2 ^ 32 * wordsNat ws

/-- A word whose effect is a register result issues: in each lane where it acts the result `o` of the thread, which `P`
describes, goes to the destination `lat` cycles from now (R179), its flags to FSTAT (R148), with the label of its operands
and its context (R34, R110); SEED follows its draws (R147). -/
def Gives (s : State) (g : IssueGroup) (i : Instr) (lat : Nat) (P : TRef → AluOut → Prop) : Prop :=
  ∃ (t : State) (p : Pend) (o : TRef → AluOut), exec i s = .next t ∧ Issued s t g i ∧
    t.sch.pend = s.sch.pend ++ [p] ∧ p.due = s.clk.cycle + lat ∧
    (∀ l ∈ s.acting g i, P l.t (o l.t)) ∧
    p.writes = resWrites (Fm.writes i.cls (opNo i) (fieldsOf i))
      ((s.acting g i).map fun l => ⟨l, (o l.t).ws, s.aluLbl (s.iss g i) l⟩) ∧
    p.lbls = (s.counted g i).resLbls (Fm.writes i.cls (opNo i) (fieldsOf i))
        ((s.acting g i).map fun l => ⟨l, (o l.t).ws, s.aluLbl (s.iss g i) l⟩) ++
      (if mayFlag i.cls (opNo i) (fieldsOf i) then (s.acting g i).map fun l =>
        ⟨l.g, .fstat, s.aluLbl (s.iss g i) l, false⟩ else []) ∧
    p.flags = (s.acting g i).map (fun l => (l.t, (o l.t).fl)) ∧ p.links = [] ∧
    p.toks = tokPairs (fieldsOf i).tok (s.acting g i) ∧
    ∀ x, (t.thr x).seed = if x ∈ (s.acting g i).map (·.t) then ((o x).seed).getD (s.thr x).seed else (s.thr x).seed

/-! ## The results of integer words -/

/-- A result of some words that sets no flag and draws nothing. -/
def AluOut.plain (o : AluOut) (regs : Nat) : Prop := o.ws.length = regs ∧ o.fl = 0 ∧ o.seed = none

/-- R191: each element of the result is `r`, given the element width and the elements x, y and z of a, b and c, saturated or
wrapped to the element type. -/
def ElementsAre (s : State) (i : Instr) (r : Nat → Int → Int → Int → Int) (t : TRef) (o : AluOut) : Prop :=
  let f := fieldsOf i
  let w := mdW f.md
  let el := fun (c : Code) (e : Nat) => elemAt w (mdU f.md) (s.intVal t f.lit c (intRegs w) w (mdU f.md)) e
  o.plain (intRegs w) ∧ ∀ e, e < elemCount w →
    bitsOf (wordsNat o.ws) (elemBits w * e) (elemBits w) =
      wrapNat (if mdSat f.md then satInt (elemBits w) (mdU f.md) (r (elemBits w) (el f.a e) (el f.b e) (el f.c e))
        else r (elemBits w) (el f.a e) (el f.b e) (el f.c e)) (elemBits w)

/-- The bits that a thread reads from an operand of `regs` registers of an integer word (R165, R166, R189). -/
def State.operand (s : State) (i : Instr) (t : TRef) (c : Code) (regs : Nat) : Nat :=
  s.intVal t (fieldsOf i).lit c regs (mdW (fieldsOf i).md) (mdU (fieldsOf i).md)

/-- The result is a number of `regs` registers. -/
def NumberIs (regs x : Nat) (o : AluOut) : Prop := o.plain regs ∧ wordsNat o.ws = x

/-- Every bit k of a result of `regs` registers is `bit k`. -/
def BitsAre (regs : Nat) (bit : Nat → Bool) (o : AluOut) : Prop :=
  o.plain regs ∧ ∀ k, k < 32 * regs → (wordsNat o.ws).testBit k = bit k

/-- R195: each element of the result is `r`, given the element width, the element x of a read unsigned, and the shift
amount: element e of b, or all of its one register for W = 0 and 1. -/
def ShiftIs (s : State) (i : Instr) (r : Nat → Nat → Nat → Nat) (t : TRef) (o : AluOut) : Prop :=
  let f := fieldsOf i
  let w := mdW f.md
  let n := elemBits w
  o.plain (intRegs w) ∧ ∀ e, e < elemCount w →
    bitsOf (wordsNat o.ws) (n * e) n = r n (bitsOf (s.operand i t f.a (intRegs w)) (n * e) n)
      (if w = 2 then bitsOf (s.operand i t f.b 1) (16 * e) 16 else s.operand i t f.b 1)

/-- R192: the comparison CMP of two integers. -/
def compares (cmp : Nat) (x y : Int) : Prop :=
  match cmp with
  | 0 => x = y
  | 1 => x ≠ y
  | 2 => x < y
  | 3 => x ≤ y
  | 4 => x > y
  | _ => x ≥ y

/-- R192: element e of a and of b compare under CMP. -/
def State.elemCompares (s : State) (i : Instr) (t : TRef) (e : Nat) : Prop :=
  let f := fieldsOf i
  let w := mdW f.md
  compares (mdOpx f.md) (elemAt w (mdU f.md) (s.operand i t f.a (intRegs w)) e)
    (elemAt w (mdU f.md) (s.operand i t f.b (intRegs w)) e)

/-- R192: what ICMP gives: to a predicate the one comparison; to a register all ones or 0 in each element, for W = 1 in one
register of 32 bits. -/
def CompareIs (s : State) (i : Instr) (t : TRef) (o : AluOut) : Prop :=
  let f := fieldsOf i
  let w := mdW f.md
  let n := if w = 1 then 32 else elemBits w
  o.plain 1 ∧
    ((∃ k, Opnd.ofCode f.dst = .pred k) →
      (s.elemCompares i t 0 → wordsNat o.ws = 1) ∧ (¬ s.elemCompares i t 0 → wordsNat o.ws = 0)) ∧
    ((∀ k, Opnd.ofCode f.dst ≠ .pred k) → ∀ e, e < elemCount w →
      (s.elemCompares i t e → bitsOf (wordsNat o.ws) (n * e) n = 2 ^ n - 1) ∧
      (¬ s.elemCompares i t e → bitsOf (wordsNat o.ws) (n * e) n = 0))

/-- R196: the length of the bit field that a field operand names in a value of n bits, 0 where it is empty. -/
def fieldLen (n y : Nat) : Nat := if y / 256 % 256 = 0 ∨ n ≤ y % 256 then 0 else min (y / 256 % 256) (n - y % 256)

/-! ## The results of floating-point words -/

/-- R220, R221: element e of a floating-point operand of a thread, decoded, FP32 values flushed under FTZ, with the flags of
reading it. -/
def State.fpOperand (s : State) (i : Instr) (t : TRef) (c : Code) (e : Nat) : FV × BitVec 8 :=
  let m := (fieldsOf i).md
  let n := fmtBits (typeFmt m)
  readElem (typeFmt m) (mdFtz m) (bitsOf (s.fpRaw t (fieldsOf i).lit c (fpRegs m) (typeFmt m) (typeCount m)) (n * e) n)

/-- R147: SEED after k draws, which only SR takes. -/
def drawn (rm : Nat) (seed : Word) : Nat → Word
  | 0 => seed
  | k + 1 => if rm = 5 then draw (drawn rm seed k) else drawn rm seed k

/-- The flags of some elements, in ascending order. -/
def orFlags (n : Nat) (fl : Nat → BitVec 8) : BitVec 8 := (List.range n).foldl (fun a e => a ||| fl e) 0

/-- Element e of a floating-point result has a code, given by `code`, and the elements raise flags, given by `fl`. -/
def CodesAre (i : Instr) (code : Nat → Nat) (fl : Nat → BitVec 8) (o : AluOut) : Prop :=
  let m := (fieldsOf i).md
  let n := fmtBits (typeFmt m)
  o.ws.length = fpRegs m ∧
    (∀ e, e < typeCount m → bitsOf (wordsNat o.ws) (n * e) n = code e % 2 ^ n) ∧ o.fl = orFlags (typeCount m) fl

/-- R221: each element is the exact result `r` of x, y and z, with the flags of the operation, rounded once in the element's
format; each takes a draw in ascending order under SR (R147). -/
def RoundedIs (s : State) (i : Instr) (r : FV → FV → FV → FV × Bool) (t : TRef) (o : AluOut) : Prop :=
  let f := fieldsOf i
  let x := fun e => s.fpOperand i t f.a e
  let y := fun e => s.fpOperand i t f.b e
  let z := fun e => s.fpOperand i t f.c e
  let out := fun e => roundDraw (typeFmt f.md) (mdRm f.md) (mdFtz f.md) (r (x e).1 (y e).1 (z e).1).1
    (drawn (mdRm f.md) (s.thr t).seed e)
  CodesAre i (fun e => (out e).1)
      (fun e => (if (r (x e).1 (y e).1 (z e).1).2 then fNV else 0) ||| (x e).2 ||| (y e).2 ||| (z e).2 ||| (out e).2.1) o ∧
    o.seed = if mdRm f.md = 5 then some (drawn 5 (s.thr t).seed (typeCount f.md)) else none

/-- The rational number that a finite value is. -/
def FV.rat : FV → Option ℚ
  | .fin neg m e => some ((if neg then -1 else 1) * (m : ℚ) * (2 : ℚ) ^ e)
  | _ => none

/-! ## Commands, messages and events -/

/-- R362, R363, R386: a command without reserved bits that its function may give; `pf` where the PF alone has it. -/
def State.permits (s : State) (c : Cmd) (pf : Bool) : Bool :=
  !c.rsvd && (decide (c.fn = 0) || (!pf && decide (s.partOfFn c.fn = some c.part)))

/-- R362: a command of the Parlour mailbox ends with a status, and leaves the state `b` with BUSY 0 and the status. -/
def Ends (s : State) (i : Instr) (c : Cmd) (code : Nat) (b : State) : Prop := exec i s = .next (b.mbDone c.fn code)

/-- R386: a command of the configuration mailbox ends with a status. -/
def EndsCfg (s : State) (i : Instr) (c : Cmd) (code : Nat) (b : State) : Prop := exec i s = .next (b.cfgDone c.fn code)

/-- An event, command or message leads to a state. -/
def LeadsTo (s : State) (i : Instr) (t : State) : Prop := exec i s = .next t

end Sys2Proof.Machine
end

