-- ==== Sys2Proof/Laws/State.lean ====
section
/-! SUPPORT. One lemma for each part of the state and each named update that leaves it as it was. -/

namespace Sys2Proof.Machine

open Sys2Proof

@[simp] theorem State.setThr_clk (s : State) (t : TRef) (f : Thread → Thread) : (s.setThr t f).clk = s.clk := rfl
@[simp] theorem State.setThr_r_v (s : State) (t : TRef) (f : Thread → Thread) : (s.setThr t f).r.v = s.r.v := rfl
@[simp] theorem State.setThr_r_s (s : State) (t : TRef) (f : Thread → Thread) : (s.setThr t f).r.s = s.r.s := rfl
@[simp] theorem State.setThr_r_m (s : State) (t : TRef) (f : Thread → Thread) : (s.setThr t f).r.m = s.r.m := rfl
@[simp] theorem State.setThr_r_lbl (s : State) (t : TRef) (f : Thread → Thread) : (s.setThr t f).r.lbl = s.r.lbl := rfl
@[simp] theorem State.setThr_r_scr (s : State) (t : TRef) (f : Thread → Thread) : (s.setThr t f).r.scr = s.r.scr := rfl
@[simp] theorem State.setThr_r_sline (s : State) (t : TRef) (f : Thread → Thread) : (s.setThr t f).r.sline = s.r.sline := rfl
@[simp] theorem State.setThr_r_vat (s : State) (t : TRef) (f : Thread → Thread) : (s.setThr t f).r.vat = s.r.vat := rfl
@[simp] theorem State.setThr_r_vatLbl (s : State) (t : TRef) (f : Thread → Thread) : (s.setThr t f).r.vatLbl = s.r.vatLbl := rfl
@[simp] theorem State.setThr_r_vatOld (s : State) (t : TRef) (f : Thread → Thread) : (s.setThr t f).r.vatOld = s.r.vatOld := rfl
@[simp] theorem State.setThr_sch (s : State) (t : TRef) (f : Thread → Thread) : (s.setThr t f).sch = s.sch := rfl
@[simp] theorem State.setThr_m (s : State) (t : TRef) (f : Thread → Thread) : (s.setThr t f).m = s.m := rfl
@[simp] theorem State.setThr_e (s : State) (t : TRef) (f : Thread → Thread) : (s.setThr t f).e = s.e := rfl
@[simp] theorem State.setThr_gr (s : State) (t : TRef) (f : Thread → Thread) : (s.setThr t f).gr = s.gr := rfl
@[simp] theorem State.setThr_h (s : State) (t : TRef) (f : Thread → Thread) : (s.setThr t f).h = s.h := rfl
@[simp] theorem State.setThr_y (s : State) (t : TRef) (f : Thread → Thread) : (s.setThr t f).y = s.y := rfl

@[simp] theorem State.setTeam_clk (s : State) (n : Nat) (f : Team → Team) : (s.setTeam n f).clk = s.clk := by
  unfold State.setTeam; split <;> rfl
@[simp] theorem State.setTeam_r (s : State) (n : Nat) (f : Team → Team) : (s.setTeam n f).r = s.r := by
  unfold State.setTeam; split <;> rfl
@[simp] theorem State.setTeam_sch_groups (s : State) (n : Nat) (f : Team → Team) : (s.setTeam n f).sch.groups = s.sch.groups := by
  unfold State.setTeam; split <;> rfl
@[simp] theorem State.setTeam_sch_paths (s : State) (n : Nat) (f : Team → Team) : (s.setTeam n f).sch.paths = s.sch.paths := by
  unfold State.setTeam; split <;> rfl
@[simp] theorem State.setTeam_sch_igs (s : State) (n : Nat) (f : Team → Team) : (s.setTeam n f).sch.igs = s.sch.igs := by
  unfold State.setTeam; split <;> rfl
@[simp] theorem State.setTeam_sch_runs (s : State) (n : Nat) (f : Team → Team) : (s.setTeam n f).sch.runs = s.sch.runs := by
  unfold State.setTeam; split <;> rfl
@[simp] theorem State.setTeam_sch_pend (s : State) (n : Nat) (f : Team → Team) : (s.setTeam n f).sch.pend = s.sch.pend := by
  unfold State.setTeam; split <;> rfl
@[simp] theorem State.setTeam_sch_pendL (s : State) (n : Nat) (f : Team → Team) : (s.setTeam n f).sch.pendL = s.sch.pendL := by
  unfold State.setTeam; split <;> rfl
@[simp] theorem State.setTeam_sch_lcopies (s : State) (n : Nat) (f : Team → Team) : (s.setTeam n f).sch.lcopies = s.sch.lcopies := by
  unfold State.setTeam; split <;> rfl
@[simp] theorem State.setTeam_sch_busy (s : State) (n : Nat) (f : Team → Team) : (s.setTeam n f).sch.busy = s.sch.busy := by
  unfold State.setTeam; split <;> rfl
@[simp] theorem State.setTeam_sch_dropped (s : State) (n : Nat) (f : Team → Team) : (s.setTeam n f).sch.dropped = s.sch.dropped := by
  unfold State.setTeam; split <;> rfl
@[simp] theorem State.setTeam_sch_resolv (s : State) (n : Nat) (f : Team → Team) : (s.setTeam n f).sch.resolv = s.sch.resolv := by
  unfold State.setTeam; split <;> rfl
@[simp] theorem State.setTeam_sch_nextToken (s : State) (n : Nat) (f : Team → Team) : (s.setTeam n f).sch.nextToken = s.sch.nextToken := by
  unfold State.setTeam; split <;> rfl
@[simp] theorem State.setTeam_sch_sub (s : State) (n : Nat) (f : Team → Team) : (s.setTeam n f).sch.sub = s.sch.sub := by
  unfold State.setTeam; split <;> rfl
@[simp] theorem State.setTeam_sch_completions (s : State) (n : Nat) (f : Team → Team) : (s.setTeam n f).sch.completions = s.sch.completions := by
  unfold State.setTeam; split <;> rfl
@[simp] theorem State.setTeam_sch_passes (s : State) (n : Nat) (f : Team → Team) : (s.setTeam n f).sch.passes = s.sch.passes := by
  unfold State.setTeam; split <;> rfl
@[simp] theorem State.setTeam_m (s : State) (n : Nat) (f : Team → Team) : (s.setTeam n f).m = s.m := by
  unfold State.setTeam; split <;> rfl
@[simp] theorem State.setTeam_e (s : State) (n : Nat) (f : Team → Team) : (s.setTeam n f).e = s.e := by
  unfold State.setTeam; split <;> rfl
@[simp] theorem State.setTeam_gr (s : State) (n : Nat) (f : Team → Team) : (s.setTeam n f).gr = s.gr := by
  unfold State.setTeam; split <;> rfl
@[simp] theorem State.setTeam_h (s : State) (n : Nat) (f : Team → Team) : (s.setTeam n f).h = s.h := by
  unfold State.setTeam; split <;> rfl
@[simp] theorem State.setTeam_y (s : State) (n : Nat) (f : Team → Team) : (s.setTeam n f).y = s.y := by
  unfold State.setTeam; split <;> rfl

@[simp] theorem State.setGroup_clk (s : State) (g : GRef) (f : Group → Group) : (s.setGroup g f).clk = s.clk := by
  unfold State.setGroup; split <;> rfl
@[simp] theorem State.setGroup_r (s : State) (g : GRef) (f : Group → Group) : (s.setGroup g f).r = s.r := by
  unfold State.setGroup; split <;> rfl
@[simp] theorem State.setGroup_sch_teams (s : State) (g : GRef) (f : Group → Group) : (s.setGroup g f).sch.teams = s.sch.teams := by
  unfold State.setGroup; split <;> rfl
@[simp] theorem State.setGroup_sch_paths (s : State) (g : GRef) (f : Group → Group) : (s.setGroup g f).sch.paths = s.sch.paths := by
  unfold State.setGroup; split <;> rfl
@[simp] theorem State.setGroup_sch_igs (s : State) (g : GRef) (f : Group → Group) : (s.setGroup g f).sch.igs = s.sch.igs := by
  unfold State.setGroup; split <;> rfl
@[simp] theorem State.setGroup_sch_runs (s : State) (g : GRef) (f : Group → Group) : (s.setGroup g f).sch.runs = s.sch.runs := by
  unfold State.setGroup; split <;> rfl
@[simp] theorem State.setGroup_sch_pend (s : State) (g : GRef) (f : Group → Group) : (s.setGroup g f).sch.pend = s.sch.pend := by
  unfold State.setGroup; split <;> rfl
@[simp] theorem State.setGroup_sch_pendL (s : State) (g : GRef) (f : Group → Group) : (s.setGroup g f).sch.pendL = s.sch.pendL := by
  unfold State.setGroup; split <;> rfl
@[simp] theorem State.setGroup_sch_lcopies (s : State) (g : GRef) (f : Group → Group) : (s.setGroup g f).sch.lcopies = s.sch.lcopies := by
  unfold State.setGroup; split <;> rfl
@[simp] theorem State.setGroup_sch_busy (s : State) (g : GRef) (f : Group → Group) : (s.setGroup g f).sch.busy = s.sch.busy := by
  unfold State.setGroup; split <;> rfl
@[simp] theorem State.setGroup_sch_dropped (s : State) (g : GRef) (f : Group → Group) : (s.setGroup g f).sch.dropped = s.sch.dropped := by
  unfold State.setGroup; split <;> rfl
@[simp] theorem State.setGroup_sch_resolv (s : State) (g : GRef) (f : Group → Group) : (s.setGroup g f).sch.resolv = s.sch.resolv := by
  unfold State.setGroup; split <;> rfl
@[simp] theorem State.setGroup_sch_nextToken (s : State) (g : GRef) (f : Group → Group) : (s.setGroup g f).sch.nextToken = s.sch.nextToken := by
  unfold State.setGroup; split <;> rfl
@[simp] theorem State.setGroup_sch_sub (s : State) (g : GRef) (f : Group → Group) : (s.setGroup g f).sch.sub = s.sch.sub := by
  unfold State.setGroup; split <;> rfl
@[simp] theorem State.setGroup_sch_completions (s : State) (g : GRef) (f : Group → Group) : (s.setGroup g f).sch.completions = s.sch.completions := by
  unfold State.setGroup; split <;> rfl
@[simp] theorem State.setGroup_sch_passes (s : State) (g : GRef) (f : Group → Group) : (s.setGroup g f).sch.passes = s.sch.passes := by
  unfold State.setGroup; split <;> rfl
@[simp] theorem State.setGroup_m (s : State) (g : GRef) (f : Group → Group) : (s.setGroup g f).m = s.m := by
  unfold State.setGroup; split <;> rfl
@[simp] theorem State.setGroup_e (s : State) (g : GRef) (f : Group → Group) : (s.setGroup g f).e = s.e := by
  unfold State.setGroup; split <;> rfl
@[simp] theorem State.setGroup_gr (s : State) (g : GRef) (f : Group → Group) : (s.setGroup g f).gr = s.gr := by
  unfold State.setGroup; split <;> rfl
@[simp] theorem State.setGroup_h (s : State) (g : GRef) (f : Group → Group) : (s.setGroup g f).h = s.h := by
  unfold State.setGroup; split <;> rfl
@[simp] theorem State.setGroup_y (s : State) (g : GRef) (f : Group → Group) : (s.setGroup g f).y = s.y := by
  unfold State.setGroup; split <;> rfl

@[simp] theorem State.setPart_clk (s : State) (n : Nat) (f : Part → Part) : (s.setPart n f).clk = s.clk := rfl
@[simp] theorem State.setPart_r (s : State) (n : Nat) (f : Part → Part) : (s.setPart n f).r = s.r := rfl
@[simp] theorem State.setPart_sch (s : State) (n : Nat) (f : Part → Part) : (s.setPart n f).sch = s.sch := rfl
@[simp] theorem State.setPart_m (s : State) (n : Nat) (f : Part → Part) : (s.setPart n f).m = s.m := rfl
@[simp] theorem State.setPart_e (s : State) (n : Nat) (f : Part → Part) : (s.setPart n f).e = s.e := rfl
@[simp] theorem State.setPart_gr_queues (s : State) (n : Nat) (f : Part → Part) : (s.setPart n f).gr.queues = s.gr.queues := rfl
@[simp] theorem State.setPart_gr_near (s : State) (n : Nat) (f : Part → Part) : (s.setPart n f).gr.near = s.gr.near := rfl
@[simp] theorem State.setPart_gr_far (s : State) (n : Nat) (f : Part → Part) : (s.setPart n f).gr.far = s.gr.far := rfl
@[simp] theorem State.setPart_gr_remote (s : State) (n : Nat) (f : Part → Part) : (s.setPart n f).gr.remote = s.gr.remote := rfl
@[simp] theorem State.setPart_gr_boxes (s : State) (n : Nat) (f : Part → Part) : (s.setPart n f).gr.boxes = s.gr.boxes := rfl
@[simp] theorem State.setPart_gr_pubAt (s : State) (n : Nat) (f : Part → Part) : (s.setPart n f).gr.pubAt = s.gr.pubAt := rfl
@[simp] theorem State.setPart_gr_farAt (s : State) (n : Nat) (f : Part → Part) : (s.setPart n f).gr.farAt = s.gr.farAt := rfl
@[simp] theorem State.setPart_gr_remAt (s : State) (n : Nat) (f : Part → Part) : (s.setPart n f).gr.remAt = s.gr.remAt := rfl
@[simp] theorem State.setPart_gr_convs (s : State) (n : Nat) (f : Part → Part) : (s.setPart n f).gr.convs = s.gr.convs := rfl
@[simp] theorem State.setPart_gr_preqs (s : State) (n : Nat) (f : Part → Part) : (s.setPart n f).gr.preqs = s.gr.preqs := rfl
@[simp] theorem State.setPart_gr_renqs (s : State) (n : Nat) (f : Part → Part) : (s.setPart n f).gr.renqs = s.gr.renqs := rfl
@[simp] theorem State.setPart_gr_fwd (s : State) (n : Nat) (f : Part → Part) : (s.setPart n f).gr.fwd = s.gr.fwd := rfl
@[simp] theorem State.setPart_gr_sent (s : State) (n : Nat) (f : Part → Part) : (s.setPart n f).gr.sent = s.gr.sent := rfl
@[simp] theorem State.setPart_gr_early (s : State) (n : Nat) (f : Part → Part) : (s.setPart n f).gr.early = s.gr.early := rfl
@[simp] theorem State.setPart_h (s : State) (n : Nat) (f : Part → Part) : (s.setPart n f).h = s.h := rfl
@[simp] theorem State.setPart_y (s : State) (n : Nat) (f : Part → Part) : (s.setPart n f).y = s.y := rfl

@[simp] theorem State.setFn_clk (s : State) (n : Nat) (f : Fn → Fn) : (s.setFn n f).clk = s.clk := rfl
@[simp] theorem State.setFn_r (s : State) (n : Nat) (f : Fn → Fn) : (s.setFn n f).r = s.r := rfl
@[simp] theorem State.setFn_sch (s : State) (n : Nat) (f : Fn → Fn) : (s.setFn n f).sch = s.sch := rfl
@[simp] theorem State.setFn_m (s : State) (n : Nat) (f : Fn → Fn) : (s.setFn n f).m = s.m := rfl
@[simp] theorem State.setFn_e (s : State) (n : Nat) (f : Fn → Fn) : (s.setFn n f).e = s.e := rfl
@[simp] theorem State.setFn_gr (s : State) (n : Nat) (f : Fn → Fn) : (s.setFn n f).gr = s.gr := rfl
@[simp] theorem State.setFn_h_slots (s : State) (n : Nat) (f : Fn → Fn) : (s.setFn n f).h.slots = s.h.slots := rfl
@[simp] theorem State.setFn_h_parlourQ (s : State) (n : Nat) (f : Fn → Fn) : (s.setFn n f).h.parlourQ = s.h.parlourQ := rfl
@[simp] theorem State.setFn_h_cfgQ (s : State) (n : Nat) (f : Fn → Fn) : (s.setFn n f).h.cfgQ = s.h.cfgQ := rfl
@[simp] theorem State.setFn_h_replies (s : State) (n : Nat) (f : Fn → Fn) : (s.setFn n f).h.replies = s.h.replies := rfl
@[simp] theorem State.setFn_h_pwait (s : State) (n : Nat) (f : Fn → Fn) : (s.setFn n f).h.pwait = s.h.pwait := rfl
@[simp] theorem State.setFn_h_refused (s : State) (n : Nat) (f : Fn → Fn) : (s.setFn n f).h.refused = s.h.refused := rfl
@[simp] theorem State.setFn_y (s : State) (n : Nat) (f : Fn → Fn) : (s.setFn n f).y = s.y := rfl

@[simp] theorem State.vSet_clk (s : State) (t : TRef) (n : Nat) (x : Word) : (s.vSet t n x).clk = s.clk := rfl
@[simp] theorem State.vSet_r_s (s : State) (t : TRef) (n : Nat) (x : Word) : (s.vSet t n x).r.s = s.r.s := rfl
@[simp] theorem State.vSet_r_m (s : State) (t : TRef) (n : Nat) (x : Word) : (s.vSet t n x).r.m = s.r.m := rfl
@[simp] theorem State.vSet_r_lbl (s : State) (t : TRef) (n : Nat) (x : Word) : (s.vSet t n x).r.lbl = s.r.lbl := rfl
@[simp] theorem State.vSet_r_thr (s : State) (t : TRef) (n : Nat) (x : Word) : (s.vSet t n x).r.thr = s.r.thr := rfl
@[simp] theorem State.vSet_r_scr (s : State) (t : TRef) (n : Nat) (x : Word) : (s.vSet t n x).r.scr = s.r.scr := rfl
@[simp] theorem State.vSet_r_sline (s : State) (t : TRef) (n : Nat) (x : Word) : (s.vSet t n x).r.sline = s.r.sline := rfl
@[simp] theorem State.vSet_r_vat (s : State) (t : TRef) (n : Nat) (x : Word) : (s.vSet t n x).r.vat = s.r.vat := rfl
@[simp] theorem State.vSet_r_vatLbl (s : State) (t : TRef) (n : Nat) (x : Word) : (s.vSet t n x).r.vatLbl = s.r.vatLbl := rfl
@[simp] theorem State.vSet_r_vatOld (s : State) (t : TRef) (n : Nat) (x : Word) : (s.vSet t n x).r.vatOld = s.r.vatOld := rfl
@[simp] theorem State.vSet_sch (s : State) (t : TRef) (n : Nat) (x : Word) : (s.vSet t n x).sch = s.sch := rfl
@[simp] theorem State.vSet_m (s : State) (t : TRef) (n : Nat) (x : Word) : (s.vSet t n x).m = s.m := rfl
@[simp] theorem State.vSet_e (s : State) (t : TRef) (n : Nat) (x : Word) : (s.vSet t n x).e = s.e := rfl
@[simp] theorem State.vSet_gr (s : State) (t : TRef) (n : Nat) (x : Word) : (s.vSet t n x).gr = s.gr := rfl
@[simp] theorem State.vSet_h (s : State) (t : TRef) (n : Nat) (x : Word) : (s.vSet t n x).h = s.h := rfl
@[simp] theorem State.vSet_y (s : State) (t : TRef) (n : Nat) (x : Word) : (s.vSet t n x).y = s.y := rfl

@[simp] theorem State.sSet_clk (s : State) (g : GRef) (n : Nat) (x : Word) : (s.sSet g n x).clk = s.clk := rfl
@[simp] theorem State.sSet_r_v (s : State) (g : GRef) (n : Nat) (x : Word) : (s.sSet g n x).r.v = s.r.v := rfl
@[simp] theorem State.sSet_r_m (s : State) (g : GRef) (n : Nat) (x : Word) : (s.sSet g n x).r.m = s.r.m := rfl
@[simp] theorem State.sSet_r_lbl (s : State) (g : GRef) (n : Nat) (x : Word) : (s.sSet g n x).r.lbl = s.r.lbl := rfl
@[simp] theorem State.sSet_r_thr (s : State) (g : GRef) (n : Nat) (x : Word) : (s.sSet g n x).r.thr = s.r.thr := rfl
@[simp] theorem State.sSet_r_scr (s : State) (g : GRef) (n : Nat) (x : Word) : (s.sSet g n x).r.scr = s.r.scr := rfl
@[simp] theorem State.sSet_r_sline (s : State) (g : GRef) (n : Nat) (x : Word) : (s.sSet g n x).r.sline = s.r.sline := rfl
@[simp] theorem State.sSet_r_vat (s : State) (g : GRef) (n : Nat) (x : Word) : (s.sSet g n x).r.vat = s.r.vat := rfl
@[simp] theorem State.sSet_r_vatLbl (s : State) (g : GRef) (n : Nat) (x : Word) : (s.sSet g n x).r.vatLbl = s.r.vatLbl := rfl
@[simp] theorem State.sSet_r_vatOld (s : State) (g : GRef) (n : Nat) (x : Word) : (s.sSet g n x).r.vatOld = s.r.vatOld := rfl
@[simp] theorem State.sSet_sch (s : State) (g : GRef) (n : Nat) (x : Word) : (s.sSet g n x).sch = s.sch := rfl
@[simp] theorem State.sSet_m (s : State) (g : GRef) (n : Nat) (x : Word) : (s.sSet g n x).m = s.m := rfl
@[simp] theorem State.sSet_e (s : State) (g : GRef) (n : Nat) (x : Word) : (s.sSet g n x).e = s.e := rfl
@[simp] theorem State.sSet_gr (s : State) (g : GRef) (n : Nat) (x : Word) : (s.sSet g n x).gr = s.gr := rfl
@[simp] theorem State.sSet_h (s : State) (g : GRef) (n : Nat) (x : Word) : (s.sSet g n x).h = s.h := rfl
@[simp] theorem State.sSet_y (s : State) (g : GRef) (n : Nat) (x : Word) : (s.sSet g n x).y = s.y := rfl

@[simp] theorem State.mSet_clk (s : State) (t : TRef) (n : Nat) (x : Bool) : (s.mSet t n x).clk = s.clk := by
  unfold State.mSet; split <;> rfl
@[simp] theorem State.mSet_r_v (s : State) (t : TRef) (n : Nat) (x : Bool) : (s.mSet t n x).r.v = s.r.v := by
  unfold State.mSet; split <;> rfl
@[simp] theorem State.mSet_r_s (s : State) (t : TRef) (n : Nat) (x : Bool) : (s.mSet t n x).r.s = s.r.s := by
  unfold State.mSet; split <;> rfl
@[simp] theorem State.mSet_r_lbl (s : State) (t : TRef) (n : Nat) (x : Bool) : (s.mSet t n x).r.lbl = s.r.lbl := by
  unfold State.mSet; split <;> rfl
@[simp] theorem State.mSet_r_thr (s : State) (t : TRef) (n : Nat) (x : Bool) : (s.mSet t n x).r.thr = s.r.thr := by
  unfold State.mSet; split <;> rfl
@[simp] theorem State.mSet_r_scr (s : State) (t : TRef) (n : Nat) (x : Bool) : (s.mSet t n x).r.scr = s.r.scr := by
  unfold State.mSet; split <;> rfl
@[simp] theorem State.mSet_r_sline (s : State) (t : TRef) (n : Nat) (x : Bool) : (s.mSet t n x).r.sline = s.r.sline := by
  unfold State.mSet; split <;> rfl
@[simp] theorem State.mSet_r_vat (s : State) (t : TRef) (n : Nat) (x : Bool) : (s.mSet t n x).r.vat = s.r.vat := by
  unfold State.mSet; split <;> rfl
@[simp] theorem State.mSet_r_vatLbl (s : State) (t : TRef) (n : Nat) (x : Bool) : (s.mSet t n x).r.vatLbl = s.r.vatLbl := by
  unfold State.mSet; split <;> rfl
@[simp] theorem State.mSet_r_vatOld (s : State) (t : TRef) (n : Nat) (x : Bool) : (s.mSet t n x).r.vatOld = s.r.vatOld := by
  unfold State.mSet; split <;> rfl
@[simp] theorem State.mSet_sch (s : State) (t : TRef) (n : Nat) (x : Bool) : (s.mSet t n x).sch = s.sch := by
  unfold State.mSet; split <;> rfl
@[simp] theorem State.mSet_m (s : State) (t : TRef) (n : Nat) (x : Bool) : (s.mSet t n x).m = s.m := by
  unfold State.mSet; split <;> rfl
@[simp] theorem State.mSet_e (s : State) (t : TRef) (n : Nat) (x : Bool) : (s.mSet t n x).e = s.e := by
  unfold State.mSet; split <;> rfl
@[simp] theorem State.mSet_gr (s : State) (t : TRef) (n : Nat) (x : Bool) : (s.mSet t n x).gr = s.gr := by
  unfold State.mSet; split <;> rfl
@[simp] theorem State.mSet_h (s : State) (t : TRef) (n : Nat) (x : Bool) : (s.mSet t n x).h = s.h := by
  unfold State.mSet; split <;> rfl
@[simp] theorem State.mSet_y (s : State) (t : TRef) (n : Nat) (x : Bool) : (s.mSet t n x).y = s.y := by
  unfold State.mSet; split <;> rfl

@[simp] theorem State.setTileLbl_clk (s : State) (g : GRef) (k : Tile) (l : Label) : (s.setTileLbl g k l).clk = s.clk := rfl
@[simp] theorem State.setTileLbl_r_v (s : State) (g : GRef) (k : Tile) (l : Label) : (s.setTileLbl g k l).r.v = s.r.v := rfl
@[simp] theorem State.setTileLbl_r_s (s : State) (g : GRef) (k : Tile) (l : Label) : (s.setTileLbl g k l).r.s = s.r.s := rfl
@[simp] theorem State.setTileLbl_r_m (s : State) (g : GRef) (k : Tile) (l : Label) : (s.setTileLbl g k l).r.m = s.r.m := rfl
@[simp] theorem State.setTileLbl_r_thr (s : State) (g : GRef) (k : Tile) (l : Label) : (s.setTileLbl g k l).r.thr = s.r.thr := rfl
@[simp] theorem State.setTileLbl_r_scr (s : State) (g : GRef) (k : Tile) (l : Label) : (s.setTileLbl g k l).r.scr = s.r.scr := rfl
@[simp] theorem State.setTileLbl_r_sline (s : State) (g : GRef) (k : Tile) (l : Label) : (s.setTileLbl g k l).r.sline = s.r.sline := rfl
@[simp] theorem State.setTileLbl_r_vat (s : State) (g : GRef) (k : Tile) (l : Label) : (s.setTileLbl g k l).r.vat = s.r.vat := rfl
@[simp] theorem State.setTileLbl_r_vatLbl (s : State) (g : GRef) (k : Tile) (l : Label) : (s.setTileLbl g k l).r.vatLbl = s.r.vatLbl := rfl
@[simp] theorem State.setTileLbl_r_vatOld (s : State) (g : GRef) (k : Tile) (l : Label) : (s.setTileLbl g k l).r.vatOld = s.r.vatOld := rfl
@[simp] theorem State.setTileLbl_sch (s : State) (g : GRef) (k : Tile) (l : Label) : (s.setTileLbl g k l).sch = s.sch := rfl
@[simp] theorem State.setTileLbl_m (s : State) (g : GRef) (k : Tile) (l : Label) : (s.setTileLbl g k l).m = s.m := rfl
@[simp] theorem State.setTileLbl_e (s : State) (g : GRef) (k : Tile) (l : Label) : (s.setTileLbl g k l).e = s.e := rfl
@[simp] theorem State.setTileLbl_gr (s : State) (g : GRef) (k : Tile) (l : Label) : (s.setTileLbl g k l).gr = s.gr := rfl
@[simp] theorem State.setTileLbl_h (s : State) (g : GRef) (k : Tile) (l : Label) : (s.setTileLbl g k l).h = s.h := rfl
@[simp] theorem State.setTileLbl_y (s : State) (g : GRef) (k : Tile) (l : Label) : (s.setTileLbl g k l).y = s.y := rfl

@[simp] theorem State.joinTileLbl_clk (s : State) (g : GRef) (k : Tile) (l : Label) : (s.joinTileLbl g k l).clk = s.clk := rfl
@[simp] theorem State.joinTileLbl_r_v (s : State) (g : GRef) (k : Tile) (l : Label) : (s.joinTileLbl g k l).r.v = s.r.v := rfl
@[simp] theorem State.joinTileLbl_r_s (s : State) (g : GRef) (k : Tile) (l : Label) : (s.joinTileLbl g k l).r.s = s.r.s := rfl
@[simp] theorem State.joinTileLbl_r_m (s : State) (g : GRef) (k : Tile) (l : Label) : (s.joinTileLbl g k l).r.m = s.r.m := rfl
@[simp] theorem State.joinTileLbl_r_thr (s : State) (g : GRef) (k : Tile) (l : Label) : (s.joinTileLbl g k l).r.thr = s.r.thr := rfl
@[simp] theorem State.joinTileLbl_r_scr (s : State) (g : GRef) (k : Tile) (l : Label) : (s.joinTileLbl g k l).r.scr = s.r.scr := rfl
@[simp] theorem State.joinTileLbl_r_sline (s : State) (g : GRef) (k : Tile) (l : Label) : (s.joinTileLbl g k l).r.sline = s.r.sline := rfl
@[simp] theorem State.joinTileLbl_r_vat (s : State) (g : GRef) (k : Tile) (l : Label) : (s.joinTileLbl g k l).r.vat = s.r.vat := rfl
@[simp] theorem State.joinTileLbl_r_vatLbl (s : State) (g : GRef) (k : Tile) (l : Label) : (s.joinTileLbl g k l).r.vatLbl = s.r.vatLbl := rfl
@[simp] theorem State.joinTileLbl_r_vatOld (s : State) (g : GRef) (k : Tile) (l : Label) : (s.joinTileLbl g k l).r.vatOld = s.r.vatOld := rfl
@[simp] theorem State.joinTileLbl_sch (s : State) (g : GRef) (k : Tile) (l : Label) : (s.joinTileLbl g k l).sch = s.sch := rfl
@[simp] theorem State.joinTileLbl_m (s : State) (g : GRef) (k : Tile) (l : Label) : (s.joinTileLbl g k l).m = s.m := rfl
@[simp] theorem State.joinTileLbl_e (s : State) (g : GRef) (k : Tile) (l : Label) : (s.joinTileLbl g k l).e = s.e := rfl
@[simp] theorem State.joinTileLbl_gr (s : State) (g : GRef) (k : Tile) (l : Label) : (s.joinTileLbl g k l).gr = s.gr := rfl
@[simp] theorem State.joinTileLbl_h (s : State) (g : GRef) (k : Tile) (l : Label) : (s.joinTileLbl g k l).h = s.h := rfl
@[simp] theorem State.joinTileLbl_y (s : State) (g : GRef) (k : Tile) (l : Label) : (s.joinTileLbl g k l).y = s.y := rfl

@[simp] theorem State.setSbyte_clk (s : State) (n a : Nat) (b : Byte) : (s.setSbyte n a b).clk = s.clk := rfl
@[simp] theorem State.setSbyte_r_v (s : State) (n a : Nat) (b : Byte) : (s.setSbyte n a b).r.v = s.r.v := rfl
@[simp] theorem State.setSbyte_r_s (s : State) (n a : Nat) (b : Byte) : (s.setSbyte n a b).r.s = s.r.s := rfl
@[simp] theorem State.setSbyte_r_m (s : State) (n a : Nat) (b : Byte) : (s.setSbyte n a b).r.m = s.r.m := rfl
@[simp] theorem State.setSbyte_r_lbl (s : State) (n a : Nat) (b : Byte) : (s.setSbyte n a b).r.lbl = s.r.lbl := rfl
@[simp] theorem State.setSbyte_r_thr (s : State) (n a : Nat) (b : Byte) : (s.setSbyte n a b).r.thr = s.r.thr := rfl
@[simp] theorem State.setSbyte_r_sline (s : State) (n a : Nat) (b : Byte) : (s.setSbyte n a b).r.sline = s.r.sline := rfl
@[simp] theorem State.setSbyte_r_vat (s : State) (n a : Nat) (b : Byte) : (s.setSbyte n a b).r.vat = s.r.vat := rfl
@[simp] theorem State.setSbyte_r_vatLbl (s : State) (n a : Nat) (b : Byte) : (s.setSbyte n a b).r.vatLbl = s.r.vatLbl := rfl
@[simp] theorem State.setSbyte_r_vatOld (s : State) (n a : Nat) (b : Byte) : (s.setSbyte n a b).r.vatOld = s.r.vatOld := rfl
@[simp] theorem State.setSbyte_sch (s : State) (n a : Nat) (b : Byte) : (s.setSbyte n a b).sch = s.sch := rfl
@[simp] theorem State.setSbyte_m (s : State) (n a : Nat) (b : Byte) : (s.setSbyte n a b).m = s.m := rfl
@[simp] theorem State.setSbyte_e (s : State) (n a : Nat) (b : Byte) : (s.setSbyte n a b).e = s.e := rfl
@[simp] theorem State.setSbyte_gr (s : State) (n a : Nat) (b : Byte) : (s.setSbyte n a b).gr = s.gr := rfl
@[simp] theorem State.setSbyte_h (s : State) (n a : Nat) (b : Byte) : (s.setSbyte n a b).h = s.h := rfl
@[simp] theorem State.setSbyte_y (s : State) (n a : Nat) (b : Byte) : (s.setSbyte n a b).y = s.y := rfl

@[simp] theorem State.setSline_clk (s : State) (n a : Nat) (f : SLine → SLine) : (s.setSline n a f).clk = s.clk := rfl
@[simp] theorem State.setSline_r_v (s : State) (n a : Nat) (f : SLine → SLine) : (s.setSline n a f).r.v = s.r.v := rfl
@[simp] theorem State.setSline_r_s (s : State) (n a : Nat) (f : SLine → SLine) : (s.setSline n a f).r.s = s.r.s := rfl
@[simp] theorem State.setSline_r_m (s : State) (n a : Nat) (f : SLine → SLine) : (s.setSline n a f).r.m = s.r.m := rfl
@[simp] theorem State.setSline_r_lbl (s : State) (n a : Nat) (f : SLine → SLine) : (s.setSline n a f).r.lbl = s.r.lbl := rfl
@[simp] theorem State.setSline_r_thr (s : State) (n a : Nat) (f : SLine → SLine) : (s.setSline n a f).r.thr = s.r.thr := rfl
@[simp] theorem State.setSline_r_scr (s : State) (n a : Nat) (f : SLine → SLine) : (s.setSline n a f).r.scr = s.r.scr := rfl
@[simp] theorem State.setSline_r_vat (s : State) (n a : Nat) (f : SLine → SLine) : (s.setSline n a f).r.vat = s.r.vat := rfl
@[simp] theorem State.setSline_r_vatLbl (s : State) (n a : Nat) (f : SLine → SLine) : (s.setSline n a f).r.vatLbl = s.r.vatLbl := rfl
@[simp] theorem State.setSline_r_vatOld (s : State) (n a : Nat) (f : SLine → SLine) : (s.setSline n a f).r.vatOld = s.r.vatOld := rfl
@[simp] theorem State.setSline_sch (s : State) (n a : Nat) (f : SLine → SLine) : (s.setSline n a f).sch = s.sch := rfl
@[simp] theorem State.setSline_m (s : State) (n a : Nat) (f : SLine → SLine) : (s.setSline n a f).m = s.m := rfl
@[simp] theorem State.setSline_e (s : State) (n a : Nat) (f : SLine → SLine) : (s.setSline n a f).e = s.e := rfl
@[simp] theorem State.setSline_gr (s : State) (n a : Nat) (f : SLine → SLine) : (s.setSline n a f).gr = s.gr := rfl
@[simp] theorem State.setSline_h (s : State) (n a : Nat) (f : SLine → SLine) : (s.setSline n a f).h = s.h := rfl
@[simp] theorem State.setSline_y (s : State) (n a : Nat) (f : SLine → SLine) : (s.setSline n a f).y = s.y := rfl

@[simp] theorem State.setPath_clk (s : State) (n : Nat) (f : Path → Path) : (s.setPath n f).clk = s.clk := rfl
@[simp] theorem State.setPath_r (s : State) (n : Nat) (f : Path → Path) : (s.setPath n f).r = s.r := rfl
@[simp] theorem State.setPath_sch_teams (s : State) (n : Nat) (f : Path → Path) : (s.setPath n f).sch.teams = s.sch.teams := rfl
@[simp] theorem State.setPath_sch_groups (s : State) (n : Nat) (f : Path → Path) : (s.setPath n f).sch.groups = s.sch.groups := rfl
@[simp] theorem State.setPath_sch_igs (s : State) (n : Nat) (f : Path → Path) : (s.setPath n f).sch.igs = s.sch.igs := rfl
@[simp] theorem State.setPath_sch_runs (s : State) (n : Nat) (f : Path → Path) : (s.setPath n f).sch.runs = s.sch.runs := rfl
@[simp] theorem State.setPath_sch_pend (s : State) (n : Nat) (f : Path → Path) : (s.setPath n f).sch.pend = s.sch.pend := rfl
@[simp] theorem State.setPath_sch_pendL (s : State) (n : Nat) (f : Path → Path) : (s.setPath n f).sch.pendL = s.sch.pendL := rfl
@[simp] theorem State.setPath_sch_lcopies (s : State) (n : Nat) (f : Path → Path) : (s.setPath n f).sch.lcopies = s.sch.lcopies := rfl
@[simp] theorem State.setPath_sch_busy (s : State) (n : Nat) (f : Path → Path) : (s.setPath n f).sch.busy = s.sch.busy := rfl
@[simp] theorem State.setPath_sch_dropped (s : State) (n : Nat) (f : Path → Path) : (s.setPath n f).sch.dropped = s.sch.dropped := rfl
@[simp] theorem State.setPath_sch_resolv (s : State) (n : Nat) (f : Path → Path) : (s.setPath n f).sch.resolv = s.sch.resolv := rfl
@[simp] theorem State.setPath_sch_nextToken (s : State) (n : Nat) (f : Path → Path) : (s.setPath n f).sch.nextToken = s.sch.nextToken := rfl
@[simp] theorem State.setPath_sch_sub (s : State) (n : Nat) (f : Path → Path) : (s.setPath n f).sch.sub = s.sch.sub := rfl
@[simp] theorem State.setPath_sch_completions (s : State) (n : Nat) (f : Path → Path) : (s.setPath n f).sch.completions = s.sch.completions := rfl
@[simp] theorem State.setPath_sch_passes (s : State) (n : Nat) (f : Path → Path) : (s.setPath n f).sch.passes = s.sch.passes := rfl
@[simp] theorem State.setPath_m (s : State) (n : Nat) (f : Path → Path) : (s.setPath n f).m = s.m := rfl
@[simp] theorem State.setPath_e (s : State) (n : Nat) (f : Path → Path) : (s.setPath n f).e = s.e := rfl
@[simp] theorem State.setPath_gr (s : State) (n : Nat) (f : Path → Path) : (s.setPath n f).gr = s.gr := rfl
@[simp] theorem State.setPath_h (s : State) (n : Nat) (f : Path → Path) : (s.setPath n f).h = s.h := rfl
@[simp] theorem State.setPath_y (s : State) (n : Nat) (f : Path → Path) : (s.setPath n f).y = s.y := rfl

@[simp] theorem State.dropPath_clk (s : State) (n : Nat) : (s.dropPath n).clk = s.clk := rfl
@[simp] theorem State.dropPath_r (s : State) (n : Nat) : (s.dropPath n).r = s.r := rfl
@[simp] theorem State.dropPath_sch_teams (s : State) (n : Nat) : (s.dropPath n).sch.teams = s.sch.teams := rfl
@[simp] theorem State.dropPath_sch_groups (s : State) (n : Nat) : (s.dropPath n).sch.groups = s.sch.groups := rfl
@[simp] theorem State.dropPath_sch_igs (s : State) (n : Nat) : (s.dropPath n).sch.igs = s.sch.igs := rfl
@[simp] theorem State.dropPath_sch_runs (s : State) (n : Nat) : (s.dropPath n).sch.runs = s.sch.runs := rfl
@[simp] theorem State.dropPath_sch_pend (s : State) (n : Nat) : (s.dropPath n).sch.pend = s.sch.pend := rfl
@[simp] theorem State.dropPath_sch_pendL (s : State) (n : Nat) : (s.dropPath n).sch.pendL = s.sch.pendL := rfl
@[simp] theorem State.dropPath_sch_lcopies (s : State) (n : Nat) : (s.dropPath n).sch.lcopies = s.sch.lcopies := rfl
@[simp] theorem State.dropPath_sch_busy (s : State) (n : Nat) : (s.dropPath n).sch.busy = s.sch.busy := rfl
@[simp] theorem State.dropPath_sch_dropped (s : State) (n : Nat) : (s.dropPath n).sch.dropped = s.sch.dropped := rfl
@[simp] theorem State.dropPath_sch_resolv (s : State) (n : Nat) : (s.dropPath n).sch.resolv = s.sch.resolv := rfl
@[simp] theorem State.dropPath_sch_nextToken (s : State) (n : Nat) : (s.dropPath n).sch.nextToken = s.sch.nextToken := rfl
@[simp] theorem State.dropPath_sch_sub (s : State) (n : Nat) : (s.dropPath n).sch.sub = s.sch.sub := rfl
@[simp] theorem State.dropPath_sch_completions (s : State) (n : Nat) : (s.dropPath n).sch.completions = s.sch.completions := rfl
@[simp] theorem State.dropPath_sch_passes (s : State) (n : Nat) : (s.dropPath n).sch.passes = s.sch.passes := rfl
@[simp] theorem State.dropPath_m (s : State) (n : Nat) : (s.dropPath n).m = s.m := rfl
@[simp] theorem State.dropPath_e (s : State) (n : Nat) : (s.dropPath n).e = s.e := rfl
@[simp] theorem State.dropPath_gr (s : State) (n : Nat) : (s.dropPath n).gr = s.gr := rfl
@[simp] theorem State.dropPath_h (s : State) (n : Nat) : (s.dropPath n).h = s.h := rfl
@[simp] theorem State.dropPath_y (s : State) (n : Nat) : (s.dropPath n).y = s.y := rfl

@[simp] theorem State.setIg_clk (s : State) (n : Nat) (f : IssueGroup → IssueGroup) : (s.setIg n f).clk = s.clk := rfl
@[simp] theorem State.setIg_r (s : State) (n : Nat) (f : IssueGroup → IssueGroup) : (s.setIg n f).r = s.r := rfl
@[simp] theorem State.setIg_sch_teams (s : State) (n : Nat) (f : IssueGroup → IssueGroup) : (s.setIg n f).sch.teams = s.sch.teams := rfl
@[simp] theorem State.setIg_sch_groups (s : State) (n : Nat) (f : IssueGroup → IssueGroup) : (s.setIg n f).sch.groups = s.sch.groups := rfl
@[simp] theorem State.setIg_sch_paths (s : State) (n : Nat) (f : IssueGroup → IssueGroup) : (s.setIg n f).sch.paths = s.sch.paths := rfl
@[simp] theorem State.setIg_sch_runs (s : State) (n : Nat) (f : IssueGroup → IssueGroup) : (s.setIg n f).sch.runs = s.sch.runs := rfl
@[simp] theorem State.setIg_sch_pend (s : State) (n : Nat) (f : IssueGroup → IssueGroup) : (s.setIg n f).sch.pend = s.sch.pend := rfl
@[simp] theorem State.setIg_sch_pendL (s : State) (n : Nat) (f : IssueGroup → IssueGroup) : (s.setIg n f).sch.pendL = s.sch.pendL := rfl
@[simp] theorem State.setIg_sch_lcopies (s : State) (n : Nat) (f : IssueGroup → IssueGroup) : (s.setIg n f).sch.lcopies = s.sch.lcopies := rfl
@[simp] theorem State.setIg_sch_busy (s : State) (n : Nat) (f : IssueGroup → IssueGroup) : (s.setIg n f).sch.busy = s.sch.busy := rfl
@[simp] theorem State.setIg_sch_dropped (s : State) (n : Nat) (f : IssueGroup → IssueGroup) : (s.setIg n f).sch.dropped = s.sch.dropped := rfl
@[simp] theorem State.setIg_sch_resolv (s : State) (n : Nat) (f : IssueGroup → IssueGroup) : (s.setIg n f).sch.resolv = s.sch.resolv := rfl
@[simp] theorem State.setIg_sch_nextToken (s : State) (n : Nat) (f : IssueGroup → IssueGroup) : (s.setIg n f).sch.nextToken = s.sch.nextToken := rfl
@[simp] theorem State.setIg_sch_sub (s : State) (n : Nat) (f : IssueGroup → IssueGroup) : (s.setIg n f).sch.sub = s.sch.sub := rfl
@[simp] theorem State.setIg_sch_completions (s : State) (n : Nat) (f : IssueGroup → IssueGroup) : (s.setIg n f).sch.completions = s.sch.completions := rfl
@[simp] theorem State.setIg_sch_passes (s : State) (n : Nat) (f : IssueGroup → IssueGroup) : (s.setIg n f).sch.passes = s.sch.passes := rfl
@[simp] theorem State.setIg_m (s : State) (n : Nat) (f : IssueGroup → IssueGroup) : (s.setIg n f).m = s.m := rfl
@[simp] theorem State.setIg_e (s : State) (n : Nat) (f : IssueGroup → IssueGroup) : (s.setIg n f).e = s.e := rfl
@[simp] theorem State.setIg_gr (s : State) (n : Nat) (f : IssueGroup → IssueGroup) : (s.setIg n f).gr = s.gr := rfl
@[simp] theorem State.setIg_h (s : State) (n : Nat) (f : IssueGroup → IssueGroup) : (s.setIg n f).h = s.h := rfl
@[simp] theorem State.setIg_y (s : State) (n : Nat) (f : IssueGroup → IssueGroup) : (s.setIg n f).y = s.y := rfl

@[simp] theorem State.joinCtx_clk (s : State) (n : Nat) (l : Label) : (s.joinCtx n l).clk = s.clk := rfl
@[simp] theorem State.joinCtx_r (s : State) (n : Nat) (l : Label) : (s.joinCtx n l).r = s.r := rfl
@[simp] theorem State.joinCtx_sch_teams (s : State) (n : Nat) (l : Label) : (s.joinCtx n l).sch.teams = s.sch.teams := rfl
@[simp] theorem State.joinCtx_sch_groups (s : State) (n : Nat) (l : Label) : (s.joinCtx n l).sch.groups = s.sch.groups := rfl
@[simp] theorem State.joinCtx_sch_igs (s : State) (n : Nat) (l : Label) : (s.joinCtx n l).sch.igs = s.sch.igs := rfl
@[simp] theorem State.joinCtx_sch_runs (s : State) (n : Nat) (l : Label) : (s.joinCtx n l).sch.runs = s.sch.runs := rfl
@[simp] theorem State.joinCtx_sch_pend (s : State) (n : Nat) (l : Label) : (s.joinCtx n l).sch.pend = s.sch.pend := rfl
@[simp] theorem State.joinCtx_sch_pendL (s : State) (n : Nat) (l : Label) : (s.joinCtx n l).sch.pendL = s.sch.pendL := rfl
@[simp] theorem State.joinCtx_sch_lcopies (s : State) (n : Nat) (l : Label) : (s.joinCtx n l).sch.lcopies = s.sch.lcopies := rfl
@[simp] theorem State.joinCtx_sch_busy (s : State) (n : Nat) (l : Label) : (s.joinCtx n l).sch.busy = s.sch.busy := rfl
@[simp] theorem State.joinCtx_sch_dropped (s : State) (n : Nat) (l : Label) : (s.joinCtx n l).sch.dropped = s.sch.dropped := rfl
@[simp] theorem State.joinCtx_sch_resolv (s : State) (n : Nat) (l : Label) : (s.joinCtx n l).sch.resolv = s.sch.resolv := rfl
@[simp] theorem State.joinCtx_sch_nextToken (s : State) (n : Nat) (l : Label) : (s.joinCtx n l).sch.nextToken = s.sch.nextToken := rfl
@[simp] theorem State.joinCtx_sch_sub (s : State) (n : Nat) (l : Label) : (s.joinCtx n l).sch.sub = s.sch.sub := rfl
@[simp] theorem State.joinCtx_sch_completions (s : State) (n : Nat) (l : Label) : (s.joinCtx n l).sch.completions = s.sch.completions := rfl
@[simp] theorem State.joinCtx_sch_passes (s : State) (n : Nat) (l : Label) : (s.joinCtx n l).sch.passes = s.sch.passes := rfl
@[simp] theorem State.joinCtx_m (s : State) (n : Nat) (l : Label) : (s.joinCtx n l).m = s.m := rfl
@[simp] theorem State.joinCtx_e (s : State) (n : Nat) (l : Label) : (s.joinCtx n l).e = s.e := rfl
@[simp] theorem State.joinCtx_gr (s : State) (n : Nat) (l : Label) : (s.joinCtx n l).gr = s.gr := rfl
@[simp] theorem State.joinCtx_h (s : State) (n : Nat) (l : Label) : (s.joinCtx n l).h = s.h := rfl
@[simp] theorem State.joinCtx_y (s : State) (n : Nat) (l : Label) : (s.joinCtx n l).y = s.y := rfl

@[simp] theorem State.wakePath_clk (s : State) (n : Nat) : (s.wakePath n).clk = s.clk := rfl
@[simp] theorem State.wakePath_r (s : State) (n : Nat) : (s.wakePath n).r = s.r := rfl
@[simp] theorem State.wakePath_sch_teams (s : State) (n : Nat) : (s.wakePath n).sch.teams = s.sch.teams := rfl
@[simp] theorem State.wakePath_sch_groups (s : State) (n : Nat) : (s.wakePath n).sch.groups = s.sch.groups := rfl
@[simp] theorem State.wakePath_sch_igs (s : State) (n : Nat) : (s.wakePath n).sch.igs = s.sch.igs := rfl
@[simp] theorem State.wakePath_sch_runs (s : State) (n : Nat) : (s.wakePath n).sch.runs = s.sch.runs := rfl
@[simp] theorem State.wakePath_sch_pend (s : State) (n : Nat) : (s.wakePath n).sch.pend = s.sch.pend := rfl
@[simp] theorem State.wakePath_sch_pendL (s : State) (n : Nat) : (s.wakePath n).sch.pendL = s.sch.pendL := rfl
@[simp] theorem State.wakePath_sch_lcopies (s : State) (n : Nat) : (s.wakePath n).sch.lcopies = s.sch.lcopies := rfl
@[simp] theorem State.wakePath_sch_busy (s : State) (n : Nat) : (s.wakePath n).sch.busy = s.sch.busy := rfl
@[simp] theorem State.wakePath_sch_dropped (s : State) (n : Nat) : (s.wakePath n).sch.dropped = s.sch.dropped := rfl
@[simp] theorem State.wakePath_sch_resolv (s : State) (n : Nat) : (s.wakePath n).sch.resolv = s.sch.resolv := rfl
@[simp] theorem State.wakePath_sch_nextToken (s : State) (n : Nat) : (s.wakePath n).sch.nextToken = s.sch.nextToken := rfl
@[simp] theorem State.wakePath_sch_sub (s : State) (n : Nat) : (s.wakePath n).sch.sub = s.sch.sub := rfl
@[simp] theorem State.wakePath_sch_completions (s : State) (n : Nat) : (s.wakePath n).sch.completions = s.sch.completions := rfl
@[simp] theorem State.wakePath_sch_passes (s : State) (n : Nat) : (s.wakePath n).sch.passes = s.sch.passes := rfl
@[simp] theorem State.wakePath_m (s : State) (n : Nat) : (s.wakePath n).m = s.m := rfl
@[simp] theorem State.wakePath_e (s : State) (n : Nat) : (s.wakePath n).e = s.e := rfl
@[simp] theorem State.wakePath_gr (s : State) (n : Nat) : (s.wakePath n).gr = s.gr := rfl
@[simp] theorem State.wakePath_h (s : State) (n : Nat) : (s.wakePath n).h = s.h := rfl
@[simp] theorem State.wakePath_y (s : State) (n : Nat) : (s.wakePath n).y = s.y := rfl

@[simp] theorem State.tokAdd_clk (s : State) (t : TRef) (k : Nat) (up : Bool) : (s.tokAdd t k up).clk = s.clk := rfl
@[simp] theorem State.tokAdd_r_v (s : State) (t : TRef) (k : Nat) (up : Bool) : (s.tokAdd t k up).r.v = s.r.v := rfl
@[simp] theorem State.tokAdd_r_s (s : State) (t : TRef) (k : Nat) (up : Bool) : (s.tokAdd t k up).r.s = s.r.s := rfl
@[simp] theorem State.tokAdd_r_m (s : State) (t : TRef) (k : Nat) (up : Bool) : (s.tokAdd t k up).r.m = s.r.m := rfl
@[simp] theorem State.tokAdd_r_lbl (s : State) (t : TRef) (k : Nat) (up : Bool) : (s.tokAdd t k up).r.lbl = s.r.lbl := rfl
@[simp] theorem State.tokAdd_r_scr (s : State) (t : TRef) (k : Nat) (up : Bool) : (s.tokAdd t k up).r.scr = s.r.scr := rfl
@[simp] theorem State.tokAdd_r_sline (s : State) (t : TRef) (k : Nat) (up : Bool) : (s.tokAdd t k up).r.sline = s.r.sline := rfl
@[simp] theorem State.tokAdd_r_vat (s : State) (t : TRef) (k : Nat) (up : Bool) : (s.tokAdd t k up).r.vat = s.r.vat := rfl
@[simp] theorem State.tokAdd_r_vatLbl (s : State) (t : TRef) (k : Nat) (up : Bool) : (s.tokAdd t k up).r.vatLbl = s.r.vatLbl := rfl
@[simp] theorem State.tokAdd_r_vatOld (s : State) (t : TRef) (k : Nat) (up : Bool) : (s.tokAdd t k up).r.vatOld = s.r.vatOld := rfl
@[simp] theorem State.tokAdd_sch (s : State) (t : TRef) (k : Nat) (up : Bool) : (s.tokAdd t k up).sch = s.sch := rfl
@[simp] theorem State.tokAdd_m (s : State) (t : TRef) (k : Nat) (up : Bool) : (s.tokAdd t k up).m = s.m := rfl
@[simp] theorem State.tokAdd_e (s : State) (t : TRef) (k : Nat) (up : Bool) : (s.tokAdd t k up).e = s.e := rfl
@[simp] theorem State.tokAdd_gr (s : State) (t : TRef) (k : Nat) (up : Bool) : (s.tokAdd t k up).gr = s.gr := rfl
@[simp] theorem State.tokAdd_h (s : State) (t : TRef) (k : Nat) (up : Bool) : (s.tokAdd t k up).h = s.h := rfl
@[simp] theorem State.tokAdd_y (s : State) (t : TRef) (k : Nat) (up : Bool) : (s.tokAdd t k up).y = s.y := rfl

@[simp] theorem State.raiseMsix_clk (s : State) (n v : Nat) : (s.raiseMsix n v).clk = s.clk := rfl
@[simp] theorem State.raiseMsix_r (s : State) (n v : Nat) : (s.raiseMsix n v).r = s.r := rfl
@[simp] theorem State.raiseMsix_sch (s : State) (n v : Nat) : (s.raiseMsix n v).sch = s.sch := rfl
@[simp] theorem State.raiseMsix_m (s : State) (n v : Nat) : (s.raiseMsix n v).m = s.m := rfl
@[simp] theorem State.raiseMsix_e (s : State) (n v : Nat) : (s.raiseMsix n v).e = s.e := rfl
@[simp] theorem State.raiseMsix_gr (s : State) (n v : Nat) : (s.raiseMsix n v).gr = s.gr := rfl
@[simp] theorem State.raiseMsix_h_slots (s : State) (n v : Nat) : (s.raiseMsix n v).h.slots = s.h.slots := rfl
@[simp] theorem State.raiseMsix_h_parlourQ (s : State) (n v : Nat) : (s.raiseMsix n v).h.parlourQ = s.h.parlourQ := rfl
@[simp] theorem State.raiseMsix_h_cfgQ (s : State) (n v : Nat) : (s.raiseMsix n v).h.cfgQ = s.h.cfgQ := rfl
@[simp] theorem State.raiseMsix_h_replies (s : State) (n v : Nat) : (s.raiseMsix n v).h.replies = s.h.replies := rfl
@[simp] theorem State.raiseMsix_h_pwait (s : State) (n v : Nat) : (s.raiseMsix n v).h.pwait = s.h.pwait := rfl
@[simp] theorem State.raiseMsix_h_refused (s : State) (n v : Nat) : (s.raiseMsix n v).h.refused = s.h.refused := rfl
@[simp] theorem State.raiseMsix_y (s : State) (n v : Nat) : (s.raiseMsix n v).y = s.y := rfl

@[simp] theorem State.joinPred_clk (s : State) (g : IssueGroup) (f : Fm) : (s.joinPred g f).clk = s.clk := rfl
@[simp] theorem State.joinPred_r (s : State) (g : IssueGroup) (f : Fm) : (s.joinPred g f).r = s.r := rfl
@[simp] theorem State.joinPred_sch_teams (s : State) (g : IssueGroup) (f : Fm) : (s.joinPred g f).sch.teams = s.sch.teams := rfl
@[simp] theorem State.joinPred_sch_groups (s : State) (g : IssueGroup) (f : Fm) : (s.joinPred g f).sch.groups = s.sch.groups := rfl
@[simp] theorem State.joinPred_sch_igs (s : State) (g : IssueGroup) (f : Fm) : (s.joinPred g f).sch.igs = s.sch.igs := rfl
@[simp] theorem State.joinPred_sch_runs (s : State) (g : IssueGroup) (f : Fm) : (s.joinPred g f).sch.runs = s.sch.runs := rfl
@[simp] theorem State.joinPred_sch_pend (s : State) (g : IssueGroup) (f : Fm) : (s.joinPred g f).sch.pend = s.sch.pend := rfl
@[simp] theorem State.joinPred_sch_pendL (s : State) (g : IssueGroup) (f : Fm) : (s.joinPred g f).sch.pendL = s.sch.pendL := rfl
@[simp] theorem State.joinPred_sch_lcopies (s : State) (g : IssueGroup) (f : Fm) : (s.joinPred g f).sch.lcopies = s.sch.lcopies := rfl
@[simp] theorem State.joinPred_sch_busy (s : State) (g : IssueGroup) (f : Fm) : (s.joinPred g f).sch.busy = s.sch.busy := rfl
@[simp] theorem State.joinPred_sch_dropped (s : State) (g : IssueGroup) (f : Fm) : (s.joinPred g f).sch.dropped = s.sch.dropped := rfl
@[simp] theorem State.joinPred_sch_resolv (s : State) (g : IssueGroup) (f : Fm) : (s.joinPred g f).sch.resolv = s.sch.resolv := rfl
@[simp] theorem State.joinPred_sch_nextToken (s : State) (g : IssueGroup) (f : Fm) : (s.joinPred g f).sch.nextToken = s.sch.nextToken := rfl
@[simp] theorem State.joinPred_sch_sub (s : State) (g : IssueGroup) (f : Fm) : (s.joinPred g f).sch.sub = s.sch.sub := rfl
@[simp] theorem State.joinPred_sch_completions (s : State) (g : IssueGroup) (f : Fm) : (s.joinPred g f).sch.completions = s.sch.completions := rfl
@[simp] theorem State.joinPred_sch_passes (s : State) (g : IssueGroup) (f : Fm) : (s.joinPred g f).sch.passes = s.sch.passes := rfl
@[simp] theorem State.joinPred_m (s : State) (g : IssueGroup) (f : Fm) : (s.joinPred g f).m = s.m := rfl
@[simp] theorem State.joinPred_e (s : State) (g : IssueGroup) (f : Fm) : (s.joinPred g f).e = s.e := rfl
@[simp] theorem State.joinPred_gr (s : State) (g : IssueGroup) (f : Fm) : (s.joinPred g f).gr = s.gr := rfl
@[simp] theorem State.joinPred_h (s : State) (g : IssueGroup) (f : Fm) : (s.joinPred g f).h = s.h := rfl
@[simp] theorem State.joinPred_y (s : State) (g : IssueGroup) (f : Fm) : (s.joinPred g f).y = s.y := rfl

@[simp] theorem State.markIssued_clk (s : State) (g : IssueGroup) (n : Nat) : (s.markIssued g n).clk = s.clk := rfl
@[simp] theorem State.markIssued_r (s : State) (g : IssueGroup) (n : Nat) : (s.markIssued g n).r = s.r := rfl
@[simp] theorem State.markIssued_sch_teams (s : State) (g : IssueGroup) (n : Nat) : (s.markIssued g n).sch.teams = s.sch.teams := rfl
@[simp] theorem State.markIssued_sch_groups (s : State) (g : IssueGroup) (n : Nat) : (s.markIssued g n).sch.groups = s.sch.groups := rfl
@[simp] theorem State.markIssued_sch_igs (s : State) (g : IssueGroup) (n : Nat) : (s.markIssued g n).sch.igs = s.sch.igs := rfl
@[simp] theorem State.markIssued_sch_runs (s : State) (g : IssueGroup) (n : Nat) : (s.markIssued g n).sch.runs = s.sch.runs := rfl
@[simp] theorem State.markIssued_sch_pend (s : State) (g : IssueGroup) (n : Nat) : (s.markIssued g n).sch.pend = s.sch.pend := rfl
@[simp] theorem State.markIssued_sch_pendL (s : State) (g : IssueGroup) (n : Nat) : (s.markIssued g n).sch.pendL = s.sch.pendL := rfl
@[simp] theorem State.markIssued_sch_lcopies (s : State) (g : IssueGroup) (n : Nat) : (s.markIssued g n).sch.lcopies = s.sch.lcopies := rfl
@[simp] theorem State.markIssued_sch_busy (s : State) (g : IssueGroup) (n : Nat) : (s.markIssued g n).sch.busy = s.sch.busy := rfl
@[simp] theorem State.markIssued_sch_dropped (s : State) (g : IssueGroup) (n : Nat) : (s.markIssued g n).sch.dropped = s.sch.dropped := rfl
@[simp] theorem State.markIssued_sch_resolv (s : State) (g : IssueGroup) (n : Nat) : (s.markIssued g n).sch.resolv = s.sch.resolv := rfl
@[simp] theorem State.markIssued_sch_nextToken (s : State) (g : IssueGroup) (n : Nat) : (s.markIssued g n).sch.nextToken = s.sch.nextToken := rfl
@[simp] theorem State.markIssued_sch_sub (s : State) (g : IssueGroup) (n : Nat) : (s.markIssued g n).sch.sub = s.sch.sub := rfl
@[simp] theorem State.markIssued_sch_completions (s : State) (g : IssueGroup) (n : Nat) : (s.markIssued g n).sch.completions = s.sch.completions := rfl
@[simp] theorem State.markIssued_sch_passes (s : State) (g : IssueGroup) (n : Nat) : (s.markIssued g n).sch.passes = s.sch.passes := rfl
@[simp] theorem State.markIssued_m (s : State) (g : IssueGroup) (n : Nat) : (s.markIssued g n).m = s.m := rfl
@[simp] theorem State.markIssued_e (s : State) (g : IssueGroup) (n : Nat) : (s.markIssued g n).e = s.e := rfl
@[simp] theorem State.markIssued_gr (s : State) (g : IssueGroup) (n : Nat) : (s.markIssued g n).gr = s.gr := rfl
@[simp] theorem State.markIssued_h (s : State) (g : IssueGroup) (n : Nat) : (s.markIssued g n).h = s.h := rfl
@[simp] theorem State.markIssued_y (s : State) (g : IssueGroup) (n : Nat) : (s.markIssued g n).y = s.y := rfl

@[simp] theorem State.leave_clk (s : State) (g : IssueGroup) (n pc : Nat) : (s.leave g n pc).clk = s.clk := rfl
@[simp] theorem State.leave_r (s : State) (g : IssueGroup) (n pc : Nat) : (s.leave g n pc).r = s.r := rfl
@[simp] theorem State.leave_sch_teams (s : State) (g : IssueGroup) (n pc : Nat) : (s.leave g n pc).sch.teams = s.sch.teams := rfl
@[simp] theorem State.leave_sch_groups (s : State) (g : IssueGroup) (n pc : Nat) : (s.leave g n pc).sch.groups = s.sch.groups := rfl
@[simp] theorem State.leave_sch_igs (s : State) (g : IssueGroup) (n pc : Nat) : (s.leave g n pc).sch.igs = s.sch.igs := rfl
@[simp] theorem State.leave_sch_runs (s : State) (g : IssueGroup) (n pc : Nat) : (s.leave g n pc).sch.runs = s.sch.runs := rfl
@[simp] theorem State.leave_sch_pend (s : State) (g : IssueGroup) (n pc : Nat) : (s.leave g n pc).sch.pend = s.sch.pend := rfl
@[simp] theorem State.leave_sch_pendL (s : State) (g : IssueGroup) (n pc : Nat) : (s.leave g n pc).sch.pendL = s.sch.pendL := rfl
@[simp] theorem State.leave_sch_lcopies (s : State) (g : IssueGroup) (n pc : Nat) : (s.leave g n pc).sch.lcopies = s.sch.lcopies := rfl
@[simp] theorem State.leave_sch_busy (s : State) (g : IssueGroup) (n pc : Nat) : (s.leave g n pc).sch.busy = s.sch.busy := rfl
@[simp] theorem State.leave_sch_dropped (s : State) (g : IssueGroup) (n pc : Nat) : (s.leave g n pc).sch.dropped = s.sch.dropped := rfl
@[simp] theorem State.leave_sch_resolv (s : State) (g : IssueGroup) (n pc : Nat) : (s.leave g n pc).sch.resolv = s.sch.resolv := rfl
@[simp] theorem State.leave_sch_nextToken (s : State) (g : IssueGroup) (n pc : Nat) : (s.leave g n pc).sch.nextToken = s.sch.nextToken := rfl
@[simp] theorem State.leave_sch_sub (s : State) (g : IssueGroup) (n pc : Nat) : (s.leave g n pc).sch.sub = s.sch.sub := rfl
@[simp] theorem State.leave_sch_completions (s : State) (g : IssueGroup) (n pc : Nat) : (s.leave g n pc).sch.completions = s.sch.completions := rfl
@[simp] theorem State.leave_sch_passes (s : State) (g : IssueGroup) (n pc : Nat) : (s.leave g n pc).sch.passes = s.sch.passes := rfl
@[simp] theorem State.leave_m (s : State) (g : IssueGroup) (n pc : Nat) : (s.leave g n pc).m = s.m := rfl
@[simp] theorem State.leave_e (s : State) (g : IssueGroup) (n pc : Nat) : (s.leave g n pc).e = s.e := rfl
@[simp] theorem State.leave_gr (s : State) (g : IssueGroup) (n pc : Nat) : (s.leave g n pc).gr = s.gr := rfl
@[simp] theorem State.leave_h (s : State) (g : IssueGroup) (n pc : Nat) : (s.leave g n pc).h = s.h := rfl
@[simp] theorem State.leave_y (s : State) (g : IssueGroup) (n pc : Nat) : (s.leave g n pc).y = s.y := rfl

@[simp] theorem State.closeIg_clk (s : State) (g : IssueGroup) : (s.closeIg g).clk = s.clk := rfl
@[simp] theorem State.closeIg_r (s : State) (g : IssueGroup) : (s.closeIg g).r = s.r := rfl
@[simp] theorem State.closeIg_sch_teams (s : State) (g : IssueGroup) : (s.closeIg g).sch.teams = s.sch.teams := rfl
@[simp] theorem State.closeIg_sch_groups (s : State) (g : IssueGroup) : (s.closeIg g).sch.groups = s.sch.groups := rfl
@[simp] theorem State.closeIg_sch_runs (s : State) (g : IssueGroup) : (s.closeIg g).sch.runs = s.sch.runs := rfl
@[simp] theorem State.closeIg_sch_pend (s : State) (g : IssueGroup) : (s.closeIg g).sch.pend = s.sch.pend := rfl
@[simp] theorem State.closeIg_sch_pendL (s : State) (g : IssueGroup) : (s.closeIg g).sch.pendL = s.sch.pendL := rfl
@[simp] theorem State.closeIg_sch_lcopies (s : State) (g : IssueGroup) : (s.closeIg g).sch.lcopies = s.sch.lcopies := rfl
@[simp] theorem State.closeIg_sch_busy (s : State) (g : IssueGroup) : (s.closeIg g).sch.busy = s.sch.busy := rfl
@[simp] theorem State.closeIg_sch_dropped (s : State) (g : IssueGroup) : (s.closeIg g).sch.dropped = s.sch.dropped := rfl
@[simp] theorem State.closeIg_sch_resolv (s : State) (g : IssueGroup) : (s.closeIg g).sch.resolv = s.sch.resolv := rfl
@[simp] theorem State.closeIg_sch_nextToken (s : State) (g : IssueGroup) : (s.closeIg g).sch.nextToken = s.sch.nextToken := rfl
@[simp] theorem State.closeIg_sch_sub (s : State) (g : IssueGroup) : (s.closeIg g).sch.sub = s.sch.sub := rfl
@[simp] theorem State.closeIg_sch_completions (s : State) (g : IssueGroup) : (s.closeIg g).sch.completions = s.sch.completions := rfl
@[simp] theorem State.closeIg_sch_passes (s : State) (g : IssueGroup) : (s.closeIg g).sch.passes = s.sch.passes := rfl
@[simp] theorem State.closeIg_m (s : State) (g : IssueGroup) : (s.closeIg g).m = s.m := rfl
@[simp] theorem State.closeIg_e (s : State) (g : IssueGroup) : (s.closeIg g).e = s.e := rfl
@[simp] theorem State.closeIg_gr (s : State) (g : IssueGroup) : (s.closeIg g).gr = s.gr := rfl
@[simp] theorem State.closeIg_h (s : State) (g : IssueGroup) : (s.closeIg g).h = s.h := rfl
@[simp] theorem State.closeIg_y (s : State) (g : IssueGroup) : (s.closeIg g).y = s.y := rfl

@[simp] theorem State.sweepIg_clk (s : State) (n : Nat) : (s.sweepIg n).clk = s.clk := by
  unfold State.sweepIg; split <;> rfl
@[simp] theorem State.sweepIg_r (s : State) (n : Nat) : (s.sweepIg n).r = s.r := by
  unfold State.sweepIg; split <;> rfl
@[simp] theorem State.sweepIg_sch_teams (s : State) (n : Nat) : (s.sweepIg n).sch.teams = s.sch.teams := by
  unfold State.sweepIg; split <;> rfl
@[simp] theorem State.sweepIg_sch_groups (s : State) (n : Nat) : (s.sweepIg n).sch.groups = s.sch.groups := by
  unfold State.sweepIg; split <;> rfl
@[simp] theorem State.sweepIg_sch_paths (s : State) (n : Nat) : (s.sweepIg n).sch.paths = s.sch.paths := by
  unfold State.sweepIg; split <;> rfl
@[simp] theorem State.sweepIg_sch_runs (s : State) (n : Nat) : (s.sweepIg n).sch.runs = s.sch.runs := by
  unfold State.sweepIg; split <;> rfl
@[simp] theorem State.sweepIg_sch_pend (s : State) (n : Nat) : (s.sweepIg n).sch.pend = s.sch.pend := by
  unfold State.sweepIg; split <;> rfl
@[simp] theorem State.sweepIg_sch_pendL (s : State) (n : Nat) : (s.sweepIg n).sch.pendL = s.sch.pendL := by
  unfold State.sweepIg; split <;> rfl
@[simp] theorem State.sweepIg_sch_lcopies (s : State) (n : Nat) : (s.sweepIg n).sch.lcopies = s.sch.lcopies := by
  unfold State.sweepIg; split <;> rfl
@[simp] theorem State.sweepIg_sch_busy (s : State) (n : Nat) : (s.sweepIg n).sch.busy = s.sch.busy := by
  unfold State.sweepIg; split <;> rfl
@[simp] theorem State.sweepIg_sch_dropped (s : State) (n : Nat) : (s.sweepIg n).sch.dropped = s.sch.dropped := by
  unfold State.sweepIg; split <;> rfl
@[simp] theorem State.sweepIg_sch_resolv (s : State) (n : Nat) : (s.sweepIg n).sch.resolv = s.sch.resolv := by
  unfold State.sweepIg; split <;> rfl
@[simp] theorem State.sweepIg_sch_nextToken (s : State) (n : Nat) : (s.sweepIg n).sch.nextToken = s.sch.nextToken := by
  unfold State.sweepIg; split <;> rfl
@[simp] theorem State.sweepIg_sch_sub (s : State) (n : Nat) : (s.sweepIg n).sch.sub = s.sch.sub := by
  unfold State.sweepIg; split <;> rfl
@[simp] theorem State.sweepIg_sch_completions (s : State) (n : Nat) : (s.sweepIg n).sch.completions = s.sch.completions := by
  unfold State.sweepIg; split <;> rfl
@[simp] theorem State.sweepIg_sch_passes (s : State) (n : Nat) : (s.sweepIg n).sch.passes = s.sch.passes := by
  unfold State.sweepIg; split <;> rfl
@[simp] theorem State.sweepIg_m (s : State) (n : Nat) : (s.sweepIg n).m = s.m := by
  unfold State.sweepIg; split <;> rfl
@[simp] theorem State.sweepIg_e (s : State) (n : Nat) : (s.sweepIg n).e = s.e := by
  unfold State.sweepIg; split <;> rfl
@[simp] theorem State.sweepIg_gr (s : State) (n : Nat) : (s.sweepIg n).gr = s.gr := by
  unfold State.sweepIg; split <;> rfl
@[simp] theorem State.sweepIg_h (s : State) (n : Nat) : (s.sweepIg n).h = s.h := by
  unfold State.sweepIg; split <;> rfl
@[simp] theorem State.sweepIg_y (s : State) (n : Nat) : (s.sweepIg n).y = s.y := by
  unfold State.sweepIg; split <;> rfl

@[simp] theorem State.useUnit_clk (s : State) (i : Iss) : (s.useUnit i).clk = s.clk := by
  unfold State.useUnit; split <;> rfl
@[simp] theorem State.useUnit_r (s : State) (i : Iss) : (s.useUnit i).r = s.r := by
  unfold State.useUnit; split <;> rfl
@[simp] theorem State.useUnit_sch_teams (s : State) (i : Iss) : (s.useUnit i).sch.teams = s.sch.teams := by
  unfold State.useUnit; split <;> rfl
@[simp] theorem State.useUnit_sch_groups (s : State) (i : Iss) : (s.useUnit i).sch.groups = s.sch.groups := by
  unfold State.useUnit; split <;> rfl
@[simp] theorem State.useUnit_sch_paths (s : State) (i : Iss) : (s.useUnit i).sch.paths = s.sch.paths := by
  unfold State.useUnit; split <;> rfl
@[simp] theorem State.useUnit_sch_igs (s : State) (i : Iss) : (s.useUnit i).sch.igs = s.sch.igs := by
  unfold State.useUnit; split <;> rfl
@[simp] theorem State.useUnit_sch_runs (s : State) (i : Iss) : (s.useUnit i).sch.runs = s.sch.runs := by
  unfold State.useUnit; split <;> rfl
@[simp] theorem State.useUnit_sch_pend (s : State) (i : Iss) : (s.useUnit i).sch.pend = s.sch.pend := by
  unfold State.useUnit; split <;> rfl
@[simp] theorem State.useUnit_sch_pendL (s : State) (i : Iss) : (s.useUnit i).sch.pendL = s.sch.pendL := by
  unfold State.useUnit; split <;> rfl
@[simp] theorem State.useUnit_sch_lcopies (s : State) (i : Iss) : (s.useUnit i).sch.lcopies = s.sch.lcopies := by
  unfold State.useUnit; split <;> rfl
@[simp] theorem State.useUnit_sch_dropped (s : State) (i : Iss) : (s.useUnit i).sch.dropped = s.sch.dropped := by
  unfold State.useUnit; split <;> rfl
@[simp] theorem State.useUnit_sch_resolv (s : State) (i : Iss) : (s.useUnit i).sch.resolv = s.sch.resolv := by
  unfold State.useUnit; split <;> rfl
@[simp] theorem State.useUnit_sch_nextToken (s : State) (i : Iss) : (s.useUnit i).sch.nextToken = s.sch.nextToken := by
  unfold State.useUnit; split <;> rfl
@[simp] theorem State.useUnit_sch_sub (s : State) (i : Iss) : (s.useUnit i).sch.sub = s.sch.sub := by
  unfold State.useUnit; split <;> rfl
@[simp] theorem State.useUnit_sch_completions (s : State) (i : Iss) : (s.useUnit i).sch.completions = s.sch.completions := by
  unfold State.useUnit; split <;> rfl
@[simp] theorem State.useUnit_sch_passes (s : State) (i : Iss) : (s.useUnit i).sch.passes = s.sch.passes := by
  unfold State.useUnit; split <;> rfl
@[simp] theorem State.useUnit_m (s : State) (i : Iss) : (s.useUnit i).m = s.m := by
  unfold State.useUnit; split <;> rfl
@[simp] theorem State.useUnit_e (s : State) (i : Iss) : (s.useUnit i).e = s.e := by
  unfold State.useUnit; split <;> rfl
@[simp] theorem State.useUnit_gr (s : State) (i : Iss) : (s.useUnit i).gr = s.gr := by
  unfold State.useUnit; split <;> rfl
@[simp] theorem State.useUnit_h (s : State) (i : Iss) : (s.useUnit i).h = s.h := by
  unfold State.useUnit; split <;> rfl
@[simp] theorem State.useUnit_y (s : State) (i : Iss) : (s.useUnit i).y = s.y := by
  unfold State.useUnit; split <;> rfl

@[simp] theorem State.applyLbl_clk (s : State) (w : LblWrite) : (s.applyLbl w).clk = s.clk := rfl
@[simp] theorem State.applyLbl_r_v (s : State) (w : LblWrite) : (s.applyLbl w).r.v = s.r.v := rfl
@[simp] theorem State.applyLbl_r_s (s : State) (w : LblWrite) : (s.applyLbl w).r.s = s.r.s := rfl
@[simp] theorem State.applyLbl_r_m (s : State) (w : LblWrite) : (s.applyLbl w).r.m = s.r.m := rfl
@[simp] theorem State.applyLbl_r_thr (s : State) (w : LblWrite) : (s.applyLbl w).r.thr = s.r.thr := rfl
@[simp] theorem State.applyLbl_r_scr (s : State) (w : LblWrite) : (s.applyLbl w).r.scr = s.r.scr := rfl
@[simp] theorem State.applyLbl_r_sline (s : State) (w : LblWrite) : (s.applyLbl w).r.sline = s.r.sline := rfl
@[simp] theorem State.applyLbl_r_vat (s : State) (w : LblWrite) : (s.applyLbl w).r.vat = s.r.vat := rfl
@[simp] theorem State.applyLbl_r_vatLbl (s : State) (w : LblWrite) : (s.applyLbl w).r.vatLbl = s.r.vatLbl := rfl
@[simp] theorem State.applyLbl_r_vatOld (s : State) (w : LblWrite) : (s.applyLbl w).r.vatOld = s.r.vatOld := rfl
@[simp] theorem State.applyLbl_sch (s : State) (w : LblWrite) : (s.applyLbl w).sch = s.sch := rfl
@[simp] theorem State.applyLbl_m (s : State) (w : LblWrite) : (s.applyLbl w).m = s.m := rfl
@[simp] theorem State.applyLbl_e (s : State) (w : LblWrite) : (s.applyLbl w).e = s.e := rfl
@[simp] theorem State.applyLbl_gr (s : State) (w : LblWrite) : (s.applyLbl w).gr = s.gr := rfl
@[simp] theorem State.applyLbl_h (s : State) (w : LblWrite) : (s.applyLbl w).h = s.h := rfl
@[simp] theorem State.applyLbl_y (s : State) (w : LblWrite) : (s.applyLbl w).y = s.y := rfl

@[simp] theorem State.osbSweep_clk (s : State) : (s.osbSweep).clk = s.clk := rfl
@[simp] theorem State.osbSweep_r (s : State) : (s.osbSweep).r = s.r := rfl
@[simp] theorem State.osbSweep_sch (s : State) : (s.osbSweep).sch = s.sch := rfl
@[simp] theorem State.osbSweep_m (s : State) : (s.osbSweep).m = s.m := rfl
@[simp] theorem State.osbSweep_e_copies (s : State) : (s.osbSweep).e.copies = s.e.copies := rfl
@[simp] theorem State.osbSweep_e_batches (s : State) : (s.osbSweep).e.batches = s.e.batches := rfl
@[simp] theorem State.osbSweep_e_plates (s : State) : (s.osbSweep).e.plates = s.e.plates := rfl
@[simp] theorem State.osbSweep_e_loads (s : State) : (s.osbSweep).e.loads = s.e.loads := rfl
@[simp] theorem State.osbSweep_e_mxs (s : State) : (s.osbSweep).e.mxs = s.e.mxs := rfl
@[simp] theorem State.osbSweep_e_chains (s : State) : (s.osbSweep).e.chains = s.e.chains := rfl
@[simp] theorem State.osbSweep_e_ports (s : State) : (s.osbSweep).e.ports = s.e.ports := rfl
@[simp] theorem State.osbSweep_e_gates (s : State) : (s.osbSweep).e.gates = s.e.gates := rfl
@[simp] theorem State.osbSweep_e_calls (s : State) : (s.osbSweep).e.calls = s.e.calls := rfl
@[simp] theorem State.osbSweep_gr (s : State) : (s.osbSweep).gr = s.gr := rfl
@[simp] theorem State.osbSweep_h (s : State) : (s.osbSweep).h = s.h := rfl
@[simp] theorem State.osbSweep_y (s : State) : (s.osbSweep).y = s.y := rfl

end Sys2Proof.Machine
end

