-- ==== Sys2Proof/Laws/Issue.lean ====
section
/-! SUPPORT. What the issue of a word does when no fault stops it, once for every word: its counts, its advance, and the
whole of a word whose effect is a register result. -/

namespace Sys2Proof.Machine

open Sys2Proof

/-! ## Judging -/

theorem State.judge_none (s : State) (g : IssueGroup) (ls : List Lane) (flt : Lane → Option Flt)
    (h : ∀ l ∈ ls, flt l = none) : s.judge g ls flt = s := by
  unfold State.judge
  refine foldl_same _ _ _ fun tid _ => ?_
  have : (ls.filter fun l => decide (l.t.tid = tid)).findSome? (fun l => (flt l).map fun f => (l, f)) = none := by
    rw [List.findSome?_eq_none_iff]
    intro l hl
    simp [h l (List.mem_of_mem_filter hl)]
  simp only [this]

@[simp] theorem State.judge_no (s : State) (g : IssueGroup) (ls : List Lane) : s.judge g ls (fun _ => none) = s :=
  s.judge_none g ls _ fun _ _ => rfl

@[simp] theorem State.close_nil (s : State) : s.close [] = s := rfl

theorem State.thr_setThr (s : State) (t x : TRef) (f : Thread → Thread) :
    (s.setThr t f).thr x = if x = t then f (s.thr t) else s.thr x := mget_mset _ _ _ _ _

/-! ## Counts -/

/-- Only what issuing counts differs: tokens, distances and the scoreboard's notes. -/
def Counts (s t : State) : Prop := t = { s with r.thr := t.r.thr } ∧ ∀ x, (t.thr x).bare = (s.thr x).bare

theorem Counts.refl (s : State) : Counts s s := ⟨rfl, fun _ => rfl⟩

theorem Counts.trans {s t u : State} (h : Counts s t) (h' : Counts t u) : Counts s u := by
  refine ⟨?_, fun x => (h'.2 x).trans (h.2 x)⟩
  have a := h'.1
  rw [h.1] at a
  exact a

theorem State.counts_setThr (s : State) (t : TRef) (f : Thread → Thread) (hf : ∀ h, (f h).bare = h.bare) :
    Counts s (s.setThr t f) := by
  refine ⟨rfl, fun x => ?_⟩
  rw [State.thr_setThr]
  split
  · next h => rw [hf, h]
  · rfl

theorem counts_foldl {β : Type} (f : State → β → State) (xs : List β) (s : State) (h : ∀ s x, Counts s (f s x)) :
    Counts s (xs.foldl f s) :=
  foldl_keeps (Counts s) f (fun _ x hs => hs.trans (h _ x)) xs s (Counts.refl s)

theorem State.counts_tokUp (s : State) (tok : Nat) (ls : List Lane) : Counts s (s.tokUp tok ls) := by
  unfold State.tokUp
  split
  · exact counts_foldl _ _ _ fun s l => s.counts_setThr _ _ fun _ => rfl
  · exact Counts.refl s

theorem State.counts_tokDown (s : State) (tok : Nat) (ts : List TRef) : Counts s (s.tokDown tok ts) := by
  unfold State.tokDown
  split
  · exact counts_foldl _ _ _ fun s t => s.counts_setThr _ _ fun _ => rfl
  · exact Counts.refl s

theorem State.counts_account (s : State) (i : Iss) (all : List Lane) : Counts s (s.account i all) := by
  unfold State.account
  refine Counts.trans ?_ (State.counts_tokDown _ _ _)
  refine Counts.trans ?_ (State.counts_tokUp _ _ _)
  refine Counts.trans ?_ (counts_foldl _ _ _ fun s l => s.counts_setThr _ _ fun _ => rfl)
  exact counts_foldl _ _ _ fun s l => s.counts_setThr _ _ fun _ => rfl

/-! ## The entry of a word -/

theorem ready_view {s : State} {g : IssueGroup} {i : Instr} (h : s.ready g i = true) :
    ∃ b, i.view = some (i.cls, opNo i, b) ∧ fieldsOf i = b.fm := by
  unfold State.ready at h
  simp only [Bool.and_eq_true] at h
  have hv := h.1.1.1.1
  match hi : i.view with
  | none => rw [hi] at hv; cases hv
  | some (c, o, b) => exact ⟨b, by simp [Instr.cls, opNo, hi], by simp [fieldsOf, hi]⟩

theorem ready_cur {s : State} {g : IssueGroup} {i : Instr} (h : s.ready g i = true) : s.clk.cur.bind s.ig? = some g := by
  unfold State.ready at h
  simp only [Bool.and_eq_true, beq_iff_eq] at h
  rw [h.1.1.1.2]
  exact h.1.1.2

theorem ready_ig {s : State} {g : IssueGroup} {i : Instr} (h : s.ready g i = true) : s.ig? g.id = some g := by
  unfold State.ready at h
  simp only [Bool.and_eq_true, beq_iff_eq] at h
  exact h.1.1.2

theorem ready_judge {s : State} {g : IssueGroup} {i : Instr} (h : s.ready g i = true) :
    s.judgeWord g i.check i.cls (opNo i) (fieldsOf i) = s := by
  unfold State.ready at h
  simp only [Bool.and_eq_true, beq_iff_eq, List.all_eq_true, Bool.not_eq_true', Option.isNone_iff_eq_none] at h
  unfold State.judgeWord
  rw [h.1.2]
  dsimp only
  rw [s.judge_none g _ _ fun l hl => by simp [(h.2 l hl).1.1]]
  rw [s.judge_none g _ _ fun l hl => by simp [(h.2 l hl).1.2], s.judge_none g _ _ fun l hl => (h.2 l hl).2]

/-- A word that no fault stops: its issue is its entry, its wait and its performance. -/
theorem runWord_ready {s : State} {g : IssueGroup} {i : Instr} (h : s.ready g i = true) (m : Meaning) :
    runWord i m s = .next (match m.hold (s.takeIn g i.cls (opNo i) (fieldsOf i) m).1
        (s.takeIn g i.cls (opNo i) (fieldsOf i) m).2 with
      | (s, some k) => s.holdIg g k
      | (t, none) => t.perform (s.takeIn g i.cls (opNo i) (fieldsOf i) m).2 m) := by
  obtain ⟨b, hb, hf⟩ := ready_view h
  unfold runWord
  rw [ready_cur h]
  dsimp only
  unfold State.issue
  rw [hb]
  dsimp only
  rw [← hf, ready_judge h]
  all_goals rfl

theorem State.alive_alive (s : State) (ls : List Lane) : s.alive (s.alive ls) = s.alive ls := by
  simp [State.alive, List.filter_filter]

/-- A word whose entry raises no fault and closes nothing. -/
theorem State.takeIn_plain (s : State) (g : IssueGroup) (i : Instr) (m : Meaning) (hf : ∀ t is l, m.flt t is l = none)
    (hc : ∀ t is l, m.closes t is l = false) :
    s.takeIn g i.cls (opNo i) (fieldsOf i) m = (s.entered g i, s.iss g i) := by
  unfold State.takeIn State.iss State.acting
  simp only [hf, hc, List.filter_false, State.close_nil, State.judge_no]
  rfl

theorem State.acting_alive (s : State) (g : IssueGroup) (i : Instr) : (s.entered g i).alive (s.acting g i) = s.acting g i :=
  State.alive_alive _ _

@[simp] theorem State.parkAll_nil (s : State) (g : IssueGroup) : s.parkAll g [] = s := rfl

theorem State.perform_plain (s : State) (g : IssueGroup) (i : Instr) (m : Meaning) (hs : ∀ t is, m.stop t is = (t, [])) :
    (s.entered g i).perform (s.iss g i) m =
      (m.eff (s.counted g i) (s.iss g i)).advance g (fieldsOf i).len (fieldsOf i).stall := by
  unfold State.perform
  simp only [hs, List.map_nil, List.filter_nil, State.parkAll_nil]
  have : ({ s.iss g i with on := (s.entered g i).alive ((s.iss g i).on.filter fun l => !([] : List TRef).contains l.t) } : Iss) =
      s.iss g i := by
    have h : ((s.iss g i).on.filter fun l => !([] : List TRef).contains l.t) = s.acting g i := by
      simp [State.iss]
    rw [h, State.acting_alive]
    rfl
  rw [this]
  rfl

/-- A word that raises no fault of its own, waits for nothing and parks no lane. -/
theorem runWord_plain {s : State} {g : IssueGroup} {i : Instr} (h : s.ready g i = true) (m : Meaning)
    (hf : ∀ t is l, m.flt t is l = none) (hc : ∀ t is l, m.closes t is l = false) (hh : ∀ t is, m.hold t is = (t, none))
    (hs : ∀ t is, m.stop t is = (t, [])) :
    runWord i m s =
      .next ((m.eff (s.counted g i) (s.iss g i)).advance g (fieldsOf i).len (fieldsOf i).stall) := by
  rw [runWord_ready h, State.takeIn_plain s g i m hf hc]
  simp only [hh]
  rw [State.perform_plain s g i m hs]

end Sys2Proof.Machine
end

