-- ==== Sys2Proof/Laws/Alu.lean ====
section
/-! SUPPORT. The words whose effect is a register result: what the meaning sees when it acts, and the whole of such a
word in the terms of `Gives`. -/

namespace Sys2Proof.Machine

open Sys2Proof

/-! ## What a meaning sees -/

/-- Two states in which a word finds the same operands, whatever the threads have counted. -/
structure Sees (s t : State) : Prop where
  rv : t.r.v = s.r.v
  rs : t.r.s = s.r.s
  rm : t.r.m = s.r.m
  rl : t.r.lbl = s.r.lbl
  teams : t.sch.teams = s.sch.teams
  groups : t.sch.groups = s.sch.groups
  clk : t.clk = s.clk
  sy : t.y = s.y
  thr : ∀ x, (t.thr x).bare = (s.thr x).bare

theorem Sees.vGet {s t : State} (h : Sees s t) (x : TRef) (n : Nat) : t.vGet x n = s.vGet x n := by
  unfold State.vGet; rw [h.rv]

theorem Sees.sGet {s t : State} (h : Sees s t) (x : GRef) (n : Nat) : t.sGet x n = s.sGet x n := by
  unfold State.sGet; rw [h.rs]

theorem Sees.mGet {s t : State} (h : Sees s t) (x : TRef) (n : Nat) : t.mGet x n = s.mGet x n := by
  unfold State.mGet; rw [h.rm]

theorem Sees.tileLbl {s t : State} (h : Sees s t) (x : GRef) (k : Tile) : t.tileLbl x k = s.tileLbl x k := by
  unfold State.tileLbl; rw [h.rl]

theorem Sees.team? {s t : State} (h : Sees s t) (n : Nat) : t.team? n = s.team? n := by unfold State.team?; rw [h.teams]

theorem Sees.group? {s t : State} (h : Sees s t) (g : GRef) : t.group? g = s.group? g := by unfold State.group?; rw [h.groups]

theorem Sees.seed {s t : State} (h : Sees s t) (x : TRef) : (t.thr x).seed = (s.thr x).seed :=
  (congrArg Thread.seed (h.thr x) :)

theorem Sees.live {s t : State} (h : Sees s t) (x : TRef) : (t.thr x).live = (s.thr x).live :=
  (congrArg Thread.live (h.thr x) :)

theorem Sees.special {s t : State} (h : Sees s t) (x : TRef) (n : Nat) : t.special x n = s.special x n := by
  unfold State.special State.quadOf
  rw [h.team?, h.group?, h.clk, h.sy]

theorem Sees.vSpan {s t : State} (h : Sees s t) (x : TRef) (n w : Nat) : t.vSpan x n w = s.vSpan x n w := by
  induction w generalizing n with
  | zero => rfl
  | succ w ih => simp only [State.vSpan, ih, h.vGet]

theorem Sees.sSpan {s t : State} (h : Sees s t) (x : GRef) (n w : Nat) : t.sSpan x n w = s.sSpan x n w := by
  induction w generalizing n with
  | zero => rfl
  | succ w ih => simp only [State.sSpan, ih, h.sGet]

theorem Sees.intVal {s t : State} (h : Sees s t) (x : TRef) (lit : Word) (c : Code) (w lay : Nat) (u : Bool) :
    t.intVal x lit c w lay u = s.intVal x lit c w lay u := by
  unfold State.intVal
  simp only [h.vSpan, h.sSpan, h.special, h.mGet]

theorem Sees.rd32 {s t : State} (h : Sees s t) (x : TRef) (lit : Word) (c : Code) : t.rd32 x lit c = s.rd32 x lit c :=
  h.intVal ..

theorem Sees.rdPred {s t : State} (h : Sees s t) (x : TRef) (c : Code) : t.rdPred x c = s.rdPred x c := by
  unfold State.rdPred; simp only [h.mGet]

theorem Sees.fpRaw {s t : State} (h : Sees s t) (x : TRef) (lit : Word) (c : Code) (w fmt n : Nat) :
    t.fpRaw x lit c w fmt n = s.fpRaw x lit c w fmt n := by
  unfold State.fpRaw; simp only [h.intVal]

theorem Sees.fpElems {s t : State} (h : Sees s t) (i : Iss) (l : Lane) (c : Code) : t.fpElems i l c = s.fpElems i l c := by
  unfold State.fpElems; simp only [h.fpRaw]

theorem Sees.intArgs {s t : State} (h : Sees s t) (i : Iss) (l : Lane) : t.intArgs i l = s.intArgs i l := by
  unfold State.intArgs; simp only [h.intVal]

theorem Sees.opLbl {s t : State} (h : Sees s t) (g : GRef) (c : Code) (w : Nat) : t.opLbl g c w = s.opLbl g c w := by
  unfold State.opLbl; simp only [h.tileLbl]

theorem Sees.srcLbl {s t : State} (h : Sees s t) (g : GRef) (c o : Nat) (f : Fm) : t.srcLbl g c o f = s.srcLbl g c o f := by
  unfold State.srcLbl; simp only [h.opLbl]

theorem Sees.aluLbl {s t : State} (h : Sees s t) (i : Iss) (l : Lane) : t.aluLbl i l = s.aluLbl i l := by
  unfold State.aluLbl; simp only [h.srcLbl, h.tileLbl]

theorem Sees.trans {s t u : State} (h : Sees s t) (h' : Sees t u) : Sees s u :=
  ⟨h'.rv.trans h.rv, h'.rs.trans h.rs, h'.rm.trans h.rm, h'.rl.trans h.rl, h'.teams.trans h.teams, h'.groups.trans h.groups,
    h'.clk.trans h.clk, h'.sy.trans h.sy, fun x => (h'.thr x).trans (h.thr x)⟩

theorem Counts.sees {s t : State} (h : Counts s t) : Sees s t := by
  obtain ⟨h, h'⟩ := h
  constructor <;> first | exact h' | (rw [h])

theorem State.sees_entered (s : State) (g : IssueGroup) (i : Instr) : Sees s (s.entered g i) :=
  ⟨rfl, rfl, rfl, rfl, rfl, rfl, rfl, rfl, fun _ => rfl⟩

theorem State.sees_useUnit (s : State) (i : Iss) : Sees s (s.useUnit i) := by
  unfold State.useUnit
  split <;> exact ⟨rfl, rfl, rfl, rfl, rfl, rfl, rfl, rfl, fun _ => rfl⟩

theorem State.sees_counted (s : State) (g : IssueGroup) (i : Instr) : Sees s (s.counted g i) :=
  (s.sees_entered g i).trans (((State.counts_account _ _ _).sees).trans (State.sees_useUnit _ _))

/-! ## The draws -/

/-- Only SEED and its labels differ. -/
structure Drawn (s t : State) : Prop where
  base : t = { s with r.thr := t.r.thr, r.lbl := t.r.lbl }
  lbl : ∀ x k, k ≠ .seed → t.tileLbl x k = s.tileLbl x k
  thr : ∀ x, { t.thr x with seed := 0 } = { s.thr x with seed := 0 }

theorem Drawn.refl (s : State) : Drawn s s := ⟨rfl, fun _ _ _ => rfl, fun _ => rfl⟩

theorem Drawn.trans {s t u : State} (h : Drawn s t) (h' : Drawn t u) : Drawn s u := by
  refine ⟨?_, fun x k hk => (h'.lbl x k hk).trans (h.lbl x k hk), fun x => (h'.thr x).trans (h.thr x)⟩
  have a := h'.base
  rw [h.base] at a
  exact a

theorem State.drawn_setSeed (s : State) (x : TRef) (w : Word) : Drawn s (s.setThr x fun h => { h with seed := w }) := by
  refine ⟨rfl, fun _ _ _ => rfl, fun y => ?_⟩
  rw [State.thr_setThr]
  split
  · next h => rw [h]
  · rfl

theorem State.tileLbl_setTileLbl (s : State) (g g' : GRef) (k k' : Tile) (l : Label) (h : k' ≠ k) :
    (s.setTileLbl g k l).tileLbl g' k' = s.tileLbl g' k' := by
  unfold State.setTileLbl State.tileLbl
  have : (g', k') ≠ (g, k) := fun e => h (congrArg Prod.snd e)
  simp [mget_mset, this]

theorem State.drawn_applyLbl (s : State) (w : LblWrite) (h : w.tile = .seed) : Drawn s (s.applyLbl w) := by
  refine ⟨rfl, fun x k hk => ?_, fun _ => rfl⟩
  unfold State.applyLbl
  exact s.tileLbl_setTileLbl _ _ _ _ _ (h ▸ hk)

/-- The seeds after writes of some lanes, where lanes of one thread draw alike. -/
theorem seeds_foldl (o : TRef → Option Word) (ls : List Lane) (s : State) (x : TRef) :
    (((ls.filterMap fun l => (o l.t).map fun w => (l, w)).foldl
      (fun s (d : Lane × Word) => s.setThr d.1.t fun h => { h with seed := d.2 }) s).thr x).seed =
      if x ∈ ls.map (·.t) then (o x).getD (s.thr x).seed else (s.thr x).seed := by
  induction ls generalizing s with
  | nil => rfl
  | cons l ls ih =>
    rw [List.filterMap_cons]
    cases hl : o l.t with
    | none =>
      simp only [Option.map_none]
      rw [ih]
      by_cases h : x = l.t
      · subst h; simp [hl]
      · simp [h]
    | some w =>
      simp only [Option.map_some, List.foldl_cons]
      rw [ih, State.thr_setThr]
      by_cases h : x = l.t
      · subst h; simp [hl]
      · simp [h]

theorem State.drawn_putSeeds (s : State) (os : List (Lane × AluOut)) : Drawn s (s.putSeeds os) := by
  unfold State.putSeeds
  refine foldl_keeps (Drawn s) _ (fun t x ht => ht.trans (t.drawn_applyLbl _ rfl)) _ _ ?_
  exact foldl_keeps (Drawn s) _ (fun t x ht => ht.trans (t.drawn_setSeed _ _)) _ _ (Drawn.refl s)

theorem State.thr_applyLbls (s : State) (ws : List LblWrite) : (ws.foldl (fun s w => s.applyLbl w) s).r.thr = s.r.thr :=
  by
  refine foldl_keeps (fun t : State => t.r.thr = s.r.thr) _ ?_ _ _ rfl
  exact fun t x h => h

theorem State.seed_putSeeds (s : State) (ls : List Lane) (o : TRef → AluOut) (x : TRef) :
    ((s.putSeeds (ls.map fun l => (l, o l.t))).thr x).seed =
      if x ∈ ls.map (·.t) then (o x).seed.getD (s.thr x).seed else (s.thr x).seed := by
  unfold State.putSeeds
  rw [← seeds_foldl (fun t => (o t).seed) ls s x, List.filterMap_map]
  unfold State.thr
  congr 2
  dsimp only
  refine foldl_keeps (fun t : State => t.r.thr = _) _ ?_ _ _ ?_
  · exact fun t x h => h
  · rfl

theorem State.putSeeds_none (s : State) (os : List (Lane × AluOut)) (h : ∀ p ∈ os, p.2.seed = none) : s.putSeeds os = s := by
  unfold State.putSeeds
  have : (os.filterMap fun (l, o) => o.seed.map fun x => (l, x)) = [] := by
    rw [List.filterMap_eq_nil_iff]
    intro p hp
    simp [h p hp]
  simp [this, dedup]

/-! ## The advance -/

/-- What a word's effect may have changed when it only computes register results. -/
structure Acted (s u : State) (g : IssueGroup) (i : Instr) : Prop where
  clock : u.clk = s.clk
  memory : u.m = s.m
  engines : u.e = s.e
  graph : u.gr = s.gr
  host : u.h = s.h
  system : u.y = s.y
  registers : u.r = { s.r with thr := u.r.thr, lbl := u.r.lbl }
  labels : ∀ x k, k ≠ .seed ∨ usesSeed i.cls (opNo i) (fieldsOf i) = false → u.tileLbl x k = s.tileLbl x k
  threads : ∀ x, { (u.thr x).bare with seed := 0 } = { (s.thr x).bare with seed := 0 }
  schedule : { u.sch with paths := [], igs := [], pend := [], busy := [] } =
    { s.sch with paths := [], igs := [], pend := [], busy := [] }
  paths : u.sch.paths = (s.entered g i).sch.paths
  igs : u.sch.igs = s.sch.igs

theorem State.entered_paths (s : State) (g : IssueGroup) (i : Instr) :
    (s.entered g i).sch.paths = s.sch.paths.map fun p =>
      if p.state = .inClause g.id then
        { p with ctxLbl := p.ctxLbl ||| s.tileLbl p.g (.m (fieldsOf i).pred), since := s.clk.cycle, promoted := false,
                 hint := false, readyAt := s.clk.cycle + 1 + (fieldsOf i).stall }
      else p := by
  unfold State.entered State.markIssued State.joinPred
  simp only [List.map_map]
  refine List.map_congr_left fun p _ => ?_
  by_cases h : p.state = .inClause g.id <;> simp [h]

theorem behind_of_end {s : State} {g : IssueGroup} {i : Instr} (h : g.endPc ≤ g.pc + 4 * (fieldsOf i).len) :
    ((s.entered g i).sch.paths.map fun (p : Path) => if p.state = .inClause g.id then
      { p with state := .runnable, pc := g.endPc, hint := g.yld, mid := none, gateId := none } else p) =
      s.sch.paths.map fun p => p.behind s g i := by
  rw [State.entered_paths, List.map_map]
  refine List.map_congr_left fun p _ => ?_
  by_cases hp : p.state = .inClause g.id <;> simp [Path.behind, hp, h]

theorem behind_of_on {s : State} {g : IssueGroup} {i : Instr} (h : ¬ g.endPc ≤ g.pc + 4 * (fieldsOf i).len) :
    (s.entered g i).sch.paths = s.sch.paths.map fun p => p.behind s g i := by
  rw [State.entered_paths]
  refine List.map_congr_left fun p _ => ?_
  by_cases hp : p.state = .inClause g.id <;> simp [Path.behind, hp, h]

theorem find?_filter_ne {xs : List IssueGroup} {a k : Nat} :
    (xs.filter fun x => decide (x.id ≠ a)).find? (fun x => decide (x.id = k)) =
      if k = a then none else xs.find? fun x => decide (x.id = k) := by
  induction xs with
  | nil => simp
  | cons x xs ih =>
    by_cases hx : x.id = a
    · simp only [hx, ne_eq, not_true_eq_false, decide_false, Bool.false_eq_true, not_false_eq_true, List.filter_cons_of_neg, ih]
      by_cases hk : k = a
      · simp [hk]
      · simp [hk, hx, Ne.symm hk]
    · simp only [ne_eq, hx, not_false_eq_true, decide_true, List.filter_cons_of_pos, List.find?_cons]
      by_cases hk : x.id = k
      · subst hk; simp [hx]
      · simpa [hk] using ih

theorem find?_map_set {xs : List IssueGroup} {a k : Nat} {f : IssueGroup → IssueGroup} (hf : ∀ x, (f x).id = x.id) :
    (xs.map fun g => if g.id = a then f g else g).find? (fun x => decide (x.id = k)) =
      if k = a then (xs.find? fun x => decide (x.id = k)).map f else xs.find? fun x => decide (x.id = k) := by
  induction xs with
  | nil => simp
  | cons x xs ih =>
    by_cases hx : x.id = a
    · by_cases hk : x.id = k
      · have : k = a := hk ▸ hx
        subst this
        simp [hx, hf]
      · have hka : ¬ k = a := fun e => hk (hx.trans e.symm)
        simp only [List.map_cons, hx, if_true, List.find?_cons, hf, hka, if_false] at ih ⊢
        have : ¬ a = k := fun e => hka e.symm
        simp [this, ih]
    · by_cases hk : x.id = k
      · subst hk; simp [hx]
      · simpa [hx, hk, List.find?_cons] using ih

theorem State.ig?_setIg (s : State) (a k : Nat) (f : IssueGroup → IssueGroup) (hf : ∀ x, (f x).id = x.id) :
    (s.setIg a f).ig? k = if k = a then (s.ig? k).map f else s.ig? k := find?_map_set hf

theorem Acted.issued {s u : State} {g : IssueGroup} {i : Instr} (h : Acted s u g i) (hr : s.ig? g.id = some g) :
    Issued s (u.advance g (fieldsOf i).len (fieldsOf i).stall) g i ∧
      (u.advance g (fieldsOf i).len (fieldsOf i).stall).sch.pend = u.sch.pend ∧
      (u.advance g (fieldsOf i).len (fieldsOf i).stall).r = u.r := by
  have hu : ∀ k, u.ig? k = s.ig? k := fun k => by unfold State.ig?; rw [h.igs]
  unfold State.advance
  by_cases hc : g.endPc ≤ g.pc + 4 * (fieldsOf i).len
  · simp only [hc, if_true]
    refine ⟨⟨by simp [h.clock], by simp [h.memory], by simp [h.engines], by simp [h.graph], by simp [h.host],
      by simp [h.system], h.registers, h.labels, h.threads, h.schedule, ?_, ?_, ?_⟩, rfl, rfl⟩
    · simp only [State.closeIg, h.paths]
      exact behind_of_end hc
    · intro k hk
      simp only [State.closeIg, State.ig?]
      rw [find?_filter_ne, if_neg hk, h.igs]
    · intro _
      simp only [State.closeIg, State.ig?]
      rw [find?_filter_ne]
      simp [hc]
  · simp only [hc, if_false]
    have hp : ∀ q : List Path, (q.map fun p => p.behind s g i).any (fun p => decide (p.state = PState.inClause g.id)) =
        q.any fun p => decide (p.state = PState.inClause g.id) := by
      intro q
      rw [List.any_map]
      congr 1
      funext p
      by_cases hp : p.state = .inClause g.id <;> simp [Path.behind, hp, hc]
    have e : u.sch.paths = s.sch.paths.map fun p => p.behind s g i := h.paths.trans (behind_of_on hc)
    unfold State.sweepIg
    split
    · next ha =>
      refine ⟨⟨by simp [h.clock], by simp [h.memory], by simp [h.engines], by simp [h.graph], by simp [h.host],
        by simp [h.system], h.registers, h.labels, h.threads, h.schedule, e, ?_, ?_⟩, rfl, rfl⟩
      · intro k hk
        rw [State.ig?_setIg _ _ _ _ (fun _ => by rfl), if_neg hk]
        exact hu k
      · intro _
        rw [State.ig?_setIg _ _ _ _ (fun _ => by rfl), if_pos rfl]
        have : ({ u with clk.cur := none } : State).ig? g.id = some g := (hu _).trans hr
        rw [this]
        simp [hc, h.clock]
    · next ha =>
      refine ⟨⟨by simp [h.clock], by simp [h.memory], by simp [h.engines], by simp [h.graph], by simp [h.host],
        by simp [h.system], h.registers, h.labels, h.threads, h.schedule, e, ?_, ?_⟩, rfl, rfl⟩
      · intro k hk
        refine Eq.trans find?_filter_ne ?_
        rw [if_neg hk]
        refine Eq.trans (State.ig?_setIg _ _ _ _ (fun _ => by rfl)) ?_
        rw [if_neg hk]
        exact hu k
      · intro ⟨p, hp1, hp2⟩
        exfalso
        apply ha
        simp only [State.setIg_sch_paths]
        show u.sch.paths.any _ = true
        rw [e, hp]
        simp only [List.any_eq_true, decide_eq_true_eq]
        exact ⟨p, hp1, hp2⟩

/-! ## The whole of a word that computes a register result -/

/-- A thread as a lane, for an operation that reads nothing of the lane but its thread. -/
def TRef.lane0 (t : TRef) : Lane := ⟨t, 0, 0, 0⟩

theorem State.thr_useUnit (s : State) (i : Iss) (x : TRef) : (s.useUnit i).thr x = s.thr x := by
  unfold State.useUnit; split <;> rfl

theorem State.acted_counted (s : State) (g : IssueGroup) (i : Instr) : Acted s (s.counted g i) g i := by
  have hc := State.counts_account (s.entered g i) (s.iss g i) ((s.entered g i).members g.id)
  unfold State.counted
  generalize (s.entered g i).account (s.iss g i) ((s.entered g i).members g.id) = u at hc ⊢
  obtain ⟨hc, ht⟩ := hc
  refine ⟨?_, ?_, ?_, ?_, ?_, ?_, ?_, ?_, ?_, ?_, ?_, ?_⟩
  · rw [State.useUnit_clk, hc]; rfl
  · rw [State.useUnit_m, hc]; rfl
  · rw [State.useUnit_e, hc]; rfl
  · rw [State.useUnit_gr, hc]; rfl
  · rw [State.useUnit_h, hc]; rfl
  · rw [State.useUnit_y, hc]; rfl
  · rw [State.useUnit_r, hc]; rfl
  · intro x k _
    unfold State.tileLbl
    rw [State.useUnit_r, hc]; rfl
  · intro x
    rw [State.thr_useUnit, ht x]; rfl
  · unfold State.useUnit
    split <;> (rw [hc]; rfl)
  · rw [State.useUnit_sch_paths, hc]
  · rw [State.useUnit_sch_igs, hc]; rfl

theorem State.pend_counted (s : State) (g : IssueGroup) (i : Instr) : (s.counted g i).sch.pend = s.sch.pend := by
  unfold State.counted
  rw [State.useUnit_sch_pend, (State.counts_account _ _ _).1]; rfl

theorem Acted.drawn {s u v : State} {g : IssueGroup} {i : Instr} (h : Acted s u g i) (hd : Drawn u v)
    (hn : usesSeed i.cls (opNo i) (fieldsOf i) = false → v = u) : Acted s v g i := by
  have hb := hd.base
  refine ⟨?_, ?_, ?_, ?_, ?_, ?_, ?_, ?_, ?_, ?_, ?_, ?_⟩
  · rw [hb]; exact h.clock
  · rw [hb]; exact h.memory
  · rw [hb]; exact h.engines
  · rw [hb]; exact h.graph
  · rw [hb]; exact h.host
  · rw [hb]; exact h.system
  · have := h.registers
    rw [hb]
    dsimp only
    rw [this]
  · intro x k hk
    rcases hk with hk | hk
    · exact (hd.lbl x k hk).trans (h.labels x k (.inl hk))
    · rw [hn hk]; exact h.labels x k (.inr hk)
  · intro x
    rw [← h.threads x]
    exact congrArg Thread.bare (hd.thr x)
  · rw [hb]; exact h.schedule
  · rw [hb]; exact h.paths
  · rw [hb]; exact h.igs

theorem Acted.pend {s u : State} {g : IssueGroup} {i : Instr} (h : Acted s u g i) (ps : List Pend) :
    Acted s { u with sch.pend := ps } g i :=
  ⟨h.clock, h.memory, h.engines, h.graph, h.host, h.system, h.registers, h.labels, h.threads, h.schedule, h.paths, h.igs⟩

/-- The result that a word of the arithmetic units schedules. -/
def State.aluPend (s u : State) (g : IssueGroup) (i : Instr) (n : Nat) (o : TRef → AluOut) : Pend where
  due := s.clk.cycle + n
  writes := resWrites (Fm.writes i.cls (opNo i) (fieldsOf i))
    ((s.acting g i).map fun l => ⟨l, (o l.t).ws, s.aluLbl (s.iss g i) l⟩)
  lbls := u.resLbls (Fm.writes i.cls (opNo i) (fieldsOf i))
      ((s.acting g i).map fun l => ⟨l, (o l.t).ws, s.aluLbl (s.iss g i) l⟩) ++
    (if mayFlag i.cls (opNo i) (fieldsOf i) then (s.acting g i).map fun l =>
      ⟨l.g, .fstat, s.aluLbl (s.iss g i) l, false⟩ else [])
  flags := (s.acting g i).map fun l => (l.t, (o l.t).fl)
  links := []
  toks := tokPairs (fieldsOf i).tok (s.acting g i)

theorem State.putAlu_counted (s : State) (g : IssueGroup) (i : Instr) (n : Nat) (o : TRef → AluOut) :
    (s.counted g i).putAlu (s.iss g i) n ((s.acting g i).map fun l => (l, o l.t)) =
      { (s.counted g i).putSeeds ((s.acting g i).map fun l => (l, o l.t)) with
        sch.pend := s.sch.pend ++ [s.aluPend (s.counted g i) g i n o] } := by
  have hl : ∀ l, (s.counted g i).aluLbl (s.iss g i) l = s.aluLbl (s.iss g i) l := (s.sees_counted g i).aluLbl _
  have hp : ((s.counted g i).putSeeds ((s.acting g i).map fun l => (l, o l.t))).sch.pend = s.sch.pend := by
    rw [(State.drawn_putSeeds _ _).base]
    exact s.pend_counted g i
  unfold State.putAlu State.aluPend flagLbls
  simp only [hp, hl, List.map_map, (s.acted_counted g i).clock]
  rfl

theorem gives_of_alu {s : State} {g : IssueGroup} {i : Instr} (h : s.ready g i = true) {lat : Iss → Nat}
    {out : State → Iss → Lane → AluOut} (he : exec i s = runWord i (.alu lat out) s) {n : Nat} (hn : lat (s.iss g i) = n)
    {P : TRef → AluOut → Prop}
    (hout : ∀ t, Sees s t → ∀ l, out t (s.iss g i) l = out s (s.iss g i) l.t.lane0)
    (hseed : usesSeed i.cls (opNo i) (fieldsOf i) = false → ∀ t, (out s (s.iss g i) t).seed = none)
    (hP : ∀ t, P t (out s (s.iss g i) (TRef.lane0 t))) : Gives s g i n P := by
  have hsee := s.sees_counted g i
  have ha := s.acted_counted g i
  let o : TRef → AluOut := fun t => out s (s.iss g i) t.lane0
  have hos : ((s.iss g i).on.map fun l => (l, out (s.counted g i) (s.iss g i) l)) = (s.acting g i).map fun l => (l, o l.t) :=
    List.map_congr_left fun l _ => by rw [hout _ hsee]
  have hd := State.drawn_putSeeds (s.counted g i) ((s.acting g i).map fun l => (l, o l.t))
  have hsd := State.seed_putSeeds (s.counted g i) (s.acting g i) o
  have hr := he
  rw [runWord_plain h _ (fun _ _ _ => rfl) (fun _ _ _ => rfl) (fun _ _ => rfl) (fun _ _ => rfl)] at hr
  simp only [Meaning.alu] at hr
  rw [hos, hn, State.putAlu_counted] at hr
  have hact := (ha.drawn hd fun hk => State.putSeeds_none _ _ fun p hp => by
    obtain ⟨l, _, rfl⟩ := List.mem_map.1 hp
    exact hseed hk _).pend (s.sch.pend ++ [s.aluPend (s.counted g i) g i n o])
  obtain ⟨hi, hp, hrr⟩ := hact.issued (ready_ig h)
  refine ⟨_, s.aluPend (s.counted g i) g i n o, o, hr, hi, hp, rfl, fun l _ => hP _, rfl, rfl, rfl, rfl, rfl, fun x => ?_⟩
  have h1 : ∀ y, ((s.counted g i).thr y).seed = (s.thr y).seed := hsee.seed
  unfold State.thr at hsd h1 ⊢
  rw [hrr]
  dsimp only
  rw [hsd, h1]

end Sys2Proof.Machine
end

