-- ==== Sys2Proof/Laws/Num.lean ====
section
/-! SUPPORT. Numbers put together from words, elements and bits, and read back. -/

namespace Sys2Proof.Machine

open Sys2Proof

theorem length_wordsOf (x w : Nat) : (wordsOf x w).length = w := by
  induction w generalizing x with
  | zero => rfl
  | succ w ih => simp [wordsOf, ih]

theorem wordsNat_wordsOf (x w : Nat) : wordsNat (wordsOf x w) = x % 2 ^ (32 * w) := by
  induction w generalizing x with
  | zero => simp [wordsOf, wordsNat, Nat.mod_one]
  | succ w ih =>
    simp only [wordsOf, wordsNat, BitVec.toNat_ofNat, ih]
    have : 2 ^ (32 * (w + 1)) = 2 ^ 32 * 2 ^ (32 * w) := by rw [← Nat.pow_add]; congr 1; omega
    rw [this, Nat.mod_mul]

theorem packElems_lt (n : Nat) (xs : List Nat) : packElems n xs < 2 ^ (n * xs.length) := by
  induction xs with
  | nil => simp [packElems]
  | cons x xs ih =>
    simp only [packElems, List.length_cons]
    have h1 : x % 2 ^ n < 2 ^ n := Nat.mod_lt _ (Nat.two_pow_pos n)
    have h2 : 2 ^ (n * (xs.length + 1)) = 2 ^ n * 2 ^ (n * xs.length) := by rw [← Nat.pow_add]; congr 1; ring
    rw [h2]
    calc x % 2 ^ n + 2 ^ n * packElems n xs < 2 ^ n + 2 ^ n * packElems n xs := by omega
      _ = 2 ^ n * (packElems n xs + 1) := by ring
      _ ≤ 2 ^ n * 2 ^ (n * xs.length) := Nat.mul_le_mul_left _ ih

theorem bitsOf_packElems (n : Nat) (xs : List Nat) (e : Nat) :
    bitsOf (packElems n xs) (n * e) n = xs.getD e 0 % 2 ^ n := by
  unfold bitsOf
  induction xs generalizing e with
  | nil => simp [packElems]
  | cons x xs ih =>
    cases e with
    | zero => simp [packElems, Nat.add_mul_mod_self_left]
    | succ e =>
      simp only [packElems, List.getD_cons_succ]
      rw [← ih e]
      have : n * (e + 1) = n + n * e := by ring
      rw [this, Nat.shiftRight_add]
      congr 2
      rw [Nat.shiftRight_eq_div_pow, Nat.add_mul_div_left _ _ (Nat.two_pow_pos n), Nat.div_eq_of_lt (Nat.mod_lt _ (Nat.two_pow_pos n)),
        Nat.zero_add]

theorem bitsOf_mod (x m lo n : Nat) (h : lo + n ≤ m) : bitsOf (x % 2 ^ m) lo n = bitsOf x lo n := by
  unfold bitsOf
  apply Nat.eq_of_testBit_eq
  intro i
  simp only [Nat.testBit_mod_two_pow, Nat.testBit_shiftRight]
  by_cases hi : i < n
  · simp [hi, show lo + i < m by omega]
  · simp [hi]

theorem elem_room (w e : Nat) (h : e < elemCount w) : elemBits w * e + elemBits w ≤ 32 * intRegs w := by
  unfold elemCount at h
  unfold elemBits intRegs
  rcases w with _ | _ | _ | _ | w  <;> simp_all; omega

theorem wrapNat_lt (x : Int) (n : Nat) : wrapNat x n < 2 ^ n := by
  unfold wrapNat
  have h : (0 : Int) < 2 ^ n := by positivity
  have h1 := Int.emod_nonneg x (ne_of_gt h)
  have h2 := Int.emod_lt_of_pos x h
  have : ((x % 2 ^ n).toNat : Int) < 2 ^ n := by rw [Int.toNat_of_nonneg h1]; exact h2
  exact_mod_cast this

/-- Each element of a packed result is its wrapped or saturated value. -/
theorem elem_packInt (w : Nat) (u sat : Bool) (r : Nat → Int) (e : Nat) (h : e < elemCount w) :
    bitsOf (wordsNat (wordsOf (packInt w u sat r) (intRegs w))) (elemBits w * e) (elemBits w) =
      wrapNat (if sat then satInt (elemBits w) u (r e) else r e) (elemBits w) := by
  rw [wordsNat_wordsOf, bitsOf_mod _ _ _ _ (elem_room w e h)]
  unfold packInt
  rw [bitsOf_packElems]
  rw [List.getD_eq_getElem _ _ (by simpa using h)]
  simp only [List.getElem_map, List.getElem_range]
  exact Nat.mod_eq_of_lt (wrapNat_lt _ _)

/-! ## Integer words -/

/-- The operands of an integer word. -/
theorem intArgs_iss (s : State) (g : IssueGroup) (i : Instr) (t : TRef) :
    s.intArgs (s.iss g i) t.lane0 =
      ⟨mdW (fieldsOf i).md, mdU (fieldsOf i).md, mdSat (fieldsOf i).md, mdOpx (fieldsOf i).md,
        s.intVal t (fieldsOf i).lit (fieldsOf i).a (skWidth (spec i.cls (opNo i) (fieldsOf i)).a) (mdW (fieldsOf i).md) (mdU (fieldsOf i).md),
        s.intVal t (fieldsOf i).lit (fieldsOf i).b (skWidth (spec i.cls (opNo i) (fieldsOf i)).b) (mdW (fieldsOf i).md) (mdU (fieldsOf i).md),
        s.intVal t (fieldsOf i).lit (fieldsOf i).c (skWidth (spec i.cls (opNo i) (fieldsOf i)).c) (mdW (fieldsOf i).md) (mdU (fieldsOf i).md)⟩ :=
  rfl

theorem elements_intOut (s : State) (g : IssueGroup) (i : Instr) (r : Nat → Int → Int → Int → Int) (t : TRef)
    (hx : skWidth (spec i.cls (opNo i) (fieldsOf i)).a = intRegs (mdW (fieldsOf i).md))
    (hy : skWidth (spec i.cls (opNo i) (fieldsOf i)).b = intRegs (mdW (fieldsOf i).md) ∨ ∀ n x y y' z, r n x y z = r n x y' z)
    (hz : skWidth (spec i.cls (opNo i) (fieldsOf i)).c = intRegs (mdW (fieldsOf i).md) ∨ ∀ n x y z z', r n x y z = r n x y z') :
    ElementsAre s i r t (intOut r s (s.iss g i) t.lane0) := by
  unfold intOut
  rw [intArgs_iss]
  dsimp only
  rw [hx]
  refine ⟨⟨length_wordsOf _ _, rfl, rfl⟩, fun e he => ?_⟩
  dsimp only
  rw [elem_packInt _ _ _ _ e he]
  rcases hy with hy | hy
  · rcases hz with hz | hz
    · rw [hy, hz]
    · rw [hy, hz]
  · rcases hz with hz | hz
    · rw [hz, hy]
    · rw [hy, hz]

theorem gives_intOut {s : State} {g : IssueGroup} {i : Instr} (h : s.ready g i = true) {r : Nat → Int → Int → Int → Int}
    (he : exec i s = runWord i (.alu lat4 (intOut r)) s) {P : TRef → AluOut → Prop}
    (hP : ∀ t, P t (intOut r s (s.iss g i) (TRef.lane0 t))) : Gives s g i 4 P :=
  gives_of_alu h he rfl (fun u hu l => by unfold intOut; rw [hu.intArgs]; rfl) (fun _ _ => rfl) hP

theorem gives_bitOut {s : State} {g : IssueGroup} {i : Instr} (h : s.ready g i = true) {n r : IntArgs → Nat}
    (he : exec i s = runWord i (.alu lat4 (bitOut n r)) s) {P : TRef → AluOut → Prop}
    (hP : ∀ t, P t (bitOut n r s (s.iss g i) (TRef.lane0 t))) : Gives s g i 4 P :=
  gives_of_alu h he rfl (fun u hu l => by unfold bitOut; rw [hu.intArgs]; rfl) (fun _ _ => rfl) hP

/-- A word that raises no encoding fault has operands that its positions admit, and an admitted modifier (R175, R187). -/
theorem check_fields {c o : Nat} {f : Fm} (h : f.check c o = none) :
    (spec c o f).mdOk = true ∧ (spec c o f).opBad = false ∧ (spec c o f).dst.refuses f.dst = false ∧
      (spec c o f).a.refuses false f.a = false ∧ (spec c o f).b.refuses true f.b = false ∧
      (spec c o f).c.refuses false f.c = false := by
  unfold Fm.check at h
  dsimp only at h
  split at h
  · cases h
  · next h1 =>
    split at h
    · cases h
    · next h2 =>
      simp only [Bool.or_eq_true, not_or, Bool.not_eq_true] at h1 h2
      obtain ⟨⟨⟨⟨⟨hd, ha⟩, hb⟩, hc⟩, ho⟩, _⟩ := h1
      obtain ⟨⟨⟨_, hm⟩, _⟩, _⟩ := h2
      exact ⟨by simpa using hm, ho, hd, ha, hb, hc⟩

theorem ready_check {s : State} {g : IssueGroup} {i : Instr} (h : s.ready g i = true) : i.check = none := by
  unfold State.ready at h
  simp only [Bool.and_eq_true, beq_iff_eq] at h
  exact h.1.2

theorem ready_fields {s : State} {g : IssueGroup} {i : Instr} (h : s.ready g i = true) {c o : Nat} {b : Body}
    (hv : i.view = some (c, o, b)) (hb : b.check c o = b.fm.check c o) :
    (spec c o (fieldsOf i)).mdOk = true ∧ (spec c o (fieldsOf i)).opBad = false ∧
      (spec c o (fieldsOf i)).dst.refuses (fieldsOf i).dst = false ∧ (spec c o (fieldsOf i)).a.refuses false (fieldsOf i).a = false ∧
      (spec c o (fieldsOf i)).b.refuses true (fieldsOf i).b = false ∧ (spec c o (fieldsOf i)).c.refuses false (fieldsOf i).c = false := by
  have hf : fieldsOf i = b.fm := by simp [fieldsOf, hv]
  have hc := ready_check h
  unfold Instr.check at hc
  rw [hv] at hc
  dsimp only at hc
  rw [hb] at hc
  rw [hf]
  exact check_fields hc

theorem ready_mdOk {s : State} {g : IssueGroup} {i : Instr} (h : s.ready g i = true) {c o : Nat} {b : Body}
    (hv : i.view = some (c, o, b)) (hb : b.check c o = b.fm.check c o) : (spec c o (fieldsOf i)).mdOk = true :=
  (ready_fields h hv hb).1

theorem intMd_le {m : BitVec 10} {k : Nat} {u st : Bool} {p : Nat → Bool} (h : intMd m k u st p = true) :
    mdW m ≤ k ∧ p (mdOpx m) = true ∧ (u = false → mdU m = false) := by
  unfold intMd at h
  simp only [Bool.and_eq_true, decide_eq_true_eq, Bool.or_eq_true, Bool.not_eq_true'] at h
  refine ⟨h.1.1.1.2, h.2, fun hu => ?_⟩
  rcases h.1.1.2 with h | h
  · rw [hu] at h; cases h
  · exact h

theorem elemBits_le {w : Nat} (h : w ≤ 1) : elemBits w = 32 * intRegs w := by
  match w with
  | 0 => rfl
  | 1 => rfl
  | n + 2 => omega

theorem vSpan_lt (s : State) (t : TRef) (n w : Nat) : s.vSpan t n w < 2 ^ (32 * w) := by
  induction w generalizing n with
  | zero => simp [State.vSpan]
  | succ w ih =>
    simp only [State.vSpan]
    have h1 := (s.vGet t n).isLt
    have h2 := ih (n + 1)
    have h3 : 2 ^ (32 * (w + 1)) = 2 ^ 32 * 2 ^ (32 * w) := by rw [← Nat.pow_add]; congr 1; omega
    rw [h3]
    calc _ < 2 ^ 32 + 2 ^ 32 * s.vSpan t (n + 1) w := by omega
      _ = 2 ^ 32 * (s.vSpan t (n + 1) w + 1) := by ring
      _ ≤ _ := Nat.mul_le_mul_left _ h2

theorem sSpan_lt (s : State) (g : GRef) (n w : Nat) : s.sSpan g n w < 2 ^ (32 * w) := by
  induction w generalizing n with
  | zero => simp [State.sSpan]
  | succ w ih =>
    simp only [State.sSpan]
    have h1 := (s.sGet g n).isLt
    have h2 := ih (n + 1)
    have h3 : 2 ^ (32 * (w + 1)) = 2 ^ 32 * 2 ^ (32 * w) := by rw [← Nat.pow_add]; congr 1; omega
    rw [h3]
    calc _ < 2 ^ 32 + 2 ^ 32 * s.sSpan g (n + 1) w := by omega
      _ = 2 ^ 32 * (s.sSpan g (n + 1) w + 1) := by ring
      _ ≤ _ := Nat.mul_le_mul_left _ h2

theorem constBits_lt (k n : Nat) : constBits k n < 2 ^ n := by
  unfold constBits
  split
  · exact wrapNat_lt _ _
  · exact Nat.mod_lt _ (Nat.two_pow_pos n)

/-- An operand of `w` registers has their bits. -/
theorem intVal_lt (s : State) (t : TRef) (lit : Word) (c : Code) (w lay : Nat) (u : Bool) (hw : 1 ≤ w) :
    s.intVal t lit c w lay u < 2 ^ (32 * w) := by
  have h32 : 2 ^ 32 ≤ 2 ^ (32 * w) := Nat.pow_le_pow_right (by decide) (by omega)
  unfold State.intVal
  split
  · exact vSpan_lt ..
  · exact sSpan_lt ..
  · exact lt_of_lt_of_le (BitVec.isLt _) h32
  · next k _ =>
    have h16 := constBits_lt k 16
    have h8 := constBits_lt k 8
    split
    · omega
    · omega
    · exact constBits_lt _ _
  · split <;> omega
  · split
    · next h =>
      simp only [Bool.and_eq_true, decide_eq_true_eq] at h
      rw [h.1]
      exact BitVec.isLt _
    · exact lt_of_lt_of_le (BitVec.isLt _) h32
  · omega

theorem testBit_bitwise (n : Nat) (p : Nat → Bool) (k : Nat) : (bitwise n p).testBit k = (decide (k < n) && p k) := by
  unfold bitwise
  induction n generalizing k with
  | zero => simp
  | succ n ih =>
    rw [List.range_succ, List.foldl_append]
    simp only [List.foldl_cons, List.foldl_nil]
    generalize (List.range n).foldl (fun acc k => if p k then acc + 2 ^ k else acc) 0 = y at ih
    have hlt : y < 2 ^ n := by
      apply Nat.lt_pow_two_of_testBit
      intro i hi
      rw [ih]; simp; omega
    cases hp : p n with
    | true =>
      simp only [if_true]
      rw [Nat.add_comm, show 2 ^ n + y = 2 ^ n * 1 + y by ring, Nat.testBit_two_pow_mul_add _ hlt]
      by_cases hk : k < n
      · simp [hk, ih, show k < n + 1 by omega]
      · simp only [hk, if_false]
        by_cases hk2 : k = n
        · subst hk2; simp [hp]
        · have : ¬ k < n + 1 := by omega
          rw [Nat.testBit_lt_two_pow (Nat.one_lt_two_pow (by omega))]
          simp [this]
    | false =>
      simp only [Bool.false_eq_true, if_false, ih]
      by_cases hk : k = n
      · subst hk; simp [hp]
      · have : decide (k < n) = decide (k < n + 1) := by simp; omega
        rw [this]

/-- An integer word over the raw bits of its operands, each of the width that its entry gives it. -/
theorem gives_bits {s : State} {g : IssueGroup} {i : Instr} (h : s.ready g i = true) {n r : IntArgs → Nat}
    (he : exec i s = runWord i (.alu lat4 (bitOut n r)) s) (wa wb wc : Nat)
    (ha : skWidth (spec i.cls (opNo i) (fieldsOf i)).a = wa) (hb : skWidth (spec i.cls (opNo i) (fieldsOf i)).b = wb)
    (hc : skWidth (spec i.cls (opNo i) (fieldsOf i)).c = wc) {P : TRef → AluOut → Prop}
    (hP : ∀ t, P t ((fun a => ⟨wordsOf (r a) (n a), 0, none⟩) (IntArgs.mk (mdW (fieldsOf i).md) (mdU (fieldsOf i).md)
      (mdSat (fieldsOf i).md) (mdOpx (fieldsOf i).md) (s.operand i t (fieldsOf i).a wa) (s.operand i t (fieldsOf i).b wb)
      (s.operand i t (fieldsOf i).c wc)))) : Gives s g i 4 P := by
  refine gives_bitOut h he fun t => ?_
  unfold bitOut
  rw [intArgs_iss, ha, hb, hc]
  exact hP t

theorem numberIs_wordsOf (x w : Nat) (fl) (hfl : fl = 0) (h : x < 2 ^ (32 * w)) : NumberIs w x ⟨wordsOf x w, fl, none⟩ :=
  ⟨⟨length_wordsOf _ _, hfl, rfl⟩, by rw [wordsNat_wordsOf, Nat.mod_eq_of_lt h]⟩

theorem bitsAre_wordsOf (x w : Nat) (p : Nat → Bool) (h : ∀ k, k < 32 * w → x.testBit k = p k) :
    BitsAre w p ⟨wordsOf x w, 0, none⟩ :=
  ⟨⟨length_wordsOf _ _, rfl, rfl⟩, fun k hk => by rw [wordsNat_wordsOf, Nat.testBit_mod_two_pow]; simp [hk, h k hk]⟩

theorem operand_lt (s : State) (i t c) {w : Nat} (hw : 1 ≤ w) : s.operand i t c w < 2 ^ (32 * w) := intVal_lt _ _ _ _ _ _ _ hw

theorem intRegs_pos (w : Nat) : 1 ≤ intRegs w := by unfold intRegs; split <;> omega


theorem testBit_invB (a : IntArgs) (h : a.w ≤ 1) (hy : a.y < 2 ^ (32 * intRegs a.w)) (ho : a.opx < 2) (k : Nat) (hk : k < 32 * intRegs a.w) :
    (invB a).testBit k = (a.y.testBit k != (a.opx == 1)) := by
  unfold invB
  rw [elemBits_le h]
  have : a.opx = 0 ∨ a.opx = 1 := by omega
  rcases this with h0 | h1
  · simp [h0]
  · simp only [h1]
    have e : 2 ^ (32 * intRegs a.w) - 1 - a.y = 2 ^ (32 * intRegs a.w) - (a.y + 1) := by omega
    simp [e, Nat.testBit_two_pow_sub_succ hy, hk]

end Sys2Proof.Machine
end

