-- ==== Sys2Proof/Laws/Float.lean ====
section
/-! SUPPORT. The elements of a floating-point result: rounding them one after another, and putting their codes together. -/

namespace Sys2Proof.Machine

open Sys2Proof

theorem packCodes_eq (n : Nat) (xs : List Nat) : packCodes n xs = packElems n xs := by
  induction xs with
  | nil => rfl
  | cons x xs ih => simp [packCodes, packElems, ih]

theorem roundDraw_seed (fmt rm : Nat) (ftz : Bool) (x : FV) (seed : Word) :
    (roundDraw fmt rm ftz x seed).2.2 = if rm = 5 then draw seed else seed := rfl

theorem drawn_succ (rm : Nat) (seed : Word) (k : Nat) : drawn rm (if rm = 5 then draw seed else seed) k = drawn rm seed (k + 1) := by
  induction k with
  | zero => simp [drawn]
  | succ k ih => rw [drawn, ih]; rfl

theorem foldl_or (a : BitVec 8) (f : Nat → BitVec 8) (xs : List Nat) :
    xs.foldl (fun a e => a ||| f e) a = a ||| xs.foldl (fun a e => a ||| f e) 0 := by
  induction xs generalizing a with
  | nil => simp
  | cons x xs ih => rw [List.foldl_cons, List.foldl_cons, ih, ih (0 ||| f x)]; simp [BitVec.or_assoc]

theorem orFlags_succ (n : Nat) (fl : Nat → BitVec 8) : orFlags (n + 1) fl = fl 0 ||| orFlags n fun e => fl (e + 1) := by
  unfold orFlags
  rw [List.range_succ_eq_map, List.foldl_cons, foldl_or, List.foldl_map]
  simp

theorem orFlags_congr {n : Nat} {f f' : Nat → BitVec 8} (h : ∀ e, e < n → f e = f' e) : orFlags n f = orFlags n f' := by
  induction n generalizing f f' with
  | zero => rfl
  | succ n ih => rw [orFlags_succ, orFlags_succ, h 0 (by omega), ih fun e he => h (e + 1) (by omega)]

/-- What rounding some elements one after another gives. -/
theorem roundAll_range (fmt rm : Nat) (ftz : Bool) (n : Nat) (v : Nat → FV × BitVec 8) (seed : Word) :
    roundAll fmt rm ftz ((List.range n).map v) seed =
      ((List.range n).map fun e => (roundDraw fmt rm ftz (v e).1 (drawn rm seed e)).1,
        orFlags n fun e => (v e).2 ||| (roundDraw fmt rm ftz (v e).1 (drawn rm seed e)).2.1, drawn rm seed n) := by
  induction n generalizing v seed with
  | zero => rfl
  | succ n ih =>
    rw [List.range_succ_eq_map, List.map_cons, List.map_cons, List.map_map, List.map_map]
    unfold roundAll
    have h := ih (v ∘ Nat.succ) (roundDraw fmt rm ftz (v 0).1 seed).2.2
    dsimp only
    rw [h, roundDraw_seed]
    simp only [drawn_succ, orFlags_succ, Function.comp_def, Nat.succ_eq_add_one]
    rfl

theorem typeRoom (m : BitVec 10) (h : mdX4 m = true → 2 ≤ mdType m) (e : Nat) (he : e < typeCount m) :
    fmtBits (typeFmt m) * e + fmtBits (typeFmt m) ≤ 32 * fpRegs m := by
  unfold typeCount at he
  unfold fpRegs typeFmt
  have ht : mdType m < 4 := (m.extractLsb' 0 2).isLt
  generalize mdType m = k at *
  generalize mdX4 m = x at *
  match k with
  | 0 =>
    cases x with
    | true => have := h rfl; omega
    | false => simp [fmtBits, fmtF32] at *; omega
  | 1 => simp [fmtBits, fmtF32] at *; omega
  | 2 => cases x <;> simp [fmtBits, fmtF16] at * <;> omega
  | 3 => cases x <;> simp [fmtBits, fmtBF16] at * <;> omega
  | k + 4 => omega

/-- The codes of a result put together and read back. -/
theorem codesAre_packCodes (i : Instr) (h : mdX4 (fieldsOf i).md = true → 2 ≤ mdType (fieldsOf i).md) (code : Nat → Nat)
    (fl : Nat → BitVec 8) (fl' : BitVec 8) (seed : Option Word) (hf : fl' = orFlags (typeCount (fieldsOf i).md) fl) :
    CodesAre i code fl ⟨wordsOf (packCodes (fmtBits (typeFmt (fieldsOf i).md)) ((List.range (typeCount (fieldsOf i).md)).map code))
      (fpRegs (fieldsOf i).md), fl', seed⟩ := by
  refine ⟨length_wordsOf _ _, fun e he => ?_, hf⟩
  dsimp only
  rw [wordsNat_wordsOf, bitsOf_mod _ _ _ _ (typeRoom _ h e he), packCodes_eq, bitsOf_packElems,
    List.getD_eq_getElem _ _ (by simpa using he)]
  simp

theorem fpElems_eq (s : State) (g : IssueGroup) (i : Instr) (t : TRef) (c : Code) :
    s.fpElems (s.iss g i) t.lane0 c = (List.range (typeCount (fieldsOf i).md)).map (s.fpOperand i t c) := rfl

theorem zip_map_range {α β : Type} (n : Nat) (f : Nat → α) (g : Nat → β) :
    ((List.range n).map f).zip ((List.range n).map g) = (List.range n).map fun e => (f e, g e) := by
  rw [List.zip_map', List.map_congr_left]; intros; rfl

theorem roundedIs_fpOut (s : State) (g : IssueGroup) (i : Instr) (t : TRef) (h : mdX4 (fieldsOf i).md = true → 2 ≤ mdType (fieldsOf i).md)
    (r : FpOp) (r' : FV → FV → FV → FV × Bool)
    (hr : ∀ x y z, r (mdRm (fieldsOf i).md) (mdFopx (fieldsOf i).md) x y z = ((r' x y z).1, nvIf (r' x y z).2)) :
    RoundedIs s i r' t (fpOut r s (s.iss g i) t.lane0) := by
  unfold fpOut
  dsimp only
  rw [fpElems_eq, fpElems_eq, fpElems_eq, zip_map_range, zip_map_range, List.map_map]
  have e : (s.iss g i).f = fieldsOf i := rfl
  simp only [e, Function.comp_def, hr]
  rw [roundAll_range]
  dsimp only
  refine ⟨codesAre_packCodes i h _ _ _ _ rfl, ?_⟩
  dsimp only
  split
  · next h5 => rw [h5]; rfl
  · rfl

theorem sees_fpOut {s u : State} (hu : Sees s u) (g : IssueGroup) (i : Instr) (r : FpOp) (l : Lane) :
    fpOut r u (s.iss g i) l = fpOut r s (s.iss g i) l.t.lane0 := by
  unfold fpOut
  simp only [hu.fpElems, hu.seed]
  rfl

theorem fpMd_x4 {m : BitVec 10} {rm : Nat → Bool} {ftz x4 : Bool} {opx : Nat → Bool} (h : fpMd m rm ftz x4 opx = true) :
    (mdX4 m = true → 2 ≤ mdType m) ∧ opx (mdFopx m) = true ∧ rm (mdRm m) = true := by
  unfold fpMd at h
  simp only [Bool.and_eq_true, Bool.or_eq_true, Bool.not_eq_true', decide_eq_true_eq] at h
  refine ⟨fun hx => ?_, h.2, h.1.1.1⟩
  rcases h.1.2 with h | h
  · rw [hx] at h; cases h
  · exact h.2

/-- A word of rounded arithmetic. -/
theorem gives_fpOut {s : State} {g : IssueGroup} {i : Instr} (h : s.ready g i = true) {r : FpOp}
    (he : exec i s = runWord i (.alu lat4 (fpOut r)) s) (hx : mdX4 (fieldsOf i).md = true → 2 ≤ mdType (fieldsOf i).md)
    (hs : usesSeed i.cls (opNo i) (fieldsOf i) = (mdRm (fieldsOf i).md == 5)) (r' : FV → FV → FV → FV × Bool)
    (hr : ∀ x y z, r (mdRm (fieldsOf i).md) (mdFopx (fieldsOf i).md) x y z = ((r' x y z).1, nvIf (r' x y z).2)) :
    Gives s g i 4 (RoundedIs s i r') := by
  refine gives_of_alu h he rfl (fun u hu l => sees_fpOut hu g _ _ l) (fun hu t => ?_)
    fun t => roundedIs_fpOut s g i t hx r r' hr
  rw [hs] at hu
  have : ¬ mdRm (fieldsOf i).md = 5 := by simpa using hu
  exact if_neg this

end Sys2Proof.Machine
end

