-- ==== Sys2Proof/Laws/Word.lean ====
section
/-! SUPPORT. The issue of a word whose entry may fault, whose word may close CLEAN, wait or park lanes: what it comes to where
it does not fault, and the whole of a word with an effect of its own in the terms of `Does`. -/

namespace Sys2Proof.Machine

open Sys2Proof

theorem mem_dedup {α : Type} [DecidableEq α] {xs : List α} {a : α} : a ∈ dedup xs ↔ a ∈ xs := by
  have : ∀ (xs acc : List α), a ∈ xs.foldl (fun acc x => if acc.contains x then acc else x :: acc) acc ↔ a ∈ acc ∨ a ∈ xs := by
    intro xs
    induction xs with
    | nil => simp
    | cons x xs ih =>
      intro acc
      rw [List.foldl_cons, ih]
      by_cases h : acc.contains x = true
      · have hx : x ∈ acc := by simpa using h
        simp only [h, if_true, List.mem_cons]
        constructor
        · rintro (h | h) <;> simp [h]
        · rintro (h | rfl | h) <;> simp [*]
      · simp only [h, List.mem_cons]
        simp only [Bool.false_eq_true, if_false, List.mem_cons]
        tauto
  unfold dedup
  rw [List.mem_reverse, this]
  simp

/-- A fault that only lanes of teams that are gone have is none. -/
theorem State.judge_alive (s : State) (g : IssueGroup) (ls : List Lane) (flt : Lane → Option Flt)
    (h : ∀ l ∈ s.alive ls, flt l = none) : s.judge g ls flt = s := by
  unfold State.judge
  refine foldl_same _ _ _ fun tid _ => ?_
  split
  · next l f e =>
    obtain ⟨l', hl, he⟩ := List.exists_of_findSome?_eq_some e
    cases hf : flt l' with
    | none => simp [hf] at he
    | some f' =>
      simp only [hf, Option.map_some, Option.some.injEq, Prod.mk.injEq] at he
      obtain ⟨hm, ht⟩ := List.mem_filter.1 hl
      have hn : (s.team? tid).isSome = false := by
        by_contra hs
        have := h l' (List.mem_filter.2 ⟨hm, by rw [of_decide_eq_true ht]; exact Option.ne_none_iff_isSome.1 (by simpa using hs)⟩)
        rw [this] at hf; cases hf
      unfold State.takeFault
      rw [Option.isSome_eq_false_iff, Option.isNone_iff_eq_none] at hn
      rw [hn]
  · rfl

theorem State.team?_setTeam (s : State) (n k : Nat) (f : Team → Team) :
    (s.setTeam n f).team? k = if k = n then (s.team? k).map f else s.team? k := by
  by_cases hk : k = n
  · subst hk
    simp only [if_true]
    unfold State.setTeam
    cases h : s.team? k with
    | none => simp [h]
    | some t => simp [State.team?, mget?_mset]
  · simp only [hk, if_false]
    unfold State.setTeam
    cases h : s.team? n with
    | none => rfl
    | some t => simp [State.team?, mget?_mset, hk]

theorem State.team?_close (s : State) (ls : List Lane) (k : Nat) : ((s.close ls).team? k).isSome = (s.team? k).isSome := by
  unfold State.close
  refine foldl_keeps (fun t : State => (t.team? k).isSome = (s.team? k).isSome) _ (fun t x h => ?_) _ _ rfl
  rw [State.team?_setTeam, ← h]
  split <;> simp

theorem State.alive_close (s : State) (ls xs : List Lane) : (s.close ls).alive xs = s.alive xs := by
  unfold State.alive
  refine List.filter_congr fun l _ => ?_
  rw [State.team?_close]

/-- What the entry of a word gives its checks. -/
def State.iss0 (s : State) (g : IssueGroup) (i : Instr) : Iss := { s.iss g i with on := s.entrants g i }

/-- The state at the entry of a word that closes CLEAN in some lanes. -/
def State.shut (s : State) (g : IssueGroup) (i : Instr) (m : Meaning) : State :=
  (s.entered g i).close ((s.entrants g i).filter fun l => m.closes (s.entered g i) (s.iss0 g i) l)

theorem State.takeIn_passes (s : State) (g : IssueGroup) (i : Instr) (m : Meaning)
    (hf : ∀ l ∈ s.acting g i, m.flt (s.shut g i m) (s.iss0 g i) l = none) :
    s.takeIn g i.cls (opNo i) (fieldsOf i) m = (s.shut g i m, s.iss g i) := by
  have ha : (s.shut g i m).alive (s.entrants g i) = s.acting g i := State.alive_close _ _ _
  have hj : (s.shut g i m).judge g (s.entrants g i) (fun l => m.flt (s.shut g i m) (s.iss0 g i) l) = s.shut g i m :=
    State.judge_alive _ _ _ _ (by rw [ha]; exact hf)
  have hd : s.takeIn g i.cls (opNo i) (fieldsOf i) m =
      (fun v : State => (v, { s.iss0 g i with on := v.alive (s.entrants g i) }))
        ((s.shut g i m).judge g (s.entrants g i) fun l => m.flt (s.shut g i m) (s.iss0 g i) l) := rfl
  rw [hd, hj]
  dsimp only
  rw [ha]
  rfl

theorem runWord_passes {s : State} {g : IssueGroup} {i : Instr} (h : s.ready g i = true) (m : Meaning)
    (hf : ∀ l ∈ s.acting g i, m.flt (s.shut g i m) (s.iss0 g i) l = none) :
    runWord i m s = .next (match m.hold (s.shut g i m) (s.iss g i) with
      | (s, some k) => s.holdIg g k
      | (t, none) => t.perform (s.iss g i) m) := by
  rw [runWord_ready h, State.takeIn_passes s g i m hf]
  all_goals rfl

theorem State.perform_passes (u : State) (s : State) (g : IssueGroup) (i : Instr) (m : Meaning)
    (ha : u.alive (s.acting g i) = s.acting g i) (hs : m.stop u (s.iss g i) = (u, [])) :
    u.perform (s.iss g i) m =
      (m.eff (u.countedAt s g i) (s.iss g i)).advance g (fieldsOf i).len (fieldsOf i).stall := by
  unfold State.perform
  simp only [hs, List.map_nil, List.filter_nil, State.parkAll_nil]
  have h : ((s.iss g i).on.filter fun l => !([] : List TRef).contains l.t) = s.acting g i := by simp [State.iss]
  have : ({ s.iss g i with on := u.alive ((s.iss g i).on.filter fun l => !([] : List TRef).contains l.t) } : Iss) =
      s.iss g i := by
    rw [h, ha]; rfl
  rw [this]
  rfl

/-- A word that closes nothing, faults in no lane that acts, waits for nothing and parks no lane. -/
theorem runWord_acts {s : State} {g : IssueGroup} {i : Instr} (h : s.ready g i = true) (m : Meaning)
    (hc : ∀ t is l, m.closes t is l = false) (hh : ∀ t is, m.hold t is = (t, none)) (hs : ∀ t is, m.stop t is = (t, []))
    (hf : ∀ l ∈ s.acting g i, m.flt (s.entered g i) (s.iss0 g i) l = none) :
    runWord i m s = .next ((m.eff (s.counted g i) (s.iss g i)).advance g (fieldsOf i).len (fieldsOf i).stall) := by
  have hsh : s.shut g i m = s.entered g i := by
    unfold State.shut
    simp only [hc, List.filter_false, State.close_nil]
  rw [runWord_passes h m (by rw [hsh]; exact hf), hsh]
  simp only [hh]
  rw [State.perform_passes _ _ _ _ _ (State.acting_alive s g i) (hs _ _)]
  rfl

theorem State.thr_setThrs (ls : List Lane) (f : Thread → Thread) (hf : ∀ h, f (f h) = f h) (s : State) (x : TRef) :
    ((ls.foldl (fun s l => s.setThr l.t f) s).thr x) = if x ∈ ls.map (·.t) then f (s.thr x) else s.thr x := by
  induction ls generalizing s with
  | nil => rfl
  | cons l ls ih =>
    rw [List.foldl_cons, ih, State.thr_setThr]
    by_cases h : x = l.t
    · subst h; simp [hf]
    · simp [h]

theorem State.rest_setThrs (ls : List Lane) (f : Lane → Thread → Thread) (s : State) :
    (ls.foldl (fun s l => s.setThr l.t (f l)) s) = { s with r.thr := (ls.foldl (fun s l => s.setThr l.t (f l)) s).r.thr } := by
  refine foldl_keeps (fun t : State => t = {s with r.thr := t.r.thr}) _ (fun t x h => ?_) ls s rfl
  rw [h]; rfl

/-- The state `u` is `b` in which a word has been entered and counted. -/
structure Over (b u s : State) (g : IssueGroup) (i : Instr) : Prop where
  same : ({ u with r.thr := [], sch.paths := [], sch.busy := [] } : State) = { b with r.thr := [], sch.paths := [], sch.busy := [] }
  threads : ∀ x, (u.thr x).bare = (b.thr x).bare
  paths : u.sch.paths = (s.entered g i).sch.paths

theorem Over.counts {b u v s : State} {g : IssueGroup} {i : Instr} (h : Over b u s g i) (hc : Counts u v) : Over b v s g i := by
  obtain ⟨hc, ht⟩ := hc
  refine ⟨?_, fun x => (ht x).trans (h.threads x), ?_⟩
  · rw [hc]; exact h.same
  · rw [hc]; exact h.paths

theorem State.over_counted (s : State) (g : IssueGroup) (i : Instr) : Over s (s.counted g i) s g i := by
  have hc := State.counts_account (s.entered g i) (s.iss g i) ((s.entered g i).members g.id)
  unfold State.counted
  generalize (s.entered g i).account (s.iss g i) ((s.entered g i).members g.id) = u at hc ⊢
  obtain ⟨hc, ht⟩ := hc
  refine ⟨?_, fun x => by rw [State.thr_useUnit, ht x]; rfl, by rw [State.useUnit_sch_paths, hc]⟩
  unfold State.useUnit
  split <;> (rw [hc]; rfl)

/-- The whole of a word with an effect of its own. -/
theorem does_of_eff {s b : State} {g : IssueGroup} {i : Instr} (h : s.ready g i = true) {m : Meaning}
    (he : exec i s = runWord i m s)
    (hc : ∀ t is l, m.closes t is l = false) (hh : ∀ t is, m.hold t is = (t, none)) (hs : ∀ t is, m.stop t is = (t, []))
    (hf : ∀ l ∈ s.acting g i, m.flt (s.entered g i) (s.iss0 g i) l = none)
    (hb : Over b (m.eff (s.counted g i) (s.iss g i)) s g i) (hp : b.sch.paths = s.sch.paths) (hg : b.sch.igs = s.sch.igs)
    (hl : b.r.lbl = s.r.lbl) (hy : b.clk.cycle = s.clk.cycle) : Does s g i b := by
  rw [runWord_acts h m hc hh hs hf] at he
  have hsame := hb.same
  have key : Acted b (m.eff (s.counted g i) (s.iss g i)) g i := by
    refine ⟨congrArg (·.clk) hsame, congrArg (·.m) hsame, congrArg (·.e) hsame, congrArg (·.gr) hsame, congrArg (·.h) hsame,
      congrArg (·.y) hsame, ?_, fun x k _ => ?_, fun x => ?_, ?_, ?_, congrArg (·.sch.igs) hsame⟩
    · have hr := congrArg (fun z : State => ({ z.r with
        thr := (m.eff (s.counted g i) (s.iss g i)).r.thr, lbl := (m.eff (s.counted g i) (s.iss g i)).r.lbl } : Regs)) hsame
      exact hr
    · unfold State.tileLbl
      rw [show (m.eff (s.counted g i) (s.iss g i)).r.lbl = b.r.lbl from congrArg (·.r.lbl) hsame]
    · rw [hb.threads x]
    · have := congrArg (·.sch) hsame
      exact congrArg (fun z : Sched => { z with igs := [], pend := [] }) this
    · rw [hb.paths, State.entered_paths, State.entered_paths, hp, hy]
      simp only [State.tileLbl, hl]
  have hgb : b.ig? g.id = some g := by
    have := ready_ig h
    unfold State.ig? at this ⊢
    rw [hg]; exact this
  obtain ⟨h1, h2, h3⟩ := key.issued hgb
  refine ⟨_, he, h1, h2.trans (congrArg (·.sch.pend) hsame), fun x => ?_⟩
  rw [← hb.threads x]
  unfold State.thr
  rw [h3]

/-- A word that closes nothing completes. -/
theorem takes_acts {s : State} {g : IssueGroup} {i : Instr} (h : s.ready g i = true) {m : Meaning}
    (he : exec i s = runWord i m s) (hc : ∀ t is l, m.closes t is l = false)
    (hf : ∀ l ∈ s.acting g i, m.flt (s.entered g i) (s.iss0 g i) l = none) {u : State}
    (hh : m.hold (s.entered g i) (s.iss g i) = (u, none)) (ha : u.alive (s.acting g i) = s.acting g i)
    (hs : m.stop u (s.iss g i) = (u, [])) : Takes s g i u fun w => m.eff w (s.iss g i) := by
  have hsh : s.shut g i m = s.entered g i := by
    unfold State.shut
    simp only [hc, List.filter_false, State.close_nil]
  unfold Takes
  rw [he, runWord_passes h m (by rw [hsh]; exact hf), hsh, hh]
  dsimp only
  rw [State.perform_passes _ _ _ _ _ ha hs]

/-- A word that sets CLEAN to 0 completes. -/
theorem takes_closes {s : State} {g : IssueGroup} {i : Instr} (h : s.ready g i = true) {m : Meaning}
    (he : exec i s = runWord i m s) (hc : ∀ t is l, m.closes t is l = true)
    (hf : ∀ l ∈ s.acting g i, m.flt (s.closed g i) (s.iss0 g i) l = none) {u : State}
    (hh : m.hold (s.closed g i) (s.iss g i) = (u, none)) (ha : u.alive (s.acting g i) = s.acting g i)
    (hs : m.stop u (s.iss g i) = (u, [])) : Takes s g i u fun w => m.eff w (s.iss g i) := by
  have hsh : s.shut g i m = s.closed g i := by
    unfold State.shut State.closed
    simp only [hc, List.filter_true]
  unfold Takes
  rw [he, runWord_passes h m (by rw [hsh]; exact hf), hsh, hh]
  dsimp only
  rw [State.perform_passes _ _ _ _ _ ha hs]

end Sys2Proof.Machine
end

