-- ==== Sys2Proof/Certificates/Slice0/Obligations.lean ====
section
/-! DEFINITION. The statements about the machine: what each instruction word, command, message and event does from which
states, what it leaves as it is, and what holds of every step. The terms in which they speak are those of Safety. -/

open Sys2Proof Sys2Proof.Machine

/-- Integer arithmetic and bitwise words (R166, R179, R189, R191, R194, R34, R110). IADD, ISUB, IMUL, IMULH, IMAD, IABS,
IMIN, IMAX, AND, OR, XOR, LOP3, BREV and MOV, in every form: from every state in which the word stands ready the step goes
on, in each acting lane the elements of the result are those of Table 7.3, wrapped or saturated, four cycles later, with
label and token, and nothing else changes but what issue changes. -/
def Obligations.IntegerElements : Prop :=
  (∀ (s : State) (g : IssueGroup),
    (∀ f, s.ready g (.iadd f) = true → Gives s g (.iadd f) 4 (ElementsAre s (.iadd f) fun _ x y _ => x + y)) ∧
    (∀ f, s.ready g (.iaddLong f) = true → Gives s g (.iaddLong f) 4 (ElementsAre s (.iaddLong f) fun _ x y _ => x + y)) ∧
    (∀ f, s.ready g (.isub f) = true → Gives s g (.isub f) 4 (ElementsAre s (.isub f) fun _ x y _ => x - y)) ∧
    (∀ f, s.ready g (.isubLong f) = true → Gives s g (.isubLong f) 4 (ElementsAre s (.isubLong f) fun _ x y _ => x - y)) ∧
    (∀ f, s.ready g (.imul f) = true → Gives s g (.imul f) 4 (ElementsAre s (.imul f) fun _ x y _ => x * y)) ∧
    (∀ f, s.ready g (.imulLong f) = true → Gives s g (.imulLong f) 4 (ElementsAre s (.imulLong f) fun _ x y _ => x * y)) ∧
    (∀ f, s.ready g (.imulh f) = true → Gives s g (.imulh f) 4 (ElementsAre s (.imulh f) fun n x y _ => x * y / 2 ^ n)) ∧
    (∀ f, s.ready g (.imulhLong f) = true → Gives s g (.imulhLong f) 4 (ElementsAre s (.imulhLong f) fun n x y _ => x * y / 2 ^ n)) ∧
    (∀ f, s.ready g (.imad f) = true → Gives s g (.imad f) 4 (ElementsAre s (.imad f) fun _ x y z => x * y + z)) ∧
    (∀ f, s.ready g (.iabs f) = true → Gives s g (.iabs f) 4 (ElementsAre s (.iabs f) fun _ x _ _ => |x|)) ∧
    (∀ f, s.ready g (.iabsLong f) = true → Gives s g (.iabsLong f) 4 (ElementsAre s (.iabsLong f) fun _ x _ _ => |x|)) ∧
    (∀ f, s.ready g (.imin f) = true → Gives s g (.imin f) 4 (ElementsAre s (.imin f) fun _ x y _ => min x y)) ∧
    (∀ f, s.ready g (.iminLong f) = true → Gives s g (.iminLong f) 4 (ElementsAre s (.iminLong f) fun _ x y _ => min x y)) ∧
    (∀ f, s.ready g (.imax f) = true → Gives s g (.imax f) 4 (ElementsAre s (.imax f) fun _ x y _ => max x y)) ∧
    (∀ f, s.ready g (.imaxLong f) = true → Gives s g (.imaxLong f) 4 (ElementsAre s (.imaxLong f) fun _ x y _ => max x y))) ∧
  (∀ (s : State) (g : IssueGroup),
    (∀ i, ((∃ f, i = .andI f) ∨ (∃ f, i = .andLong f)) → s.ready g i = true →
      Gives s g i 4 fun t => BitsAre (intRegs (mdW (fieldsOf i).md)) fun k =>
        (s.operand i t (fieldsOf i).a (intRegs (mdW (fieldsOf i).md))).testBit k &&
          ((s.operand i t (fieldsOf i).b (intRegs (mdW (fieldsOf i).md))).testBit k != (mdOpx (fieldsOf i).md == 1))) ∧
    (∀ i, ((∃ f, i = .orI f) ∨ (∃ f, i = .orLong f)) → s.ready g i = true →
      Gives s g i 4 fun t => BitsAre (intRegs (mdW (fieldsOf i).md)) fun k =>
        (s.operand i t (fieldsOf i).a (intRegs (mdW (fieldsOf i).md))).testBit k ||
          ((s.operand i t (fieldsOf i).b (intRegs (mdW (fieldsOf i).md))).testBit k != (mdOpx (fieldsOf i).md == 1))) ∧
    (∀ i, ((∃ f, i = .xorI f) ∨ (∃ f, i = .xorLong f)) → s.ready g i = true →
      Gives s g i 4 fun t => BitsAre (intRegs (mdW (fieldsOf i).md)) fun k =>
        (s.operand i t (fieldsOf i).a (intRegs (mdW (fieldsOf i).md))).testBit k !=
          ((s.operand i t (fieldsOf i).b (intRegs (mdW (fieldsOf i).md))).testBit k != (mdOpx (fieldsOf i).md == 1))) ∧
    (∀ f, s.ready g (.lop3 f) = true →
      Gives s g (.lop3 f) 4 fun t => BitsAre (intRegs (mdW f.md)) fun k =>
        let bit := fun c => ((s.intVal t f.lit c (intRegs (mdW f.md)) (mdW f.md) true).testBit k).toNat
        f.md.getLsbD (2 + (bit f.a + 2 * bit f.b + 4 * bit f.c))) ∧
    (∀ i, ((∃ f, i = .brev f) ∨ (∃ f, i = .brevLong f)) → s.ready g i = true →
      Gives s g i 4 fun t => BitsAre (intRegs (mdW (fieldsOf i).md)) fun k =>
        (s.operand i t (fieldsOf i).a (intRegs (mdW (fieldsOf i).md))).testBit (32 * intRegs (mdW (fieldsOf i).md) - 1 - k)) ∧
    (∀ i, ((∃ f, i = .mov f) ∨ (∃ f, i = .movLong f)) → s.ready g i = true →
      Gives s g i 4 fun t => NumberIs (intRegs (mdW (fieldsOf i).md))
        (s.operand i t (fieldsOf i).b (intRegs (mdW (fieldsOf i).md)))))

/-- Shifts, rotations, funnel and bit fields (R195, R196). SHL, SHR, SAR, ROT, FUNNEL, BFX, BFI (and POPC and CLZ): each
acting lane gets the value that the rules give for every shift amount, position and length, and the word changes nothing
else. -/
def Obligations.ShiftsAndFields : Prop :=
  (∀ (s : State) (g : IssueGroup),
    (∀ i, ((∃ f, i = .shl f) ∨ (∃ f, i = .shlLong f)) → s.ready g i = true →
      Gives s g i 4 (ShiftIs s i fun n x k => if k < n then x * 2 ^ k % 2 ^ n else 0)) ∧
    (∀ i, ((∃ f, i = .shr f) ∨ (∃ f, i = .shrLong f)) → s.ready g i = true →
      Gives s g i 4 (ShiftIs s i fun n x k => if k < n then x / 2 ^ k else 0)) ∧
    (∀ i, ((∃ f, i = .sar f) ∨ (∃ f, i = .sarLong f)) → s.ready g i = true →
      Gives s g i 4 (ShiftIs s i fun n x k =>
        wrapNat (if k < n then signedOf x n / 2 ^ k else if signedOf x n < 0 then -1 else 0) n)) ∧
    (∀ i, ((∃ f, i = .rot f) ∨ (∃ f, i = .rotLong f)) → s.ready g i = true →
      Gives s g i 4 fun t =>
        let n := 32 * intRegs (mdW (fieldsOf i).md)
        let k := s.operand i t (fieldsOf i).b 1
        BitsAre (intRegs (mdW (fieldsOf i).md)) fun j =>
          (s.operand i t (fieldsOf i).a (intRegs (mdW (fieldsOf i).md))).testBit
            (if mdOpx (fieldsOf i).md = 1 then (j + k) % n else (j + n - k % n) % n)) ∧
    (∀ f, s.ready g (.funnel f) = true →
      Gives s g (.funnel f) 4 fun t =>
        let w := s.operand (.funnel f) t f.b 1 * 2 ^ 32 + s.operand (.funnel f) t f.a 1
        let k := s.operand (.funnel f) t f.c 1 % 32
        NumberIs 1 (if mdOpx f.md = 1 then w * 2 ^ k / 2 ^ 32 % 2 ^ 32 else w / 2 ^ k % 2 ^ 32))) ∧
  (∀ (s : State) (g : IssueGroup),
    (∀ i, ((∃ f, i = .bfx f) ∨ (∃ f, i = .bfxLong f)) → s.ready g i = true →
      Gives s g i 4 fun t =>
        let n := 32 * intRegs (mdW (fieldsOf i).md)
        let y := s.operand i t (fieldsOf i).b 1
        let l := fieldLen n y
        let x := bitsOf (s.operand i t (fieldsOf i).a (intRegs (mdW (fieldsOf i).md))) (y % 256) l
        NumberIs (intRegs (mdW (fieldsOf i).md))
          (if l = 0 then 0 else if mdU (fieldsOf i).md then x else wrapNat (signedOf x l) n)) ∧
    (∀ f, s.ready g (.bfi f) = true →
      Gives s g (.bfi f) 4 fun t =>
        let n := 32 * intRegs (mdW f.md)
        let z := s.operand (.bfi f) t f.c 1
        BitsAre (intRegs (mdW f.md)) fun k =>
          if z % 256 ≤ k ∧ k < z % 256 + fieldLen n z then (s.operand (.bfi f) t f.b (intRegs (mdW f.md))).testBit (k - z % 256)
          else (s.operand (.bfi f) t f.a (intRegs (mdW f.md))).testBit k) ∧
    (∀ i, ((∃ f, i = .popc f) ∨ (∃ f, i = .popcLong f)) → s.ready g i = true →
      Gives s g i 4 fun t =>
        let n := 32 * intRegs (mdW (fieldsOf i).md)
        NumberIs 1 ((List.range n).countP fun k => (s.operand i t (fieldsOf i).a (intRegs (mdW (fieldsOf i).md))).testBit k)) ∧
    (∀ i, ((∃ f, i = .clz f) ∨ (∃ f, i = .clzLong f)) → s.ready g i = true →
      Gives s g i 4 fun t o =>
        let n := 32 * intRegs (mdW (fieldsOf i).md)
        let x := s.operand i t (fieldsOf i).a (intRegs (mdW (fieldsOf i).md))
        o.plain 1 ∧ (x = 0 → wordsNat o.ws = n) ∧
          (x ≠ 0 → wordsNat o.ws < n ∧ 2 ^ (n - 1 - wordsNat o.ws) ≤ x ∧ x < 2 ^ (n - wordsNat o.ws))))

/-- Compares, selection, LEA, IMADW and immediates (R192, R197, R198). ICMP in both kinds of destination and its two
encoding faults, ISEL, PSET, PLOP, IMADW, LEA, LIL and LIH give the values of their rules, and nothing else changes. -/
def Obligations.CompareSelectImmediate : Prop :=
  (∀ (s : State) (g : IssueGroup),
    (∀ i, ((∃ f, i = .icmp f) ∨ (∃ f, i = .icmpLong f)) →
      (s.ready g i = true → Gives s g i 4 (CompareIs s i)) ∧
      (6 ≤ mdOpx (fieldsOf i).md → i.check ≠ none) ∧
      ((∃ k, Opnd.ofCode (fieldsOf i).dst = .pred k) → 2 ≤ mdW (fieldsOf i).md → i.check = some .illegalOperand)) ∧
    (∀ f, s.ready g (.isel f) = true →
      Gives s g (.isel f) 4 fun t => NumberIs (intRegs (mdW f.md))
        (if s.rdPred t f.c then s.operand (.isel f) t f.a (intRegs (mdW f.md)) else s.operand (.isel f) t f.b (intRegs (mdW f.md)))) ∧
    (∀ i, ((∃ f, i = .pset f) ∨ (∃ f, i = .psetLong f)) → s.ready g i = true →
      Gives s g i 4 fun t => NumberIs 1
        (if ((s.operand i t (fieldsOf i).a (intRegs (mdW (fieldsOf i).md)) &&&
            s.operand i t (fieldsOf i).b (intRegs (mdW (fieldsOf i).md))) != 0) != (mdOpx (fieldsOf i).md == 1) then 1 else 0)) ∧
    (∀ f, s.ready g (.plop f) = true →
      Gives s g (.plop f) 4 fun t => NumberIs 1
        (f.md.getLsbD (2 + (4 * (s.rdPred t f.a).toNat + 2 * (s.rdPred t f.b).toNat + (s.rdPred t f.c).toNat))).toNat)) ∧
  (∀ (s : State) (g : IssueGroup),
    (∀ f, s.ready g (.imadw f) = true →
      Gives s g (.imadw f) 4 fun t => NumberIs 2
        (wrapNat (elemAt 0 (mdU f.md) (s.operand (.imadw f) t f.a 1) 0 * elemAt 0 (mdU f.md) (s.operand (.imadw f) t f.b 1) 0 +
          (s.operand (.imadw f) t f.c 2 : Int)) 64)) ∧
    (∀ i, ((∃ f, i = .lea f) ∨ (∃ f, i = .leaLong f)) → s.ready g i = true →
      Gives s g i 4 fun t => NumberIs 2
        (wrapNat ((s.operand i t (fieldsOf i).a 2 : Int) +
          (if mdU (fieldsOf i).md then (s.operand i t (fieldsOf i).b 1 : Int) else signedOf (s.operand i t (fieldsOf i).b 1) 32) *
            2 ^ mdOpx (fieldsOf i).md) 64)) ∧
    (∀ f, s.ready g (.lil f) = true → Gives s g (.lil f) 4 fun _ => NumberIs 1 f.imm.toNat) ∧
    (∀ f, s.ready g (.lih f) = true →
      Gives s g (.lih f) 4 fun t => NumberIs 1 (f.imm.toNat * 2 ^ 16 + s.rd32 t f.lit f.a % 2 ^ 16)))

/-- Floating-point arithmetic, comparison, classes and rounding to integer (R145, R147, R148, R219, R220, R221, R222, R223,
R224, R225, R226, R227). FADD, FSUB, FMUL, FFMA, FSCALE, FMIN, FMAX, FCMP, FCLASS and FRND: each element is the exact result
rounded once under the mode, with flags, flush to zero and draws in ascending order of elements; nothing else changes. -/
def Obligations.FloatWords : Prop :=
  (∀ (s : State) (g : IssueGroup),
    (∀ i, ((∃ f, i = .fadd f) ∨ (∃ f, i = .faddLong f)) → s.ready g i = true →
      Gives s g i 4 (RoundedIs s i fun x y _ => FV.add (mdRm (fieldsOf i).md == 3) x y)) ∧
    (∀ i, ((∃ f, i = .fsub f) ∨ (∃ f, i = .fsubLong f)) → s.ready g i = true →
      Gives s g i 4 (RoundedIs s i fun x y _ => FV.add (mdRm (fieldsOf i).md == 3) x y.neg)) ∧
    (∀ i, ((∃ f, i = .fmul f) ∨ (∃ f, i = .fmulLong f)) → s.ready g i = true →
      Gives s g i 4 (RoundedIs s i fun x y _ => FV.mul x y)) ∧
    (∀ f, s.ready g (.ffma f) = true →
      Gives s g (.ffma f) 4 (RoundedIs s (.ffma f) fun x y z =>
        let p := FV.mul x y
        let q := FV.add (mdRm f.md == 3) (if f.md.getLsbD 7 then p.1.neg else p.1) (if f.md.getLsbD 8 then z.neg else z)
        (q.1, p.2 || q.2))) ∧
    (∀ i, ((∃ f, i = .fscale f) ∨ (∃ f, i = .fscaleLong f)) → s.ready g i = true →
      Gives s g i 4 fun t o =>
        let f := fieldsOf i
        let n := fun e => match Opnd.ofCode f.b with
          | .const k => signedOf (constBits k (if mdType f.md < 2 then 32 else 16)) (if mdType f.md < 2 then 32 else 16)
          | .lit => if mdType f.md < 2 then f.lit.toInt else signedOf (bitsOf f.lit.toNat (16 * (e % 2)) 16) 16
          | _ => if mdType f.md < 2 then signedOf (s.rd32 t f.lit f.b) 32
            else signedOf (bitsOf (s.intVal t f.lit f.b (if mdX4 f.md then 2 else 1) 0 true) (16 * e) 16) 16
        let x := fun e => s.fpOperand i t f.a e
        let out := fun e => roundDraw (typeFmt f.md) (mdRm f.md) (mdFtz f.md) ((x e).1.scale (n e)) (drawn (mdRm f.md) (s.thr t).seed e)
        CodesAre i (fun e => (out e).1) (fun e => (x e).2 ||| (out e).2.1) o ∧
          o.seed = if mdRm f.md = 5 then some (drawn 5 (s.thr t).seed (typeCount f.md)) else none)) ∧
  (∀ (s : State) (g : IssueGroup),
    (∀ i, ((∃ f, i = .fmin f) ∨ (∃ f, i = .fminLong f)) → s.ready g i = true →
      Gives s g i 4 fun t o =>
        let x := fun e => s.fpOperand i t (fieldsOf i).a e
        let y := fun e => s.fpOperand i t (fieldsOf i).b e
        CodesAre i (fun e => (roundTo (typeFmt (fieldsOf i).md) 0 (pickFp false (mdFopx (fieldsOf i).md == 1) (x e).1 (y e).1) 0).1)
          (fun e => (x e).2 ||| (y e).2) o ∧ o.seed = none) ∧
    (∀ i, ((∃ f, i = .fmax f) ∨ (∃ f, i = .fmaxLong f)) → s.ready g i = true →
      Gives s g i 4 fun t o =>
        let x := fun e => s.fpOperand i t (fieldsOf i).a e
        let y := fun e => s.fpOperand i t (fieldsOf i).b e
        CodesAre i (fun e => (roundTo (typeFmt (fieldsOf i).md) 0 (pickFp true (mdFopx (fieldsOf i).md == 1) (x e).1 (y e).1) 0).1)
          (fun e => (x e).2 ||| (y e).2) o ∧ o.seed = none) ∧
    (∀ i, ((∃ f, i = .fcmp f) ∨ (∃ f, i = .fcmpLong f)) → s.ready g i = true →
      Gives s g i 4 fun t o =>
        let m := (fieldsOf i).md
        let x := fun e => s.fpOperand i t (fieldsOf i).a e
        let y := fun e => s.fpOperand i t (fieldsOf i).b e
        let holds := fun e => fcmpHolds (mdFopx m) (x e).1 (y e).1
        o.seed = none ∧
        ((∃ k, Opnd.ofCode (fieldsOf i).dst = .pred k) →
          o.ws = [if holds 0 then 1 else 0] ∧ o.fl = orFlags (typeCount m) fun e => (x e).2 ||| (y e).2) ∧
        ((∀ k, Opnd.ofCode (fieldsOf i).dst ≠ .pred k) →
          CodesAre i (fun e => if holds e then 2 ^ fmtBits (typeFmt m) - 1 else 0) (fun e => (x e).2 ||| (y e).2) o)) ∧
    (∀ i, ((∃ f, i = .fclass f) ∨ (∃ f, i = .fclassLong f)) → s.ready g i = true →
      Gives s g i 4 fun t o =>
        let m := (fieldsOf i).md
        let cls := fun e => classMask (typeFmt m) (s.fpOperand i t (fieldsOf i).a e).1
        o.plain 1 ∧
        ((∃ k, Opnd.ofCode (fieldsOf i).dst = .pred k) →
          o.ws = [if cls 0 &&& (s.rd32 t (fieldsOf i).lit (fieldsOf i).b % 512) ≠ 0 then 1 else 0]) ∧
        ((∀ k, Opnd.ofCode (fieldsOf i).dst ≠ .pred k) → ∀ e, e < min 2 (typeCount m) → bitsOf (wordsNat o.ws) (16 * e) 16 = cls e)) ∧
    (∀ i, ((∃ f, i = .frnd f) ∨ (∃ f, i = .frndLong f)) → s.ready g i = true →
      Gives s g i 4 fun t o =>
        let x := fun e => s.fpOperand i t (fieldsOf i).a e
        let r := fun e => (x e).1.integral (mdRm (fieldsOf i).md)
        CodesAre i (fun e => (roundTo (typeFmt (fieldsOf i).md) 0 (r e).1 0).1) (fun e => (x e).2 ||| (if (r e).2 then fNX else 0)) o ∧
          o.seed = none))

/-- Dot products, packing, conversion and special functions (R142, R144, R150, R151, R228, R229, R230, R231, R232, R236).
FDOT2, FDOT4, PACK, UNPK, CVT (with the free value where the scale exponent is the reserved one, a DESIGN CHOICE of
assumptions 2 and 12) and the nine class 2 words give the values of their rules with latency and flags. -/
def Obligations.DotPackConvertSpecial : Prop :=
  (∀ (s : State) (g : IssueGroup),
    (∀ f, s.ready g (.fdot2 f) = true →
      Gives s g (.fdot2 f) 4 fun t o =>
        let fmt := if mdType f.md = 2 then fmtF16 else fmtBF16
        let el := fun c e => decode5 fmt (bitsOf (s.fpRaw t f.lit c 1 fmt 2) (16 * e) 16)
        let z := readElem fmtF32 (mdFtz f.md) (s.fpRaw t f.lit f.c 1 fmtF32 1)
        let ps := (List.range 2).map fun e => FV.mul (el f.a e) (el f.b e)
        let r := roundDraw fmtF32 (mdRm f.md) (mdFtz f.md) (sumFV (mdRm f.md == 3) (z.1 :: ps.map (·.1))) 0
        o.ws = [BitVec.ofNat 32 r.1] ∧ o.seed = none ∧
          o.fl = z.2 ||| r.2.1 ||| (if ps.any (·.2) || infClash (z.1 :: ps.map (·.1)) then fNV else 0)) ∧
    (∀ f, s.ready g (.fdot4 f) = true →
      Gives s g (.fdot4 f) 4 fun t o =>
        let fmt := fun k => if k = 0 then fmtE4M3 else if k = 1 then fmtE5M2 else fmtK8
        let el := fun c fm e => decode5 fm (bitsOf (s.fpRaw t f.lit c 1 fm 4) (8 * e) 8)
        let z := readElem fmtF32 (mdFtz f.md) (s.fpRaw t f.lit f.c 1 fmtF32 1)
        let ps := (List.range 4).map fun e => FV.mul (el f.a (fmt (mdType f.md)) e) (el f.b (fmt (mdFopx f.md)) e)
        let r := roundDraw fmtF32 (mdRm f.md) (mdFtz f.md) (sumFV (mdRm f.md == 3) (z.1 :: ps.map (·.1))) 0
        o.ws = [BitVec.ofNat 32 r.1] ∧ o.seed = none ∧
          o.fl = z.2 ||| r.2.1 ||| (if ps.any (·.2) || infClash (z.1 :: ps.map (·.1)) then fNV else 0)) ∧
    (∀ i, ((∃ f, i = .pack f) ∨ (∃ f, i = .packLong f)) → s.ready g i = true →
      Gives s g i 4 fun t =>
        let w := if mdType (fieldsOf i).md = 0 then 16 else if mdType (fieldsOf i).md = 1 then 8 else 4
        NumberIs 1 (s.rd32 t (fieldsOf i).lit (fieldsOf i).a % 2 ^ w + s.rd32 t (fieldsOf i).lit (fieldsOf i).b % 2 ^ w * 2 ^ w)) ∧
    (∀ i, ((∃ f, i = .unpk f) ∨ (∃ f, i = .unpkLong f)) → s.ready g i = true →
      Gives s g i 4 fun t =>
        let w := if mdType (fieldsOf i).md = 0 then 16 else if mdType (fieldsOf i).md = 1 then 8 else 4
        let x := bitsOf (s.rd32 t (fieldsOf i).lit (fieldsOf i).a) (w * (s.rd32 t (fieldsOf i).lit (fieldsOf i).b % (32 / w))) w
        NumberIs 1 (if (fieldsOf i).md.getLsbD 2 then wrapNat (signedOf x w) 32 else x)) ∧
    (∀ f, s.ready g (.cvt f) = true → cvtOpen f.fm = true →
      ∃ (t : State) (p : Pend), exec (.cvt f) s = .next t ∧ t.clk = { s.clk with cur := none, free := s.clk.free + 1 } ∧
        t.sch.pend = s.sch.pend ++ [p] ∧ p.due = s.clk.cycle + 4 ∧ t.m = s.m ∧ t.sch.teams = s.sch.teams) ∧
    (∀ f, s.ready g (.cvt f) = true → cvtOpen f.fm = false →
      Gives s g (.cvt f) 4 fun t o =>
        let sf := cvtSfmt f.fm
        let df := cvtDfmt f.fm
        let w := if sf = 14 ∨ sf = 15 then 2 else 1
        let src := (match Opnd.ofCode f.a with
          | .const k => if (fmtInt sf).isSome then constBits k (32 * w) else (constFmt sf k).getD 0
          | _ => s.intVal t f.lit f.a w 0 false) % 2 ^ fmtBits sf
        let c := s.rd32 t f.lit f.b % 256
        let x := if cvtScl f.fm = 0 then decode5 sf src else if c = 255 then FV.nan
          else (decode5 sf src).scale (if cvtScl f.fm = 1 then (c : Int) - 127 else 127 - c)
        let y := x.ftz (cvtFtz f.fm)
        let r := roundDraw df (cvtRm f.fm) (cvtFtz f.fm) y.1 (s.thr t).seed
        let regs := if df = 14 ∨ df = 15 then 2 else 1
        o.ws.length = regs ∧ wordsNat o.ws = r.1 % 2 ^ (32 * regs) ∧ o.fl = rsv4 sf src ||| y.2 ||| r.2.1 ∧
          o.seed = if cvtRm f.fm = 5 then some r.2.2 else none)) ∧
  (∀ (s : State) (g : IssueGroup),
    ∀ i, ((∃ f, i = .frcp f) ∨ (∃ f, i = .frsq f) ∨ (∃ f, i = .fsqrt f) ∨ (∃ f, i = .fexp2 f) ∨ (∃ f, i = .flog2 f) ∨
        (∃ f, i = .fsin f) ∨ (∃ f, i = .fcos f) ∨ (∃ f, i = .ftanh f) ∨ (∃ f, i = .fsigm f)) → s.ready g i = true →
      Gives s g i ((if opNo i = 5 ∨ opNo i = 6 then 28 else 20) + if mdType (fieldsOf i).md = 1 then 4 else 0) fun t o =>
        let x := fun e => s.fpOperand i t (fieldsOf i).a e
        let v := fun e => sfuVal (opNo i) (x e).1
        let r := fun e => roundDraw fmtF32 0 (mdFtz (fieldsOf i).md) (v e).1 0
        CodesAre i (fun e => (r e).1) (fun e => (x e).2 ||| (v e).2 ||| (r e).2.1) o ∧ o.seed = none)

/-- Exact arithmetic and rounding of representable values (R134, R142, R143, R221). The operations on decoded values are
those of the rational numbers, and rounding a value that a code represents gives that code back with no flag, in every mode
and every standard format. -/
def Obligations.ExactArithmetic : Prop :=
  (∀ (rd : Bool) (x y : FV), x.rat.isSome → y.rat.isSome →
    ((FV.add rd x y).1.rat = do let a ← x.rat; let b ← y.rat; some (a + b)) ∧
    ((FV.mul x y).1.rat = do let a ← x.rat; let b ← y.rat; some (a * b)) ∧
    (∀ n : Int, (x.scale n).rat = x.rat.map (· * (2 : ℚ) ^ n)) ∧
    (FV.add rd x y).2 = false ∧ (FV.mul x y).2 = false ∧
    (FV.eqv x y = true ↔ x.rat = y.rat) ∧
    (x.isZero = false ∨ y.isZero = false → (FV.lt x y = true ↔ ∃ a b, x.rat = some a ∧ y.rat = some b ∧ a < b))) ∧
  (∀ (fmt rm code : Nat) (seed : Word) (neg : Bool) (m : Nat) (e : Int),
    fmt ∈ [fmtF32, fmtBF16, fmtF16, fmtE4M3, fmtE5M2] → rm ≤ 5 → code < 2 ^ fmtBits fmt → decode5 fmt code = .fin neg m e →
      roundTo fmt rm (decode5 fmt code) seed = (code, 0))

/-- NOP, REGION and REGEND (R207, R213). NOP changes nothing but what issue changes; REGION sets OPEN in the acting threads
whose team has CLEAN 1 only; REGEND clears it; nothing else changes. -/
def Obligations.NopAndRegions : Prop := ∀ (s : State) (g : IssueGroup),
  (∀ i, ((∃ f, i = .nop f) ∨ (∃ f, i = .nopLong f)) → s.ready g i = true → Does s g i s) ∧
  (∀ i, ((∃ f, i = .region f) ∨ (∃ f, i = .regionLong f)) → s.ready g i = true →
    ∃ b, Does s g i b ∧ b = { s with r.thr := b.r.thr } ∧ ∀ x, b.thr x =
      if x ∈ (s.acting g i).map (·.t) ∧ (s.team? x.tid).any (·.clean) = true then { s.thr x with idemOpen := true } else s.thr x) ∧
  (∀ i, ((∃ f, i = .regend f) ∨ (∃ f, i = .regendLong f)) → s.ready g i = true →
    ∃ b, Does s g i b ∧ b = { s with r.thr := b.r.thr } ∧ ∀ x, b.thr x =
      if x ∈ (s.acting g i).map (·.t) then { s.thr x with idemOpen := false } else s.thr x)

/-- RDSR and WRSR (R215, R216, R35, R41, R182). RDSR gives each acting lane the value and the label of the register it
names, in one or two registers; WRSR writes LPART, TEAMCTL, CKMODE, FSTAT, SEED or LINK and nothing else. -/
def Obligations.SystemRegisters : Prop :=
  (∀ (s : State) (g : IssueGroup) (i : Instr),
    ((∃ f, i = .rdsr f) ∨ (∃ f, i = .rdsrLong f)) → s.ready g i = true →
    let f := fieldsOf i
    let n := fun (l : Lane) => s.rd32 l.t f.lit f.b
    (∀ l ∈ s.acting g i, srExists (n l) = true ∧
      (wideSr (n l) = true → evenDst f.dst = true ∧ beyondRegs f.dst 2 (s.regs l.g) = false)) →
    ∃ p : Pend, Does s g i { s with sch.pend := s.sch.pend ++ [p] } ∧ p.due = s.clk.cycle + 4 ∧ p.flags = [] ∧ p.links = [] ∧
      p.toks = tokPairs f.tok (s.acting g i) ∧
      let res := fun (l : Lane) => (⟨l, wordsOf (s.srVal l.t (n l)) 2, s.opLbl l.g f.b 1 ||| l.ctx ||| s.srLbl l.t (n l)⟩ : LaneRes)
      let high := ((s.acting g i).filter fun l => wideSr (n l)).map fun l => { res l with ws := (res l).ws.drop 1 }
      p.writes = resWrites (dstTiles f.dst 1) ((s.acting g i).map res) ++ resWrites ((dstTiles f.dst 2).drop 1) high ∧
      p.lbls = (s.counted g i).resLbls (dstTiles f.dst 1) ((s.acting g i).map res) ++
        (s.counted g i).resLbls ((dstTiles f.dst 2).drop 1) high) ∧
  (∀ (s : State) (g : IssueGroup) (i : Instr),
    ((∃ f, i = .wrsr f) ∨ (∃ f, i = .wrsrLong f)) → s.ready g i = true →
    let f := fieldsOf i
    let n := fun (l : Lane) => s.rd32 l.t f.lit f.b
    let x := fun (l : Lane) => s.rd32 l.t f.lit f.a
    let lbl := fun (l : Lane) => s.opLbl l.g f.a 1 ||| l.ctx
    let first := fun k tid => minBy? Lane.q ((s.acting g i).filter fun l => n l = k ∧ l.t.tid = tid)
    (∀ l ∈ s.acting g i, srWritable (n l) = true ∧ (n l = 0x12 → x l % 8 ≠ 0 ∧ x l % 8 ≤ 5)) →
    ∃ (b : State) (p : Pend), Does s g i b ∧ b = { s with sch.teams := b.sch.teams, sch.pend := s.sch.pend ++ [p] } ∧
      (∀ tid, b.team? tid = (s.team? tid).map fun t =>
        let t := match first 0x13 tid with
          | some l => { t with
              progress := decide (x l % 2 = 1), fairx := bitsOf (x l) 1 3, teamctlLbl := lbl l
              progressWas := some (s.clk.cycle, t.progressAt s.clk.cycle)
              promoteAt := if x l % 2 = 1 then some (s.clk.cycle + 1) else none }
          | none => t
        match first 0x14 tid with
        | some l => { t with check := decide (x l % 2 = 1), ckmodeLbl := lbl l }
        | none => t) ∧
      p.due = s.clk.cycle + 4 ∧ p.flags = [] ∧ p.toks = tokPairs f.tok (s.acting g i) ∧
      (∀ w, w ∈ p.writes ↔ ∃ l ∈ s.acting g i, ∃ k, (n l, k) ∈ [(0x12, Tile.lpart), (0x15, .fstat), (0x16, .seed), (0x19, .link)] ∧
        w = ⟨l.t, k, BitVec.ofNat 32 (x l)⟩) ∧
      (∀ y, y ∈ p.links ↔ ∃ l ∈ s.acting g i, n l = 0x19 ∧ y = (l.t, lbl l)) ∧
      ∀ w ∈ p.lbls, w.tile ∈ [Tile.lpart, .fstat, .seed])

/-- Branches, calls, returns, role jumps and traps (R30, R31, R178, R201, R202, R204, R205). Where every target is a clause
header of the code image, BRA, BRX, CALL, CALLX, RET and JROLE go to the target of their rule, and TRAP to the handler of
its stage with TRAPNO and LINK written; of the rest of the machine only paths, issue groups and issue counts change. -/
def Obligations.BranchesAndTraps : Prop :=
  (∀ (s : State) (g : IssueGroup) (i : Instr), s.ready g i = true →
    ∀ (cond : Bool) (tgt : Lane → Nat) (lbl : Lane → Label) (thr : Lane → Thread → Thread) (ls : List Lane),
    let link := fun (l : Lane) (h : Thread) => { h with link := BitVec.ofNat 32 (g.pc + 4), linkLbl := l.ctx }
    let reg := fun (l : Lane) => s.rd32 l.t 0 (fieldsOf i).a
    let regLbl := fun (l : Lane) => s.opLbl l.g (fieldsOf i).a 1
    ((∃ f, i = .bra f ∧ cond = true ∧ tgt = (fun _ => offTarget g.pc f.off) ∧ lbl = (fun _ => 0) ∧ ls = []) ∨
     (∃ f, i = .call f ∧ cond = true ∧ tgt = (fun _ => offTarget g.pc f.off) ∧ lbl = (fun _ => 0) ∧ thr = link ∧ ls = s.acting g i) ∨
     (∃ f, i = .brx f ∧ cond = false ∧ tgt = reg ∧ lbl = regLbl ∧ ls = []) ∨
     (∃ f, i = .callx f ∧ cond = false ∧ tgt = reg ∧ lbl = regLbl ∧ thr = link ∧ ls = s.acting g i) ∨
     (∃ f, i = .ret f ∧ cond = false ∧ tgt = (fun l => (s.thr l.t).link.toNat) ∧ lbl = (fun l => (s.thr l.t).linkLbl) ∧
       (thr = fun _ => Thread.popInline) ∧ ls = s.acting g i) ∨
     (∃ f, i = .jrole f ∧ cond = true ∧ lbl = (fun _ => 0) ∧ ls = [] ∧ tgt = fun l =>
       match s.stage? g.part g.ctx g.stage, s.group? l.g with
       | some st, some x => if st.jrole.getD x.roleid 0xFFFFFFFF = 0xFFFFFFFF then
           (((g.pc : Int) + 4 * f.imm.toInt) % 2 ^ 32).toNat else st.jrole.getD x.roleid 0xFFFFFFFF
       | _, _ => (((g.pc : Int) + 4 * f.imm.toInt) % 2 ^ 32).toNat)) →
    (∀ l ∈ s.acting g i, ∃ w, s.codeWord g.part g.ctx (tgt l) = some w ∧ hMark w = 0x3F) →
    ∃ t, exec i s = .next t ∧
      t = (State.tokDown (((ls.foldl (fun u l => u.setThr l.t (thr l)) (s.counted g i)).branchFrom (s.iss g i) cond
        (g.pc + 4 * (fieldsOf i).len) tgt lbl)) (fieldsOf i).tok ((s.acting g i).map (·.t))).advance g (fieldsOf i).len (fieldsOf i).stall ∧
      PathsOnly (ls.foldl (fun u l => u.setThr l.t (thr l)) s) t ∧
      (s.named → ((∀ l ∈ (s.entered g i).members g.id, Stands t l.t
          (if l.t ∈ (s.acting g i).map (·.t) then tgt l else g.pc + 4 * (fieldsOf i).len)) ∧
        (∀ p ∈ s.sch.paths, p.state ≠ .inClause g.id → p ∈ t.sch.paths) ∧ t.ig? g.id = none ∧ ∀ k, k ≠ g.id → t.ig? k = s.ig? k))) ∧
  (∀ (s : State) (g : IssueGroup) (i : Instr) (st : Stage),
    ((∃ f, i = .trap f) ∨ (∃ f, i = .trapLong f)) → s.ready g i = true → s.stage? g.part g.ctx g.stage = some st →
    st.traph ≠ 0xFFFFFFFF → (∀ l ∈ s.acting g i, s.rd32 l.t (fieldsOf i).lit (fieldsOf i).b < 16) →
    let thr := fun (l : Lane) (h : Thread) => { h with
      trapno := s.rd32 l.t (fieldsOf i).lit (fieldsOf i).b
      trapLbl := s.opLbl l.g (fieldsOf i).b 1 ||| l.ctx
      link := BitVec.ofNat 32 (g.pc + 4 * (fieldsOf i).len)
      linkLbl := l.ctx }
    ∃ t, exec i s = .next t ∧
      t = (State.tokDown ((((s.acting g i).foldl (fun u l => u.setThr l.t (thr l)) (s.counted g i)).branchFrom (s.iss g i) true
        (g.pc + 4 * (fieldsOf i).len) (fun _ => st.traph) fun _ => 0)) (fieldsOf i).tok ((s.acting g i).map (·.t))).advance g
        (fieldsOf i).len (fieldsOf i).stall ∧
      PathsOnly ((s.acting g i).foldl (fun u l => u.setThr l.t (thr l)) s) t ∧
      (s.named → ((∀ l ∈ (s.entered g i).members g.id, Stands t l.t
          (if l.t ∈ (s.acting g i).map (·.t) then st.traph else g.pc + 4 * (fieldsOf i).len)) ∧
        (∀ p ∈ s.sch.paths, p.state ≠ .inClause g.id → p ∈ t.sch.paths) ∧ t.ig? g.id = none ∧ ∀ k, k ≠ g.id → t.ig? k = s.ig? k)))

/-- EXIT and YIELD (R19, R44, R203, R206). EXIT ends exactly the acting threads and takes them out of their paths; YIELD
moves each path with an acting lane back, and changes no register or memory. -/
def Obligations.ExitAndYield : Prop := ∀ (s : State) (g : IssueGroup) (i : Instr), s.ready g i = true →
  let ls := s.acting g i
  let off := fun (p : Path) => maskOf ((ls.filter fun l => l.pid = p.id).map fun l => l.t.lane)
  (∀ f, i = .exit f →
    Takes s g i (s.entered g i) (fun u => (u.exitThreads ls).settleTeams ls) ∧
    (∀ (u : State) x, ((u.exitThreads ls).thr x).live = ((u.thr x).live && !decide (x ∈ ls.map (·.t)))) ∧
    (∀ (u : State), ∀ p ∈ (u.exitThreads ls).sch.paths, p.mask ≠ 0 ∧
      ∀ l ∈ ls, l.pid = p.id → p.mask.getLsbD l.t.lane = false) ∧
    ((∀ p ∈ s.sch.paths, ({ p with gateId := none } : Path).waiting = false) → ∃ t, exec i s = .next t ∧
      (∀ x, (t.thr x).bare = if x ∈ ls.map (·.t) then { (s.thr x).bare with live := false } else (s.thr x).bare) ∧
      t.sch.paths = (s.sch.paths.filter fun p => p.mask &&& ~~~(off p) ≠ 0).map (fun p =>
        { p.behind s g i with mask := p.mask &&& ~~~(off p) }) ∧
      t.r = { s.r with thr := t.r.thr } ∧ t.m = s.m ∧ t.e = s.e ∧ t.gr = s.gr ∧ t.h = s.h ∧ t.y = s.y ∧
      t.clk = { s.clk with cur := none } ∧ (∀ k, k ≠ g.id → t.ig? k = s.ig? k) ∧
      { t.sch with paths := [], igs := [], busy := [] } = { s.sch with paths := [], igs := [], busy := [] })) ∧
  (((∃ f, i = .yield f) ∨ (∃ f, i = .yieldLong f)) →
    ∃ t, exec i s = .next t ∧ PathsOnly s t ∧
      t = (State.tokDown ((dedup (ls.map (·.pid))).foldl (fun u pid => u.moveBack pid) (s.counted g i))
        (fieldsOf i).tok (ls.map (·.t))).advance g (fieldsOf i).len (fieldsOf i).stall ∧
      (s.named → t.sch.paths.Perm (s.sch.paths.map fun p => p.behind s g i)) ∧
      ∀ p ∈ s.sch.paths, s.named → ls ≠ [] → (∀ l ∈ ls, l.pid = p.id) →
        t.sch.paths = (if ∃ q ∈ s.sch.paths, q.g = p.g ∧ q.quad = p.quad ∧ q.id ≠ p.id ∧ q.state = .runnable then
          (s.sch.paths.filter fun q => q.id ≠ p.id) ++ [p] else s.sch.paths).map fun q => q.behind s g i)

/-- How a path splits (R23, R30, R31). The arms of a split have distinct targets, hold every lane once, and stand in the
order of the rule; the new paths take the place of the old one with its scope pushed. -/
def Obligations.PathsSplit : Prop :=
  (∀ (cond : Bool) (fall : Nat) (ls : List (Nat × Nat)), ls.length ≤ 64 →
    let arms := orderArms cond fall (armsOf ls)
    (arms.map (·.1)).Nodup ∧
    (∀ pc k, (pc, k) ∈ ls ↔ ∃ a ∈ arms, a.1 = pc ∧ k ∈ a.2) ∧
    arms.Pairwise fun a b => b.2.length ≤ a.2.length ∧ (a.2.length = b.2.length →
      (cond = true → b.1 = fall → a.1 = fall) ∧ (cond = false → a.1 < b.1))) ∧
  (∀ (s : State) (g : IssueGroup) (p : Path) (lbl : Label) (arms : List (Nat × List Nat)),
    (∀ q ∈ s.sch.paths, q.id = p.id → q = p) → 2 ≤ arms.length →
    let t := s.splitTo g p lbl arms
    let scopes := if p.mask = s.topSet p then p.scopes else ⟨p.mask, lbl⟩ :: p.scopes
    (∃ new : List Path, t.sch.paths = s.sch.paths.flatMap (fun q => if q = p then new else [q]) ∧
      new.map (fun q => (q.pc, q.mask)) = arms.map (fun a => (a.1, maskOf a.2)) ∧
      (∀ q ∈ new, q.scopes = scopes ∧ q.state = .runnable ∧ q.ctxLbl = p.ctxLbl ∧ q.since = p.since ∧ q.promoted = p.promoted ∧
        q.g = p.g ∧ q.quad = p.quad ∧ q.core = p.core ∧ (q.id = p.id ∨ (s.clk.fresh < q.id ∧ q.id < t.clk.fresh))) ∧
      (p.id ≤ s.clk.fresh → (new.map (·.id)).Nodup)) ∧
    PathsOnly s t)

/-- Arrivals at scopes, barriers and sets (R32, R171, R208, R209, R234, R257, R310). At RECONV, BAR, BARP, the collectives,
TBAR, QBLK, GIVE and CLAIM exactly the threads of the group arrive and wait; where the one path of a team completes the set
by its arrival, its threads open as one issue group of exactly the set, standing at that instruction. -/
def Obligations.Arrivals : Prop :=
  (∀ (s : State) (g : IssueGroup) (i : Instr), s.ready g i = true →
    (((∃ f, i = .reconv f) ∨ (∃ f, i = .reconvLong f)) →
      Takes s g i (s.entered g i) fun u => (u.arrive g (s.acting g i) .waitReconv 0).settleTeams (s.acting g i)) ∧
    (g.setAt = none →
      let f := fieldsOf i
      let ls := s.alive (s.members g.id)
      let is : Iss := ⟨g, i.cls, opNo i, f, ls, []⟩
      let idle : State := { s with clk.cur := none }
      (((∃ f, i = .bar f) ∨ (∃ f, i = .barLong f)) → (∀ l ∈ s.members g.id, s.rd32 l.t f.lit f.a < 16) →
        exec i s = .next (((idle.arriveBars is).sweepIg g.id).settleTeams ls)) ∧
      (((∃ f, i = .barp f) ∨ (∃ f, i = .barpLong f)) →
        (∀ l ∈ s.members g.id, s.rd32 l.t f.lit f.a < 16 ∧ s.rd32 l.t f.lit f.b ≠ 0 ∧ s.rd32 l.t f.lit f.b ≤ 4096) →
        exec i s = .next (((idle.arriveBars is).sweepIg g.id).settleTeams ls)) ∧
      (((∃ f, i = .vote f) ∨ (∃ f, i = .shfl f) ∨ (∃ f, i = .redt f) ∨ (∃ f, i = .scant f) ∨ (∃ f, i = .matchI f) ∨
          (∃ f, i = .elect f) ∨ (∃ f, i = .actmask f) ∨ (∃ f, i = .tbar f) ∨ (∃ f, i = .tbarLong f)) →
        (∀ l ∈ s.members g.id, (s.namedSet f l).getLsbD l.t.lane = true) →
        exec i s = .next (((idle.arriveSets is fun l => s.namedSet f l).sweepIg g.id).settleTeams ls)) ∧
      ((∃ f, i = .qblk f) →
        exec i s = .next (((idle.arriveSets is fun l => tileMask l.t.lane 16).sweepIg g.id).settleTeams ls)) ∧
      (((∃ f, i = .give f) ∨ (∃ f, i = .giveLong f) ∨ (∃ f, i = .claim f) ∨ (∃ f, i = .claimLong f)) →
        exec i s = .next (((idle.arrive g ls .waitGroup 0).sweepIg g.id).settleTeams ls)))) ∧
  (∀ (s : State) (g : IssueGroup) (i : Instr) (p : Path) (tm : Team), s.ready g i = true →
    g.setAt = none → Lone s g i p tm → s.running p.g.tid = true → s.reloading p.g.tid = false →
    (s.sch.igs.filter fun x => x.core = p.core && x.quad = p.quad && x.id != g.id).length < 4 →
    (((∃ f, i = .vote f) ∨ (∃ f, i = .shfl f) ∨ (∃ f, i = .redt f) ∨ (∃ f, i = .scant f) ∨ (∃ f, i = .matchI f) ∨
        (∃ f, i = .elect f) ∨ (∃ f, i = .actmask f) ∨ (∃ f, i = .tbar f) ∨ (∃ f, i = .tbarLong f)) ∧
        (∃ set : BitVec 64, ∀ l ∈ s.members g.id, s.namedSet (fieldsOf i) l = set ∧ set.getLsbD l.t.lane = true) ∨
      (∃ f, i = .qblk f) ∧ (∃ set : BitVec 64, ∀ l ∈ s.members g.id, tileMask l.t.lane 16 = set) ∨
      ((∃ f, i = .give f) ∨ (∃ f, i = .giveLong f) ∨ (∃ f, i = .claim f) ∨ (∃ f, i = .claimLong f))) →
    ∃ (t : State) (q : Path) (h : IssueGroup), exec i s = .next t ∧ t.sch.paths = [q] ∧
      q.state = .inClause h.id ∧ q.id = p.id ∧ q.g = p.g ∧ q.mask = p.mask ∧ q.scopes = p.scopes ∧ q.ctxLbl = p.ctxLbl ∧
      t.sch.igs = (s.sch.igs.filter fun x => x.id ≠ g.id) ++ [h] ∧ h.setAt = some s.clk.cycle ∧ h.core = p.core ∧ h.quad = p.quad ∧
      h.part = tm.part ∧ h.ctx = tm.ctx ∧ h.stage = tm.stage ∧ h.cls = g.cls ∧ h.hdr = g.hdr ∧ h.pc = g.hdr + 4 ∧ h.endPc = g.endPc ∧
      h.yld = g.yld ∧ h.hold = none ∧ h.notBefore = max s.clk.cycle p.readyAt ∧ t.clk.cur = none ∧
      t.r = s.r ∧ t.sch.pend = s.sch.pend ∧ t.sch.teams = s.sch.teams ∧ t.sch.busy = s.sch.busy ∧
      t.m.mem = s.m.mem ∧ t.e = s.e ∧ t.gr = s.gr ∧ t.h = s.h ∧ t.y = s.y ∧ (opNo i ≠ 7 → t.m = s.m))

/-- RECONV and QBLK complete (R32, R147, R171, R208, R233, R234, R235). Where the one path of a team holds all its live
threads, RECONV pops the scope and goes on with its label; for the issue group of a complete block, QBLK gives each lane its
code and the block scale, 12 cycles after the block was complete. -/
def Obligations.ScopesAndBlocksComplete : Prop :=
  (∀ (s : State) (g : IssueGroup) (i : Instr) (p : Path) (tm : Team),
    ((∃ f, i = .reconv f) ∨ (∃ f, i = .reconvLong f)) → s.ready g i = true → Lone s g i p tm →
    ∃ t q, exec i s = .next t ∧ t.sch.paths = [q] ∧ q.state = .runnable ∧ q.pc = g.endPc ∧ q.id = p.id ∧ q.g = p.g ∧ q.mask = p.mask ∧
      (∀ sc sc' rest, p.scopes = sc :: sc' :: rest → q.scopes = sc' :: rest ∧ q.ctxLbl = sc.lbl) ∧
      (∀ sc, p.scopes = [sc] → q.scopes = [sc] ∧ q.ctxLbl = sc.lbl) ∧
      (∀ x, (t.thr x).bare = (s.thr x).bare) ∧ t.r = { s.r with thr := t.r.thr } ∧ t.m = s.m ∧ t.e = s.e ∧ t.gr = s.gr ∧
      t.h = s.h ∧ t.y = s.y ∧ t.sch.teams = s.sch.teams ∧ t.sch.pend = s.sch.pend) ∧
  (∀ (s : State) (g : IssueGroup) (f : DForm) (at_ : Nat), s.ready g (.qblk f) = true →
    g.setAt = some at_ →
    let m := fieldsOf (.qblk f)
    let ls := s.acting g (.qblk f)
    let x := fun (l : Lane) => readElem fmtF32 (qblkFtz m) (s.fpRaw l.t m.lit m.a 1 fmtF32 1)
    let c := qblkScale (qblkFmt m) (ls.map fun l => (x l).1)
    let q := fun (l : Lane) => qblkOne m c (x l).1 (s.thr l.t).seed
    ∃ t w, exec (.qblk f) s = .next t ∧ Issued s t g (.qblk f) ∧
      (∀ y, (t.thr y).seed = if y ∈ ls.map (·.t) ∧ qblkRm m = 5 then draw (s.thr y).seed else (s.thr y).seed) ∧
      t.sch.pend = s.sch.pend ++ [w] ∧ w.due = s.clk.cycle + max 1 (at_ + 12 - s.clk.cycle) ∧
      w.writes = resWrites (Fm.writes (Instr.qblk f).cls (opNo (.qblk f)) m)
        (ls.map fun l => ⟨l, [BitVec.ofNat 32 ((q l).1 % 256 + c * 256)], 0⟩) ∧
      w.flags = ls.map (fun l => (l.t, (x l).2 ||| (q l).2.1)) ∧ w.toks = tokPairs m.tok ls ∧ w.links = [])

/-- Collectives complete (R34, R171, R257, R258, R259, R260, R261, R262). The issue group of a complete set issues VOTE,
SHFL, REDT, SCANT, MATCH, ELECT and ACTMASK with the results of the rules, at the latency counted from the completion of the
set, and TBAR with no result; an integer reduction is the fold over its lanes. -/
def Obligations.CollectivesComplete : Prop :=
  (∀ (s : State) (g : IssueGroup) (i : Instr) (c : Nat), s.ready g i = true →
    g.setAt = some c →
    let f := fieldsOf i
    let ls := s.acting g i
    (((∃ f, i = .tbar f) ∨ (∃ f, i = .tbarLong f)) → Does s g i s) ∧
    (∀ (lat : Nat) (value : Lane → List Word),
      let tm := s.positions f ls
      let one := fun (b : Bool) => ([if b then 1 else 0] : List Word)
      ((∃ h, i = .vote h) ∧ lat = 6 ∧ (value = fun _ => match mdCopx f.md with
          | 0 => one (ls.any fun m => s.rdPred m.t f.a)
          | 1 => one (ls.all fun m => s.rdPred m.t f.a)
          | 2 => one ((ls.all fun m => s.rdPred m.t f.a) || ls.all fun m => !s.rdPred m.t f.a)
          | _ => [maskWord (ls.filter fun m => s.rdPred m.t f.a)]) ∨
        (∃ h, i = .shfl h) ∧ lat = 8 ∧ (value = fun l =>
          let src := shflSrc (mdCopx f.md) tm (l.t.lane % tm) (s.rd32 l.t f.lit f.b)
          wordsOf (s.intVal ((ls.find? fun m => m.t.lane % tm = src).getD l).t f.lit f.a (if mdCty f.md = 1 then 2 else 1) 0 false)
            (if mdCty f.md = 1 then 2 else 1)) ∨
        (∃ h, i = .redt h) ∧ mdCty f.md ≠ 2 ∧ lat = 10 ∧ (value = fun _ =>
          [BitVec.ofNat 32 (reduceAt (mdRop f.md) (mdCty f.md) tm (ls.map fun m => (m.t.lane % tm, s.rd32 m.t f.lit f.a)) fun _ => true).1]) ∨
        (∃ h, i = .scant h) ∧ mdCty f.md ≠ 2 ∧ lat = 10 ∧ (value = fun l =>
          [BitVec.ofNat 32 (reduceAt (mdRop f.md) (mdCty f.md) tm (ls.map fun m => (m.t.lane % tm, s.rd32 m.t f.lit f.a)) fun j =>
            if mdCopx f.md = 1 then j < l.t.lane % tm else j ≤ l.t.lane % tm).1]) ∨
        (∃ h, i = .matchI h) ∧ lat = 8 ∧ (value = fun l => [maskWord (ls.filter fun m =>
          s.intVal m.t f.lit f.a (if mdCty f.md = 1 then 2 else 1) 0 false = s.intVal l.t f.lit f.a (if mdCty f.md = 1 then 2 else 1) 0 false)]) ∨
        (∃ h, i = .elect h) ∧ lat = 6 ∧ (value = fun l => one (ls.all fun m => l.t.lane ≤ m.t.lane)) ∨
        (∃ h, i = .actmask h) ∧ lat = 6 ∧ (value = fun _ => [maskWord ls])) →
      ∃ (t : State) (w : Pend), exec i s = .next t ∧ Issued s t g i ∧ t.sch.pend = s.sch.pend ++ [w] ∧
        w.due = s.clk.cycle + max 1 (c + lat - s.clk.cycle) ∧
        w.writes = resWrites (Fm.writes 4 (opNo i) f) (ls.map fun l => ⟨l, value l, 0⟩) ∧
        w.flags = ls.map (fun l => (l.t, 0)) ∧ w.toks = tokPairs f.tok ls ∧ w.links = [] ∧
        (∀ x ∈ w.lbls, x.lbl = ls.foldl (fun a l => a ||| s.srcLbl l.g 4 (opNo i) f ||| l.ctx) 0) ∧
        ∀ x, (t.thr x).bare = (s.thr x).bare) ∧
    (((∃ h, i = .redt h) ∨ (∃ h, i = .scant h)) → mdCty f.md = 2 → ∃ (t : State) (w : Pend), exec i s = .next t ∧ Issued s t g i ∧
      t.sch.pend = s.sch.pend ++ [w] ∧ w.due = s.clk.cycle + max 1 (c + 14 - s.clk.cycle) ∧
      (let tm := s.positions f ls
       let out := fun (l : Lane) => reduceAt (mdRop f.md) 2 tm (ls.map fun m => (m.t.lane % tm, s.fpRaw m.t f.lit f.a 1 fmtF32 1)) fun j =>
         if opNo i = 2 then true else if mdCopx f.md = 1 then j < l.t.lane % tm else j ≤ l.t.lane % tm
       w.writes = resWrites (Fm.writes 4 (opNo i) f) (ls.map fun l => ⟨l, [BitVec.ofNat 32 (out l).1], 0⟩) ∧
         w.flags = ls.map (fun l => (l.t, (out l).2))) ∧ w.toks = tokPairs f.tok ls ∧ w.links = [])) ∧
  (∀ (rop ty k : Nat) (vals : List (Nat × Nat)) (keep : Nat → Bool),
    ty < 2 → (vals.map (·.1)).Nodup → (∀ v ∈ vals, v.1 < 2 ^ k ∧ v.2 < 2 ^ 32) →
    reduceAt rop ty (2 ^ k) vals keep =
      ((vals.filter fun v => keep v.1).foldl (fun a v => combInt rop ty a v.2) (ropIdentity rop ty), 0))

/-- BAR, BARP, GIVE and CLAIM complete (R21, R22, R209, R210, R211, R310). A barrier generation that the one path of a team
completes makes its threads Runnable at the header, opens the next generation and acquires at team scope; the issue group of
a complete generation goes on behind BAR or BARP; the first issue group of a complete group gives rows to the pool of its
core with GIVE and takes them back with zeroed registers and empty labels with CLAIM, and that of a group's other quadrant
goes on; nothing else changes. -/
def Obligations.BarriersAndRows : Prop :=
  (∀ (s : State) (g : IssueGroup) (i : Instr), s.ready g i = true →
    ((∃ f, i = .bar f) ∨ (∃ f, i = .barLong f) ∨ (∃ f, i = .barp f) ∨ (∃ f, i = .barpLong f)) →
    (∀ c, g.setAt = some c → Does s g i s) ∧
    (∀ (p : Path) (tm : Team) (b : Nat), g.setAt = none → Lone s g i p tm →
      let f := fieldsOf i
      let ls := s.members g.id
      b < 16 → (∀ l ∈ ls, s.rd32 l.t f.lit f.a = b) →
      ((∃ f, i = .barp f) ∨ (∃ f, i = .barpLong f) → ls.length ≤ 64 ∧ ∀ l ∈ ls, s.rd32 l.t f.lit f.b = ls.length) →
      ∃ t q, exec i s = .next t ∧ t.sch.paths = [q] ∧ q.state = .runnable ∧ q.pc = g.hdr ∧ q.gateId = some s.clk.fresh ∧
        q.since = s.clk.cycle ∧ q.id = p.id ∧ q.g = p.g ∧ q.mask = p.mask ∧ q.scopes = p.scopes ∧ q.ctxLbl = p.ctxLbl ∧
        t.sch.igs = s.sch.igs.filter (fun x => x.id ≠ g.id) ∧
        t.team? p.g.tid = some { tm with bars := setAt tm.bars b fun x => { gen := x.gen + 1, count := none } } ∧
        (∀ k, k ≠ p.g.tid → t.team? k = s.team? k) ∧ t.r = s.r ∧ t.m = (s.teamAcquire p.g.tid).m ∧
        t.e = s.e ∧ t.gr = s.gr ∧ t.h = s.h ∧ t.y = s.y ∧ t.sch.pend = s.sch.pend)) ∧
  (∀ (s : State) (g : IssueGroup) (i : Instr) (c : Nat) (G : GRef) (tm : Team) (gr : Group) (n : Nat),
    s.ready g i = true → g.setAt = some c → s.team? G.tid = some tm → s.group? G = some gr →
    let f := fieldsOf i
    let k := if tm.core2 = some gr.core then 1 else 0
    1 ≤ n → n ≤ 15 → s.members g.id ≠ [] → (∀ l ∈ s.members g.id, l.g = G ∧ s.rd32 l.t f.lit f.b = n) →
    s.named → (∀ p ∈ s.sch.paths, p.charged = 0 ∧ p.state ≠ .parked .rows) →
    (∀ p ∈ s.rowsRest (s.iss g i) G, ∀ l ∈ s.pathLanes p, s.rd32 l.t f.lit f.b = n) →
    let acted := s.sch.paths.map fun p => if p.id ∈ (s.rowsRest (s.iss g i) G).map (·.id) then { p with charged := 3 } else p
    (((∃ f, i = .give f) ∨ (∃ f, i = .giveLong f)) → n + 1 ≤ gr.rows →
      ∃ b, Does s g i b ∧ b = { s with sch.teams := b.sch.teams, sch.groups := b.sch.groups, sch.paths := acted } ∧
        b.group? G = some { gr with rows := gr.rows - n } ∧ (∀ x, x ≠ G → b.group? x = s.group? x) ∧
        b.team? G.tid = some { tm with freeRows := setAt tm.freeRows k (· + n) } ∧ ∀ x, x ≠ G.tid → b.team? x = s.team? x) ∧
    (((∃ f, i = .claim f) ∨ (∃ f, i = .claimLong f)) → gr.rows + n ≤ 16 → n ≤ tm.freeRows.getD k 0 →
      ∃ b, Does s g i b ∧ b = { s with sch.teams := b.sch.teams, sch.groups := b.sch.groups, sch.paths := acted, r.v := b.r.v, r.lbl := b.r.lbl } ∧
        b.group? G = some { gr with rows := gr.rows + n } ∧ (∀ x, x ≠ G → b.group? x = s.group? x) ∧
        b.team? G.tid = some { tm with freeRows := setAt tm.freeRows k (· - n) } ∧ (∀ x, x ≠ G.tid → b.team? x = s.team? x) ∧
        (∀ x r, b.vGet x r = if x.g = G ∧ 8 * gr.rows ≤ r ∧ r < 8 * (gr.rows + n) then 0 else s.vGet x r) ∧
        ∀ x r, b.tileLbl x r = if x = G ∧ (match r with | .v v => decide (8 * gr.rows ≤ v ∧ v < 8 * (gr.rows + n)) | _ => false) = true then 0 else s.tileLbl x r)) ∧
  (∀ (s : State) (g : IssueGroup) (i : Instr) (c : Nat), s.ready g i = true → g.setAt = some c →
    ((∃ f, i = .give f) ∨ (∃ f, i = .giveLong f) ∨ (∃ f, i = .claim f) ∨ (∃ f, i = .claimLong f)) →
    (∀ p ∈ s.sch.paths, (p.state = .inClause g.id → p.charged = 3) ∧ p.state ≠ .parked .rows) → s.named →
    Does s g i { s with sch.paths := s.sch.paths.map fun p =>
      if p.id ∈ (s.acting g i).map (·.pid) then { p with charged := 0 } else p })

/-- LD, ST, ATOM, RED and CAS are accepted (R75, R88, R240, R241, R243, R245, R247, R248). Where each acting lane has an
aligned, translated and permitted address, the word issues one request whose accesses are those of the lanes in order, and
changes nothing else but CLEAN and the L1. -/
def Obligations.GlobalAccesses : Prop := ∀ (s : State) (g : IssueGroup) (i : Instr) (kind : ReqKind) (scope : Nat) (nl : Bool)
    (data cmp : Lane → List Byte) (dst : List Tile) (sz : Nat),
  let f := fieldsOf i
  let is := s.iss g i
  let wide := decide (mdAW f.md = 1)
  ((∃ h, i = .ld h ∧ kind = .load ∧ scope = 0 ∧ nl = mdNl f.md ∧ data = noBytes ∧ cmp = noBytes ∧
      dst = Fm.writes 3 0 f ∧ sz = mdSz f.md) ∨
   (((∃ h, i = .st h) ∨ (∃ h, i = .stLong h)) ∧ kind = .store ∧ scope = 0 ∧ nl = false ∧
      data = s.dataBytes is f.b (accLen (opNo i) f) ∧ cmp = noBytes ∧ dst = [] ∧ sz = 0) ∨
   (∃ h, i = .atom h ∧ kind = .atomic (mdAop f.md) wide (mdU f.md) ∧ scope = mdScope f.md ∧ nl = false ∧
      data = s.atomBytes is f.b ∧ cmp = noBytes ∧ dst = Fm.writes 3 5 f ∧ sz = atomSz f) ∨
   (((∃ h, i = .red h) ∨ (∃ h, i = .redLong h)) ∧ kind = .red (mdAop f.md) wide (mdU f.md) ∧ scope = mdScope f.md ∧
      nl = false ∧ data = s.atomBytes is f.b ∧ cmp = noBytes ∧ dst = [] ∧ sz = 0) ∨
   (∃ h, i = .cas h ∧ kind = .cas wide ∧ scope = mdScope f.md ∧ nl = false ∧ data = s.atomBytes is f.c ∧
      cmp = s.atomBytes is f.b ∧ dst = Fm.writes 3 7 f ∧ sz = atomSz f)) →
  s.ready g i = true →
  let a := fun (l : Lane) => s.addrOf is true l
  let n := accLen (opNo i) f
  (∀ l ∈ s.acting g i, 0 ≤ a l ∧ a l < 2 ^ 57 ∧ a l % n = 0 ∧
    (∃ loc fl, s.tr is kind.writes l = .ok loc fl) ∧ s.accFlt is kind l = none) →
  (s.acting g i = [] → Does s g i s) ∧
  (s.acting g i ≠ [] → ∃ (b : State) (r : Req), Does s g i b ∧
    b = { s with clk.fresh := s.clk.fresh + 1, sch.teams := b.sch.teams, sch.busy := b.sch.busy, m.reqs := b.m.reqs,
                 m.l1 := b.m.l1, m.tlb := b.m.tlb, m.l2 := b.m.l2 } ∧
    b.m.reqs = s.m.reqs.map (fun q => { q with accs := q.accs.map fun x => { x with keep := x.keep && !(kind.writes &&
      q.core = g.core && !q.kind.writes && !x.done && r.accs.any fun y => y.loc.line = x.loc.line) } }) ++ [r] ∧
    b.m.tlb = (s.fillTlb is kind.writes ((s.acting g i).map fun l => (a l).toNat)).m.tlb ∧
    (∀ tid, b.team? tid = (s.team? tid).map fun t =>
      if kind ≠ .load ∧ tid ∈ (s.acting g i).map (·.t.tid) then { t with clean := false } else t) ∧
    (kind = .load → b.m.l1 = s.m.l1) ∧
    r.id = s.clk.fresh ∧ r.kind = kind ∧ r.core = g.core ∧ r.part = g.part ∧ r.ctx = g.ctx ∧ r.pc = g.pc ∧ r.scope = scope ∧
    r.nl = nl ∧ r.dst = dst ∧ r.sz = sz ∧ r.tok = f.tok ∧
    r.accs.map (fun x => (x.t, x.va, x.len, x.data, x.cmp)) =
      (s.acting g i).map (fun l => (l.t, BitVec.ofNat 64 (a l).toNat, n, data l, cmp l)) ∧
    ∀ x ∈ r.accs, (∃ l ∈ s.acting g i, ∃ fl, x.t = l.t ∧ s.tr is kind.writes l = .ok x.loc fl) ∧
      (x.done = true → kind = .load ∧ nl = false ∧ ∃ y, s.l1Hit g.core g.part x.loc.line = some y ∧
        x.old = (y.bytes.drop x.loc.off).take n))

/-- LEASE, PREF and FENCE (R92, R93, R94, R251, R252, R253). LEASE and PREF make their requests; FENCE waits for the loads
or stores of its threads, and then drops the unpinned lines that its scope covers, unless it only releases. -/
def Obligations.FencesAndLines : Prop :=
  (∀ (s : State) (g : IssueGroup) (i : Instr), s.ready g i = true →
    let is := s.iss g i
    let f := fieldsOf i
    (((∃ h, i = .lease h) ∨ (∃ h, i = .leaseLong h)) →
      (∀ l ∈ s.acting g i, 0 ≤ s.addrOf is true l ∧ s.addrOf is true l < 2 ^ 57 ∧
        (∃ loc fl, s.tr is false l = .ok loc fl) ∧ s.accFlt is .lease l = none) →
      (s.acting g i = [] → Does s g i s) ∧
      (s.acting g i ≠ [] → ∃ (b : State) (r : Req), Does s g i b ∧
        b = { s with clk.fresh := s.clk.fresh + 1, sch.busy := b.sch.busy, m.reqs := s.m.reqs ++ [r], m.l1 := b.m.l1,
                     m.tlb := b.m.tlb, m.l2 := b.m.l2 } ∧
        r.kind = .lease ∧ r.dst = [] ∧ r.tok = f.tok ∧
        r.accs.map (fun x => (x.t, x.va)) =
          (s.acting g i).map (fun l => (l.t, BitVec.ofNat 64 (s.addrOf is true l).toNat)) ∧
        ∀ x ∈ r.accs, x.done = (!x.loc.leaseable || s.l1Cap g.part g.core = 0 || (s.pinOf x.t.tid x.loc.line).isSome))) ∧
    (((∃ h, i = .pref h) ∨ (∃ h, i = .prefLong h)) →
      (mdNl f.md = true → ∃ b, Does s g i b ∧ b = { s with m.l2 := b.m.l2 }) ∧
      (s.prefAccs is = [] ∨ mdNl f.md = false ∧ s.l1Cap g.part g.core = 0 → Does s g i s) ∧
      (mdNl f.md = false → s.l1Cap g.part g.core ≠ 0 → s.prefAccs is ≠ [] → ∃ (b : State) (r : Req), Does s g i b ∧
        b = { s with clk.fresh := s.clk.fresh + 1, sch.busy := b.sch.busy, m.reqs := s.m.reqs ++ [r], m.tlb := b.m.tlb,
                     m.l2 := b.m.l2 } ∧
        r.kind = .pref ∧ r.dst = [] ∧ r.tok = 6 ∧
        r.accs.map (fun x => (x.t, x.va, x.loc)) = (s.prefAccs is).map fun x => (x.t, x.va, x.loc)))) ∧
  (∀ (s : State) (g : IssueGroup) (i : Instr), s.ready g i = true →
    ((∃ h, i = .fence h) ∨ (∃ h, i = .fenceLong h)) →
    let f := fieldsOf i
    let ls := s.acting g i
    let kept := s.m.l1.filter fun x => !(!ls.isEmpty && x.core = g.core && x.part = g.part && x.pin.isNone &&
      dropsLine (scopeRank (mdScope f.md)) (scopeRank (mdScope f.md) = 0 && ls.any fun l =>
        match s.team? l.t.tid with | some t => t.core2.isSome | none => false) x.line)
    (mdKind f.md = 2 → (∀ l ∈ ls, s.loading l.t = false) → Does s g i { s with m.l1 := kept }) ∧
    (mdKind f.md = 2 → (∃ l ∈ ls, s.loading l.t = true) →
      exec i s = .next ((s.entered g i).holdIg g { loads := ls.map (·.t) })) ∧
    (mdKind f.md ≠ 2 → (∃ l ∈ ls, s.busyThread l.t = true) →
      exec i s = .next ((s.entered g i).holdIg g { rel := ls.map fun l => (l.t, mdScope f.md) })) ∧
    (mdKind f.md ≠ 2 → (∀ x ∈ s.m.l1, x.pin = none) → (∀ l ∈ ls, s.relDone l.t (mdScope f.md) = true) →
      Does s g i (if mdKind f.md = 1 then s else { s with m.l1 := kept })))

/-- LDS, STS, ATOMS, CASS, LDC and PRES (R76, R81, R83, R114, R243, R245, R249, R254). Accesses to scratchpad and constants
in bounds, aligned and present give the bytes at their address; stores change exactly their bytes, the last lane winning. -/
def Obligations.ScratchAccesses : Prop :=
  (∀ (s : State) (g : IssueGroup) (i : Instr), s.ready g i = true →
    let f := fieldsOf i
    let is := s.iss g i
    let a := fun (l : Lane) => s.addrOf is false l
    let n := accLen (opNo i) f
    (∀ h, i = .lds h →
      (∀ l ∈ s.acting g i, 0 ≤ a l ∧ a l + n ≤ s.scrSize l.t.tid ∧ a l % n = 0 ∧ s.sabsent l.t.tid (a l).toNat n = false) →
      ∃ p : Pend, Does s g i { s with sch.pend := s.sch.pend ++ [p], sch.passes := (s.scrLat is).2.sch.passes } ∧
        p.due = s.clk.cycle + (s.scrLat is).1 ∧
        (s.sch.passes = [] → (s.scrLat is).1 = 20 + 2 * (passesOf (s.scrWords is) - 1) + s.pairLat is) ∧
        p.writes = resWrites (Fm.writes 3 2 f) ((s.acting g i).map fun l =>
          ⟨l, extendLoad (mdSz f.md) (s.sreads l.t.tid (a l).toNat n), 0⟩) ∧
        p.toks = tokPairs f.tok (s.acting g i) ∧ p.flags = [] ∧ p.links = [] ∧
        ∀ x ∈ p.lbls, x.lbl = ((s.acting g i).filter fun l => l.g = x.g).foldl (fun y l =>
          y ||| (s.aluLbl is l ||| s.slabel l.t.tid (a l).toNat n)) 0) ∧
    (∀ h, i = .pres h → (∀ l ∈ s.acting g i, 0 ≤ a l ∧ a l < s.scrSize l.t.tid) →
      ∃ p : Pend, Does s g i { s with sch.pend := s.sch.pend ++ [p] } ∧ p.due = s.clk.cycle + (8 + s.pairLat is) ∧
        p.writes = resWrites (Fm.writes 3 (opNo i) f) ((s.acting g i).map fun l =>
          let x := s.sline l.t.tid ((a l).toNat / 128)
          ⟨l, [BitVec.ofNat 32 ((if x.p then 1 else 0) +
            match Opnd.ofCode f.dst with | .pred _ => 0 | _ => 2 * x.c)], 0⟩) ∧
        p.toks = tokPairs f.tok (s.acting g i) ∧ p.flags = [] ∧ p.links = []) ∧
    (∀ h st, i = .ldc h → s.stage? g.part g.ctx g.stage = some st →
      (∀ l ∈ s.acting g i, s.intVal l.t f.lit f.a 1 0 true < 65536 ∧ 0 ≤ a l ∧ a l + n ≤ st.const.length ∧ a l % n = 0) →
      ∃ p : Pend, Does s g i { s with sch.pend := s.sch.pend ++ [p] } ∧
        p.due = s.clk.cycle + (12 + ((dedup ((s.acting g i).flatMap fun l =>
          (List.range ((n + 3) / 4)).map fun k => (a l).toNat / 4 + k)).length - 1)) ∧
        p.writes = resWrites (Fm.writes 3 4 f) ((s.acting g i).map fun l =>
          ⟨l, extendLoad (mdSz f.md) ((st.const.drop (a l).toNat).take n), 0⟩) ∧
        p.toks = tokPairs f.tok (s.acting g i) ∧ p.flags = [] ∧ p.links = [])) ∧
  (∀ (s : State) (g : IssueGroup) (i : Instr), s.ready g i = true →
    let f := fieldsOf i
    let is := s.iss g i
    let a := fun (l : Lane) => s.addrOf is false l
    let n := accLen (opNo i) f
    ((∀ l ∈ s.acting g i, 0 ≤ a l ∧ a l + n ≤ s.scrSize l.t.tid ∧ a l % n = 0) →
     (((∃ h, i = .sts h) ∨ (∃ h, i = .stsLong h)) →
      ∃ b, Does s g i b ∧ b = { s with r.scr := b.r.scr, r.sline := b.r.sline, sch.passes := (s.scrPasses is).2.sch.passes } ∧
        (∀ tid off, (∀ l ∈ s.acting g i, l.t.tid = tid → off < (a l).toNat ∨ (a l).toNat + n ≤ off) →
          b.sbyte tid off = s.sbyte tid off) ∧
        (∀ xs l ys k, s.acting g i = xs ++ l :: ys → k < n →
          (∀ m ∈ ys, m.t.tid = l.t.tid → (a l).toNat + k < (a m).toNat ∨ (a m).toNat + n ≤ (a l).toNat + k) →
          b.sbyte l.t.tid ((a l).toNat + k) = (s.dataBytes is f.b n l).getD k 0))) ∧
    ((∀ l ∈ s.acting g i, 0 ≤ a l ∧ a l + n ≤ s.scrSize l.t.tid ∧ a l % n = 0 ∧ s.sabsent l.t.tid (a l).toNat n = false) →
     ∀ new : Lane → List Byte → Option (List Byte),
     ((∃ h, i = .atoms h ∧ new = fun l old => some (natLE n (atomNew (mdAop f.md) (mdAW f.md = 1) (mdU f.md) (leNat old)
        (leNat (s.atomBytes is f.b l))))) ∨
      (∃ h, i = .cass h ∧ new = fun l old => if old = s.atomBytes is f.b l then some (s.atomBytes is f.c l) else none)) →
      ∃ (b : State) (p : Pend), Does s g i b ∧
        b = { s with r.scr := b.r.scr, r.sline := b.r.sline, sch.pend := s.sch.pend ++ [p],
                     sch.passes := (s.scrLat is).2.sch.passes } ∧
        (∀ tid off, (∀ l ∈ s.acting g i, l.t.tid = tid → off < (a l).toNat ∨ (a l).toNat + n ≤ off) →
          b.sbyte tid off = s.sbyte tid off) ∧
        p.due = s.clk.cycle + (s.scrLat is).1 ∧ p.toks = tokPairs f.tok (s.acting g i) ∧
        (∀ l, s.acting g i = [l] →
          let old := s.sreads l.t.tid (a l).toNat n
          p.writes = resWrites (Fm.writes 3 (opNo i) f) [⟨l, extendLoad (atomSz f) old, 0⟩] ∧
          ∀ k, k < n → b.sbyte l.t.tid ((a l).toNat + k) = ((new l old).getD old).getD k 0)))

/-- What loads and atomics compute (R243, R248). Loads extend by their size; the integer atomics compute sum, least,
greatest, and, or, exclusive or and exchange at their width. -/
def Obligations.LoadsAndAtomicsCompute : Prop :=
  (∀ (bs : List Byte),
    (∀ sz ∈ [0, 1, 2, 3, 5], bs.length = szBytes sz → (wordsNat (extendLoad sz bs) = leNat bs ∧
      (extendLoad sz bs).length = (szBytes sz + 3) / 4)) ∧
    (∀ sz ∈ [4, 6], bs.length = szBytes sz →
      extendLoad sz bs = [BitVec.ofInt 32 (signedOf (leNat bs) (8 * szBytes sz))])) ∧
  (∀ (wide : Bool) (old x : Nat),
    let n := if wide then 64 else 32
    old < 2 ^ n → x < 2 ^ n → ∀ uns : Bool,
    let rd := fun (v : Nat) => if uns then (v : Int) else (BitVec.ofNat n v).toInt
    atomNew 0 wide uns old x = (old + x) % 2 ^ n ∧
    (rd (atomNew 1 wide uns old x) = min (rd old) (rd x)) ∧ (rd (atomNew 2 wide uns old x) = max (rd old) (rd x)) ∧
    (∀ k, (atomNew 3 wide uns old x).testBit k = (old.testBit k && x.testBit k)) ∧
    (∀ k, (atomNew 4 wide uns old x).testBit k = (old.testBit k || x.testBit k)) ∧
    (∀ k, (atomNew 5 wide uns old x).testBit k = (old.testBit k != x.testBit k)) ∧
    atomNew 6 wide uns old x = x ∧ (∀ aop, aop < 7 → atomNew aop wide uns old x < 2 ^ n))

/-- COPY and COPYM are accepted (R81, R82, R213, R265, R266, R267, R268, R270, R271). A well-formed record is accepted as
one copy of the current batch, and each destination line has its count raised and its presence cleared; nothing else
changes. -/
def Obligations.CopiesAccepted : Prop := ∀ (s : State) (g : IssueGroup) (i : Instr) (multi : Bool) (l : Lane) (gr : Group),
  (multi = false ∧ ((∃ f, i = .copy f) ∨ (∃ f, i = .copyLong f)) ∨
    multi = true ∧ ((∃ f, i = .copym f) ∨ (∃ f, i = .copymLong f))) →
  s.ready g i = true → g.hold = none → s.acting g i = [l] → s.group? l.g = some gr → gr.producer = true →
  let is := s.iss g i
  let a := s.recOff is l
  let tid := l.t.tid
  a % 32 = 0 → a + 32 ≤ s.scrSize tid → s.sabsent tid a 32 = false →
  let r := copyRec (s.sreads tid a 32)
  let dests := if multi then s.copymDests tid g.core r else if r.dkind = 1 then [tid] else []
  let core := if r.dkind = 2 then s.homeCore tid g.core else g.core
  s.copyBad tid r multi = false → (s.unfinished l.t < 8 ∨ (s.curBatch l.t).isSome = true) →
  (∀ d ∈ dests, ∀ k ∈ r.lines, (s.sline d k).c < 7) → s.coRoom core = true →
  ∃ (b : State) (c : Copy), Does s g i b ∧
    b = { s with clk.fresh := s.clk.fresh + 1, sch.teams := b.sch.teams, r.sline := b.r.sline, e.copies := s.e.copies ++ [c],
                 e.batches := b.e.batches } ∧
    (∀ k, b.team? k = (s.team? k).map fun t => if k = tid ∧ (multi = true ∨ r.dkind = 0) then { t with clean := false } else t) ∧
    c.cr = r ∧ c.core = core ∧ c.t = l.t ∧ c.multi = multi ∧ c.dests = dests ∧ c.roff = a ∧ c.pc = g.pc ∧ c.row = 0 ∧ c.col = 0 ∧
    c.due = s.clk.cycle + 24 ∧ c.batch = (s.thr l.t).batch ∧
    c.lbl = s.aluLbl is l ||| s.slabel tid a 32 ∧
    (∀ d k, (d ∉ dests ∨ k ∉ r.lines) → b.sline d k = s.sline d k) ∧
    (dests.Nodup → ∀ d ∈ dests, ∀ k ∈ r.lines, b.sline d k = { s.sline d k with c := (s.sline d k).c + 1, p := false }) ∧
    ∃ n, (b.curBatch l.t).map (·.open_) = some (n + 1) ∧ n = (match s.curBatch l.t with | some x => x.open_ | none => 0)

/-- SEAL, WAITB, OSBRES and OSBREL (R271, R272, R273, R274, R275). SEAL and WAITB shut the current batch, WAITB waits while
more than its number are unfinished; OSBRES gives the lowest free handle, OSBREL releases it. -/
def Obligations.BatchesAndReservations : Prop :=
  (∀ (s : State) (g : IssueGroup) (i : Instr), s.ready g i = true →
    let ls := s.acting g i
    let n := fun (l : Lane) => s.rd32 l.t (fieldsOf i).lit (fieldsOf i).b
    let shut := fun (u : State) => ls.foldl (fun u l => u.sealBatch l.t) u
    (((∃ f, i = .seal f) ∨ (∃ f, i = .sealLong f)) → Does s g i (shut s)) ∧
    (∀ l, ((∃ f, i = .seal f) ∨ (∃ f, i = .sealLong f)) → ls = [l] →
      (s.curBatch l.t = none → Does s g i s) ∧
      (∀ x, s.curBatch l.t = some x → ∃ b, Does s g i b ∧ b = { s with e.batches := b.e.batches, r.thr := b.r.thr } ∧
        b.e.batches = s.e.batches.map (fun y => if y.t = l.t ∧ y.n = x.n then { y with sealed := true } else y) ∧
        b.thr l.t = { s.thr l.t with batch := (s.thr l.t).batch + 1 } ∧ ∀ y, y ≠ l.t → b.thr y = s.thr y)) ∧
    (∀ l, ((∃ f, i = .waitb f) ∨ (∃ f, i = .waitbLong f)) → ls = [l] → n l ≤ 7 → (shut s).unfinished l.t ≤ n l →
      ∃ b, Does s g i b ∧ b = { s with e.batches := b.e.batches, r.thr := b.r.thr } ∧
        b.e.batches = (shut s).e.batches.filter (fun y => !(y.t = l.t && y.finished)) ∧
        (∀ y ∈ (shut s).e.batches, y.t = l.t → y.finished = true → y.gwct.toNat ≤ (b.thr l.t).wct.toNat) ∧
        (s.thr l.t).wct.toNat ≤ (b.thr l.t).wct.toNat ∧
        ((b.thr l.t).wct = (s.thr l.t).wct ∨ ∃ y ∈ (shut s).e.batches, y.t = l.t ∧ y.finished = true ∧ (b.thr l.t).wct = y.gwct) ∧
        ∀ y, y ≠ l.t → b.thr y = s.thr y) ∧
    (((∃ f, i = .waitb f) ∨ (∃ f, i = .waitbLong f)) → (∀ l ∈ ls, n l ≤ 7) →
      ((∀ l ∈ ls, (shut s).unfinished l.t ≤ n l) → Does s g i (ls.foldl (fun u l => u.mergeBatches l.t) (shut s))) ∧
      ((∃ l ∈ ls, n l < (shut s).unfinished l.t) →
        exec i s = .next ((shut (s.entered g i)).holdIg g { batch := ls.map fun l => (l.t, n l) })))) ∧
  (∀ (s : State) (g : IssueGroup) (i : Instr) (l : Lane) (t : Team), s.ready g i = true →
    s.acting g i = [l] → s.team? l.t.tid = some t →
    let is := s.iss g i
    let a := s.recOff is l
    let tid := l.t.tid
    let r := osbRec (s.sreads tid a 16)
    let held := s.e.osbs.filter fun o => o.tid = tid && !o.released
    (∀ f, i = .osbres f → a % 16 = 0 → a + 16 ≤ s.scrSize tid → s.sabsent tid a 16 = false → r.bad = false →
      held.length < 16 → r.units + s.osbTeam tid ≤ 64 → s.osbUsed t.core + r.units ≤ 64 →
      s.osbUsedBy t.core t.part + r.units ≤ limOsb (s.corelim t.part t.core) →
      ∃ (o : Osb) (p : Pend), Does s g i
        { s with clk.fresh := s.clk.fresh + 1, e.osbs := s.e.osbs ++ [o], sch.pend := s.sch.pend ++ [p] } ∧
        o.tid = tid ∧ o.core = t.core ∧ o.part = t.part ∧ o.rows = r.rows ∧ o.klen = r.klen ∧ o.fmt = r.fmt ∧ o.asc = r.asc ∧
        o.units = r.units ∧ o.released = false ∧ o.handle < 16 ∧ (∀ x ∈ held, x.handle ≠ o.handle) ∧
        (∀ h, h < o.handle → ∃ x ∈ held, x.handle = h) ∧
        p.due = s.clk.cycle + (16 + s.pairLat is) ∧ p.toks = tokPairs (fieldsOf i).tok [l] ∧
        p.writes = resWrites (Fm.writes i.cls (opNo i) (fieldsOf i)) [⟨l, [BitVec.ofNat 32 o.handle], 0⟩]) ∧
    (∀ o, ((∃ f, i = .osbrel f) ∨ (∃ f, i = .osbrelLong f)) →
      s.osb? tid (s.rd32 l.t (fieldsOf i).lit (fieldsOf i).a) = some o → (∀ p ∈ s.sch.paths, p.state ≠ .parked .osb) →
      Does s g i ({ s with e.osbs := s.e.osbs.map fun x => if x.id = o.id then { x with released := true } else x } : State).osbSweep))

/-- PLLOAD and PLFREE (R276, R277, R278). PLLOAD starts one load for each acting lane and marks its plate loaded; PLFREE
frees exactly the plates of its mask. -/
def Obligations.PlateWords : Prop := ∀ (s : State) (g : IssueGroup) (i : Instr), s.ready g i = true →
  let is := s.iss g i
  let f := fieldsOf i
  let ls := s.acting g i
  (((∃ f, i = .plload f) ∨ (∃ f, i = .plloadLong f)) → (∀ l ∈ ls, s.plateFlt is l = none) →
    ∃ (b : State) (xs : List PlateLoad), Does s g i b ∧
      b = { s with clk.fresh := s.clk.fresh + ls.length, e.plates := b.e.plates, e.loads := s.e.loads ++ xs } ∧
      xs.map (fun x => (x.t, x.tok, x.plate, x.src, x.desc, x.lbl)) = ls.map (fun l =>
        let d := s.rd32 l.t f.lit f.b
        (some l.t, f.tok, pdPlate d, BitVec.ofNat 64 (s.intVal l.t f.lit f.a 2 0 true), BitVec.ofNat 32 d, s.aluLbl is l)) ∧
      (∀ l ∈ ls, (b.plate l.t.tid (pdPlate (s.rd32 l.t f.lit f.b))).loaded = true) ∧
      ∀ tid k, (∀ l ∈ ls, l.t.tid = tid → pdPlate (s.rd32 l.t f.lit f.b) ≠ k) → b.plate tid k = s.plate tid k) ∧
  (((∃ f, i = .plfree f) ∨ (∃ f, i = .plfreeLong f)) →
    (∀ l ∈ ls, s.rd32 l.t f.lit f.b < 2 ^ s.pln l.t.tid) → (s.e.plates.all fun kv => !kv.2.drop) = true →
    ∃ b, Does s g i b ∧ b = { s with e.plates := b.e.plates } ∧ ∀ tid k, b.plate tid k =
      if k < 32 ∧ (∃ l ∈ ls, l.t.tid = tid ∧ (s.rd32 l.t f.lit f.b).testBit k = true) ∧ (s.plate tid k).loaded = true then
        (if s.e.mxs.any fun x => x.tid = tid && !x.done && x.pmask.testBit k then { s.plate tid k with drop := true }
          else { s.plate tid k with loaded := false })
      else s.plate tid k)

/-- MXISSUE, MXFENCE and MXWAIT (R280, R281, R282, R283, R284, R285). MXISSUE is accepted with a Vat slot and its row
command; MXFENCE waits for the copies into the OSB; MXWAIT waits for the issues it observes and takes their flags. -/
def Obligations.MatrixWords : Prop :=
  (∀ (s : State) (g : IssueGroup) (f : LForm) (l : Lane) (t : Team),
    let i := Instr.mxissue f
    s.ready g i = true → g.hold = none → s.acting g i = [l] → s.team? l.t.tid = some t →
    let a := s.recOff (s.iss g i) l
    let tid := l.t.tid
    let r := mxRec (s.sreads tid a 64)
    a % 64 = 0 → a + 64 ≤ s.scrSize tid → s.sabsent tid a 64 = false → s.mxCause tid r = 0 →
    (r.new = true → t.vatFree ≠ []) → s.mxRoom (s.homeCore tid g.core) = true →
    let h := if r.new then t.vatFree.headD 0 else r.vath
    ∃ (b : State) (x : Mx) (p : Pend), Does s g i b ∧
      b = { s with clk.fresh := s.clk.fresh + 1, sch.teams := b.sch.teams, sch.igs := b.sch.igs, sch.pend := s.sch.pend ++ [p],
                   r.vat := b.r.vat, r.vatOld := b.r.vatOld, r.vatLbl := b.r.vatLbl, e.mxs := b.e.mxs } ∧
      (∀ k, b.team? k = (s.team? k).map fun y => if k = tid ∧ r.new = true then { y with vatFree := y.vatFree.filter (· ≠ h) } else y) ∧
      (∀ k n e, b.vatGet k n e = if r.new = true ∧ k = tid ∧ n = h then 0 else s.vatGet k n e) ∧
      (r.new = true → b.vatLabel tid h = 0) ∧
      b.e.mxs.map (fun y => { y with due := none }) = (s.e.mxs ++ [x]).map (fun y => { y with due := none }) ∧
      x.tid = tid ∧ x.t = l.t ∧ x.slot = h ∧ x.drow = r.drow ∧ x.rows = r.rows ∧ x.ovw = r.ovw ∧ x.pmask = r.pmask ∧
      x.arow = r.arow ∧ x.ak0 = r.ak0 ∧ x.at_ = s.clk.cycle ∧ x.done = false ∧
      (s.osb? tid r.osbh).map (·.id) = some x.res ∧
      p.due = s.clk.cycle + (4 + s.pairLat (s.iss g i)) ∧ p.toks = tokPairs (fieldsOf i).tok [l] ∧
      p.writes = resWrites (Fm.writes i.cls (opNo i) (fieldsOf i)) [⟨l, [BitVec.ofNat 32 h], 0⟩]) ∧
  (∀ (s : State) (g : IssueGroup) (i : Instr), s.ready g i = true → g.hold = none →
    let ls := s.acting g i
    let h := fun (l : Lane) => s.rd32 l.t (fieldsOf i).lit (fieldsOf i).b
    let copies := (tidsOf ls).flatMap fun tid => s.osbCopies tid
    let want := ls.map fun l => (l.t, s.observes l.t (h l))
    (((∃ f, i = .mxfence f) ∨ (∃ f, i = .mxfenceLong f)) →
      (copies = [] → Does s g i { s with
        e.osbs := s.e.osbs.map fun o => if (tidsOf ls).contains o.tid then { o with olds := o.olds.filter fun kv => s.clk.fresh ≤ kv.2.2 } else o
        r.vatOld := s.r.vatOld.filter fun kv => !(tidsOf ls).contains kv.1.1 || s.clk.fresh ≤ kv.2.2 }) ∧
      (copies ≠ [] → exec i s = .next ((s.entered g i).holdIg g { copies := copies, mark := s.clk.fresh }))) ∧
    (((∃ f, i = .mxwait f) ∨ (∃ f, i = .mxwaitLong f)) → (∀ l ∈ ls, h l < 64 ∨ h l = 0xFFFFFFFF) →
      ((∀ l ∈ ls, ∀ x ∈ s.e.mxs, x.id ∈ s.observes l.t (h l) → x.done = true) →
        Does s g i (ls.foldl (fun u l => u.observe l.t (mget [] want l.t)) s)) ∧
      ((∃ l ∈ ls, ∃ x ∈ s.e.mxs, x.id ∈ s.observes l.t (h l) ∧ x.done = false) →
        exec i s = .next ((s.entered g i).holdIg g { mxs := want })) ∧
      (∀ l, ls = [l] → (∀ x ∈ s.e.mxs, x.id ∈ s.observes l.t (h l) → x.done = true) → ∃ t, exec i s = .next t ∧
        (t.thr l.t).fstat = (s.e.mxs.filter fun x => (s.observes l.t (h l)).contains x.id).foldl (fun f x => f ||| x.flags)
          (s.thr l.t).fstat ∧ ∀ x, x ≠ l.t → (t.thr x).bare = (s.thr x).bare)))

/-- VTRD, VTWR and VREL (R102, R280, R286). VTRD reads the words of a held slot, with free values inside an open window
(DESIGN CHOICE of assumption 2); VTWR writes exactly its words; VREL gives the slot back. -/
def Obligations.VatWords : Prop :=
  (∀ (s : State) (g : IssueGroup) (i : Instr), s.ready g i = true →
    let is := s.iss g i
    let f := fieldsOf i
    let ls := s.acting g i
    let a := fun (l : Lane) => s.rd32 l.t f.lit f.a
    let h := fun (l : Lane) => bitsOf (a l) 12 6
    let e := fun (l : Lane) => bitsOf (a l) 0 12
    let n := 2 ^ mdType f.md
    (∀ l ∈ ls, a l < 2 ^ 18 ∧ e l % n = 0 ∧ s.vatHeld l.t.tid (h l) = true) →
    (∀ w, i = .vtrd w → (∀ l ∈ ls, s.windows l.t.tid (h l) = []) →
      ∃ p : Pend, Does s g i { s with sch.pend := s.sch.pend ++ [p] } ∧
        p.due = s.clk.cycle + (12 + if ls.any fun l => match s.team? l.t.tid with | some t => t.core2 = some g.core | none => false
          then 24 else 0) ∧ p.toks = tokPairs f.tok ls ∧
        p.writes = resWrites (Fm.writes i.cls (opNo i) f) (ls.map fun l =>
          ⟨l, (List.range n).map fun k => s.vatGet l.t.tid (h l) (e l + k), 0⟩)) ∧
    (∀ w l, i = .vtrd w → ls = [l] → s.windows l.t.tid (h l) ≠ [] →
      ∃ p : Pend, Does s g i { s with clk.free := s.clk.free + n, sch.pend := s.sch.pend ++ [p] } ∧
        p.writes = resWrites (Fm.writes i.cls (opNo i) f) [⟨l, (List.range n).map fun k => Config.freeWord (s.clk.free + k), 0⟩]) ∧
    (∀ l, ((∃ w, i = .vtwr w) ∨ (∃ w, i = .vtwrLong w)) → ls = [l] →
      ∃ b, Does s g i b ∧ b = { s with clk.fresh := s.clk.fresh + 1, r.vat := b.r.vat, r.vatOld := b.r.vatOld,
                                       r.vatLbl := b.r.vatLbl, e.mxs := b.e.mxs } ∧
        (∀ tid k x, mget? b.r.vatOld (tid, k, x) = if tid = l.t.tid ∧ k = h l ∧ e l ≤ x ∧ x < e l + n then
          some (((mget? s.r.vatOld (tid, k, x)).map (·.1)).getD (s.vatGet tid k x), s.clk.fresh) else mget? s.r.vatOld (tid, k, x)) ∧
        (∀ tid k x, b.vatGet tid k x = if tid = l.t.tid ∧ k = h l ∧ e l ≤ x ∧ x < e l + n then
          BitVec.ofNat 32 (bitsOf (s.intVal l.t f.lit f.b n 0 true) (32 * (x - e l)) 32) else s.vatGet tid k x) ∧
        (∀ tid k, b.vatLabel tid k = if tid = l.t.tid ∧ k = h l then s.vatLabel tid k ||| s.aluLbl is l else s.vatLabel tid k) ∧
        b.e.mxs.map (fun x => { x with dirty := [] }) = s.e.mxs.map (fun x => { x with dirty := [] })) ∧
    (((∃ w, i = .vtwr w) ∨ (∃ w, i = .vtwrLong w)) → ∃ t, exec i s = .next t ∧ t.m = s.m ∧ t.sch.pend = s.sch.pend)) ∧
  (∀ (s : State) (g : IssueGroup) (i : Instr) (l : Lane), s.ready g i = true →
    ((∃ w, i = .vrel w) ∨ (∃ w, i = .vrelLong w)) → s.acting g i = [l] →
    let h := s.rd32 l.t (fieldsOf i).lit (fieldsOf i).a
    s.vatHeld l.t.tid h = true →
    ∃ b, Does s g i b ∧ b = { s with sch.teams := b.sch.teams } ∧ (∀ k, k ≠ l.t.tid → b.team? k = s.team? k) ∧
      b.vatHeld l.t.tid h = false ∧
      ∃ t u, s.team? l.t.tid = some t ∧ b.team? l.t.tid = some u ∧
        { u with vatFree := [], vatBack := [] } = { t with vatFree := [], vatBack := [] } ∧
        ((s.e.mxs.any fun x => x.tid = l.t.tid && x.slot = h && !x.done) = true → h ∈ u.vatBack) ∧
        ((s.e.mxs.any fun x => x.tid = l.t.tid && x.slot = h && !x.done) = false → h ∈ u.vatFree ∧ h ∉ u.vatBack))

/-- CHAIN and CHWAIT (R287, R288, R289, R291). CHAIN accepts the record it names; CHWAIT waits for the chains of its thread
and takes their flags and write times. -/
def Obligations.ChainWords : Prop :=
  (∀ (s : State) (g : IssueGroup) (i : Instr) (l : Lane),
    ((∃ f, i = .chain f) ∨ (∃ f, i = .chainLong f)) → s.ready g i = true → g.hold = none → s.acting g i = [l] →
    let a := s.recOff (s.iss g i) l
    let tid := l.t.tid
    let n := chainLen (s.sreads tid a 128)
    let r := chainRec (s.sreads tid a n)
    a % 128 = 0 → a + 128 ≤ s.scrSize tid → a + n ≤ s.scrSize tid → s.sabsent tid a 128 = false → s.sabsent tid a n = false →
    r.bad = false → s.chRoom g.core = true →
    ∃ (b : State) (c : Chain), Does s g i b ∧
      b = { s with clk.fresh := s.clk.fresh + 1, sch.teams := b.sch.teams, e.chains := s.e.chains ++ [c] } ∧
      (∀ k, b.team? k = (s.team? k).map fun t => if k = tid ∧ (r.outs.any fun x => !x.scratch) = true then { t with clean := false } else t) ∧
      c.t = l.t ∧ c.core = g.core ∧ c.pc = g.pc ∧ c.roff = a ∧ c.ops = r.ops ∧ c.ins = r.ins ∧ c.outs = r.outs ∧ c.sel0 = r.sel0 ∧
      c.sel1 = r.sel1 ∧ c.flags = 0 ∧ c.done = false ∧ c.start = s.clk.cycle + 32 ∧ c.due = none ∧ c.left = 0 ∧ c.elem = none ∧
      c.lbl = s.aluLbl (s.iss g i) l ||| s.slabel tid a (s.sreads tid a n).length) ∧
  (∀ (s : State) (g : IssueGroup) (i : Instr),
    ((∃ f, i = .chwait f) ∨ (∃ f, i = .chwaitLong f)) → s.ready g i = true → g.hold = none →
    let ls := s.acting g i
    let want := ls.map fun l => (l.t, s.chainsOf l.t)
    ((∀ l ∈ ls, ∀ c ∈ s.e.chains, c.id ∈ s.chainsOf l.t → c.done = true) →
      Does s g i (ls.foldl (fun u l => u.takeChains l.t (mget [] want l.t)) s)) ∧
    ((∃ l ∈ ls, ∃ c ∈ s.e.chains, c.id ∈ s.chainsOf l.t ∧ c.done = false) →
      exec i s = .next ((s.entered g i).holdIg g { chains := want })) ∧
    (∀ l, ls = [l] → (∀ c ∈ s.e.chains, c.id ∈ s.chainsOf l.t → c.done = true) → ∃ t, exec i s = .next t ∧
      (t.thr l.t).fstat = (s.e.chains.filter fun c => (s.chainsOf l.t).contains c.id).foldl (fun f c => f ||| c.flags) (s.thr l.t).fstat ∧
      (∀ c ∈ s.e.chains, c.t = l.t → c.gwct.toNat ≤ (t.thr l.t).wct.toNat) ∧ (s.thr l.t).wct.toNat ≤ (t.thr l.t).wct.toNat ∧
      (∀ c ∈ t.e.chains, c ∈ s.e.chains ∧ c.t ≠ l.t) ∧ ∀ x, x ≠ l.t → (t.thr x).bare = (s.thr x).bare))

/-- ENQ and ENQI (R49, R51, R53, R54, R55, R66, R116, R294, R295, R296). A record of one lane is placed at the tail of its
queue or mailbox, with its credit and its label; an ENQI that finds no room calls an inlineable consumer. -/
def Obligations.RecordsEnqueued : Prop :=
  (∀ (s : State) (g : IssueGroup) (i : Instr) (l : Lane) (t : Team) (r : Rec) (k : QKey)
      (q : Queue),
    ((∃ f, i = .enq f) ∨ (∃ f, i = .enqLong f) ∨ (∃ f, i = .enqi f) ∨ (∃ f, i = .enqiLong f)) → s.ready g i = true →
    s.entrants g i = [l] → s.team? l.t.tid = some t →
    let is := s.iss g i
    let e := (t.chan.getD (mdCh (fieldsOf i).md) 0).toNat
    (∀ p ∈ s.sch.paths, (∀ k, p.state ≠ .parked (.queue k)) ∧ (p.id = l.pid → p.charged = 0)) →
    capValid e = true → e.testBit permEnq = true → capAllow e ≠ 0 →
    s.enqRecFlt is l = none → s.enqRec is l = .ok r → s.queue? k = some q → q.waiting = [] → q.fits 0 1 = true →
    Label.sub r.lbl q.ceil = true →
    ((capKind e = 0 ∧ k = ⟨g.part, g.ctx, false, capTarget e⟩) ∨
      (capKind e = 2 ∧ s.mailQueue (capTarget e) = some k ∧
        (let x := s.filterOf (capTarget e)
         filtValid x = true ∧ filtSpart x = g.part ∧ Label.sub r.lbl (filtMax x) = true ∧ s.heldMail (capTarget e) < filtCredit x))) →
    ∃ b, Does s g i b ∧ b = { s with sch.teams := b.sch.teams, gr.queues := b.gr.queues } ∧
      b.queue? k = some ((q.put 0 ⟨q.next, r, s.clk.tclk, none, 1⟩).startRefill s.clk.cycle) ∧
      (∀ j, j ≠ k → b.queue? j = s.queue? j) ∧
      ∀ n, b.team? n = (s.team? n).map fun t => if n = l.t.tid then
        { t with clean := false, chan := setAt t.chan (mdCh (fieldsOf i).md) (capCharge 1) } else t) ∧
  (∀ (s : State) (g : IssueGroup) (i : Instr) (l : Lane) (t : Team) (r : Rec) (st : Stage),
    ((∃ f, i = .enqi f) ∨ (∃ f, i = .enqiLong f)) → s.ready g i = true → s.entrants g i = [l] → s.team? l.t.tid = some t →
    let is := s.iss g i
    let e := (t.chan.getD (mdCh (fieldsOf i).md) 0).toNat
    (∀ p ∈ s.sch.paths, p.id = l.pid → p.charged = 0) →
    capValid e = true → e.testBit permEnq = true → capAllow e ≠ 0 → capKind e = 0 →
    s.enqRecFlt is l = none → s.enqRec is l = .ok r → (∃ q, s.queue? ⟨g.part, g.ctx, false, capTarget e⟩ = some q ∧ q.fits 0 1 = false) →
    r.bytes.length ≤ 64 → s.enqRsz is = r.bytes.length → s.consumer ⟨g.part, g.ctx, false, capTarget e⟩ = some st →
    e.testBit permInl = true → st.inl = true → 8 * (st.irows + 1) ≤ s.regs l.g → (s.thr l.t).inlDepth < st.depthmax →
    ∃ u, exec i s = .next u ∧
      (∀ j, j < 16 → u.vGet l.t j = if j < r.bytes.length / 4 then BitVec.ofNat 32 (leNat ((r.bytes.drop (4 * j)).take 4)) else 0) ∧
      (∀ x j, x ≠ l.t ∨ 16 ≤ j → u.vGet x j = s.vGet x j) ∧
      (u.thr l.t).inlDepth = (s.thr l.t).inlDepth + 1 ∧ (u.thr l.t).link = BitVec.ofNat 32 g.endPc ∧ (u.thr l.t).linkLbl = l.ctx ∧
      (u.thr l.t).inlStack = ⟨g.endPc, (s.thr l.t).link, (s.thr l.t).linkLbl⟩ :: (s.thr l.t).inlStack ∧
      (∀ x, x ≠ l.t → (u.thr x).bare = (s.thr x).bare) ∧ u.m = s.m ∧ u.e = s.e ∧ u.gr = s.gr ∧ u.h = s.h ∧ u.y = s.y ∧
      u.r.s = s.r.s ∧ u.r.m = s.r.m ∧ u.sch.pend = s.sch.pend)

/-- DEQMORE and QLEN (R57, R61, R297, R298). DEQMORE takes the records that the team may have, deals them into its record
area and answers their count; QLEN answers the length in the view of the core. -/
def Obligations.RecordsDealt : Prop :=
  (∀ (s : State) (g : IssueGroup) (f : LForm) (l : Lane) (t : Team) (st : Stage) (q : Queue),
    let i := Instr.deqmore f
    s.ready g i = true → s.acting g i = [l] → s.team? l.t.tid = some t → s.stage? g.part g.ctx g.stage = some st →
    st.inkind ≠ 0 → st.hasRec = true →
    let k := s.inputOf g.part g.ctx g.stage st
    s.queue? k = some q → q.waiting = [] →
    let tid := l.t.tid
    let m := min (s.rd32 l.t (fieldsOf i).lit (fieldsOf i).b) (min (t.groups * t.width - t.dealt) (s.viewLen g.core k))
    let d := q.takeN s.clk.cycle m
    let xs := d.1
    let n := xs.length
    ∃ (b : State) (p : Pend), Does s g i b ∧
      b = { s with sch.teams := b.sch.teams, sch.sub := b.sch.sub, gr.queues := b.gr.queues, r.scr := b.r.scr,
                   r.sline := b.r.sline, m.l1 := b.m.l1, sch.pend := s.sch.pend ++ [p] } ∧
      n ≤ m ∧ b.queue? k = some ((d.2.1.resumeRefill s.clk.cycle d.2.2).startRefill s.clk.cycle) ∧ (∀ j, j ≠ k → b.queue? j = s.queue? j) ∧
      b.team? tid = some { t with clean := false, dealt := t.dealt + n } ∧
      b.viewLen g.core k = s.viewLen g.core k - n ∧
      p.due = s.clk.cycle + (lateBy s.clk.cycle d.2.2 + 170 + 2 * (n % 65536 - 1) + s.pairLat (s.iss g i)) ∧ p.toks = tokPairs (fieldsOf i).tok [l] ∧
      p.writes = resWrites (Fm.writes i.cls (opNo i) (fieldsOf i)) [⟨l, [BitVec.ofNat 32 (n + t.dealt * 65536)], 0⟩] ∧
      ∀ sz, (∀ x ∈ xs, x.r.bytes.length = sz) → ∀ j x, xs[j]? = some x → b.sreads tid (st.recbase + (t.dealt + j) * sz) sz = x.r.bytes) ∧
  (∀ (s : State) (g : IssueGroup) (f : LForm),
    let i := Instr.qlen f
    let ls := s.acting g i
    let e := fun (l : Lane) => s.chanOf l.t.tid (fieldsOf i)
    s.ready g i = true →
    (∀ l ∈ ls, s.chargedLane l = false ∧ capValid (e l) = true ∧ capKind (e l) ≤ 1 ∧ (e l).testBit permLen = true) →
    ∃ p : Pend, Does s g i { s with sch.pend := s.sch.pend ++ [p] } ∧ p.due = s.clk.cycle + 8 ∧
      p.toks = tokPairs (fieldsOf i).tok ls ∧
      p.writes = resWrites (Fm.writes i.cls (opNo i) (fieldsOf i)) (ls.map fun l => ⟨l, [BitVec.ofNat 32 (s.qlenOf (s.iss g i) (e l))], 0⟩))

/-- DECDEP and LAUNCH (R64, R70, R299, R300, R301, R302, R317). A DECDEP with a valid index makes one decrement request at
the address of its entry, and closes the region of its team; a launch record in order takes the lowest free pending-launch
entry of its team. -/
def Obligations.DecrementsAndLaunches : Prop :=
  (∀ (s : State) (g : IssueGroup) (i : Instr) (l : Lane) (t : Team) (tab : TTab),
    ((∃ f, i = .decdep f) ∨ (∃ f, i = .decdepLong f)) → s.ready g i = true → s.entrants g i = [l] → s.team? l.t.tid = some t →
    let is := s.iss g i
    let e := (t.chan.getD (mdCh (fieldsOf i).md) 0).toNat
    (∀ p ∈ s.sch.paths, p.id = l.pid → p.charged = 0) →
    capValid e = true → capKind e = 4 → e.testBit permDep = true → capAllow e ≠ 0 →
    s.ttab? g.part g.ctx (capTarget e) = some tab →
    let n := s.rd32 l.t (fieldsOf i).lit (fieldsOf i).a
    let va := tab.base.toNat + n * s.entrySize g.part g.ctx tab
    n < tab.count → va < 2 ^ 57 → (∀ x ∈ s.depTrs is tab l, ∃ loc fl, x.2 = .ok loc fl) → s.depAccFlt is tab l = none →
    ∃ (b : State) (r : Req) (a : Acc), Does s g i b ∧
      b = { s with clk.fresh := s.clk.fresh + 1, sch.teams := b.sch.teams, sch.busy := b.sch.busy, m.reqs := b.m.reqs,
                   m.l1 := b.m.l1, m.tlb := (s.fillTlb is true [va]).m.tlb, m.l2 := b.m.l2 } ∧
      b.m.reqs = s.m.reqs.map (fun q => { q with accs := q.accs.map fun x => { x with keep := x.keep && !(
        q.core = g.core && !q.kind.writes && !x.done && a.loc.line = x.loc.line) } }) ++ [r] ∧
      (∀ n, b.team? n = (s.team? n).map fun t => if n = l.t.tid then
        { t with clean := false, chan := setAt t.chan (mdCh (fieldsOf i).md) (capCharge 1) } else t) ∧
      r.kind = .decdep (capTarget e) ∧ r.accs = [a] ∧ r.dst = [] ∧ r.tok = (fieldsOf i).tok ∧ a.t = l.t ∧
      a.va = BitVec.ofNat 64 va ∧ a.len = 4 ∧ a.done = false) ∧
  (∀ (s : State) (g : IssueGroup) (i : Instr) (l : Lane) (t : Team) (st : Stage),
    ((∃ f, i = .launch f) ∨ (∃ f, i = .launchLong f)) → s.ready g i = true → s.entrants g i = [l] → s.team? l.t.tid = some t →
    let is := s.iss g i
    let e := (t.chan.getD (mdCh (fieldsOf i).md) 0).toNat
    let a := s.recOff is l
    let bs := s.sreads l.t.tid a 64
    (∀ p ∈ s.sch.paths, p.state ≠ .parked .launchEntry ∧ (p.id = l.pid → p.charged = 0)) →
    capValid e = true → capKind e = 3 → e.testBit permLaunch = true → capAllow e ≠ 0 →
    s.stage? g.part g.ctx (capTarget e) = some st → a % 64 = 0 → a + 64 ≤ s.scrSize l.t.tid → s.sabsent l.t.tid a 64 = false →
    launchRecBad bs st.groups = false →
    Label.sub (s.cmdLbl is l a 64) (s.ceilOf ⟨g.part, g.ctx, true, capTarget e⟩) = true →
    s.freeEntries l.t.tid ≠ [] →
    ∃ (b : State) (n : Nat), Does s g i b ∧
      b = { s with sch.teams := b.sch.teams, sch.pendL := s.sch.pendL ++ [⟨l.t.tid, n,
        { bytes := bs, lbl := s.cmdLbl is l a 64, part := g.part, ctx := g.ctx, stage := capTarget e, run := 0 }, s.clk.cycle, false⟩] } ∧
      n < 4 ∧ (∀ p ∈ s.sch.pendL, p.tid = l.t.tid → p.entry ≠ n) ∧
      (∀ m, m < n → ∃ p ∈ s.sch.pendL, p.tid = l.t.tid ∧ p.entry = m) ∧
      ∀ n, b.team? n = (s.team? n).map fun t => if n = l.t.tid then
        { t with clean := false, chan := setAt t.chan (mdCh (fieldsOf i).md) (capCharge 1) } else t)

/-- ARCINIT, ARCADD and ARCWAIT (R72, R105, R303, R304, R305, R306). ARCINIT and ARCADD make the request of their counter
with count and goal or addend; ARCWAIT of either form goes on with an acquire of mesh scope where every counter has reached
its goal. -/
def Obligations.ArrivalCounters : Prop := ∀ (s : State) (g : IssueGroup) (i : Instr), s.ready g i = true →
  let is := s.iss g i
  let f := fieldsOf i
  let ls := s.acting g i
  let a := fun (l : Lane) => s.addrOf is true l
  ls ≠ [] → (∀ l ∈ ls, 0 ≤ a l ∧ a l < 2 ^ 57 ∧ a l % 16 = 0) →
  (∀ (kind : ReqKind) (data : Lane → List Byte) (n : Nat),
    ((((∃ h, i = .arcinit h) ∨ (∃ h, i = .arcinitLong h)) ∧ kind = .arcinit ∧ n = 16 ∧
        data = fun l => natLE 8 0 ++ natLE 8 (s.intVal l.t f.lit f.b 2 0 true)) ∨
      (((∃ h, i = .arcadd h) ∨ (∃ h, i = .arcaddLong h)) ∧ kind = .arcadd ∧ n = 8 ∧ (data = fun l => natLE 8 (s.rd32 l.t f.lit f.b)) ∧
        (∀ x ∈ s.m.l1, x.pin = none) ∧ ∀ l ∈ ls, s.relDone l.t (s.arcScope is l) = true)) →
    (∀ l ∈ ls, (∃ loc fl, s.tr is true l = .ok loc fl) ∧ s.accFlt is kind l = none) →
    ∃ (b : State) (r : Req), Does s g i b ∧
      b = { s with clk.fresh := s.clk.fresh + 1, sch.teams := b.sch.teams, sch.busy := b.sch.busy, m.reqs := b.m.reqs,
                   m.l1 := b.m.l1, m.tlb := (s.fillTlb is true (ls.map fun l => (a l).toNat)).m.tlb, m.l2 := b.m.l2 } ∧
      b.m.reqs = s.m.reqs.map (fun q => { q with accs := q.accs.map fun x => { x with keep := x.keep && !(
        q.core = g.core && !q.kind.writes && !x.done && r.accs.any fun y => y.loc.line = x.loc.line) } }) ++ [r] ∧
      (∀ tid, b.team? tid = (s.team? tid).map fun t => if tid ∈ ls.map (·.t.tid) then { t with clean := false } else t) ∧
      r.kind = kind ∧ r.dst = [] ∧ r.tok = f.tok ∧
      r.accs.map (fun x => (x.t, x.va, x.len, x.data)) = ls.map (fun l => (l.t, BitVec.ofNat 64 (a l).toNat, n, data l))) ∧
  (((∃ h, i = .arcwait h) ∨ (∃ h, i = .arcwaitLong h) ∨ (∃ h, i = .arcwaitSwap h)) →
    (∀ l ∈ ls, s.loading l.t = false ∧ (∃ loc fl, s.tr is false l = .ok loc fl ∧ s.owned g.part loc = true) ∧
      s.arcReached is l = true) → (∀ p ∈ s.sch.paths, p.atCounter = false) →
    Does s g i { s with m.tlb := (s.fillTlb is false (ls.map fun l => (a l).toNat)).m.tlb, m.l1 := s.m.l1.filter fun x =>
      !(x.core = g.core && x.part = g.part && x.pin.isNone && dropsLine 3 false x.line) })

/-- PLDEM, PLSTATE, LBLRD, GATE and SYSCALL (R120, R121, R126, R307, R308, R309, R311, R377). A demand that is met goes on;
PLSTATE and LBLRD give words and labels; GATE under a policy that permits it starts its transfer and pays for it; SYSCALL
starts one call for each acting lane. -/
def Obligations.PlacementWords : Prop :=
  (∀ (s : State) (g : IssueGroup) (i : Instr), s.ready g i = true →
    let is := s.iss g i
    let f := fieldsOf i
    let ls := s.acting g i
    (((∃ h, i = .pldem h) ∨ (∃ h, i = .pldemLong h)) →
      (∀ l ∈ ls, s.plFlt is l = none ∧ s.plMet is l = true ∧ s.relDone l.t 3 = true) → (∀ x ∈ s.m.l1, x.pin = none) →
      (∀ p ∈ s.sch.paths, p.atPlace = false) →
      ∃ b, Does s g i b ∧ b = { s with sch.teams := b.sch.teams } ∧ ∀ tid, b.team? tid =
        (s.team? tid).map fun t => if tid ∈ (s.entrants g i).map (·.t.tid) then { t with clean := false } else t) ∧
    (∀ h, i = .plstate h → (∀ l ∈ ls, s.plFlt is l = none) →
      ∃ p : Pend, Does s g i { s with sch.pend := s.sch.pend ++ [p] } ∧ p.due = s.clk.cycle + 8 ∧ p.toks = tokPairs f.tok ls ∧
        p.flags = [] ∧ p.links = [] ∧
        p.writes = resWrites (Fm.writes i.cls (opNo i) f)
          (ls.map fun l => ⟨l, [((s.plOf is l).map fun e => e.word (mdSel f.md)).getD 0], 0⟩)) ∧
    (∀ h, i = .lblrd h →
      (∀ l ∈ ls, s.lblrdFlt is l = none ∧ (mdSel f.md = 1 → ∃ loc fl, s.tr is false l = .ok loc fl)) →
      ∃ p : Pend, Does s g i { s with sch.pend := s.sch.pend ++ [p] } ∧ p.due = s.clk.cycle + s.lblrdLat is ∧
        p.toks = tokPairs f.tok ls ∧ p.flags = [] ∧ p.links = [] ∧
        p.writes = resWrites (Fm.writes i.cls (opNo i) f) (ls.map fun l => ⟨l, [(s.lblrdVal is l).zeroExtend 32], 0⟩) ∧
        ∀ x ∈ p.lbls, x.lbl = (ls.filter fun l => l.g = x.g).foldl (fun y l => y ||| (s.aluLbl is l ||| s.lblrdVal is l)) 0)) ∧
  (∀ (s : State) (g : IssueGroup) (i : Instr) (p : Path) (tm : Team),
    s.ready g i = true → Lone s g i p tm → (∀ x ∈ s.m.l1, x.pin = none) →
    let is := s.iss g i
    let f := fieldsOf i
    let ls := s.acting g i
    let shut := fun (tid : Nat) =>
      (s.team? tid).map fun t => if tid = p.g.tid then { t with clean := false } else t
    (∀ l ∈ ls, s.relDone l.t 4 = true) →
    (∀ l r e, ((∃ h, i = .gate h) ∨ (∃ h, i = .gateLong h)) → ls = [l] → s.recFlt is 32 l = none → s.gateOf is l = some r →
      r.bad = false → (∀ x ∈ s.gateTrs is r, ∃ loc fl, x.2 = .ok loc fl ∧ s.owned g.part loc = true) →
      s.y.policies.find? (fun e => e.id = r.policy) = some e → (e.notafter = 0 ∨ DWord.past s.clk.tclk e.notafter = false) →
      Label.sub (s.gateSrcLbl is r ||| s.cmdLbl is l (s.recOff is l) 32) e.lset = true →
      (∀ x ∈ s.spanTrs is r.dst r.n true, s.gateDstOk g.part e x.2 = true) → r.n ≤ e.remain.toNat →
      ∃ (b t : State) (x : GateXfer) (q : Path), exec i s = .next t ∧ PathsOnly b t ∧
        b = { s with sch.teams := b.sch.teams, e.gates := s.e.gates ++ [x], y.policies := s.y.policies.map fun y =>
          if y.id = r.policy then { y with remain := y.remain - BitVec.ofNat 64 r.n } else y } ∧
        (∀ tid, b.team? tid = shut tid) ∧
        x.t = l.t ∧ x.src = r.src ∧ x.dst = r.dst ∧ x.n = r.n ∧ x.dslot = e.dslot ∧ x.moved = 0 ∧ x.gwct = 0 ∧
        t.sch.paths = [q] ∧ q.state = .parked (.gate s.clk.fresh) ∧ q.pc = g.pc ∧ q.id = p.id ∧ q.g = p.g ∧ q.mask = p.mask ∧
        q.scopes = p.scopes) ∧
    (∀ h, i = .syscall h →
      ∃ (b t : State) (xs : List Call) (q : Path), exec i s = .next t ∧ PathsOnly b t ∧
        b = { s with sch.teams := b.sch.teams, e.calls := s.e.calls ++ xs } ∧ (∀ tid, b.team? tid = shut tid) ∧
        xs.map (fun c => (c.t, c.service, c.arg, c.lbl, c.status)) = ls.map (fun l =>
          (l.t, BitVec.ofNat 32 (s.rd32 l.t f.lit f.b), BitVec.ofNat 64 (s.intVal l.t f.lit f.a 2 0 true), s.aluLbl is l, none)) ∧
        (∀ c ∈ xs, c.due = s.clk.tclk + parlourNs) ∧
        t.sch.paths = [q] ∧ q.state = .parked (.service s.clk.fresh) ∧ q.pc = g.pc ∧ q.id = p.id ∧ q.g = p.g ∧ q.mask = p.mask ∧
        q.scopes = p.scopes))

/-- Parlour commands that set grants (R362, R363, R364, R365, R370, R374, R376, R378, R383). SETCORE, SETMEM, SETSLICES,
SETS2, SETCTX, SETORR, SETFILTER, SAVEAREA and FABWIN change exactly the grant they name and answer the status of their
rule. -/
def Obligations.ParlourGrants : Prop := ∀ (s : State) (c : Cmd),
  (let core := c.arg0.toNat
   let v := c.arg1.toNat
   let fits := fun (f : Nat → Nat) (n : Nat) => s.limSum c.part core v f ≤ n
   s.permits c true = true → (∀ p ∈ s.sch.paths, p.state ≠ .parked .osb) →
    ((core < 1600 ∧ v < 2 ^ 33 ∧ limTslot v ≤ 32 ∧ limSlotu v ≤ 128 ∧ limPool v ≤ 32 ∧ limPlates v ≤ 32 ∧ limOsb v ≤ 64) →
      ((coreUnit core ∉ s.y.retired ∧ fits limTslot 32 ∧ fits limSlotu 128 ∧ fits limPool 32 ∧ fits limPlates 32 ∧ fits limOsb 64) →
        let u := s.setPart c.part fun p => { p with corelim := mset p.corelim core c.arg1 }
        let mine := s.m.l1.filter fun y => y.core = core && y.part = c.part
        ∃ l1, Ends s (.setcore c) c 0 { u with m.l1 := l1 } ∧ (∀ y ∈ l1, y ∈ s.m.l1) ∧
          (∀ y ∈ s.m.l1, y.pin.isSome = true ∨ y.core ≠ core ∨ y.part ≠ c.part → y ∈ l1) ∧
          (mine.length ≤ u.l1Cap c.part core → l1 = s.m.l1) ∧
          ((∀ y ∈ mine, y.pin = none) → (l1.filter fun y => y.core = core && y.part = c.part).length ≤ u.l1Cap c.part core)) ∧
      ((coreUnit core ∈ s.y.retired ∨ ¬ fits limTslot 32 ∨ ¬ fits limSlotu 128 ∨ ¬ fits limPool 32 ∨ ¬ fits limPlates 32 ∨
          ¬ fits limOsb 64) → Ends s (.setcore c) c 4 s)) ∧
    ((1600 ≤ core ∨ 2 ^ 33 ≤ v) → Ends s (.setcore c) c 2 s)) ∧
  (let hbm := bitsOf c.arg0.toNat 0 12
   let chans := bitsOf c.arg0.toNat 16 12
   let new : Part := { s.part c.part with hbm := hbm, chans := chans }
   s.permits c true = true → bitsOf c.arg0.toNat 12 4 = 0 → bitsOf c.arg0.toNat 28 4 = 0 →
    ((∃ kv ∈ s.gr.parts, kv.1 ≠ c.part ∧ (Nat.land kv.2.hbm hbm ≠ 0 ∨ Nat.land kv.2.chans chans ≠ 0)) →
      Ends s (.setmem c) c 4 s) ∧
    ((∀ kv ∈ s.gr.parts, kv.1 ≠ c.part → Nat.land kv.2.hbm hbm = 0 ∧ Nat.land kv.2.chans chans = 0) →
      ((∃ n ∈ s.framesOf c.part, new.ownsChan n = false) → Ends s (.setmem c) c 5 s) ∧
      ((∀ n ∈ s.framesOf c.part, new.ownsChan n = true) →
        Ends s (.setmem c) c 0 (s.setPart c.part fun p => { p with hbm := hbm, chans := chans })))) ∧
  (∀ bs, s.permits c true = true → s.hostBytes c.arg1 64 = some bs →
    let ss := (List.range 512).filter fun i => (leNat bs).testBit i
    (∀ kv ∈ s.gr.parts, kv.1 ≠ c.part → ∀ x ∈ kv.2.slices, x ∉ ss) →
    (∀ x ∈ ss, BitVec.ofNat 32 (0x20000000 + x) ∉ s.y.retired) → (∀ kv ∈ s.sch.teams, kv.2.part ≠ c.part) →
    ∃ l2, Ends s (.setslices c) c 0 ({ s with m.l2 := l2 }.setPart c.part fun p => { p with slices := ss }) ∧
      l2 = s.m.l2.map fun kv => (kv.1, kv.2.filter fun e => (s.frame (e.1 / 65536)).owner ≠ c.part)) ∧
  (s.permits c true = true →
    (c.arg1.toNat % 2 ^ 15 = 0 → c.arg1.toNat < 46137344 * 65536 →
      Ends s (.sets2 c) c 0 (s.setPart c.part fun p => { p with s2root := some c.arg1.toNat })) ∧
    (c.arg1.toNat % 2 ^ 15 ≠ 0 ∨ 46137344 * 65536 ≤ c.arg1.toNat → Ends s (.sets2 c) c 6 s)) ∧
  (s.permits c false = true → c.arg0.toNat < 16 →
    (c.arg1.toNat % 2 ^ 15 = 0 → c.arg1.toNat < 2 ^ 54 →
      ∃ b, Ends s (.setctx c) c 0 b ∧ b = { s with gr.parts := b.gr.parts } ∧ (∀ n, n ≠ c.part → b.part n = s.part n) ∧
        (∀ n, n ≠ c.arg0.toNat → b.ctx? c.part n = s.ctx? c.part n) ∧
        (b.ctx? c.part c.arg0.toNat).map (·.root) = some (if c.arg1.toNat = 0 then none else some c.arg1.toNat) ∧
        ∀ x, s.ctx? c.part c.arg0.toNat = some x →
          (b.ctx? c.part c.arg0.toNat).map (fun y => (y.code, y.stages, y.ttabs)) = some (x.code, x.stages, x.ttabs))) ∧
  (let v := c.arg1.toNat
   s.permits c false = true →
    (v < 2 ^ 23 → 1000 ≤ bitsOf v 0 20 → bitsOf v 0 20 ≤ 1000000 →
      Ends s (.setorr c) c 0 (s.setPart c.part fun p => { p with meth := bitsOf v 20 3, dl := bitsOf v 0 20 })) ∧
    (2 ^ 23 ≤ v ∨ bitsOf v 0 20 < 1000 ∨ 1000000 < bitsOf v 0 20 → Ends s (.setorr c) c 2 s)) ∧
  (let e := c.arg1.toNat
   s.permits c true = true → c.arg0.toNat < 256 → bitsOf e 60 3 = 0 → bitsOf e 16 16 = 0 → (bitsOf e 63 1 = 1 → bitsOf e 32 10 ≠ 0) →
    (Label.sub (BitVec.ofNat 16 e) (s.part (bitsOf e 52 4)).grant = true →
      Ends s (.setfilter c) c 0 { s with gr.boxes := mset s.gr.boxes c.arg0.toNat c.arg1 }) ∧
    (Label.sub (BitVec.ofNat 16 e) (s.part (bitsOf e 52 4)).grant = false → Ends s (.setfilter c) c 3 s)) ∧
  (s.permits c true = true → c.arg1.toNat % 65536 = 0 → c.arg1.toNat + c.arg2.toNat ≤ 2 ^ 57 →
    s.areaOk c.part c.arg1.toNat c.arg2.toNat = true →
    ((s.part c.part).saveUsed = [] → Ends s (.savearea c) c 0 (s.setPart c.part fun p =>
      { p with saveBase := c.arg1.toNat, saveSize := c.arg2.toNat })) ∧
    ((s.part c.part).saveUsed ≠ [] → Ends s (.savearea c) c 5 s)) ∧
  (∀ bs, s.permits c true = true → s.hostBytes c.arg1 48 = some bs →
    (c.arg0.toNat < 64 → winBad bs c.part = false →
      Ends s (.fabwin c) c 0 (s.setPart c.part fun p => { p with wins := mset p.wins c.arg0.toNat (winOf bs) })) ∧
    (64 ≤ c.arg0.toNat ∨ winBad bs c.part = true → Ends s (.fabwin c) c 2 s))

/-- Parlour commands that do work (R362, R366, R367, R368, R373, R375, R379). MAPFRAMES, RELFRAMES with its scrub, INVAL,
EVICT and KILLCTX do what their rules say to frames, memory, teams and contexts, and nothing else. -/
def Obligations.ParlourWork : Prop := ∀ (s : State) (c : Cmd),
  (let n := c.arg0.toNat
   let first := c.arg1.toNat
   let lbl : Label := BitVec.ofNat 16 c.arg2.toNat
   s.permits c true = true → c.arg2.toNat < 2 ^ 16 → first + n ≤ 46137344 → Label.sub lbl (s.part c.part).grant = true →
    (∀ i, i < n → (s.part c.part).ownsChan (first + i) = true ∧ (s.frame (first + i)).state = 0 ∧ s.inPool (first + i) = false) →
    ∃ b, Ends s (.mapframes c) c 0 b ∧ b = { s with m.frames := b.m.frames } ∧ ∀ x, b.frame x =
      if first ≤ x ∧ x < first + n then ⟨1, c.part, lbl⟩ else s.frame x) ∧
  (let n := c.arg0.toNat
   let first := c.arg1.toNat
   s.permits c true = true → first + n ≤ 46137344 →
    (∀ i, i < n → (s.frame (first + i)).state = 1 ∧ (s.frame (first + i)).owner = c.part ∧ first + i ∉ s.m.unspared) →
    ∃ b x, LeadsTo s (.relframes c) b ∧
      b = { s with clk.fresh := s.clk.fresh + 1, m.frames := b.m.frames, m.l1 := b.m.l1, m.l2 := b.m.l2, m.scrubs := s.m.scrubs ++ [x] } ∧
      (∀ f, b.frame f = if first ≤ f ∧ f < first + n then { s.frame f with state := 2 } else s.frame f) ∧
      x.frames = (List.range n).map (· + first) ∧ x.at_ = s.clk.tclk + 4000 ∧ x.fn = some c.fn ∧ x.bad = false ∧
      (∀ y, y ∈ b.m.l1 ↔ y ∈ s.m.l1 ∧ y.inFrames x.frames = false) ∧
      b.m.l2 = s.m.l2.map fun kv => (kv.1, kv.2.filter fun e => e.1 / 65536 ∉ x.frames)) ∧
  (∀ x, s.m.scrubs.find? (fun y => y.id = x.id) = some x →
    (s.clk.tclk.toNat < x.at_.toNat → LeadsTo s (.frameScrubComplete x.id) s) ∧
    (x.at_.toNat ≤ s.clk.tclk.toNat → (∀ kv ∈ s.h.fns, kv.2.resetting ≠ some x.id) → ∃ b,
      LeadsTo s (.frameScrubComplete x.id) (match x.fn with | some fn => b.mbDone fn (if x.bad then 6 else 0) | none => b) ∧
      b = { s with m.frames := b.m.frames, m.mem := b.m.mem, m.bad := b.m.bad, m.l1 := b.m.l1, m.scrubs := b.m.scrubs } ∧
      (∀ f, b.frame f = if f ∈ x.frames then {} else s.frame f) ∧
      (∀ a, Memory.wf s.m.mem = true → cget b.m.mem a = if a / 65536 ∈ x.frames then 0 else cget s.m.mem a) ∧
      (∀ y, y ∈ b.m.scrubs ↔ y ∈ s.m.scrubs ∧ y.id ≠ x.id))) ∧
  (s.permits c false = true → bitsOf c.arg0.toNat 4 4 = 0 → bitsOf c.arg0.toNat 9 23 = 0 →
    ∃ tlb, LeadsTo s (.inval c) { s with m.tlb := tlb, h.pwait := some (.inval c.fn c.part s.clk.fresh s.y.tag) } ∧
      let second := c.arg0.toNat.testBit 8
      let n := c.arg2.toNat
      ∀ e, e ∈ tlb ↔ e ∈ s.m.tlb ∧ ¬ (e.part = c.part ∧ (second = true ∨ e.ctx = bitsOf c.arg0.toNat 0 4) ∧
        (n = 0 ∨ (if second = true then e.gpa else e.va) < c.arg1.toNat + n ∧
          c.arg1.toNat < (if second = true then e.gpa else e.va) + 2 ^ e.log))) ∧
  (s.permits c true = true → (c.arg0.toNat < 1600 ∨ c.arg0.toNat = 0xFFFF) →
    let core := if c.arg0.toNat = 0xFFFF then none else some c.arg0.toNat
    (s.onCore c.part core = [] → LeadsTo s (.evict c) { s with h.pwait := some (PWait.evict c.fn c.part core) }) ∧
    LeadsTo s (.evict c) { ((s.onCore c.part core).foldl (fun u kv => u.preempt kv.1 true) s) with h.pwait := some (PWait.evict c.fn c.part core) }) ∧
  (s.permits c false = true → c.arg0.toNat < 16 → s.teamsOf c.part c.arg0.toNat = [] →
    (∀ kv ∈ s.gr.queues, kv.1.part = c.part → kv.1.ctx = c.arg0.toNat → kv.2.waiting = []) →
    ∃ b, Ends s (.killctx c) c 0 b ∧
      b = { s with gr.queues := b.gr.queues, gr.near := b.gr.near, gr.far := b.gr.far, gr.early := b.gr.early, gr.renqs := b.gr.renqs, gr.parts := b.gr.parts,
                   sch.runs := b.sch.runs, sch.completions := b.sch.completions } ∧
      (∀ k, b.queue? k = if k.part = c.part ∧ k.ctx = c.arg0.toNat then none else s.queue? k) ∧
      (∀ p n, b.ctx? p n = (s.ctx? p n).map fun x =>
        if p = c.part ∧ n = c.arg0.toNat then { x with code := [], stages := [], ttabs := [] } else x) ∧
      ∀ n r, (n, r) ∈ s.sch.runs → r.part = c.part → r.ctx = c.arg0.toNat → r.reported = false → (n, true) ∈ b.sch.completions)

/-- Attestation and firmware (R386, R389, R390, R404, R423, R424). GETREPORT, GETCERT, FWSTAGE, MEASLOG, ATTREQ and ATTRESP
write the report, certificate, image or log and answer their status; certificate, keys and image contents are configuration
that nothing evaluates (assumptions 11, 22). -/
def Obligations.Attestation : Prop := ∀ (s : State) (c : Cmd),
  (s.permits c false = true →
    (∀ nonce, s.hostBytes c.arg1 48 = some nonce →
      ((c.arg2.toNat + (s.attest nonce).length ≤ 2 ^ 64 →
          EndsCfg s (.getreport c) c 0 { s with m.host := csets s.m.host c.arg2.toNat (s.attest nonce) }) ∧
        (2 ^ 64 < c.arg2.toNat + (s.attest nonce).length → EndsCfg s (.getreport c) c 6 s))) ∧
    (c.arg3.toNat < Config.certificateChain.length → EndsCfg s (.getcert c) c 4 s) ∧
    (Config.certificateChain.length ≤ c.arg3.toNat → c.arg2.toNat + Config.certificateChain.length ≤ 2 ^ 64 →
      EndsCfg s (.getcert c) c 0 { s with m.host := csets s.m.host c.arg2.toNat Config.certificateChain })) ∧
  (∀ img, s.permits c true = true → s.hostBytes c.arg1 c.arg2.toNat = some img →
    ∃ code, EndsCfg s (.fwstage c) c code (match Config.imageKind img with
        | some k => if code = 0 then { s with
            y.images := mset s.y.images k (Config.imageVersion img, sha384 (Config.imageBody img))
            y.boot.fails := 0 } else s
        | none => s) ∧
      (code = 0 ↔ ∃ k, Config.imageKind img = some k ∧ k < 6 ∧
        ecdsaOk Config.rootKey (sha384 (Config.imageBody img)) (Config.imageSig img).1 (Config.imageSig img).2 = true) ∧
      (code = 7 ↔ ∃ k, Config.imageKind img = some k ∧ k < 6 ∧
        ecdsaOk Config.rootKey (sha384 (Config.imageBody img)) (Config.imageSig img).1 (Config.imageSig img).2 = false) ∧
      (code = 0 ∨ code = 2 ∨ code = 7)) ∧
  (s.permits c false = true → s.y.boot.minimal = false →
    (c.arg2.toNat < 48 → EndsCfg s (.measlog c) c 4 s) ∧
    (48 ≤ c.arg2.toNat → c.arg1.toNat + (s.measBytes c.arg2.toNat).length ≤ 2 ^ 64 →
      EndsCfg s (.measlog c) c 0 { s with m.host := csets s.m.host c.arg1.toNat (s.measBytes c.arg2.toNat) })) ∧
  (∀ h nonce, s.msgOk h = true → LeadsTo s (.attreq h nonce) (s.sendMsg 0x49 h.spart h.tpart h.sstation (s.attest nonce))) ∧
  (∀ h report, s.msgOk h = true → LeadsTo s (.attresp h report) { s with y.reports := s.y.reports ++ [(h.sstation, report)] })

/-- Label slots and release policies (R119, R391, R392, R393, R394). BINDSLOT, UNBINDSLOT, BINDFN, SETGRANT, POLINSTALL,
POLREVOKE and POLREAD change exactly the table they name, in the order of checks of assumption 37. -/
def Obligations.SlotsAndPolicies : Prop := ∀ (s : State) (c : Cmd), s.y.boot.minimal = false →
  let k := c.arg0.toNat
  let logged := fun (u : State) (e : MeasEntry) =>
    { u with
        y.meas := setAt u.y.meas e.reg fun m => sha384 (m ++ e.digest)
        y.measLog := if u.y.measLog.length < 4096 then u.y.measLog ++ [e] else u.y.measLog }
  (s.permits c true = true →
    (∀ bs q, s.hostBytes c.arg1 97 = some bs → keyOf bs = some q → k < 16 →
      (s.bound k = false → (∀ kv ∈ s.y.slots, kv.2 ≠ q) →
        EndsCfg s (.bindslot c) c 0 (logged { s with y.slots := mset s.y.slots k q } ⟨6, k, 0, sha384 bs⟩)) ∧
      (s.bound k = true ∨ (∃ kv ∈ s.y.slots, kv.2 = q) → EndsCfg s (.bindslot c) c 5 s)) ∧
    (k < 16 → (s.bound k = false → EndsCfg s (.unbindslot c) c 6 s) ∧
      (s.bound k = true → s.slotUsed k = true → EndsCfg s (.unbindslot c) c 5 s) ∧
      (s.bound k = true → s.slotUsed k = false → EndsCfg s (.unbindslot c) c 0 { s with y.slots := mdel s.y.slots k })) ∧
    (∀ fn, fn ≤ 16 → (k = fn + 4096 → EndsCfg s (.bindfn c) c 0 (s.setFn fn fun f => { f with slot := none })) ∧
      ∀ j, j < 16 → k = fn + 256 * j →
        (s.bound j = true → EndsCfg s (.bindfn c) c 0 (s.setFn fn fun f => { f with slot := some j })) ∧
        (s.bound j = false → EndsCfg s (.bindfn c) c 3 s)) ∧
    (k < 2 ^ 16 →
      (s.allBound (BitVec.ofNat 16 k) = false → EndsCfg s (.setgrant c) c 3 s) ∧
      (s.allBound (BitVec.ofNat 16 k) = true →
        ((∃ x ∈ s.grantUses c.part, Label.sub x (BitVec.ofNat 16 k) = false) → EndsCfg s (.setgrant c) c 5 s) ∧
        ((∀ x ∈ s.grantUses c.part, Label.sub x (BitVec.ofNat 16 k) = true) →
          EndsCfg s (.setgrant c) c 0 (s.setPart c.part fun p => { p with grant := BitVec.ofNat 16 k }))))) ∧
  (s.permits c false = true →
    (∀ bs, s.hostBytes c.arg1 (max 32 c.arg2.toNat) = some bs →
      c.arg2.toNat = 32 + 96 * popcount ((polLset bs).zeroExtend 64) → s.allBound (polLset bs) = true →
      s.bound (polDslot bs) = true →
      (s.polSigned bs = false → EndsCfg s (.polinstall c) c 7 s) ∧
      (s.polSigned bs = true → s.polBad bs = true → EndsCfg s (.polinstall c) c 2 s) ∧
      (s.polSigned bs = true → s.polBad bs = false → 64 ≤ s.y.policies.length → EndsCfg s (.polinstall c) c 4 s) ∧
      (s.polSigned bs = true → s.polBad bs = false → s.y.policies.length < 64 →
        EndsCfg s (.polinstall c) c 0 (logged { s with y.policies := s.y.policies ++ [polOf bs] } ⟨7, 0, polId bs, sha384 (bs.take 32)⟩))) ∧
    (∀ p, s.y.policies.find? (fun p => p.id = k) = some p →
      ((c.fn = 0 ∨ ∃ j, (s.fn c.fn).slot = some j ∧ p.lset.getLsbD j = true) →
        EndsCfg s (.polrevoke c) c 0 { s with y.policies := s.y.policies.filter fun x => x.id ≠ k }) ∧
      (c.fn ≠ 0 → (∀ j, (s.fn c.fn).slot = some j → p.lset.getLsbD j = false) → EndsCfg s (.polrevoke c) c 3 s) ∧
      (c.arg1.toNat + p.bytes.length + 8 ≤ 2 ^ 64 →
        EndsCfg s (.polread c) c 0 { s with m.host := csets s.m.host c.arg1.toNat (p.bytes ++ natLE 8 p.remain.toNat) })) ∧
    ((∀ p ∈ s.y.policies, p.id ≠ k) → k < 2 ^ 16 → EndsCfg s (.polrevoke c) c 6 s ∧ EndsCfg s (.polread c) c 6 s))

/-- Placement commands and their votes (R123, R124, R395, R396, R397). PLPOOL, MESHDEF, PLINSTALL and PLREMOVE on a mesh of
this station alone, and CPREP, CVOTE and CCOMMIT between stations, change the placement tables as their rules say. -/
def Obligations.PlacementCommands : Prop := ∀ (s : State) (c : Cmd), s.y.boot.minimal = false →
  let size := c.arg0.toNat
  let win := c.arg1.toNat
  let bytes := c.arg2.toNat
  (s.permits c true = true → 1 ≤ size → size ≤ 4096 → win % 2 ^ 21 = 0 → bytes % 2 ^ 21 = 0 →
    ((s.part c.part).places ≠ [] → EndsCfg s (.plpool c) c 5 s) ∧
    ((s.part c.part).places = [] → (s.part c.part).poolFrames = [] →
      ((s.framesOf c.part).length < bytes / 65536 → EndsCfg s (.plpool c) c 4 s) ∧
      (bytes / 65536 ≤ (s.framesOf c.part).length → (s.framesOf c.part).Nodup →
        (∀ f ∈ s.framesOf c.part, (s.frame f).state = 1) → Memory.wf s.m.mem = true → ∃ b fs,
        EndsCfg s (.plpool c) c 0 b ∧ b = { s with m := b.m, gr.parts := b.gr.parts } ∧
        fs.length = bytes / 65536 ∧ (∀ f ∈ fs, f ∈ s.framesOf c.part) ∧ (∀ f ∈ fs, ∀ g ∈ s.framesOf c.part, g ∉ fs → g < f) ∧
        b.part c.part = { s.part c.part with plSize := size, plwin := c.arg1, poolSize := bytes, poolFrames := fs } ∧
        (∀ p, p ≠ c.part → b.part p = s.part p) ∧ (∀ f, b.frame f = if f ∈ fs then {} else s.frame f) ∧
        (∀ a, cget b.m.mem a = if a / 65536 ∈ fs then 0 else cget s.m.mem a) ∧ b.m.host = s.m.host))) ∧
  (s.permits c false = true → s.y.preps = [] →
    (∀ head bs i m, s.hostBytes c.arg1 16 = some head → field head 0x0C 4 ≤ 1024 →
      s.hostBytes c.arg1 (16 + 2 * field head 0x0C 4) = some bs → meshOfBytes bs = some (i, m) → m.stations = [s.y.station] →
      (mget? s.gr.parts c.part).isSome = true →
      ((∃ kv ∈ (s.part c.part).places, kv.2.mesh = i) → EndsCfg s (.meshdef c) c 5 s) ∧
      ((∀ kv ∈ (s.part c.part).places, kv.2.mesh ≠ i) → EndsCfg s (.meshdef c) c 0
        ({ s with clk.fresh := s.clk.fresh + 1 }.setPart c.part fun p => { p with meshes := mset p.meshes i m }))) ∧
    (∀ bs e, s.hostBytes c.arg1 32 = some bs → s.votePlace c.part c.arg0 bs = (0, some e) →
      (s.meshOf c.part e).stations = [s.y.station] →
      let fs := s.poolSlice c.part e.base (s.shardSize c.part e e.state)
      ∃ b, EndsCfg s (.plinstall c) c 0 b ∧
        b = { s with clk.fresh := s.clk.fresh + 1, m.frames := b.m.frames, gr.parts := b.gr.parts } ∧
        (∀ f, b.frame f = if f ∈ fs then ⟨1, c.part, plLbl c.arg0⟩ else s.frame f) ∧
        (∀ p n, b.place? p n = if p = c.part ∧ n = plIdx c.arg0 then some { e with frames := fs } else s.place? p n)) ∧
    (∀ e, c.arg0.toNat < 4096 → s.place? c.part c.arg0.toNat = some e → (s.meshOf c.part e).stations = [s.y.station] →
      (e.busy = true → EndsCfg s (.plremove c) c 5 s) ∧
      (e.busy = false → ∃ b x, EndsCfg s (.plremove c) c 0 b ∧
        b = { s with clk.fresh := s.clk.fresh + 2, m.frames := b.m.frames, m.l1 := b.m.l1, m.l2 := b.m.l2,
                     m.scrubs := s.m.scrubs ++ [x], gr.parts := b.gr.parts } ∧
        x.frames = e.frames ∧ x.at_ = s.clk.tclk + 4000 ∧ x.fn = none ∧
        (∀ f, b.frame f = if f ∈ e.frames then { s.frame f with state := 2 } else s.frame f) ∧
        ∀ p n, b.place? p n = if p = c.part ∧ n = c.arg0.toNat then none else s.place? p n))) ∧
  (∀ h op cmd body arg0, s.msgOk h = true →
    let v := s.vote h.tpart op arg0 body
    let p : Prep := ⟨cmd, op, none, h.tpart, h.sstation, arg0, body, [], s.votedFrames h.tpart op arg0 body⟩
    (v = 0 → LeadsTo s (.cprep h op cmd body arg0) ((s.prepare p).sendMsg 0x39 h.tpart h.spart h.sstation (natLE 4 cmd.toNat ++ natLE 4 0))) ∧
    (v ≠ 0 → LeadsTo s (.cprep h op cmd body arg0) (s.sendMsg 0x39 h.tpart h.spart h.sstation (natLE 4 cmd.toNat ++ natLE 4 v)))) ∧
  (∀ h cmd status p, s.msgOk h = true → s.prep? s.y.station cmd = some p → h.sstation ∈ p.waiting →
    let others := (s.prepStations p).filter fun st => st ≠ s.y.station
    let left := p.waiting.filter fun st => st ≠ h.sstation
    (status ≠ 0 → LeadsTo s (.cvote h cmd status) (s.decidePrep p others status)) ∧
    (status = 0 → left = [] → LeadsTo s (.cvote h cmd status) (s.decidePrep p others 0)) ∧
    (status = 0 → left ≠ [] → ∃ t, LeadsTo s (.cvote h cmd status) t ∧ t = { s with y.preps := t.y.preps } ∧
      t.prep? s.y.station cmd = some { p with waiting := left })) ∧
  (∀ h cmd p, s.msgOk h = true → s.prep? h.sstation cmd = some p →
    let left : State := { s with y.preps := s.y.preps.filter fun x => !(x.id = p.id && x.origin = p.origin) }
    LeadsTo s (.ccommit h cmd true) (s.commitPrep p) ∧ LeadsTo s (.ccommit h cmd false) (s.abortPrep p) ∧
    (p.frames = [] → LeadsTo s (.ccommit h cmd false) left) ∧
    (∀ k m, p.op = 0x31 → meshOfBytes p.body = some (k, m) →
      LeadsTo s (.ccommit h cmd true) (left.setPart p.part fun x => { x with meshes := mset x.meshes k m })) ∧
    (∀ e, p.op = 0x32 → placeOfBytes p.body (plLbl p.arg0) = some e → LeadsTo s (.ccommit h cmd true)
      (left.setPart p.part fun x => { x with places := mset x.places (plIdx p.arg0) { e with frames := p.frames } })))

/-- Fabric ports (R398, R399, R400, R401, R404). FWDCFG, PORTRES, STATIONID, LINKUP and PORTQUERY, HELLO and CLOCK, and what
makes a port leave the active state, change ports, messages and requests as their rules say. -/
def Obligations.FabricPorts : Prop :=
  (∀ (s : State) (c : Cmd), s.y.boot.minimal = false →
    (let per := bitsOf c.arg2.toNat 0 13
     let phase := bitsOf c.arg2.toNat 16 13
     s.permits c true = true → c.arg1.toNat < 2 ^ 36 → c.arg2.toNat < 2 ^ 29 → bitsOf c.arg2.toNat 13 3 = 0 →
      (64 ≤ per → per ≤ 4096 → phase < per →
        EndsCfg s (.fwdcfg c) c 0 (s.setPart c.part fun p => { p with ports := c.arg1.toNat, fwdper := per, phase := phase })) ∧
      (per < 64 ∨ 4096 < per ∨ per ≤ phase → EndsCfg s (.fwdcfg c) c 2 s)) ∧
    (let port := c.arg0.toNat
     let n := c.arg1.toNat
     s.permits c true = true → port < 36 → n < 1024 →
      (768 < s.minSum c.part port n → EndsCfg s (.portres c) c 4 s) ∧
      (s.minSum c.part port n ≤ 768 →
        EndsCfg s (.portres c) c 0 (s.setPart c.part fun p => { p with rxmin := mset p.rxmin port n }))) ∧
    (s.permits c true = true → c.arg0.toNat < 1024 →
      ((∃ kv ∈ s.y.ports, kv.2.st = 4) → EndsCfg s (.stationid c) c 5 s) ∧
      ((∀ kv ∈ s.y.ports, kv.2.st ≠ 4) → EndsCfg s (.stationid c) c 0 { s with y.station := c.arg0.toNat })) ∧
    (s.permits c true = true → c.arg1.toNat < 2 ^ 36 → s.y.linkups = [] →
      ((∀ n, n < 36 → c.arg1.toNat.testBit n = true → (s.port n).needed = false) → EndsCfg s (.linkup c) c 0 s) ∧
      (∀ n, n < 36 → c.arg1.toNat = 2 ^ n → (s.port n).needed = true → (s.port n).early = none → ∃ t m, LeadsTo s (.linkup c) t ∧
        t = { s with y.ports := t.y.ports, y.msgs := s.y.msgs ++ [m], y.linkups := [(c.fn, 2 ^ n)] } ∧
        t.port n = { s.port n with st := 3, cause := 0, far := 0, major := 0, minor := 0 } ∧ (∀ k, k ≠ n → t.port k = s.port k) ∧
        m.typ = 0x01 ∧ m.port = some n ∧ m.body = natLE 4 s.y.station ++ natLE 4 0x01000100)) ∧
    (let bs := (List.range 36).flatMap fun n => natLE 8 (s.port n).status
     s.permits c false = true →
      (c.arg1.toNat + 288 ≤ 2 ^ 64 → EndsCfg s (.portquery c) c 0 { s with m.host := csets s.m.host c.arg1.toNat bs }) ∧
      (2 ^ 64 < c.arg1.toNat + 288 → EndsCfg s (.portquery c) c 6 s))) ∧
  (∀ (s : State),
    (∀ h port station range, h.rsvd = false → port < 36 → (s.port port).retired = false →
      let i := Instr.hello h port station range
      ((s.port port).st = 4 → LeadsTo s i s) ∧
      ((s.port port).st ≠ 3 → (s.port port).st ≠ 4 →
        LeadsTo s i (s.setPort port fun p => { p with early := some (station, range) })) ∧
      ((s.port port).st = 3 → s.y.linkups = [] →
        (station = s.y.station → LeadsTo s i (s.setPort port fun p => { p with st := 5, cause := 2 })) ∧
        (station ≠ s.y.station → commonVersion 0x01000100 range.toNat = none →
          LeadsTo s i (s.setPort port fun p => { p with st := 5, cause := 1 })) ∧
        (∀ v, station ≠ s.y.station → commonVersion 0x01000100 range.toNat = some v → ∃ t m, LeadsTo s i t ∧
          t = { s with y.ports := t.y.ports, y.msgs := s.y.msgs ++ [m] } ∧
          t.port port = { s.port port with major := v.1, minor := v.2, far := station, clk := 0, sents := [s.clk.tclk] } ∧
          (∀ k, k ≠ port → t.port k = s.port k) ∧ m.typ = 0x02 ∧ m.port = some port ∧ m.tstation = station ∧ m.body = natLE 8 0))) ∧
    (∀ h port prev, h.rsvd = false → (s.port port).retired = false → (s.port port).far = h.sstation → (s.port port).major ≠ 0 →
      h.minor ≤ (s.port port).minor →
      let i := Instr.clock h port prev
      let ok := clockOk (clockOffset ((s.port port).sentFor prev) prev h.time s.clk.tclk)
      (((s.port port).st = 3 ∨ (s.port port).st = 4) → prev = 0 →
        LeadsTo s i ((s.setPort port fun p => { p with clk := s.clk.tclk }).sendClock port)) ∧
      ((s.port port).st = 3 → prev ≠ 0 → s.y.linkups = [] →
        (ok = true → LeadsTo s i (s.setPort port fun p => { p with clk := s.clk.tclk, st := 4 })) ∧
        (ok = false → LeadsTo s i ((s.setPort port fun p => { p with clk := s.clk.tclk, sents := [] }).sendClock port))) ∧
      ((s.port port).st = 4 → prev ≠ 0 → s.y.linkups = [] → ok = true →
        LeadsTo s i (s.setPort port fun p => { p with clk := s.clk.tclk, sents := p.sents.drop (p.sents.length - 4) }))) ∧
    (∃ t, LeadsTo s .clockMessagePeriod t ∧ t = { s with y.ports := t.y.ports, y.msgs := t.y.msgs } ∧
      ∀ n, t.port n = if n < 36 ∧ s.clockDue n = true then { s.port n with sents := (s.port n).sents ++ [s.clk.tclk] } else s.port n) ∧
    (∀ port, (s.port port).st = 4 → (∀ r ∈ s.y.reqs, r.port ≠ port) → (∀ p ∈ s.y.preps, p.fn = none) →
      LeadsTo s (.portLeavesActive port) (s.setPort port fun p => { p with st := 0 })) ∧
    (∀ port o n rest, (s.port port).st = 4 → s.y.reqs = [o] → o.port = port → (∀ p ∈ s.y.preps, p.fn = none) →
      (s.setPort port fun p => { p with st := 0 }).portsTo o.station = n :: rest → o.reissued = false →
      LeadsTo s (.portLeavesActive port)
        { s.setPort port (fun p => { p with st := 0 }) with y.reqs := [{ o with port := n, reissued := true }] }) ∧
    (s.y.reqs = [] → (∀ p ∈ s.y.preps, p.fn = none) → ∃ t, LeadsTo s .clockOutOfBound t ∧
      t = { s with y.ports := t.y.ports, y.msgs := t.y.msgs } ∧
      ∀ n, t.port n = if n < 36 ∧ (s.port n).st = 4 then { s.port n with st := 3, sents := [s.clk.tclk] } else s.port n))

/-- Operator commands, clocks and heat (R407, R411, R414, R415, R418, R419). TELEMETRY, ERRLOG, SETTHERM and SURVEY answer
and change what their rules say; the clock window, the hot marks and the migration choice follow temperatures and power,
which is a free value (assumption 2). -/
def Obligations.OperatorCommands : Prop :=
  (∀ (s : State) (c : Cmd), s.permits c true = true → s.y.boot.minimal = false →
    (c.arg1.toNat + s.teleBytes.length ≤ 2 ^ 64 →
      EndsCfg s (.telemetry c) c 0 { s with m.host := csets s.m.host c.arg1.toNat s.teleBytes }) ∧
    (let es := (s.y.log.filter fun e => c.arg0.toNat ≤ e.seq.toNat).take (c.arg2.toNat / 32)
     let bs := es.flatMap ErrEntry.bytes
     c.arg1.toNat + bs.length ≤ 2 ^ 64 → EndsCfg s (.errlog c) c 0 { s with m.host := csets s.m.host c.arg1.toNat bs }) ∧
    (let cap := bitsOf c.arg0.toNat 0 16
     let mig := bitsOf c.arg0.toNat 16 8
     let res := c.arg1.toNat
     bitsOf c.arg0.toNat 24 8 = 0 →
      (1200 ≤ cap → cap ≤ 3600 → 70 ≤ mig → mig ≤ 105 → 500 ≤ res → res ≤ 60000 →
        ∃ b, EndsCfg s (.settherm c) c 0 b ∧
          b = { s with y.pwrcap := cap, y.tmig := mig, y.minres := res, y.hot := b.y.hot } ∧
          ∀ d, d ∈ b.y.hot ↔ (if 8 ≤ d then d ∈ s.y.hot else (mig : Int) ≤ s.y.tdie.getD d 0 ∨
            (d ∈ s.y.hot ∧ (mig : Int) - 5 < s.y.tdie.getD d 0))) ∧
      (cap < 1200 ∨ 3600 < cap ∨ mig < 70 ∨ 105 < mig ∨ res < 500 ∨ 60000 < res → EndsCfg s (.settherm c) c 2 s)) ∧
    (let u := c.arg0
     (unitKnown u = false → EndsCfg s (.survey c) c 2 s) ∧
     (unitKnown u = true → u ∈ s.y.retired → EndsCfg s (.survey c) c 5 s) ∧
     (unitKnown u = true → u ∉ s.y.retired → (∀ x ∈ s.y.surveys, x.unit ≠ u) →
       (unitKind u = 1 → ∀ kv ∈ s.sch.teams, kv.2.core ≠ unitIndex u ∧ kv.2.core2 ≠ some (unitIndex u)) →
       EndsCfg s (.survey c) c 0 { s with y.surveys := s.y.surveys ++ [⟨u, some (s.clk.tclk + 1000000), 0⟩] }))) ∧
  (∀ (s : State),
    (let P := Config.modulePower s.clk.free
     ∃ t, LeadsTo s .clockWindow t ∧
      t = { s with y.power := P, y.winAt := s.clk.tclk, clk.free := s.clk.free + 1, y.clock := t.y.clock, y.slow := t.y.slow,
                   y.log := t.y.log, y.logSeq := t.y.logSeq } ∧
      (∀ d, d < 8 → d < s.y.clock.length →
        let f := s.y.clock.getD d 1300
        let h := s.y.tdie.getD d 0
        t.y.clock.getD d 1300 = if s.y.pwrcap < P ∨ 105 < h then (if f ≤ 700 then f else f - 100)
          else if 100 * P < 95 * s.y.pwrcap ∧ h < 100 then min 1300 (f + 100) else f) ∧
      ∀ k, k ∈ t.y.slow ↔ k < 12 ∧ (95 < s.y.thbm.getD k 0 ∨ (k ∈ s.y.slow ∧ 90 < s.y.thbm.getD k 0))) ∧
    (∀ d temp,
      (8 ≤ d → d < 10 → LeadsTo s (.dieMarkedHot d temp) { s with y.tdie := s.y.tdie.set d temp }) ∧
      (10 ≤ d → LeadsTo s (.dieMarkedHot d temp) { s with y.thbm := s.y.thbm.set (d - 10) temp }) ∧
      (d < 8 → ∃ t, LeadsTo s (.dieMarkedHot d temp) t ∧ t = { s with y.tdie := s.y.tdie.set d temp, y.hot := t.y.hot } ∧
        ∀ k, k ∈ t.y.hot ↔ (k ≠ d ∧ k ∈ s.y.hot) ∨ (k = d ∧ ((s.y.tmig : Int) ≤ temp ∨ (d ∈ s.y.hot ∧ (s.y.tmig : Int) - 5 < temp))))) ∧
    (s.y.hot = [] → LeadsTo s .migrationChoice { s with y.migAt := s.clk.tclk }) ∧
    (∀ d tid t, s.y.hot = [d] → s.migrant d = some (tid, t) → LeadsTo s .migrationChoice
      (((({ s with y.migAt := s.clk.tclk }.setTeam tid fun t => { t with moving := true }).preempt tid true)).logEvent
        (coreUnit t.core).toNat 7 0 true 0 0)))

/-- Errors and surveys (R385, R407, R408, R409, R410, R411, R412, R413). Corrected and uncorrectable errors, their
threshold, and the outcomes of self-tests, row and slice surveys change counters, log, retired units and memory marks as
their rules say. -/
def Obligations.ErrorsAndSurveys : Prop := ∀ (s : State),
  let up := fun (k : Nat) (f : List Nat) => setAt f k fun n => min (n + 1) 0xFFFFFFFF
  let entry := fun (u event count addr : Nat) =>
    (⟨s.y.logSeq, BitVec.ofNat 32 u, s.clk.tclk, event, 0, true, count, BitVec.ofNat 64 addr⟩ : ErrEntry)
  let logged := fun (e : ErrEntry) => (s.y.log ++ [e]).drop ((s.y.log ++ [e]).length - 4096)
  let gone := fun (u : Word) => s.y.surveys.filter fun x => x.unit ≠ u
  (∀ u, unitKnown u = true → LeadsTo s (.correctedError u)
    { s with y.counts := (match correctedIndex u with | some k => up k s.y.counts | none => s.y.counts),
             y.perSec := mset s.y.perSec u (s.clk.tclk :: s.recent u) }) ∧
  (∀ u, (s.recent u).length ≤ 16 → LeadsTo s (.correctedErrorThreshold u) s) ∧
  (∀ u, 16 < (s.recent u).length → unitKnown u = true → unitKind u ≠ 1 → u ∉ s.y.retired → (∀ x ∈ s.y.surveys, x.unit ≠ u) →
    LeadsTo s (.correctedErrorThreshold u)
      { s with y.perSec := mdel s.y.perSec u, y.log := logged (entry u.toNat 1 (s.recent u).length 0), y.logSeq := s.y.logSeq + 1,
               y.surveys := s.y.surveys ++ [⟨u, some (s.clk.tclk + 1000000), 0⟩] }) ∧
  (∀ u addr, unitKnown u = true → unitKind u = 2 ∨ unitKind u = 3 ∨ unitKind u = 4 → u ∉ s.y.retired →
    (∀ x ∈ s.y.surveys, x.unit ≠ u) → ∃ t, LeadsTo s (.uncorrectableError u .nobody addr) t ∧
      t = { s with y.counts := up 5 s.y.counts, y.log := logged (entry u.toNat 2 0 (addr / 64 * 64)), y.logSeq := s.y.logSeq + 1,
                   m.bad := t.m.bad, h.fns := t.h.fns,
                   y.surveys := s.y.surveys ++ [⟨u, some (s.clk.tclk + 1000000), addr / 64 * 64⟩] } ∧
      (∀ x, x ∈ t.m.bad ↔ x ∈ s.m.bad ∨ x = addr / 64 * 64) ∧ t.fn 0 = { s.fn 0 with msix := (t.fn 0).msix } ∧
      ∀ n, n ≠ 0 → t.fn n = s.fn n) ∧
  (∀ u tid addr, unitKnown u = true → LeadsTo s (.uncorrectableError u (.team tid) addr)
    ((s.teamFault tid 0x18 u.toNat 0 addr 0).unitError u (s.partOfTeam tid) addr)) ∧
  (∀ core, (s.survey? (coreUnit core)).isSome = true → core < 1600 →
    LeadsTo s (.selfTestComplete core true)
      { s with y.surveys := gone (coreUnit core), y.counts := up 6 s.y.counts,
               y.log := logged (entry (coreUnit core).toNat 3 0 0), y.logSeq := s.y.logSeq + 1 } ∧
    ∃ t, LeadsTo s (.selfTestComplete core false) t ∧
      t = { s with y.surveys := gone (coreUnit core), y.counts := up 7 s.y.counts, h.fns := t.h.fns,
                   y.log := logged (entry (coreUnit core).toNat 4 0 0), y.logSeq := s.y.logSeq + 1,
                   y.retired := t.y.retired, gr.parts := t.gr.parts } ∧
      (∀ u, u ∈ t.y.retired ↔ u ∈ s.y.retired ∨ u = coreUnit core) ∧
      (∀ p k, t.corelim p k = if k = core then 0 else s.corelim p k)) ∧
  (∀ u x, s.survey? u = some x → unitKind u = 3 ∨ unitKind u = 4 → ∀ spare,
    LeadsTo s (.rowSurveyComplete u true spare)
      { s with y.surveys := gone u, y.counts := up 6 s.y.counts, y.log := logged (entry u.toNat 3 0 0), y.logSeq := s.y.logSeq + 1 } ∧
    ∃ t, LeadsTo s (.rowSurveyComplete u false spare) t ∧
      t = { s with y.surveys := gone u, y.counts := up 7 s.y.counts, h.fns := t.h.fns,
                   y.log := logged (entry u.toNat (if spare then 5 else 6) 0 x.addr), y.logSeq := s.y.logSeq + 1,
                   y.spares := (if spare then s.y.spares + 1 else s.y.spares), m.unspared := t.m.unspared } ∧
      ∀ f, f ∈ t.m.unspared ↔ f ∈ s.m.unspared ∨ (f = rowFrame u ∧ spare = false)) ∧
  (∀ k, k < 512 → (s.survey? (sliceUnit k)).isSome = true →
    LeadsTo s (.sliceSurveyComplete k true)
      { s with y.surveys := gone (sliceUnit k), y.counts := up 6 s.y.counts, y.log := logged (entry (sliceUnit k).toNat 3 0 0),
               y.logSeq := s.y.logSeq + 1 } ∧
    ((s.gr.parts.map (·.1)).Nodup → (∀ kv ∈ s.gr.parts, kv.2.slices ≠ [k]) → (∀ kv ∈ s.gr.parts, kv.2.slices.Nodup) →
      ∃ t, LeadsTo s (.sliceSurveyComplete k false) t ∧
      t = { s with y.surveys := gone (sliceUnit k), y.counts := up 7 s.y.counts, h.fns := t.h.fns,
                   y.log := logged (entry (sliceUnit k).toNat 4 0 0), y.logSeq := s.y.logSeq + 1,
                   y.retired := t.y.retired, gr.parts := t.gr.parts, m.l2 := t.m.l2 } ∧
      sliceUnit k ∈ t.y.retired ∧ ∀ p, t.part p = if k ∈ (s.part p).slices then
        { s.part p with slices := (s.part p).slices.filter (· ≠ k), llFloor := s.clk.tclk + 4000 } else s.part p))

/-- Boot stages and module resets (R387, R388, R390, R417). Power loss, thermal shutdown and the start of boot reset
everything but host memory and non-volatile state; each boot stage takes its measurements and bound, and stage 4 leaves
memory empty and the tables clear. -/
def Obligations.BootAndReset : Prop := ∀ (s : State),
  let kept := fun (t : State) => t.r = State.reset.r ∧ t.sch = State.reset.sch ∧ t.gr = State.reset.gr ∧ t.e = State.reset.e ∧
    t.m = { State.reset.m with host := s.m.host, unspared := s.m.unspared } ∧ t.h = { State.reset.h with replies := s.h.replies } ∧
    t.clk = { s.clk with cycle := 0, cur := none, todo := [] } ∧ t.y.images = s.y.images ∧ t.y.retired = s.y.retired ∧
    t.y.spares = s.y.spares ∧ t.y.slots = [] ∧ t.y.policies = [] ∧ t.y.meas = State.reset.y.meas
  let why := if s.y.boot.starting then 6 else s.y.boot.reason
  (∃ t, LeadsTo s .powerLoss t ∧ kept t ∧ t.y.log = s.y.log ∧ t.y.boot = { State.reset.y.boot with fails := s.y.boot.fails, reason := why }) ∧
  (∀ u, ∃ t, LeadsTo s (.thermalShutdown u) t ∧ kept t ∧ t.y.boot = { State.reset.y.boot with
      fails := if s.y.boot.starting then s.y.boot.fails - 1 else s.y.boot.fails, reason := s.y.boot.reason } ∧
    ∃ e, e ∈ t.y.log ∧ e.unit = u ∧ e.event = 9 ∧ e.time = s.clk.tclk) ∧
  (∃ t, LeadsTo s .bootStart t ∧ kept t ∧ t.y.log = s.y.log ∧
    (s.y.boot.fails < 3 → t.y.boot = { State.reset.y.boot with
      fails := s.y.boot.fails + 1, reason := why, starting := true, bound := s.clk.tclk + 50000000 }) ∧
    (3 ≤ s.y.boot.fails → t.y.boot = { State.reset.y.boot with fails := s.y.boot.fails, reason := why, minimal := true })) ∧
  (∀ n, s.y.boot.starting = true → 1 ≤ n → n ≤ 5 →
    LeadsTo s (.bootStageTimeout n) { s with y.boot := { s.y.boot with starting := false, failed := true, reason := n } }) ∧
  (s.y.boot.starting = true → s.y.boot.bound.toNat < s.clk.tclk.toNat →
    LeadsTo s .bootStageComplete { s with y.boot := { s.y.boot with starting := false, failed := true, reason := 3 } }) ∧
  (s.y.boot.starting = true → s.clk.tclk.toNat ≤ s.y.boot.bound.toNat → ∃ t, LeadsTo s .bootStageComplete t ∧
    (s.y.boot.stage = 0 → t = { s with y := t.y } ∧
      t.y.boot = { s.y.boot with stage := 1, bound := s.clk.tclk + 200000000 } ∧
      t.y.meas = setAt s.y.meas 0 (fun m => sha384 (m ++ ((mget? s.y.images 0).getD (Config.factoryVersion 0, Config.factoryDigest 0)).2))) ∧
    (s.y.boot.stage = 1 → t = { s with y := t.y } ∧ t.y.boot = { s.y.boot with stage := 2, bound := s.clk.tclk + 2000000000 } ∧
      ∀ k, k < 8 → k < s.y.meas.length → t.y.meas.getD k [] = if 1 ≤ k ∧ k ≤ 5 then
        sha384 (s.y.meas.getD k [] ++ ((mget? s.y.images k).getD (Config.factoryVersion k, Config.factoryDigest k)).2) else s.y.meas.getD k []) ∧
    (s.y.boot.stage = 2 → t = { s with y.boot := { s.y.boot with stage := 3, bound := s.clk.tclk + 100000000 } }) ∧
    (s.y.boot.stage = 3 → t.y.boot = { s.y.boot with stage := 4, starting := false, fails := 0 } ∧ t.m.mem = [] ∧ t.m.frames = [] ∧
      t.y.slots = [] ∧ t.y.policies = [] ∧ t.r = s.r ∧ t.sch = s.sch ∧ t.e = s.e ∧ t.h = s.h ∧ ∀ p n, t.place? p n = none))

/-- Registers of the host interface (R87, R352, R355, R360, R362, R371, R384, R386). Each register of a function takes the
bits that its table lets it take, and a doorbell hands the command of its block over. -/
def Obligations.HostRegisters : Prop := ∀ (s : State) (fn : Nat),
  (s.fnUp fn = true →
    (∀ val, LeadsTo s (.hifdrvWrite fn val) (s.setFn fn fun f => { f with
        hifdrv := val
        hifsel := match commonVersion 0x01000100 val.toNat with
          | some v => BitVec.ofNat 32 (v.1 * 2 ^ 24 + v.2 * 2 ^ 16)
          | none => 0 })) ∧
    (∀ val, let n := 2 ^ (if fn = 0 then 40 else (s.fn fn).barLog)
      LeadsTo s (.apbaseWrite fn val) (s.setFn fn fun f => { f with apbase := BitVec.ofNat 64 (val.toNat / n * n) })) ∧
    (∀ val p, s.partOfFn fn = some p →
      LeadsTo s (.leasecfgWrite fn val) (s.setPart p fun x => { x with lease := max 64 (min 4000 (val.toNat % 8192)) })) ∧
    LeadsTo s (.fqlostClear fn 0) (s.setFn fn fun f => { f with lost := 0 }) ∧
    (∀ val, val ≠ 0 → LeadsTo s (.fqlostClear fn val) s) ∧
    (∀ val : DWord,
      LeadsTo s (.registerWrite fn 0x1000 8 val) (s.setFn fn fun f => { f with fqbase := val &&& 0xFFFFFFFFFFFFF000 }) ∧
      LeadsTo s (.registerWrite fn 0x1008 4 val) (s.setFn fn fun f => { f with fqlog := max 6 (min 16 (val.toNat % 32)) }) ∧
      LeadsTo s (.registerWrite fn 0x1010 4 val) (s.setFn fn fun f => { f with head := BitVec.ofNat 32 val.toNat }) ∧
      LeadsTo s (.registerWrite fn 0x1028 4 val) (s.setFn fn fun f => { f with ftmo := max 1 (min 1000 (val.toNat % 1024)) }) ∧
      LeadsTo s (.registerWrite fn 0x0000 4 val) s ∧ LeadsTo s (.registerWrite fn 0x1014 4 val) s ∧
      LeadsTo s (.registerWrite fn 0x1148 4 val) s ∧
      (∀ k, k < 8 → (s.fn fn).mbbusy = false → LeadsTo s (.registerWrite fn (0x1100 + 8 * k) 8 val)
        (s.setFn fn fun f => { f with mbcmd := blockWrite f.mbcmd (8 * k) 8 val })) ∧
      (∀ c i, val.toNat.testBit 0 = true → (s.fn fn).mbbusy = false → c = cmdOf fn (blockBytes (s.fn fn).mbcmd) →
        parlourOp (opOf (blockBytes (s.fn fn).mbcmd)) c = some i → LeadsTo s (.registerWrite fn 0x1140 4 val)
          { s.setFn fn (fun f => { f with mbbusy := true }) with h.parlourQ := s.h.parlourQ ++ [i] }) ∧
      (∀ c i, val.toNat.testBit 0 = true → (s.fn fn).cfgbusy = false → c = cmdOf fn (blockBytes (s.fn fn).cfgcmd) →
        configOp (opOf (blockBytes (s.fn fn).cfgcmd)) c = some i → LeadsTo s (.registerWrite fn 0x1240 4 val)
          { s.setFn fn (fun f => { f with cfgbusy := true }) with h.cfgQ := s.h.cfgQ ++ [i] }))) ∧
  (∀ val : DWord, val.toNat.testBit 63 = true →
    LeadsTo s (.lerrClear fn val) (s.setFn fn fun f => { f with lerr := BitVec.ofNat 64 (f.lerr.toNat % 2 ^ 63) })) ∧
  (s.hostOpen = true →
    (∀ vf val, 1 ≤ vf → vf ≤ 16 →
      LeadsTo s (.vfctlWrite vf val) (s.setFn vf fun f => { f with vfctl := s.barSize vf (val.toNat % 256) }) ∧
      30 ≤ s.barSize vf (val.toNat % 256) ∧ s.barSize vf (val.toNat % 256) ≤ 40 ∧
      (2 ^ 30 ≤ s.grantBytes (vfPart vf) → 2 ^ s.barSize vf (val.toNat % 256) ≤ s.grantBytes (vfPart vf))) ∧
    (∃ t, LeadsTo s .vfEnableSet t ∧ t = { s with h.fns := t.h.fns } ∧ ∀ n, t.fn n =
      if 1 ≤ n ∧ n ≤ 16 ∧ (s.fn n).enabled = false then
        { s.fn n with enabled := true, part := some (n - 1), barLog := s.barSize n (s.fn n).vfctl }
      else s.fn n))

/-- Function resets and host accesses (R117, R351, R352, R359, R366, R368). A function reset clears the function and its
partition and scrubs its frames; a host access to memory that its function owns and may see is served, every other one
refused and reported. -/
def Obligations.HostFunctions : Prop :=
  (∀ (s : State) (vf part : Nat), vf ≠ 0 → (s.fn vf).part = some part →
    (∀ kv ∈ s.sch.teams, kv.2.part ≠ part) →
    let was := s.fn vf
    let stations := s.namedStations part
    ∃ t x, LeadsTo s (.vfFlr vf) t ∧
      t.fn vf = { ({} : Fn) with vfctl := was.vfctl, barLog := was.barLog, enabled := was.enabled, part := was.part, slot := was.slot,
                                 resetting := some s.clk.fresh } ∧
      (∀ n, n ≠ vf → t.fn n = s.fn n) ∧
      (∀ k, t.queue? k = if k.part = part then none else s.queue? k) ∧
      (∀ f, f ∈ s.framesOf part → (t.frame f).state = 2) ∧ (∀ f, f ∉ s.framesOf part → t.frame f = s.frame f) ∧
      t.m.scrubs = s.m.scrubs ++ [x] ∧ x.id = s.clk.fresh ∧ x.frames = s.framesOf part ∧ x.at_ = s.clk.tclk + 4000 ∧
      t.part part = { s.part part with ctxs := [], saveUsed := [], plSize := 0, poolSize := 0, poolFrames := [], places := [], mean := [],
                                       lease := 500 } ∧
      (∀ p, p ≠ part → t.part p = s.part p) ∧
      t.y.msgs = s.y.msgs ++ stations.map (fun st =>
        { typ := 0x40, tpart := part, spart := part, tstation := st, time := s.clk.tclk, body := natLE 8 part }) ∧
      (∀ tid, t.team? tid = s.team? tid) ∧ t.r = s.r ∧ t.m.mem = s.m.mem ∧ t.e = s.e ∧ t.sch.paths = s.sch.paths ∧
    ((∀ n, 1 ≤ n → n ≤ 16 → (s.fn n).enabled = false) → LeadsTo s .vfEnableClear s) ∧
    ((∀ n, 1 ≤ n → n ≤ 16 → n ≠ vf → (s.fn n).enabled = false) → vf ≤ 16 → was.enabled = true →
      ∃ u, LeadsTo s .vfEnableClear u ∧ u.fn vf = { t.fn vf with enabled := false, part := none } ∧
        u = { t with h.fns := u.h.fns } ∧ ∀ n, n ≠ vf → u.fn n = s.fn n)) ∧
  (∀ (s : State) (cxl : Bool) (fn pa : Nat) (a : HostAccess) (i : Instr),
    i = (if cxl = true then .cxlMemAccess fn a else .bar4Access fn a) → s.fnUp fn = true →
    (cxl = false → a.off + a.len ≤ 2 ^ s.barLogOf fn) → s.hostTarget cxl fn a = some pa →
    let f := s.frame (pa / 65536)
    let owned := s.hostOwns fn pa = true ∧ s.hostOwns fn (pa + (a.len - 1)) = true ∧ pa / 65536 = (pa + (a.len - 1)) / 65536
    (¬ owned → LeadsTo s i (s.hostRefuse fn a fn ((s.partOfFn fn).getD 0) (s.hostAddr cxl fn a))) ∧
    (owned → s.h.refused = [] → (∀ x ∈ s.m.l1, x.pin = none) →
      (a.write = false → s.egressOk fn f.lbl = true → s.eccBad (.mem pa) a.len = false →
        LeadsTo s i { s with h.replies := s.h.replies ++ [⟨fn, a.tag, some (creads s.m.mem pa a.len)⟩] }) ∧
      (a.write = false → s.egressOk fn f.lbl = false → LeadsTo s i (s.hostRefuse fn a (s.fnOf f.owner) f.owner (s.hostAddr cxl fn a))) ∧
      (a.write = true → (Label.sub (s.fnLbl fn) f.lbl = false ∨ s.roShard (.mem pa) = true) →
        LeadsTo s i (s.hostRefuse fn a (s.fnOf f.owner) f.owner (s.hostAddr cxl fn a))) ∧
      (a.write = true → Label.sub (s.fnLbl fn) f.lbl = true → s.roShard (.mem pa) = false → s.eccPartial (.mem pa) a.len = false →
        a.data.length = a.len → Memory.wf s.m.mem = true →
        ∃ t, LeadsTo s i t ∧ t = { s with m.mem := t.m.mem, m.bad := t.m.bad } ∧ Memory.wf t.m.mem = true ∧
          ∀ x, cget t.m.mem x = if pa ≤ x ∧ x < pa + a.len then a.data.getD (x - pa) 0 else cget s.m.mem x)))

/-- Launch packets and gangs (R73, R316, R353, R354, R355, R356, R358). Notifies, slot writes, sealed-word timeouts and peer
notifies act on their slot as the order of checks says; gangs gather answers, abort at their deadline and are forgotten
after their retention. -/
def Obligations.HostLaunches : Prop :=
  (∀ (s : State),
    (∀ fn seq slot, s.fnUp fn = true → 1 ≤ seq → seq < 2 ^ 32 → slot < 64 →
      let i := Instr.notifyWrite fn 8 (BitVec.ofNat 64 (seq * 2 ^ 32 + slot))
      let k : SlotKey := ⟨false, fn, slot⟩
      let err := fun (slot cause : Nat) => s.setFn fn fun f => { f with
        lerr := BitVec.ofNat 64 (2 ^ 63 + slot * 2 ^ 40 + cause * 2 ^ 32) }
      ((s.fn fn).hifsel = 0 → LeadsTo s i (err 0 7)) ∧
      ((s.fn fn).hifsel ≠ 0 →
        ((s.slot k).busy = true → LeadsTo s i (err slot 2)) ∧
        ((s.slot k).busy = false → (s.slot k).last = some (BitVec.ofNat 32 seq) → LeadsTo s i (err slot 3)) ∧
        ((s.slot k).busy = false → (s.slot k).last ≠ some (BitVec.ofNat 32 seq) → (s.slot k).sealWord ≠ BitVec.ofNat 32 seq →
          LeadsTo s i (s.setSlot k fun x => { x with
            busy := true, wait := some (BitVec.ofNat 32 seq, s.clk.tclk + 10000), src := none, adm := none })) ∧
        ((s.slot k).busy = false → (s.slot k).last ≠ some (BitVec.ofNat 32 seq) → (s.slot k).sealWord = BitVec.ofNat 32 seq →
          LeadsTo s i ((s.setSlot k fun x => { x with
            busy := true, wait := some (BitVec.ofNat 32 seq, s.clk.tclk + 10000), src := none, adm := none }).takePacket k (BitVec.ofNat 32 seq))))) ∧
    (∀ fn slot off data, s.fnUp fn = true → slot < 64 → off + data.length ≤ 128 → (s.slot ⟨false, fn, slot⟩).wait = none →
      ∃ t, LeadsTo s (.launchSlotWrite fn slot off data) t ∧ t = { s with h.slots := t.h.slots } ∧
        (∀ k, k ≠ ⟨false, fn, slot⟩ → t.slot k = s.slot k) ∧
        t.slot ⟨false, fn, slot⟩ = { s.slot ⟨false, fn, slot⟩ with
          bytes := (t.slot ⟨false, fn, slot⟩).bytes, lbls := (t.slot ⟨false, fn, slot⟩).lbls } ∧
        ∀ n, n < 128 → (t.slot ⟨false, fn, slot⟩).packet.getD n 0 =
          if off ≤ n ∧ n < off + data.length then data.getD (n - off) 0 else (s.slot ⟨false, fn, slot⟩).packet.getD n 0) ∧
    (∀ k seq at_, k.peer = false → k.slot < 64 → (s.slot k).wait = some (seq, at_) →
      (s.clk.tclk.toNat < at_.toNat → LeadsTo s (.sealWaitTimeout k) s) ∧
      (at_.toNat ≤ s.clk.tclk.toNat → ∃ t, LeadsTo s (.sealWaitTimeout k) t ∧ t = { s with h.slots := t.h.slots, h.fns := t.h.fns } ∧
        t.slot k = { s.slot k with busy := false, wait := none, src := none, adm := none } ∧ (∀ j, j ≠ k → t.slot j = s.slot j) ∧
        (let lerr := BitVec.ofNat 64 (2 ^ 63 + k.slot * 2 ^ 40 + 4 * 2 ^ 32 + (s.slot k).sealWord.toNat)
         t.fn k.owner = { s.fn k.owner with msix := 0 :: (s.fn k.owner).msix, lerr := lerr }) ∧ ∀ n, n ≠ k.owner → t.fn n = s.fn n)) ∧
    (∀ h (seq : Word) slot e, s.msgOk h = true → s.aclEntry h.tpart h.spart h.sstation = some e →
      let i := Instr.notifyMsg h seq slot
      let k : SlotKey := ⟨true, h.tpart, slot⟩
      let no := fun (cause : Nat) => s.sendMsg 0x11 h.spart h.tpart h.sstation (natLE 4 cause ++ natLE 4 seq.toNat)
      (aclLaunch e = false → LeadsTo s i (no 8)) ∧
      (aclLaunch e = true → seq = 0 ∨ 64 ≤ slot → LeadsTo s i (no 1)) ∧
      (aclLaunch e = true → seq ≠ 0 → slot < 64 →
        ((s.slot k).busy = true → LeadsTo s i (no 2)) ∧
        ((s.slot k).busy = false → (s.slot k).last = some seq → LeadsTo s i (no 3)) ∧
        ((s.slot k).busy = false → (s.slot k).last ≠ some seq → (s.slot k).sealWord ≠ seq →
          LeadsTo s i (s.setSlot k fun x => { x with
            busy := true, wait := some (seq, s.clk.tclk + 10000), src := some (h.sstation, h.spart), adm := some (aclMax e) })))) ∧
    (∀ k p q, s.nextEntry k = some p → s.entryDue p = true → s.queue? k = some q → LeadsTo s (.launchRecordAccept k) (s.acceptEntry k p) ∧
      (q.waiting = [] → q.fits 0 1 = true → q.accepted ≤ s.clk.cycle → p.lr.gang = none → (∀ c ∈ s.sch.lcopies, c.1.tid ≠ p.tid) →
        let n := bitsOf (leNat (p.lr.bytes.take 4)) 0 13
        ∃ u r, LeadsTo s (.launchRecordAccept k) u ∧
          u = { s with clk.fresh := s.clk.fresh + 1, sch.runs := mset s.sch.runs s.clk.fresh r, gr.queues := u.gr.queues,
                       sch.pendL := s.sch.pendL.filter fun x => !(x.tid = p.tid && x.entry = p.entry) } ∧
          r.part = k.part ∧ r.ctx = k.ctx ∧ r.stage = k.idx ∧ r.total = some n ∧ r.ended = 0 ∧ r.reported = false ∧
          u.queue? k = some (Queue.startRefill { (q.put 0 ⟨q.next, ⟨p.lr.bytes, p.lr.lbl, p.lr.mark⟩, s.clk.tclk,
            some { p.lr with run := s.clk.fresh }, n⟩).startRefill s.clk.cycle with accepted := s.clk.cycle + 1 } s.clk.cycle) ∧
          ∀ j, j ≠ k → u.queue? j = s.queue? j)) ∧
    (∀ k q, s.nextEntry k = none → s.queue? k = some q → q.waiting = [] → LeadsTo s (.launchRecordAccept k) s)) ∧
  (∀ (s : State),
    (∀ h (gang : Word) (deadline : DWord) g, s.msgOk h = true → s.gang? s.y.station gang = some g → g.aborted = false →
      (s.clk.tclk.toNat ≤ g.deadline.toNat → ∃ t, LeadsTo s (.gack h gang deadline) t ∧ t = { s with y.gangs := t.y.gangs } ∧
        (t.gang? s.y.station gang) = some { g with acked := (((t.gang? s.y.station gang).map (·.acked)).getD []) } ∧
        ∀ x, x ∈ ((t.gang? s.y.station gang).map (·.acked)).getD [] ↔ x ∈ g.acked ∨ x = h.sstation) ∧
      (g.deadline.toNat < s.clk.tclk.toNat → LeadsTo s (.gack h gang deadline) s)) ∧
    (∀ h (gang : Word) g, s.msgOk h = true → s.gang? h.sstation gang = some g → ∃ t, LeadsTo s (.gabort h gang) t ∧
      t = (s.setGang h.sstation gang fun g => { g with aborted := true }).abortHere h.sstation gang [] ∧
      (t.gang? h.sstation gang) = some { g with aborted := true } ∧
      (∀ kv, kv ∈ t.sch.teams ↔ kv ∈ s.sch.teams ∧ ∀ x ∈ s.sch.teams, x.1 = kv.1 → ofGang h.sstation gang x.2.gang = false) ∧
      ∀ kv ∈ t.gr.queues, ∀ ring ∈ kv.2.rings ++ kv.2.cellars, ∀ x ∈ ring, ∀ lr, x.launch = some lr →
        ofGang h.sstation gang lr.gang = false) ∧
    (∀ g, s.y.gangs.find? (fun x => x.id = g.id && s.gangDue x) = some g →
      (g.accepted = true → (∀ m ∈ g.members, m ∈ g.acked) →
        LeadsTo s (.gangDeadline g.id.toNat) (s.setGang g.origin g.id fun g => { g with held := true })) ∧
      (g.accepted = true → (∃ m ∈ g.members, m ∉ g.acked) → LeadsTo s (.gangDeadline g.id.toNat)
        (((g.members.filter fun m => m ≠ s.y.station).foldl (fun u m => u.sendMsg 0x29 g.part g.part m (natLE 8 g.id.toNat))
          (s.setGang g.origin g.id fun g => { g with aborted := true })).abortHere g.origin g.id
            (g.members.filter fun m => !g.acked.contains m)))) ∧
    (∀ gang, LeadsTo s (.gangIdRetentionExpiry gang)
      { s with y.gangs := s.y.gangs.filter fun g => !(g.id.toNat = gang && g.keep.toNat ≤ s.clk.tclk.toNat) }))

/-- Accesses perform and resolvable faults settle (R86, R88, R89, R97, R100, R290, R371). An access performs at its
coherence point with the old bytes returned and exactly its bytes written, responses write their registers, leases expire,
pinned retries end; a resolvable report is reissued, ended or reflected. -/
def Obligations.AccessesPerform : Prop :=
  (∀ (s : State),
    (∀ (r : Req) (a : Acc) (p : Nat) (i : Instr),
      (i = .coherencePointAccess r.id ∨ i = .pinnedRetry r.id ∧ a.refused.isSome = true) → s.m.reqs = [r] → r.accs = [a] → (∀ n, r.kind ≠ .decdep n) → r.kind ≠ .lease → r.kind ≠ .pref →
      (r.kind = .load → r.nl = true) → a.done = false → a.at_ ≤ s.clk.cycle → a.retryAt.toNat ≤ s.clk.tclk.toNat → a.loc = .mem p → (∀ x ∈ s.m.l1, x.pin = none) →
      s.owned r.part (.mem p) = true → s.roShard (.mem p) = false → s.eccBad (.mem p) a.len = false → s.wantsPin r a = false →
      (∀ x ∈ s.sch.paths, x.atCounter = false) → Memory.wf s.m.mem = true →
      let old := creads s.m.mem p a.len
      let g := if r.kind = .load then 0 else s.gwct (.mem p)
      ∃ t, LeadsTo s i t ∧ t = { s with m.mem := t.m.mem, m.bad := t.m.bad, m.reqs := t.m.reqs } ∧
        t.m.reqs = [{ r with
          accs := [{ a with done := true, old := old, gwct := g, rlbl := (s.frame (p / 65536)).lbl, back := s.clk.cycle + a.trip }]
          back := true
          due := s.clk.cycle + max 1 a.trip }] ∧
        Memory.wf t.m.mem = true ∧ ∀ x, cget t.m.mem x = match r.kind.write a old with
          | some bs => if p ≤ x ∧ x < p + bs.length then bs.getD (x - p) 0 else cget s.m.mem x
          | none => cget s.m.mem x) ∧
    (∀ (r : Req) (a : Acc) (n : Nat), s.req? r.id = some r → r.accs = [a] → r.kind = .load → r.dst = [.v n] → r.sz = 0 →
      (s.team? a.t.tid).isSome = true → (s.thr a.t).live = true →
      ∃ t, LeadsTo s (.memoryResponse r.id) t ∧ t.m = { s.m with reqs := s.m.reqs.filter fun q => q.id ≠ r.id } ∧
        (∀ x k, t.vGet x k = if x = a.t ∧ k = n then BitVec.ofNat 32 (leNat a.old) else s.vGet x k) ∧ t.r.s = s.r.s ∧ t.r.m = s.r.m ∧
        t.tileLbl a.t.g (.v n) = (if a.t.g ∈ r.cover then a.lbl ||| a.rlbl else s.tileLbl a.t.g (.v n) ||| (a.lbl ||| a.rlbl)) ∧
        (∀ x, (t.thr x).bare = (s.thr x).bare) ∧ t.sch.teams = s.sch.teams ∧ t.e = s.e ∧ t.gr = s.gr ∧ t.h = s.h ∧ t.y = s.y ∧
        t.clk = s.clk) ∧
    (∀ core line, ∃ t, LeadsTo s (.leaseExpiry core line) t ∧ t = { s with m.l1 := t.m.l1 } ∧ ∀ x, x ∈ t.m.l1 ↔ x ∈ s.m.l1 ∧
      ¬ (x.core = core ∧ x.line.lineNum = line ∧ x.pin = none ∧ x.expiry.toNat ≤ s.clk.tclk.toNat)) ∧
    (∀ r, (∀ q, s.req? r = some q → ∀ a ∈ q.accs, a.done = true ∨ a.refused = none) → LeadsTo s (.pinnedRetry r) s) ∧
    (∀ r a first, s.req? r.id = some r → r.accs = [a] → a.done = false → a.refused = some first →
      (s.clk.tclk.toNat < first.toNat + 1000000 → LeadsTo s (.pinnedLineTimeout r.id) s) ∧
      (first.toNat + 1000000 ≤ s.clk.tclk.toNat → LeadsTo s (.pinnedLineTimeout r.id)
        ((s.takeFault a.t.tid 0x15 0 r.core r.quad a.qlane r.pc r.word a.va.toNat 0).setAcc r.id 0 fun a => { a with done := true })))) ∧
  (∀ (s : State),
    (∀ fn token x, s.resolv? fn token = some x →
      (x.chain = none → ∃ t, LeadsTo s (.fqresReissue fn token) t ∧
        t = { s with sch.resolv := s.sch.resolv.filter (fun y => y.token ≠ token), sch.paths := t.sch.paths } ∧
        ((s.sch.paths.map (·.id)).Nodup → t.sch.paths = s.sch.paths.map fun p => if p.state = .parked (.fault token) then
          { p with state := .runnable, since := s.ageZero p.g.tid, readyAt := max p.readyAt s.clk.cycle } else p)) ∧
      LeadsTo s (.fqresTerminate fn token) ((s.settled token).teamFault x.tid 0x17 2 (s.resolvPc x) x.va.toNat 0) ∧
      (fn = 0 → LeadsTo s (.fqresReflect fn token) ((s.settled token).teamFault x.tid 0x17 6 (s.resolvPc x) x.va.toNat x.gpa.toNat)) ∧
      (fn ≠ 0 → LeadsTo s (.fqresReflect fn token) s)) ∧
    (∀ token x, s.sch.resolv.find? (fun y => y.token = token) = some x →
      (s.clk.tclk.toNat < x.at_.toNat + 1000000 * (s.fn x.fn).ftmo → LeadsTo s (.faultResolutionTimeout token) s) ∧
      (x.at_.toNat + 1000000 * (s.fn x.fn).ftmo ≤ s.clk.tclk.toNat → LeadsTo s (.faultResolutionTimeout token)
        ((s.settled token).teamFault x.tid 0x17 1 (s.resolvPc x) x.va.toNat 0))))

/-- Engines complete their work (R149, R268, R269, R277, R283, R284, R289, R308, R311, R377). Copies, plate loads, matrix
issues, chain elements, gate transfers and calls complete with exactly the effect of their rules. -/
def Obligations.EnginesComplete : Prop := ∀ (s : State),
  (∀ c, s.copy? c.id = some c → c.cr.rows ≤ c.row → c.wait = 0 → (∀ x ∈ s.e.copies, x.id = c.id → x = c) →
    (∀ o ∈ s.e.osbs, o.released = false) →
    (∀ p ∈ s.sch.paths, p.state ≠ .parked .osb ∧ p.state ≠ .parked .copyRoom) →
    ∃ t, LeadsTo s (.streamerWritePerform c.id) t ∧ t = { s with e.copies := t.e.copies, e.batches := t.e.batches } ∧
      (∀ x, x ∈ t.e.copies ↔ x ∈ s.e.copies ∧ x ≠ c) ∧
      t.e.batches = s.e.batches.map fun b =>
        if b.t = c.t ∧ b.n = c.batch then { b with open_ := b.open_ - 1, gwct := maxTime b.gwct c.gwct } else b) ∧
  (∀ c, s.copy? c.id = some c → c.row < c.cr.rows → c.refused = none →
    (c.turn = none → LeadsTo s (.streamerWritePerform c.id) (s.setCopy c.id fun x => { x with turn := some (s.clk.cycle - x.col / 64) })) ∧
    (c.turn ≠ none → c.cr.skind = 1 →
      LeadsTo s (.streamerWritePerform c.id) (s.copyWrite c (s.sreads c.t.tid c.piece.1 c.piece.2.2)))) ∧
  (∀ (x : PlateLoad) (tm : Team) (bs : List Byte) (lbl : Label), s.e.loads.find? (fun y => y.id = x.id) = some x →
    s.team? x.tid = some tm → x.due ≠ none →
    let ps := (platePieces x.src.toNat x.desc.toNat).zipIdx
    (∀ p ∈ ps, ∃ b l, s.platePiece x tm p.2 p.1 = .bytes b l) →
    bs = ps.flatMap (fun p => match s.platePiece x tm p.2 p.1 with | .bytes b _ => b | _ => []) →
    lbl = ps.foldl (fun a p => match s.platePiece x tm p.2 p.1 with | .bytes _ l => a ||| l | _ => a) 0 →
    let n := 64 * plateRow (pdFmt x.desc.toNat)
    ∃ t, LeadsTo s (.plateLoadComplete x.id) t ∧ t.e = { s.e with plates := t.e.plates, loads := s.e.loads.filter fun y => y.id ≠ x.id } ∧
      t.plate x.tid x.plate = { s.plate x.tid x.plate with
        bytes := bs.take n, scales := bs.drop n, lbl := x.lbl ||| lbl, form := x.desc
        load := if (s.plate x.tid x.plate).load = some x.id then none else (s.plate x.tid x.plate).load } ∧
      (∀ tid k, tid ≠ x.tid ∨ k ≠ x.plate → t.plate tid k = s.plate tid k) ∧ (∀ y, (t.thr y).bare = (s.thr y).bare) ∧
      t = { s with e := t.e, r.thr := t.r.thr }) ∧
  (∀ (x : PlateLoad), s.e.loads.find? (fun y => y.id = x.id) = some x → (s.team? x.tid).isSome = true → x.due = none →
    ∃ t d, LeadsTo s (.plateLoadComplete x.id) t ∧ s.clk.cycle ≤ d ∧
      t = { s with m.l2 := t.m.l2, e.loads := s.e.loads.map fun y => if y.id = x.id then { y with due := some d } else y }) ∧
  (∀ (core : Nat) (x : Mx) (o : Osb), s.mxHead core = some x → s.osbId? x.res = some o → x.drow + x.rows < 64 →
    o.olds = [] → (∀ kv ∈ s.r.vatOld, kv.1.1 ≠ x.tid ∨ kv.1.2.1 ≠ x.slot) →
    (∀ p ∈ s.sch.paths, p.state ≠ .parked .osb) →
    ∃ t, LeadsTo s (.mxissueComplete core) t ∧
      (∀ i j, i ≤ x.rows → j < 64 → t.vatGet x.tid x.slot ((x.drow + i) * 64 + j) = (s.mxElem x o i j).1) ∧
      (∀ tid k n, (tid ≠ x.tid ∨ k ≠ x.slot ∨ n < x.drow * 64 ∨ (x.drow + x.rows + 1) * 64 ≤ n) → t.vatGet tid k n = s.vatGet tid k n) ∧
      t.vatLabel x.tid x.slot = s.mxLabel x ∧ t.m = s.m ∧ t.y = s.y ∧ t.h = s.h) ∧
  (∀ core, (∀ x, s.mxHead core ≠ some x) → LeadsTo s (.mxissueComplete core) s) ∧
  (∀ core c, s.chainHead core = some c → LeadsTo s (.chainElementStep core) (s.chainStep c) ∧
    (c.due = none → LeadsTo s (.chainElementStep core)
      (s.setChain c.id fun x => { x with due := some (s.clk.cycle + x.stepTime), left := 16 })) ∧
    (c.due ≠ none → c.left = 0 → c.refused = none → (∀ x ∈ s.e.chains, x.id = c.id → x = c) →
      LeadsTo s (.chainElementStep core) (s.setChain c.id fun x => { x with due := none, left := 0 }))) ∧
  (∀ core, s.chainHead core = none → LeadsTo s (.chainElementStep core) s) ∧
  (∀ (x : GateXfer) (tm : Team), s.gate? x.id = some x → s.team? x.t.tid = some tm → x.refused = none → x.n ≤ x.moved →
    s.gateSent x.id = false → (∀ p ∈ s.sch.paths, ∀ n, p.state ≠ .parked (.gate n)) →
    LeadsTo s (.gateTransferAck x.id) ((s.joinWct x.t x.gwct).dropGate x.id)) ∧
  (∀ (c : Call) (tm : Team), s.e.calls.find? (fun x => x.id = c.id) = some c → s.team? c.t.tid = some tm →
    (∀ p ∈ s.sch.paths, ∀ n, p.state ≠ .parked (.service n)) →
    let done := fun (st : Word) => { s with e.calls := s.e.calls.map fun x => if x.id = c.id then { x with status := some st } else x }
    (c.service = 0 → LeadsTo s (.syscallReply c.id) (done 0)) ∧
    (2 < c.service.toNat → LeadsTo s (.syscallReply c.id) (done 1)) ∧
    LeadsTo s (.syscallTimeout c.id) (done 0xFFFFFFFF))

/-- Quadrant issue and promotion (R24, R25, R26, R27, R28, R42, R315). A quadrant selects a group that may issue, else forms
the group that the ranks choose; promotion moves exactly the aged paths of a team that makes progress to the front. -/
def Obligations.QuadrantsAndPromotion : Prop := ∀ (s : State),
  (∀ core quad g, (s.markHeld core quad).openGroup core quad = some g →
    LeadsTo s (.quadrantIssueCycle core quad) { s.markHeld core quad with clk.cur := some g.id }) ∧
  (∀ core quad, (s.markHeld core quad).openGroup core quad = none →
    let w := (s.markHeld core quad).openSets core quad 4
    (∀ g, w.openGroup core quad = some g → LeadsTo s (.quadrantIssueCycle core quad) { w with clk.cur := some g.id }) ∧
    (w.openGroup core quad = none → w.contextFree core quad = false → LeadsTo s (.quadrantIssueCycle core quad) w) ∧
    (∀ ps, w.openGroup core quad = none → w.contextFree core quad = true →
      let u := ((w.mergePaths core quad).activePaths core quad).foldl (fun u p => u.evalPath p.id) (w.mergePaths core quad)
      (u.chooseTrial ((u.activePaths core quad).filter u.isReady) = some ps →
        LeadsTo s (.quadrantIssueCycle core quad) (u.openIg core quad ps)) ∧
      (u.chooseTrial ((u.activePaths core quad).filter u.isReady) = none → LeadsTo s (.quadrantIssueCycle core quad) u))) ∧
  (∀ p, s.path? p.id = some p → (s.sch.paths.map (·.id)).Nodup →
    (s.agesOut p = false → LeadsTo s (.agePromotion p.id) s) ∧
    (s.agesOut p = true → ∃ t, LeadsTo s (.agePromotion p.id) t ∧ t = { s with sch.paths := t.sch.paths } ∧
      (t.sch.paths.filter fun q => q.id ≠ p.id) = s.sch.paths.filter (fun q => q.id ≠ p.id) ∧
      t.path? p.id = some { p with promoted := true } ∧
      ((∃ q ∈ s.sch.paths, q.id ≠ p.id ∧ q.g = p.g ∧ q.quad = p.quad) →
        (t.sch.paths.find? fun q => q.g = p.g && q.quad = p.quad).map (·.id) = some p.id))) ∧
  (∀ tid t, s.team? tid = some t →
    (t.promoteAt = none → LeadsTo s (.teamctlPromotion tid) s) ∧
    (∀ n, t.promoteAt = some n → s.clk.cycle < n → LeadsTo s (.teamctlPromotion tid) s) ∧
    (∀ n, t.promoteAt = some n → n ≤ s.clk.cycle →
      (t.progress = false → LeadsTo s (.teamctlPromotion tid) (s.setTeam tid fun t => { t with promoteAt := none })) ∧
      (t.progress = true → (∀ p ∈ s.sch.paths, p.g.tid = tid → p.state = .runnable → s.age p < 256 * 2 ^ t.fairx) →
        LeadsTo s (.teamctlPromotion tid) (s.setTeam tid fun t => { t with promoteAt := none })) ∧
      (∀ p, t.progress = true → s.path? p.id = some p → p.g.tid = tid → p.state = .runnable → 256 * 2 ^ t.fairx ≤ s.age p →
        (∀ q ∈ s.sch.paths, q.g.tid = tid → q.state = .runnable → 256 * 2 ^ t.fairx ≤ s.age q → q = p) →
        (s.sch.paths.map (·.id)).Nodup →
        LeadsTo s (.teamctlPromotion tid) ((s.promote p.id).setTeam tid fun t => { t with promoteAt := none }))))

/-- The launch law (R58, R59, R60, R62). A slot decision places an eligible candidate before which none other goes, and only
where its core has not dropped a decision in this cycle. -/
def Obligations.LaunchLaw : Prop := ∀ (s : State),
  (∀ part core, s.droppedNow part core = true → LeadsTo s (.slotDecision part core) s) ∧
  (∀ part core, s.droppedNow part core = false → s.launchLaw part core = none → LeadsTo s (.slotDecision part core) s) ∧
  (∀ part core c, s.droppedNow part core = false → s.launchLaw part core = some c →
    LeadsTo s (.slotDecision part core) (s.placeCand part core c) ∧
    (∃ idx st, (c.ctx, idx, st) ∈ s.stagesOf part ∧ s.eligible part core c.ctx idx st = some c) ∧
    ∀ x ∈ s.stagesOf part, ∀ d, s.eligible part core x.1 x.2.1 x.2.2 = some d → d ≠ c → d.before c = false ∨ c.before d = true) ∧
  (∀ k core c, ((s.part k.part).corelim.map (·.1)).find? (fun core => (s.launchLaw k.part core).isSome) = some core →
    s.droppedNow k.part core = false → s.launchLaw k.part core = some c →
    (∃ x ∈ s.stagesOf k.part, x.1 = k.ctx ∧ s.inputOf k.part x.1 x.2.1 x.2.2 = k ∧ s.batchOver k x.2.2 = true) →
    LeadsTo s (.batchwaitExpiry k) (s.placeCand k.part core c)) ∧
  (∀ k, (∀ x ∈ s.stagesOf k.part, x.1 = k.ctx → s.inputOf k.part x.1 x.2.1 x.2.2 = k → s.batchOver k x.2.2 = false) →
    LeadsTo s (.batchwaitExpiry k) s) ∧
  (∀ part core c lr q, s.droppedNow part core = false → s.launchLaw part core = some c → c.st.inkind = 0 →
    s.oldestSaved part c.ctx c.stage c.fit.core = none →
    let k := s.inputOf part c.ctx c.stage c.st
    s.queue? k = some q → q.waits = false → q.head?.bind (·.launch) = some lr → (q.head?.map (·.left)) = some 1 → q.waiting = [] →
    ∃ rest u w tm, q.pop? = some (u, rest) ∧ LeadsTo s (.slotDecision part core) w ∧
      w = ((s.subView core k 1).setQueue k fun _ => rest).formOfLaunch c.st c.fit lr 0 ∧
      w.queue? k = some (rest.startRefill s.clk.cycle) ∧ w.team? s.clk.fresh = some tm ∧
      tm.part = lr.part ∧ tm.ctx = lr.ctx ∧ tm.stage = lr.stage ∧ tm.run = lr.run ∧ tm.width = c.st.width ∧ tm.groups = c.st.groups ∧
      tm.core = c.fit.core ∧ tm.core2 = c.fit.core2 ∧ tm.slot = c.fit.slot ∧ tm.slot2 = c.fit.slot2 ∧ tm.status = .resident ∧
      tm.began = s.clk.tclk ∧ tm.param = lr.param ∧ tm.arc = lr.arc ∧ tm.chan = c.st.chan ∧
      (∀ r, mget? s.sch.runs lr.run = some r → tm.team = r.next ∧
        mget? w.sch.runs lr.run = some { r with next := r.next + 1 }) ∧
      ∀ n, n ≠ s.clk.fresh → w.team? n = s.team? n)

/-- Retirement, completion, saving and drain (R40, R71, R99, R379, R380). A team retires once everything of it has
performed, its run reports when all its teams have ended, and a stopping team is saved or discarded. -/
def Obligations.TeamsEnd : Prop := ∀ (s : State),
  (∀ tid, s.ended tid = false → LeadsTo s (.teamRetirement tid) s) ∧
  (∀ tid, s.ended tid = true → s.hasPins tid = true → LeadsTo s (.teamRetirement tid) (s.retirePins tid)) ∧
  (∀ tid, s.ended tid = true → s.hasPins tid = false → s.performed tid = false → LeadsTo s (.teamRetirement tid) s) ∧
  (∀ tid t, s.team? tid = some t → s.ended tid = true → s.hasPins tid = false → s.performed tid = true → t.credited = false →
    let credited := fun (u : State) => u.setTeam tid fun t => { t with credited := true }
    (t.arc = 0 → LeadsTo s (.teamRetirement tid) (credited s)) ∧
    (s.creditHeld t = true → s.creditOver t = false →
      LeadsTo s (.teamRetirement tid) (s.setTeam tid fun t => { t with creditAt := some (t.creditAt.getD s.clk.tclk) })) ∧
    (∀ loc lf, t.arc ≠ 0 → t.arc.toNat < 2 ^ 57 → s.creditHeld t = false →
      s.translate t.core t.part t.ctx t.arc.toNat true = .ok loc lf → (∀ st off, loc ≠ .fab st off) → s.owned t.part loc = true →
      LeadsTo s (.teamRetirement tid) (credited (s.cohWrite loc (natLE 8 (leNat (s.getLoc loc 8) + 1)))))) ∧
  (∀ tid t, s.team? tid = some t → s.ended tid = true → s.hasPins tid = false → s.performed tid = true → t.credited = true →
    s.aimed tid = true → LeadsTo s (.teamRetirement tid) s) ∧
  (∀ tid t, s.team? tid = some t → s.ended tid = true → s.hasPins tid = false → s.performed tid = true → t.credited = true →
    s.aimed tid = false → (∀ p ∈ s.sch.paths, p.state ≠ .parked .osb ∧ p.state ≠ .parked .copyRoom) →
    ∃ u, LeadsTo s (.teamRetirement tid) u ∧ u.team? tid = none ∧ (∀ k, k ≠ tid → u.team? k = s.team? k) ∧
      (∀ p ∈ u.sch.paths, p.g.tid ≠ tid) ∧ (∀ p ∈ s.sch.paths, p.g.tid ≠ tid → p ∈ u.sch.paths) ∧
      (∀ r, mget? s.sch.runs t.run = some r → mget? u.sch.runs t.run = some { r with ended := r.ended + 1 }) ∧
      u.m.mem = s.m.mem ∧ u.y = s.y ∧ u.h = s.h) ∧
  (∀ n r, mget? s.sch.runs n = some r →
    (s.runDone n r = false → LeadsTo s (.stageRunCompletionReport n) s) ∧
    (s.runDone n r = true → LeadsTo s (.stageRunCompletionReport n) { s with
      sch.runs := mset s.sch.runs n { r with reported := true }
      sch.completions := (n, r.terminated) :: s.sch.completions })) ∧
  (∀ tid, s.saveDue tid = false → LeadsTo s (.teamSave tid) s) ∧
  (∀ tid t, s.saveDue tid = true → s.team? tid = some t →
    (t.status = .stopping true → s.discardable tid = true → LeadsTo s (.teamSave tid) (s.discardTeam tid)) ∧
    (t.status ≠ .stopping true ∨ s.discardable tid = false →
      let v := s.unpinTeam tid
      (v.team? tid = none → LeadsTo s (.teamSave tid) v) ∧
      (v.team? tid ≠ none → ∀ u, v.writeImage tid tid false = some u → ∃ w, LeadsTo s (.teamSave tid) w ∧ w = u.leaveCores tid t ∧
        ((∀ p ∈ s.sch.paths, p.state ≠ .parked .osb) →
          w.team? tid = some { t with status := .saved, savedAt := s.clk.tclk, drainBy := none, moving := false } ∧
          (∀ k, k ≠ tid → w.team? k = s.team? k) ∧
          w.sch.paths = s.sch.paths.map (fun p => if p.g.tid = tid then { p with since := s.clk.cycle - p.since } else p) ∧
          w.r.v = s.r.v ∧ w.r.s = s.r.s ∧ w.r.m = s.r.m ∧ w.r.lbl = s.r.lbl ∧ w.r.scr = s.r.scr ∧
          ∀ o ∈ w.e.osbs, o.tid = tid → o.core = noCore)) ∧
      (v.team? tid ≠ none → v.writeImage tid tid false = none → LeadsTo s (.teamSave tid) (v.noRoom tid t)))) ∧
  (∀ tid t, s.team? tid = some t →
    ((t.status ≠ .resident ∨ t.drainBy = none ∨ ∃ d, t.drainBy = some d ∧ s.clk.tclk.toNat < d.toNat) →
      LeadsTo s (.drainDeadlineExpiry tid) s) ∧
    (∀ d, t.status = .resident → t.drainBy = some d → d.toNat ≤ s.clk.tclk.toNat → ∃ b,
      LeadsTo s (.drainDeadlineExpiry tid)
        (s.setTeam tid fun t => { t with status := .stopping b, savedAt := s.clk.tclk, drainBy := none, moving := true }) ∧
      (b = true → s.discardable tid = true ∧ (s.part t.part).meth.testBit 2 = true)))

/-- Published lengths, refills and forwarding (R50, R57, R68, R69, R318, R319, R428). Lengths are published at their
periods, a refill step moves records to the ring, and a port forwards the qualifying queue of greatest value. -/
def Obligations.EphemerisAndForwarding : Prop := ∀ (s : State),
  (let near := decide (s.gr.pubAt.toNat + 32 ≤ s.clk.tclk.toNat)
   let far := decide (s.gr.farAt.toNat + 128 ≤ s.clk.tclk.toNat)
   ∃ t, LeadsTo s .ephemerisPublish t ∧
    t = { s with gr.near := t.gr.near, gr.pubAt := t.gr.pubAt, gr.far := t.gr.far, gr.farAt := t.gr.farAt, gr.early := t.gr.early,
                 sch.sub := t.sch.sub } ∧
    t.gr.near = (if near then s.publication else s.gr.near) ∧ t.gr.pubAt = (if near then s.clk.tclk else s.gr.pubAt) ∧
    t.gr.far = (if far then s.publication else s.gr.far) ∧ t.gr.farAt = (if far then s.clk.tclk else s.gr.farAt) ∧
    t.gr.early = (if far then [] else if near then
      (s.publication.filter fun kv => s.wantsEarly kv.1 kv.2).foldl (fun m kv => mset m kv.1 kv.2) s.gr.early else s.gr.early) ∧
    ∀ x, x ∈ t.sch.sub ↔ x ∈ s.sch.sub ∧ ¬ (near = true ∧ s.homeDie x.1.2 = coreDie x.1.1) ∧
      ¬ (far = true ∧ s.homeDie x.1.2 ≠ coreDie x.1.1) ∧
      ¬ (near = true ∧ s.homeDie x.1.2 ≠ coreDie x.1.1 ∧ ∃ p, (x.1.2, p) ∈ s.publication ∧ s.wantsEarly x.1.2 p = true)) ∧
  (∃ t, LeadsTo s .ephemerisRemotePublication t ∧ t = { s with gr.remAt := s.clk.tclk, y.msgs := t.y.msgs } ∧
    ∀ m, m ∈ t.y.msgs ↔ m ∈ s.y.msgs ∨ ∃ st ∈ s.peers, ∃ kv ∈ s.gr.queues, kv.1.launch = false ∧ kv.2.kind ≠ 1 ∧
      m = { typ := 0x20, tpart := kv.1.part, spart := kv.1.part, tstation := st, time := s.clk.tclk, body := s.ephemBody kv.1.part }) ∧
  (∀ k q, s.queue? k = some q → q.waiting = [] →
    LeadsTo s (.cellarRefillStep k) { s with gr.queues := mset s.gr.queues k (q.refillStep.startRefill s.clk.cycle) }) ∧
  (∀ part port, s.forwardDue part port = false → LeadsTo s (.forwardingDecision part port) s) ∧
  (∀ part port, s.forwardDue part port = true →
    let far := (s.port port).far
    let u := { s with gr.fwd := mset s.gr.fwd (part, port) s.clk.tclk }
    (s.portIdle port = false → LeadsTo s (.forwardingDecision part port) u) ∧
    (s.portIdle port = true → s.forwardCands part far = [] → LeadsTo s (.forwardingDecision part port) u) ∧
    (∀ k q f, s.portIdle port = true → (k, q, f) ∈ s.forwardCands part far → (∀ x ∈ s.forwardCands part far, x ≠ (k, q, f) →
        x.2.2 < f ∨ (x.2.2 = f ∧ k.idx < x.1.idx)) → LeadsTo s (.forwardingDecision part port) (u.burst k q port)))

/-- Fabric requests and responses (R89, R100, R104, R117, R118, R356, R374, R402, R403). A request of another station is
refused with the status of its first failed test, or performs with exactly its bytes read or written; a response completes,
repeats or ends the request it answers. -/
def Obligations.FabricRequests : Prop :=
  (∀ (s : State) (r : FabReq),
    let answer := fun (u : State) (x : FabResp) => LeadsTo s (.fabricRequest r) { u with y.resps := u.y.resps ++ [(r.sstation, x)] }
    let sized := r.kind < 4 ∧ (2 ≤ r.kind → r.len = if r.wide then 8 else 4) ∧ r.off < Config.pslotBase
    ((r.rsvd = true ∨ 5 ≤ r.kind) → answer s (fabRefuse r 3)) ∧
    (r.rsvd = false → sized → s.fabDest r = none → answer s (fabRefuse r 3)) ∧
    (∀ d pa, r.rsvd = false → sized → s.fabDest r = some d → d.leaf = .ok (.phys pa) →
      (s.locOf d.part (.phys pa)).1 = .mem pa →
      (((r.kind ≠ 1 ∧ d.rd = false) ∨ (r.kind ≠ 0 ∧ d.wr = false)) → answer s (fabRefuse r 3)) ∧
      ((r.kind ≠ 1 → d.rd = true) → (r.kind ≠ 0 → d.wr = true) →
        (s.owned d.part (.mem pa) = false → answer s (fabRefuse r 3)) ∧
        (s.owned d.part (.mem pa) = true → fabLabelOk r d.part (s.locLbl d.part (.mem pa)) = false → answer s (fabRefuse r 2)) ∧
        (s.owned d.part (.mem pa) = true → fabLabelOk r d.part (s.locLbl d.part (.mem pa)) = true → s.roShard (.mem pa) = true →
          r.kind ≠ 0 → answer s (fabRefuse r 4)) ∧
        (s.owned d.part (.mem pa) = true → fabLabelOk r d.part (s.locLbl d.part (.mem pa)) = true → s.roShard (.mem pa) = false →
          (∀ x ∈ s.m.l1, x.pin = none) → s.eccBad (.mem pa) r.len = false → s.eccPartial (.mem pa) r.len = false →
          (r.kind = 0 → r.nolease = true →
            answer s { tag := r.tag, time := 0, status := 0, data := creads s.m.mem pa r.len, olds := [] }) ∧
          (r.kind = 0 → r.nolease = false → ∃ u,
            answer u ⟨r.tag, s.clk.tclk + BitVec.ofNat 64 (s.part d.part).lease, 0, creads s.m.mem pa r.len, []⟩ ∧
            u = { s with m.ll := u.m.ll } ∧ ∀ l, mget 0 u.m.ll l =
              (if l = (Loc.mem pa).line ∧ (mget 0 s.m.ll l).toNat < (s.clk.tclk + BitVec.ofNat 64 (s.part d.part).lease).toNat then
                s.clk.tclk + BitVec.ofNat 64 (s.part d.part).lease else mget 0 s.m.ll l)) ∧
          (r.kind = 1 → r.data.length = r.len → d.arc = 0 → d.pool = false → Memory.wf s.m.mem = true → ∃ u,
            answer u { tag := r.tag, time := s.gwct (.mem pa), status := 0, data := [], olds := [] } ∧
            u = { s with m.mem := u.m.mem, m.bad := u.m.bad } ∧ Memory.wf u.m.mem = true ∧
            ∀ x, cget u.m.mem x = if pa ≤ x ∧ x < pa + r.len then r.data.getD (x - pa) 0 else cget s.m.mem x) ∧
          ((r.kind = 2 ∨ r.kind = 3) → Memory.wf s.m.mem = true →
            let old := leNat (creads s.m.mem pa r.len)
            ∃ u, answer u { tag := r.tag, time := s.gwct (.mem pa), status := 0, data := [], olds := (fabFold r old).2 } ∧
              u = { s with m.mem := u.m.mem, m.bad := u.m.bad } ∧
              ∀ x, cget u.m.mem x = if pa ≤ x ∧ x < pa + r.len then (natLE r.len (fabFold r old).1).getD (x - pa) 0
                else cget s.m.mem x)))) ∧
    (∀ part, r.rsvd = false → r.kind = 4 → Config.pslotBase ≤ r.off → r.off < 2 ^ 50 → part = (r.off - Config.pslotBase) / 0x2000 →
      (s.aclEntry part r.spart r.sstation = none → answer s (fabRefuse r 3)) ∧
      (∀ e, s.aclEntry part r.spart r.sstation = some e →
        ((aclLaunch e = false ∨ Label.sub r.label (aclMax e) = false) → answer s (fabRefuse r 3)) ∧
        (aclLaunch e = true → Label.sub r.label (aclMax e) = true → r.off % 0x80 + r.data.length ≤ 0x80 →
          let k : SlotKey := ⟨true, part, (r.off - Config.pslotBase) % 0x2000 / 0x80⟩
          answer ((s.slotStore k (r.off % 0x80) r.data r.label).seeSeal k)
            { tag := r.tag, time := s.clk.tclk, status := 0, data := [], olds := [] })))) ∧
  (∀ (s : State) (r : FabResp),
    ((∀ o ∈ s.y.reqs, o.tag ≠ r.tag) → LeadsTo s (.fabricResponse r) s) ∧
    (∀ o, s.y.reqs.find? (fun o => o.tag = r.tag) = some o →
      let u := { s with y.reqs := s.y.reqs.filter fun x => x.tag ≠ r.tag }
      (6 < r.status → LeadsTo s (.fabricResponse r) s) ∧
      (r.status = 0 → o.who = .slot → LeadsTo s (.fabricResponse r) u) ∧
      (∀ id a c, r.status = 0 → o.who = .copy id a → o.kind ≠ 0 → s.copy? id = some c → LeadsTo s (.fabricResponse r)
        (u.setCopy id fun c => { c with wait := c.wait - 1, gwct := maxTime c.gwct r.time })) ∧
      (∀ id n, r.status = 0 → o.who = .plate id n → LeadsTo s (.fabricResponse r)
        (u.setLoad id fun x => { x with got := x.got ++ [(n, r.data)] })) ∧
      (∀ tid, r.status = 0 → o.who = .pinned tid → ∃ t, LeadsTo s (.fabricResponse r) t ∧ t = { u with r.thr := t.r.thr } ∧
        (∀ x, (t.thr x) = { s.thr x with wct := (t.thr x).wct }) ∧
        ∀ x, (t.thr x).wct = if x ∈ s.liveOf tid then maxTime (s.thr x).wct r.time else (s.thr x).wct) ∧
      (∀ id a, r.status = 1 → o.who = .copy id a → o.refused = none → (∀ x ∈ s.y.reqs, x.tag = r.tag → x = o) →
        LeadsTo s (.fabricResponse r) { s with y.reqs := s.y.reqs.map fun x =>
          if x = o then { o with refused := some s.clk.tclk, backoff := 32, retryAt := s.clk.tclk + 32 } else x }) ∧
      (∀ tid, r.status = 2 → o.who = .pinned tid → LeadsTo s (.fabricResponse r) (u.asyncReport o.part o.ctx 0x53 0 o.off)) ∧
      (∀ tid, r.status = 3 ∨ r.status = 5 → o.who = .pinned tid →
        LeadsTo s (.fabricResponse r) (u.asyncReport o.part o.ctx 0x54 0 o.off)) ∧
      (r.status = 3 → o.who = .slot → LeadsTo s (.fabricResponse r) (u.asyncReport o.part o.ctx 0x56 0 o.off))))

/-- Messages of queues, and messages discarded (R57, R295, R357, R404, R406). A message for another station, with reserved
bits or with a MINOR beyond the agreed one changes nothing; remote enqueues are taken or refused with their cause, and
lengths enter the view of this station. -/
def Obligations.FabricMessages : Prop :=
  (∀ (s : State) (h : MsgHdr), s.msgOk h = false →
    (∀ req q fwd rsz recs, LeadsTo s (.renq h req q fwd rsz recs) s) ∧ (∀ req st, LeadsTo s (.renqack h req st) s) ∧
    (∀ cause ref, LeadsTo s (.refuse h cause ref) s) ∧ (∀ es, LeadsTo s (.ephem h es) s) ∧
    (∀ e d l core, LeadsTo s (.preq h e d l core) s) ∧ (∀ e conv d ep, LeadsTo s (.pstart h e conv d ep) s) ∧
    (∀ e conv b l, LeadsTo s (.palloc h e conv b l) s) ∧ (∀ e conv st, LeadsTo s (.pready h e conv st) s) ∧
    (∀ e conv, LeadsTo s (.pswitch h e conv) s) ∧ (∀ e conv x, LeadsTo s (.pabandon h e conv x) s) ∧
    (∀ e conv ep, LeadsTo s (.pdone h e conv ep) s) ∧ (∀ part, LeadsTo s (.resetMsg h part) s)) ∧
  (∀ (s : State) (h : MsgHdr), s.msgOk h = true →
    (∀ req q fwd rsz recs c, s.renqCause h q fwd rsz (recs.map (·.1)) = some c →
      LeadsTo s (.renq h req q fwd rsz recs) (s.sendMsg 0x11 h.spart h.tpart h.sstation (natLE 4 c ++ natLE 4 req.toNat))) ∧
    (∀ req n fwd rsz l bs k q, s.renqCause h n fwd rsz [l] = none → s.queueOf h.tpart n = some k → s.queue? k = some q →
      q.waiting = [] → q.fits 0 1 = true → q.cellarLen = 0 → (q.put 0 ⟨q.next, ⟨bs, l, true⟩, s.clk.tclk, none, 1⟩).cellarLen = 0 →
      ∃ u, LeadsTo s (.renq h req n fwd rsz [(l, bs)]) u ∧ u = { s with gr.queues := u.gr.queues, y.msgs := u.y.msgs } ∧
        u.queue? k = some (q.put 0 ⟨q.next, ⟨bs, l, true⟩, s.clk.tclk, none, 1⟩) ∧ (∀ x, x ≠ k → u.queue? x = s.queue? x) ∧
        u.y.msgs = (s.sendMsg 0x19 h.spart k.part h.sstation (renqackBody req)).y.msgs) ∧
    (∀ req st, s.renq? h.sstation req = none → LeadsTo s (.renqack h req st) s) ∧
    (∀ req st o, s.renq? h.sstation req = some o →
      (st ≠ 0 → LeadsTo s (.renqack h req st) s) ∧
      (st = 0 → o.pids = [] → LeadsTo s (.renqack h req st) { s with gr.renqs := s.gr.renqs.filter fun x => x.req ≠ req })) ∧
    (∀ cause ref o, s.renq? h.sstation ref = some o → o.pids = [] →
      LeadsTo s (.refuse h cause ref) (({ s with gr.renqs := s.gr.renqs.filter fun x => x.req ≠ ref } : State).asyncReport o.part o.ctx
        (if cause = 9 then 0x52 else 0x54) 0 0)) ∧
    (∀ cause ref, s.renq? h.sstation ref = none → LeadsTo s (.refuse h cause ref) (s.asyncReport h.tpart 0 0x58 0 0)) ∧
    (∀ es, ∃ u, LeadsTo s (.ephem h es) u ∧ u = { s with gr.remote := u.gr.remote } ∧
      (∀ p q st, (p ≠ h.tpart ∨ st ≠ h.sstation ∨ ∀ e ∈ es, e.queue ≠ q) → mget? u.gr.remote (p, q, st) = mget? s.gr.remote (p, q, st)) ∧
      ∀ a e b, es = a ++ e :: b → (∀ x ∈ b, x.queue ≠ e.queue) →
        mget? u.gr.remote (h.tpart, e.queue, h.sstation) = some ⟨e.len, e.pressed, e.park⟩))

/-- Messages of conversions (R123, R127, R128, R129, R131, R359, R405). PREQ, PSTART, PALLOC, PREADY, PSWITCH, PABANDON,
PDONE and RESET change the placement entry, the conversion and the requests that they name, and nothing of another entry. -/
def Obligations.PlacementMessages : Prop := ∀ (s : State) (h : MsgHdr) (n : Nat) (conv : Word), s.msgOk h = true →
  (∀ d l core, s.place? h.tpart n = none → LeadsTo s (.preq h n d l core) s) ∧
  (∀ d l core p, s.place? h.tpart n = some p →
    (s.isHome h.tpart p = false → LeadsTo s (.preq h n d l core) s) ∧
    (s.isHome h.tpart p = true → h.sstation ≠ s.y.station → s.conv? h.tpart n = none → s.waitingReqs h.tpart n = [] →
      demandMatches p.state d = true → LeadsTo s (.preq h n d l core)
        (s.sendMsg 0x36 h.tpart h.tpart h.sstation (convBody n 0 (natLE 8 p.epoch)))) ∧
    (∀ c, s.isHome h.tpart p = true → s.conv? h.tpart n = some c → c.demand ≠ d → LeadsTo s (.preq h n d l core)
      { s with gr.preqs := s.gr.preqs ++ [(h.tpart, n, ⟨h.sstation, d, l, []⟩)] })) ∧
  (∀ d ep, (s.conv? h.tpart n).isSome = true → LeadsTo s (.pstart h n conv d ep) s) ∧
  (∀ d ep p, s.conv? h.tpart n = none → s.place? h.tpart n = some p → ∃ u, LeadsTo s (.pstart h n conv d ep) u ∧
    u.place? h.tpart n = some { p with busy := true, count := 0, goal := s.shardSize h.tpart p (convFinal p.state d) } ∧
    (∀ part k, part ≠ h.tpart ∨ k ≠ n → u.place? part k = s.place? part k) ∧
    u.m = { s.m with readonly := s.m.readonly ++ shardRanges p.frames (s.shardSize h.tpart p p.state) } ∧
    (u.conv? h.tpart n).map (fun c => (c.conv, c.demand, c.home, c.frames)) = some (conv, d, false, []) ∧
    u.sch = s.sch ∧ u.r = s.r ∧ u.e = s.e ∧ u.y = s.y ∧ u.h = s.h ∧ u.clk = s.clk) ∧
  (s.convIs h.tpart n conv = false →
    (∀ b l, LeadsTo s (.palloc h n conv b l) s) ∧ (∀ st, LeadsTo s (.pready h n conv st) s) ∧ LeadsTo s (.pswitch h n conv) s) ∧
  (∀ c p, s.conv? h.tpart n = some c → c.conv = conv → s.place? h.tpart n = some p →
    (∀ b l, c.frames = [] → c.home = false →
      s.poolRoom h.tpart (b.toNat % 2 ^ 50) (s.shardSize h.tpart p (convFinal p.state c.demand)) = false →
      LeadsTo s (.palloc h n conv b l)
        (s.sendMsg 0x33 h.tpart h.tpart (s.meshOf h.tpart p).home (convBody n conv (natLE 8 3)))) ∧
    (∀ b l, c.frames = [] → c.home = false → s.shardBad h.tpart p = none →
      let size := s.shardSize h.tpart p (convFinal p.state c.demand)
      let fs := s.poolSlice h.tpart (b.toNat % 2 ^ 50) size
      s.poolRoom h.tpart (b.toNat % 2 ^ 50) size = true →
      ∃ u, LeadsTo s (.palloc h n conv b l) u ∧
        (u.conv? h.tpart n).map (fun c => (c.frames, c.base, c.lbl)) = some (fs, b.toNat % 2 ^ 50, l) ∧
        (∀ f ∈ fs, u.frame f = ⟨1, h.tpart, l⟩) ∧ u.place? h.tpart n = some p ∧
        (∃ m ∈ u.y.msgs, m.typ = 0x33 ∧ m.tstation = (s.meshOf h.tpart p).home ∧ m.body = convBody n conv (natLE 8 1)) ∧
        u.sch = s.sch ∧ u.r = s.r) ∧
    LeadsTo s (.pready h n conv 1) s ∧
    ((∃ x ∈ (s.meshOf h.tpart p).stations, x ≠ h.sstation ∧ x ∉ c.ready) →
      LeadsTo s (.pready h n conv 0) (s.setConv h.tpart n fun c => { c with ready := dedup (h.sstation :: c.ready) })) ∧
    ((∀ r ∈ s.waitingReqs h.tpart n, r.demand = c.demand → c.home = true) → c.reqs = [] → ∃ u, LeadsTo s (.pswitch h n conv) u ∧
      u.place? h.tpart n = some { p with state := convFinal p.state c.demand, base := c.base, epoch := (p.epoch + 1) % 65536, busy := false, frames := c.frames, lbl := c.lbl, count := p.count + p.goal } ∧
      (∀ part k, part ≠ h.tpart ∨ k ≠ n → u.place? part k = s.place? part k) ∧ u.conv? h.tpart n = none ∧
      (∀ x, x ∈ u.m.readonly ↔ x ∈ s.m.readonly ∧ x ∉ shardRanges p.frames (s.shardSize h.tpart p p.state)) ∧
      u.m.mem = s.m.mem ∧ u.sch = s.sch ∧ u.r = s.r) ∧
    (∀ x, c.home = false → c.frames = [] → c.reqs = [] → (∀ r ∈ s.waitingReqs h.tpart n, r.demand ≠ c.demand) →
      ∃ u, LeadsTo s (.pabandon h n conv x) u ∧ u.place? h.tpart n = some { p with busy := false, count := p.goal } ∧
      u.conv? h.tpart n = none ∧ u.m = { s.m with readonly := u.m.readonly } ∧
      (∀ y, y ∈ u.m.readonly ↔ y ∈ s.m.readonly ∧ y ∉ shardRanges p.frames (s.shardSize h.tpart p p.state)) ∧
      (∀ r, r ∈ u.y.reqs ↔ r ∈ s.y.reqs ∧ r.who ≠ .conv h.tpart n) ∧ u.sch = s.sch ∧ u.r = s.r)) ∧
  (∀ c x, s.conv? h.tpart n = some c → c.conv ≠ conv → LeadsTo s (.pabandon h n conv x) s) ∧
  (∀ ep p, s.place? h.tpart n = some p → (∀ r ∈ s.waitingReqs h.tpart n, demandMatches p.state r.demand = true → r.pids = []) →
    ∃ u, LeadsTo s (.pdone h n conv ep) u ∧ u = { s with gr.preqs := u.gr.preqs } ∧ ∀ x, x ∈ u.gr.preqs ↔ x ∈ s.gr.preqs ∧
      ¬ (x.1 = h.tpart ∧ x.2.1 = n ∧ demandMatches p.state x.2.2.demand = true)) ∧
  (s.gr.convs = [] → (∀ o ∈ s.y.reqs, o.station ≠ h.sstation ∨ o.part ≠ n) → LeadsTo s (.resetMsg h n) { s with
    y.gangs := s.y.gangs.map fun g => if g.part = n then { g with acked := g.acked.filter fun st => st ≠ h.sstation } else g })

/-- A step runs the decoded instruction (R26, R187). With an issue group selected, a step executes what its words decode to,
or takes the encoding fault; with none selected it runs the input that is due or the turn of the next quadrant. The order of
events within a cycle is the model's choice (assumption 1). -/
def Obligations.StepRunsDecoded : Prop := ∀ (s : State),
  (∀ g i n, s.clk.cur = some g.id → s.ig? g.id = some g → decode g.cls (s.groupWords g) = .ok (i, n) → step s = exec i s) ∧
  (∀ g e, s.clk.cur = some g.id → s.ig? g.id = some g → decode g.cls (s.groupWords g) = .error e → step s = .next (s.encStop g e)) ∧
  (∀ id, s.clk.cur = some id → s.ig? id = none → step s = .next { s with clk.cur := none }) ∧
  (∀ i rest at_, s.clk.cur = none → s.bootDo = none → s.wakeDo = none → s.clk.inputs = (at_, i) :: rest →
    at_.toNat ≤ s.clk.tclk.toNat → lateKey i = none → step s = exec i { s with clk.inputs := rest }) ∧
  (∀ core quad rest, s.clk.cur = none → s.bootDo = none → s.wakeDo = none → s.inputDo = none → s.mailDo = none → s.eventDo = none →
    s.clk.todo = (core, quad) :: rest → step s = exec (.quadrantIssueCycle core quad) { s with clk.todo := rest }) ∧
  (s.clk.cur = none → s.bootDo = none → s.wakeDo = none → s.inputDo = none → s.mailDo = none → s.eventDo = none →
    s.clk.todo = [] →
    (∀ part port, s.nextForward = some (part, port) → step s = exec (.forwardingDecision part port) s) ∧
    (∀ at_ h req q fwd rsz recs rest, s.nextForward = none → s.clk.inputs = (at_, .renq h req q fwd rsz recs) :: rest →
      at_.toNat ≤ s.clk.tclk.toNat → step s = exec (.renq h req q fwd rsz recs) { s with clk.inputs := rest }) ∧
    (∀ at_ h e d l core rest, s.nextForward = none → s.clk.inputs = (at_, .preq h e d l core) :: rest →
      at_.toNat ≤ s.clk.tclk.toNat →
      (∀ x ∈ rest, ∀ k, lateKey x.2 = some k → s.clk.tclk.toNat < x.1.toNat) →
      step s = exec (.preq h e d l core) { s with clk.inputs := rest }))

/-- A cycle passes (R6, R179, R180). When nothing else is due, a step lets one cycle pass: 10/13 ns of the transit clock,
and exactly the results that are due are written to their registers. -/
def Obligations.CyclesPass : Prop := ∀ (s : State), s.clk.cur = none → s.clk.todo = [] → s.bootDo = none → s.wakeDo = none →
  s.inputDo = none → s.mailDo = none → s.eventDo = none → s.lateDo = none →
  ∃ t, step s = .next t ∧ t.clk.cycle = s.clk.cycle + 1 ∧
    (s.clk.tfrac < 13 → t.clk.tfrac < 13 ∧ t.clk.tfrac % 13 = (s.clk.tfrac + 10) % 13 ∧
      (t.clk.tclk = s.clk.tclk + if s.clk.tfrac < 3 then 0 else 1)) ∧
    t.m = s.m ∧ t.e = s.e ∧ t.gr = s.gr ∧ t.h = s.h ∧ t.y = s.y ∧ t.sch = { s.sch with pend := t.sch.pend } ∧
    (∀ p, p ∈ t.sch.pend ↔ p ∈ s.sch.pend ∧ s.clk.cycle + 1 < p.due) ∧
    ((∀ p ∈ s.sch.pend, s.clk.cycle + 1 < p.due) → t.r = s.r) ∧
    (∀ p x n w, s.sch.pend = [p] → p.due ≤ s.clk.cycle + 1 → p.writes = [⟨x, .v n, w⟩] → p.lbls = [] → p.flags = [] →
      p.links = [] → p.toks = [] →
      t.r.s = s.r.s ∧ t.r.m = s.r.m ∧ t.r.lbl = s.r.lbl ∧ t.r.thr = s.r.thr ∧
      ∀ y k, t.vGet y k = if y = x ∧ k = n ∧ (s.thr x).live = true then w else s.vGet y k)

/-- Words of the spec decode as it says (R172, R173, R174, R176, R177, Table 6.10, Table 7.11, Table 8.12, Table 9.12, Table
10.11, Table 11.11). Words of the tables of encoded examples, at least one for each engine class, decode to the instruction
and the fields that the table names. -/
def Obligations.DecodesAre : Prop :=
  decode 3 [0xE0140C30, 0x000207E0] = .ok (.lds ⟨0, 12, 20, 0xE0, 0xE0, 0, 0, false, 7, 0⟩, 2) ∧
  decode 0 [0xFFFDC2AA] = .ok (.bra ⟨-9, false, 2, 2⟩, 1) ∧
  decode 0 [0xFF04F130, 0x091167E0, 0x00000064] = .ok (.icmpLong ⟨0, 0xF1, 4, 0xFF, 0xE0, 0x024, 6, false, 7, 100⟩, 3) ∧
  decode 0 [0x0010072C] = .ok (.call ⟨64, false, 7, 0⟩, 1) ∧
  decode 2 [0xE0010230, 0x000017E0] = .ok (.frcp ⟨0, 2, 1, 0xE0, 0xE0, 0, 1, false, 7, 0⟩, 2) ∧
  decode 1 [0x09020531, 0x400467E0] = .ok (.cvt ⟨0, 5, 2, 9, 0xE0, 0x4004, 6, false, 7, 0⟩, 2) ∧
  decode 3 [0x040A0230, 0x60470706] = .ok (.cas ⟨0, 2, 10, 4, 6, 0x181, 0, false, 7, 0⟩, 2) ∧
  decode 4 [0xE0020330, 0x8002170C] = .ok (.redt ⟨0, 3, 2, 0xE0, 12, 0x200, 1, false, 7, 0⟩, 2) ∧
  decode 5 [0xE3E0FF03] = .ok (.waitb ⟨0, 0xFF, 0xE0, 0xE3, 0⟩, 1) ∧
  decode 5 [0xE0080630, 0x000917E0] = .ok (.mxissue ⟨0, 6, 8, 0xE0, 0xE0, 0, 1, false, 7, 0⟩, 2) ∧
  decode 6 [0xE004FF30, 0x100427E0] = .ok (.decdepLong ⟨0, 0xFF, 4, 0xE0, 0xE0, 0x040, 2, false, 7, 0⟩, 2) ∧
  decode 6 [0xFF03FF09, 0xC0C0C000] = .ok (.pldem ⟨0, 0xFF, 3, 0xFF, 0xC0C0C000⟩, 2) ∧
  decode 0 [0xFF8002CA, 0x00000064] = .ok (.imul ⟨3, 2, 0x80, 0xFF, 100⟩, 2)

/-- Decoding and encoding agree (R172, R173, R174, R175, R176, R177, R187). Every well-formed instruction word decodes, in
its class (a branch in any class) and whatever follows, to itself; and every sequence of words that decodes is the encoding
of a well-formed instruction. -/
def Obligations.EncodeDecode : Prop :=  (∀ (i : Instr) (c op : Nat) (b : Body) (rest : List Word) (cls : Nat), i.view = some (c, op, b) → i.wellFormed = true →
    (cls = c ∨ (∃ f, b = .off f) ∨ (∃ f, b = .tgt f) ∨ (∃ f, b = .ret f)) →
    decode cls (encode i ++ rest) = .ok (i, (encode i).length)) ∧
  (∀ (cls n : Nat) (ws : List Word) (i : Instr), decode cls ws = .ok (i, n) → i.wellFormed = true ∧ n ≤ ws.length ∧
    encode i = ws.take n ∧ ∃ c op b, i.view = some (c, op, b) ∧
      (cls = c ∨ (∃ f, b = .off f) ∨ (∃ f, b = .tgt f) ∨ (∃ f, b = .ret f)))

/-- Encoding faults and the taking of a fault (R39, R187, R384, R385). A word that decodes to nothing takes the fault of its
kind on its team; taking a fault writes its 64-byte report where the queue has room, counts it as lost where it has none,
and ends the team and nothing of another. -/
def Obligations.EncodingFaults : Prop :=
  (∀ (s : State) (g : IssueGroup) (l : Lane) (e : EncFault),
    s.clk.cur = some g.id → s.ig? g.id = some g → decode g.cls (s.groupWords g) = .error e → s.members g.id = [l] →
    step s = .next (({ s with clk.cur := none } : State).takeFault l.t.tid
      (match e with | .truncated => 0x01 | .illegalOpcode => 0x03 | .illegalOperand => 0x04 | .reservedBit => 0x05)
      0 g.core g.quad l.q g.pc ((s.codeWord g.part g.ctx g.pc).getD 0) 0 0)) ∧
  (∀ (s : State) (t : Team) (tid code detail core quad lane pc addr addr2 : Nat) (word : Word),
    s.team? tid = some t →
    let u := s.takeFault tid code detail core quad lane pc word addr addr2
    let n := s.fnOf t.part
    let f := s.fn n
    (u.team? tid = none ∧ (∀ k, k ≠ tid → u.team? k = s.team? k) ∧
      (∀ p, p ∈ u.sch.paths ↔ p ∈ s.sch.paths ∧ p.g.tid ≠ tid) ∧
      (∀ p, p ∈ u.sch.pendL ↔ p ∈ s.sch.pendL ∧ p.tid ≠ tid) ∧
      (∀ r, mget? s.sch.runs t.run = some r → mget? u.sch.runs t.run = some { r with ended := r.ended + 1, terminated := true }) ∧
      (∀ x k, x.tid ≠ tid → u.vGet x k = s.vGet x k)) ∧
    (f.fqbase = 0 → u.h = s.h) ∧
    (f.fqbase ≠ 0 → f.full = true → (u.fn n).lost = (if f.lost = 0xFFFFFFFF then f.lost else f.lost + 1) ∧ (u.fn n).tail = f.tail) ∧
    (f.fqbase ≠ 0 → f.full = false → s.hasPins tid = false →
      (u.fn n).tail = f.tail + 1 ∧ (u.fn n).lost = f.lost ∧ u.m.mem = s.m.mem ∧
      creads u.m.host (f.fqbase.toNat + 64 * (f.tail.toNat % 2 ^ f.fqlog)) 64 =
        (t.rep code detail core quad lane pc word addr addr2).bytes s.y.station s.clk.tclk))

/-- No step is refused (R39, R187). No instruction, event or step is ever refused, and a step stops only where an input is
an instruction word that no issue group stands at. -/
def Obligations.StepGoesOn : Prop :=  (∀ (i : Instr) (s : State), (∃ t, exec i s = .next t) ∨ (exec i s = .fault .noIssueGroup ∧ i.view.isSome = true ∧
    s.clk.cur.bind s.ig? = none)) ∧
  (∀ (s : State), (∃ t, step s = .next t) ∨ (step s = .fault .noIssueGroup ∧ s.clk.cur = none ∧
    ∃ i u, i.view.isSome = true ∧ s.choose = .run i u))

/-- What reset leaves (R87, R359, R366, R371, R378, R384, R387, R390, R392, R398, R418). The values that the spec gives for
reset, and memory in canonical form. -/
def Obligations.ResetState : Prop :=  (∀ a, cget State.reset.m.mem a = 0) ∧ (∀ n, State.reset.frame n = {}) ∧ State.reset.sch.teams = [] ∧
  State.reset.y.station = 0x3FF ∧ State.reset.y.meas = List.replicate 8 (List.replicate 48 0) ∧ State.reset.y.measLog = [] ∧
  State.reset.y.slots = [] ∧ State.reset.y.policies = [] ∧
  (∀ n, (State.reset.fn n).hifdrv = 0 ∧ (State.reset.fn n).hifsel = 0 ∧ (State.reset.fn n).apbase = 0 ∧
    (State.reset.fn n).fqbase = 0 ∧ (State.reset.fn n).head = 0 ∧ (State.reset.fn n).tail = 0 ∧ (State.reset.fn n).lost = 0 ∧
    (State.reset.fn n).ftmo = 10 ∧ (State.reset.fn n).mbbusy = false ∧ (State.reset.fn n).cfgbusy = false) ∧
  (∀ n, (State.reset.part n).lease = 500 ∧ (State.reset.part n).meth = 7 ∧ (State.reset.part n).dl = 20000 ∧
    (State.reset.part n).fwdper = 256) ∧
  State.reset.y.tmig = 95 ∧ State.reset.y.minres = 2000 ∧ State.reset.memOk = true

/-- What a thread starts with (R35, R61, R70, R90, R146, R148, R180, R202, R204). A thread starts live with its SEED, LINK,
FSTAT, WCT, TRAPNO, LPART and tokens, with its record or the parameter pointer in its first registers, and no other thread
changes. -/
def Obligations.ThreadsStart : Prop := ∀ (s : State) (tid : Nat) (st : Stage) (x : Seed) (grp lane : Nat),
  let t : TRef := ⟨tid, grp, lane⟩
  let n := grp * st.width + lane
  let u := s.startThread tid st x grp lane
  (u.thr t).live = true ∧ (u.thr t).seed = BitVec.ofNat 32 ((n + 1) * 0x2C1B3C6D) ∧ (u.thr t).fstat = 0 ∧ (u.thr t).wct = 0 ∧
  (u.thr t).link = 0xFFFFFFFC ∧ (u.thr t).trapno = 0 ∧ (u.thr t).lpart = 5 ∧ (u.thr t).tok = [0, 0, 0, 0, 0, 0] ∧
  (∀ y, y ≠ t → u.thr y = s.thr y) ∧ (∀ y k, y ≠ t → u.vGet y k = s.vGet y k) ∧
  (∀ r, x.lr = none → x.recs[n]? = some r → r.bytes.length ≤ 64 → 16 ≤ 8 * st.rows → (∀ k, s.vGet t k = 0) →
    (∀ k, k < 16 → 4 * k + 4 ≤ r.bytes.length → u.vGet t k = BitVec.ofNat 32 (leNat ((r.bytes.drop (4 * k)).take 4))) ∧
    ∀ k, k < 16 → r.bytes.length ≤ 4 * k → u.vGet t k = 0) ∧
  (∀ lr, x.lr = some lr → 16 ≤ 8 * st.rows → (∀ k, s.vGet t k = 0) → u.vGet t 0 = lr.param.setWidth 32 ∧
    u.vGet t 1 = (lr.param >>> 32).setWidth 32 ∧ ∀ k, 2 ≤ k → k < 16 → u.vGet t k = 0)

/-- Every step keeps memory in canonical form (R4, R74, R366). If device and host memory are in canonical form and a step
answers a next state, they are in canonical form there. -/
def Obligations.StepKeepsMemory : Prop :=  ∀ (s t : State), s.memOk = true → step s = .next t → t.memOk = true
end

