-- ==== Sys2Proof/Laws/Mem.lean ====
section
/-! SUPPORT. Memory cells: a read after a write, the canonical form and that each operation over cells keeps it, and that
canonical memories that read alike are equal. -/

namespace Sys2Proof.Machine

open Sys2Proof

/-! ## Canonical form -/

theorem cwfFrom_cons (lo a : Nat) (b : Byte) (m : List Host.Cell) :
    cwfFrom lo ((a, b) :: m) = true ↔ lo ≤ a ∧ b ≠ 0 ∧ cwfFrom (a + 1) m = true := by
  simp only [cwfFrom, Bool.and_eq_true, decide_eq_true_eq, and_assoc]

theorem cwfFrom_mono {lo lo' : Nat} (h : lo' ≤ lo) (m : List Host.Cell) (hm : cwfFrom lo m = true) :
    cwfFrom lo' m = true := by
  cases m with
  | nil => rfl
  | cons c m =>
    obtain ⟨a, b⟩ := c
    rw [cwfFrom_cons] at hm ⊢
    exact ⟨Nat.le_trans h hm.1, hm.2⟩

/-- Below its first possible address a canonical memory reads as 0. -/
theorem cget_below {lo a : Nat} (m : List Host.Cell) (hm : cwfFrom lo m = true) (ha : a < lo) : cget m a = 0 := by
  cases m with
  | nil => rfl
  | cons c m =>
    obtain ⟨a', b⟩ := c
    rw [cwfFrom_cons] at hm
    rw [cget, if_neg (by omega), if_pos (by omega)]

/-- Writing a byte keeps the canonical form. -/
theorem cset_cwfFrom {lo a : Nat} (m : List Host.Cell) (b : Byte) (ha : lo ≤ a) (hm : cwfFrom lo m = true) :
    cwfFrom lo (cset m a b) = true := by
  induction m generalizing lo with
  | nil =>
    rw [cset]; split
    · rfl
    · rename_i hb; exact (cwfFrom_cons ..).2 ⟨ha, hb, rfl⟩
  | cons c m ih =>
    obtain ⟨a', b'⟩ := c
    have ⟨h1, h2, h3⟩ := (cwfFrom_cons ..).1 hm
    rw [cset]; split
    · split
      · exact hm
      · rename_i hlt hb; exact (cwfFrom_cons ..).2 ⟨ha, hb, (cwfFrom_cons ..).2 ⟨hlt, h2, h3⟩⟩
    · split
      · rename_i _ he
        subst he
        split
        · exact cwfFrom_mono (Nat.le_succ_of_le h1) m h3
        · rename_i hb; exact (cwfFrom_cons ..).2 ⟨h1, hb, h3⟩
      · exact (cwfFrom_cons ..).2 ⟨h1, h2, ih (by omega) h3⟩

theorem cset_wf (m : List Host.Cell) (a : Nat) (b : Byte) (hm : Memory.wf m = true) : Memory.wf (cset m a b) = true :=
  cset_cwfFrom m b (Nat.zero_le a) hm

/-- Writing bytes keeps the canonical form. -/
theorem csets_wf (m : List Host.Cell) (a : Nat) (bs : List Byte) (hm : Memory.wf m = true) :
    Memory.wf (csets m a bs) = true := by
  induction bs generalizing m a with
  | nil => exact hm
  | cons b bs ih => exact ih _ _ (cset_wf m a b hm)

/-- Dropping cells keeps the canonical form. -/
theorem cwfFrom_filter {lo : Nat} (p : Host.Cell → Bool) (m : List Host.Cell) (hm : cwfFrom lo m = true) :
    cwfFrom lo (m.filter p) = true := by
  induction m generalizing lo with
  | nil => rfl
  | cons c m ih =>
    obtain ⟨a, b⟩ := c
    have ⟨h1, h2, h3⟩ := (cwfFrom_cons ..).1 hm
    rw [List.filter_cons]; split
    · exact (cwfFrom_cons ..).2 ⟨h1, h2, ih h3⟩
    · exact cwfFrom_mono (Nat.le_succ_of_le h1) _ (ih h3)

theorem filter_wf (p : Host.Cell → Bool) (m : List Host.Cell) (hm : Memory.wf m = true) : Memory.wf (m.filter p) = true :=
  cwfFrom_filter p m hm

/-! ## Reading after writing -/

/-- What one byte reads after a write of one byte. -/
theorem cget_cset_from {lo : Nat} (m : List Host.Cell) (a x : Nat) (b : Byte) (hm : cwfFrom lo m = true) :
    cget (cset m a b) x = if x = a then b else cget m x := by
  induction m generalizing lo with
  | nil =>
    rw [cset]; split
    · rename_i hb; subst hb; split <;> rfl
    · rw [cget, cget]
      by_cases hx : x = a
      · rw [if_pos hx.symm, if_pos hx]
      · rw [if_neg (Ne.symm hx), if_neg hx]; split <;> rfl
  | cons c m ih =>
    obtain ⟨a', b'⟩ := c
    have ⟨h1, h2, h3⟩ := (cwfFrom_cons ..).1 hm
    rw [cset]
    by_cases hlt : a < a'
    · rw [if_pos hlt]
      by_cases hb : b = 0
      · rw [if_pos hb]
        by_cases hx : x = a
        · rw [if_pos hx, hb, cget, if_neg (by omega), if_pos (by omega)]
        · rw [if_neg hx]
      · rw [if_neg hb, cget]
        by_cases hx : x = a
        · rw [if_pos hx.symm, if_pos hx]
        · rw [if_neg (Ne.symm hx), if_neg hx]
          split
          · rw [cget, if_neg (by omega), if_pos (by omega)]
          · rfl
    · rw [if_neg hlt]
      by_cases he : a = a'
      · subst he
        rw [if_pos rfl]
        by_cases hb : b = 0
        · rw [if_pos hb]
          by_cases hx : x = a
          · rw [if_pos hx, hb]; exact cget_below m h3 (by omega)
          · rw [if_neg hx, cget, if_neg (Ne.symm hx)]
            split
            · exact cget_below m h3 (by omega)
            · rfl
        · rw [if_neg hb, cget, cget]
          by_cases hx : x = a
          · rw [if_pos hx.symm, if_pos hx]
          · rw [if_neg (Ne.symm hx), if_neg hx, if_neg (Ne.symm hx)]
      · rw [if_neg he, cget, cget, ih h3]
        split
        · rw [if_neg (by omega)]
        · split
          · rw [if_neg (by omega)]
          · rfl

theorem cget_cset (m : List Host.Cell) (a x : Nat) (b : Byte) (hm : Memory.wf m = true) :
    cget (cset m a b) x = if x = a then b else cget m x := cget_cset_from m a x b hm

/-- What one byte reads after a write of several: inside them its own, elsewhere what it was. -/
theorem cget_csets (m : List Host.Cell) (a x : Nat) (bs : List Byte) (hm : Memory.wf m = true) :
    cget (csets m a bs) x = if a ≤ x ∧ x < a + bs.length then bs.getD (x - a) 0 else cget m x := by
  induction bs generalizing m a with
  | nil => simp only [csets, List.length_nil]; rw [if_neg (by omega)]
  | cons b bs ih =>
    rw [csets, ih _ _ (cset_wf m a b hm), cget_cset m a x b hm]
    simp only [List.length_cons]
    by_cases hx : x = a
    · subst hx
      rw [if_neg (by omega), if_pos rfl, if_pos (by omega)]; simp
    · by_cases hin : a + 1 ≤ x ∧ x < a + 1 + bs.length
      · rw [if_pos hin, if_pos (by omega)]
        have : x - a = (x - (a + 1)) + 1 := by omega
        rw [this]; simp
      · rw [if_neg hin, if_neg hx, if_neg (by omega)]

theorem creads_length (m : List Host.Cell) (a n : Nat) : (creads m a n).length = n := by
  induction n generalizing a with
  | zero => rfl
  | succ n ih => simp [creads, ih]

/-- A read of several bytes reads each at its address. -/
theorem creads_getD (m : List Host.Cell) (a n k : Nat) (hk : k < n) : (creads m a n).getD k 0 = cget m (a + k) := by
  induction n generalizing a k with
  | zero => omega
  | succ n ih =>
    cases k with
    | zero => simp [creads]
    | succ k =>
      have := ih (a + 1) k (by omega)
      simp only [creads, List.getD_cons_succ, this]
      congr 1; omega

/-- A read of what a write wrote gives it back. -/
theorem creads_csets (m : List Host.Cell) (a : Nat) (bs : List Byte) (hm : Memory.wf m = true) :
    creads (csets m a bs) a bs.length = bs := by
  apply List.ext_getElem (creads_length _ _ _)
  intro k h1 h2
  have h := creads_getD (csets m a bs) a bs.length k h2
  rw [cget_csets m a _ bs hm, if_pos (by omega), Nat.add_sub_cancel_left] at h
  simpa [List.getD_eq_getElem?_getD, List.getElem?_eq_getElem h1, List.getElem?_eq_getElem h2] using h

/-! ## Equal memories are equal data -/

theorem cwfFrom_ext {lo : Nat} (m m' : List Host.Cell) (hm : cwfFrom lo m = true) (hm' : cwfFrom lo m' = true)
    (h : ∀ a, cget m a = cget m' a) : m = m' := by
  induction m generalizing lo m' with
  | nil =>
    cases m' with
    | nil => rfl
    | cons c m' =>
      obtain ⟨a, b⟩ := c
      have := h a
      rw [cget, cget, if_pos rfl] at this
      exact absurd this.symm ((cwfFrom_cons ..).1 hm').2.1
  | cons c m ih =>
    obtain ⟨a, b⟩ := c
    have ⟨_, h2, h3⟩ := (cwfFrom_cons ..).1 hm
    cases m' with
    | nil =>
      have := h a
      rw [cget, cget, if_pos rfl] at this
      exact absurd this h2
    | cons c' m' =>
      obtain ⟨a', b'⟩ := c'
      have ⟨_, h2', h3'⟩ := (cwfFrom_cons ..).1 hm'
      have haa : a = a' := by
        rcases Nat.lt_trichotomy a a' with hl | he | hl
        · have := h a
          rw [cget, if_pos rfl, cget, if_neg (by omega), if_pos hl] at this
          exact absurd this h2
        · exact he
        · have := h a'
          rw [cget, if_neg (by omega), if_pos hl, cget, if_pos rfl] at this
          exact absurd this.symm h2'
      subst haa
      have hb := h a
      rw [cget, if_pos rfl, cget, if_pos rfl] at hb
      subst hb
      refine congrArg _ (ih m' h3 h3' fun x => ?_)
      by_cases hl : x < a + 1
      · rw [cget_below m h3 hl, cget_below m' h3' hl]
      · have hx := h x
        rw [cget, if_neg (by omega), if_neg (by omega), cget, if_neg (by omega), if_neg (by omega)] at hx
        exact hx

/-- Canonical memories that read alike at every address are equal. -/
theorem wf_ext (m m' : List Host.Cell) (hm : Memory.wf m = true) (hm' : Memory.wf m' = true)
    (h : ∀ a, cget m a = cget m' a) : m = m' := cwfFrom_ext m m' hm hm' h

/-! ## The operations of State over memory -/

/-- A write at a location keeps both memories canonical. -/
theorem putLoc_wf (s : State) (loc : Loc) (bs : List Byte) (hm : Memory.wf s.m.mem = true)
    (hh : Memory.wf s.m.host = true) :
    Memory.wf (s.putLoc loc bs).m.mem = true ∧ Memory.wf (s.putLoc loc bs).m.host = true := by
  cases loc with
  | mem a => exact ⟨csets_wf _ _ _ hm, hh⟩
  | host a x => exact ⟨hm, csets_wf _ _ _ hh⟩
  | fab st off => exact ⟨hm, hh⟩

theorem setFrames_mem (xs : List Nat) (f : Frame) (s : State) :
    (xs.foldl (fun s n => s.setFrame n f) s).m.mem = s.m.mem := by
  induction xs generalizing s with
  | nil => rfl
  | cons x xs ih => rw [List.foldl_cons, ih]; rfl

/-- The end of a scrub keeps device memory canonical. -/
theorem endScrub_wf (s : State) (x : Scrub) (hm : Memory.wf s.m.mem = true) : Memory.wf (s.endScrub x).m.mem = true := by
  refine filter_wf _ _ ?_
  rw [setFrames_mem]
  exact hm

/-- Both memories of the machine after reset are canonical. -/
theorem reset_memories_wf : Memory.wf State.reset.m.mem = true ∧ Memory.wf State.reset.m.host = true := ⟨rfl, rfl⟩

end Sys2Proof.Machine
end

