-- ==== Sys2Proof/Tests/Slice0.lean ====
section
/-! SUPPORT. Tests of the model: words of the spec's tables of encoded examples against the decoder and the encoder, the
refusals of WellFormed, the spec's worked examples, single steps, and states that meet the hypotheses of the statements. -/

namespace Sys2Proof.Tests

open Sys2Proof Sys2Proof.Machine

set_option Elab.async false
set_option maxRecDepth 20000

/-! ## Decoding: words of Tables 6.10, 7.11, 8.12, 9.12, 10.11, 11.11, 14.4, 15.3 and 16.5, as their Fields columns name them -/

theorem test_decode_T6_10_lds : decode 3 [0xE0140C30, 0x000207E0] = .ok (.lds ⟨0, 12, 20, 0xE0, 0xE0, 0, 0, false, 7, 0⟩, 2) := by decide
theorem test_decode_T6_10_ffma : decode 1 [0xEC0C04F0, 0x000367E0] = .ok (.ffma ⟨3, 4, 12, 0xEC, 0xE0, 0, 6, false, 7, 0⟩, 2) := by decide
theorem test_decode_T6_10_fadd : decode 1 [0x04040500] = .ok (.fadd ⟨0, 5, 4, 4, 0⟩, 1) := by decide
theorem test_decode_T6_10_iadd : decode 0 [0xE5141408] = .ok (.iadd ⟨0, 20, 20, 0xE5, 0⟩, 1) := by decide
theorem test_decode_T6_10_bra : decode 0 [0xFFFDC2AA] = .ok (.bra ⟨-9, false, 2, 2⟩, 1) := by decide
theorem test_decode_T7_11_imad : decode 0 [0x03020830, 0x000C6709] = .ok (.imad ⟨0, 8, 2, 3, 9, 0, 6, false, 7, 0⟩, 2) := by decide
theorem test_decode_T7_11_icmp : decode 0 [0xFF04F130, 0x091167E0, 0x00000064] = .ok (.icmpLong ⟨0, 0xF1, 4, 0xFF, 0xE0, 0x024, 6, false, 7, 100⟩, 3) := by decide
theorem test_decode_T7_11_lop3 : decode 0 [0x02010530, 0xD8166703] = .ok (.lop3 ⟨0, 5, 1, 2, 3, 0x360, 6, false, 7, 0⟩, 2) := by decide
theorem test_decode_T7_11_lil : decode 0 [0xE0E00231, 0x1F4067E0] = .ok (.lil ⟨0, 2, 0xE0, 0xE0, 0xE0, 0x1F40, 6, false, 7, 0⟩, 2) := by decide
theorem test_decode_T7_11_rdsr : decode 0 [0xFFE00325, 0x00000019] = .ok (.rdsr ⟨0, 3, 0xE0, 0xFF, 0x19⟩, 2) := by decide
theorem test_decode_T7_11_bar : decode 0 [0xE0E0FF06] = .ok (.bar ⟨0, 0xFF, 0xE0, 0xE0, 0⟩, 1) := by decide
theorem test_decode_T7_11_call : decode 0 [0x0010072C] = .ok (.call ⟨64, false, 7, 0⟩, 1) := by decide
theorem test_decode_T8_12_ffma : decode 1 [0x02000430, 0x00436706] = .ok (.ffma ⟨0, 4, 0, 2, 6, 0x001, 6, false, 7, 0⟩, 2) := by decide
theorem test_decode_T8_12_fadd : decode 1 [0x02010330, 0x018067E0] = .ok (.faddLong ⟨0, 3, 1, 2, 0xE0, 0x006, 6, false, 7, 0⟩, 2) := by decide
theorem test_decode_T8_12_fcmp : decode 1 [0xEA01F230, 0x400667E0] = .ok (.fcmpLong ⟨0, 0xF2, 1, 0xEA, 0xE0, 0x100, 6, false, 7, 0⟩, 2) := by decide
theorem test_decode_T8_12_pack : decode 1 [0x0403060C] = .ok (.pack ⟨0, 6, 3, 4, 0⟩, 1) := by decide
theorem test_decode_T8_12_frcp : decode 2 [0xE0010230, 0x000017E0] = .ok (.frcp ⟨0, 2, 1, 0xE0, 0xE0, 0, 1, false, 7, 0⟩, 2) := by decide
theorem test_decode_T8_12_cvt : decode 1 [0xE0010331, 0x00C067E0] = .ok (.cvt ⟨0, 3, 1, 0xE0, 0xE0, 0x00C0, 6, false, 7, 0⟩, 2) := by decide
theorem test_decode_T8_12_cvtMuls : decode 1 [0x09020531, 0x400467E0] = .ok (.cvt ⟨0, 5, 2, 9, 0xE0, 0x4004, 6, false, 7, 0⟩, 2) := by decide
theorem test_decode_T8_12_qblk : decode 1 [0xE0010732, 0x000427E0] = .ok (.qblk ⟨0, 7, 1, 0xE0, 0xE0, 0x0004, 2, false, 7, 0⟩, 2) := by decide
theorem test_decode_T9_12_ld : decode 3 [0xE0840830, 0x108017E0] = .ok (.ld ⟨0, 8, 0x84, 0xE0, 0xE0, 0x042, 1, false, 7, 0⟩, 2) := by decide
theorem test_decode_T9_12_st : decode 3 [0x0314FF01] = .ok (.st ⟨0, 0xFF, 20, 3, 0⟩, 1) := by decide
theorem test_decode_T9_12_stOff : decode 3 [0x0314FF30, 0x0C0167E0] = .ok (.stLong ⟨0, 0xFF, 20, 3, 0xE0, 0x030, 6, false, 7, 0⟩, 2) := by decide
theorem test_decode_T9_12_atom : decode 3 [0x060A0530, 0x0E0527E0] = .ok (.atom ⟨0, 5, 10, 6, 0xE0, 0x038, 2, false, 7, 0⟩, 2) := by decide
theorem test_decode_T9_12_cas : decode 3 [0x040A0230, 0x60470706] = .ok (.cas ⟨0, 2, 10, 4, 6, 0x181, 0, false, 7, 0⟩, 2) := by decide
theorem test_decode_T9_12_fence : decode 3 [0xE0E0FF0A] = .ok (.fence ⟨0, 0xFF, 0xE0, 0xE0, 0⟩, 1) := by decide
theorem test_decode_T9_12_fenceRel : decode 3 [0xE0E0FF30, 0x680A67E0] = .ok (.fenceLong ⟨0, 0xFF, 0xE0, 0xE0, 0xE0, 0x1A0, 6, false, 7, 0⟩, 2) := by decide
theorem test_decode_T9_12_match : decode 4 [0xE0010C30, 0x000407E0] = .ok (.matchI ⟨0, 12, 1, 0xE0, 0xE0, 0, 0, false, 7, 0⟩, 2) := by decide
theorem test_decode_T9_12_redt : decode 4 [0xE0090930, 0x008237E0] = .ok (.redt ⟨0, 9, 9, 0xE0, 0xE0, 0x002, 3, false, 7, 0⟩, 2) := by decide
theorem test_decode_T9_12_redtMsk : decode 4 [0xE0020330, 0x8002170C] = .ok (.redt ⟨0, 3, 2, 0xE0, 12, 0x200, 1, false, 7, 0⟩, 2) := by decide
theorem test_decode_T9_12_tbar : decode 4 [0xE0E0FF07] = .ok (.tbar ⟨0, 0xFF, 0xE0, 0xE0, 0⟩, 1) := by decide
theorem test_decode_T10_11_copy : decode 5 [0xE00AFF00] = .ok (.copy ⟨0, 0xFF, 10, 0xE0, 0⟩, 1) := by decide
theorem test_decode_T10_11_copym : decode 5 [0xE082FF01] = .ok (.copym ⟨0, 0xFF, 0x82, 0xE0, 0⟩, 1) := by decide
theorem test_decode_T10_11_seal : decode 5 [0xE0E0FF02] = .ok (.seal ⟨0, 0xFF, 0xE0, 0xE0, 0⟩, 1) := by decide
theorem test_decode_T10_11_waitb : decode 5 [0xE3E0FF03] = .ok (.waitb ⟨0, 0xFF, 0xE0, 0xE3, 0⟩, 1) := by decide
theorem test_decode_T10_11_osbres : decode 5 [0xE0010530, 0x000407E0] = .ok (.osbres ⟨0, 5, 1, 0xE0, 0xE0, 0, 0, false, 7, 0⟩, 2) := by decide
theorem test_decode_T10_11_plload : decode 5 [0x0402FF06] = .ok (.plload ⟨0, 0xFF, 2, 4, 0⟩, 1) := by decide
theorem test_decode_T10_11_mxissue : decode 5 [0xE0080630, 0x000917E0] = .ok (.mxissue ⟨0, 6, 8, 0xE0, 0xE0, 0, 1, false, 7, 0⟩, 2) := by decide
theorem test_decode_T10_11_mxwait : decode 5 [0x06E0FF0A] = .ok (.mxwait ⟨0, 0xFF, 0xE0, 6, 0⟩, 1) := by decide
theorem test_decode_T10_11_vtrd : decode 5 [0xE0071430, 0x008C27E0] = .ok (.vtrd ⟨0, 20, 7, 0xE0, 0xE0, 0x002, 2, false, 7, 0⟩, 2) := by decide
theorem test_decode_T10_11_vtwr : decode 5 [0x0907FF0D] = .ok (.vtwr ⟨0, 0xFF, 7, 9, 0⟩, 1) := by decide
theorem test_decode_T10_11_chain : decode 5 [0xE003FF0E] = .ok (.chain ⟨0, 0xFF, 3, 0xE0, 0⟩, 1) := by decide
theorem test_decode_T10_11_chwait : decode 5 [0xE0E0FF0F] = .ok (.chwait ⟨0, 0xFF, 0xE0, 0xE0, 0⟩, 1) := by decide
theorem test_decode_T11_11_enq : decode 6 [0xE000FF00] = .ok (.enq ⟨0, 0xFF, 0, 0xE0, 0⟩, 1) := by decide
theorem test_decode_T11_11_enqCh3 : decode 6 [0xE000FF30, 0x300067E0] = .ok (.enqLong ⟨0, 0xFF, 0, 0xE0, 0xE0, 0x0C0, 6, false, 7, 0⟩, 2) := by decide
theorem test_decode_T11_11_decdep : decode 6 [0xE004FF30, 0x100427E0] = .ok (.decdepLong ⟨0, 0xFF, 4, 0xE0, 0xE0, 0x040, 2, false, 7, 0⟩, 2) := by decide
theorem test_decode_T11_11_launch : decode 6 [0xE008FF30, 0x200507E0] = .ok (.launchLong ⟨0, 0xFF, 8, 0xE0, 0xE0, 0x080, 0, false, 7, 0⟩, 2) := by decide
theorem test_decode_T11_11_qlen : decode 6 [0xE0E00930, 0x500317E0] = .ok (.qlen ⟨0, 9, 0xE0, 0xE0, 0xE0, 0x140, 1, false, 7, 0⟩, 2) := by decide
theorem test_decode_T11_11_arcwait : decode 6 [0xE002FF08] = .ok (.arcwait ⟨0, 0xFF, 2, 0xE0, 0⟩, 1) := by decide
theorem test_decode_T11_11_arcwaitSwap : decode 6 [0xE002FF30, 0x004867E0] = .ok (.arcwaitSwap ⟨0, 0xFF, 2, 0xE0, 0xE0, 0x001, 6, false, 7, 0⟩, 2) := by decide
theorem test_decode_T11_11_pldem : decode 6 [0xFF03FF09, 0xC0C0C000] = .ok (.pldem ⟨0, 0xFF, 3, 0xFF, 0xC0C0C000⟩, 2) := by decide
theorem test_decode_T11_11_give : decode 6 [0xE3E0FF0D] = .ok (.give ⟨0, 0xFF, 0xE0, 0xE3, 0⟩, 1) := by decide
theorem test_decode_T11_11_claim : decode 6 [0xE3E0FF0E] = .ok (.claim ⟨0, 0xFF, 0xE0, 0xE3, 0⟩, 1) := by decide
theorem test_decode_T14_4_arcinit : decode 6 [0xFF08FF30, 0x000637E0, 0x00000028] = .ok (.arcinitLong ⟨0, 0xFF, 8, 0xFF, 0xE0, 0, 3, false, 7, 40⟩, 3) := by decide
theorem test_decode_T14_4_launch : decode 6 [0xE00FFF30, 0x100561E0] = .ok (.launchLong ⟨0, 0xFF, 15, 0xE0, 0xE0, 0x040, 6, false, 1, 0⟩, 2) := by decide
theorem test_decode_T14_4_imul : decode 0 [0xFF8002CA, 0x00000064] = .ok (.imul ⟨3, 2, 0x80, 0xFF, 100⟩, 2) := by decide
theorem test_decode_T15_3_isub : decode 0 [0x14181AC9] = .ok (.isub ⟨3, 26, 24, 20, 0⟩, 1) := by decide
theorem test_decode_T15_3_red : decode 3 [0xE11CFF09] = .ok (.red ⟨0, 0xFF, 28, 0xE1, 0⟩, 1) := by decide
theorem test_decode_T16_5_mxfence : decode 5 [0xE0E0FF30, 0x000861E0] = .ok (.mxfenceLong ⟨0, 0xFF, 0xE0, 0xE0, 0xE0, 0, 6, false, 1, 0⟩, 2) := by decide
theorem test_decode_T16_5_plload : decode 5 [0xFF14FF30, 0x000621E0, 0x00004080] = .ok (.plloadLong ⟨0, 0xFF, 20, 0xFF, 0xE0, 0, 2, false, 1, 0x4080⟩, 3) := by decide
theorem test_decode_T16_5_plstate : decode 6 [0xE01A0830, 0x018A57E0] = .ok (.plstate ⟨0, 8, 26, 0xE0, 0xE0, 0x006, 5, false, 7, 0⟩, 2) := by decide
theorem test_decode_T16_5_shfl : decode 4 [0xE00D0D30, 0x000107E0] = .ok (.shfl ⟨0, 13, 13, 0xE0, 0xE0, 0, 0, false, 7, 0⟩, 2) := by decide
theorem test_decode_T16_5_arcadd : decode 6 [0xE116FF07] = .ok (.arcadd ⟨0, 0xFF, 22, 0xE1, 0⟩, 1) := by decide
theorem test_decode_T16_5_gate : decode 6 [0xE00CFF30, 0x000B61E0] = .ok (.gateLong ⟨0, 0xFF, 12, 0xE0, 0xE0, 0, 6, false, 1, 0⟩, 2) := by decide

/-- R187: a clause that ends within an instruction. -/
theorem test_decode_truncated : decode 0 [0x03020830] = .error .truncated := by decide

/-- R187: opcode 0x3E is no operation of class 0. -/
theorem test_decode_illegal_opcode : decode 0 [0xE0E0FF3E, 0x000467E0] = .error .illegalOpcode := by decide

/-! ## Encoding -/

/-- The words of Table 6.10 for `lds v12, [v20]`, token 0. -/
theorem test_encode_lds : encode (.lds ⟨0, 12, 20, 0xE0, 0xE0, 0, 0, false, 7, 0⟩) = [0xE0140C30, 0x000207E0] := by decide

/-- The words of Table 7.11 for an ICMP with a literal. -/
theorem test_encode_icmp :
    encode (.icmpLong ⟨0, 0xF1, 4, 0xFF, 0xE0, 0x024, 6, false, 7, 100⟩) = [0xFF04F130, 0x091167E0, 0x00000064] := by decide

theorem test_encode_bra : encode (.bra ⟨-9, false, 2, 2⟩) = [0xFFFDC2AA] := by decide

/-! ## WellFormed: each check refuses a term -/

theorem test_wf_good : (Instr.iadd ⟨0, 1, 2, 3, 0⟩).wellFormed = true := by decide
/-- R164: 0xD0 names no operand. -/
theorem test_wf_bad_operand : (Instr.iadd ⟨0, 1, 0xD0, 3, 0⟩).check = some .illegalOperand := by decide
/-- R165: a literal stands only in source B. -/
theorem test_wf_literal_in_a : (Instr.iadd ⟨0, 1, 0xFF, 3, 0⟩).check = some .illegalOperand := by decide
/-- R166: a 64-bit destination is an even pair. -/
theorem test_wf_odd_pair : (Instr.imadw ⟨0, 9, 2, 3, 4, 0, 6, false, 7, 0⟩).check = some .illegalOperand := by decide
/-- R189: MOD bits above the fields of an integer operation are reserved. -/
theorem test_wf_reserved_mod : (Instr.iaddLong ⟨0, 1, 2, 3, 0xE0, 0x200, 6, false, 7, 0⟩).check = some .reservedBit := by decide
/-- Table 6.8: a token of 7. -/
theorem test_wf_token_7 : (Instr.iaddLong ⟨0, 1, 2, 3, 0xE0, 0, 7, false, 7, 0⟩).check = some .illegalOperand := by decide
/-- R175: an unused source holds 0xE0. -/
theorem test_wf_unused_source : (Instr.iaddLong ⟨0, 1, 2, 3, 5, 0, 6, false, 7, 0⟩).check = some .reservedBit := by decide
/-- R175: an unused destination holds 0xFF. -/
theorem test_wf_unused_dst : (Instr.st ⟨0, 3, 20, 3, 0⟩).wellFormed = false := by decide
/-- R176: a literal word without SRCB = 0xFF is no encoding. -/
theorem test_wf_stray_literal : (Instr.iadd ⟨0, 1, 2, 3, 5⟩).wellFormed = false := by decide
/-- Two rows of the table share an opcode: ARCWAIT with its swap bit belongs to the other row. -/
theorem test_wf_other_row : (Instr.arcwaitLong ⟨0, 0xFF, 2, 0xE0, 0xE0, 0x001, 6, false, 7, 0⟩).wellFormed = false := by decide
/-- R143: SR rounds only to 16 bits or fewer. -/
theorem test_wf_sr_f32 : (Instr.faddLong ⟨0, 3, 1, 2, 0xE0, 0x014, 6, false, 7, 0⟩).check = some .illegalOperand := by decide
/-- Events have no words. -/
theorem test_wf_event : Instr.powerLoss.wellFormed = true := by decide

/-! ## Number formats -/

/-- Table 5.4. -/
theorem test_k8_codes : [0x01, 0x30, 0x3F, 0x40, 0x41, 0x58, 0x60, 0x7E, 0x7F, 0xB0].map (fun c => roundTo fmtF32 0 (decode5 fmtK8 c) 0) =
    [0x39800000, 0x3F000000, 0x3F780000, 0x3F800000, 0x3F880000, 0x40400000, 0x40800000, 0x44800000, 0x45800000, 0xBF000000].map
      fun c => (c, 0) := by decide

/-- The worked example behind R147: SEED 1 draws 0x00042021. -/
theorem test_draw : draw 1 = 0x00042021 := by decide

/-- The same example: FP32 1.03125 to k8 under SR gives 0x41 with NX, under RNE 0x40. -/
theorem test_sr_k8 : roundDraw fmtK8 5 false (decode5 fmtF32 0x3F840000) 1 = (0x41, fNX, 0x00042021) ∧
    roundDraw fmtK8 0 false (decode5 fmtF32 0x3F840000) 1 = (0x40, fNX, 1) := by decide

/-- Table 8.7, to k8 and i4. -/
theorem test_conversions_k8 :
    roundTo fmtK8 0 (decode5 fmtF32 0x3E99999A) 0 = (0x23, fNX) ∧ roundTo fmtK8 2 (decode5 fmtF32 0x3E99999A) 0 = (0x24, fNX) ∧
    roundTo fmtK8 0 (decode5 fmtF32 0xBE99999A) 0 = (0xA3, fNX) ∧
    roundTo fmtK8 0 (decode5 fmtF32 0x459C4000) 0 = (0x7F, fSATF ||| fNX) ∧
    roundTo fmtK8 0 (decode5 fmtF32 0x3727C5AC) 0 = (0x01, fUF ||| fNX) := by decide

theorem test_conversions_i4 :
    roundTo fmtI4 0 (decode5 fmtF32 0x40200000) 0 = (0x2, fNX) ∧ roundTo fmtI4 2 (decode5 fmtF32 0xC0200000) 0 = (0xE, fNX) ∧
    roundTo fmtI4 0 (decode5 fmtF32 0xC119999A) 0 = (0x9, fSATF ||| fNX) ∧
    roundTo fmtI4 0 (decode5 fmtF32 0x7FC00000) 0 = (0x0, fNV) := by decide

/-- Table 8.7, to E4M3. -/
theorem test_conversions_e4m3 :
    roundTo fmtE4M3 0 (decode5 fmtF32 0x43960000) 0 = (0x79, fNX) ∧ roundTo fmtE4M3 0 (decode5 fmtF32 0x43E60000) 0 = (0x7E, fNX) ∧
    roundTo fmtE4M3 0 (decode5 fmtF32 0x43FA0000) 0 = (0x7F, fOF ||| fNX) ∧
    roundTo fmtE4M3 4 (decode5 fmtF32 0x43FA0000) 0 = (0x7E, fSATF ||| fNX) ∧
    roundTo fmtE4M3 0 (decode5 fmtF32 0x3A83126F) 0 = (0x01, fUF ||| fNX) := by decide

/-- Table 8.10: the shared scale of 6.0, 0.1, −1.0 and 0.0 in E4M3. -/
theorem test_qblk_scale :
    qblkScale fmtE4M3 ([0x40C00000, 0x3DCCCCCD, 0xBF800000, 0].map (decode5 fmtF32)) = 121 := by decide

/-- Table 5.10: the tree sum of 1.0, 1.0, 2^24 and 1.0 is 16,777,218, and its inclusive scans at 0 and 1 are 1.0 and 2.0. -/
theorem test_tree_sum :
    let vals := [(0, 0x3F800000), (1, 0x3F800000), (2, 0x4B800000), (3, 0x3F800000)]
    (reduceAt 0 2 4 vals fun _ => true).1 = 0x4B800001 ∧ (reduceAt 0 2 4 vals fun j => j ≤ 0).1 = 0x3F800000 ∧
      (reduceAt 0 2 4 vals fun j => j ≤ 1).1 = 0x40000000 ∧ (reduceAt 0 2 4 vals fun j => j < 0).1 = 0x80000000 := by decide

/-- The worked example behind R154: 2^24 followed by fifteen values of 1.0 sums to 16,777,232. -/
theorem test_block_sum :
    (blockSum ((0x4B80 :: List.replicate 15 0x3F80).map (decode5 fmtBF16)) (List.replicate 16 (decode5 fmtE4M3 0x38)) (some 0) (some 0)).1 =
      decode5 fmtF32 0x4B800008 := by decide

/-- Table 22.8: stations that speak 1.0 to 1.2 and 1.0 to 1.1 agree on 1.1; with one that speaks 1.0 alone, on 1.0. -/
theorem test_versions : commonVersion 0x01020100 0x01010100 = some (1, 1) ∧ commonVersion 0x01020100 0x01000100 = some (1, 0) ∧
    commonVersion 0x01020101 0x01000100 = none := by decide

/-- FIPS 180-4: SHA-384 of the three bytes "abc" begins cb00753f. -/
theorem test_sha384_abc : (sha384 [0x61, 0x62, 0x63]).take 4 = [0xcb, 0x00, 0x75, 0x3f] := by decide +kernel

/-! ## Memory -/

/-- A read after a write, little-endian; and a byte of 0 leaves no cell. -/
theorem test_memory : creads (csets [] 10 (natLE 4 0x12005678)) 10 4 = [0x78, 0x56, 0x00, 0x12] ∧
    csets [] 10 (natLE 4 0x12005678) = [(10, 0x78), (11, 0x56), (13, 0x12)] := by decide

/-! ## Single steps: one thread of a new team stands at the word -/

/-- A state in which the word is the next to issue. -/
def onWord (i : Instr) : State := State.reset.withClause i.cls (encode i)

/-- The issue group at the word. -/
def igOf (s : State) : IssueGroup :=
  match s.sch.igs with
  | g :: _ => g
  | [] => ⟨0, 0, 0, 0, 0, 0, 0, 0, 0, 0, false, 0, 0, [], none, none, none⟩

/-- The groups of the state are formed by ready paths, whose threads still arrive. -/
def arriving (s : State) : State := { s with sch.igs := s.sch.igs.map fun g => { g with setAt := none } }

/-- Its one thread. -/
def t0 : TRef := ⟨1, 0, 0⟩

/-- The lane of that thread. -/
def l0 : Lane := ⟨t0, 1, 0, 0⟩

/-- v registers of the thread. -/
def withV (s : State) (xs : List (Nat × Word)) : State := xs.foldl (fun s x => s.vSet t0 x.1 x.2) s

/-- The state after the word. -/
def after (i : Instr) (s : State) : State := match exec i s with | .next t => t | _ => s

/-- The registers that the word writes when its latency has passed, with its flags. -/
def wrote (i : Instr) (xs : List (Nat × Word)) : List (Tile × Word) × List (BitVec 8) :=
  let t := after i (withV (onWord i) xs)
  (t.sch.pend.flatMap fun p => p.writes.map fun w => (w.tile, w.val), t.sch.pend.flatMap fun p => p.flags.map (·.2))

/-- The worked example of 07: `iadd.sat.i16x2 v3, v1, v2` gives 0x7FFF8001, and 0x80008001 without `.sat`. -/
theorem test_iadd_sat : wrote (.iaddLong ⟨0, 3, 1, 2, 0xE0, 0x00A, 6, false, 7, 0⟩) [(1, 0x7FFF0001), (2, 0x00018000)] =
    ([(.v 3, 0x7FFF8001)], [0]) := by decide
theorem test_iadd_wraps : wrote (.iaddLong ⟨0, 3, 1, 2, 0xE0, 0x002, 6, false, 7, 0⟩) [(1, 0x7FFF0001), (2, 0x00018000)] =
    ([(.v 3, 0x80008001)], [0]) := by decide
/-- R191: the difference is a minus b: 1 − 2 wraps to all ones, into a source register. -/
theorem test_isub : (wrote (.isub ⟨0, 1, 1, 2, 0⟩) [(1, 1), (2, 2)]).1 = [(.v 1, 0xFFFFFFFF)] := by decide
/-- R191: the high half of −1 times −1 is 0; unsigned, 0xFFFFFFFE. -/
theorem test_imulh : (wrote (.imulh ⟨0, 3, 1, 1, 0⟩) [(1, 0xFFFFFFFF)]).1 = [(.v 3, 0)] := by decide
theorem test_imulh_unsigned : (wrote (.imulhLong ⟨0, 3, 1, 1, 0xE0, 0x004, 6, false, 7, 0⟩) [(1, 0xFFFFFFFF)]).1 =
    [(.v 3, 0xFFFFFFFE)] := by decide
/-- R195: a shift by the width or more gives 0, of SAR the sign. -/
theorem test_shl_32 : (wrote (.shl ⟨0, 3, 1, 2, 0⟩) [(1, 5), (2, 32)]).1 = [(.v 3, 0)] := by decide
theorem test_sar_40 : (wrote (.sar ⟨0, 3, 1, 2, 0⟩) [(1, 0x80000000), (2, 40)]).1 = [(.v 3, 0xFFFFFFFF)] := by decide
/-- R196: a field of length 0 is 0; the count of leading zeros of 0 is 32. -/
theorem test_bfx_empty : (wrote (.bfx ⟨0, 3, 1, 2, 0⟩) [(1, 0xFFFFFFFF), (2, 0x0004)]).1 = [(.v 3, 0)] := by decide
theorem test_bfx_signed : (wrote (.bfx ⟨0, 3, 1, 2, 0⟩) [(1, 0x00000F00), (2, 0x0408)]).1 = [(.v 3, 0xFFFFFFFF)] := by decide
theorem test_clz_0 : (wrote (.clz ⟨0, 3, 1, 0xE0, 0⟩) []).1 = [(.v 3, 32)] := by decide
/-- R192: −1 is less than 1 to a predicate. -/
theorem test_icmp_lt : (wrote (.icmpLong ⟨0, 0xF1, 1, 2, 0xE0, 0x020, 6, false, 7, 0⟩) [(1, 0xFFFFFFFF), (2, 1)]).1 =
    [(.m 1, 1)] := by decide
/-- R191: 0xFFFFFFFF × 0xFFFFFFFF unsigned + 1, in a pair. -/
theorem test_imadw : (wrote (.imadw ⟨0, 4, 1, 1, 2, 0x004, 6, false, 7, 0⟩) [(1, 0xFFFFFFFF), (2, 1), (3, 0)]).1 =
    [(.v 4, 2), (.v 5, 0xFFFFFFFE)] := by decide
/-- R194: LOP3 with the table of a AND b AND c, all ones. -/
theorem test_lop3 : (wrote (.lop3 ⟨0, 3, 1, 1, 1, 0x200, 6, false, 7, 0⟩) [(1, 0x12345678)]).1 = [(.v 3, 0x12345678)] := by decide
/-- 1.0 + 1.0 and 1.0 × 3.0. -/
theorem test_fadd : wrote (.fadd ⟨0, 3, 1, 1, 0⟩) [(1, 0x3F800000)] = ([(.v 3, 0x40000000)], [0]) := by decide
theorem test_fmul_inexact : wrote (.fmul ⟨0, 3, 1, 1, 0⟩) [(1, 0x3F800001)] = ([(.v 3, 0x3F800002)], [fNX]) := by decide
/-- R222: −(a × b) with one rounding: −(1 × 1) + 1 is +0. -/
theorem test_ffma_cancel : wrote (.ffma ⟨0, 3, 1, 1, 1, 0x080, 6, false, 7, 0⟩) [(1, 0x3F800000)] = ([(.v 3, 0)], [0]) := by decide
/-- R229: 1 ÷ 2 is 0.5; the square root of 4 is 2. -/
theorem test_frcp : wrote (.frcp ⟨0, 3, 1, 0xE0, 0xE0, 0, 6, false, 7, 0⟩) [(1, 0x40000000)] = ([(.v 3, 0x3F000000)], [0]) := by decide
theorem test_fsqrt : wrote (.fsqrt ⟨0, 3, 1, 0xE0, 0xE0, 0, 6, false, 7, 0⟩) [(1, 0x40800000)] = ([(.v 3, 0x40000000)], [0]) := by decide
/-- R232: PACK of two 16-bit halves. -/
theorem test_pack : (wrote (.pack ⟨0, 3, 1, 2, 0⟩) [(1, 0xAAAA1234), (2, 0xBBBB5678)]).1 = [(.v 3, 0x56781234)] := by decide
/-- R215: LINK reads 0xFFFFFFFC before any call. -/
theorem test_rdsr_link : (wrote (.rdsr ⟨0, 3, 0xE0, 0xFF, 0x19⟩) []).1 = [(.v 3, 0xFFFFFFFC)] := by decide
/-- R34, R110: a result carries the label of its operand. -/
theorem test_label : ((after (.iadd ⟨0, 3, 1, 2, 0⟩) ((onWord (.iadd ⟨0, 3, 1, 2, 0⟩)).setTileLbl ⟨1, 0⟩ (.v 1) 0x0004)).sch.pend.flatMap
    fun p => p.lbls.map fun x => (x.tile, x.lbl)) = [(.v 3, 0x0004)] := by decide
/-- R180: a token rises at issue. -/
theorem test_token : ((after (.lds ⟨0, 12, 20, 0xE0, 0xE0, 0, 0, false, 7, 0⟩) (onWord (.lds ⟨0, 12, 20, 0xE0, 0xE0, 0, 0, false, 7, 0⟩))).thr t0).tok =
    [1, 0, 0, 0, 0, 0] := by decide
/-- R243: STS writes its word little-endian. -/
theorem test_sts : (after (.sts ⟨0, 0xFF, 20, 3, 0⟩) (withV (onWord (.sts ⟨0, 0xFF, 20, 3, 0⟩)) [(20, 64), (3, 0x11223344)])).sreads 1 64 4 =
    [0x44, 0x33, 0x22, 0x11] := by decide
/-- R76: an STS beyond the scratchpad ends its team. -/
theorem test_sts_bound : ((after (.sts ⟨0, 0xFF, 20, 3, 0⟩) (withV (onWord (.sts ⟨0, 0xFF, 20, 3, 0⟩)) [(20, 0x00100000)])).team? 1).isNone = true := by
  decide
/-- R201: a branch back to the header of its own clause. -/
theorem test_bra : (after (.bra ⟨-1, false, 7, 0⟩) (onWord (.bra ⟨-1, false, 7, 0⟩))).sch.paths.map (·.pc) = [0] := by decide
/-- R202: a call leaves LINK behind it. -/
theorem test_call : ((after (.call ⟨-1, false, 7, 0⟩) (onWord (.call ⟨-1, false, 7, 0⟩))).thr t0).link = 8 := by decide
/-- R203: EXIT ends its thread. -/
theorem test_exit : ((after (.exit ⟨false, 7, 0⟩) (onWord (.exit ⟨false, 7, 0⟩))).thr t0).live = false := by decide
/-- R204: a trap without handler ends its team. -/
theorem test_trap : ((after (.trap ⟨0, 0xFF, 0xE0, 0xE1, 0⟩) (onWord (.trap ⟨0, 0xFF, 0xE0, 0xE1, 0⟩))).team? 1).isNone = true := by decide
/-- R209: a barrier of one thread completes at its arrival. -/
theorem test_bar : ((after (.bar ⟨0, 0xFF, 0xE1, 0xE0, 0⟩) (arriving (onWord (.bar ⟨0, 0xFF, 0xE1, 0xE0, 0⟩)))).team? 1).map (fun t => (t.bars.getD 1 {}).gen) =
    some 1 := by decide
/-- R310: GIVE 3 leaves 13 of 16 rows. -/
theorem test_give : ((after (.give ⟨0, 0xFF, 0xE0, 0xE4, 0⟩) (onWord (.give ⟨0, 0xFF, 0xE0, 0xE4, 0⟩))).group? ⟨1, 0⟩).map (·.rows) = some 13 := by
  decide
/-- R213: REGION opens a region; a store closes it for the team. -/
theorem test_region : ((after (.region ⟨0, 0xFF, 0xE0, 0xE0, 0⟩) (onWord (.region ⟨0, 0xFF, 0xE0, 0xE0, 0⟩))).thr t0).idemOpen = true := by decide

/-! ## The step around exec -/

/-- With a word placed for it, the step runs the word: the row of IADD. -/
theorem test_fetch_word : (match step (State.reset.withFetchWord 32 0xE5141408), exec (.iadd ⟨0, 20, 20, 0xE5, 0⟩) (State.reset.withFetchWord 32 0xE5141408) with
    | .next t, .next u => decide (t = u)
    | _, _ => false) = true := by decide
/-- From reset the first step starts the boot. -/
theorem test_boot_starts : (match step State.reset with | .next t => t.y.boot.starting | _ => false) = true := by decide

/-! ## Commands, registers and events -/

/-- A command of the PF for partition 0. -/
def cmd (arg0 : Word) (arg1 arg2 : DWord) : Cmd := ⟨0, 0, false, arg0, arg1, arg2, 0⟩

/-- The module after the last boot stage. -/
def up : State := { State.reset with y.boot := { State.reset.y.boot with stage := 4 } }

/-- R360: HIFSEL is the highest common version. -/
theorem test_hifsel : ((after (.hifdrvWrite 0 0x01020100) up).fn 0).hifsel = 0x01000000 := by decide
/-- R87: LEASECFG is clamped to 64 and 4,000. -/
theorem test_leasecfg : ((after (.leasecfgWrite 0 1) up).part 0).lease = 64 := by decide
/-- R364: SETCORE beyond the 32 team slots of a core ends with status 2; with 32, it is granted. -/
theorem test_setcore_range : ((after (.setcore (cmd 5 33 0)) State.reset).fn 0).mbcode = 2 := by decide
theorem test_setcore : ((after (.setcore (cmd 5 32 0)) State.reset).part 0).corelim = [(5, 32)] := by decide
/-- R366: MAPFRAMES of a frame of a stack that the partition does not hold changes no frame. -/
theorem test_mapframes_foreign : ((after (.mapframes (cmd 1 0 0)) State.reset).frame 0).state = 0 := by decide
/-- R401: PORTRES beyond 768 slots changes nothing. -/
theorem test_portres : ((after (.portres (cmd 0 769 0)) State.reset).fn 0).cfgcode = 4 ∧
    ((after (.portres (cmd 0 768 0)) State.reset).part 0).rxmin = [(0, 768)] := by decide
/-- R418: SETTHERM below 1,200 W ends with status 2. -/
theorem test_settherm : ((after (.settherm (cmd 0x005F04AF 500 0)) State.reset).fn 0).cfgcode = 2 ∧
    (after (.settherm (cmd 0x005F04B0 500 0)) State.reset).y.pwrcap = 1200 := by decide
/-- R418: a die at TMIG is hot. -/
theorem test_die_hot : (after (.dieMarkedHot 3 95) State.reset).y.hot = [3] ∧ (after (.dieMarkedHot 3 94) State.reset).y.hot = [] := by decide
/-- R399: STATIONID. -/
theorem test_stationid : (after (.stationid (cmd 9 0 0)) State.reset).y.station = 9 := by decide


/-! ## States that meet the hypotheses of the statements: instruction words -/

/-- R187: the word stands ready at its issue group. -/
def rdy (i : Instr) (s : State) : Bool := s.ready (igOf s) i

/-- The words stand ready, each in a state of its own. -/
def allReady (is : List Instr) : Bool := is.all fun i => rdy i (onWord i)

theorem test_hyp_IntegerElements : allReady [.iadd ⟨0, 3, 1, 2, 0⟩, .imad ⟨0, 3, 1, 2, 4, 0, 6, false, 7, 0⟩,
    .imaxLong ⟨0, 3, 1, 0xFF, 0xE0, 0, 6, false, 7, 9⟩, .lop3 ⟨0, 3, 1, 2, 4, 0x200, 6, false, 7, 0⟩, .mov ⟨0, 3, 0xE0, 2, 0⟩] = true := by
  decide +kernel
theorem test_hyp_ShiftsAndFields : allReady [.shl ⟨0, 3, 1, 2, 0⟩, .rotLong ⟨0, 3, 1, 2, 0xE0, 0x010, 6, false, 7, 0⟩,
    .funnel ⟨0, 3, 1, 2, 4, 0, 6, false, 7, 0⟩, .bfi ⟨0, 3, 1, 2, 4, 0, 6, false, 7, 0⟩, .clz ⟨0, 3, 1, 0xE0, 0⟩] = true := by decide +kernel
theorem test_hyp_CompareSelectImmediate : allReady [.icmpLong ⟨0, 0xF1, 1, 2, 0xE0, 0x020, 6, false, 7, 0⟩,
    .icmp ⟨0, 3, 1, 2, 0⟩, .isel ⟨0, 3, 1, 2, 0xF1, 0, 6, false, 7, 0⟩, .plop ⟨0, 0xF1, 0xF2, 0xF3, 0xF4, 0x200, 6, false, 7, 0⟩,
    .lea ⟨0, 4, 2, 1, 0⟩, .lih ⟨0, 3, 1, 0xE0, 0xE0, 0x1234, 6, false, 7, 0⟩] = true := by decide +kernel
/-- R192: at the boundary of CMP, and of W for a predicate. -/
theorem test_hyp_CompareSelectImmediate_faults :
    (Instr.icmpLong ⟨0, 3, 1, 2, 0xE0, 0x060, 6, false, 7, 0⟩).check ≠ none ∧
    (Instr.icmpLong ⟨0, 0xF1, 1, 2, 0xE0, 0x022, 6, false, 7, 0⟩).check = some .illegalOperand := by decide +kernel
theorem test_hyp_FloatWords : allReady [.fadd ⟨0, 3, 1, 2, 0⟩, .ffma ⟨0, 3, 1, 2, 4, 0, 6, false, 7, 0⟩, .fmin ⟨0, 3, 1, 2, 0⟩,
    .fcmpLong ⟨0, 0xF2, 1, 2, 0xE0, 0x100, 6, false, 7, 0⟩, .frnd ⟨0, 3, 1, 0xE0, 0⟩, .fscale ⟨0, 3, 1, 2, 0⟩] = true := by decide +kernel
theorem test_hyp_DotPackConvertSpecial : allReady [.pack ⟨0, 3, 1, 2, 0⟩, .cvt ⟨0, 3, 1, 0xE0, 0xE0, 0x00C0, 6, false, 7, 0⟩,
    .fdot2 ⟨0, 3, 1, 2, 4, 0x002, 6, false, 7, 0⟩, .fsin ⟨0, 3, 1, 0xE0, 0xE0, 0, 6, false, 7, 0⟩] = true ∧
    cvtOpen (fieldsOf (.cvt ⟨0, 3, 1, 0xE0, 0xE0, 0x00C0, 6, false, 7, 0⟩)) = false := by decide +kernel
theorem test_hyp_ExactArithmetic : (decode5 fmtF32 0x3F800000).rat.isSome = true ∧ (decode5 fmtF32 0).rat.isSome = true ∧
    decode5 fmtE4M3 0x38 = .fin false 8 (-3) := by decide +kernel
theorem test_hyp_NopAndRegions : allReady [.nop ⟨0, 0xFF, 0xE0, 0xE0, 0⟩, .region ⟨0, 0xFF, 0xE0, 0xE0, 0⟩,
    .regend ⟨0, 0xFF, 0xE0, 0xE0, 0⟩] = true := by decide +kernel

/-- RDSR of LINK, of one register, and of a wide register into an even pair; WRSR of LPART at both ends of its range. -/
theorem test_hyp_SystemRegisters_read :
    let i := Instr.rdsr ⟨0, 4, 0xE0, 0xFF, 0x19⟩
    let j := Instr.rdsr ⟨0, 4, 0xE0, 0xFF, 0x17⟩
    (rdy i (onWord i) = true ∧ (onWord i).acting (igOf (onWord i)) i = [l0] ∧ srExists 0x19 = true ∧ wideSr 0x19 = false) ∧
    (rdy j (onWord j) = true ∧ (onWord j).acting (igOf (onWord j)) j = [l0] ∧ srExists 0x17 = true ∧ wideSr 0x17 = true ∧ evenDst 4 = true ∧
      beyondRegs 4 2 ((onWord j).regs ⟨1, 0⟩) = false) := by decide +kernel
/-- WRSR of LPART from v1. -/
def lpartOk (x : Word) : Bool :=
  let i := Instr.wrsr ⟨0, 0xFF, 1, 0xFF, 0x12⟩
  let s := withV (onWord i) [(1, x)]
  rdy i s && srWritable 0x12 && (s.acting (igOf s) i).all fun l => s.rd32 l.t 0 1 % 8 != 0 && s.rd32 l.t 0 1 % 8 ≤ 5
theorem test_hyp_SystemRegisters_write : lpartOk 1 = true ∧ lpartOk 5 = true := by decide +kernel

/-- The clause header at address 0 is the target. -/
theorem test_hyp_BranchesAndTraps :
    let i := Instr.bra ⟨-1, false, 7, 0⟩
    let s := onWord i
    rdy i s = true ∧ s.acting (igOf s) i = [l0] ∧ offTarget (igOf s).pc (-1) = 0 ∧ (s.codeWord 0 0 0).map hMark = some 0x3F := by decide +kernel
theorem test_hyp_BranchesAndTraps_reg :
    let i := Instr.callx ⟨5, false, 7, 0⟩
    let s := onWord i
    rdy i s = true ∧ s.acting (igOf s) i = [l0] ∧ s.rd32 t0 0 5 = 0 ∧ (s.codeWord 0 0 0).map hMark = some 0x3F := by decide +kernel
/-- A stage with a handler at its header, and TRAP 15. -/
def onTrap (n : Word) : State :=
  (onWord (.trap ⟨0, 0xFF, 0xE0, 0xFF, n⟩)).setPart 0 fun p => { p with
    ctxs := p.ctxs.map fun c => (c.1, { c.2 with stages := [(0, { plainStage with traph := 0 })] }) }
/-- The trap is ready and has its handler. -/
def trapOk (n : Word) : Bool :=
  rdy (.trap ⟨0, 0xFF, 0xE0, 0xFF, n⟩) (onTrap n) && ((onTrap n).stage? 0 0 0).map (·.traph) == some 0 &&
    (onTrap n).rd32 t0 n 0xFF < 16
theorem test_hyp_BranchesAndTraps_trap : trapOk 0 = true ∧ trapOk 15 = true := by decide +kernel
theorem test_hyp_ExitAndYield : allReady [.exit ⟨false, 7, 0⟩, .yield ⟨0, 0xFF, 0xE0, 0xE0, 0⟩] = true ∧
    ((onWord (.exit ⟨false, 7, 0⟩)).sch.paths.all fun p => !({ p with gateId := none } : Path).waiting) = true ∧
    ((onWord (.yield ⟨0, 0xFF, 0xE0, 0xE0, 0⟩)).sch.paths.all fun p => p.id == l0.pid) = true := by decide +kernel
/-- Every path has a name of its own, which has been given. -/
theorem test_hyp_named : (onWord (.bra ⟨-1, false, 7, 0⟩)).named := by
  unfold State.named
  decide +kernel

theorem test_hyp_PathsSplit : ([(0, 1), (8, 2)] : List (Nat × Nat)).length ≤ 64 ∧
    2 ≤ (armsOf [(0, 1), (8, 2)]).length ∧
    ∀ p ∈ (onWord (.exit ⟨false, 7, 0⟩)).sch.paths, ∀ q ∈ (onWord (.exit ⟨false, 7, 0⟩)).sch.paths, q.id = p.id → q = p := by decide +kernel

/-- The path of the thread. -/
def pathOf (s : State) : Path :=
  match s.sch.paths with
  | p :: _ => p
  | [] => ⟨0, ⟨0, 0⟩, 0, 0, 0, 0, [], 0, .runnable, 0, false, false, 0, none, 0, none, 0⟩

/-- The thread's path is the only one, and holds every live thread. -/
def isLone (s : State) (i : Instr) (tm : Team) : Bool :=
  let g := igOf s
  let p := pathOf s
  s.sch.paths == [p] && p.state == .inClause g.id && s.team? p.g.tid == some tm &&
    s.acting g i == (s.entered g i).members g.id && s.liveMask p.g == p.mask &&
    (s.liveOf p.g.tid).all (fun x => x.g == p.g && p.mask.getLsbD x.lane) && p.mask != 0 && g.pc == g.hdr + 4 &&
    s.waitWord { p with mid := some (g.mid p.id) } == some (i, (fieldsOf i).len)

theorem lone_of_isLone {s : State} {i : Instr} {tm : Team} (h : isLone s i tm = true) : Lone s (igOf s) i (pathOf s) tm := by
  simp only [isLone, Bool.and_eq_true, beq_iff_eq, bne_iff_ne, List.all_eq_true] at h
  obtain ⟨⟨⟨⟨⟨⟨⟨⟨h1, h2⟩, h3⟩, h4⟩, h5⟩, h6⟩, h7⟩, h8⟩, h9⟩ := h
  exact ⟨h1, h2, h3, h4, h5, h6, h7, h8, h9⟩

/-- A RECONV whose path has two scopes. -/
def onReconv : State :=
  let s := onWord (.reconv ⟨0, 0xFF, 0xE0, 0xE0, 0⟩)
  { s with sch.paths := s.sch.paths.map fun p => { p with scopes := [⟨1, 4⟩, ⟨1, 0⟩] } }
theorem test_hyp_ScopesAndBlocksComplete : rdy (.reconv ⟨0, 0xFF, 0xE0, 0xE0, 0⟩) onReconv = true ∧
    Lone onReconv (igOf onReconv) (.reconv ⟨0, 0xFF, 0xE0, 0xE0, 0⟩) (pathOf onReconv) (plainTeam 1 0) :=
  ⟨by decide +kernel, lone_of_isLone (by decide +kernel)⟩
/-- The issue group of a set that is complete stands at the word. -/
def complete (i : Instr) : Bool := rdy i (onWord i) && (igOf (onWord i)).setAt == some 0
theorem test_hyp_ScopesAndBlocksComplete_qblk : complete (.qblk ⟨0, 7, 1, 0xE0, 0xE0, 0x0004, 2, false, 7, 0⟩) = true := by decide +kernel

/-- The word stands ready for threads that arrive. -/
def arrives (i : Instr) (s : State) : Bool := rdy i s && (igOf s).setAt == none
/-- Barrier 15, a count of 1, and a set that names the thread. -/
theorem test_hyp_Arrivals : allReady [.reconv ⟨0, 0xFF, 0xE0, 0xE0, 0⟩] = true ∧
    ([.bar ⟨0, 0xFF, 0xE0, 0xE0, 0⟩, .give ⟨0, 0xFF, 0xE0, 0xE1, 0⟩, .qblk ⟨0, 7, 1, 0xE0, 0xE0, 0x0004, 2, false, 7, 0⟩].all fun i =>
      arrives i (arriving (onWord i))) = true ∧
    (let i := Instr.barp ⟨0, 0xFF, 1, 2, 0⟩
     let s := arriving (withV (onWord i) [(1, 15), (2, 1)])
     arrives i s && (s.members (igOf s).id).all fun l => s.rd32 l.t 0 1 < 16 && s.rd32 l.t 0 2 != 0 && s.rd32 l.t 0 2 ≤ 4096) = true ∧
    (let i := Instr.elect ⟨0, 5, 0xE0, 0xE0, 0xE0, 0, 6, false, 7, 0⟩
     let s := arriving (onWord i)
     arrives i s && (s.members (igOf s).id).all fun l => (s.namedSet (fieldsOf i) l).getLsbD l.t.lane) = true := by decide +kernel
/-- The one path of a team completes a set of the word: every lane names the same set. -/
def onlyArrival (i : Instr) (set : State → Lane → BitVec 64) : Bool :=
  let s := arriving (onWord i)
  arrives i s && isLone s i (plainTeam 1 0) && s.running 1 && !s.reloading 1 &&
    decide ((s.sch.igs.filter fun x => x.core = 0 && x.quad = 0 && x.id != (igOf s).id).length < 4) &&
    (s.members (igOf s).id).all fun l => set s l == set s l0 && (set s l).getLsbD l.t.lane
theorem test_hyp_Arrivals_complete :
    (onlyArrival (.redt ⟨0, 9, 9, 0xE0, 0xE0, 0x002, 3, false, 7, 0⟩) fun s l =>
        s.namedSet (fieldsOf (.redt ⟨0, 9, 9, 0xE0, 0xE0, 0x002, 3, false, 7, 0⟩)) l) = true ∧
      (onlyArrival (.qblk ⟨0, 7, 1, 0xE0, 0xE0, 0x0004, 2, false, 7, 0⟩) fun _ l => tileMask l.t.lane 16) = true ∧
      (onlyArrival (.give ⟨0, 0xFF, 0xE0, 0xE1, 0⟩) fun _ _ => 1) = true := by decide +kernel
theorem test_hyp_CollectivesComplete : ([.redt ⟨0, 9, 9, 0xE0, 0xE0, 0x002, 3, false, 7, 0⟩, .redt ⟨0, 9, 9, 0xE0, 0xE0, 0x000, 3, false, 7, 0⟩,
    .tbar ⟨0, 0xFF, 0xE0, 0xE0, 0⟩].all complete) = true := by decide +kernel
theorem test_hyp_CollectivesComplete_fold : (([(0, 7), (3, 0xFFFFFFFF)] : List (Nat × Nat)).map (·.1)).Nodup ∧
    ∀ v ∈ ([(0, 7), (3, 0xFFFFFFFF)] : List (Nat × Nat)), v.1 < 2 ^ 2 ∧ v.2 < 2 ^ 32 := by decide +kernel
theorem test_hyp_BarriersAndRows :
    (let i := Instr.barp ⟨0, 0xFF, 1, 2, 0⟩
     let s := arriving (withV (onWord i) [(1, 15), (2, 1)])
     arrives i s && isLone s i (plainTeam 1 0) && decide ((s.members (igOf s).id).length ≤ 64) &&
       (s.members (igOf s).id).all fun l => s.rd32 l.t 0 1 == 15 && s.rd32 l.t 0 2 == (s.members (igOf s).id).length) = true ∧
    complete (.bar ⟨0, 0xFF, 0xE0, 0xE0, 0⟩) = true := by decide +kernel
/-- What the statement asks of a transfer of `n` rows by a complete group. -/
def rowsOk (i : Instr) (s : State) (rows free n : Nat) : Bool :=
  let ls := s.members (igOf s).id
  let named := fun l => s.rd32 l.t (fieldsOf i).lit (fieldsOf i).b == n
  rdy i s && (igOf s).setAt == some 0 && (s.team? 1).any (fun t => t.core2 != some 0 && t.freeRows.getD 0 0 == free) &&
    (s.group? ⟨1, 0⟩).any (fun x => x.core == 0 && x.rows == rows) && ls != [] && (ls.all fun l => l.g == ⟨1, 0⟩ && named l) &&
    (s.sch.paths.all fun p => p.charged == 0 && p.state != .parked .rows && p.id < s.clk.fresh && p.mask != 0) &&
    decide (s.sch.paths.map (·.id)).Nodup && (s.rowsRest (s.iss (igOf s) i) ⟨1, 0⟩).all fun p => (s.pathLanes p).all named
/-- Beside the issue group of a word, the one of the group's other quadrant, with the threads 32 to 35. -/
def bothQuads (s : State) : State :=
  { s with
    clk.fresh := 8
    sch.igs := s.sch.igs ++ [{ igOf s with id := 6, quad := 1 }]
    sch.paths := s.sch.paths ++ s.sch.paths.map fun p => { p with id := 7, quad := 1, mask := 0xF00000000, state := .inClause 6 } }
/-- GIVE of 15 rows. -/
def give15 : Instr := .give ⟨0, 0xFF, 0xE0, 0xFF, 15⟩
/-- CLAIM of 15 rows. -/
def claim15 : Instr := .claim ⟨0, 0xFF, 0xE0, 0xFF, 15⟩
/-- The group has one row, and the pool some. -/
def oneRow (s : State) (free : Nat) : State :=
  (s.setGroup ⟨1, 0⟩ fun x => { x with rows := 1 }).setTeam 1 fun t => { t with freeRows := [free, 0] }
/-- GIVE 15 of 16 rows; CLAIM 15 rows of a pool of 15, for a group of one row; in a group of two quadrants also. -/
theorem test_hyp_BarriersAndRows_rows :
    rowsOk give15 (onWord give15) 16 0 15 = true ∧ rowsOk claim15 (oneRow (onWord claim15) 15) 1 15 15 = true ∧
    rowsOk give15 (bothQuads (onWord give15)) 16 0 15 = true ∧
    (((bothQuads (onWord give15)).rowsRest ((bothQuads (onWord give15)).iss (igOf (onWord give15)) give15) ⟨1, 0⟩).map (·.id)) = [7] := by
  decide +kernel
/-- R22: the group of two quadrants gives its rows once, and its second quadrant goes on behind the word. -/
theorem test_give_acts_once :
    (let a := after give15 (bothQuads (onWord give15))
     let b := after give15 { a with clk.cur := some 6 }
     let rows := fun (s : State) => (s.group? ⟨1, 0⟩).map (·.rows)
     rows a == some 1 && rows b == some 1 && (b.team? 1).any (fun t => t.freeRows == [15, 0]) &&
     (a.path? 7).any (fun p => p.charged == 3) && (b.path? 7).any (fun p => p.charged == 0 && p.state == .runnable) &&
     -- The hypotheses of the statement about the second quadrant.
     { a with clk.cur := some 6 }.ready { igOf (onWord give15) with id := 6, quad := 1 } give15 &&
     a.sch.paths.all (fun p => p.state != .parked .rows && (p.state != .inClause 6 || p.charged == 3))) = true := by decide +kernel
/-- R22: a CLAIM that finds too few rows parks both quadrants. -/
theorem test_claim_parks_group :
    (let a := after claim15 (bothQuads (oneRow (onWord claim15) 0))
     a.sch.igs == [] && a.sch.paths.all fun p => p.state == .parked .rows) = true := by decide +kernel

/-! Global memory: partition 0 has a window of one page at 0x200000 over frame 7, which it owns. -/

/-- The page is mapped. -/
def mapped (s : State) : State :=
  (s.setPart 0 fun p => { p with plwin := 0x200000, poolSize := 65536, poolFrames := [7] }).setFrame 7 ⟨1, 0, 0⟩

/-- A word of the thread whose address pair v10, v11 holds an offset of the page. -/
def onPage (i : Instr) (off : Word) : State := withV (mapped (onWord i)) [(10, 0x200000 + off)]

/-- Each acting lane has an aligned, translated and permitted address. -/
def accepted (i : Instr) (kind : ReqKind) (off : Word) (pa : Nat) : Bool :=
  let s := onPage i off
  let is := s.iss (igOf s) i
  rdy i s && s.acting (igOf s) i == [l0] && decide (s.addrOf is true l0 < 2 ^ 57) &&
    decide (s.addrOf is true l0 % accLen (opNo i) (fieldsOf i) = 0) && s.tr is kind.writes l0 == .ok (.mem pa) 0 &&
    (s.accFlt is kind l0).isNone

/-- The last word of the page, its first, and an atomic of the widest scope. -/
theorem test_hyp_GlobalAccesses : accepted (.ld ⟨0, 8, 10, 0xE0, 0xE0, 0x000, 1, false, 7, 0⟩) .load 0xFFFC (8 * 65536 - 4) = true ∧
    accepted (.st ⟨0, 0xFF, 10, 3, 0⟩) .store 0 (7 * 65536) = true ∧
    accepted (.atom ⟨0, 5, 10, 6, 0xE0, 0x200, 2, false, 7, 0⟩) (.atomic 0 false false) 0 (7 * 65536) = true ∧
    accepted (.cas ⟨0, 2, 10, 4, 6, 0x000, 0, false, 7, 0⟩) (.cas false) 64 (7 * 65536 + 64) = true := by decide +kernel
theorem test_hyp_FencesAndLines : accepted (.lease ⟨0, 0xFF, 10, 0xE0, 0⟩) .lease 0 (7 * 65536) = true ∧
    allReady [.pref ⟨0, 0xFF, 10, 0xE0, 0⟩] = true ∧
    (let i := Instr.fence ⟨0, 0xFF, 0xE0, 0xE0, 0⟩
     let s := { onWord i with clk.tclk := 20 }
     rdy i s = true ∧ mdKind (fieldsOf i).md ≠ 2 ∧ (∀ x ∈ s.m.l1, x.pin = none) ∧
      ∀ l ∈ s.acting (igOf s) i, s.relDone l.t (mdScope (fieldsOf i).md) = true) ∧
    (let i := Instr.fenceLong ⟨0, 0xFF, 0xE0, 0xE0, 0xE0, 0x1C0, 6, false, 7, 0⟩
     let s := onWord i
     rdy i s = true ∧ mdKind (fieldsOf i).md = 2 ∧ ∀ l ∈ s.acting (igOf s) i, s.loading l.t = false) := by decide +kernel

/-- Each acting lane's scratchpad address is in bounds, aligned and present. -/
def inScratch (i : Instr) (a : Word) : Bool :=
  let s := withV (onWord i) [(20, a)]
  let is := s.iss (igOf s) i
  let n := accLen (opNo i) (fieldsOf i)
  rdy i s && s.acting (igOf s) i == [l0] && s.addrOf is false l0 == (a.toNat : Int) && a.toNat + n ≤ s.scrSize 1 && a.toNat % n == 0 &&
    !s.sabsent 1 a.toNat n

/-- At both ends of a scratchpad of 32 KiB. -/
theorem test_hyp_ScratchAccesses : ([(0 : Word), 32764].all fun a =>
    inScratch (.lds ⟨0, 12, 20, 0xE0, 0xE0, 0, 0, false, 7, 0⟩) a && inScratch (.sts ⟨0, 0xFF, 20, 3, 0⟩) a &&
    inScratch (.pres ⟨0, 0xF1, 20, 0xE0, 0xE0, 0, 6, false, 7, 0⟩) a &&
    inScratch (.atoms ⟨0, 5, 20, 6, 0xE0, 0, 2, false, 7, 0⟩) a) = true := by decide +kernel
/-- A constant bank of four bytes. -/
def onLdc : State :=
  (onWord (.ldc ⟨0, 12, 20, 0xE0, 0xE0, 0x000, 0, false, 7, 0⟩)).setPart 0 fun p => { p with
    ctxs := p.ctxs.map fun c => (c.1, { c.2 with stages := [(0, { plainStage with const := [1, 2, 3, 4] })] }) }
theorem test_hyp_ScratchAccesses_ldc : rdy (.ldc ⟨0, 12, 20, 0xE0, 0xE0, 0x000, 0, false, 7, 0⟩) onLdc = true ∧
    (onLdc.stage? 0 0 0).map (fun st => st.const.length) = some 4 ∧ onLdc.intVal t0 0 20 1 0 true < 65536 ∧
    accLen 4 (fieldsOf (.ldc ⟨0, 12, 20, 0xE0, 0xE0, 0x000, 0, false, 7, 0⟩)) = 4 := by decide +kernel
theorem test_hyp_LoadsAndAtomicsCompute : ([0xFF] : List Byte).length = szBytes 3 ∧ ([0xFF, 0, 0, 0x80] : List Byte).length = szBytes 0 ∧
    (0xFFFFFFFF : Nat) < 2 ^ 32 := by decide +kernel
/-! ## States that meet the hypotheses: engines, records and counters

Each list names the hypotheses of its statement in their order. -/

/-- All of them hold. -/
def meets (bs : List Bool) : Bool := bs.all id

/-- The state with bytes in the scratchpad of the thread's team, whose offset is in v1. -/
def withRec (s : State) (a : Nat) (bs : List Byte) : State := (withV s [(1, BitVec.ofNat 32 a)]).swrites 1 a bs

/-- The stage of the team, changed. -/
def withStage (s : State) (f : Stage → Stage) : State :=
  s.setPart 0 fun p => { p with ctxs := p.ctxs.map fun c => (c.1, { c.2 with stages := [(0, f plainStage)] }) }

/-- One lane acts, the record lies in bounds on its boundary, and its lines are present. -/
def recOk (i : Instr) (s : State) (al n : Nat) : List Bool :=
  let a := s.recOff (s.iss (igOf s) i) l0
  [rdy i s, s.acting (igOf s) i == [l0], a % al == 0, a + n ≤ s.scrSize 1, !s.sabsent 1 a n]

/-- A copy record of 128 bytes from 0x1000 of the scratchpad. -/
def copyBytes (dst ctl : Nat) : List Byte := natLE 8 0x1000 ++ natLE 8 dst ++ natLE 4 127 ++ natLE 8 0 ++ natLE 4 ctl

/-- The last record of the scratchpad. -/
theorem test_hyp_CopiesAccepted :
    (let i := Instr.copy ⟨0, 0xFF, 1, 0xE0, 0⟩
     let s := withRec (onWord i) 0x7FE0 (copyBytes 0x2000 5)
     let r := copyRec (s.sreads 1 0x7FE0 32)
     meets (recOk i s 32 32 ++ [(igOf s).hold.isNone, s.coRoom 0, (s.group? ⟨1, 0⟩).any (·.producer), !s.copyBad 1 r false,
       decide (s.unfinished t0 < 8), r.dkind == 1,
       r.lines == [64], r.lines.all fun k => (s.sline 1 k).c < 7])) = true := by decide +kernel
theorem test_hyp_CopiesAccepted_multi :
    (let i := Instr.copym ⟨0, 0xFF, 1, 0xE0, 0⟩
     let s := withRec (onWord i) 0 (copyBytes 0x7F80 0x10005)
     let r := copyRec (s.sreads 1 0 32)
     meets (recOk i s 32 32 ++ [s.coRoom 0, (s.group? ⟨1, 0⟩).any (·.producer), !s.copyBad 1 r true, decide (s.unfinished t0 < 8),
       s.copymDests 1 0 r == [1], r.lines == [255], r.lines.all fun k => (s.sline 1 k).c < 7])) = true := by decide +kernel

/-- WAITB 7, and WAITB 0 with a copy under way. -/
theorem test_hyp_BatchesAndReservations :
    (let i := Instr.waitb ⟨0, 0xFF, 0xE0, 0xFF, 7⟩
     let j := Instr.waitb ⟨0, 0xFF, 0xE0, 0xFF, 0⟩
     let k := Instr.seal ⟨0, 0xFF, 0xE0, 0xE0, 0⟩
     let s := { onWord j with e.batches := [⟨t0, 0, false, 1, 0⟩] }
     let u := { onWord k with e.batches := [⟨t0, 0, false, 1, 0⟩] }
     let w := { onWord i with e.batches := [⟨t0, 0, false, 1, 0⟩] }
     meets [(onWord k).acting (igOf (onWord k)) k == [l0], ((onWord k).curBatch t0).isNone, rdy k u, (u.curBatch t0).isSome,
       rdy i w, w.acting (igOf w) i == [l0], w.rd32 t0 7 0xFF == 7, (w.sealBatch t0).unfinished t0 == 1, rdy i (onWord i), (onWord i).rd32 t0 7 0xFF == 7, (onWord i).unfinished t0 ≤ 7, rdy k (onWord k), rdy j s,
       s.acting (igOf s) j == [l0], s.rd32 t0 0 0xFF < (s.sealBatch t0).unfinished t0]) = true := by decide +kernel
/-- 64 columns of the narrowest format, with a reservation of one unit. -/
theorem test_hyp_BatchesAndReservations_osb :
    (let i := Instr.osbres ⟨0, 5, 1, 0xE0, 0xE0, 0, 6, false, 7, 0⟩
     let s := (withRec (onWord i) 0x7FF0 (natLE 4 2 ++ natLE 4 64 ++ natLE 8 0)).setPart 0 fun p => { p with
       corelim := [(0, BitVec.ofNat 64 (2 ^ 26 * 64))] }
     let r := osbRec (s.sreads 1 0x7FF0 16)
     meets (recOk i s 16 16 ++ [(s.team? 1).isSome, !r.bad, r.units + s.osbTeam 1 ≤ 64, s.osbUsed 0 + r.units ≤ 64,
       s.osbUsedBy 0 0 + r.units ≤ limOsb (s.corelim 0 0)])) = true := by decide +kernel
theorem test_hyp_BatchesAndReservations_rel :
    (let i := Instr.osbrel ⟨0, 0xFF, 15, 0xE0, 0⟩
     let s := { withV (onWord i) [(15, 15)] with e.osbs := [⟨9, 0, 0, 1, 15, 1, 64, 2, false, 1, [], 0, false, []⟩] }
     meets [rdy i s, s.acting (igOf s) i == [l0], (s.osb? 1 (s.rd32 t0 0 15)).isSome,
       s.sch.paths.all fun p => p.state != .parked .osb]) = true := by decide +kernel

/-- Plate 31 of 32, and all of them. -/
theorem test_hyp_PlateWords :
    (let i := Instr.plload ⟨0, 0xFF, 10, 1, 0⟩
     let s := withStage (withV (onWord i) [(1, BitVec.ofNat 32 (31 + 32 * 4 + 4096 * 64))]) fun st => { st with pln := 32 }
     let j := Instr.plfree ⟨0, 0xFF, 0xE0, 1, 0⟩
     let u := withStage (withV (onWord j) [(1, 0xFFFFFFFF)]) fun st => { st with pln := 32 }
     meets [rdy i s, s.acting (igOf s) i == [l0], (s.plateFlt (s.iss (igOf s) i) l0).isNone, rdy j u,
       u.rd32 t0 0 1 < 2 ^ u.pln 1, u.e.plates.all fun kv => !kv.2.drop]) = true := by decide +kernel

/-- A reservation of 64 rows and 64 columns, and plate 0 loaded. -/
def onMx (i : Instr) (bs : List Byte) : State :=
  { withStage (withRec (onWord i) 0x7FC0 bs) fun st => { st with pln := 1 } with
    e.osbs := [⟨9, 0, 0, 1, 0, 64, 64, 4, false, 1, [], 0, false, []⟩]
    e.plates := [((1, 0), ⟨0, 0, true, [], [], 0, none, 0, 0, false⟩)] }
/-- A new slot, and its last row. -/
theorem test_hyp_MatrixWords :
    (let i := Instr.mxissue ⟨0, 5, 1, 0xE0, 0xE0, 0, 6, false, 7, 0⟩
     let s := onMx i (natLE 4 (2 + 2 ^ 20 * 63) ++ natLE 4 1 ++ natLE 8 0 ++ natLE 8 0)
     let r := mxRec (s.sreads 1 0x7FC0 64)
     meets (recOk i s 64 64 ++ [(igOf s).hold.isNone, r.new, s.mxCause 1 r == 0, ((s.team? 1).any fun t => t.vatFree != []),
       s.mxRoom (s.homeCore 1 0)])) = true := by decide +kernel
/-- An MXISSUE of the thread in slot 1. -/
def onIssue (i : Instr) (done : Bool) : State :=
  { (onWord i).setTeam 1 (fun t => { t with vatFree := [0] }) with e.mxs := [⟨9, 0, 1, t0, 1, 9, 0, 0, false, 1, 0, 0, 0, 0, none, done, fNX, 0, 0, [], [], false⟩] }
/-- A copy of the thread's team into its reservation. -/
def filling (i : Instr) : State :=
  let c : Copy := { id := 9, core := 0, t := t0, batch := 0, pc := 4, roff := 0, cr := copyRec (copyBytes 0 0x20005), multi := false,
                    dests := [1], res := some 9, lbl := 0, row := 0, col := 0, gwct := 0, due := 0, overlap := false, wait := 0,
                    refused := none, backoff := 0, retryAt := 0 }
  { onWord i with e.osbs := [⟨9, 0, 0, 1, 0, 64, 64, 4, false, 1, [], 0, false, []⟩], e.copies := [c] }
theorem test_hyp_MatrixWords_wait :
    (let i := Instr.mxwait ⟨0, 0xFF, 0xE0, 0xE1, 0⟩
     let j := Instr.mxwait ⟨0, 0xFF, 0xE0, 0xFF, 63⟩
     let k := Instr.mxfence ⟨0, 0xFF, 0xE0, 0xE0, 0⟩
     let s := onIssue i true
     let u := onIssue i false
     meets [rdy i s, (igOf s).hold.isNone, s.acting (igOf s) i == [l0], s.rd32 t0 0 0xE1 < 64, s.observes t0 1 == [9],
       s.e.mxs.all (·.done), rdy i u, u.e.mxs.any fun x => (u.observes t0 1).contains x.id && !x.done,
       rdy j (onWord j), (onWord j).rd32 t0 63 0xFF == 63, rdy k (onWord k), (onWord k).osbCopies 1 == [],
       rdy k (filling k), (filling k).acting (igOf (filling k)) k == [l0], (filling k).osbCopies 1 == [9]]) = true := by decide +kernel

/-- Slot 1 held, its last elements, with and without an open window. -/
theorem test_hyp_VatWords :
    (let i := Instr.vtrd ⟨0, 4, 1, 0xE0, 0xE0, 0x002, 0, false, 7, 0⟩
     let held := fun (s : State) => (withV s [(1, 0x1FFC)]).setTeam 1 fun t => { t with vatFree := [0] }
     let s := held (onWord i)
     let u := held (onIssue i false)
     let k := bitsOf (s.rd32 t0 0 1) 12 6
     let n := 2 ^ mdType (fieldsOf i).md
     meets [rdy i s, s.acting (igOf s) i == [l0], s.rd32 t0 0 1 < 2 ^ 18, bitsOf (s.rd32 t0 0 1) 0 12 % n == 0, k == 1,
       s.vatHeld 1 k, s.windows 1 k == [], rdy i u, u.acting (igOf u) i == [l0], u.vatHeld 1 k, u.windows 1 k != []]) = true := by
  decide +kernel
theorem test_hyp_VatWords_writes :
    (let i := Instr.vtwr ⟨0, 0xFF, 1, 4, 0⟩
     let j := Instr.vrel ⟨0, 0xFF, 2, 0xE0, 0⟩
     let held := fun (s : State) => (withV s [(1, 0x1FFF), (2, 1)]).setTeam 1 fun t => { t with vatFree := [0] }
     let s := held (onWord i)
     let u := held (onIssue j false)
     let w := held (onIssue j true)
     meets [rdy i s, s.acting (igOf s) i == [l0], s.vatHeld 1 1, s.rd32 t0 0 1 == 0x1FFF, rdy j u, u.acting (igOf u) j == [l0],
       u.rd32 t0 0 2 == 1, u.vatHeld 1 1, rdy j w]) = true := by decide +kernel

/-- A chain record: out = in0 rounded, one input and one output of one element each, both in the scratchpad. -/
def chainBytes : List Byte :=
  let it := fun (b : Nat) => natLE 8 b ++ natLE 8 0x20 ++ natLE 4 1 ++ natLE 4 1 ++ natLE 4 1 ++ natLE 4 1 ++ natLE 32 0
  natLE 4 (7 + 2 ^ 12 * 0 + 2 ^ 16 * 13 + 2 ^ 20 * 13) ++ natLE 60 0 ++ natLE 4 (2 ^ 3 + 2 ^ 6 + 2 ^ 8 * 4) ++ natLE 60 0 ++ it 0x100 ++
    it 0x200
theorem test_hyp_ChainWords :
    (let i := Instr.chain ⟨0, 0xFF, 1, 0xE0, 0⟩
     let s := withRec (onWord i) 0x7F00 chainBytes
     let n := chainLen (s.sreads 1 0x7F00 128)
     let r := chainRec (s.sreads 1 0x7F00 n)
     meets (recOk i s 128 128 ++ [(igOf s).hold.isNone, n == 256, 0x7F00 + n ≤ s.scrSize 1, !s.sabsent 1 0x7F00 n, !r.bad,
       s.chRoom 0])) = true := by decide +kernel
/-- A chain of the thread. -/
def onChain (i : Instr) (done : Bool) : State :=
  { onWord i with e.chains := [⟨9, 0, t0, 4, 0, [], [], [], 0, 0, 0, none, fNX, 5, 0, none, 0, none, none, false, 0, done, none, 0, 0, [], 0⟩] }
theorem test_hyp_ChainWords_wait :
    (let i := Instr.chwait ⟨0, 0xFF, 0xE0, 0xE0, 0⟩
     let s := onChain i true
     let u := onChain i false
     meets [rdy i s, (igOf s).hold.isNone, s.acting (igOf s) i == [l0], s.chainsOf t0 == [9], s.e.chains.all (·.done),
       rdy i u, u.acting (igOf u) i == [l0], u.chainsOf t0 == [9], u.e.chains.all fun c => !c.done]) = true := by decide +kernel

/-- A queue of 16-byte records with a ring of one record. -/
def ring1 (xs : List QRec) : Queue :=
  { kind := 0, rsz := 16, ring := 1, cellarQuota := 0, weight := 1, theta := 0, burst := 1, ceil := 0xFFFF, hstation := 0,
    hqueue := 0, slice := 0, next := 5, rings := [xs], cellars := [[]], waiting := [], refill := none }
/-- A record of 16 bytes of zeros. -/
def plainRec : QRec := ⟨4, ⟨List.replicate 16 0, 0, false⟩, 0, none, 1⟩
/-- Queue 3 of the context, named by channel register 0 with every permission. -/
def onQueue (i : Instr) (kind : Nat) (xs : List QRec) : State :=
  let e : DWord := BitVec.ofNat 64 (1 + 2 * kind + 0xFF0 + 3 * 2 ^ 12 + 2 ^ 32)
  let s := (onWord i).setTeam 1 fun t => { t with chan := e :: List.replicate 15 0 }
  { s with gr.queues := [(⟨0, 0, false, 3⟩, ring1 xs)] }
/-- What the statement asks of an enqueue whose capability has the kind. -/
def enqOk (i : Instr) (s : State) (kind : Nat) : List Bool :=
  let e := ((s.team? 1).map fun t => (t.chan.getD (mdCh (fieldsOf i).md) 0).toNat).getD 0
  let is := s.iss (igOf s) i
  [rdy i s, s.entrants (igOf s) i == [l0], s.sch.paths.all (fun p => p.state == .inClause 1 && p.charged == 0), capValid e,
    e.testBit permEnq, capAllow e != 0, capKind e == kind, (s.enqRecFlt is l0).isNone,
    (match s.enqRec is l0 with | .ok r => r.bytes.length == 16 && r.lbl == 0 | .error _ => false)]
theorem test_hyp_RecordsEnqueued :
    (let i := Instr.enq ⟨0, 0xFF, 4, 0xE0, 0⟩
     let s := onQueue i 0 []
     meets (enqOk i s 0 ++ [(s.queue? ⟨0, 0, false, 3⟩).any fun q => q.waiting.isEmpty && q.fits 0 1])) = true := by decide +kernel
/-- Mailbox 3 leads to queue 3 of partition 0. -/
theorem test_hyp_RecordsEnqueued_mail :
    (let i := Instr.enqi ⟨0, 0xFF, 4, 0xE0, 0⟩
     let s := { onQueue i 2 [] with gr.boxes := [(3, BitVec.ofNat 64 (2 ^ 63 + 3 * 2 ^ 42 + 2 ^ 32 + 0xFFFF))] }
     let x := s.filterOf 3
     meets (enqOk i s 2 ++ [s.mailQueue 3 == some ⟨0, 0, false, 3⟩, filtValid x, filtSpart x == 0, Label.sub 0 (filtMax x),
       s.heldMail 3 < filtCredit x])) = true := by decide +kernel
/-- A full queue, whose consumer takes it inline: its last inline frame. -/
theorem test_hyp_RecordsEnqueued_inline :
    (let i := Instr.enqi ⟨0, 0xFF, 4, 0xE0, 0⟩
     let s := withStage (onQueue i 0 [plainRec]) fun st => { st with inkind := 1, inidx := 3, inl := true, irows := 15, depthmax := 1 }
     let k : QKey := ⟨0, 0, false, 3⟩
     meets (enqOk i s 0 ++ [(s.queue? k).any fun q => !q.fits 0 1, s.enqRsz (s.iss (igOf s) i) == 16,
       (s.consumer k).any fun st => st.inl && 8 * (st.irows + 1) ≤ s.regs ⟨1, 0⟩ && (s.thr t0).inlDepth < st.depthmax])) = true := by
  decide +kernel

/-- A consumer of queue 3, which holds one record that its core has seen. -/
def onDeal (i : Instr) : State :=
  { withStage (onQueue i 0 [plainRec]) fun st => { st with inkind := 1, inidx := 3, hasRec := true } with
    gr.near := [(⟨0, 0, false, 3⟩, { len := 1 })] }
theorem test_hyp_RecordsDealt :
    (let i := Instr.deqmore ⟨0, 5, 0xE0, 0xFF, 0xE0, 0, 0, false, 7, 32⟩
     let s := onDeal i
     meets [rdy i s, s.acting (igOf s) i == [l0], (s.stage? 0 0 0).any fun st => st.inkind == 1 && st.hasRec &&
       s.inputOf 0 0 0 st == ⟨0, 0, false, 3⟩, (s.queue? ⟨0, 0, false, 3⟩).any (·.waiting.isEmpty),
       s.viewLen 0 ⟨0, 0, false, 3⟩ == 1]) = true := by decide +kernel
theorem test_hyp_RecordsDealt_qlen :
    (let i := Instr.qlen ⟨0, 5, 0xE0, 0xE0, 0xE0, 0, 0, false, 7, 0⟩
     let s := onQueue i 1 []
     let e := s.chanOf 1 (fieldsOf i)
     meets [rdy i s, s.acting (igOf s) i == [l0], !s.chargedLane l0, capValid e, capKind e == 1, e.testBit permLen]) = true := by
  decide +kernel

/-- Table 3 of three entries on the page, and its last entry. -/
theorem test_hyp_DecrementsAndLaunches :
    (let i := Instr.decdep ⟨0, 0xFF, 2, 0xE0, 0⟩
     let tab : TTab := ⟨0x200000, 3, 1⟩
     let s := mapped ((withV (onQueue i 4 []) [(2, 2)]).setPart 0 fun p => { p with
       ctxs := p.ctxs.map fun c => (c.1, { c.2 with ttabs := [(3, tab)] }) })
     let is := s.iss (igOf s) i
     let e := ((s.team? 1).map fun t => (t.chan.getD 0 0).toNat).getD 0
     meets [rdy i s, s.entrants (igOf s) i == [l0], s.sch.paths.all fun p => p.charged == 0, capValid e, capKind e == 4,
       e.testBit permDep, capAllow e != 0, s.ttab? 0 0 (capTarget e) == some tab, s.rd32 t0 0 2 == 2,
       (s.depTrs is tab l0).all fun x => match x.2 with | .ok .. => true | _ => false, (s.depAccFlt is tab l0).isNone]) = true := by
  decide +kernel
/-- A launch record of one team, and three pending-launch entries taken. -/
theorem test_hyp_DecrementsAndLaunches_launch :
    (let i := Instr.launch ⟨0, 0xFF, 1, 0xE0, 0⟩
     let s := withRec (withStage (onQueue i 3 []) id) 0x7FC0 (natLE 4 1 ++ natLE 60 0)
     let lr : LRec := { bytes := [], lbl := 0, part := 0, ctx := 0, stage := 3, run := 0 }
     let s := { s.setPart 0 fun p => { p with ctxs := p.ctxs.map fun c => (c.1, { c.2 with stages := [(0, plainStage), (3, plainStage)] }) } with
       sch.pendL := [⟨1, 0, lr, 0, false⟩, ⟨1, 1, lr, 0, false⟩, ⟨1, 2, lr, 0, false⟩]
       gr.queues := [(⟨0, 0, true, 3⟩, ring1 [])] }
     let is := s.iss (igOf s) i
     let e := ((s.team? 1).map fun t => (t.chan.getD 0 0).toNat).getD 0
     meets (recOk i s 64 64 ++ [s.entrants (igOf s) i == [l0], s.sch.paths.all (fun p => p.state == .inClause 1 && p.charged == 0),
       capValid e, capKind e == 3, e.testBit permLaunch, capAllow e != 0, (s.stage? 0 0 (capTarget e)).isSome,
       !launchRecBad (s.sreads 1 0x7FC0 64) 1, Label.sub (s.cmdLbl is l0 0x7FC0 64) (s.ceilOf ⟨0, 0, true, 3⟩),
       s.freeEntries 1 == [3]])) = true := by decide +kernel

/-- The last counter of the page. -/
theorem test_hyp_ArrivalCounters :
    (let i := Instr.arcinit ⟨0, 0xFF, 10, 4, 0⟩
     let j := Instr.arcadd ⟨0, 0xFF, 10, 0xE0, 0⟩
     let s := onPage i 0xFFF0
     let u := { onPage j 0xFFF0 with clk.tclk := 20 }
     let ok := fun (i : Instr) (s : State) (kind : ReqKind) =>
       rdy i s && s.acting (igOf s) i == [l0] && decide (s.addrOf (s.iss (igOf s) i) true l0 % 16 = 0) &&
         (match s.tr (s.iss (igOf s) i) true l0 with | .ok .. => true | _ => false) && (s.accFlt (s.iss (igOf s) i) kind l0).isNone
     meets [ok i s .arcinit, ok j u .arcadd, u.relDone t0 (u.arcScope (u.iss (igOf u) j) l0), u.m.l1 == []]) = true := by decide +kernel
/-- A counter at its goal of 0. -/
theorem test_hyp_ArrivalCounters_wait :
    (let i := Instr.arcwait ⟨0, 0xFF, 10, 0xE0, 0⟩
     let s := onPage i 0
     let is := s.iss (igOf s) i
     meets [rdy i s, s.acting (igOf s) i == [l0], decide (s.addrOf is true l0 = 0x200000), !s.loading t0,
       (match s.tr is false l0 with | .ok loc _ => s.owned 0 loc | _ => false), s.arcReached is l0,
       s.sch.paths.all fun p => !p.atCounter]) = true := by decide +kernel
/-! ## States that meet the hypotheses: placements and commands -/

/-- Placement 4095, the last of the table, with a demand that its state meets. -/
def onPlace (i : Instr) : State :=
  let s := withV (onWord i) [(1, 4095), (2, 0)]
  { s.setPart 0 fun p => { p with
      plSize := 4096, places := [(4095, ⟨1, 2, 0, 1, false, 0, [64], 0, [], 0, 0, 0⟩)], meshes := [(0, ⟨[1], [0]⟩)] } with clk.tclk := 20 }
theorem test_hyp_PlacementWords :
    (let i := Instr.pldem ⟨0, 0xFF, 1, 2, 0⟩
     let j := Instr.plstate ⟨0, 5, 1, 0xE0, 0xE0, 0, 0, false, 7, 0⟩
     let k := Instr.lblrd ⟨0, 5, 1, 0xE0, 0xE0, 0, 0, false, 7, 0⟩
     let s := onPlace i
     let is := s.iss (igOf s) i
     let u := onPlace j
     meets [rdy i s, s.acting (igOf s) i == [l0], (s.plFlt is l0).isNone, s.plMet is l0, s.relDone t0 3, s.m.l1 == [],
       s.sch.paths.all fun p => !p.atPlace, rdy j u, u.acting (igOf u) j == [l0], (u.plFlt (u.iss (igOf u) j) l0).isNone,
       rdy k (onWord k), mdSel (fieldsOf k).md != 1, ((onWord k).lblrdFlt ((onWord k).iss (igOf (onWord k)) k) l0).isNone]) = true := by
  decide +kernel
/-- 64 bytes of the page to a window of host memory, under a policy with exactly that much left. -/
def onGate : State :=
  let i := Instr.gate ⟨0, 0xFF, 1, 0xE0, 0⟩
  let s := withRec (mapped (onWord i)) 0x7FE0 (natLE 2 7 ++ natLE 2 0 ++ natLE 4 64 ++ natLE 8 0x200000 ++ natLE 8 0x200040 ++ natLE 8 0)
  { (s.setFn 0 fun f => { f with slot := some 3 }).setFrame 7 ⟨1, 0, 8⟩ with
    y.policies := [⟨7, 8, 3, 1, 0, 64, []⟩], clk.tclk := 20 }
theorem test_hyp_PlacementWords_gate :
    (let i := Instr.gate ⟨0, 0xFF, 1, 0xE0, 0⟩
     let s := onGate
     let is := s.iss (igOf s) i
     let r := gateRec (s.sreads 1 0x7FE0 32)
     let e : Policy := ⟨7, 8, 3, 1, 0, 64, []⟩
     meets [rdy i s, isLone s i (plainTeam 1 0), s.m.l1 == [], s.relDone t0 4, s.acting (igOf s) i == [l0], (s.recFlt is 32 l0).isNone,
       s.gateOf is l0 == some r, !r.bad, (s.gateTrs is r).all fun x => match x.2 with | .ok loc _ => s.owned 0 loc | _ => false,
       s.y.policies.find? (fun e => e.id = r.policy) == some e, Label.sub (s.gateSrcLbl is r ||| s.cmdLbl is l0 (s.recOff is l0) 32) e.lset,
       (s.spanTrs is r.dst r.n true).all fun x => s.gateDstOk 0 e x.2, r.n ≤ e.remain.toNat]) = true := by decide +kernel
theorem test_hyp_PlacementWords_syscall :
    (let i := Instr.syscall ⟨0, 5, 2, 1, 0xE0, 0, 6, false, 7, 0⟩
     let s := { onWord i with clk.tclk := 20 }
     meets [rdy i s, isLone s i (plainTeam 1 0), s.relDone t0 4]) = true := by decide +kernel

/-- A command of partition 0 with two arguments that the function may give. -/
def may (c : Cmd) (s : State) : Bool := s.permits c true && s.permits c false && !s.y.boot.minimal

theorem test_hyp_ParlourGrants :
    (let c := cmd 1599 32 0
     let d := cmd 0x00010800 0 0
     let held := { up.setPart 1 (fun p => { p with hbm := 0x800 }) with m.frames := [(0, ⟨1, 0, 0⟩)] }
     meets [may c up, up.sch.paths == [], coreUnit 1599 ∉ up.y.retired, up.limSum 0 1599 32 limTslot == 32, may d up,
       bitsOf d.arg0.toNat 0 12 == 0x800, up.gr.parts.all fun kv => kv.1 == 0 || kv.2.hbm == 0, may d held,
       held.gr.parts.any fun kv => kv.1 == 1 && Nat.land kv.2.hbm 0x800 != 0,
       (up.hostBytes 0xFFFFFFFFFFFFFFC0 64).isSome, may (cmd 15 0x8000 0) up, up.areaOk 0 0 0, (up.part 0).saveUsed == [],
       (up.hostBytes 0 48).isSome, !winBad (up.m.host.map (·.2) ++ List.replicate 48 0) 0]) = true := by decide +kernel
/-- R364: the bounds of the time limit and of a filter. -/
theorem test_hyp_ParlourGrants_bounds :
    (let c := cmd 255 0 0
     let e := 2 ^ 63 + 2 ^ 32
     meets [may c up, bitsOf (1000 + 2 ^ 20) 0 20 == 1000, bitsOf 1000000 0 20 == 1000000, 1000000 < 2 ^ 23, bitsOf e 60 3 == 0,
       bitsOf e 16 16 == 0, bitsOf e 32 10 == 1, Label.sub (BitVec.ofNat 16 e) (up.part (bitsOf e 52 4)).grant,
       !Label.sub 1 (up.part 0).grant]) = true := by decide +kernel

/-- The thread's team, which has not ended. -/
def alive : State := onWord (.exit ⟨false, 7, 0⟩)
/-- A stack that partition 0 holds. -/
def stack0 : State := up.setPart 0 fun p => { p with hbm := 1 }
theorem test_hyp_ParlourWork :
    (let c := cmd 2 1048574 0
     let s := stack0
     let u := { s with m.frames := [(5, ⟨1, 0, 0⟩)] }
     meets [may c s, Label.sub 0 (s.part 0).grant, [1048574, 1048575].all fun n =>
       (s.part 0).ownsChan n && (s.frame n).state == 0 && !s.inPool n,
       may (cmd 1 5 0) u, (u.frame 5).state == 1, (u.frame 5).owner == 0, u.m.unspared == [],
       may (cmd 0x10F 0 0) s, bitsOf 0x10F 4 4 == 0, may (cmd 0xFFFF 0 0) s, may (cmd 15 0 0) s, (s.teamsOf 0 15).isEmpty, s.onCore 0 none == [],
       s.onCore 0 (some 1599) == [], alive.onCore 0 none != [],
       s.gr.queues == []]) = true := by decide +kernel
/-- A scrub whose time has come, and one whose time has not. -/
theorem test_hyp_ParlourWork_scrub :
    (let x : Scrub := ⟨3, [5], 4000, some 0, false⟩
     let s := { up with m.scrubs := [x] }
     let u := { s with clk.tclk := 4000 }
     meets [s.m.scrubs.find? (fun y => y.id = x.id) == some x, s.clk.tclk.toNat < x.at_.toNat, u.m.scrubs.find? (fun y => y.id = x.id) == some x,
       x.at_.toNat ≤ u.clk.tclk.toNat, u.h.fns.all fun kv => kv.2.resetting != some x.id, Memory.wf u.m.mem]) = true := by decide +kernel

/-- The header of a message that a port of the module receives. -/
def hdr : MsgHdr := ⟨0, 0, 0, 0x3FF, 5, 0, false⟩
/-- Port 0 is active, and faces station 5. -/
def linked : State := { up with y.ports := [(0, { st := 4, far := 5, major := 1 })] }

theorem test_hyp_Attestation :
    (let c := cmd 0 0x1000 48
     meets [may c up, (up.hostBytes c.arg1 48).isSome, 0 + (up.measBytes 48).length ≤ 2 ^ 64, (cmd 0 0 47).arg2.toNat < 48,
       (up.hostBytes c.arg1 c.arg2.toNat).isSome, linked.msgOk hdr]) = true := by decide +kernel

/-- The base point of P-384 as a key in host memory, and slot 15. -/
def keyBytes : List Byte :=
  4 :: (natLE 48 0xAA87CA22BE8B05378EB1C71EF320AD746E1D3B628BA79B9859F741E082542A385502F25DBF55296C3A545E3872760AB7).reverse ++
    (natLE 48 0x3617DE4A96262C6F5D9E98BF9292DC29F8F41DBD289A147CE9DA3113B5F0B8C00A60B1CE1D7E819D7A431D7C90EA0E5F).reverse
/-- Host memory with some bytes. -/
def inHost (s : State) (a : Nat) (bs : List Byte) : State := { s with m.host := csets s.m.host a bs }
theorem test_hyp_SlotsAndPolicies :
    (let s := inHost up 0x1000 keyBytes
     let bs := (s.hostBytes 0x1000 97).getD []
     let q := (keyOf bs).getD (0, 0)
     let u := { s with y.slots := [(15, q)] }
     meets [may (cmd 15 0x1000 0) s, (keyOf bs).isSome, !s.bound 15, s.y.slots == [], u.bound 15, !u.slotUsed 15, !u.bound 14,
       (u.setPart 0 fun p => { p with grant := 0x8000 }).slotUsed 15, may (cmd (16 + 256 * 15) 0 0) u, may (cmd (16 + 4096) 0 0) u,
       u.allBound 0x8000, !u.allBound 1, (u.grantUses 0).all fun x => Label.sub x 0x8000,
       ({ u with m.frames := [(5, ⟨1, 0, 1⟩)] } : State).grantUses 0 == [1]]) = true := by decide +kernel
/-- A policy of no label needs no signature, and is ill-formed; one of a slot whose signature is 0 is not signed. -/
theorem test_hyp_SlotsAndPolicies_install :
    (let u := { up with y.slots := [(15, (0, 0))] }
     let p := fun (l : Nat) => natLE 8 (2 ^ 48 + 2 ^ 32 * l + 2 ^ 24 * 15) ++ natLE 24 0
     let s := inHost u 0 (p 0x8000 ++ List.replicate 96 0)
     let t := inHost u 0 (p 0)
     let bs := (s.hostBytes 0 128).getD []
     let cs := (t.hostBytes 0 32).getD []
     meets [may (cmd 0 0 128) s, 128 == 32 + 96 * popcount ((polLset bs).zeroExtend 64), s.allBound (polLset bs), s.bound (polDslot bs),
       !s.polSigned bs, 32 == 32 + 96 * popcount ((polLset cs).zeroExtend 64), t.bound (polDslot cs), t.polSigned cs, t.polBad cs]) = true := by
  decide +kernel
/-- R394: the last policy number, revoked by the PF, by the VF of its owner, and by another. -/
theorem test_hyp_SlotsAndPolicies_revoke :
    (let p : Policy := ⟨0xFFFF, 8, 3, 1, 0, 64, List.replicate 32 0⟩
     let s := { up with y.policies := [p] }
     let v := s.setFn 1 fun f => { f with part := some 1, slot := some 3 }
     let w := s.setFn 1 fun f => { f with part := some 1, slot := some 4 }
     let c : Cmd := { cmd 0xFFFF 0 0 with fn := 1, part := 1 }
     meets [may (cmd 0xFFFF 0 0) s, s.y.policies.find? (fun p => p.id = 0xFFFF) == some p, v.permits c false,
       (v.fn 1).slot == some 3, p.lset.getLsbD 3, w.permits c false, (w.fn 1).slot == some 4, !p.lset.getLsbD 4,
       may (cmd 0xFFFE 0 0) s, s.y.policies.all fun p => p.id != 0xFFFE]) = true := by decide +kernel

/-- A pool of two frames from partition 0's three. -/
theorem test_hyp_PlacementCommands :
    (let s := { stack0 with m.frames := (List.range 33).map fun n => (n, (⟨1, 0, 0⟩ : Frame)) }
     meets [may (cmd 4096 0x200000 0x200000) s, (s.part 0).places == [], (s.part 0).poolFrames == [],
       0x200000 / 65536 ≤ (s.framesOf 0).length, s.framesOf 0 == List.range 33, (s.framesOf 0).all fun f => (s.frame f).state == 1,
       Memory.wf s.m.mem, (up.framesOf 0).length < 0x200000 / 65536]) = true := by decide +kernel
/-- A policy of the label of slot 15, whose signature by the key of that slot is the digest of its 32 bytes twice (R393). -/
def signed : List Byte :=
  let z := 0x91A71F5B4BCB4DA8FE1E845CD060F9B835BABCDCC815AEE078DBADD3DDCF0A3769B8F1CC51BA2EE350CD1BC398E81BDF
  natLE 8 (2 ^ 48 + 2 ^ 32 * 0x8000 + 2 ^ 24 * 15) ++ natLE 8 64 ++ natLE 16 0 ++ (natLE 48 z).reverse ++ (natLE 48 z).reverse
/-- The key of slot 15. -/
def signer : Nat × Nat :=
  (0xDB9F10B369B10FB7C03C4F69FABD4EC791B942C7A27E2AA3EE3BBB2F8E78ECB92F320D70E29A1EF60ADFA8F699EFEB47,
    0xDF384D88686ED79E53051F0901CECE7E0AC302D592F5959C4C7F79CC7902FAD383F33354D70BA8B43E199A9362F34218)
theorem test_hyp_SlotsAndPolicies_signed :
    (let u := { inHost up 0 signed with y.slots := [(15, signer)] }
     let bs := (u.hostBytes 0 128).getD []
     meets [128 == 32 + 96 * popcount ((polLset bs).zeroExtend 64), u.allBound (polLset bs), u.bound (polDslot bs), u.polSigned bs,
       !u.polBad bs, u.y.policies.length < 64]) = true := by decide +kernel
/-! ## States that meet the hypotheses: fabric, operator and host -/

/-- A placement of 64 bytes of a mesh of this station alone, into an empty pool of one frame. -/
theorem test_hyp_PlacementCommands_place :
    (let m : Mesh := ⟨[1], [0x3FF]⟩
     let s0 := stack0.setPart 0 fun p => { p with plSize := 4096, poolSize := 65536, poolFrames := [7], meshes := [(0, m)] }
     let bs := natLE 8 (2 ^ 44 * 2) ++ natLE 4 32 ++ natLE 4 1 ++ natLE 4 1 ++ natLE 4 1 ++ natLE 8 0
     let s := inHost s0 0 bs
     let v := s.votePlace 0 4095 ((s.hostBytes 0 32).getD [])
     let u := s0.setPart 0 fun p => { p with places := [(4095, ⟨1, 2, 0, 1, false, 0, [64], 0, [7], 0, 0, 0⟩)] }
     meets [may (cmd 4095 0 0) s, s.y.preps == [], v.1 == 0, v.2.isSome, v.2.all fun e => (s.meshOf 0 e).stations == [s.y.station],
       may (cmd 4095 0 0) u, (u.place? 0 4095).any fun e => !e.busy && (u.meshOf 0 e).stations == [u.y.station]]) = true := by decide +kernel
theorem test_hyp_PlacementCommands_mesh :
    (let s := inHost stack0 0 (natLE 4 7 ++ natLE 2 1 ++ natLE 2 1 ++ natLE 2 1 ++ natLE 2 1 ++ natLE 4 1 ++ natLE 2 0x3FF)
     let head := (s.hostBytes 0 16).getD []
     let m := meshOfBytes ((s.hostBytes 0 18).getD [])
     meets [may (cmd 0 0 0) s, s.y.preps == [], field head 0x0C 4 == 1, m == some (7, ⟨[1], [s.y.station]⟩), (mget? s.gr.parts 0).isSome,
       (s.part 0).places == []]) = true := by decide +kernel
/-- A vote that this station gives, one that it waits for, and one that it has given. -/
theorem test_hyp_PlacementCommands_votes :
    (let p : Prep := ⟨9, 0x33, some 0, 0, 0x3FF, 4095, [], [5, 6], []⟩
     let s := { linked with y.preps := [p] }
     let u := { linked with y.preps := [{ p with origin := 5, waiting := [] }] }
     let mesh : Prep := { p with op := 0x31, body := natLE 4 7 ++ natLE 2 1 ++ natLE 2 1 ++ natLE 2 1 ++ natLE 2 1 ++ natLE 4 1 ++ natLE 2 5 }
     let place : Prep := { p with op := 0x32, body := natLE 8 (2 ^ 44 * 2) ++ natLE 4 32 ++ natLE 4 1 ++ natLE 4 1 ++ natLE 4 1 ++ natLE 8 0 }
     meets [meshOfBytes mesh.body == some (7, ⟨[1], [5]⟩), (placeOfBytes place.body (plLbl place.arg0)).isSome, p.frames == [],
       linked.msgOk hdr, linked.vote 0 0x33 4095 [] == 6, s.msgOk hdr, s.prep? s.y.station 9 == some p, p.waiting.contains hdr.sstation,
       u.msgOk hdr, (u.prep? hdr.sstation 9).isSome]) = true := by decide +kernel

theorem test_hyp_FabricPorts :
    (let q := linked
     let s := { up with y.ports := [(35, { st := 2 })] }
     meets [may (cmd 0 0 0) up, 2 ^ 36 - 1 < 2 ^ 36, bitsOf (4096 + 4095 * 2 ^ 16) 0 13 == 4096, bitsOf (4096 + 4095 * 2 ^ 16) 16 13 == 4095,
       4096 + 4095 * 2 ^ 16 < 2 ^ 29, bitsOf (4096 + 4095 * 2 ^ 16) 13 3 == 0, up.minSum 0 35 768 == 768, up.minSum 0 35 769 == 769,
       q.y.ports.any fun kv => kv.2.st == 4, up.y.ports.all fun kv => kv.2.st != 4, s.y.linkups == [], (s.port 35).needed,
       (s.port 35).early.isNone, !(q.port 0).needed]) = true := by decide +kernel
/-- A HELLO to a port of every state, and to a port that has sent its own. -/
theorem test_hyp_FabricPorts_hello :
    (let s := { up with y.ports := [(35, { st := 3 })] }
     meets [!hdr.rsvd, !(s.port 35).retired, (linked.port 0).st == 4, (up.port 35).st == 0, (s.port 35).st == 3, s.y.linkups == [],
       s.y.station == 0x3FF, (commonVersion 0x01000100 0x02000200).isNone, commonVersion 0x01000100 0x01FF0000 == some (1, 0)]) = true := by
  decide +kernel
theorem test_hyp_FabricPorts_clock :
    (let s := { up with y.ports := [(35, { st := 3, far := 5, major := 1, sents := [100] })], clk.tclk := 132 }
     let a := s.setPort 35 fun p => { p with st := 4 }
     let ok := fun (time : DWord) => clockOk (clockOffset ((s.port 35).sentFor 116) 116 time s.clk.tclk)
     meets [!(s.port 35).retired, (s.port 35).far == hdr.sstation, (s.port 35).major != 0, hdr.minor ≤ (s.port 35).minor,
       s.y.linkups == [], ok 148, !ok 149, (a.port 35).st == 4]) = true := by decide +kernel
/-- A read of station 5 that has left by port 0. -/
def outReq : OutReq :=
  { tag := 1, station := 5, port := 0, off := 0, kind := 0, part := 0, ctx := 0, run := 0, scope := 0, nolease := false, lbl := 0,
    len := 4, data := [], aop := 0, wide := false, uns := false, cmp := 0, ops := [], who := .slot, reissued := false }
/-- It goes on by port 1. -/
theorem test_hyp_FabricPorts_leave :
    (let s := { up with y.ports := [(0, { st := 4, far := 5, major := 1 }), (1, { st := 4, far := 5, major := 1 })], y.reqs := [outReq] }
     let t := s.setPort 0 fun p => { p with st := 0 }
     meets [(s.port 0).st == 4, outReq.port == 0, s.y.preps == [], t.portsTo 5 == [1], (linked.port 0).st == 4, linked.y.reqs == []]) = true := by
  decide +kernel

theorem test_hyp_OperatorCommands :
    (let u := coreUnit 1599
     meets [may (cmd u 0 0) up, (2 ^ 64 - up.teleBytes.length) + up.teleBytes.length ≤ 2 ^ 64, up.y.log == [],
       bitsOf (1200 + 70 * 2 ^ 16) 0 16 == 1200, bitsOf (1200 + 70 * 2 ^ 16) 16 8 == 70, bitsOf (3600 + 105 * 2 ^ 16) 16 8 == 105,
       bitsOf (3600 + 105 * 2 ^ 16) 24 8 == 0, unitKnown u, !unitKnown (coreUnit 1600), u ∉ up.y.retired,
       u ∈ ({ up with y.retired := [u] } : State).y.retired, up.y.surveys == [], up.sch.teams == []]) = true := by decide +kernel
/-- No die is hot; die 7 is hot and its only team may migrate. -/
theorem test_hyp_OperatorCommands_heat :
    (let s := { (onWord (.exit ⟨false, 7, 0⟩)) with y.hot := [0], clk.tclk := 1000000000 }
     meets [up.y.hot == [], up.y.clock.length == 8, s.y.hot == [0], (s.migrant 0).map (·.1) == some 1]) = true := by decide +kernel

/-- The units at the ends of their ranges, and the surveys that may end. -/
theorem test_hyp_ErrorsAndSurveys :
    (let c := coreUnit 1599
     let l := sliceUnit 511
     let row : Word := 0x3B0FFFFF
     let s := { up with y.surveys := [⟨c, some 5, 0⟩, ⟨l, some 5, 0⟩, ⟨row, some 5, 64⟩], y.perSec := [(l, List.replicate 17 0)] }
     let u := { up with y.perSec := [(l, List.replicate 17 0)] }
     meets [unitKnown c, unitKnown l, unitKnown row, (up.recent l).length ≤ 16, 16 < (u.recent l).length, unitKind l == 2, l ∉ u.y.retired,
       u.y.surveys == [], unitKind row == 3, (s.survey? c).isSome, (s.survey? row).isSome, (s.survey? l).isSome,
       decide (s.gr.parts.map (·.1)).Nodup, s.gr.parts.all fun kv => kv.2.slices != [511]]) = true := by decide +kernel

theorem test_hyp_BootAndReset :
    (let b := fun (n : Nat) => { State.reset with y.boot := { State.reset.y.boot with starting := true, stage := n, bound := 10 } }
     let late := { b 2 with clk.tclk := 11 }
     let f := fun (n : Nat) => { State.reset with y.boot := { State.reset.y.boot with fails := n } }
     meets [(b 0).y.boot.starting, (b 0).clk.tclk.toNat ≤ (b 0).y.boot.bound.toNat, (b 1).y.boot.stage == 1, (b 2).y.boot.stage == 2,
       (b 3).y.boot.stage == 3, 7 < (b 1).y.meas.length, late.y.boot.bound.toNat < late.clk.tclk.toNat, (f 2).y.boot.fails < 3,
       3 ≤ (f 3).y.boot.fails]) = true := by decide +kernel

/-- VF 16 enabled, with its partition. -/
def vf16 : State := up.setFn 16 fun f => { f with enabled := true, part := some 15 }
theorem test_hyp_HostRegisters :
    (let s := up.setFn 0 fun f => { f with mbcmd := [(0, 9), (2, 0)], cfgcmd := [(0, 0x53)] }
     let bs := blockBytes (s.fn 0).mbcmd
     let cs := blockBytes (s.fn 0).cfgcmd
     meets [up.fnUp 0, vf16.fnUp 16, up.partOfFn 0 == some 0, vf16.partOfFn 16 == some 15, s.fnUp 0, !(s.fn 0).mbbusy,
       (parlourOp (opOf bs) (cmdOf 0 bs)).isSome, !(s.fn 0).cfgbusy, (configOp (opOf cs) (cmdOf 0 cs)).isSome, up.hostOpen,
       (2 ^ 63 : DWord).toNat.testBit 63, vf16.barSize 16 255 == 30, (vf16.setPart 15 fun p => { p with hbm := 1 }).barSize 16 40 == 36,
       2 ^ 30 ≤ (vf16.setPart 15 fun p => { p with hbm := 1 }).grantBytes (vfPart 16)]) = true := by decide +kernel

/-- A frame of partition 0 that host software of the PF may read and write: its last bytes. -/
theorem test_hyp_HostFunctions :
    (let s := up.setFrame 7 ⟨1, 0, 0⟩
     let a : HostAccess := ⟨false, 7 * 65536 + 65532, 4, [], 0⟩
     let w : HostAccess := ⟨true, 7 * 65536 + 65532, 4, [1, 2, 3, 4], 0⟩
     let pa := 8 * 65536 - 4
     let r := s.setFrame 7 ⟨1, 0, 2⟩
     let x := { vf16 with sch.teams := [] }
     meets [s.fnUp 0, a.off + a.len ≤ 2 ^ s.barLogOf 0, s.hostTarget false 0 a == some pa, s.hostTarget false 0 w == some pa,
       s.hostOwns 0 pa, s.hostOwns 0 (pa + 3), pa / 65536 == (pa + 3) / 65536, s.h.refused == [], s.m.l1 == [], s.egressOk 0 0,
       !s.eccBad (.mem pa) 4, !r.egressOk 0 2, Label.sub (s.fnLbl 0) (s.frame 7).lbl, !s.roShard (.mem pa), !s.eccPartial (.mem pa) 4,
       Memory.wf s.m.mem, !up.hostOwns 0 pa, (x.fn 16).part == some 15, x.sch.teams == []]) = true := by decide +kernel
/-- R359: no VF is enabled but the last. -/
theorem test_hyp_HostFunctions_vf :
    (let x := vf16
     meets [(x.fn 16).part == some 15, (x.fn 16).enabled, (List.range 16).all fun n => !(x.fn n).enabled,
       (List.range 17).all fun n => !(up.fn n).enabled]) = true := by decide +kernel

/-- Slot 63 of the PF, busy, used, and sealed. -/
def onSlot (x : LSlot) : State := (up.setFn 0 fun f => { f with hifsel := 0x01000000 }).setSlot ⟨false, 0, 63⟩ fun _ => x
theorem test_hyp_HostLaunches :
    (let k : SlotKey := ⟨false, 0, 63⟩
     let sealed : LSlot := { bytes := (natLE 128 (7 * 2 ^ 992)).zipIdx.map fun x => (x.2, x.1) }
     let waiting := { onSlot { wait := some (7, 5) } with clk.tclk := 5 }
     meets [up.fnUp 0, (up.fn 0).hifsel == 0, ((onSlot {}).fn 0).hifsel != 0, ((onSlot { busy := true }).slot k).busy,
       ((onSlot { last := some 7 }).slot k).last == some 7, ((onSlot {}).slot k).sealWord != 7, !((onSlot sealed).slot k).busy,
       ((onSlot sealed).slot k).last.isNone, ((onSlot sealed).slot k).sealWord == 7, (up.slot k).wait.isNone,
       (waiting.slot k).wait == some ((7 : Word), (5 : DWord)), 5 ≤ waiting.clk.tclk.toNat, (onSlot { wait := some (7, 5) }).clk.tclk.toNat < 5]) = true := by
  decide +kernel
/-- A peer that may launch, one that may not, and the queues of launch records. -/
theorem test_hyp_HostLaunches_peer :
    (let e : DWord := BitVec.ofNat 64 (2 ^ 63 + 2 ^ 62 + 5 * 2 ^ 32)
     let s := linked.setPart 0 fun p => { p with acl := [(63, e)] }
     let u := linked.setPart 0 fun p => { p with acl := [(0, BitVec.ofNat 64 (2 ^ 63 + 5 * 2 ^ 32))] }
     let lr : LRec := { bytes := [], lbl := 0, part := 0, ctx := 0, stage := 3, run := 0 }
     let k : QKey := ⟨0, 0, true, 3⟩
     let w := { up with sch.pendL := [⟨1, 0, lr, 0, false⟩], gr.queues := [(k, ring1 [])], clk.cycle := 64 }
     meets [s.msgOk hdr, (s.aclEntry 0 0 5).any aclLaunch, u.msgOk hdr, (u.aclEntry 0 0 5).any fun e => !aclLaunch e,
       !(s.slot ⟨true, 0, 63⟩).busy, (s.slot ⟨true, 0, 63⟩).sealWord != 1, (w.nextEntry k).any fun p => w.entryDue p, (w.queue? k).isSome,
       (w.queue? k).any fun q => q.waiting.isEmpty && q.fits 0 1 && q.accepted ≤ w.clk.cycle, lr.gang.isNone, w.sch.lcopies == [],
       ({ w with sch.pendL := [] } : State).nextEntry k == none, (ring1 []).waiting.isEmpty]) = true := by decide +kernel
theorem test_hyp_HostLaunches_gang :
    (let g : Gang := ⟨9, 0x3FF, 100, [5], [], true, false, false, 0, 0, 200⟩
     let s := { linked with y.gangs := [g] }
     let t := { linked with y.gangs := [{ g with origin := 5 }] }
     let u := fun (a : List Nat) => { linked with y.gangs := [{ g with acked := a }], clk.tclk := 101 }
     meets [!g.aborted, s.msgOk hdr, s.gang? s.y.station 9 == some g, s.clk.tclk.toNat ≤ g.deadline.toNat, (u []).clk.tclk.toNat == 101, (t.gang? 5 9).isSome,
       (u []).y.gangs.all fun x => (u []).gangDue x, (u [5]).y.gangs.all fun x => (u [5]).gangDue x && x.acked == x.members]) = true := by
  decide +kernel
/-! ## States that meet the hypotheses: events and messages -/

/-- An access of the thread to frame 7. -/
def acc7 : Acc :=
  { t := t0, qlane := 0, va := 0x20FFFC, loc := .mem (8 * 65536 - 4), len := 4, data := [1, 2, 3, 4], cmp := [], lbl := 0, rlbl := 0,
    done := false, old := [] }
/-- A request with one access. -/
def req1 (kind : ReqKind) (a : Acc) : Req :=
  { id := 9, kind := kind, core := 0, quad := 0, part := 0, ctx := 0, pc := 4, word := 0, scope := 0, nl := true, accs := [a], dst := [.v 63],
    sz := 0, tok := 6, cover := [⟨1, 0⟩], ents := 1, back := false, due := 0 }
/-- The request is under way. -/
def onReq (r : Req) : State := { mapped (onWord (.exit ⟨false, 7, 0⟩)) with m.reqs := [r] }
theorem test_hyp_AccessesPerform :
    (let p := 8 * 65536 - 4
     let ok := fun (r : Req) =>
       let s := onReq r
       acc7.retryAt.toNat ≤ s.clk.tclk.toNat && s.m.l1 == [] && s.owned 0 (.mem p) && !s.roShard (.mem p) && !s.eccBad (.mem p) 4 &&
         !s.wantsPin r acc7 && Memory.wf s.m.mem && acc7.at_ ≤ s.clk.cycle && s.sch.paths.all fun p => !p.atCounter
     let r := req1 .load acc7
     let s := onReq r
     meets [ok { req1 .store acc7 with accs := [{ acc7 with refused := some 0 }] }, ok r, ok (req1 .store acc7), ok (req1 (.atomic 0 false false) acc7), (s.req? 9).isSome, (s.team? 1).isSome, (s.thr t0).live]) = true := by
  decide +kernel
/-- An access that a pinned line has refused, before its deadline and at it. -/
theorem test_hyp_AccessesPerform_refused :
    (let a := { acc7 with refused := some 0 }
     let s := onReq (req1 .store a)
     let u := { s with clk.tclk := 1000000 }
     meets [(s.req? 9).isSome, !a.done, s.clk.tclk.toNat < 1000000, u.clk.tclk.toNat == 1000000]) = true := by decide +kernel
/-- A resolvable report of the PF, before its deadline and at it. -/
theorem test_hyp_AccessesPerform_resolve :
    (let x : Resolvable := ⟨3, 0, 1, none, 0x1000, 0, 0, 0x61⟩
     let s := { onWord (.exit ⟨false, 7, 0⟩) with sch.resolv := [x] }
     let u := { s with clk.tclk := 10000000 }
     meets [(s.resolv? 0 3).any fun y => y == x && y.chain.isNone, decide (s.sch.paths.map (·.id)).Nodup,
       s.sch.resolv.find? (fun y => y.token = 3) == some x, s.clk.tclk.toNat < 1000000 * (s.fn 0).ftmo,
       1000000 * (s.fn 0).ftmo == u.clk.tclk.toNat]) = true := by decide +kernel

/-- A copy within the scratchpad of one row of 128 bytes. -/
def copy1 (row : Nat) : Copy :=
  { id := 9, core := 0, t := t0, batch := 0, pc := 4, roff := 0, cr := copyRec (copyBytes 0x2000 5), multi := false, dests := [1], res := none,
    lbl := 0, row := row, col := 0, gwct := 0, due := 0, overlap := false, wait := 0, refused := none, backoff := 0, retryAt := 0 }
theorem test_hyp_EnginesComplete_copy :
    (let s := { alive with e.copies := [copy1 1] }
     let u := { alive with e.copies := [copy1 0] }
     meets [s.copy? 9 == some (copy1 1), (copy1 1).cr.rows == 1, s.e.osbs == [],
       s.sch.paths.all (fun p => p.state != .parked .osb && p.state != .parked .copyRoom), u.copy? 9 == some (copy1 0),
       (copy1 0).row < (copy1 0).cr.rows, (copy1 0).refused.isNone, (copy1 0).turn.isNone,
       ({ alive with e.copies := [{ copy1 0 with turn := some 0 }] } : State).copy? 9 == some { copy1 0 with turn := some 0 },
       (copy1 0).cr.skind == 1]) = true := by decide +kernel
/-- A plate of the page in the format of 8 bits. -/
theorem test_hyp_EnginesComplete_plate :
    (let x : PlateLoad := ⟨9, 0, 1, some t0, 6, 31, 0x200000, BitVec.ofNat 32 (31 + 32 * 4 + 4096 * 4), 0, 4, none, [], none, 0, 0⟩
     let u := { mapped alive with e.loads := [x] }
     let x := { x with due := some 0 }
     let s := { mapped alive with e.loads := [x] }
     let ps := (platePieces x.src.toNat x.desc.toNat).zipIdx
     meets [u.e.loads.any fun y => y.id == 9 && y.due.isNone, (u.team? 1).isSome, (s.e.loads.find? fun y => y.id = 9) == some x, s.team? 1 == some (plainTeam 1 0), decide (0 < ps.length),
       ps.all fun p => match s.platePiece x (plainTeam 1 0) p.2 p.1 with | .bytes .. => true | _ => false]) = true := by decide +kernel
theorem test_hyp_EnginesComplete_matrix :
    (let s := { onIssue (.exit ⟨false, 7, 0⟩) false with e.osbs := [⟨9, 0, 0, 1, 0, 64, 64, 4, false, 1, [], 0, false, []⟩] }
     meets [s.e.osbs.all fun o => o.olds == [], s.r.vatOld == [],
       (s.mxHead 0).any fun x => (s.osbId? x.res).isSome && x.drow + x.rows < 64, s.sch.paths.all fun p => p.state != .parked .osb,
       alive.mxHead 0 == none, alive.chainHead 0 == none]) = true := by decide +kernel
theorem test_hyp_EnginesComplete_chain :
    (let s := onChain (.exit ⟨false, 7, 0⟩) false
     let u := { s with e.chains := s.e.chains.map fun (c : Chain) => { c with due := some 0 } }
     meets [(s.chainHead 0).any fun c => c.due.isNone, (u.chainHead 0).any fun c => c.due.isSome && c.left == 0 && c.refused.isNone,
       u.e.chains.length == 1]) = true := by decide +kernel
theorem test_hyp_EnginesComplete_calls :
    (let x : GateXfer := ⟨9, t0, 0, 0, 64, 3, 0, 0, 64, [], none, 0⟩
     let c := fun (k : Word) => (⟨8, t0, k, 0, 0, 0, none⟩ : Call)
     let s := fun (k : Word) => { alive with e.gates := [x], e.calls := [c k] }
     meets [(s 0).gate? 9 == some x, ((s 0).team? 1).isSome, x.n ≤ x.moved, !(s 0).gateSent 9,
       (s 0).sch.paths.all (fun p => p.state == .inClause 1), ((s 0).e.calls.find? fun x => x.id = 8) == some (c 0),
       ((s 3).e.calls.find? fun x => x.id = 8) == some (c 3), 2 < (c 3).service.toNat]) = true := by decide +kernel

/-- The path of the thread stands ready for a quadrant that has room, since the cycle named. -/
def runnable (since : Nat) : State :=
  { alive with
    clk.cur := none
    clk.cycle := 2048 + since
    sch.igs := []
    sch.paths := alive.sch.paths.map fun p => { p with state := .runnable, since := since } }
theorem test_hyp_QuadrantsAndPromotion :
    (let issuing := { alive with clk.cur := none }
     let full := { up with sch.igs := (List.range 4).map fun k => { igOf alive with id := k, notBefore := 1 } }
     let w := fun (s : State) => (s.markHeld 0 0).openSets 0 0 4
     let opening : State := { runnable 0 with sch.paths := (runnable 0).sch.paths.map fun (p : Path) =>
       { p with state := .waitGroup, gateId := some 1, mid := some ⟨0, 6, 8, false, false⟩ } }
     let trial := fun (s : State) =>
       let u := ((s.mergePaths 0 0).activePaths 0 0).foldl (fun u p => u.evalPath p.id) (s.mergePaths 0 0)
       u.chooseTrial ((u.activePaths 0 0).filter u.isReady)
     let s := runnable 0
     meets [(issuing.markHeld 0 0).openGroup 0 0 == some (igOf alive),
       (opening.markHeld 0 0).openGroup 0 0 == none, ((w opening).openGroup 0 0).isSome,
       (full.markHeld 0 0).openGroup 0 0 == none, (w full).openGroup 0 0 == none, !(w full).contextFree 0 0,
       (s.markHeld 0 0).openGroup 0 0 == none, (w s).openGroup 0 0 == none, (w s).contextFree 0 0, (trial (w s)).isSome,
       (w up).openGroup 0 0 == none, (w up).contextFree 0 0, (trial (w up)).isNone]) = true := by decide +kernel
/-- R25: a path reaches the age of its team, or is one cycle short of it. -/
theorem test_hyp_QuadrantsAndPromotion_age :
    (let s := fun (n : Nat) => { (runnable 100).setTeam 1 fun t => { t with progress := true } with clk.cycle := 100 + n }
     let p := pathOf (s 2048)
     meets [(s 2048).path? p.id == some p, decide ((s 2048).sch.paths.map (·.id)).Nodup, (s 2048).agesOut p, !(s 2047).agesOut p]) = true := by
  decide +kernel
/-- A promotion of its team is due at the same age. -/
def aging (n : Nat) : State :=
  let s := (runnable 100).setTeam 1 fun t => { t with progress := true, promoteAt := some 2148 }
  { s with clk.cycle := 100 + n }
theorem test_hyp_QuadrantsAndPromotion_teamctl :
    (let s := aging
     let off := (s 2048).setTeam 1 fun t => { t with progress := false }
     let young : State := { aging 2048 with sch.paths := (aging 2048).sch.paths.map fun (p : Path) => { p with since := 101 } }
     meets [((runnable 0).team? 1).any fun t => t.promoteAt.isNone, (s 2047).clk.cycle < 2148, (s 2048).clk.cycle == 2148,
       (off.team? 1).any fun t => !t.progress, young.sch.paths.all fun p => young.age p < 256 * 2 ^ 3,
       (s 2048).sch.paths.all fun p => 256 * 2 ^ 3 ≤ (s 2048).age p]) = true := by decide +kernel

/-- Stage 0 of partition 0 has a launch record in its queue, and core 5 room for a team. -/
def launching : State :=
  let k : QKey := ⟨0, 0, true, 0⟩
  let lr : LRec := { bytes := natLE 4 1 ++ natLE 60 0, lbl := 0, part := 0, ctx := 0, stage := 0, run := 1 }
  let s := up.setPart 0 fun p => { p with
    corelim := [(5, BitVec.ofNat 64 (32 + 2 ^ 6 * 128 + 2 ^ 14 * 32 + 2 ^ 20 * 32 + 2 ^ 26 * 64))]
    ctxs := [(0, { root := none, code := [], stages := [(0, plainStage)], ttabs := [] })] }
  { s with
    gr.queues := [(k, { ring1 [⟨4, ⟨lr.bytes, 0, false⟩, 0, some lr, 1⟩] with rsz := 64 })]
    gr.near := [(k, { len := 1 })]
    gr.far := [(k, { len := 1 })]
    clk.tclk := 100 }
theorem test_hyp_LaunchLaw :
    (let s := launching
     let k : QKey := ⟨0, 0, true, 0⟩
     let q := (s.queue? k).getD (ring1 [])
     meets [({ s with sch.dropped := [(0, 5, s.clk.cycle)] } : State).droppedNow 0 5, !s.droppedNow 0 5, (s.launchLaw 0 5).any fun c =>
         c.st.inkind == 0 && (s.oldestSaved 0 c.ctx c.stage c.fit.core).isNone && s.inputOf 0 c.ctx c.stage c.st == k,
       up.launchLaw 0 5 == none, !up.droppedNow 0 5, ((s.part 0).corelim.map (·.1)).find? (fun core => (s.launchLaw 0 core).isSome) == some 5,
       (s.stagesOf 0).any fun x => s.inputOf 0 x.1 x.2.1 x.2.2 == k && s.batchOver k x.2.2, !q.waits, ((q.head?).bind (·.launch)).isSome, q.head?.map (·.left) == some 1,
       q.waiting.isEmpty]) = true := by decide +kernel

/-- The team of one thread that has ended. -/
def spent : State := { (alive.setThr t0 fun h => { h with live := false }) with sch.paths := [], sch.igs := [], clk.cur := none, clk.tclk := 1 }
theorem test_hyp_TeamsEnd :
    (let pin : L1Line := ⟨0, 0, .mem 0, [], 0, some ⟨1, 1, 0, 0⟩, 0⟩
     let pinned := { spent with m.l1 := [pin] }
     let busy := { spent with clk.tclk := 0 }
     let done : State := { spent with sch.runs := spent.sch.runs.map fun (kv : Nat × Run) => (kv.1, { kv.2 with ended := 1 }) }
     meets [!alive.ended 1, pinned.ended 1, pinned.hasPins 1, busy.ended 1, !busy.hasPins 1, !busy.performed 1,
       (mget? spent.sch.runs 1).any fun r => !spent.runDone 1 r, (mget? done.sch.runs 1).any fun r => done.runDone 1 r]) = true := by decide +kernel
/-- The team that has ended gives its arrival credit at a counter of the page, which another team holds, or it has none to give. -/
theorem test_hyp_TeamsEnd_credit :
    (let ready := fun (s : State) (f : Team → Bool) => s.ended 1 && !s.hasPins 1 && s.performed 1 && (s.team? 1).any f
     let aims := (mapped spent).setTeam 1 fun t => { t with arc := 0x200000 }
     let pin : L1Line := ⟨0, 0, .mem (7 * 65536), List.replicate 128 0, 0, some ⟨2, 0, 0, 0⟩, 0⟩
     let held := { aims with m.l1 := [pin] }
     let paid := spent.setTeam 1 fun t => { t with credited := true }
     let aimed := { paid with e.copies := [{ copy1 0 with t := ⟨2, 0, 0⟩ }] }
     meets [ready spent fun t => !t.credited && t.arc == 0,
       ready held fun t => !t.credited && held.creditHeld t && !held.creditOver t,
       ready aims fun t => !t.credited && t.arc != 0 && !aims.creditHeld t &&
         (match aims.translate t.core t.part t.ctx t.arc.toNat true with | .ok (.mem a) _ => aims.owned t.part (.mem a) | _ => false),
       ready aimed (fun t => t.credited) && aimed.aimed 1, ready paid (fun t => t.credited) && !paid.aimed 1]) = true := by decide +kernel
/-- R380: a team that stops, with and without a discard, and the deadline of a drain. -/
theorem test_hyp_TeamsEnd_save :
    (let stop := fun (b : Bool) => ((runnable 0).setTeam 1 fun t => { t with status := .stopping b }).setThr t0 fun h => { h with idemOpen := true }
     let s := { stop true with clk.tclk := 10000000 }
     let u := { stop false with clk.tclk := 10000000 }
     let shut := s.setTeam 1 fun t => { t with clean := false }
     let shadow := { u with m.l1 := [⟨0, 0, .mem 0, List.replicate 128 0, 0, some ⟨1, 1, 1, 0⟩, 0⟩], m.readonly := [(0, 128)] }
     let drain := alive.setTeam 1 fun t => { t with drainBy := some 5 }
     meets [!alive.saveDue 1, s.saveDue 1, s.discardable 1, shut.saveDue 1, !shut.discardable 1, u.saveDue 1, ((u.unpinTeam 1).team? 1).isSome,
       ((u.unpinTeam 1).writeImage 1 1 false).isNone, shadow.saveDue 1, ((shadow.unpinTeam 1).team? 1).isNone,
       (alive.team? 1).any fun t => t.drainBy.isNone, (drain.team? 1).any fun t => t.status == .resident && t.drainBy == some (5 : DWord),
       drain.clk.tclk.toNat < 5, ({ drain with clk.tclk := 5 } : State).clk.tclk.toNat == 5]) = true := by decide +kernel
/-- R379: a save area with room for the image. -/
theorem test_hyp_TeamsEnd_image :
    (let s := ({ (runnable 0).setTeam 1 fun t => { t with status := .stopping false } with clk.tclk := 10000000 } : State).setPart 0 fun p => { p with
       saveBase := 0, saveSize := 2 ^ 24 }
     meets [s.saveDue 1, ((s.unpinTeam 1).team? 1).isSome, ((s.unpinTeam 1).writeImage 1 1 false).isSome,
       s.sch.paths.all fun p => p.state != .parked .osb]) = true := by decide +kernel

/-- A distributed copy that partition 0 forwards by port 0. -/
theorem test_hyp_EphemerisAndForwarding :
    (let k : QKey := ⟨0, 0, false, 3⟩
     let q := { ring1 [plainRec] with kind := 2, hqueue := 3 }
     let s0 := linked.setPart 0 fun p => { p with ports := 1, phase := 0, meshes := [(0, ⟨[2], [0x3FF, 5]⟩)] }
     let s := { s0 with gr.queues := [(k, q)], gr.remote := [((0, 3, 5), {})], gr.far := [(k, { len := 1 })] }
     let busy := { s with gr.sent := [(0, 1)] }
     meets [(s.queue? k).any (·.waiting.isEmpty), !up.forwardDue 0 0, s.forwardDue 0 0, s.portIdle 0, busy.forwardDue 0 0, !busy.portIdle 0,
       s0.forwardDue 0 0, s0.portIdle 0, s0.forwardCands 0 5 == [],
       (s.forwardCands 0 5).map (·.1) == [k]]) = true := by decide +kernel

/-- A request of station 5 to the page of the pool. -/
def fabReq (kind : Nat) (off : Nat) : FabReq :=
  { tag := 1, sstation := 5, spart := 0, kind := kind, scope := 3, nolease := true, label := 0, rsvd := false, off := off, len := 4,
    data := [1, 2, 3, 4], aop := 0, wide := false, uns := false, cmp := 0, ops := [1] }
/-- A pool of one frame that station 5 reaches. -/
def pooled : State :=
  (linked.setPart 0 fun p => { p with poolSize := 65536, poolFrames := [7], meshes := [(0, ⟨[2], [0x3FF, 5]⟩)] }).setFrame 7 ⟨1, 0, 0⟩
/-- A request to its last word reaches the last word of frame 7. -/
def reaches (s : State) (k : Nat) : Bool :=
  match s.fabDest (fabReq k 65532) with
  | some ⟨part, .ok (.phys a), _, rd, wr, arc, _⟩ =>
    a == 8 * 65536 - 4 && (s.locOf part (.phys a)).1 == .mem (8 * 65536 - 4) && rd && wr && arc == 0
  | _ => false
theorem test_hyp_FabricRequests :
    (let pa := 8 * 65536 - 4
     let at_ := reaches
     let ok := fun (k : Nat) => at_ pooled k && fabLabelOk (fabReq k 65532) 0 (pooled.locLbl 0 (.mem pa))
     let free := pooled.setFrame 7 {}
     let ro := { pooled with m.readonly := [(7 * 65536, 65536)] }
     let foreign := { fabReq 1 65532 with label := 1 }
     meets [ok 0, ok 1, ok 2, ok 3, pooled.owned 0 (.mem pa), !pooled.roShard (.mem pa), pooled.m.l1 == [], !pooled.eccBad (.mem pa) 4,
       (pooled.fabDest (fabReq 0 65536)).isNone, at_ free 1, !free.owned 0 (.mem pa), (pooled.fabDest foreign).isSome,
       !fabLabelOk foreign 0 (pooled.locLbl 0 (.mem pa)), at_ ro 1, ro.roShard (.mem pa), Memory.wf pooled.m.mem]) = true := by decide +kernel
/-- A window that may not be written or not be read. -/
theorem test_hyp_FabricRequests_window :
    (let s := fun (rd wr : Bool) => ((up.setPart 0 fun p => { p with s2root := some 0x10000, wins := [(63, ⟨0, 65536, 0, true, rd, wr, 0, 0, 5, 0⟩)] }).setFrame 0
       ⟨1, 0, 0⟩)
     let u := { s true true with m.mem := csets (csets (csets [] 0x10000 (natLE 8 0x18001)) 0x18000 (natLE 8 0x20001)) 0x20000 (natLE 8 7) }
     meets [(match u.fabDest (fabReq 1 0) with
       | some ⟨part, .ok (.phys a), _, rd, wr, arc, pool⟩ =>
         rd && wr && arc == 0 && !pool && (u.locOf part (.phys a)).1 == .mem a && u.owned part (.mem a) &&
           fabLabelOk (fabReq 1 0) part (u.locLbl part (.mem a)) && !u.eccPartial (.mem a) 4
       | _ => false),
       ((s true false).fabDest (fabReq 0 0)).any fun d => d.rd && !d.wr, ((s false true).fabDest (fabReq 1 0)).any fun d => !d.rd && d.wr]) = true := by
  decide +kernel
/-- The last word of the last peer launch slot. -/
theorem test_hyp_FabricRequests_slot :
    (let off := Config.pslotBase + 63 * 0x80 + 0x7C
     let e : DWord := BitVec.ofNat 64 (2 ^ 63 + 2 ^ 62 + 5 * 2 ^ 32)
     let s := linked.setPart 0 fun p => { p with acl := [(63, e)] }
     meets [off < 2 ^ 50, (off - Config.pslotBase) / 0x2000 == 0, (s.aclEntry 0 0 5).any aclLaunch, (linked.aclEntry 0 0 5).isNone,
       Label.sub 0 (aclMax e.toNat), !Label.sub 1 (aclMax e.toNat), off % 0x80 + 4 == 0x80]) = true := by decide +kernel
/-- The request that each response answers. -/
theorem test_hyp_FabricRequests_response :
    (let s := fun (who : FabWho) => { alive with y.reqs := [{ outReq with who := who, kind := 1 }], e.copies := [copy1 0] }
     let has := fun (who : FabWho) => (s who).y.reqs.find? (fun o => o.tag = 1) == some { outReq with who := who, kind := 1 }
     meets [up.y.reqs == [], has .slot, has (.copy 9 0), ((s (.copy 9 0)).copy? 9).isSome, has (.plate 9 0), has (.pinned 1)]) = true := by
  decide +kernel

theorem test_hyp_FabricMessages :
    (let k : QKey := ⟨0, 0, false, 3⟩
     let e : DWord := BitVec.ofNat 64 (2 ^ 63 + 2 ^ 61 + 5 * 2 ^ 32)
     let q : Queue := { ring1 [] with slice := 0 }
     let s := { linked.setPart 0 fun p => { p with acl := [(0, e)] } with gr.queues := [(k, q)] }
     let o : OutRenq := ⟨9, k, 0, 0, 5, 3, [], [], [], false, 0⟩
     let u := { linked with gr.renqs := [o] }
     let r : QRec := ⟨q.next, ⟨List.replicate 16 0, 0, true⟩, s.clk.tclk, none, 1⟩
     meets [!up.msgOk hdr, !linked.msgOk { hdr with rsvd := true }, linked.msgOk hdr, (linked.renqCause hdr 3 false 16 [0]) == some 5,
       s.renqCause hdr 3 false 16 [0] == none, s.queueOf 0 3 == some k, q.waiting.isEmpty, q.fits 0 1, q.cellarLen == 0,
       (q.put 0 r).cellarLen == 0, (u.renq? 5 9) == some o, (linked.renq? 5 9).isNone]) = true := by decide +kernel

/-- The placement is converted; the home of its mesh is this station or station 5. -/
def converting (home : Nat) (c : List Conv) : State :=
  { pooled.setPart 0 fun p => { p with
      plSize := 4096, meshes := [(0, if home = 5 then ⟨[2], [5, 0x3FF]⟩ else ⟨[1], [0x3FF]⟩)]
      places := [(4095, ⟨1, 2, 0, 1, false, 0, [64], 0, [7], 0, 0, 0⟩)] } with gr.convs := c }
/-- A conversion of it, to the same state. -/
def conv1 (home : Bool) : Conv := ⟨0, 4095, 9, 0, home, [], [], 0, 0, [], 0, 0, [], false⟩
theorem test_hyp_PlacementMessages :
    (let s := converting 0x3FF []
     let away := converting 5 []
     let u := converting 0x3FF [conv1 true]
     let p := (s.place? 0 4095).getD ⟨0, 0, 0, 0, false, 0, [], 0, [], 0, 0, 0⟩
     meets [s.msgOk hdr, (s.place? 0 4094).isNone, (s.place? 0 4095).isSome, s.isHome 0 p, !away.isHome 0 p, hdr.sstation != s.y.station,
       (s.conv? 0 4095).isNone, s.waitingReqs 0 4095 == [], demandMatches p.state 0, (u.conv? 0 4095).any fun c => c.demand != 1,
       u.isHome 0 p, !u.convIs 0 4095 8, (u.conv? 0 4095).any fun c => c.conv != 8, u.convIs 0 4095 9]) = true := by decide +kernel
theorem test_hyp_PlacementMessages_away :
    (let s := converting 5 [conv1 false]
     let roomy := s.setFrame 7 {}
     let p := (s.place? 0 4095).getD ⟨0, 0, 0, 0, false, 0, [], 0, [], 0, 0, 0⟩
     let size := s.shardSize 0 p (convFinal p.state 0)
     meets [s.msgOk hdr, s.conv? 0 4095 == some (conv1 false), !s.poolRoom 0 0 size, roomy.poolRoom 0 0 size, (roomy.shardBad 0 p).isNone,
       s.waitingReqs 0 4095 == [], (s.meshOf 0 p).stations.any fun x => x != hdr.sstation, up.gr.convs == [], linked.y.reqs == []]) = true := by
  decide +kernel

/-! ## States that meet the hypotheses: the step -/

theorem test_hyp_StepRunsDecoded :
    (let s := onWord (.iadd ⟨0, 3, 1, 2, 0⟩)
     let bad := State.reset.withClause 0 [0xE0E0FF3F]
     let due := { up with clk.inputs := [(0, .powerLoss)] }
     let turn := { up with clk.todo := [(1599, 3)], clk.tclk := 1 }
     meets [s.clk.cur == some (igOf s).id, s.ig? (igOf s).id == some (igOf s),
       (match decode (igOf s).cls (s.groupWords (igOf s)) with | .ok (.iadd _, 1) => true | _ => false),
       (match decode (igOf bad).cls (bad.groupWords (igOf bad)) with | .error .illegalOpcode => true | _ => false),
       bad.members (igOf bad).id == [l0], ({ up with clk.cur := some 7 } : State).ig? 7 == none, due.bootDo.isNone, due.wakeDo.isNone,
       (lateKey .powerLoss).isNone, turn.clk.cur.isNone, turn.bootDo.isNone, turn.wakeDo.isNone, turn.inputDo.isNone, turn.mailDo.isNone, turn.eventDo.isNone]) = true := by
  decide +kernel
/-- The quadrants have had their turns: a port dequeues, or a request from the fabric has come. -/
def turned (xs : List (DWord × Instr)) : State :=
  { up with clk.tclk := 1, clk.inputs := xs }
theorem test_hyp_StepRunsDecoded_late :
    (let idle := fun (s : State) => s.clk.cur.isNone && s.clk.todo == [] && s.bootDo.isNone && s.wakeDo.isNone && s.inputDo.isNone &&
       s.mailDo.isNone && s.eventDo.isNone
     let s := turned [(0, .renq hdr 9 3 false 16 [(0, [])])]
     let u := turned [(0, .preq hdr 4095 0 0 0), (5, .preq hdr 4095 0 0 0)]
     let w := { (turned []).setPart 0 fun p => { p with ports := 1, phase := 1 } with y.ports := linked.y.ports }
     meets [idle s, s.nextForward.isNone, idle u, u.nextForward.isNone, u.clk.tclk.toNat < 5, idle w, w.nextForward == some (0, 0)]) = true := by
  decide +kernel
theorem test_hyp_CyclesPass :
    (let s := { up with sch.pend := [⟨up.clk.cycle + 1, [⟨t0, .v 3, 7⟩], [], [], [], []⟩] }
     meets [s.clk.cur.isNone, s.clk.todo == [], s.bootDo.isNone, s.wakeDo.isNone, s.inputDo.isNone, s.mailDo.isNone, s.eventDo.isNone,
       s.lateDo.isNone, s.clk.tfrac < 13]) = true := by decide +kernel
theorem test_hyp_EncodeDecode :
    (let i := Instr.ld ⟨7, 0xDF, 0x7E, 0xE0, 0xFF, 0x0BF, 5, true, 7, 0xFFFFFFFF⟩
     let j := Instr.iaddLong ⟨7, 0x7F, 0x7F, 0xFF, 0xE0, 0, 5, true, 7, 0xFFFFFFFF⟩
     meets [j.wellFormed, j.view.isSome, (encode j).length == 3, (Instr.bra ⟨-2048, true, 6, 7⟩).wellFormed, !i.wellFormed,
       (match decode 0 (encode j) with | .ok (k, n) => k == j && n == 3 | .error _ => false)]) = true := by decide +kernel
/-- The team faults with a queue that has room, one that is full, and none. -/
theorem test_hyp_EncodingFaults :
    (let s := alive.setFn 0 fun f => { f with fqbase := 0x1000, fqlog := 6 }
     let full := alive.setFn 0 fun f => { f with fqbase := 0x1000, fqlog := 6, tail := 64, lost := 0xFFFFFFFF }
     meets [(s.team? 1).isSome, s.fnOf 0 == 0, !(s.fn 0).full, (full.fn 0).full, (alive.fn 0).fqbase == 0, !s.hasPins 1,
       (mget? s.sch.runs 1).isSome]) = true := by decide +kernel
/-- A record of 64 bytes, and a launch record. -/
theorem test_hyp_ThreadsStart :
    (let r : Rec := ⟨List.replicate 64 255, 0, false⟩
     let x : Seed := { part := 0, ctx := 0, stage := 0, run := 1, team := 0, recs := List.replicate 32 r, lr := none }
     meets [x.recs[0 * plainStage.width + 31]? == some r, r.bytes.length ≤ 64, 16 ≤ 8 * plainStage.rows, up.vGet ⟨1, 0, 31⟩ 15 == 0,
       up.r.v == []]) = true := by decide +kernel
theorem test_hyp_StepKeepsMemory : State.reset.memOk = true ∧ (match step State.reset with | .next _ => true | _ => false) = true := by
  decide +kernel

end Sys2Proof.Tests
end

/-! # Canonical memory (O60)

`State.memOk` speaks of device and host memory only (R4, R74, R366). Each operation of the model has one lemma, `<operation>_memOk`, in
the order in which the model defines them, and the lemma of an operation cites those of the operations it calls. Memory itself changes in
few places: bytes are written to a location (`putLoc_memOk`), to a fault ring (`postRecord_memOk`), to host memory and by a conversion,
a scrub takes the cells of a frame away, and a reset empties a memory. -/
namespace Sys2Proof.Machine

open Sys2Proof

section
set_option Elab.async false
variable {s : State} {α β : Type}

/-! ## What it means to keep the memories canonical -/

theorem memOk_iff : s.memOk = true ↔ Memory.wf s.m.mem = true ∧ Memory.wf s.m.host = true := by
  simp [State.memOk]

/-- A record update of another part of the state keeps the memories as they are. -/
theorem memOk_with {c r sch e g h y} (hs : s.memOk) : (State.mk c r sch s.m e g h y).memOk := hs

/-- A record update of the memory part that sets no cell keeps the memories as they are. -/
theorem memOk_withMem {c r sch e g h y a₁ a₂ a₃ a₄ a₅ a₆ a₇ a₈ a₉ b₁ b₂ b₃} (hs : s.memOk) :
    (State.mk c r sch ⟨s.m.mem, s.m.host, a₁, a₂, a₃, a₄, a₅, a₆, a₇, a₈, a₉, b₁, b₂, b₃⟩ e g h y).memOk :=
  hs

/-- If an outcome goes on, its memories are canonical. -/
def NextOk (o : Host.Outcome State Fault Refusal) : Prop := ∀ t, o = .next t → t.memOk = true

/-- If an operation answers a state, its memories are canonical. -/
def SomeOk (o : Option State) : Prop := ∀ t, o = some t → t.memOk = true

/-- Every part of a word's meaning that changes the state keeps the memories canonical. -/
structure Meaning.KeepsMem (w : Meaning) : Prop where
  hold : ∀ {s i}, s.memOk → (w.hold s i).1.memOk := by exact fun hs => hs
  stop : ∀ {s i}, s.memOk → (w.stop s i).1.memOk := by exact fun hs => hs
  eff : ∀ {s i}, s.memOk → (w.eff s i).memOk

/-- The wait and the word of a convergence point keep the memories canonical. -/
structure Point.KeepsMem (p : Point) : Prop where
  wait : ∀ {s i}, s.memOk → (p.wait s i).memOk
  word : p.word.KeepsMem

theorem nextOk (hs : s.memOk) : NextOk (.next s) := by
  rintro t ⟨⟩
  exact hs

theorem someOk (hs : s.memOk) : SomeOk (some s) := by
  rintro t ⟨⟩
  exact hs

theorem someOk_none : SomeOk none := fun t e => (Option.some_ne_none t e.symm).elim

theorem nextOk_fault {f} : NextOk (.fault f) := by
  rintro t ⟨⟩

theorem SomeOk.map {o : Option State} {f : State → State} (ho : SomeOk o) (hf : ∀ t, t.memOk → (f t).memOk) :
    SomeOk (o.map f) := by
  intro t e
  obtain ⟨u, hu, rfl⟩ := Option.map_eq_some_iff.1 e
  exact hf u (ho u hu)

/-! ## Branches, pairs and folds -/

theorem ite_memOk {c : Prop} [Decidable c] {t : State} (hs : s.memOk) (ht : t.memOk) : (if c then s else t).memOk := by
  split
  · exact hs
  · exact ht

theorem ite_fst_memOk {c : Prop} [Decidable c] {p q : State × α} (hp : p.1.memOk) (hq : q.1.memOk) :
    (if c then p else q).1.memOk := by
  split
  · exact hp
  · exact hq

theorem ite_snd_memOk {c : Prop} [Decidable c] {p q : α × State} (hp : p.2.memOk) (hq : q.2.memOk) :
    (if c then p else q).2.memOk := by
  split
  · exact hp
  · exact hq

theorem SomeOk.ite {c : Prop} [Decidable c] {o u : Option State} (ho : SomeOk o) (hu : SomeOk u) :
    SomeOk (if c then o else u) := by
  split
  · exact ho
  · exact hu

theorem memOk_of_fst {p : State × α} {x : α} (e : p = (s, x)) (h : p.1.memOk) : s.memOk := by
  subst e; exact h

theorem memOk_of_snd {p : α × State} {x : α} (e : p = (x, s)) (h : p.2.memOk) : s.memOk := by
  subst e; exact h

theorem foldl_memOk {f : State → α → State} {xs : List α} (hs : s.memOk) (hf : ∀ t x, t.memOk → (f t x).memOk) :
    (xs.foldl f s).memOk :=
  foldl_keeps (fun t : State => t.memOk) f hf xs s hs

theorem foldl_fst_memOk {f : State × β → α → State × β} {xs : List α} {p : State × β} (hp : p.1.memOk)
    (hf : ∀ q x, q.1.memOk → (f q x).1.memOk) : (xs.foldl f p).1.memOk :=
  foldl_keeps (fun q : State × β => q.1.memOk) f hf xs p hp

theorem foldl_snd_memOk {f : β × State → α → β × State} {xs : List α} {p : β × State} (hp : p.2.memOk)
    (hf : ∀ q x, q.2.memOk → (f q x).2.memOk) : (xs.foldl f p).2.memOk :=
  foldl_keeps (fun q : β × State => q.2.memOk) f hf xs p hp

/-! ## The operations of Sys2Proof/Machine/Ops.lean -/

theorem freeWord_memOk (hs : s.memOk) : s.freeWord.2.memOk := memOk_with hs
theorem freeWords_memOk {n} (hs : s.memOk) : (s.freeWords n).2.memOk := memOk_with hs
theorem freshId_memOk (hs : s.memOk) : s.freshId.2.memOk := memOk_with hs
theorem setThr_memOk {t f} (hs : s.memOk) : (s.setThr t f).memOk := memOk_with hs

theorem setTeam_memOk {tid f} (hs : s.memOk) : (s.setTeam tid f).memOk := by
  dsimp only [State.setTeam]
  split
  · exact memOk_with hs
  · exact hs

theorem setGroup_memOk {g f} (hs : s.memOk) : (s.setGroup g f).memOk := by
  dsimp only [State.setGroup]
  split
  · exact memOk_with hs
  · exact hs

theorem setPart_memOk {p f} (hs : s.memOk) : (s.setPart p f).memOk := memOk_with hs
theorem setFn_memOk {n f} (hs : s.memOk) : (s.setFn n f).memOk := memOk_with hs
theorem vSet_memOk {t n x} (hs : s.memOk) : (s.vSet t n x).memOk := memOk_with hs
theorem sSet_memOk {g n x} (hs : s.memOk) : (s.sSet g n x).memOk := memOk_with hs
theorem mSet_memOk {t n x} (hs : s.memOk) : (s.mSet t n x).memOk := ite_memOk hs (memOk_with hs)
theorem setTileLbl_memOk {g t l} (hs : s.memOk) : (s.setTileLbl g t l).memOk := memOk_with hs
theorem joinTileLbl_memOk {g t l} (hs : s.memOk) : (s.joinTileLbl g t l).memOk := setTileLbl_memOk hs

theorem tileSet_memOk {t k x} (hs : s.memOk) : (s.tileSet t k x).memOk := by
  dsimp only [State.tileSet]
  split
  · exact vSet_memOk hs
  · exact sSet_memOk hs
  · exact mSet_memOk hs
  · exact setThr_memOk hs
  · exact setThr_memOk hs
  · exact setThr_memOk hs
  · exact setThr_memOk hs
  · exact hs
  · exact hs

theorem setSbyte_memOk {tid off b} (hs : s.memOk) : (s.setSbyte tid off b).memOk := memOk_with hs

theorem swrites_memOk {tid off bs} (hs : s.memOk) : (s.swrites tid off bs).memOk :=
  foldl_memOk hs fun _ _ ht => setSbyte_memOk ht

theorem setSline_memOk {tid line f} (hs : s.memOk) : (s.setSline tid line f).memOk := memOk_with hs
theorem sjoin_memOk {tid off n l} (hs : s.memOk) : (s.sjoin tid off n l).memOk := foldl_memOk hs fun _ _ ht => setSline_memOk ht
theorem raiseMsix_memOk {fn vec} (hs : s.memOk) : (s.raiseMsix fn vec).memOk := setFn_memOk hs

theorem logEvent_memOk {unit event part nopart count addr} (hs : s.memOk) :
    (s.logEvent unit event part nopart count addr).memOk :=
  ite_memOk (raiseMsix_memOk (memOk_with hs)) (memOk_with hs)

/-- The fault ring of a function lies in host memory; bytes written there keep it canonical. -/
theorem hostBytes_memOk {a bs} (hs : s.memOk) : ({ s with m.host := csets s.m.host a bs } : State).memOk :=
  have h := memOk_iff.1 hs
  memOk_iff.2 ⟨h.1, csets_wf _ _ _ h.2⟩

theorem postRecord_memOk {fn bs} (hs : s.memOk) : (s.postRecord fn bs).memOk := by
  dsimp only [State.postRecord]
  split
  · exact hs
  · split
    · exact hs
    · split <;> exact hostBytes_memOk hs

theorem report_memOk {fn r} (hs : s.memOk) : (s.report fn r).memOk := postRecord_memOk hs

theorem putLoc_memOk {l bs} (hs : s.memOk) : (s.putLoc l bs).memOk :=
  have h := memOk_iff.1 hs
  memOk_iff.2 (putLoc_wf s l bs h.1 h.2)

theorem sendReq_memOk {r} (hs : s.memOk) : (s.sendReq r).memOk := memOk_with hs
theorem joinWct_memOk {t w} (hs : s.memOk) : (s.joinWct t w).memOk := setThr_memOk hs

theorem writeBack_memOk {x} (hs : s.memOk) : (s.writeBack x).memOk := by
  dsimp only [State.writeBack]
  split
  · exact hs
  · refine ite_memOk hs ?_
    refine foldl_memOk hs ?_
    intro _ _ ht
    split
    · exact sendReq_memOk ht
    · exact putLoc_memOk ht

theorem flushPin_memOk {x ts} (hs : s.memOk) : (s.flushPin x ts).memOk := by
  dsimp only [State.flushPin]
  split
  · exact writeBack_memOk hs
  · exact foldl_memOk (writeBack_memOk hs) fun _ _ ht => joinWct_memOk ht

theorem unpinAll_memOk {tid} (hs : s.memOk) : (s.unpinAll tid).memOk :=
  memOk_withMem (foldl_memOk hs fun _ _ ht => flushPin_memOk ht)

theorem dropRegs_memOk {tid} (hs : s.memOk) : (s.dropRegs tid).memOk := memOk_with hs
theorem osbSweep_memOk (hs : s.memOk) : s.osbSweep.memOk := memOk_with hs
theorem freeTeam_memOk {tid} (hs : s.memOk) : (s.freeTeam tid).memOk := osbSweep_memOk (memOk_with (dropRegs_memOk hs))

theorem runEnd_memOk {run terminated} (hs : s.memOk) : (s.runEnd run terminated).memOk := by
  dsimp only [State.runEnd]
  split
  · exact memOk_with hs
  · exact hs

theorem freeImage_memOk {p tid} (hs : s.memOk) : (s.freeImage p tid).memOk := setPart_memOk hs

theorem terminate_memOk {tid} (hs : s.memOk) : (s.terminate tid).memOk := by
  dsimp only [State.terminate]
  split
  · exact hs
  · exact freeImage_memOk (runEnd_memOk (freeTeam_memOk (memOk_with (unpinAll_memOk hs))))

theorem takeFault_memOk {tid code detail core quad lane pc word addr addr2} (hs : s.memOk) :
    (s.takeFault tid code detail core quad lane pc word addr addr2).memOk := by
  dsimp only [State.takeFault]
  split
  · exact hs
  · exact terminate_memOk (report_memOk hs)

theorem teamFault_memOk {tid code detail pc addr addr2} (hs : s.memOk) : (s.teamFault tid code detail pc addr addr2).memOk := by
  dsimp only [State.teamFault]
  split
  · exact hs
  · exact takeFault_memOk hs

theorem unpinTeam_memOk {tid} (hs : s.memOk) : (s.unpinTeam tid).memOk :=
  ite_memOk (teamFault_memOk (unpinAll_memOk hs)) (unpinAll_memOk hs)

theorem asyncReport_memOk {part ctx code detail addr} (hs : s.memOk) : (s.asyncReport part ctx code detail addr).memOk :=
  report_memOk hs

theorem pfReport_memOk {part ctx code detail addr addr2} (hs : s.memOk) : (s.pfReport part ctx code detail addr addr2).memOk :=
  report_memOk hs

theorem setPath_memOk {pid f} (hs : s.memOk) : (s.setPath pid f).memOk := memOk_with hs

theorem splitPath_memOk {pid sub} (hs : s.memOk) : (s.splitPath pid sub).2.memOk := by
  dsimp only [State.splitPath]
  split
  · exact hs
  · exact ite_snd_memOk hs (memOk_with (setPath_memOk (freshId_memOk hs)))

theorem wakePath_memOk {pid} (hs : s.memOk) : (s.wakePath pid).memOk := setPath_memOk hs
theorem setIg_memOk {id f} (hs : s.memOk) : (s.setIg id f).memOk := memOk_with hs
theorem sweepIg_memOk {ig} (hs : s.memOk) : (s.sweepIg ig).memOk := ite_memOk hs (memOk_with hs)

theorem judge_memOk {g ls flt} (hs : s.memOk) : (s.judge g ls flt).memOk := by
  dsimp only [State.judge]
  refine foldl_memOk hs ?_
  intro _ _ ht
  split
  · exact takeFault_memOk ht
  · exact ht

theorem joinCtx_memOk {pid l} (hs : s.memOk) : (s.joinCtx pid l).memOk := setPath_memOk hs
theorem tokAdd_memOk {t k up} (hs : s.memOk) : (s.tokAdd t k up).memOk := setThr_memOk hs

theorem tokUp_memOk {tok ls} (hs : s.memOk) : (s.tokUp tok ls).memOk :=
  ite_memOk (foldl_memOk hs fun _ _ ht => tokAdd_memOk ht) hs

theorem tokDown_memOk {tok ts} (hs : s.memOk) : (s.tokDown tok ts).memOk :=
  ite_memOk (foldl_memOk hs fun _ _ ht => tokAdd_memOk ht) hs

theorem result_memOk {lat tiles rs tok flags} (hs : s.memOk) : (s.result lat tiles rs tok flags).memOk := memOk_with hs
theorem applyLbl_memOk {w} (hs : s.memOk) : (s.applyLbl w).memOk := setTileLbl_memOk hs
theorem writeReg_memOk {w} (hs : s.memOk) : (s.writeReg w).memOk := ite_memOk (tileSet_memOk hs) hs

theorem applyPend_memOk {p} (hs : s.memOk) : (s.applyPend p).memOk :=
  foldl_memOk (foldl_memOk (foldl_memOk (foldl_memOk (foldl_memOk hs
    fun _ _ ht => writeReg_memOk ht) fun _ _ ht => applyLbl_memOk ht) fun _ _ ht => setThr_memOk ht)
    fun _ _ ht => setThr_memOk ht) fun _ _ ht => tokAdd_memOk ht

theorem applyDue_memOk (hs : s.memOk) : s.applyDue.memOk := foldl_memOk (memOk_with hs) fun _ _ ht => applyPend_memOk ht

/-! ## The operations of Sys2Proof/Machine/Issue.lean -/

theorem judgeWord_memOk {g enc cls op f} (hs : s.memOk) : (s.judgeWord g enc cls op f).memOk := by
  unfold State.judgeWord
  exact judge_memOk (judge_memOk (judge_memOk hs))

theorem joinPred_memOk {g f} (hs : s.memOk) : (s.joinPred g f).memOk := memOk_with hs
theorem markIssued_memOk {g stall} (hs : s.memOk) : (s.markIssued g stall).memOk := memOk_with hs
theorem close_memOk {ls} (hs : s.memOk) : (s.close ls).memOk := foldl_memOk hs fun _ _ ht => setTeam_memOk ht

theorem park_memOk {g pc ls why} (hs : s.memOk) : (s.park g pc ls why).memOk :=
  foldl_memOk hs fun _ _ ht => setPath_memOk (splitPath_memOk ht)

theorem parkAll_memOk {g ls} (hs : s.memOk) : (s.parkAll g ls).memOk := foldl_memOk hs fun _ _ ht => park_memOk ht

theorem account_memOk {i all} (hs : s.memOk) : (s.account i all).memOk :=
  tokDown_memOk (tokUp_memOk (foldl_memOk (foldl_memOk hs fun _ _ ht => setThr_memOk ht) fun _ _ ht => setThr_memOk ht))

theorem useUnit_memOk {i} (hs : s.memOk) : (s.useUnit i).memOk := by
  dsimp only [State.useUnit]
  split
  · exact memOk_with hs
  · exact hs

theorem markCharged_memOk {ls c} (hs : s.memOk) : (s.markCharged ls c).memOk := foldl_memOk hs fun _ _ ht => setPath_memOk ht
theorem leave_memOk {g pid pc} (hs : s.memOk) : (s.leave g pid pc).memOk := setPath_memOk hs
theorem closeIg_memOk {g} (hs : s.memOk) : (s.closeIg g).memOk := memOk_with hs
theorem holdIg_memOk {g h} (hs : s.memOk) : (s.holdIg g h).memOk := setIg_memOk (memOk_with hs)

theorem advance_memOk {g len stall} (hs : s.memOk) : (s.advance g len stall).memOk :=
  ite_memOk (closeIg_memOk (memOk_with hs)) (sweepIg_memOk (setIg_memOk (memOk_with hs)))

theorem takeIn_memOk {g cls op f m} (hs : s.memOk) : (s.takeIn g cls op f m).1.memOk :=
  judge_memOk (close_memOk (markIssued_memOk (joinPred_memOk hs)))

theorem perform_memOk {i w} (hw : w.KeepsMem) (hs : s.memOk) : (s.perform i w).memOk :=
  advance_memOk (hw.eff (useUnit_memOk (account_memOk (parkAll_memOk (hw.stop hs)))))

theorem issue_memOk {g i w} (hw : w.KeepsMem) (hs : s.memOk) : (s.issue g i w).memOk := by
  unfold State.issue
  split
  · exact hs
  · dsimp only
    split
    · rename_i e
      exact holdIg_memOk (memOk_of_fst e (hw.hold (takeIn_memOk (judgeWord_memOk hs))))
    · rename_i e
      exact perform_memOk hw (memOk_of_fst e (hw.hold (takeIn_memOk (judgeWord_memOk hs))))

theorem runWord_memOk {i w} (hw : w.KeepsMem) (hs : s.memOk) : NextOk (runWord i w s) := by
  unfold runWord
  split
  · exact nextOk (issue_memOk hw hs)
  · exact nextOk_fault

theorem putSeeds_memOk {os} (hs : s.memOk) : (s.putSeeds os).memOk :=
  foldl_memOk (foldl_memOk hs fun _ _ ht => setThr_memOk ht) fun _ _ ht => applyLbl_memOk ht

theorem putAlu_memOk {i lat os} (hs : s.memOk) : (s.putAlu i lat os).memOk := memOk_with (putSeeds_memOk hs)

theorem alu_keeps {lat out} : (Meaning.alu lat out).KeepsMem where
  eff hs := putAlu_memOk hs

/-! ## The operations of Sys2Proof/Machine/Float.lean -/

theorem cvtMeaning_keeps : cvtMeaning.KeepsMem where
  eff hs := ite_memOk (memOk_with (putAlu_memOk hs)) (putAlu_memOk hs)

/-! ## The operations of Sys2Proof/Machine/Collective.lean -/

theorem runCollective_memOk {i lat} (hs : s.memOk) : (s.runCollective i lat).memOk := putAlu_memOk hs
theorem runQblk_memOk {i lat} (hs : s.memOk) : (s.runQblk i lat).memOk := putAlu_memOk hs

/-! ## The operations of Sys2Proof/Machine/Trans.lean -/

theorem tlbFill_memOk {core part ctx va write} (hs : s.memOk) : (s.tlbFill core part ctx va write).memOk := by
  dsimp only [State.tlbFill]
  refine ite_memOk hs ?_
  split
  · exact hs
  · exact memOk_withMem hs

theorem tlbDrop_memOk {part f} (hs : s.memOk) : (s.tlbDrop part f).memOk := memOk_withMem hs

theorem resolvable_memOk {tid chain pf code detail gpa core quad lane pc word va} (hs : s.memOk) :
    (s.resolvable tid chain pf code detail gpa core quad lane pc word va).2.memOk := by
  dsimp only [State.resolvable]
  split
  · exact hs
  · refine ite_snd_memOk (takeFault_memOk (report_memOk (memOk_with hs))) ?_
    exact memOk_with (report_memOk (memOk_with hs))

/-! ## The operations of Sys2Proof/Machine/Mem.lean -/

theorem setL1_memOk {core part line f} (hs : s.memOk) : (s.setL1 core part line f).memOk := memOk_withMem hs
theorem dropL1_memOk {core part line} (hs : s.memOk) : (s.dropL1 core part line).memOk := memOk_withMem hs

theorem putL1_memOk {x} (hs : s.memOk) : (s.putL1 x).memOk := by
  dsimp only [State.putL1]
  refine ite_memOk (memOk_withMem (dropL1_memOk hs)) ?_
  split
  · exact memOk_withMem (dropL1_memOk (dropL1_memOk hs))
  · exact dropL1_memOk hs

theorem trimL1_memOk {part core} (hs : s.memOk) : (s.trimL1 part core).memOk := foldl_memOk hs fun _ _ ht => dropL1_memOk ht

theorem rowError_memOk {loc part} (hs : s.memOk) : (s.rowError loc part).memOk := by
  dsimp only [State.rowError]
  split
  · exact ite_memOk (logEvent_memOk (memOk_with hs)) (memOk_with (logEvent_memOk (memOk_with hs)))
  · exact hs

theorem pinMerge_memOk {loc bs} (hs : s.memOk) : (s.pinMerge loc bs).memOk := memOk_withMem hs

theorem cohWrite_memOk {loc bs} (hs : s.memOk) : (s.cohWrite loc bs).memOk := by
  dsimp only [State.cohWrite]
  refine pinMerge_memOk ?_
  split
  · exact memOk_withMem (putLoc_memOk hs)
  · exact putLoc_memOk hs

theorem raiseLL_memOk {line t} (hs : s.memOk) : (s.raiseLL line t).memOk := memOk_withMem hs
theorem setReq_memOk {id f} (hs : s.memOk) : (s.setReq id f).memOk := memOk_withMem hs
theorem setAcc_memOk {id k f} (hs : s.memOk) : (s.setAcc id k f).memOk := setReq_memOk hs
theorem noKeep_memOk {core line} (hs : s.memOk) : (s.noKeep core line).memOk := memOk_withMem hs

theorem accFault_memOk {r k a code detail} (hs : s.memOk) : (s.accFault r k a code detail).memOk :=
  setAcc_memOk (takeFault_memOk hs)

theorem accDone_memOk {r k old gwct lbl} (hs : s.memOk) : (s.accDone r k old gwct lbl).memOk := setAcc_memOk hs
theorem combinedDone_memOk {r cs old gwct lbl} (hs : s.memOk) : (s.combinedDone r cs old gwct lbl).memOk := setReq_memOk hs

theorem performPinned_memOk {r k a x} (hs : s.memOk) : (s.performPinned r k a x).memOk := by
  dsimp only [State.performPinned]
  refine ite_memOk (accFault_memOk hs) ?_
  refine ite_memOk (accFault_memOk hs) ?_
  refine ite_memOk (combinedDone_memOk (setL1_memOk hs)) ?_
  refine accDone_memOk ?_
  split
  · exact setL1_memOk hs
  · exact hs

theorem pinLine_memOk {tid core part line bytes} (hs : s.memOk) : (s.pinLine tid core part line bytes).memOk :=
  putL1_memOk (memOk_withMem hs)

theorem keepLine_memOk {r a bytes exp lbl} (hs : s.memOk) : (s.keepLine r a bytes exp lbl).memOk := ite_memOk (putL1_memOk hs) hs

theorem performCoherent_memOk {r k a} (hs : s.memOk) : (s.performCoherent r k a).memOk := by
  dsimp only [State.performCoherent]
  split
  · exact accDone_memOk (cohWrite_memOk hs)
  · refine ite_memOk (accDone_memOk hs) ?_
    exact ite_memOk (accDone_memOk hs) (accDone_memOk (keepLine_memOk (raiseLL_memOk hs)))

theorem performCombined_memOk {r a cs} (hs : s.memOk) : (s.performCombined r a cs).memOk :=
  combinedDone_memOk (cohWrite_memOk hs)

theorem sendAcc_memOk {r k a} (hs : s.memOk) : (s.sendAcc r k a).memOk :=
  ite_memOk hs (ite_memOk (sendReq_memOk hs) (ite_memOk (sendReq_memOk hs) hs))

theorem serveAcc_memOk {r k a} (hs : s.memOk) : (s.serveAcc r k a).memOk := by
  dsimp only [State.serveAcc]
  split
  · exact sendAcc_memOk hs
  · refine ite_memOk (ite_memOk (accDone_memOk hs) (accFault_memOk hs)) ?_
    refine ite_memOk (accFault_memOk hs) ?_
    refine ite_memOk (ite_memOk (accDone_memOk hs) (accFault_memOk (rowError_memOk hs))) ?_
    refine ite_memOk ?_ (ite_memOk (performCombined_memOk hs) (performCoherent_memOk hs))
    split
    · exact performPinned_memOk (pinLine_memOk hs)
    · exact performCoherent_memOk (pinLine_memOk hs)

theorem performAcc_memOk {id k} (hs : s.memOk) : (s.performAcc id k).memOk := by
  dsimp only [State.performAcc]
  split
  · exact hs
  · split
    · exact hs
    · refine ite_memOk hs ?_
      split
      · exact ite_memOk (accDone_memOk hs) (performPinned_memOk hs)
      · exact ite_memOk (serveAcc_memOk hs) (ite_memOk (accDone_memOk hs) (setAcc_memOk hs))

theorem l2Fetch_memOk {core loc} (hs : s.memOk) : (s.l2Fetch core loc).2.memOk := by
  dsimp only [State.l2Fetch]
  split
  · split
    · exact hs
    · exact memOk_withMem hs
  · exact hs

theorem l2Drop_memOk {f} (hs : s.memOk) : (s.l2Drop f).memOk := memOk_withMem hs
theorem timed_memOk {core a} (hs : s.memOk) : (s.timed core a).2.memOk := ite_snd_memOk hs (ite_snd_memOk hs (l2Fetch_memOk hs))

theorem performAll_memOk {id seen one} (hseen : ∀ t, t.memOk → (seen t).memOk) (hone : ∀ t k, t.memOk → (one t k).memOk)
    (hs : s.memOk) : (s.performAll id seen one).memOk := by
  unfold State.performAll
  split
  · exact hs
  · exact foldl_memOk hs (fun t k h => hseen _ (hone t k h))

theorem respond_memOk {id} (hs : s.memOk) : (s.respond id).memOk := by
  dsimp only [State.respond]
  split
  · exact hs
  · refine tokDown_memOk ?_
    refine ite_memOk ?_ ?_
    · exact foldl_memOk (foldl_memOk (foldl_memOk (memOk_withMem hs) fun _ _ ht => writeReg_memOk ht)
        fun _ _ ht => foldl_memOk ht fun _ _ hu => applyLbl_memOk hu) fun _ _ ht => joinWct_memOk ht
    · exact foldl_memOk (foldl_memOk (memOk_withMem hs) fun _ _ ht => writeReg_memOk ht) fun _ _ ht => foldl_memOk ht
        fun _ _ hu => applyLbl_memOk hu

/-! ## The operations of Sys2Proof/Machine/Access.lean -/

theorem reportPages_memOk {i ps} (hs : s.memOk) : (s.reportPages i ps).1.memOk := by
  dsimp only [State.reportPages]
  refine foldl_fst_memOk hs ?_
  rintro ⟨_, _⟩ _ ht
  dsimp only
  split
  · exact ht
  · exact resolvable_memOk ht

theorem pageStop_memOk {i write} (hs : s.memOk) : (s.pageStop i write).1.memOk := reportPages_memOk hs

theorem judgeAcc_memOk {i kind} (hs : s.memOk) : (s.judgeAcc i kind).memOk :=
  judge_memOk (judge_memOk (judge_memOk (judge_memOk hs)))

theorem touchL1_memOk {i kind a} (hs : s.memOk) : (s.touchL1 i kind a).memOk := by
  dsimp only [State.touchL1]
  refine ite_memOk (dropL1_memOk (ite_memOk (noKeep_memOk hs) hs)) ?_
  exact ite_memOk (setL1_memOk (ite_memOk (noKeep_memOk hs) hs)) (ite_memOk (noKeep_memOk hs) hs)

theorem useCoalescer_memOk {i n} (hs : s.memOk) : (s.useCoalescer i n).memOk := memOk_with hs

theorem timeAll_memOk {core as_} (hs : s.memOk) : (s.timeAll core as_).2.memOk :=
  foldl_snd_memOk hs fun ⟨_, _⟩ _ ht => timed_memOk ht

theorem request_memOk {i kind scope nl as_ dst sz tok} (hs : s.memOk) : (s.request i kind scope nl as_ dst sz tok).memOk := by
  dsimp only [State.request]
  exact ite_memOk hs (memOk_withMem (timeAll_memOk (freshId_memOk (useCoalescer_memOk hs))))

theorem fillTlb_memOk {i write vas} (hs : s.memOk) : (s.fillTlb i write vas).memOk :=
  foldl_memOk hs fun _ _ ht => tlbFill_memOk ht

theorem globalAccess_memOk {i kind scope nl data cmp len dst sz} (hs : s.memOk) :
    (s.globalAccess i kind scope nl data cmp len dst sz).memOk :=
  request_memOk (foldl_memOk (fillTlb_memOk (judgeAcc_memOk hs)) fun _ _ ht => touchL1_memOk ht)

theorem ldMeaning_keeps : ldMeaning.KeepsMem where
  stop hs := pageStop_memOk hs
  eff hs := globalAccess_memOk hs

theorem stMeaning_keeps : stMeaning.KeepsMem where
  stop hs := pageStop_memOk hs
  eff hs := globalAccess_memOk hs

theorem atomMeaning_keeps : atomMeaning.KeepsMem where
  stop hs := pageStop_memOk hs
  eff hs := globalAccess_memOk hs

theorem redMeaning_keeps : redMeaning.KeepsMem where
  stop hs := pageStop_memOk hs
  eff hs := globalAccess_memOk hs

theorem casMeaning_keeps : casMeaning.KeepsMem where
  stop hs := pageStop_memOk hs
  eff hs := globalAccess_memOk hs

theorem scrStop_memOk {i} (hs : s.memOk) : (s.scrStop i).1.memOk := hs

theorem bookPasses_memOk {core icore quad n t s} (hs : s.memOk) : (State.bookPasses core icore quad n t s).2.memOk := by
  induction n generalizing t s with
  | zero => exact hs
  | succ n ih => exact ih hs

theorem scrPasses_memOk {i} (hs : s.memOk) : (s.scrPasses i).2.memOk := by
  dsimp only [State.scrPasses]
  refine ite_snd_memOk hs ?_
  dsimp only
  exact bookPasses_memOk (memOk_with hs)

theorem scrLat_memOk {i} (hs : s.memOk) : (s.scrLat i).2.memOk := by
  dsimp only [State.scrLat]
  exact scrPasses_memOk hs

theorem putRes_memOk {i lat rs} (hs : s.memOk) : (s.putRes i lat rs).memOk := result_memOk hs

theorem ldsMeaning_keeps : ldsMeaning.KeepsMem where
  stop hs := scrStop_memOk hs
  eff hs := by
    dsimp only [ldsMeaning]
    exact putRes_memOk (scrLat_memOk hs)

theorem stsLane_memOk {i l a bs lbl} (hs : s.memOk) : (s.stsLane i l a bs lbl).memOk := sjoin_memOk (swrites_memOk hs)

theorem stsMeaning_keeps : stsMeaning.KeepsMem where
  eff hs := tokDown_memOk (foldl_memOk (scrPasses_memOk hs) fun _ _ ht => stsLane_memOk ht)

theorem atomsLanes_memOk {i new} (hs : s.memOk) : (s.atomsLanes i new).1.memOk := by
  dsimp only [State.atomsLanes]
  refine foldl_fst_memOk hs ?_
  rintro ⟨_, _⟩ _ ht
  dsimp only
  refine sjoin_memOk ?_
  split
  · exact swrites_memOk ht
  · exact ht

theorem atomsMeaning_keeps : atomsMeaning.KeepsMem where
  stop hs := scrStop_memOk hs
  eff hs := by
    dsimp only [atomsMeaning]
    exact putRes_memOk (atomsLanes_memOk (scrLat_memOk hs))

theorem cassMeaning_keeps : cassMeaning.KeepsMem where
  stop hs := scrStop_memOk hs
  eff hs := by
    dsimp only [cassMeaning]
    exact putRes_memOk (atomsLanes_memOk (scrLat_memOk hs))

theorem presMeaning_keeps : presMeaning.KeepsMem where
  eff hs := putRes_memOk hs

theorem ldcMeaning_keeps : ldcMeaning.KeepsMem where
  eff hs := by
    dsimp only [ldcMeaning]
    split
    · exact putRes_memOk hs
    · exact hs

theorem releasePins_memOk {tid rank} (hs : s.memOk) : (s.releasePins tid rank).memOk := by
  dsimp only [State.releasePins]
  refine ite_memOk ?_ ?_
  · exact teamFault_memOk (foldl_memOk hs fun _ _ ht => ite_memOk (memOk_withMem (flushPin_memOk ht)) (setL1_memOk
      (flushPin_memOk ht)))
  · exact foldl_memOk hs fun _ _ ht => ite_memOk (memOk_withMem (flushPin_memOk ht)) (setL1_memOk (flushPin_memOk ht))

theorem flush_memOk {ts} (hs : s.memOk) : (s.flush ts).memOk := foldl_memOk hs fun _ _ ht => ite_memOk ht (releasePins_memOk ht)

theorem release92_memOk {g ts} (hs : s.memOk) : (s.release92 g ts).1.memOk :=
  ite_fst_memOk hs (ite_fst_memOk (ite_memOk hs (flush_memOk hs)) (ite_memOk hs (flush_memOk hs)))

theorem acquire_memOk {g ls scope} (hs : s.memOk) : (s.acquire g ls scope).memOk := ite_memOk hs (memOk_withMem hs)
theorem acquireHold_memOk {i} (hs : s.memOk) : (s.acquireHold i).1.memOk := ite_fst_memOk hs hs

theorem fenceMeaning_keeps : fenceMeaning.KeepsMem where
  hold hs := ite_fst_memOk (acquireHold_memOk hs) (release92_memOk hs)
  eff hs := ite_memOk hs (acquire_memOk hs)

theorem leaseMeaning_keeps : leaseMeaning.KeepsMem where
  stop hs := pageStop_memOk hs
  eff hs := request_memOk (foldl_memOk (fillTlb_memOk (judgeAcc_memOk hs)) fun _ _ ht => touchL1_memOk ht)

theorem prefMeaning_keeps : prefMeaning.KeepsMem where
  eff hs := ite_memOk (foldl_memOk (tokDown_memOk hs) fun _ _ ht => l2Fetch_memOk ht) (ite_memOk (tokDown_memOk hs)
      (request_memOk (fillTlb_memOk (tokDown_memOk hs))))

/-! ## The operations of Sys2Proof/Machine/Converge.lean -/

theorem completed_memOk {pids} (hs : s.memOk) : (s.completed pids).memOk := memOk_with (freshId_memOk hs)
theorem openSet_memOk {p} (hs : s.memOk) : (s.openSet p).memOk := memOk_with (freshId_memOk hs)

theorem openSets_memOk {core quad n s} (hs : s.memOk) : (State.openSets s core quad n).memOk := by
  induction n generalizing s with
  | zero => exact hs
  | succ n ih =>
    unfold State.openSets
    split
    · exact hs
    · split
      · exact ih (openSet_memOk hs)
      · exact hs

theorem openTeam_memOk {tid} (hs : s.memOk) : (s.openTeam tid).memOk := foldl_memOk hs fun _ _ ht => openSets_memOk ht
theorem completeScope_memOk {p} (hs : s.memOk) : (s.completeScope p).memOk := memOk_with hs

theorem teamAcquire_memOk {tid} (hs : s.memOk) : (s.teamAcquire tid).memOk := by
  dsimp only [State.teamAcquire]
  split
  · split
    · exact memOk_withMem hs
    · exact hs
  · exact hs

theorem completeSet_memOk {p} (hs : s.memOk) : (s.completeSet p).memOk := completed_memOk (ite_memOk (teamAcquire_memOk hs) hs)
theorem completeGroup_memOk {p} (hs : s.memOk) : (s.completeGroup p).memOk := completed_memOk hs
theorem zeroRows_memOk {g lo hi} (hs : s.memOk) : (s.zeroRows g lo hi).memOk := memOk_with hs

theorem giveRows_memOk {g n} (hs : s.memOk) : (s.giveRows g n).memOk := by
  dsimp only [State.giveRows]
  split
  · exact setTeam_memOk (setGroup_memOk hs)
  · exact hs

theorem claimRows_memOk {g n} (hs : s.memOk) : (s.claimRows g n).memOk := by
  dsimp only [State.claimRows]
  split
  · exact setTeam_memOk (setGroup_memOk (zeroRows_memOk hs))
  · exact hs

theorem completeBarrier_memOk {tid bar} (hs : s.memOk) : (s.completeBarrier tid bar).memOk :=
  memOk_with (completed_memOk (teamAcquire_memOk (setTeam_memOk hs)))

theorem settleOne_memOk {tid} (hs : s.memOk) : SomeOk (s.settleOne tid) := by
  dsimp only [State.settleOne]
  split
  · exact someOk (completeScope_memOk hs)
  · split
    · exact someOk (completeSet_memOk hs)
    · split
      · exact someOk (completeGroup_memOk hs)
      · intro t e
        obtain ⟨b, -, rfl⟩ := Option.map_eq_some_iff.1 e
        exact completeBarrier_memOk hs

theorem settleAll_memOk {tid n s} (hs : s.memOk) : (State.settleAll s tid n).memOk := by
  induction n generalizing s with
  | zero => exact hs
  | succ n ih =>
    unfold State.settleAll
    split
    · rename_i e
      exact ih (settleOne_memOk hs _ e)
    · exact hs

theorem settle_memOk {tid} (hs : s.memOk) : (s.settle tid).memOk := by
  dsimp only [State.settle]
  split
  · exact teamFault_memOk hs
  · split
    · exact teamFault_memOk (settleAll_memOk hs)
    · exact openTeam_memOk (settleAll_memOk hs)

theorem settleTeams_memOk {ls} (hs : s.memOk) : (s.settleTeams ls).memOk := foldl_memOk hs fun _ _ ht => settle_memOk ht

theorem arrive_memOk {g ls st named} (hs : s.memOk) : (s.arrive g ls st named).memOk :=
  foldl_memOk hs fun _ _ ht => setPath_memOk (splitPath_memOk ht)

theorem arriveSets_memOk {i named} (hs : s.memOk) : (s.arriveSets i named).memOk := foldl_memOk hs fun _ _ ht => arrive_memOk ht

theorem arriveBar_memOk {g tid bar count ls n s} (hs : s.memOk) : (State.arriveBar s g tid bar count ls n).memOk := by
  induction n generalizing ls s with
  | zero => exact hs
  | succ n ih =>
    unfold State.arriveBar
    split
    · exact hs
    · split
      · exact arrive_memOk hs
      · refine ih ?_
        split
        · exact completeBarrier_memOk (arrive_memOk (setTeam_memOk hs))
        · exact arrive_memOk (setTeam_memOk hs)

theorem arriveRuns_memOk {g tid bar runs} (hs : s.memOk) : (s.arriveRuns g tid bar runs).memOk :=
  foldl_memOk hs fun _ _ ht => ite_memOk ht (ite_memOk (teamFault_memOk ht) (arriveBar_memOk ht))

theorem arriveBars_memOk {i} (hs : s.memOk) : (s.arriveBars i).memOk := foldl_memOk hs fun _ _ ht => arriveRuns_memOk ht

theorem reach_memOk {g i p} (hp : p.KeepsMem) (hs : s.memOk) : (s.reach g i p).memOk := by
  dsimp only [State.reach]
  split
  · exact hs
  · exact settleTeams_memOk (sweepIg_memOk (hp.wait (memOk_with (judge_memOk (judgeWord_memOk hs)))))

theorem runPoint_memOk {i p} (hp : p.KeepsMem) (hs : s.memOk) : NextOk (runPoint i p s) := by
  unfold runPoint
  split
  · refine nextOk ?_
    split
    · exact issue_memOk hp.word hs
    · exact reach_memOk hp hs
  · exact nextOk_fault

/-! ## The operations of Sys2Proof/Machine/Engine.lean -/

theorem laneLoop_memOk {step g ls} (hstep : ∀ t l, t.memOk → (step t l).1.memOk) (hs : s.memOk) :
    (State.laneLoop step s g ls).1.memOk := by
  refine foldl_fst_memOk hs ?_
  rintro ⟨t, _⟩ l ht
  dsimp only
  split
  · exact ht
  · split
    · rename_i e
      exact judge_memOk (memOk_of_fst e (hstep t l ht))
    · rename_i e
      exact memOk_of_fst e (hstep t l ht)

theorem takeLanes_memOk {i step} (hstep : ∀ t k l, t.memOk → (step t k l).1.memOk) (hs : s.memOk) :
    (s.takeLanes i step).1.memOk := by
  have h : (i.on.foldl (fun (s, k) l => if s.passedOver k l then (s, k) else step s k l)
      (s, ({ taken := takenBefore i.g } : Taking))).1.memOk := by
    refine foldl_fst_memOk hs ?_
    rintro ⟨t, k⟩ l ht
    dsimp only
    split
    · exact ht
    · exact hstep t k l ht
  dsimp only [State.takeLanes]
  split <;> exact h

theorem engWrite_memOk {tid core part ctx va bs lbl} (hs : s.memOk) : (s.engWrite tid core part ctx va bs lbl).1.memOk := by
  dsimp only [State.engWrite]
  split
  · split
    · exact ite_fst_memOk hs (ite_fst_memOk hs (setL1_memOk hs))
    · refine ite_fst_memOk hs ?_
      split
      · exact hs
      · exact ite_fst_memOk hs (ite_fst_memOk hs (ite_fst_memOk hs (ite_fst_memOk hs (cohWrite_memOk hs))))
  · exact hs
  · exact hs

theorem askSpan_memOk {t who rs} (hs : s.memOk) : (s.askSpan t who rs).memOk := foldl_memOk hs fun _ _ ht => sendReq_memOk ht

theorem engFault_memOk {tid code cause core pc va roff} (hs : s.memOk) : (s.engFault tid code cause core pc va roff).memOk := by
  dsimp only [State.engFault]
  refine ite_memOk ?_ (takeFault_memOk hs)
  split
  · exact hs
  · split
    · exact takeFault_memOk (rowError_memOk hs)
    · exact takeFault_memOk hs

theorem stepOver_memOk {pid len stall} (hs : s.memOk) : (s.stepOver pid len stall).memOk := setPath_memOk hs
theorem wakeIf_memOk {f} (hs : s.memOk) : (s.wakeIf f).memOk := foldl_memOk hs fun _ _ ht => wakePath_memOk ht
theorem wakeLines_memOk {tid} (hs : s.memOk) : (s.wakeLines tid).memOk := wakeIf_memOk hs

/-! ## The operations of Sys2Proof/Machine/Control.lean -/

theorem doneNow_memOk {i} (hs : s.memOk) : (s.doneNow i).memOk := tokDown_memOk hs

theorem nopMeaning_keeps : nopMeaning.KeepsMem where
  eff hs := doneNow_memOk hs

theorem regionMeaning_keeps : regionMeaning.KeepsMem where
  eff hs := doneNow_memOk (foldl_memOk hs fun _ _ ht => ite_memOk (setThr_memOk ht) ht)

theorem regendMeaning_keeps : regendMeaning.KeepsMem where
  eff hs := doneNow_memOk (foldl_memOk hs fun _ _ ht => setThr_memOk ht)

theorem reconvMeaning_keeps : reconvMeaning.KeepsMem where
  eff hs := settleTeams_memOk (arrive_memOk hs)

theorem barPoint_keeps : barPoint.KeepsMem where
  wait hs := arriveBars_memOk hs
  word := { eff hs := hs }

theorem collPoint_keeps : collPoint.KeepsMem where
  wait hs := arriveSets_memOk hs
  word := { eff hs := ite_memOk (doneNow_memOk hs) (runCollective_memOk hs) }

theorem qblkPoint_keeps : qblkPoint.KeepsMem where
  wait hs := arriveSets_memOk hs
  word := { eff hs := runQblk_memOk hs }

theorem rowsStop_memOk {i} (hs : s.memOk) : (s.rowsStop i).1.memOk :=
  ite_fst_memOk hs (foldl_memOk (memOk_with hs) fun _ _ ht => sweepIg_memOk ht)

theorem serveClaims_memOk {tid n s} (hs : s.memOk) : (State.serveClaims s tid n).memOk := by
  induction n generalizing s with
  | zero => exact hs
  | succ n ih =>
    unfold State.serveClaims
    dsimp only
    split
    · exact hs
    · split
      · exact hs
      · refine ite_memOk hs (ih (foldl_memOk (claimRows_memOk hs) ?_))
        intro t q ht
        split
        · exact stepOver_memOk (tokDown_memOk (account_memOk ht))
        · exact ht

theorem rowsAct_memOk {i} (hs : s.memOk) : (s.rowsAct i).memOk := by
  dsimp only [State.rowsAct]
  exact foldl_memOk (doneNow_memOk (markCharged_memOk (foldl_memOk hs fun _ _ ht => memOk_with (ite_memOk (claimRows_memOk ht)
      (giveRows_memOk ht))))) fun _ _ ht => serveClaims_memOk ht

theorem rowsPoint_keeps : rowsPoint.KeepsMem where
  wait hs := arrive_memOk hs
  word := { stop hs := rowsStop_memOk hs
            eff hs := rowsAct_memOk hs }

theorem rdsrMeaning_keeps : rdsrMeaning.KeepsMem where
  eff hs := memOk_with hs

theorem wrsrTeams_memOk {i} (hs : s.memOk) : (s.wrsrTeams i).memOk :=
  foldl_memOk (foldl_memOk hs fun _ _ ht => setTeam_memOk ht) fun _ _ ht => setTeam_memOk ht

theorem wrsrMeaning_keeps : wrsrMeaning.KeepsMem where
  eff hs := memOk_with (wrsrTeams_memOk hs)

/-! ## The operations of Sys2Proof/Machine/Stream.lean -/

theorem reserve_memOk {i l} (hs : s.memOk) : (s.reserve i l).1.memOk := by
  dsimp only [State.reserve]
  split
  · exact hs
  · exact hs
  · exact ite_fst_memOk hs (ite_fst_memOk hs (memOk_with (freshId_memOk hs)))

theorem osbresMeaning_keeps : osbresMeaning.KeepsMem where
  eff hs := by
    dsimp only [osbresMeaning]
    exact putRes_memOk (laneLoop_memOk (fun _ _ ht => reserve_memOk ht) hs)

theorem serveOsbPath_memOk {p} (hs : s.memOk) : SomeOk (s.serveOsbPath p) := by
  unfold State.serveOsbPath
  split
  · split
    · split
      · split
        · rename_i e
          exact someOk (account_memOk (splitPath_memOk (memOk_of_fst e (reserve_memOk hs))))
        · exact someOk_none
        · exact someOk hs
      · exact someOk_none
    · exact someOk_none
  · exact someOk_none

theorem serveOsb_memOk {core n s} (hs : s.memOk) : (State.serveOsb s core n).memOk := by
  induction n generalizing s with
  | zero => exact hs
  | succ n ih =>
    unfold State.serveOsb
    split
    · split
      · rename_i e
        exact ih (serveOsbPath_memOk hs _ e)
      · exact hs
    · exact hs

theorem osbFree_memOk {core} (hs : s.memOk) : (s.osbFree core).memOk := serveOsb_memOk (osbSweep_memOk hs)

theorem unreserve_memOk {i l} (hs : s.memOk) : (s.unreserve i l).1.memOk := by
  dsimp only [State.unreserve]
  split
  · exact memOk_with hs
  · exact hs

theorem osbrelMeaning_keeps : osbrelMeaning.KeepsMem where
  eff hs := by
    dsimp only [osbrelMeaning]
    exact foldl_memOk (tokDown_memOk (laneLoop_memOk (fun _ _ ht => unreserve_memOk ht) hs)) fun _ _ ht => osbFree_memOk ht

theorem sealBatch_memOk {t} (hs : s.memOk) : (s.sealBatch t).memOk := by
  dsimp only [State.sealBatch]
  split
  · exact setThr_memOk (memOk_with hs)
  · exact hs

theorem sealMeaning_keeps : sealMeaning.KeepsMem where
  eff hs := tokDown_memOk (foldl_memOk hs fun _ _ ht => sealBatch_memOk ht)

theorem mergeBatches_memOk {t} (hs : s.memOk) : (s.mergeBatches t).memOk :=
  memOk_with (foldl_memOk hs fun _ _ ht => joinWct_memOk ht)

theorem waitbMeaning_keeps : waitbMeaning.KeepsMem where
  hold hs := ite_fst_memOk (foldl_memOk hs fun _ _ ht => sealBatch_memOk ht) (foldl_memOk hs fun _ _ ht => sealBatch_memOk ht)
  eff hs := tokDown_memOk (foldl_memOk hs fun _ _ ht => mergeBatches_memOk ht)

theorem pendLines_memOk {tid ls} (hs : s.memOk) : (s.pendLines tid ls).memOk := foldl_memOk hs fun _ _ ht => setSline_memOk ht

theorem joinBatch_memOk {t} (hs : s.memOk) : (s.joinBatch t).memOk := by
  dsimp only [State.joinBatch]
  split <;> exact memOk_with hs

theorem acceptCopy_memOk {i multi l core dests r} (hs : s.memOk) : (s.acceptCopy i multi l core dests r).memOk :=
  memOk_with (freshId_memOk (joinBatch_memOk (foldl_memOk hs fun _ _ ht => pendLines_memOk ht)))

theorem copyLane_memOk {i multi k l} (hs : s.memOk) : (s.copyLane i multi k l).1.memOk := by
  dsimp only [State.copyLane]
  split
  · exact judge_memOk hs
  · exact hs
  · exact hs
  · exact acceptCopy_memOk hs

theorem copyMeaning_keeps {multi} : (copyMeaning multi).KeepsMem where
  hold hs := takeLanes_memOk (fun _ _ _ ht => copyLane_memOk ht) hs
  eff hs := tokDown_memOk hs

theorem wakeCopies_memOk (hs : s.memOk) : s.wakeCopies.memOk := wakeIf_memOk hs
theorem setCopy_memOk {id f} (hs : s.memOk) : (s.setCopy id f).memOk := memOk_with hs
theorem copyFault_memOk {c code va} (hs : s.memOk) : (s.copyFault c code va).memOk := engFault_memOk hs
theorem portBack_memOk {c free} (hs : s.memOk) : (s.portBack c free).memOk := memOk_with (setCopy_memOk hs)

theorem copyRefused_memOk {c va} (hs : s.memOk) : (s.copyRefused c va).memOk :=
  ite_memOk (copyFault_memOk hs) (setCopy_memOk (portBack_memOk hs))

theorem undefinedBytes_memOk {c d bs} (hs : s.memOk) : (s.undefinedBytes c d bs).1.memOk :=
  ite_fst_memOk hs (foldl_fst_memOk hs fun ⟨_, _⟩ _ ht => ite_fst_memOk (freeWord_memOk ht) ht)

theorem copyScratch_memOk {c d bs lbl} (hs : s.memOk) : (s.copyScratch c d bs lbl).memOk := by
  dsimp only [State.copyScratch]
  exact foldl_memOk hs fun _ _ ht => wakeLines_memOk (foldl_memOk (sjoin_memOk (swrites_memOk (ite_fst_memOk
      (undefinedBytes_memOk ht) ht))) fun _ _ hu => setSline_memOk hu)

theorem dirtyMx_memOk {codes} (hs : s.memOk) : (s.dirtyMx codes).memOk := memOk_with hs

theorem copyOsb_memOk {c d bs lbl} (hs : s.memOk) : (s.copyOsb c d bs lbl).memOk := by
  dsimp only [State.copyOsb]
  split
  · exact dirtyMx_memOk (memOk_with hs)
  · exact hs

theorem copyPast_memOk {c n} (hs : s.memOk) : (s.copyPast c n).memOk := setCopy_memOk (ite_memOk (portBack_memOk hs) hs)

theorem copyWrite_memOk {c bs} (hs : s.memOk) : (s.copyWrite c bs).memOk := by
  dsimp only [State.copyWrite]
  split
  · split
    · rename_i e
      exact setCopy_memOk (copyPast_memOk (memOk_of_fst e (engWrite_memOk (undefinedBytes_memOk hs))))
    · rename_i e
      exact setCopy_memOk (copyPast_memOk (sendReq_memOk (memOk_of_fst e (engWrite_memOk (undefinedBytes_memOk hs)))))
    · rename_i e
      exact copyRefused_memOk (memOk_of_fst e (engWrite_memOk (undefinedBytes_memOk hs)))
    · rename_i e
      exact copyFault_memOk (memOk_of_fst e (engWrite_memOk (undefinedBytes_memOk hs)))
  · exact copyPast_memOk (copyScratch_memOk hs)
  · exact copyPast_memOk (copyOsb_memOk hs)

theorem copyDone_memOk {c} (hs : s.memOk) : (s.copyDone c).memOk := wakeCopies_memOk (osbFree_memOk (memOk_with hs))

theorem copyMove_memOk {c} (hs : s.memOk) : (s.copyMove c).memOk := by
  dsimp only [State.copyMove]
  refine ite_memOk (copyWrite_memOk hs) ?_
  split
  · exact hs
  · split
    · exact copyWrite_memOk hs
    · exact askSpan_memOk (portBack_memOk hs)
    · exact copyRefused_memOk hs
    · exact copyFault_memOk hs

theorem copyStep_memOk {c} (hs : s.memOk) : (s.copyStep c).memOk := by
  dsimp only [State.copyStep]
  refine ite_memOk (ite_memOk (copyDone_memOk hs) hs) ?_
  refine ite_memOk (copyFault_memOk hs) ?_
  split
  · exact copyMove_memOk hs
  · exact setCopy_memOk hs

theorem execStreamerWritePerform_memOk {copy} (hs : s.memOk) : NextOk (execStreamerWritePerform copy s) := by
  unfold execStreamerWritePerform
  split
  · exact nextOk (copyStep_memOk hs)
  · exact nextOk hs

theorem setPlate_memOk {tid k f} (hs : s.memOk) : (s.setPlate tid k f).memOk := memOk_with hs
theorem loadPlate_memOk {i l} (hs : s.memOk) : (s.loadPlate i l).memOk := memOk_with (setPlate_memOk (freshId_memOk hs))

theorem plloadMeaning_keeps : plloadMeaning.KeepsMem where
  eff hs := foldl_memOk hs fun _ _ ht => loadPlate_memOk ht

theorem sweepPlates_memOk {tid} (hs : s.memOk) : (s.sweepPlates tid).memOk :=
  foldl_memOk hs fun _ _ ht => ite_memOk ht (setPlate_memOk ht)

theorem freePlates_memOk {tid mask} (hs : s.memOk) : (s.freePlates tid mask).memOk :=
  sweepPlates_memOk (foldl_memOk hs fun _ _ ht => ite_memOk (setPlate_memOk ht) ht)

theorem plfreeMeaning_keeps : plfreeMeaning.KeepsMem where
  eff hs := tokDown_memOk (foldl_memOk hs fun _ _ ht => freePlates_memOk ht)

theorem plateLoadFault_memOk {x code va} (hs : s.memOk) : (s.plateLoadFault x code va).memOk := engFault_memOk hs
theorem setLoad_memOk {id f} (hs : s.memOk) : (s.setLoad id f).memOk := memOk_with hs

theorem plateLoaded_memOk {x bs lbl} (hs : s.memOk) : (s.plateLoaded x bs lbl).memOk := by
  dsimp only [State.plateLoaded]
  split
  · exact tokDown_memOk (memOk_with (setPlate_memOk hs))
  · exact memOk_with (setPlate_memOk hs)

theorem plateBegin_memOk {x t} (hs : s.memOk) : (s.plateBegin x t).memOk := by
  dsimp only [State.plateBegin]
  refine setLoad_memOk (foldl_snd_memOk hs ?_)
  rintro ⟨_, _⟩ _ ht
  dsimp only
  split
  · exact l2Fetch_memOk ht
  · exact ht

theorem plateRefused_memOk {x} (hs : s.memOk) : (s.plateRefused x).memOk := setLoad_memOk hs

theorem plateRead_memOk {x t} (hs : s.memOk) : (s.plateRead x t).memOk := by
  dsimp only [State.plateRead]
  split
  · exact plateLoadFault_memOk hs
  · refine ite_memOk (ite_memOk (plateLoadFault_memOk hs) (plateRefused_memOk hs)) ?_
    exact ite_memOk (plateLoaded_memOk hs) (askSpan_memOk hs)

theorem plateStep_memOk {x} (hs : s.memOk) : (s.plateStep x).memOk := by
  dsimp only [State.plateStep]
  split
  · exact hs
  · exact ite_memOk (plateBegin_memOk hs) (plateRead_memOk hs)

theorem execPlateLoadComplete_memOk {load} (hs : s.memOk) : NextOk (execPlateLoadComplete load s) := by
  unfold execPlateLoadComplete
  split
  · exact nextOk (plateStep_memOk hs)
  · exact nextOk hs

/-! ## The operations of Sys2Proof/Machine/Matrix.lean -/

theorem takeSlot_memOk {tid h} (hs : s.memOk) : (s.takeSlot tid h).memOk := memOk_with (setTeam_memOk hs)
theorem backSlots_memOk {tid} (hs : s.memOk) : (s.backSlots tid).memOk := setTeam_memOk hs
theorem vatSet_memOk {tid h e x} (hs : s.memOk) : (s.vatSet tid h e x).memOk := memOk_with hs
theorem setVatLabel_memOk {tid h l} (hs : s.memOk) : (s.setVatLabel tid h l).memOk := memOk_with hs
theorem retime_memOk {core} (hs : s.memOk) : (s.retime core).memOk := memOk_with hs

theorem mixOsb_memOk {x o} (hs : s.memOk) : (s.mixOsb x o).1.memOk :=
  foldl_fst_memOk hs fun ⟨_, _, _⟩ _ ht => ite_snd_memOk ht (freeWord_memOk ht)

theorem mixVat_memOk {x} (hs : s.memOk) : (s.mixVat x).memOk := by
  dsimp only [State.mixVat]
  refine ite_memOk hs ?_
  exact foldl_memOk hs fun _ _ ht => ite_memOk (vatSet_memOk (freeWord_memOk ht)) (freeWord_memOk ht)

theorem orderWrites_memOk {tid mark} (hs : s.memOk) : (s.orderWrites tid mark).memOk := memOk_with hs

theorem mxEnter_memOk {x o} (hs : s.memOk) : (s.mxEnter x o).memOk :=
  memOk_with (setVatLabel_memOk (foldl_memOk (mixVat_memOk (mixOsb_memOk hs)) fun _ _ ht => vatSet_memOk ht))

theorem mxFinish_memOk {x} (hs : s.memOk) : (s.mxFinish x).memOk := by
  dsimp only [State.mxFinish]
  refine retime_memOk (osbFree_memOk (sweepPlates_memOk (backSlots_memOk ?_)))
  split
  · exact mxEnter_memOk hs
  · exact memOk_with hs

theorem execMxissueComplete_memOk {core} (hs : s.memOk) : NextOk (execMxissueComplete core s) := by
  unfold execMxissueComplete
  split
  · exact nextOk (mxFinish_memOk hs)
  · exact nextOk hs

theorem mxAccept_memOk {i l a r} (hs : s.memOk) : (s.mxAccept i l a r).2.memOk :=
  retime_memOk (memOk_with (freshId_memOk (ite_memOk (takeSlot_memOk hs) hs)))

theorem mxLane_memOk {i k l} (hs : s.memOk) : (s.mxLane i k l).1.memOk := by
  dsimp only [State.mxLane]
  split
  · exact hs
  · refine ite_fst_memOk (judge_memOk hs) ?_
    exact ite_fst_memOk (judge_memOk hs) (ite_fst_memOk hs (mxAccept_memOk hs))

theorem recordStop_memOk {i n} (hs : s.memOk) : (s.recordStop i n).1.memOk := hs

theorem mxissueMeaning_keeps : mxissueMeaning.KeepsMem where
  hold hs := takeLanes_memOk (fun _ _ _ ht => mxLane_memOk ht) hs
  stop hs := recordStop_memOk hs
  eff hs := putRes_memOk hs

theorem mxfenceMeaning_keeps : mxfenceMeaning.KeepsMem where
  hold hs := ite_fst_memOk hs (setIg_memOk hs)
  eff hs := tokDown_memOk (foldl_memOk hs fun _ _ ht => orderWrites_memOk ht)

theorem closeWindow_memOk {x} (hs : s.memOk) : (s.closeWindow x).memOk := by
  dsimp only [State.closeWindow]
  exact foldl_memOk (ite_memOk (setVatLabel_memOk (memOk_with hs)) (memOk_with hs)) fun _ _ ht => ite_memOk (vatSet_memOk
      (freeWord_memOk ht)) (memOk_with (freeWord_memOk ht))

theorem observe_memOk {t ids} (hs : s.memOk) : (s.observe t ids).memOk := by
  dsimp only [State.observe]
  exact memOk_with (foldl_memOk (setThr_memOk (foldl_memOk hs fun _ _ ht => ite_memOk ht (closeWindow_memOk ht)))
      fun _ _ ht => joinTileLbl_memOk ht)

theorem mxwaitMeaning_keeps : mxwaitMeaning.KeepsMem where
  hold hs := ite_fst_memOk hs (setIg_memOk hs)
  eff hs := tokDown_memOk (foldl_memOk hs fun _ _ ht => observe_memOk ht)

theorem vtrdLane_memOk {i l} (hs : s.memOk) : (s.vtrdLane i l).1.memOk := ite_fst_memOk hs (freeWords_memOk hs)

theorem vtrdMeaning_keeps : vtrdMeaning.KeepsMem where
  eff hs := by
    dsimp only [vtrdMeaning]
    exact putRes_memOk (laneLoop_memOk (fun _ _ ht => vtrdLane_memOk ht) hs)

theorem keepVat_memOk {tid h e id} (hs : s.memOk) : (s.keepVat tid h e id).memOk := memOk_with hs

theorem vtwrLane_memOk {_i l ws lbl h e} (hs : s.memOk) : (s.vtwrLane _i l ws lbl h e).memOk :=
  dirtyMx_memOk (setVatLabel_memOk (foldl_memOk (freshId_memOk hs) fun _ _ ht => vatSet_memOk (keepVat_memOk ht)))

theorem vtwrMeaning_keeps : vtwrMeaning.KeepsMem where
  eff hs := tokDown_memOk (foldl_memOk hs fun _ _ ht => vtwrLane_memOk ht)

theorem vrelLane_memOk {i l} (hs : s.memOk) : (s.vrelLane i l).1.memOk := ite_fst_memOk (backSlots_memOk (setTeam_memOk hs)) hs

theorem vrelMeaning_keeps : vrelMeaning.KeepsMem where
  eff hs := by
    dsimp only [vrelMeaning]
    exact tokDown_memOk (laneLoop_memOk (fun _ _ ht => vrelLane_memOk ht) hs)

/-! ## The operations of Sys2Proof/Machine/Churn.lean -/

theorem setChain_memOk {id f} (hs : s.memOk) : (s.setChain id f).memOk := memOk_with hs
theorem chainFault_memOk {c code va} (hs : s.memOk) : (s.chainFault c code va).memOk := engFault_memOk hs

theorem chainHold_memOk {c va t} (hs : s.memOk) : (s.chainHold c va t).memOk := by
  dsimp only [State.chainHold]
  split
  · exact setChain_memOk (resolvable_memOk hs)
  · exact chainFault_memOk hs

theorem chainRefused_memOk {c} (hs : s.memOk) : (s.chainRefused c).memOk := ite_memOk (chainFault_memOk hs) (setChain_memOk hs)

theorem chWrite_memOk {c t x at_ bs lbl} (hs : s.memOk) : (s.chWrite c t x at_ bs lbl).1.memOk := by
  dsimp only [State.chWrite]
  refine ite_fst_memOk (ite_fst_memOk hs (sjoin_memOk (swrites_memOk hs))) ?_
  refine ite_fst_memOk hs ?_
  refine foldl_fst_memOk hs ?_
  rintro ⟨_, _⟩ _ ht
  dsimp only
  refine ite_fst_memOk ht ?_
  split
  · rename_i e
    exact memOk_of_fst e (engWrite_memOk ht)
  · rename_i e
    exact sendReq_memOk (memOk_of_fst e (engWrite_memOk ht))
  · rename_i e
    exact memOk_of_fst e (engWrite_memOk ht)
  · rename_i e
    exact memOk_of_fst e (engWrite_memOk ht)

theorem chBytes_memOk {c o at_ was code} (hs : s.memOk) : (s.chBytes c o at_ was code).1.memOk :=
  ite_fst_memOk (freeWords_memOk hs) hs

theorem chainStop1_memOk {c code va page} (hs : s.memOk) : (s.chainStop1 c code va page).memOk := by
  dsimp only [State.chainStop1]
  split
  · exact chainHold_memOk hs
  · exact chainFault_memOk hs

theorem chainRead_memOk {c t at_} (hs : s.memOk) : (s.chainRead c t at_).memOk := by
  dsimp only [State.chainRead]
  split
  · exact chainStop1_memOk hs
  · exact chainRefused_memOk hs
  · exact askSpan_memOk hs
  · exact setChain_memOk hs

theorem chainWrite_memOk {c t at_ e o code rest} (hs : s.memOk) : (s.chainWrite c t at_ e o code rest).memOk := by
  dsimp only [State.chainWrite]
  split
  · exact chainStop1_memOk hs
  · exact chainRefused_memOk hs
  · exact askSpan_memOk hs
  · split
    · exact setChain_memOk (setChain_memOk (chWrite_memOk (chBytes_memOk hs)))
    · exact chainRefused_memOk (setChain_memOk (chWrite_memOk (chBytes_memOk hs)))
    · exact chainStop1_memOk (setChain_memOk (chWrite_memOk (chBytes_memOk hs)))

theorem chainElem_memOk {c at_} (hs : s.memOk) : (s.chainElem c at_).memOk := by
  dsimp only [State.chainElem]
  split
  · exact hs
  · split
    · exact chainRead_memOk hs
    · split
      · exact setChain_memOk hs
      · split
        · exact chainWrite_memOk hs
        · exact setChain_memOk hs

theorem chainGo_memOk {id n s} (hs : s.memOk) : (State.chainGo s id n).memOk := by
  induction n generalizing s with
  | zero => exact hs
  | succ n ih =>
    unfold State.chainGo
    split
    · exact hs
    · split
      · exact hs
      · split
        · exact hs
        · exact ih (chainElem_memOk hs)

theorem chainStep_memOk {c} (hs : s.memOk) : (s.chainStep c).memOk := by
  dsimp only [State.chainStep]
  split
  · exact setChain_memOk hs
  · exact ite_memOk (chainFault_memOk hs) (setChain_memOk (chainGo_memOk hs))

theorem execChainElementStep_memOk {core} (hs : s.memOk) : NextOk (execChainElementStep core s) := by
  unfold execChainElementStep
  split
  · exact nextOk (chainStep_memOk hs)
  · exact nextOk hs

theorem chainLane_memOk {i k l} (hs : s.memOk) : (s.chainLane i k l).1.memOk := by
  dsimp only [State.chainLane]
  split
  · exact hs
  · exact ite_fst_memOk (judge_memOk hs) (ite_fst_memOk hs (memOk_with (freshId_memOk hs)))

theorem chainStop_memOk {i} (hs : s.memOk) : (s.chainStop i).1.memOk := hs

theorem chainMeaning_keeps : chainMeaning.KeepsMem where
  hold hs := takeLanes_memOk (fun _ _ _ ht => chainLane_memOk ht) hs
  stop hs := chainStop_memOk hs
  eff hs := tokDown_memOk hs

theorem takeChains_memOk {t ids} (hs : s.memOk) : (s.takeChains t ids).memOk :=
  memOk_with (foldl_memOk (setThr_memOk (foldl_memOk hs fun _ _ ht => joinWct_memOk ht)) fun _ _ ht => joinTileLbl_memOk ht)

theorem chwaitMeaning_keeps : chwaitMeaning.KeepsMem where
  hold hs := ite_fst_memOk hs (setIg_memOk hs)
  eff hs := tokDown_memOk (foldl_memOk hs fun _ _ ht => takeChains_memOk ht)

/-! ## The operations of Sys2Proof/Machine/Fetch.lean -/

theorem encStop_memOk {g e} (hs : s.memOk) : (s.encStop g e).memOk := judge_memOk (memOk_with hs)
theorem tick_memOk (hs : s.memOk) : s.tick.memOk := memOk_with (applyDue_memOk (memOk_with hs))

/-! ## The operations of Sys2Proof/Machine/Branch.lean -/

theorem splitTo_memOk {g p lbl arms} (hs : s.memOk) : (s.splitTo g p lbl arms).memOk := by
  dsimp only [State.splitTo]
  split
  · exact hs
  · exact leave_memOk hs
  · exact memOk_with hs

theorem branchFrom_memOk {i cond fall tgt lbl} (hs : s.memOk) : (s.branchFrom i cond fall tgt lbl).memOk := by
  dsimp only [State.branchFrom]
  refine foldl_memOk hs ?_
  intro _ _ ht
  split
  · exact splitTo_memOk (joinCtx_memOk ht)
  · exact joinCtx_memOk ht

theorem branch_memOk {i cond tgt lbl} (hs : s.memOk) : (s.branch i cond tgt lbl).memOk := branchFrom_memOk hs
theorem setLink_memOk {ls pc} (hs : s.memOk) : (s.setLink ls pc).memOk := foldl_memOk hs fun _ _ ht => setThr_memOk ht

theorem braMeaning_keeps {off} : (braMeaning off).KeepsMem where
  eff hs := branch_memOk hs

theorem brxMeaning_keeps : brxMeaning.KeepsMem where
  eff hs := branch_memOk hs

theorem callMeaning_keeps {off} : (callMeaning off).KeepsMem where
  eff hs := branch_memOk (setLink_memOk hs)

theorem callxMeaning_keeps : callxMeaning.KeepsMem where
  eff hs := branch_memOk (setLink_memOk hs)

theorem retMeaning_keeps : retMeaning.KeepsMem where
  eff hs := branch_memOk (foldl_memOk hs fun _ _ ht => setThr_memOk ht)

theorem exitThreads_memOk {ls} (hs : s.memOk) : (s.exitThreads ls).memOk :=
  memOk_with (foldl_memOk hs fun _ _ ht => setThr_memOk ht)

theorem exitMeaning_keeps : exitMeaning.KeepsMem where
  eff hs := settleTeams_memOk (exitThreads_memOk hs)

theorem trapMeaning_keeps : trapMeaning.KeepsMem where
  eff hs := tokDown_memOk (branch_memOk (foldl_memOk hs fun _ _ ht => setThr_memOk ht))

theorem jroleMeaning_keeps : jroleMeaning.KeepsMem where
  eff hs := tokDown_memOk (branch_memOk hs)

theorem moveBack_memOk {pid} (hs : s.memOk) : (s.moveBack pid).memOk := by
  dsimp only [State.moveBack]
  split
  · exact ite_memOk hs (memOk_with hs)
  · exact hs

theorem yieldMeaning_keeps : yieldMeaning.KeepsMem where
  eff hs := tokDown_memOk (foldl_memOk hs fun _ _ ht => moveBack_memOk ht)

/-! ## The operations of Sys2Proof/Machine/Queue.lean -/

theorem setQueue_memOk {k f} (hs : s.memOk) : (s.setQueue k f).memOk := by
  dsimp only [State.setQueue]
  split
  · exact memOk_with hs
  · exact hs

theorem placeRec_memOk {k p r lr left} (hs : s.memOk) : (s.placeRec k p r lr left).memOk := setQueue_memOk hs
theorem waitAt_memOk {k w} (hs : s.memOk) : (s.waitAt k w).memOk := setQueue_memOk hs
theorem subView_memOk {core k n} (hs : s.memOk) : (s.subView core k n).memOk := memOk_with hs
theorem charge_memOk {i} (hs : s.memOk) : (s.charge i).memOk := markCharged_memOk (foldl_memOk hs fun _ _ ht => setTeam_memOk ht)

/-! ## The operations of Sys2Proof/Machine/Enqueue.lean -/

theorem sendMsg_memOk {typ tpart spart tstation body} (hs : s.memOk) : (s.sendMsg typ tpart spart tstation body).memOk :=
  memOk_with hs

theorem inlineCall_memOk {ret l} (hs : s.memOk) : (s.inlineCall ret l).memOk := setThr_memOk hs

theorem inlineAll_memOk {i st} (hs : s.memOk) : (s.inlineAll i st).memOk :=
  branchFrom_memOk (markCharged_memOk (tokDown_memOk (foldl_memOk (foldl_memOk (foldl_memOk hs
      fun _ _ ht => vSet_memOk ht) fun _ _ ht => foldl_memOk ht fun _ _ hu => applyLbl_memOk hu)
      fun _ _ ht => inlineCall_memOk ht)))

theorem servePath_memOk {k p} (hs : s.memOk) : SomeOk (s.servePath k p) := by
  unfold State.servePath
  split
  · exact someOk hs
  · split
    · exact someOk hs
    · dsimp only
      split
      · exact someOk hs
      · split
        · exact someOk hs
        · split
          · exact someOk_none
          · exact someOk (tokDown_memOk (account_memOk (foldl_memOk hs fun _ _ h => placeRec_memOk h)))

theorem setGang_memOk {origin id f} (hs : s.memOk) : (s.setGang origin id f).memOk := memOk_with hs

theorem takeGack_memOk {station part id deadline} (hs : s.memOk) : (s.takeGack station part id deadline).memOk := by
  dsimp only [State.takeGack]
  split
  · exact ite_memOk hs (memOk_with hs)
  · refine ite_memOk (ite_memOk (ite_memOk hs (memOk_with hs)) (sendMsg_memOk (ite_memOk hs (memOk_with hs)))) ?_
    exact ite_memOk (setGang_memOk (ite_memOk hs (memOk_with hs))) (ite_memOk hs (memOk_with hs))

theorem ackGang_memOk {lr} (hs : s.memOk) : (s.ackGang lr).memOk := by
  dsimp only [State.ackGang]
  split
  · exact hs
  · exact ite_memOk (takeGack_memOk hs) (sendMsg_memOk hs)

theorem acceptLaunch_memOk {k lr} (hs : s.memOk) : (s.acceptLaunch k lr).memOk :=
  ackGang_memOk (setQueue_memOk (placeRec_memOk (memOk_with (freshId_memOk hs))))

theorem launchTok_memOk {p t} (hs : s.memOk) : (s.launchTok p t).memOk := by
  dsimp only [State.launchTok]
  split
  · exact tokDown_memOk hs
  · exact hs

theorem freeEntry_memOk {tid entry} (hs : s.memOk) : (s.freeEntry tid entry).memOk := by
  dsimp only [State.freeEntry]
  split
  · exact memOk_with hs
  · split
    · refine ite_memOk (launchTok_memOk (memOk_with hs)) ?_
      exact wakePath_memOk (setPath_memOk (launchTok_memOk (memOk_with hs)))
    · exact memOk_with hs

theorem freeSlot_memOk {k seq} (hs : s.memOk) : (s.freeSlot k seq).memOk := memOk_with hs

theorem serveHead_memOk {k q} (hs : s.memOk) : SomeOk (s.serveHead k q) := by
  dsimp only [State.serveHead]
  split
  · exact someOk_none
  · split
    · exact someOk (setQueue_memOk hs)
    · exact (servePath_memOk hs).map fun _ h => setQueue_memOk h
  · exact .ite (someOk (setQueue_memOk (placeRec_memOk hs))) someOk_none
  · exact .ite (someOk (setQueue_memOk (placeRec_memOk hs))) someOk_none
  · have h {n recs} : (List.foldl (fun s r => s.placeRec k 0 r none 1) s (List.take n recs)).memOk :=
      foldl_memOk hs fun _ _ h => placeRec_memOk h
    exact .ite someOk_none (.ite (someOk (sendMsg_memOk (setQueue_memOk h))) (someOk (setQueue_memOk h)))
  · refine .ite (someOk (setQueue_memOk hs)) (.ite someOk_none (someOk ?_))
    split
    · refine freeSlot_memOk ?_
      split
      · exact freeEntry_memOk (acceptLaunch_memOk (setQueue_memOk hs))
      · exact acceptLaunch_memOk (setQueue_memOk hs)
    · split
      · exact freeEntry_memOk (acceptLaunch_memOk (setQueue_memOk hs))
      · exact acceptLaunch_memOk (setQueue_memOk hs)

theorem serveQueue_memOk {k n s} (hs : s.memOk) : (State.serveQueue s k n).memOk := by
  induction n generalizing s with
  | zero => exact hs
  | succ n ih =>
    unfold State.serveQueue
    split
    · exact hs
    · split
      · rename_i e
        exact ih (serveHead_memOk hs _ e)
      · exact hs

theorem dequeue_memOk {k n} (hs : s.memOk) : (s.dequeue k n).2.2.memOk := by
  dsimp only [State.dequeue]
  split
  · exact hs
  · exact serveQueue_memOk (setQueue_memOk hs)

theorem enqStop_memOk {i} (hs : s.memOk) : (s.enqStop i).1.memOk := hs

theorem sendRenq_memOk {i k e} (hs : s.memOk) : (s.sendRenq i k e).memOk := by
  dsimp only [State.sendRenq]
  split
  · exact hs
  · exact ite_memOk hs (sendMsg_memOk (memOk_with (freshId_memOk hs)))

theorem mail_memOk {i n r} (hs : s.memOk) : (s.mail i n r).memOk := by
  dsimp only [State.mail]
  split
  · exact asyncReport_memOk hs
  · exact ite_memOk (asyncReport_memOk hs) (ite_memOk (placeRec_memOk hs) (waitAt_memOk hs))

theorem wakeMail_memOk (hs : s.memOk) : s.wakeMail.memOk := wakeIf_memOk hs

theorem enqueue_memOk {i} (hs : s.memOk) : (s.enqueue i).memOk := by
  dsimp only [State.enqueue]
  refine tokDown_memOk (markCharged_memOk ?_)
  split
  · exact foldl_memOk (foldl_memOk hs fun _ _ ht => placeRec_memOk ht) fun _ _ ht => waitAt_memOk ht
  · exact sendRenq_memOk hs
  · exact foldl_memOk hs fun _ _ ht => mail_memOk ht

theorem enqMeaning_keeps : enqMeaning.KeepsMem where
  hold hs := charge_memOk hs
  stop hs := enqStop_memOk hs
  eff hs := by
    dsimp only [enqMeaning]
    split
    · exact inlineAll_memOk hs
    · exact enqueue_memOk hs

theorem acquireAt_memOk {core part rank} (hs : s.memOk) : (s.acquireAt core part rank).memOk := memOk_withMem hs
theorem dealArea_memOk {tid base thr r} (hs : s.memOk) : (s.dealArea tid base thr r).memOk := sjoin_memOk (swrites_memOk hs)

theorem deqLane_memOk {i st l} (hs : s.memOk) : (s.deqLane i st l).1.memOk := by
  dsimp only [State.deqLane]
  split
  · exact hs
  · exact acquireAt_memOk (subView_memOk (setTeam_memOk (foldl_memOk (dequeue_memOk hs) fun _ _ ht => dealArea_memOk ht)))

theorem deqmoreMeaning_keeps : deqmoreMeaning.KeepsMem where
  eff hs := by
    dsimp only [deqmoreMeaning]
    split
    · exact hs
    · exact putRes_memOk (foldl_fst_memOk hs fun ⟨_, _, _⟩ _ ht => deqLane_memOk ht)

theorem qlenMeaning_keeps : qlenMeaning.KeepsMem where
  eff hs := putRes_memOk hs

theorem execCellarRefillStep_memOk {q} (hs : s.memOk) : NextOk (execCellarRefillStep q s) :=
  nextOk (serveQueue_memOk (setQueue_memOk hs))

/-! ## The operations of Sys2Proof/Machine/Tasks.lean -/

theorem depStop_memOk {i} (hs : s.memOk) : (s.depStop i).1.memOk := by
  dsimp only [State.depStop]
  split
  · exact hs
  · exact reportPages_memOk hs

theorem decdepMeaning_keeps : decdepMeaning.KeepsMem where
  hold hs := charge_memOk hs
  stop hs := depStop_memOk hs
  eff hs := by
    dsimp only [decdepMeaning]
    split
    · exact hs
    · exact request_memOk (markCharged_memOk (foldl_memOk (fillTlb_memOk (judge_memOk hs)) fun _ _ ht => touchL1_memOk ht))

theorem depFault_memOk {r a code detail} (hs : s.memOk) : (s.depFault r a code detail).memOk := takeFault_memOk hs

theorem placeTask_memOk {r a t bs fl} (hs : s.memOk) : (s.placeTask r a t bs fl).memOk :=
  ite_memOk (depFault_memOk hs) (ite_memOk (placeRec_memOk hs) (waitAt_memOk hs))

theorem releaseTask_memOk {r a table} (hs : s.memOk) : (s.releaseTask r a table).memOk := by
  dsimp only [State.releaseTask]
  split
  · exact hs
  · split
    · exact depFault_memOk hs
    · exact placeTask_memOk hs

theorem depSend_memOk {r k a st off n} (hs : s.memOk) : (s.depSend r k a st off n).memOk :=
  ite_memOk (sendReq_memOk hs) (sendReq_memOk hs)

theorem depGot_memOk {r k bs fl} (hs : s.memOk) : (s.depGot r k bs fl).memOk := setAcc_memOk hs
theorem depEnd_memOk {r k} (hs : s.memOk) : (s.depEnd r k).memOk := setAcc_memOk hs

theorem depFar_memOk {r k a t} (hs : s.memOk) : (s.depFar r k a t).memOk := by
  dsimp only [State.depFar]
  refine ite_memOk hs ?_
  refine ite_memOk ?_ ?_
  · split
    · exact depSend_memOk hs
    · exact hs
  · refine ite_memOk (depEnd_memOk (placeTask_memOk hs)) ?_
    split
    · split
      · exact depGot_memOk hs
      · exact depSend_memOk hs
      · exact ite_memOk (depGot_memOk hs) (depEnd_memOk (depFault_memOk hs))
    · exact depEnd_memOk (depFault_memOk hs)
    · exact depEnd_memOk (depFault_memOk hs)

theorem depFound_memOk {r k old a} (hs : s.memOk) : (s.depFound r k old a).memOk :=
  ite_memOk (depEnd_memOk (depFault_memOk hs)) (ite_memOk (setAcc_memOk hs) (depEnd_memOk hs))

theorem depAnswer_memOk {o x r k a} (hs : s.memOk) : (s.depAnswer o x r k a).memOk := by
  dsimp only [State.depAnswer]
  refine ite_memOk (depGot_memOk hs) ?_
  exact ite_memOk (depFound_memOk hs) (ite_memOk (depFound_memOk (setAcc_memOk hs)) (setAcc_memOk hs))

theorem performDep_memOk {id table k} (hs : s.memOk) : (s.performDep id table k).memOk := by
  dsimp only [State.performDep]
  split
  · exact hs
  · split
    · exact hs
    · exact depEnd_memOk hs
    · refine ite_memOk hs ?_
      refine ite_memOk (setAcc_memOk hs) ?_
      refine ite_memOk (ite_memOk hs (ite_memOk (setAcc_memOk hs) (depFar_memOk hs))) ?_
      split
      · exact performAcc_memOk hs
      · refine ite_memOk (performAcc_memOk hs) ?_
        refine ite_memOk (depFault_memOk (performAcc_memOk hs)) ?_
        refine ite_memOk ?_ ?_
        · exact ite_memOk (depFound_memOk (performAcc_memOk hs)) (releaseTask_memOk (performAcc_memOk hs))
        · exact performAcc_memOk hs

theorem launchStop_memOk {i} (hs : s.memOk) : (s.launchStop i).1.memOk := hs

theorem takeEntry_memOk {i l} (hs : s.memOk) : (s.takeEntry i l).memOk := by
  dsimp only [State.takeEntry]
  split
  · exact hs
  · exact memOk_with hs

theorem launchMeaning_keeps : launchMeaning.KeepsMem where
  hold hs := charge_memOk hs
  stop hs := launchStop_memOk hs
  eff hs := tokDown_memOk (markCharged_memOk (tokUp_memOk (memOk_with (foldl_memOk hs fun _ _ ht => takeEntry_memOk ht))))

theorem acceptEntry_memOk {k p} (hs : s.memOk) : (s.acceptEntry k p).memOk := by
  dsimp only [State.acceptEntry]
  split
  · exact hs
  · exact ite_memOk (freeEntry_memOk (acceptLaunch_memOk hs)) (waitAt_memOk (memOk_with hs))

theorem arcinitMeaning_keeps : arcinitMeaning.KeepsMem where
  stop hs := pageStop_memOk hs
  eff hs := globalAccess_memOk hs

theorem arcaddMeaning_keeps : arcaddMeaning.KeepsMem where
  hold hs := release92_memOk hs
  stop hs := pageStop_memOk hs
  eff hs := globalAccess_memOk hs

theorem arcStop_memOk {i} (hs : s.memOk) : (s.arcStop i).1.memOk := fillTlb_memOk (pageStop_memOk (judge_memOk hs))
theorem arcAcquire_memOk {i ls} (hs : s.memOk) : (s.arcAcquire i ls).memOk := acquire_memOk hs

theorem arcwaitMeaning_keeps : arcwaitMeaning.KeepsMem where
  hold hs := acquireHold_memOk hs
  stop hs := arcStop_memOk hs
  eff hs := tokDown_memOk (arcAcquire_memOk (foldl_memOk hs fun _ _ ht => setPath_memOk ht))

theorem arcGo_memOk {p ts} (hs : s.memOk) : (s.arcGo p ts).memOk := by
  dsimp only [State.arcGo]
  split
  · exact hs
  · split
    · exact hs
    · refine ite_memOk hs ?_
      exact stepOver_memOk (setTeam_memOk (tokDown_memOk (account_memOk (arcAcquire_memOk (splitPath_memOk hs)))))

theorem seeCounters_memOk (hs : s.memOk) : s.seeCounters.memOk := memOk_with hs

theorem performAny_memOk {id} (hs : s.memOk) : (s.performAny id).memOk := by
  dsimp only [State.performAny]
  split
  · exact performAll_memOk (fun _ ht => seeCounters_memOk ht) (fun _ _ ht => performDep_memOk ht) hs
  · refine performAll_memOk ?_ (fun _ _ ht => performAcc_memOk ht) hs
    intro _ ht
    split
    · exact seeCounters_memOk ht
    · exact ht
  · exact hs

theorem pollCounter_memOk {x} (hs : s.memOk) : (s.pollCounter x).memOk := by
  dsimp only [State.pollCounter]
  exact sendReq_memOk hs

theorem arcAnswer_memOk {t bs} (hs : s.memOk) : (s.arcAnswer t bs).memOk := ite_memOk (memOk_with hs) hs

theorem execLaunchRecordAccept_memOk {q} (hs : s.memOk) : NextOk (execLaunchRecordAccept q s) := by
  dsimp only [execLaunchRecordAccept]
  refine nextOk ?_
  split
  · exact ite_memOk (acceptEntry_memOk hs) (serveQueue_memOk hs)
  · exact serveQueue_memOk hs

theorem execCoherencePointAccess_memOk {req} (hs : s.memOk) : NextOk (execCoherencePointAccess req s) :=
  nextOk (performAny_memOk hs)

theorem execMemoryResponse_memOk {req} (hs : s.memOk) : NextOk (execMemoryResponse req s) := nextOk (respond_memOk hs)

/-! ## The operations of Sys2Proof/Machine/Frames.lean -/

theorem setFrame_memOk {n f} (hs : s.memOk) : (s.setFrame n f).memOk := memOk_withMem hs

theorem startScrub_memOk {fs fn bad} (hs : s.memOk) : (s.startScrub fs fn bad).memOk :=
  l2Drop_memOk (memOk_withMem (foldl_memOk (freshId_memOk hs) fun _ _ ht => setFrame_memOk ht))

theorem endScrub_memOk {x} (hs : s.memOk) : (s.endScrub x).memOk := by
  have h : (x.frames.foldl (fun s n => s.setFrame n {}) s).memOk := foldl_memOk hs fun _ _ ht => setFrame_memOk ht
  exact memOk_iff.2 ⟨filter_wf _ _ (memOk_iff.1 h).1, (memOk_iff.1 h).2⟩

/-! ## The operations of Sys2Proof/Machine/Placement.lean -/

theorem setPlace_memOk {part n f} (hs : s.memOk) : (s.setPlace part n f).memOk := by
  dsimp only [State.setPlace]
  split
  · exact setPart_memOk hs
  · exact hs

theorem mapShard_memOk {part fs lbl} (hs : s.memOk) : (s.mapShard part fs lbl).memOk :=
  foldl_memOk hs fun _ _ ht => setFrame_memOk ht

theorem pldemGo_memOk {p} (hs : s.memOk) : (s.pldemGo p).memOk := by
  dsimp only [State.pldemGo]
  split
  · exact hs
  · split
    · exact hs
    · exact stepOver_memOk (tokDown_memOk (account_memOk (acquire_memOk hs)))

theorem pldemWake_memOk {pids} (hs : s.memOk) : (s.pldemWake pids).memOk := by
  dsimp only [State.pldemWake]
  refine foldl_memOk hs ?_
  intro _ _ ht
  split
  · exact ite_memOk (pldemGo_memOk ht) ht
  · exact ht

theorem placeFlt_memOk {p detail} (hs : s.memOk) : (s.placeFlt p detail).memOk := takeFault_memOk hs

theorem pldemFault_memOk {pids detail} (hs : s.memOk) : (s.pldemFault pids detail).memOk := by
  dsimp only [State.pldemFault]
  refine foldl_memOk hs ?_
  intro _ _ ht
  split
  · refine ite_memOk (placeFlt_memOk ht) ?_
    split
    · exact setPath_memOk ht
    · exact ht
  · exact ht

theorem pldemDrop_memOk {part entry pid} (hs : s.memOk) : (s.pldemDrop part entry pid).memOk := memOk_with hs

theorem pldemBack_memOk {pid} (hs : s.memOk) : (s.pldemBack pid).memOk := by
  dsimp only [State.pldemBack]
  split
  · exact hs
  · split
    · exact placeFlt_memOk hs
    · exact ite_memOk (ite_memOk (pldemDrop_memOk hs) hs) (pldemGo_memOk (ite_memOk (pldemDrop_memOk hs) hs))
    · exact hs

theorem setConv_memOk {part entry f} (hs : s.memOk) : (s.setConv part entry f).memOk := memOk_with hs
theorem dropConv_memOk {part entry} (hs : s.memOk) : (s.dropConv part entry).memOk := memOk_with hs
theorem takeReqs_memOk {part entry f} (hs : s.memOk) : (s.takeReqs part entry f).2.memOk := memOk_with hs

theorem convStart_memOk {part entry conv demand home reqs} (hs : s.memOk) :
    (s.convStart part entry conv demand home reqs).memOk := by
  dsimp only [State.convStart]
  split
  · exact hs
  · exact memOk_withMem (setPlace_memOk hs)

theorem convReq_memOk {c st off data len} (hs : s.memOk) : (s.convReq c st off data len).memOk := sendReq_memOk hs

theorem convMove_memOk {part entry} (hs : s.memOk) : (s.convMove part entry).memOk := by
  dsimp only [State.convMove]
  split
  · exact foldl_memOk (setConv_memOk hs) fun _ _ ht => ite_memOk (foldl_memOk ht fun _ _ hu => convReq_memOk hu)
      (foldl_memOk ht fun _ _ hu => convReq_memOk hu)
  · exact hs

theorem convFill_memOk {m p c} (hs : s.memOk) : (s.convFill m p c).memOk := by
  refine foldl_memOk hs ?_
  intro t _ ht
  split
  · exact memOk_iff.2 ⟨csets_wf _ _ _ (memOk_iff.1 ht).1, (memOk_iff.1 ht).2⟩
  · exact ht

theorem convSwitch_memOk {part entry} (hs : s.memOk) : (s.convSwitch part entry).memOk := by
  dsimp only [State.convSwitch]
  split
  · exact pldemWake_memOk (takeReqs_memOk (dropConv_memOk (startScrub_memOk (memOk_withMem (setPlace_memOk hs)))))
  · exact hs

theorem convAbandon_memOk {part entry reason} (hs : s.memOk) : (s.convAbandon part entry reason).memOk := by
  dsimp only [State.convAbandon]
  split
  · exact pldemFault_memOk (takeReqs_memOk (dropConv_memOk (ite_memOk (memOk_withMem (setPlace_memOk hs)) (startScrub_memOk
      (memOk_withMem (setPlace_memOk hs))))))
  · exact hs

theorem convCast_memOk {part p typ body} (hs : s.memOk) : (s.convCast part p typ body).memOk :=
  foldl_memOk hs fun _ _ ht => sendMsg_memOk ht

theorem reqDone_memOk {part entry r epoch} (hs : s.memOk) : (s.reqDone part entry r epoch).memOk :=
  ite_memOk (pldemWake_memOk hs) (sendMsg_memOk hs)

theorem reqRefuse_memOk {part entry r} (hs : s.memOk) : (s.reqRefuse part entry r).memOk :=
  ite_memOk (pldemFault_memOk hs) (sendMsg_memOk hs)

theorem homeAbandon_memOk {part entry reason} (hs : s.memOk) : (s.homeAbandon part entry reason).memOk := by
  dsimp only [State.homeAbandon]
  split
  · exact convAbandon_memOk (convCast_memOk hs)
  · exact hs

theorem convBreak_memOk {part entry reason} (hs : s.memOk) : (s.convBreak part entry reason).memOk := by
  dsimp only [State.convBreak]
  split
  · exact ite_memOk (homeAbandon_memOk hs) (sendMsg_memOk hs)
  · exact hs

theorem convAnswer_memOk {part entry st status} (hs : s.memOk) : (s.convAnswer part entry st status).memOk := by
  dsimp only [State.convAnswer]
  split
  · refine ite_memOk (homeAbandon_memOk hs) ?_
    exact ite_memOk hs (ite_memOk (convSwitch_memOk (convCast_memOk (setConv_memOk hs))) (setConv_memOk hs))
  · exact hs

theorem convReady_memOk {part entry status} (hs : s.memOk) : (s.convReady part entry status).memOk := by
  dsimp only [State.convReady]
  split
  · exact ite_memOk (convAnswer_memOk hs) (sendMsg_memOk hs)
  · exact hs

theorem convProgress_memOk {part entry} (hs : s.memOk) : (s.convProgress part entry).memOk := by
  dsimp only [State.convProgress]
  split
  · exact ite_memOk (convReady_memOk (setConv_memOk (convFill_memOk hs))) hs
  · exact hs

theorem convAlloc_memOk {part entry base lbl} (hs : s.memOk) : (s.convAlloc part entry base lbl).memOk := by
  dsimp only [State.convAlloc]
  split
  · refine ite_memOk (setConv_memOk (mapShard_memOk hs)) ?_
    refine ite_memOk (convReady_memOk hs) ?_
    split
    · exact convBreak_memOk (rowError_memOk (setConv_memOk (mapShard_memOk hs)))
    · exact convProgress_memOk (convMove_memOk (convReady_memOk (setConv_memOk (mapShard_memOk hs))))
  · exact hs

theorem homeStart_memOk {part entry p demand reqs} (hs : s.memOk) : (s.homeStart part entry p demand reqs).memOk := by
  dsimp only [State.homeStart]
  split
  · exact homeAbandon_memOk (convStart_memOk (convCast_memOk (setPart_memOk hs)))
  · exact convAlloc_memOk (convCast_memOk (convStart_memOk (convCast_memOk (setPart_memOk hs))))

theorem homeTurn_memOk {part entry n s} (hs : s.memOk) : (State.homeTurn s part entry n).memOk := by
  induction n generalizing s with
  | zero => exact hs
  | succ n ih =>
    unfold State.homeTurn
    split
    · dsimp only
      split
      · exact ih (foldl_memOk hs fun _ _ h => reqDone_memOk h)
      · split
        · exact ih (foldl_memOk hs fun _ _ h => reqRefuse_memOk h)
        · exact ih (homeStart_memOk hs)
    · exact hs

theorem homeRequest_memOk {part entry r} (hs : s.memOk) : (s.homeRequest part entry r).memOk := by
  dsimp only [State.homeRequest]
  split
  · refine ite_memOk (ite_memOk (setConv_memOk hs) (convAlloc_memOk (convCast_memOk (setConv_memOk hs)))) ?_
    exact memOk_with hs
  · exact homeTurn_memOk (memOk_with hs)

theorem homeNext_memOk {part entry} (hs : s.memOk) : (s.homeNext part entry).memOk := by
  dsimp only [State.homeNext]
  split
  · exact ite_memOk (homeTurn_memOk hs) hs
  · exact hs

theorem plStop_memOk {i} (hs : s.memOk) : (s.plStop i).1.memOk := hs

theorem plRequest_memOk {i l} (hs : s.memOk) : (s.plRequest i l).memOk := by
  dsimp only [State.plRequest]
  split
  · exact hs
  · exact ite_memOk (homeRequest_memOk hs) (sendMsg_memOk (memOk_with hs))

theorem pldemMeaning_keeps : pldemMeaning.KeepsMem where
  hold hs := release92_memOk hs
  stop hs := plStop_memOk hs
  eff hs := tokDown_memOk (foldl_memOk hs fun _ _ ht => plRequest_memOk ht)

theorem plstateMeaning_keeps : plstateMeaning.KeepsMem where
  eff hs := putRes_memOk hs

theorem onMsg_memOk {h f} (hf : ∀ t, t.memOk → (f t).memOk) (hs : s.memOk) : NextOk (s.onMsg h f) := by
  refine nextOk ?_
  split
  · exact hf s hs
  · exact hs

theorem execPreq_memOk {h entry demand label core} (hs : s.memOk) : NextOk (execPreq h entry demand label core s) := by
  dsimp only [execPreq]
  refine onMsg_memOk ?_ hs
  intro _ ht
  split
  · exact ite_memOk (homeRequest_memOk ht) ht
  · exact ht

theorem execPstart_memOk {h entry conv demand epoch} (hs : s.memOk) : NextOk (execPstart h entry conv demand epoch s) :=
  onMsg_memOk (fun _ ht => ite_memOk ht (convStart_memOk ht)) hs

theorem execPalloc_memOk {h entry conv base lnew} (hs : s.memOk) : NextOk (execPalloc h entry conv base lnew s) :=
  onMsg_memOk (fun _ ht => ite_memOk (convAlloc_memOk ht) ht) hs

theorem execPready_memOk {h entry conv status} (hs : s.memOk) : NextOk (execPready h entry conv status s) :=
  onMsg_memOk (fun _ ht => ite_memOk (homeNext_memOk (convAnswer_memOk ht)) ht) hs

theorem execPswitch_memOk {h entry conv} (hs : s.memOk) : NextOk (execPswitch h entry conv s) :=
  onMsg_memOk (fun _ ht => ite_memOk (convSwitch_memOk ht) ht) hs

theorem execPabandon_memOk {h entry conv reason} (hs : s.memOk) : NextOk (execPabandon h entry conv reason s) := by
  dsimp only [execPabandon]
  refine onMsg_memOk ?_ hs
  intro _ ht
  split
  · exact ite_memOk ht (ite_memOk (homeNext_memOk (homeAbandon_memOk ht)) (convAbandon_memOk ht))
  · split
    · exact pldemFault_memOk (takeReqs_memOk ht)
    · exact ht
  · exact ht

theorem execPdone_memOk {h entry conv epoch} (hs : s.memOk) : NextOk (execPdone h entry conv epoch s) := by
  dsimp only [execPdone]
  refine onMsg_memOk ?_ hs
  intro _ ht
  split
  · exact pldemWake_memOk (takeReqs_memOk ht)
  · exact ht

/-! ## The operations of Sys2Proof/Machine/Service.lean -/

theorem gatePages_memOk {i} (hs : s.memOk) : (s.gatePages i).1.memOk := reportPages_memOk hs

theorem gateLane_memOk {i park l} (hs : s.memOk) : (s.gateLane i park l).1.memOk := by
  dsimp only [State.gateLane]
  split
  · exact hs
  · split
    · exact hs
    · split
      · exact hs
      · refine ite_fst_memOk hs ?_
        exact ite_fst_memOk hs (ite_fst_memOk hs (ite_fst_memOk hs (memOk_with (freshId_memOk hs))))

theorem gateStop_memOk {i} (hs : s.memOk) : (s.gateStop i).1.memOk := by
  dsimp only [State.gateStop]
  exact laneLoop_memOk (fun _ _ ht => gateLane_memOk ht) (freshId_memOk (gatePages_memOk hs))

theorem gateMeaning_keeps : gateMeaning.KeepsMem where
  hold hs := release92_memOk hs
  stop hs := gateStop_memOk hs
  eff hs := hs

theorem goBehind_memOk {p acq} (hs : s.memOk) : (s.goBehind p acq).memOk := by
  dsimp only [State.goBehind]
  split
  · exact hs
  · split
    · exact hs
    · refine stepOver_memOk (tokDown_memOk (account_memOk ?_))
      split
      · exact acquire_memOk hs
      · exact hs

theorem gateWake_memOk (hs : s.memOk) : s.gateWake.memOk := foldl_memOk hs fun _ _ ht => goBehind_memOk ht
theorem setGate_memOk {id f} (hs : s.memOk) : (s.setGate id f).memOk := memOk_with hs
theorem dropGate_memOk {id} (hs : s.memOk) : (s.dropGate id).memOk := memOk_with hs

theorem gateMove_memOk {x core part ctx off n} (hs : s.memOk) : (s.gateMove x core part ctx off n).1.memOk := by
  dsimp only [State.gateMove]
  split
  · split
    · rename_i e
      exact setGate_memOk (memOk_of_fst e (engWrite_memOk hs))
    · rename_i e
      exact setGate_memOk (sendReq_memOk (memOk_of_fst e (engWrite_memOk hs)))
    · rename_i e
      exact setGate_memOk (memOk_of_fst e (engWrite_memOk hs))
    · rename_i e
      refine ite_memOk (engFault_memOk (dropGate_memOk (memOk_of_fst e (engWrite_memOk hs)))) ?_
      exact teamFault_memOk (dropGate_memOk (memOk_of_fst e (engWrite_memOk hs)))
  · exact setGate_memOk hs
  · exact ite_memOk (engFault_memOk (dropGate_memOk hs)) (teamFault_memOk (dropGate_memOk hs))
  · split
    · split
      · rename_i e
        exact setGate_memOk (memOk_of_fst e (engWrite_memOk hs))
      · rename_i e
        exact setGate_memOk (sendReq_memOk (memOk_of_fst e (engWrite_memOk hs)))
      · rename_i e
        exact setGate_memOk (memOk_of_fst e (engWrite_memOk hs))
      · rename_i e
        refine ite_memOk (engFault_memOk (dropGate_memOk (memOk_of_fst e (engWrite_memOk hs)))) ?_
        exact teamFault_memOk (dropGate_memOk (memOk_of_fst e (engWrite_memOk hs)))
    · exact sendReq_memOk hs

theorem gateAdvance_memOk {id} (hs : s.memOk) : (s.gateAdvance id).memOk := by
  dsimp only [State.gateAdvance]
  split
  · exact hs
  · split
    · exact dropGate_memOk hs
    · refine ite_memOk (teamFault_memOk (dropGate_memOk hs)) ?_
      split
      · refine foldl_fst_memOk hs ?_
        rintro ⟨_, _⟩ _ ht
        dsimp only
        refine ite_fst_memOk ?_ ht
        split
        · exact gateMove_memOk ht
        · exact ht
      · refine ite_memOk ?_ ?_
        · refine gateWake_memOk (dropGate_memOk (joinWct_memOk (foldl_fst_memOk hs ?_)))
          rintro ⟨_, _⟩ _ ht
          dsimp only
          refine ite_fst_memOk ?_ ht
          split
          · exact gateMove_memOk ht
          · exact ht
        · refine foldl_fst_memOk hs ?_
          rintro ⟨_, _⟩ _ ht
          dsimp only
          refine ite_fst_memOk ?_ ht
          split
          · exact gateMove_memOk ht
          · exact ht

theorem lblrdMeaning_keeps : lblrdMeaning.KeepsMem where
  stop hs := ite_fst_memOk (pageStop_memOk hs) hs
  eff hs := putRes_memOk (judge_memOk hs)

theorem syscallStop_memOk {i} (hs : s.memOk) : (s.syscallStop i).1.memOk :=
  foldl_memOk (freshId_memOk hs) fun _ _ ht => memOk_with (freshId_memOk ht)

theorem syscallMeaning_keeps : syscallMeaning.KeepsMem where
  hold hs := release92_memOk hs
  stop hs := syscallStop_memOk hs
  eff hs := hs

theorem service1_memOk {c part ctx core} (hs : s.memOk) : (s.service1 c part ctx core).2.memOk := by
  dsimp only [State.service1]
  split
  · exact hs
  · exact ite_snd_memOk hs (foldl_fst_memOk hs fun ⟨_, _⟩ _ ht => cohWrite_memOk ht)

theorem service2_memOk {c core part ctx} (hs : s.memOk) : (s.service2 c core part ctx).2.memOk := by
  dsimp only [State.service2]
  split
  · exact hs
  · exact ite_snd_memOk (postRecord_memOk hs) hs

theorem serve_memOk {c t core} (hs : s.memOk) : (s.serve c t core).2.memOk := by
  dsimp only [State.serve]
  refine ite_snd_memOk hs ?_
  refine ite_snd_memOk (ite_snd_memOk hs (service1_memOk hs)) ?_
  exact ite_snd_memOk (ite_snd_memOk hs (service2_memOk hs)) hs

theorem callGo_memOk {p} (hs : s.memOk) : (s.callGo p).memOk := by
  dsimp only [State.callGo]
  split
  · exact hs
  · exact goBehind_memOk (foldl_memOk (foldl_memOk (memOk_with hs) fun _ _ ht => writeReg_memOk ht)
      fun _ _ ht => applyLbl_memOk ht)

theorem callWake_memOk (hs : s.memOk) : s.callWake.memOk := foldl_memOk hs fun _ _ ht => callGo_memOk ht
theorem callEnd_memOk {c status} (hs : s.memOk) : (s.callEnd c status).memOk := callWake_memOk (memOk_with hs)

theorem reply_memOk {id} (hs : s.memOk) : (s.reply id).memOk := by
  dsimp only [State.reply]
  split
  · exact hs
  · split
    · exact memOk_with hs
    · exact callEnd_memOk (serve_memOk hs)

theorem execGateTransferAck_memOk {gate} (hs : s.memOk) : NextOk (execGateTransferAck gate s) := nextOk (gateAdvance_memOk hs)
theorem execSyscallReply_memOk {call} (hs : s.memOk) : NextOk (execSyscallReply call s) := nextOk (reply_memOk hs)

theorem execSyscallTimeout_memOk {call} (hs : s.memOk) : NextOk (execSyscallTimeout call s) := by
  dsimp only [execSyscallTimeout]
  refine nextOk ?_
  split
  · exact callEnd_memOk hs
  · exact hs

/-! ## The operations of Sys2Proof/Machine/Sched.lean -/

theorem markHeld_memOk {core quad} (hs : s.memOk) : (s.markHeld core quad).memOk := memOk_with hs
theorem mergePaths_memOk {core quad} (hs : s.memOk) : (s.mergePaths core quad).memOk := memOk_with hs
theorem passWait_memOk {ls h} (hs : s.memOk) : (s.passWait ls h).memOk := foldl_memOk hs fun _ _ ht => setThr_memOk ht

theorem skipClause_memOk {pid h} (hs : s.memOk) : (s.skipClause pid h).memOk := by
  dsimp only [State.skipClause]
  refine setPath_memOk ?_
  split
  · exact passWait_memOk hs
  · exact hs

theorem evalPath_memOk {pid} (hs : s.memOk) : (s.evalPath pid).memOk := by
  dsimp only [State.evalPath]
  split
  · exact hs
  · refine ite_memOk hs ?_
    split
    · exact takeFault_memOk hs
    · refine ite_memOk (takeFault_memOk hs) ?_
      refine ite_memOk hs ?_
      refine ite_memOk (takeFault_memOk hs) ?_
      refine ite_memOk (joinCtx_memOk hs) ?_
      refine ite_memOk (skipClause_memOk (joinCtx_memOk hs)) ?_
      exact skipClause_memOk (splitPath_memOk (joinCtx_memOk hs))

theorem openIg_memOk {core quad ps} (hs : s.memOk) : (s.openIg core quad ps).memOk := by
  dsimp only [State.openIg]
  split
  · exact hs
  · refine ite_memOk (memOk_with (ite_memOk (freshId_memOk hs) (passWait_memOk (freshId_memOk hs)))) ?_
    exact memOk_with (ite_memOk (freshId_memOk hs) (passWait_memOk (freshId_memOk hs)))

theorem formGroup_memOk {core quad} (hs : s.memOk) : (s.formGroup core quad).memOk := by
  dsimp only [State.formGroup]
  split
  · exact openIg_memOk (foldl_memOk (mergePaths_memOk hs) fun _ _ ht => evalPath_memOk ht)
  · exact foldl_memOk (mergePaths_memOk hs) fun _ _ ht => evalPath_memOk ht

theorem execQuadrantIssueCycle_memOk {core quad} (hs : s.memOk) : NextOk (execQuadrantIssueCycle core quad s) := by
  dsimp only [execQuadrantIssueCycle]
  refine nextOk ?_
  split
  · exact memOk_with (markHeld_memOk hs)
  · split
    · exact memOk_with (openSets_memOk (markHeld_memOk hs))
    · refine ite_memOk (formGroup_memOk (openSets_memOk (markHeld_memOk hs))) ?_
      exact openSets_memOk (markHeld_memOk hs)

theorem promote_memOk {pid} (hs : s.memOk) : (s.promote pid).memOk := by
  dsimp only [State.promote]
  split
  · exact memOk_with hs
  · exact hs

theorem execAgePromotion_memOk {pid} (hs : s.memOk) : NextOk (execAgePromotion pid s) := by
  dsimp only [execAgePromotion]
  refine nextOk ?_
  split
  · exact ite_memOk (promote_memOk hs) hs
  · exact hs

theorem execTeamctlPromotion_memOk {tid} (hs : s.memOk) : NextOk (execTeamctlPromotion tid s) := by
  dsimp only [execTeamctlPromotion]
  refine nextOk ?_
  split
  · split
    · exact hs
    · exact ite_memOk hs (setTeam_memOk (ite_memOk (foldl_memOk hs fun _ _ ht => promote_memOk ht) hs))
  · exact hs

/-! ## The operations of Sys2Proof/Machine/Pins.lean -/

theorem execLeaseExpiry_memOk {core line} (hs : s.memOk) : NextOk (execLeaseExpiry core line s) := nextOk (memOk_withMem hs)

theorem execPinnedRetry_memOk {req} (hs : s.memOk) : NextOk (execPinnedRetry req s) :=
  nextOk (ite_memOk (performAny_memOk hs) hs)

theorem pinTimeouts_memOk {r} (hs : s.memOk) : (s.pinTimeouts r).memOk :=
  foldl_memOk hs fun _ _ ht => ite_memOk (accFault_memOk ht) ht

theorem execPinnedLineTimeout_memOk {req} (hs : s.memOk) : NextOk (execPinnedLineTimeout req s) := by
  dsimp only [execPinnedLineTimeout]
  refine nextOk ?_
  split
  · exact pinTimeouts_memOk hs
  · exact hs

/-! ## The operations of Sys2Proof/Machine/Teams.lean -/

theorem startThread_memOk {tid st x grp lane} (hs : s.memOk) : (s.startThread tid st x grp lane).memOk := by
  dsimp only [State.startThread]
  refine ite_memOk (vSet_memOk (foldl_memOk (setThr_memOk hs) fun _ _ ht => vSet_memOk ht)) ?_
  exact foldl_memOk (setThr_memOk hs) fun _ _ ht => vSet_memOk ht

theorem startPath_memOk {tid st late grp g quad all mask} (hs : s.memOk) : (s.startPath tid st late grp g quad all mask).memOk :=
  ite_memOk hs (memOk_with (freshId_memOk hs))

theorem startGroup_memOk {tid st x grp g} (hs : s.memOk) : (s.startGroup tid st x grp g).memOk := by
  dsimp only [State.startGroup]
  exact foldl_memOk (setTileLbl_memOk (sSet_memOk (ite_memOk (foldl_memOk (memOk_with hs) fun _ _ ht => startThread_memOk ht)
      (foldl_memOk (foldl_memOk (memOk_with hs) fun _ _ ht => startThread_memOk ht)
      fun _ _ ht => setTileLbl_memOk ht)))) fun _ _ ht => startPath_memOk ht

theorem dealAreas_memOk {tid st recs} (hs : s.memOk) : (s.dealAreas tid st recs).memOk :=
  foldl_memOk hs fun _ _ ht => dealArea_memOk ht

theorem startAcquire_memOk {part f x} (hs : s.memOk) : (s.startAcquire part f x).memOk :=
  foldl_memOk hs fun _ _ ht => acquireAt_memOk ht

theorem startTeam_memOk {tid st x f} (hs : s.memOk) : (s.startTeam tid st x f).memOk :=
  startAcquire_memOk (dealAreas_memOk (foldl_memOk (foldl_memOk (memOk_with hs) fun _ _ ht => startGroup_memOk ht)
      fun _ _ ht => trimL1_memOk ht))

theorem openRun_memOk {part ctx stage} (hs : s.memOk) : (s.openRun part ctx stage).2.memOk := by
  dsimp only [State.openRun]
  split
  · exact hs
  · exact memOk_with (freshId_memOk hs)

theorem nextTeam_memOk {run} (hs : s.memOk) : (s.nextTeam run).2.memOk := by
  dsimp only [State.nextTeam]
  split
  · exact memOk_with hs
  · exact hs

theorem formOfRecs_memOk {part ctx stage st f recs late} (hs : s.memOk) : (s.formOfRecs part ctx stage st f recs late).memOk := by
  dsimp only [State.formOfRecs]
  exact startTeam_memOk (freshId_memOk (nextTeam_memOk (openRun_memOk hs)))

theorem formOfLaunch_memOk {st f lr late} (hs : s.memOk) : (s.formOfLaunch st f lr late).memOk := by
  dsimp only [State.formOfLaunch]
  exact startTeam_memOk (freshId_memOk (nextTeam_memOk hs))

/-! ## The operations of Sys2Proof/Machine/Save.lean -/

theorem gpaWrite_memOk {part gpa bs} (hs : s.memOk) : (s.gpaWrite part gpa bs).memOk := by
  dsimp only [State.gpaWrite]
  refine foldl_memOk hs ?_
  intro _ _ ht
  split
  · exact cohWrite_memOk ht
  · exact ht

theorem writeImage_memOk {tid key relaunch} (hs : s.memOk) : SomeOk (s.writeImage tid key relaunch) := by
  unfold State.writeImage
  split
  · exact someOk_none
  · dsimp only
    split
    · exact someOk_none
    · exact someOk (gpaWrite_memOk hs)

theorem parkAges_memOk {tid} (hs : s.memOk) : (s.parkAges tid).memOk := memOk_with hs

theorem leaveCores_memOk {tid t} (hs : s.memOk) : (s.leaveCores tid t).memOk :=
  serveOsb_memOk (setTeam_memOk (memOk_with (parkAges_memOk hs)))

theorem noRoom_memOk {tid t} (hs : s.memOk) : (s.noRoom tid t).memOk := by
  dsimp only [State.noRoom]
  split
  · exact teamFault_memOk hs
  · exact pfReport_memOk (setTeam_memOk hs)

theorem saveTeam_memOk {tid} (hs : s.memOk) : (s.saveTeam tid).memOk := by
  dsimp only [State.saveTeam]
  split
  · exact hs
  · refine ite_memOk (unpinTeam_memOk hs) ?_
    split
    · rename_i e
      exact leaveCores_memOk ((writeImage_memOk (unpinTeam_memOk hs)) _ e)
    · exact noRoom_memOk hs

theorem discardTeam_memOk {tid} (hs : s.memOk) : (s.discardTeam tid).memOk := by
  dsimp only [State.discardTeam]
  split
  · exact hs
  · split
    · exact noRoom_memOk (freshId_memOk hs)
    · rename_i e
      exact memOk_with (freeTeam_memOk (unpinTeam_memOk ((writeImage_memOk (freshId_memOk hs)) _ e)))

theorem execTeamSave_memOk {tid} (hs : s.memOk) : NextOk (execTeamSave tid s) := by
  dsimp only [execTeamSave]
  refine nextOk (ite_memOk hs ?_)
  split
  · exact ite_memOk (discardTeam_memOk hs) (saveTeam_memOk hs)
  · exact hs

theorem preempt_memOk {tid drainOk} (hs : s.memOk) : (s.preempt tid drainOk).memOk := by
  dsimp only [State.preempt]
  split
  · refine ite_memOk hs ?_
    split <;> exact setTeam_memOk hs
  · exact hs

theorem execDrainDeadlineExpiry_memOk {tid} (hs : s.memOk) : NextOk (execDrainDeadlineExpiry tid s) := by
  dsimp only [execDrainDeadlineExpiry]
  refine nextOk ?_
  split
  · exact ite_memOk (preempt_memOk hs) hs
  · exact hs

theorem reloadPlates_memOk {tid core} (hs : s.memOk) : (s.reloadPlates tid core).memOk :=
  foldl_memOk hs fun _ _ ht => memOk_with (setPlate_memOk (freshId_memOk ht))

theorem placeBack_memOk {tid f} (hs : s.memOk) : (s.placeBack tid f).memOk :=
  memOk_with (foldl_memOk hs fun _ _ ht => setGroup_memOk ht)

theorem resumeWaits_memOk {tid core} (hs : s.memOk) : (s.resumeWaits tid core).memOk :=
  serveOsb_memOk (callWake_memOk (gateWake_memOk (foldl_memOk (wakeCopies_memOk (wakeLines_memOk hs))
      fun _ _ ht => pldemBack_memOk ht)))

theorem restoreSaved_memOk {tid t f} (hs : s.memOk) : (s.restoreSaved tid t f).memOk := by
  dsimp only [State.restoreSaved]
  refine ite_memOk (teamFault_memOk hs) ?_
  exact resumeWaits_memOk (reloadPlates_memOk (acquireAt_memOk (acquireAt_memOk (memOk_with (setTeam_memOk (freeImage_memOk
      (placeBack_memOk hs)))))))

theorem relaunch_memOk {tid t st f} (hs : s.memOk) : (s.relaunch tid t st f).memOk :=
  ite_memOk (teamFault_memOk hs) (startTeam_memOk (memOk_with (freeImage_memOk hs)))

theorem restore_memOk {tid st f} (hs : s.memOk) : (s.restore tid st f).memOk := by
  dsimp only [State.restore]
  split
  · exact ite_memOk (relaunch_memOk hs) (restoreSaved_memOk hs)
  · exact hs

/-! ## The operations of Sys2Proof/Machine/Slots.lean -/

theorem publishNear_memOk (hs : s.memOk) : s.publishNear.memOk := memOk_with hs
theorem publishFar_memOk (hs : s.memOk) : s.publishFar.memOk := memOk_with hs
theorem dropDecision_memOk {part core k found} (hs : s.memOk) : (s.dropDecision part core k found).memOk := memOk_with hs

theorem formLaunch_memOk {part core c k} (hs : s.memOk) : (s.formLaunch part core c k).memOk := by
  dsimp only [State.formLaunch]
  split
  · exact hs
  · split
    · split
      · exact dropDecision_memOk hs
      · refine formOfLaunch_memOk ?_
        refine ite_memOk (setQueue_memOk (subView_memOk hs)) ?_
        exact serveQueue_memOk (setQueue_memOk (subView_memOk hs))
    · exact dropDecision_memOk hs

theorem formRecs_memOk {part core c k} (hs : s.memOk) : (s.formRecs part core c k).memOk :=
  ite_memOk (dropDecision_memOk hs) (formOfRecs_memOk (subView_memOk (dequeue_memOk hs)))

theorem placeCand_memOk {part core c} (hs : s.memOk) : (s.placeCand part core c).memOk := by
  dsimp only [State.placeCand]
  split
  · exact restore_memOk hs
  · exact ite_memOk (formLaunch_memOk hs) (formRecs_memOk hs)

theorem execSlotDecision_memOk {part core} (hs : s.memOk) : NextOk (execSlotDecision part core s) := by
  dsimp only [execSlotDecision]
  refine nextOk (ite_memOk hs ?_)
  split
  · exact placeCand_memOk hs
  · exact hs

theorem execBatchwaitExpiry_memOk {q} (hs : s.memOk) : NextOk (execBatchwaitExpiry q s) := by
  dsimp only [execBatchwaitExpiry]
  refine nextOk ?_
  split
  · split
    · exact ite_memOk (placeCand_memOk hs) hs
    · exact hs
  · exact hs

theorem publishEarly_memOk (hs : s.memOk) : s.publishEarly.memOk := memOk_with hs

theorem execEphemerisPublish_memOk (hs : s.memOk) : NextOk (execEphemerisPublish s) := by
  dsimp only [execEphemerisPublish]
  refine nextOk ?_
  refine ite_memOk (publishFar_memOk (ite_memOk (publishEarly_memOk (publishNear_memOk hs)) hs)) ?_
  exact ite_memOk (publishEarly_memOk (publishNear_memOk hs)) hs

theorem retirePins_memOk {tid} (hs : s.memOk) : (s.retirePins tid).memOk := by
  dsimp only [State.retirePins]
  split
  · exact joinWct_memOk (unpinTeam_memOk hs)
  · exact unpinTeam_memOk hs

theorem credit_memOk {t} (hs : s.memOk) : (s.credit t).memOk := by
  dsimp only [State.credit]
  refine ite_memOk hs ?_
  refine ite_memOk (asyncReport_memOk hs) ?_
  split
  · exact sendReq_memOk hs
  · exact ite_memOk (cohWrite_memOk hs) (asyncReport_memOk hs)
  · exact asyncReport_memOk hs

theorem noteMean_memOk {t} (hs : s.memOk) : (s.noteMean t).memOk := setPart_memOk hs

theorem creditTeam_memOk {tid} (hs : s.memOk) : (s.creditTeam tid).memOk := by
  dsimp only [State.creditTeam]
  split
  · exact hs
  · exact setTeam_memOk (ite_memOk (asyncReport_memOk hs) (credit_memOk hs))

theorem retire_memOk {tid} (hs : s.memOk) : (s.retire tid).memOk := by
  dsimp only [State.retire]
  split
  · exact hs
  · exact wakeCopies_memOk (serveOsb_memOk (runEnd_memOk (freeTeam_memOk (noteMean_memOk hs))))

theorem execTeamRetirement_memOk {tid} (hs : s.memOk) : NextOk (execTeamRetirement tid s) := by
  dsimp only [execTeamRetirement]
  refine nextOk ?_
  refine ite_memOk hs ?_
  refine ite_memOk (retirePins_memOk hs) ?_
  refine ite_memOk hs ?_
  exact ite_memOk (ite_memOk (setTeam_memOk hs) (creditTeam_memOk hs)) (ite_memOk hs (retire_memOk hs))

theorem reportRun_memOk {id r} (hs : s.memOk) : (s.reportRun id r).memOk := memOk_with hs

theorem execStageRunCompletionReport_memOk {run} (hs : s.memOk) : NextOk (execStageRunCompletionReport run s) := by
  dsimp only [execStageRunCompletionReport]
  refine nextOk ?_
  split
  · exact ite_memOk (reportRun_memOk hs) hs
  · exact hs

/-! ## The operations of Sys2Proof/Machine/Forward.lean -/

theorem setPort_memOk {n f} (hs : s.memOk) : (s.setPort n f).memOk := memOk_with hs

theorem burst_memOk {k q port} (hs : s.memOk) : (s.burst k q port).memOk := by
  dsimp only [State.burst]
  exact ite_memOk (dequeue_memOk hs) (sendMsg_memOk (memOk_with (freshId_memOk (dequeue_memOk hs))))

theorem forward_memOk {part port} (hs : s.memOk) : (s.forward part port).memOk := by
  dsimp only [State.forward]
  refine ite_memOk (memOk_with hs) ?_
  split
  · exact burst_memOk (memOk_with hs)
  · exact memOk_with hs

theorem execForwardingDecision_memOk {part port} (hs : s.memOk) : NextOk (execForwardingDecision part port s) :=
  nextOk (ite_memOk (forward_memOk hs) hs)

theorem sendRefuse_memOk {h cause ref} (hs : s.memOk) : (s.sendRefuse h cause ref).memOk := sendMsg_memOk hs

theorem takeRenq_memOk {h req queue fwd rsz recs} (hs : s.memOk) : (s.takeRenq h req queue fwd rsz recs).memOk := by
  dsimp only [State.takeRenq]
  split
  · exact serveQueue_memOk (waitAt_memOk hs)
  · exact sendRefuse_memOk hs
  · exact hs

theorem execRenq_memOk {h req queue fwd rsz recs} (hs : s.memOk) : NextOk (execRenq h req queue fwd rsz recs s) :=
  onMsg_memOk (fun _ ht => takeRenq_memOk ht) hs

theorem dropRenq_memOk {req} (hs : s.memOk) : (s.dropRenq req).memOk := memOk_with hs

theorem renqEnd_memOk {o} (hs : s.memOk) : (s.renqEnd o).memOk := by
  dsimp only [State.renqEnd]
  refine foldl_memOk (dropRenq_memOk hs) ?_
  intro _ _ ht
  split
  · exact goBehind_memOk ht
  · exact ht

theorem execRenqack_memOk {h req status} (hs : s.memOk) : NextOk (execRenqack h req status s) := by
  dsimp only [execRenqack]
  refine onMsg_memOk ?_ hs
  intro _ ht
  split
  · exact ite_memOk (renqEnd_memOk ht) ht
  · exact ht

theorem execRefuse_memOk {h cause ref} (hs : s.memOk) : NextOk (execRefuse h cause ref s) := by
  dsimp only [execRefuse]
  refine onMsg_memOk ?_ hs
  intro _ ht
  split
  · exact asyncReport_memOk (renqEnd_memOk ht)
  · exact asyncReport_memOk ht

theorem publishRemote_memOk (hs : s.memOk) : s.publishRemote.memOk :=
  foldl_memOk (memOk_with hs) fun _ _ ht => foldl_memOk ht fun _ _ hu => sendMsg_memOk hu

theorem execEphemerisRemotePublication_memOk (hs : s.memOk) : NextOk (execEphemerisRemotePublication s) :=
  nextOk (publishRemote_memOk hs)

theorem execEphem_memOk {h es} (hs : s.memOk) : NextOk (execEphem h es s) :=
  onMsg_memOk (fun _ ht => foldl_memOk ht fun _ _ hu => memOk_with hu) hs

/-! ## The operations of Sys2Proof/Machine/Packet.lean -/

theorem setSlot_memOk {k f} (hs : s.memOk) : (s.setSlot k f).memOk := memOk_with hs
theorem slotStore_memOk {k off bs lbl} (hs : s.memOk) : (s.slotStore k off bs lbl).memOk := setSlot_memOk hs
theorem setLerr_memOk {fn slot cause sv} (hs : s.memOk) : (s.setLerr fn slot cause sv).memOk := setFn_memOk hs

theorem slotFail_memOk {k cause seq sv} (hs : s.memOk) : (s.slotFail k cause seq sv).memOk := by
  dsimp only [State.slotFail]
  refine ite_memOk ?_ ?_
  · split
    · exact sendMsg_memOk (setSlot_memOk hs)
    · exact setSlot_memOk hs
  · refine ite_memOk (raiseMsix_memOk (setLerr_memOk (setSlot_memOk hs))) ?_
    split
    · exact asyncReport_memOk (setLerr_memOk (setSlot_memOk hs))
    · exact setLerr_memOk (setSlot_memOk hs)

theorem joinGang_memOk {lr members} (hs : s.memOk) : (s.joinGang lr members).memOk := by
  dsimp only [State.joinGang]
  split
  · exact hs
  · exact setGang_memOk (ite_memOk hs (memOk_with hs))

theorem freeGangSlots_memOk {origin id} (hs : s.memOk) : (s.freeGangSlots origin id).memOk := by
  dsimp only [State.freeGangSlots]
  refine foldl_memOk hs ?_
  intro _ _ ht
  refine foldl_memOk ht ?_
  intro _ _ hu
  split
  · exact ite_memOk (freeSlot_memOk hu) hu
  · exact hu

theorem abortHere_memOk {origin id failed} (hs : s.memOk) : (s.abortHere origin id failed).memOk :=
  foldl_memOk (foldl_memOk (memOk_with (freeGangSlots_memOk hs)) fun _ _ ht => terminate_memOk ht)
      fun _ _ ht => foldl_memOk ht fun _ _ hu => report_memOk hu

theorem gangDecide_memOk {g} (hs : s.memOk) : (s.gangDecide g).memOk := by
  dsimp only [State.gangDecide]
  refine ite_memOk (setGang_memOk hs) ?_
  exact abortHere_memOk (foldl_memOk (setGang_memOk hs) fun _ _ ht => sendMsg_memOk ht)

theorem execGangDeadline_memOk {gang} (hs : s.memOk) : NextOk (execGangDeadline gang s) := by
  dsimp only [execGangDeadline]
  refine nextOk ?_
  split
  · exact gangDecide_memOk hs
  · exact hs

theorem execGangIdRetentionExpiry_memOk {gang} (hs : s.memOk) : NextOk (execGangIdRetentionExpiry gang s) :=
  nextOk (memOk_with hs)

theorem execGack_memOk {h gang deadline} (hs : s.memOk) : NextOk (execGack h gang deadline s) :=
  onMsg_memOk (fun _ ht => ite_memOk (ite_memOk ht (takeGack_memOk (memOk_with ht))) (takeGack_memOk ht)) hs

theorem execGabort_memOk {h gang} (hs : s.memOk) : NextOk (execGabort h gang s) :=
  onMsg_memOk (fun _ ht => abortHere_memOk (setGang_memOk (ite_memOk ht (memOk_with ht)))) hs

theorem enterLaunch_memOk {k lr} (hs : s.memOk) : (s.enterLaunch k lr).memOk := by
  dsimp only [State.enterLaunch]
  split
  · exact hs
  · exact ite_memOk (freeSlot_memOk (acceptLaunch_memOk hs)) (waitAt_memOk hs)

theorem takePacket_memOk {k seq} (hs : s.memOk) : (s.takePacket k seq).memOk := by
  dsimp only [State.takePacket]
  split
  · exact slotFail_memOk (setSlot_memOk hs)
  · split
    · refine ite_memOk (freeSlot_memOk (setSlot_memOk hs)) ?_
      exact enterLaunch_memOk (joinGang_memOk (setSlot_memOk hs))
    · exact slotFail_memOk (setSlot_memOk hs)
    · exact setSlot_memOk hs

theorem seeSeal_memOk {k} (hs : s.memOk) : (s.seeSeal k).memOk := by
  dsimp only [State.seeSeal]
  split
  · exact ite_memOk (takePacket_memOk hs) hs
  · exact hs

theorem beginSlot_memOk {k seq src adm} (hs : s.memOk) : (s.beginSlot k seq src adm).memOk := seeSeal_memOk (setSlot_memOk hs)

theorem notify_memOk {fn bytes val} (hs : s.memOk) : (s.notify fn bytes val).memOk := by
  dsimp only [State.notify]
  refine ite_memOk (setLerr_memOk hs) ?_
  refine ite_memOk (setLerr_memOk hs) ?_
  exact ite_memOk (setLerr_memOk hs) (ite_memOk (setLerr_memOk hs) (beginSlot_memOk hs))

theorem execNotifyWrite_memOk {fn bytes val} (hs : s.memOk) : NextOk (execNotifyWrite fn bytes val s) :=
  nextOk (ite_memOk (notify_memOk hs) hs)

theorem execLaunchSlotWrite_memOk {fn slot off data} (hs : s.memOk) : NextOk (execLaunchSlotWrite fn slot off data s) :=
  nextOk (ite_memOk (seeSeal_memOk (slotStore_memOk hs)) hs)

theorem execSealWaitTimeout_memOk {k} (hs : s.memOk) : NextOk (execSealWaitTimeout k s) := by
  dsimp only [execSealWaitTimeout]
  refine nextOk ?_
  split
  · exact ite_memOk (slotFail_memOk hs) hs
  · exact hs

theorem execLerrClear_memOk {fn val} (hs : s.memOk) : NextOk (execLerrClear fn val s) := nextOk (ite_memOk (setFn_memOk hs) hs)

theorem execNotifyMsg_memOk {h seq slot} (hs : s.memOk) : NextOk (execNotifyMsg h seq slot s) :=
  onMsg_memOk (fun _ ht => ite_memOk (sendRefuse_memOk ht) (ite_memOk (sendRefuse_memOk ht) (ite_memOk (sendRefuse_memOk ht)
      (ite_memOk (sendRefuse_memOk ht) (beginSlot_memOk ht))))) hs

/-! ## The operations of Sys2Proof/Machine/FaultQ.lean -/

theorem settled_memOk {token} (hs : s.memOk) : (s.settled token).memOk := memOk_with hs

theorem reissue_memOk {x} (hs : s.memOk) : (s.reissue x).memOk := by
  dsimp only [State.reissue]
  split
  · exact setChain_memOk (settled_memOk hs)
  · exact wakeIf_memOk (settled_memOk hs)

theorem settleEnd_memOk {x detail gpa} (hs : s.memOk) : (s.settleEnd x detail gpa).memOk := teamFault_memOk (settled_memOk hs)

theorem execFqresReissue_memOk {fn token} (hs : s.memOk) : NextOk (execFqresReissue fn token s) := by
  dsimp only [execFqresReissue]
  refine nextOk ?_
  split
  · exact reissue_memOk hs
  · exact hs

theorem execFqresTerminate_memOk {fn token} (hs : s.memOk) : NextOk (execFqresTerminate fn token s) := by
  dsimp only [execFqresTerminate]
  refine nextOk ?_
  split
  · exact settleEnd_memOk hs
  · exact hs

theorem execFqresReflect_memOk {fn token} (hs : s.memOk) : NextOk (execFqresReflect fn token s) := by
  dsimp only [execFqresReflect]
  refine nextOk ?_
  split
  · exact ite_memOk (settleEnd_memOk hs) hs
  · exact hs

theorem execFaultResolutionTimeout_memOk {token} (hs : s.memOk) : NextOk (execFaultResolutionTimeout token s) := by
  dsimp only [execFaultResolutionTimeout]
  refine nextOk ?_
  split
  · exact ite_memOk (settleEnd_memOk hs) hs
  · exact hs

/-! ## The operations of Sys2Proof/Machine/Regs.lean -/

theorem setHifdrv_memOk {fn val} (hs : s.memOk) : (s.setHifdrv fn val).memOk := setFn_memOk hs
theorem setApbase_memOk {fn val} (hs : s.memOk) : (s.setApbase fn val).memOk := setFn_memOk hs

theorem setLease_memOk {fn val} (hs : s.memOk) : (s.setLease fn val).memOk := by
  dsimp only [State.setLease]
  split
  · exact setPart_memOk hs
  · exact hs

theorem mbDone_memOk {fn code} (hs : s.memOk) : (s.mbDone fn code).memOk := setFn_memOk hs
theorem cfgDone_memOk {fn code} (hs : s.memOk) : (s.cfgDone fn code).memOk := setFn_memOk hs

theorem mbDoor_memOk {fn} (hs : s.memOk) : (s.mbDoor fn).memOk := by
  dsimp only [State.mbDoor]
  refine ite_memOk hs ?_
  split
  · exact memOk_with (setFn_memOk hs)
  · exact mbDone_memOk hs

theorem cfgDoor_memOk {fn} (hs : s.memOk) : (s.cfgDoor fn).memOk := by
  dsimp only [State.cfgDoor]
  refine ite_memOk hs ?_
  split
  · exact memOk_with (setFn_memOk hs)
  · exact cfgDone_memOk hs

theorem fqres_memOk {fn val} (hs : s.memOk) : (s.fqres fn val).memOk := by
  dsimp only [State.fqres]
  split
  · exact reissue_memOk hs
  · exact settleEnd_memOk hs
  · exact ite_memOk (settleEnd_memOk hs) hs
  · exact hs

theorem setVfctl_memOk {vf val} (hs : s.memOk) : (s.setVfctl vf val).memOk := setFn_memOk hs
theorem setAcl_memOk {off bytes val} (hs : s.memOk) : (s.setAcl off bytes val).memOk := setPart_memOk hs

theorem writeCfg_memOk {fn off bytes val} (hs : s.memOk) : (s.writeCfg fn off bytes val).memOk :=
  ite_memOk (ite_memOk hs (setFn_memOk hs)) (ite_memOk (ite_memOk (cfgDoor_memOk hs) hs) hs)

theorem writeQueueReg_memOk {fn off bytes val} (hs : s.memOk) : (s.writeQueueReg fn off bytes val).memOk := by
  dsimp only [State.writeQueueReg]
  refine ite_memOk (setFn_memOk hs) ?_
  refine ite_memOk (setFn_memOk hs) ?_
  refine ite_memOk (setFn_memOk hs) ?_
  refine ite_memOk (ite_memOk (setFn_memOk hs) hs) ?_
  refine ite_memOk (ite_memOk (fqres_memOk hs) hs) ?_
  refine ite_memOk (setFn_memOk hs) ?_
  refine ite_memOk (ite_memOk hs (setFn_memOk hs)) ?_
  exact ite_memOk (ite_memOk (mbDoor_memOk hs) hs) (writeCfg_memOk hs)

theorem writeReg0_memOk {fn off bytes val} (hs : s.memOk) : (s.writeReg0 fn off bytes val).memOk := by
  dsimp only [State.writeReg0]
  refine ite_memOk (setHifdrv_memOk hs) ?_
  refine ite_memOk (setLease_memOk hs) ?_
  refine ite_memOk (setApbase_memOk hs) ?_
  refine ite_memOk (notify_memOk hs) ?_
  refine ite_memOk (ite_memOk (setFn_memOk hs) hs) ?_
  exact ite_memOk (writeQueueReg_memOk hs) (ite_memOk (setVfctl_memOk hs) (ite_memOk (setAcl_memOk hs) hs))

theorem execHifdrvWrite_memOk {fn val} (hs : s.memOk) : NextOk (execHifdrvWrite fn val s) :=
  nextOk (ite_memOk (setHifdrv_memOk hs) hs)

theorem execApbaseWrite_memOk {fn val} (hs : s.memOk) : NextOk (execApbaseWrite fn val s) :=
  nextOk (ite_memOk (setApbase_memOk hs) hs)

theorem execLeasecfgWrite_memOk {fn val} (hs : s.memOk) : NextOk (execLeasecfgWrite fn val s) :=
  nextOk (ite_memOk (setLease_memOk hs) hs)

theorem execVfctlWrite_memOk {vf val} (hs : s.memOk) : NextOk (execVfctlWrite vf val s) :=
  nextOk (ite_memOk (setVfctl_memOk hs) hs)

theorem execFqlostClear_memOk {fn val} (hs : s.memOk) : NextOk (execFqlostClear fn val s) :=
  nextOk (ite_memOk (setFn_memOk hs) hs)

theorem execRegisterWrite_memOk {fn off bytes val} (hs : s.memOk) : NextOk (execRegisterWrite fn off bytes val s) :=
  nextOk (ite_memOk (writeReg0_memOk hs) (ite_memOk (writeCfg_memOk hs) hs))

theorem execVfEnableSet_memOk (hs : s.memOk) : NextOk (execVfEnableSet s) :=
  nextOk (ite_memOk hs (foldl_memOk hs fun _ _ ht => ite_memOk ht (setFn_memOk ht)))

/-! ## The operations of Sys2Proof/Machine/HostMem.lean -/

theorem putInput_memOk {at_ i} (hs : s.memOk) : (s.putInput at_ i).memOk := memOk_with hs
theorem hostAnswer_memOk {fn a data} (hs : s.memOk) : (s.hostAnswer fn a data).memOk := ite_memOk hs (memOk_with hs)

theorem hostRefuse_memOk {fn a tell part addr} (hs : s.memOk) : (s.hostRefuse fn a tell part addr).memOk :=
  report_memOk (hostAnswer_memOk hs)

theorem dropHostWait_memOk {fn a} (hs : s.memOk) : (s.dropHostWait fn a).memOk := memOk_with hs

theorem hostHold_memOk {fn a again} (hs : s.memOk) : (s.hostHold fn a again).memOk :=
  putInput_memOk (memOk_with (dropHostWait_memOk hs))

theorem hostServe_memOk {cxl fn a pa again} (hs : s.memOk) : (s.hostServe cxl fn a pa again).memOk := by
  dsimp only [State.hostServe]
  refine ite_memOk (hostRefuse_memOk (dropHostWait_memOk hs)) ?_
  refine ite_memOk (hostHold_memOk hs) ?_
  refine ite_memOk ?_ ?_
  · refine ite_memOk (hostRefuse_memOk (dropHostWait_memOk hs)) ?_
    refine ite_memOk (rowError_memOk (hostRefuse_memOk (dropHostWait_memOk hs))) ?_
    exact foldl_fst_memOk (dropHostWait_memOk hs) fun ⟨_, _⟩ _ ht => cohWrite_memOk ht
  · refine ite_memOk (hostRefuse_memOk (dropHostWait_memOk hs)) ?_
    refine ite_memOk (rowError_memOk (hostRefuse_memOk (dropHostWait_memOk hs))) ?_
    exact hostAnswer_memOk (dropHostWait_memOk hs)

theorem hostAccess_memOk {cxl fn a again} (hs : s.memOk) : (s.hostAccess cxl fn a again).memOk := by
  dsimp only [State.hostAccess]
  refine ite_memOk (hostAnswer_memOk hs) ?_
  refine ite_memOk (hostAnswer_memOk hs) ?_
  split
  · exact hostRefuse_memOk hs
  · exact ite_memOk (hostServe_memOk hs) (hostRefuse_memOk hs)

theorem execBar4Access_memOk {fn a} (hs : s.memOk) : NextOk (execBar4Access fn a s) := nextOk (hostAccess_memOk hs)
theorem execCxlMemAccess_memOk {fn a} (hs : s.memOk) : NextOk (execCxlMemAccess fn a s) := nextOk (hostAccess_memOk hs)

theorem dropContexts_memOk {part} (hs : s.memOk) : (s.dropContexts part).memOk :=
  memOk_withMem (tlbDrop_memOk (foldl_memOk hs fun _ _ ht => terminate_memOk ht))

theorem resetPart_memOk {fn part} (hs : s.memOk) : (s.resetPart fn part).memOk :=
  foldl_memOk (memOk_withMem (startScrub_memOk (setPart_memOk (dropContexts_memOk hs)))) fun _ _ ht => sendMsg_memOk ht

theorem resetVf_memOk {vf} (hs : s.memOk) : (s.resetVf vf).memOk := by
  dsimp only [State.resetVf]
  split
  · exact hs
  · exact resetPart_memOk hs

theorem clearVfs_memOk (hs : s.memOk) : s.clearVfs.memOk :=
  foldl_memOk hs fun _ _ ht => ite_memOk (setFn_memOk (resetVf_memOk ht)) ht

theorem resetPf_memOk (hs : s.memOk) : s.resetPf.memOk :=
  memOk_with (foldl_memOk (clearVfs_memOk hs) fun _ _ ht => resetPart_memOk ht)

theorem execVfFlr_memOk {vf} (hs : s.memOk) : NextOk (execVfFlr vf s) := nextOk (ite_memOk (resetPf_memOk hs) (resetVf_memOk hs))
theorem execVfEnableClear_memOk (hs : s.memOk) : NextOk (execVfEnableClear s) := nextOk (clearVfs_memOk hs)

/-! ## The operations of Sys2Proof/Machine/Parlour.lean -/

theorem parlour_memOk {c pf f} (hf : ∀ t, t.memOk → (f t).2.memOk) (hs : s.memOk) : NextOk (s.parlour c pf f) := by
  refine nextOk ?_
  split
  · exact mbDone_memOk hs
  · split
    · exact mbDone_memOk hs
    · split
      · rename_i e
        exact mbDone_memOk (memOk_of_snd e (hf s hs))
      · rename_i e
        exact memOk_of_snd e (hf s hs)

theorem checked_memOk {checks eff} (heff : ∀ t, t.memOk → (eff t).memOk) (hs : s.memOk) : (checked checks s eff).2.memOk := by
  unfold checked
  split
  · exact hs
  · exact heff s hs

theorem setCore_memOk {c} (hs : s.memOk) : (s.setCore c).2.memOk :=
  checked_memOk (fun _ ht => serveOsb_memOk (trimL1_memOk (setPart_memOk ht))) hs

theorem setMem_memOk {c} (hs : s.memOk) : (s.setMem c).2.memOk := checked_memOk (fun _ ht => setPart_memOk ht) hs

theorem setSlices_memOk {c} (hs : s.memOk) : (s.setSlices c).2.memOk := by
  dsimp only [State.setSlices]
  split
  · exact hs
  · exact checked_memOk (fun _ ht => setPart_memOk (l2Drop_memOk ht)) hs

theorem mapFrom_memOk {part n lbl k s} (hs : s.memOk) : (State.mapFrom s part n lbl k).2.memOk := by
  induction k generalizing n s with
  | zero => exact hs
  | succ k ih =>
    unfold State.mapFrom
    split
    · exact hs
    · exact ih hs

theorem mapFrames_memOk {c} (hs : s.memOk) : (s.mapFrames c).2.memOk :=
  ite_snd_memOk hs (ite_snd_memOk hs (ite_snd_memOk hs (mapFrom_memOk hs)))

theorem relFrames_memOk {c} (hs : s.memOk) : (s.relFrames c).2.memOk := by
  dsimp only [State.relFrames]
  refine ite_snd_memOk hs ?_
  exact ite_snd_memOk hs (startScrub_memOk (foldl_memOk hs fun _ _ ht => setFrame_memOk ht))

theorem execFrameScrubComplete_memOk {scrub} (hs : s.memOk) : NextOk (execFrameScrubComplete scrub s) := by
  dsimp only [execFrameScrubComplete]
  refine nextOk ?_
  split
  · exact hs
  · refine ite_memOk hs ?_
    split
    · exact mbDone_memOk (memOk_with (endScrub_memOk hs))
    · exact memOk_with (endScrub_memOk hs)

theorem setS2_memOk {c} (hs : s.memOk) : (s.setS2 c).2.memOk := checked_memOk (fun _ ht => setPart_memOk ht) hs
theorem setCtx_memOk {c} (hs : s.memOk) : (s.setCtx c).2.memOk := checked_memOk (fun _ ht => setPart_memOk ht) hs
theorem invalidate_memOk {c} (hs : s.memOk) : (s.invalidate c).2.memOk := ite_snd_memOk hs (memOk_with (tlbDrop_memOk hs))

theorem setWin_memOk {c} (hs : s.memOk) : (s.setWin c).2.memOk := by
  dsimp only [State.setWin]
  split
  · exact hs
  · exact checked_memOk (fun _ ht => setPart_memOk ht) hs

theorem endRuns_memOk {part ctx} (hs : s.memOk) : (s.endRuns part ctx).memOk := foldl_memOk hs fun _ _ ht => reportRun_memOk ht

theorem dropGraph_memOk {part ctx} (hs : s.memOk) : (s.dropGraph part ctx).memOk := by
  dsimp only [State.dropGraph]
  refine setPart_memOk (memOk_with (foldl_memOk hs ?_))
  intro _ _ ht
  refine foldl_memOk ht ?_
  intro _ _ hu
  split
  · exact freeSlot_memOk hu
  · exact hu

theorem killCtx_memOk {c} (hs : s.memOk) : (s.killCtx c).2.memOk := by
  dsimp only [State.killCtx]
  exact checked_memOk (fun _ ht => endRuns_memOk (foldl_memOk (foldl_memOk (foldl_memOk (dropGraph_memOk ht)
      fun _ _ hu => ite_memOk (terminate_memOk hu) hu) fun _ _ hu => teamFault_memOk hu) fun _ _ hu => homeNext_memOk
      (convBreak_memOk hu))) hs

theorem setFilter_memOk {c} (hs : s.memOk) : (s.setFilter c).2.memOk := checked_memOk (fun _ ht => memOk_with ht) hs
theorem setOrr_memOk {c} (hs : s.memOk) : (s.setOrr c).2.memOk := checked_memOk (fun _ ht => setPart_memOk ht) hs

theorem evict_memOk {c} (hs : s.memOk) : (s.evict c).2.memOk :=
  ite_snd_memOk hs (memOk_with (foldl_memOk hs fun _ _ ht => preempt_memOk ht))

theorem setSaveArea_memOk {c} (hs : s.memOk) : (s.setSaveArea c).2.memOk := checked_memOk (fun _ ht => setPart_memOk ht) hs
theorem endParlour_memOk {fn} (hs : s.memOk) : (s.endParlour fn).memOk := mbDone_memOk (memOk_with hs)
theorem execSetcore_memOk {c} (hs : s.memOk) : NextOk (execSetcore c s) := parlour_memOk (fun _ ht => setCore_memOk ht) hs
theorem execSetmem_memOk {c} (hs : s.memOk) : NextOk (execSetmem c s) := parlour_memOk (fun _ ht => setMem_memOk ht) hs
theorem execSetslices_memOk {c} (hs : s.memOk) : NextOk (execSetslices c s) := parlour_memOk (fun _ ht => setSlices_memOk ht) hs
theorem execMapframes_memOk {c} (hs : s.memOk) : NextOk (execMapframes c s) := parlour_memOk (fun _ ht => mapFrames_memOk ht) hs
theorem execRelframes_memOk {c} (hs : s.memOk) : NextOk (execRelframes c s) := parlour_memOk (fun _ ht => relFrames_memOk ht) hs
theorem execSets2_memOk {c} (hs : s.memOk) : NextOk (execSets2 c s) := parlour_memOk (fun _ ht => setS2_memOk ht) hs
theorem execSetctx_memOk {c} (hs : s.memOk) : NextOk (execSetctx c s) := parlour_memOk (fun _ ht => setCtx_memOk ht) hs
theorem execInval_memOk {c} (hs : s.memOk) : NextOk (execInval c s) := parlour_memOk (fun _ ht => invalidate_memOk ht) hs
theorem execKillctx_memOk {c} (hs : s.memOk) : NextOk (execKillctx c s) := parlour_memOk (fun _ ht => killCtx_memOk ht) hs
theorem execSetfilter_memOk {c} (hs : s.memOk) : NextOk (execSetfilter c s) := parlour_memOk (fun _ ht => setFilter_memOk ht) hs
theorem execSetorr_memOk {c} (hs : s.memOk) : NextOk (execSetorr c s) := parlour_memOk (fun _ ht => setOrr_memOk ht) hs
theorem execEvict_memOk {c} (hs : s.memOk) : NextOk (execEvict c s) := parlour_memOk (fun _ ht => evict_memOk ht) hs
theorem execSavearea_memOk {c} (hs : s.memOk) : NextOk (execSavearea c s) := parlour_memOk (fun _ ht => setSaveArea_memOk ht) hs
theorem execFabwin_memOk {c} (hs : s.memOk) : NextOk (execFabwin c s) := parlour_memOk (fun _ ht => setWin_memOk ht) hs

/-! ## The operations of Sys2Proof/Machine/Sep.lean -/

theorem config_memOk {c pf minimal f} (hf : ∀ t, t.memOk → (f t).2.memOk) (hs : s.memOk) :
    NextOk (s.config c pf minimal f) := by
  refine nextOk ?_
  split
  · exact cfgDone_memOk hs
  · split
    · exact cfgDone_memOk hs
    · split
      · exact cfgDone_memOk hs
      · split
        · rename_i e
          exact cfgDone_memOk (memOk_of_snd e (hf s hs))
        · rename_i e
          exact memOk_of_snd e (hf s hs)

theorem hostPut_memOk {a bs} (hs : s.memOk) : SomeOk (s.hostPut a bs) := by
  unfold State.hostPut
  split
  · exact someOk (hostBytes_memOk hs)
  · exact someOk_none

theorem hostReport_memOk {a bs} (hs : s.memOk) : (s.hostReport a bs).2.memOk := by
  dsimp only [State.hostReport]
  split
  · rename_i e
    exact (hostPut_memOk hs) _ e
  · exact hs

theorem extend_memOk {i d} (hs : s.memOk) : (s.extend i d).memOk := memOk_with hs
theorem extendLog_memOk {e} (hs : s.memOk) : (s.extendLog e).memOk := ite_memOk (memOk_with (extend_memOk hs)) (extend_memOk hs)

theorem getReport_memOk {c} (hs : s.memOk) : (s.getReport c).2.memOk := by
  dsimp only [State.getReport]
  split
  · exact hs
  · exact hostReport_memOk hs

theorem getCert_memOk {c} (hs : s.memOk) : (s.getCert c).2.memOk := ite_snd_memOk hs (hostReport_memOk hs)

theorem fwStage_memOk {c} (hs : s.memOk) : (s.fwStage c).2.memOk := by
  dsimp only [State.fwStage]
  split
  · exact hs
  · split
    · exact hs
    · exact ite_snd_memOk hs (ite_snd_memOk hs (memOk_with hs))

theorem measLog_memOk {c} (hs : s.memOk) : (s.measLog c).2.memOk := ite_snd_memOk hs (hostReport_memOk hs)

theorem bindSlot_memOk {c} (hs : s.memOk) : (s.bindSlot c).2.memOk := by
  dsimp only [State.bindSlot]
  split
  · exact hs
  · split
    · exact hs
    · exact checked_memOk (fun _ ht => extendLog_memOk (memOk_with ht)) hs

theorem unbindSlot_memOk {c} (hs : s.memOk) : (s.unbindSlot c).2.memOk := checked_memOk (fun _ ht => memOk_with ht) hs
theorem bindFn_memOk {c} (hs : s.memOk) : (s.bindFn c).2.memOk := checked_memOk (fun _ ht => setFn_memOk ht) hs
theorem setGrant_memOk {c} (hs : s.memOk) : (s.setGrant c).2.memOk := checked_memOk (fun _ ht => setPart_memOk ht) hs

theorem polInstall_memOk {c} (hs : s.memOk) : (s.polInstall c).2.memOk := by
  dsimp only [State.polInstall]
  split
  · exact hs
  · exact checked_memOk (fun _ ht => extendLog_memOk (memOk_with ht)) hs

theorem polRevoke_memOk {c} (hs : s.memOk) : (s.polRevoke c).2.memOk := by
  dsimp only [State.polRevoke]
  split
  · exact hs
  · exact ite_snd_memOk hs (memOk_with hs)

theorem polRead_memOk {c} (hs : s.memOk) : (s.polRead c).2.memOk := by
  dsimp only [State.polRead]
  split
  · exact hs
  · exact hostReport_memOk hs

theorem execGetreport_memOk {c} (hs : s.memOk) : NextOk (execGetreport c s) := config_memOk (fun _ ht => getReport_memOk ht) hs
theorem execGetcert_memOk {c} (hs : s.memOk) : NextOk (execGetcert c s) := config_memOk (fun _ ht => getCert_memOk ht) hs
theorem execFwstage_memOk {c} (hs : s.memOk) : NextOk (execFwstage c s) := config_memOk (fun _ ht => fwStage_memOk ht) hs
theorem execBindslot_memOk {c} (hs : s.memOk) : NextOk (execBindslot c s) := config_memOk (fun _ ht => bindSlot_memOk ht) hs

theorem execUnbindslot_memOk {c} (hs : s.memOk) : NextOk (execUnbindslot c s) :=
  config_memOk (fun _ ht => unbindSlot_memOk ht) hs

theorem execBindfn_memOk {c} (hs : s.memOk) : NextOk (execBindfn c s) := config_memOk (fun _ ht => bindFn_memOk ht) hs
theorem execSetgrant_memOk {c} (hs : s.memOk) : NextOk (execSetgrant c s) := config_memOk (fun _ ht => setGrant_memOk ht) hs

theorem execPolinstall_memOk {c} (hs : s.memOk) : NextOk (execPolinstall c s) :=
  config_memOk (fun _ ht => polInstall_memOk ht) hs

theorem execPolrevoke_memOk {c} (hs : s.memOk) : NextOk (execPolrevoke c s) := config_memOk (fun _ ht => polRevoke_memOk ht) hs
theorem execPolread_memOk {c} (hs : s.memOk) : NextOk (execPolread c s) := config_memOk (fun _ ht => polRead_memOk ht) hs
theorem execMeaslog_memOk {c} (hs : s.memOk) : NextOk (execMeaslog c s) := config_memOk (fun _ ht => measLog_memOk ht) hs

theorem execAttreq_memOk {h nonce} (hs : s.memOk) : NextOk (execAttreq h nonce s) :=
  onMsg_memOk (fun _ ht => sendMsg_memOk ht) hs

theorem execAttresp_memOk {h report} (hs : s.memOk) : NextOk (execAttresp h report s) :=
  onMsg_memOk (fun _ ht => memOk_with ht) hs

/-! ## The operations of Sys2Proof/Machine/PlConfig.lean -/

theorem dropPool_memOk {part} (hs : s.memOk) : (s.dropPool part).memOk :=
  setPart_memOk (foldl_memOk hs fun _ _ ht => setFrame_memOk ht)

theorem takePool_memOk {part fs} (hs : s.memOk) : (s.takePool part fs).memOk := setPart_memOk (endScrub_memOk hs)

theorem plPool_memOk {c} (hs : s.memOk) : (s.plPool c).2.memOk := by
  dsimp only [State.plPool]
  refine ite_snd_memOk hs ?_
  exact ite_snd_memOk hs (ite_snd_memOk hs (setPart_memOk (takePool_memOk (dropPool_memOk hs))))

theorem execPlpool_memOk {c} (hs : s.memOk) : NextOk (execPlpool c s) := config_memOk (fun _ ht => plPool_memOk ht) hs
theorem prepare_memOk {p} (hs : s.memOk) : (s.prepare p).memOk := memOk_with (mapShard_memOk hs)
theorem dropPrep_memOk {p} (hs : s.memOk) : (s.dropPrep p).memOk := memOk_with hs

theorem commitPrep_memOk {p} (hs : s.memOk) : (s.commitPrep p).memOk := by
  dsimp only [State.commitPrep]
  split
  · split
    · exact setPart_memOk (dropPrep_memOk hs)
    · exact dropPrep_memOk hs
  · split
    · exact setPart_memOk (dropPrep_memOk hs)
    · exact dropPrep_memOk hs
  · split
    · exact setPart_memOk (startScrub_memOk (dropPrep_memOk hs))
    · exact dropPrep_memOk hs

theorem abortPrep_memOk {p} (hs : s.memOk) : (s.abortPrep p).memOk := dropPrep_memOk (ite_memOk hs (endScrub_memOk hs))

theorem decidePrep_memOk {p others status} (hs : s.memOk) : (s.decidePrep p others status).memOk := by
  dsimp only [State.decidePrep]
  split
  · refine cfgDone_memOk ?_
    refine ite_memOk (commitPrep_memOk (foldl_memOk hs fun _ _ ht => sendMsg_memOk ht)) ?_
    exact abortPrep_memOk (foldl_memOk hs fun _ _ ht => sendMsg_memOk ht)
  · refine ite_memOk (commitPrep_memOk (foldl_memOk hs fun _ _ ht => sendMsg_memOk ht)) ?_
    exact abortPrep_memOk (foldl_memOk hs fun _ _ ht => sendMsg_memOk ht)

theorem castPrep_memOk {c op body} (hs : s.memOk) : (s.castPrep c op body).2.memOk := by
  dsimp only [State.castPrep]
  refine ite_snd_memOk hs ?_
  refine ite_snd_memOk hs ?_
  refine ite_snd_memOk (decidePrep_memOk (prepare_memOk (freshId_memOk hs))) ?_
  exact foldl_memOk (prepare_memOk (freshId_memOk hs)) fun _ _ ht => sendMsg_memOk ht

theorem meshDef_memOk {c} (hs : s.memOk) : (s.meshDef c).2.memOk := by
  dsimp only [State.meshDef]
  split
  · exact hs
  · refine ite_snd_memOk hs ?_
    split
    · exact hs
    · exact castPrep_memOk hs

theorem plInstall_memOk {c} (hs : s.memOk) : (s.plInstall c).2.memOk := by
  dsimp only [State.plInstall]
  split
  · exact hs
  · exact castPrep_memOk hs

theorem plRemove_memOk {c} (hs : s.memOk) : (s.plRemove c).2.memOk := ite_snd_memOk hs (castPrep_memOk hs)
theorem execMeshdef_memOk {c} (hs : s.memOk) : NextOk (execMeshdef c s) := config_memOk (fun _ ht => meshDef_memOk ht) hs
theorem execPlinstall_memOk {c} (hs : s.memOk) : NextOk (execPlinstall c s) := config_memOk (fun _ ht => plInstall_memOk ht) hs
theorem execPlremove_memOk {c} (hs : s.memOk) : NextOk (execPlremove c s) := config_memOk (fun _ ht => plRemove_memOk ht) hs

theorem execCprep_memOk {h op cmd body arg0} (hs : s.memOk) : NextOk (execCprep h op cmd body arg0 s) :=
  onMsg_memOk (fun _ ht => sendMsg_memOk (ite_memOk (prepare_memOk ht) ht)) hs

theorem execCvote_memOk {h cmd status} (hs : s.memOk) : NextOk (execCvote h cmd status s) := by
  dsimp only [execCvote]
  refine onMsg_memOk ?_ hs
  intro _ ht
  split
  · exact ht
  · exact ite_memOk ht (ite_memOk (decidePrep_memOk ht) (ite_memOk (decidePrep_memOk ht) (memOk_with ht)))

theorem execCcommit_memOk {h cmd commit} (hs : s.memOk) : NextOk (execCcommit h cmd commit s) := by
  dsimp only [execCcommit]
  refine onMsg_memOk ?_ hs
  intro _ ht
  split
  · exact ite_memOk (commitPrep_memOk ht) (abortPrep_memOk ht)
  · exact ht

/-! ## The operations of Sys2Proof/Machine/Fabric.lean -/

theorem fwdCfg_memOk {c} (hs : s.memOk) : (s.fwdCfg c).2.memOk := ite_snd_memOk hs (setPart_memOk hs)
theorem execFwdcfg_memOk {c} (hs : s.memOk) : NextOk (execFwdcfg c s) := config_memOk (fun _ ht => fwdCfg_memOk ht) hs
theorem portRes_memOk {c} (hs : s.memOk) : (s.portRes c).2.memOk := ite_snd_memOk hs (ite_snd_memOk hs (setPart_memOk hs))
theorem execPortres_memOk {c} (hs : s.memOk) : NextOk (execPortres c s) := config_memOk (fun _ ht => portRes_memOk ht) hs
theorem stationId_memOk {c} (hs : s.memOk) : (s.stationId c).2.memOk := ite_snd_memOk hs (ite_snd_memOk hs (memOk_with hs))
theorem execStationid_memOk {c} (hs : s.memOk) : NextOk (execStationid c s) := config_memOk (fun _ ht => stationId_memOk ht) hs
theorem sendPort_memOk {port typ body} (hs : s.memOk) : (s.sendPort port typ body).memOk := memOk_with hs
theorem sendClock_memOk {port} (hs : s.memOk) : (s.sendClock port).memOk := sendPort_memOk (setPort_memOk hs)

theorem meet_memOk {port station range} (hs : s.memOk) : (s.meet port station range).memOk := by
  dsimp only [State.meet]
  refine ite_memOk (setPort_memOk hs) ?_
  split
  · exact setPort_memOk hs
  · exact sendClock_memOk (setPort_memOk hs)

theorem linkPort_memOk {port} (hs : s.memOk) : (s.linkPort port).memOk := by
  dsimp only [State.linkPort]
  split
  · exact meet_memOk (setPort_memOk (sendPort_memOk (setPort_memOk hs)))
  · exact sendPort_memOk (setPort_memOk hs)

theorem linkEnds_memOk (hs : s.memOk) : s.linkEnds.memOk := foldl_memOk (memOk_with hs) fun _ _ ht => cfgDone_memOk ht

theorem linkUp_memOk {c} (hs : s.memOk) : (s.linkUp c).2.memOk :=
  ite_snd_memOk hs (linkEnds_memOk (memOk_with (foldl_memOk hs fun _ _ ht => linkPort_memOk ht)))

theorem execLinkup_memOk {c} (hs : s.memOk) : NextOk (execLinkup c s) := config_memOk (fun _ ht => linkUp_memOk ht) hs
theorem execPortquery_memOk {c} (hs : s.memOk) : NextOk (execPortquery c s) := config_memOk (fun _ ht => hostReport_memOk ht) hs

theorem execHello_memOk {h port station range} (hs : s.memOk) : NextOk (execHello h port station range s) :=
  nextOk (ite_memOk hs (ite_memOk (linkEnds_memOk (meet_memOk hs)) (ite_memOk hs (setPort_memOk hs))))

theorem dropReq_memOk {tag} (hs : s.memOk) : (s.dropReq tag).memOk := memOk_with hs
theorem settleReq_memOk {id} (hs : s.memOk) : (s.settleReq id).memOk := performAll_memOk (fun _ ht => ht) (fun _ _ ht => ht) hs

theorem loseAccs_memOk {id xs} (hs : s.memOk) : (s.loseAccs id xs).memOk :=
  settleReq_memOk (foldl_memOk hs fun _ _ ht => setAcc_memOk (freeWords_memOk ht))

theorem accEnd_memOk {o id k precise code detail} (hs : s.memOk) : (s.accEnd o id k precise code detail).memOk := by
  dsimp only [State.accEnd]
  split
  · exact asyncReport_memOk hs
  · refine ite_memOk (settleReq_memOk (foldl_memOk hs fun _ _ ht => accDone_memOk ht)) ?_
    split
    · refine ite_memOk (settleReq_memOk (foldl_memOk hs fun _ _ ht => accFault_memOk ht)) ?_
      exact loseAccs_memOk (asyncReport_memOk hs)
    · exact loseAccs_memOk (asyncReport_memOk hs)

theorem convError_memOk {part entry} (hs : s.memOk) : (s.convError part entry).memOk := homeNext_memOk (convBreak_memOk hs)

theorem reqEnd_memOk {o precise code detail} (hs : s.memOk) : (s.reqEnd o precise code detail).memOk := by
  dsimp only [State.reqEnd]
  split
  · exact accEnd_memOk (dropReq_memOk hs)
  · split
    · exact copyFault_memOk (ite_memOk (dropReq_memOk hs) (asyncReport_memOk (dropReq_memOk hs)))
    · exact ite_memOk (dropReq_memOk hs) (asyncReport_memOk (dropReq_memOk hs))
  · split
    · exact plateLoadFault_memOk (ite_memOk (dropReq_memOk hs) (asyncReport_memOk (dropReq_memOk hs)))
    · exact ite_memOk (dropReq_memOk hs) (asyncReport_memOk (dropReq_memOk hs))
  · split
    · exact chainFault_memOk (ite_memOk (dropReq_memOk hs) (asyncReport_memOk (dropReq_memOk hs)))
    · exact ite_memOk (dropReq_memOk hs) (asyncReport_memOk (dropReq_memOk hs))
  · split
    · exact teamFault_memOk (dropGate_memOk (ite_memOk (dropReq_memOk hs) (asyncReport_memOk (dropReq_memOk hs))))
    · exact ite_memOk (dropReq_memOk hs) (asyncReport_memOk (dropReq_memOk hs))
  · exact convError_memOk (dropReq_memOk hs)
  · exact asyncReport_memOk (dropReq_memOk hs)
  · exact teamFault_memOk (dropReq_memOk hs)
  · exact asyncReport_memOk (dropReq_memOk hs)

theorem reqTimeout_memOk {o} (hs : s.memOk) : (s.reqTimeout o).memOk := reqEnd_memOk hs
theorem timeoutReqs_memOk {f} (hs : s.memOk) : (s.timeoutReqs f).memOk := foldl_memOk hs fun _ _ ht => reqTimeout_memOk ht
theorem prepsLost_memOk (hs : s.memOk) : s.prepsLost.memOk := foldl_memOk hs fun _ _ ht => decidePrep_memOk ht

theorem reissueReqs_memOk {port} (hs : s.memOk) : (s.reissueReqs port).memOk := by
  dsimp only [State.reissueReqs]
  refine prepsLost_memOk (foldl_memOk hs ?_)
  intro _ _ ht
  split
  · exact ite_memOk (reqTimeout_memOk ht) (memOk_with ht)
  · exact reqTimeout_memOk ht

theorem portDown_memOk {port st} (hs : s.memOk) : (s.portDown port st).memOk := reissueReqs_memOk (setPort_memOk hs)

theorem execPortLeavesActive_memOk {port} (hs : s.memOk) : NextOk (execPortLeavesActive port s) :=
  nextOk (ite_memOk (portDown_memOk hs) hs)

theorem clockLost_memOk (hs : s.memOk) : s.clockLost.memOk :=
  foldl_memOk (foldl_memOk (foldl_memOk hs fun _ _ ht => setPort_memOk ht) fun _ _ ht => reissueReqs_memOk ht)
      fun _ _ ht => sendClock_memOk ht

theorem execClockOutOfBound_memOk (hs : s.memOk) : NextOk (execClockOutOfBound s) := nextOk (clockLost_memOk hs)

theorem clockJudge_memOk {port prev time} (hs : s.memOk) : (s.clockJudge port prev time).memOk := by
  dsimp only [State.clockJudge]
  refine ite_memOk (ite_memOk (setPort_memOk hs) (clockLost_memOk hs)) ?_
  exact ite_memOk (setPort_memOk hs) (ite_memOk (setPort_memOk hs) (sendClock_memOk (setPort_memOk hs)))

theorem execClock_memOk {h port prev} (hs : s.memOk) : NextOk (execClock h port prev s) := by
  dsimp only [execClock]
  refine nextOk ?_
  refine ite_memOk hs ?_
  exact ite_memOk (sendClock_memOk (setPort_memOk hs)) (linkEnds_memOk (clockJudge_memOk (setPort_memOk hs)))

theorem execClockMessagePeriod_memOk (hs : s.memOk) : NextOk (execClockMessagePeriod s) :=
  nextOk (foldl_memOk hs fun _ _ ht => ite_memOk (sendClock_memOk ht) ht)

theorem creditWindow_memOk {d n} (hs : s.memOk) : (s.creditWindow d n).memOk := by
  dsimp only [State.creditWindow]
  refine ite_memOk hs ?_
  split
  · exact ite_memOk (cohWrite_memOk hs) (asyncReport_memOk hs)
  · exact asyncReport_memOk hs

theorem convGot_memOk {d pa n} (hs : s.memOk) : (s.convGot d pa n).memOk := by
  dsimp only [State.convGot]
  split
  · exact hs
  · exact homeNext_memOk (convProgress_memOk (setConv_memOk hs))

theorem fabPerform_memOk {r d loc pa} (hs : s.memOk) : (s.fabPerform r d loc pa).2.memOk := by
  dsimp only [State.fabPerform]
  refine ite_snd_memOk (ite_snd_memOk hs (raiseLL_memOk hs)) ?_
  exact ite_snd_memOk (convGot_memOk (creditWindow_memOk (cohWrite_memOk hs))) (cohWrite_memOk hs)

theorem fabMemory_memOk {r} (hs : s.memOk) : (s.fabMemory r).2.memOk := by
  dsimp only [State.fabMemory]
  split
  · exact hs
  · refine ite_snd_memOk hs ?_
    split
    · exact pfReport_memOk hs
    · exact hs
    · refine ite_snd_memOk hs ?_
      refine ite_snd_memOk hs ?_
      exact ite_snd_memOk hs (ite_snd_memOk hs (ite_snd_memOk (rowError_memOk hs) (fabPerform_memOk hs)))

theorem fabSlot_memOk {r} (hs : s.memOk) : (s.fabSlot r).2.memOk := ite_snd_memOk hs (seeSeal_memOk (slotStore_memOk hs))

theorem fabServe_memOk {r} (hs : s.memOk) : (s.fabServe r).2.memOk := by
  dsimp only [State.fabServe]
  refine ite_snd_memOk hs ?_
  exact ite_snd_memOk (ite_snd_memOk (fabSlot_memOk hs) hs) (ite_snd_memOk hs (fabMemory_memOk hs))

theorem execFabricRequest_memOk {r} (hs : s.memOk) : NextOk (execFabricRequest r s) := nextOk (fabServe_memOk hs)

theorem pinAnswer_memOk {q k a data} (hs : s.memOk) : (s.pinAnswer q k a data).memOk := by
  dsimp only [State.pinAnswer]
  split
  · exact performPinned_memOk hs
  · refine ite_memOk (setAcc_memOk hs) ?_
    refine ite_memOk hs ?_
    split
    · exact performPinned_memOk (pinLine_memOk hs)
    · exact pinLine_memOk hs

theorem loadAnswer_memOk {o r q a lbl} (hs : s.memOk) : (s.loadAnswer o r q a lbl).memOk :=
  foldl_memOk (ite_memOk (keepLine_memOk hs) hs) fun _ _ ht => ite_memOk (accDone_memOk ht) ht

theorem storeAnswer_memOk {o r q k a lbl} (hs : s.memOk) : (s.storeAnswer o r q k a lbl).memOk := by
  dsimp only [State.storeAnswer]
  refine ite_memOk (combinedDone_memOk (pinMerge_memOk hs)) ?_
  refine accDone_memOk ?_
  split
  · exact pinMerge_memOk hs
  · exact hs

theorem accAnswer_memOk {o r id k} (hs : s.memOk) : (s.accAnswer o r id k).memOk := by
  dsimp only [State.accAnswer]
  split
  · exact hs
  · split
    · exact hs
    · refine settleReq_memOk ?_
      split
      · exact depAnswer_memOk hs
      · exact ite_memOk (pinAnswer_memOk hs) (ite_memOk (loadAnswer_memOk hs) (storeAnswer_memOk hs))

theorem reqDoneWith_memOk {o r} (hs : s.memOk) : (s.reqDoneWith o r).memOk := by
  dsimp only [State.reqDoneWith]
  split
  · exact accAnswer_memOk (dropReq_memOk hs)
  · exact setCopy_memOk (dropReq_memOk hs)
  · exact setLoad_memOk (dropReq_memOk hs)
  · exact setChain_memOk (dropReq_memOk hs)
  · exact gateAdvance_memOk (setGate_memOk (dropReq_memOk hs))
  · refine homeNext_memOk (convProgress_memOk (ite_memOk ?_ (dropReq_memOk hs)))
    split
    · exact setConv_memOk (dropReq_memOk hs)
    · exact dropReq_memOk hs
  · exact dropReq_memOk hs
  · exact arcAnswer_memOk (dropReq_memOk hs)
  · exact foldl_memOk (dropReq_memOk hs) fun _ _ ht => joinWct_memOk ht

theorem reqRetry_memOk {o} (hs : s.memOk) : (s.reqRetry o).memOk := by
  dsimp only [State.reqRetry]
  split
  · exact settleReq_memOk (foldl_memOk (dropReq_memOk hs) fun _ _ ht => setAcc_memOk ht)
  · exact ite_memOk (reqEnd_memOk hs) (memOk_with hs)

theorem reqAnswer_memOk {o r} (hs : s.memOk) : (s.reqAnswer o r).memOk := by
  dsimp only [State.reqAnswer]
  split
  · exact reqDoneWith_memOk hs
  · exact reqRetry_memOk hs
  · exact reqEnd_memOk hs
  · exact reqEnd_memOk hs
  · exact reqEnd_memOk hs
  · exact reqEnd_memOk hs
  · exact reqEnd_memOk hs
  · exact hs

theorem execFabricResponse_memOk {r} (hs : s.memOk) : NextOk (execFabricResponse r s) := by
  dsimp only [execFabricResponse]
  refine nextOk ?_
  split
  · exact reqAnswer_memOk hs
  · exact hs

theorem execResetMsg_memOk {h part} (hs : s.memOk) : NextOk (execResetMsg h part s) :=
  onMsg_memOk (fun _ ht => memOk_with (timeoutReqs_memOk (foldl_memOk ht fun _ _ hu => homeNext_memOk (convBreak_memOk hu)))) hs

/-! ## The operations of Sys2Proof/Machine/Operator.lean -/

theorem startSurvey_memOk {u addr} (hs : s.memOk) : (s.startSurvey u addr).memOk := by
  dsimp only [State.startSurvey]
  exact ite_memOk hs (ite_memOk (memOk_with hs) (foldl_memOk (memOk_with hs) fun _ _ ht => preempt_memOk ht))

theorem survey_memOk {c} (hs : s.memOk) : (s.survey c).2.memOk := ite_snd_memOk hs (ite_snd_memOk hs (startSurvey_memOk hs))
theorem execSurvey_memOk {c} (hs : s.memOk) : NextOk (execSurvey c s) := config_memOk (fun _ ht => survey_memOk ht) hs
theorem selfTests_memOk (hs : s.memOk) : s.selfTests.memOk := memOk_with hs
theorem dropSurvey_memOk {u} (hs : s.memOk) : (s.dropSurvey u).memOk := memOk_with hs
theorem countUp_memOk {i} (hs : s.memOk) : (s.countUp i).memOk := memOk_with hs
theorem surveyPassed_memOk {u} (hs : s.memOk) : (s.surveyPassed u).memOk := logEvent_memOk (countUp_memOk (dropSurvey_memOk hs))

theorem retireUnit_memOk {u} (hs : s.memOk) : (s.retireUnit u).memOk := by
  dsimp only [State.retireUnit]
  split
  · exact memOk_with hs
  · exact portDown_memOk (setPort_memOk (memOk_with hs))
  · exact memOk_with hs

theorem surveyFailed_memOk {u} (hs : s.memOk) : (s.surveyFailed u).memOk :=
  retireUnit_memOk (logEvent_memOk (countUp_memOk (dropSurvey_memOk hs)))

theorem execSelfTestComplete_memOk {core pass} (hs : s.memOk) : NextOk (execSelfTestComplete core pass s) := by
  dsimp only [execSelfTestComplete]
  refine nextOk ?_
  split
  · exact ite_memOk (surveyFailed_memOk hs) hs
  · exact ite_memOk (surveyPassed_memOk hs) (surveyFailed_memOk hs)

theorem rowFailed_memOk {x spare} (hs : s.memOk) : (s.rowFailed x spare).memOk := by
  dsimp only [State.rowFailed]
  refine ite_memOk (logEvent_memOk (memOk_with (countUp_memOk (dropSurvey_memOk hs)))) ?_
  exact logEvent_memOk (memOk_withMem (countUp_memOk (dropSurvey_memOk hs)))

theorem execRowSurveyComplete_memOk {unit pass spare} (hs : s.memOk) : NextOk (execRowSurveyComplete unit pass spare s) := by
  dsimp only [execRowSurveyComplete]
  refine nextOk ?_
  split
  · exact hs
  · exact ite_memOk hs (ite_memOk (surveyPassed_memOk hs) (rowFailed_memOk hs))

theorem loseSlice_memOk {slice part} (hs : s.memOk) : (s.loseSlice slice part).memOk := by
  dsimp only [State.loseSlice]
  refine ite_memOk ?_ ?_
  · exact pfReport_memOk (foldl_memOk (setPart_memOk (l2Drop_memOk hs)) fun _ _ ht => teamFault_memOk ht)
  · exact setPart_memOk (l2Drop_memOk hs)

theorem execSliceSurveyComplete_memOk {slice pass} (hs : s.memOk) : NextOk (execSliceSurveyComplete slice pass s) := by
  dsimp only [execSliceSurveyComplete]
  refine nextOk ?_
  split
  · exact hs
  · refine ite_memOk (surveyPassed_memOk hs) ?_
    exact foldl_memOk (surveyFailed_memOk hs) fun _ _ ht => loseSlice_memOk ht

theorem unitSurveyed_memOk {x} (hs : s.memOk) : (s.unitSurveyed x).memOk := by
  dsimp only [State.unitSurveyed]
  refine ite_memOk (surveyPassed_memOk (memOk_with hs)) ?_
  exact ite_memOk (surveyFailed_memOk (memOk_with hs)) (countUp_memOk (dropSurvey_memOk (memOk_with hs)))

theorem surveyOver_memOk {x} (hs : s.memOk) : NextOk (s.surveyOver x) := by
  dsimp only [State.surveyOver]
  split
  · exact execSelfTestComplete_memOk hs
  · exact execSliceSurveyComplete_memOk hs
  · exact execRowSurveyComplete_memOk hs
  · exact execRowSurveyComplete_memOk hs
  · exact nextOk (unitSurveyed_memOk hs)

theorem unitError_memOk {unit part addr} (hs : s.memOk) : (s.unitError unit part addr).memOk := by
  dsimp only [State.unitError]
  refine startSurvey_memOk ?_
  exact ite_memOk (memOk_withMem (logEvent_memOk (countUp_memOk hs))) (logEvent_memOk (countUp_memOk hs))

theorem errorEnds_memOk {tid unit addr} (hs : s.memOk) : (s.errorEnds tid unit addr).memOk := teamFault_memOk hs

theorem engineError_memOk {tid core pc roff unit addr} (hs : s.memOk) : (s.engineError tid core pc roff unit addr).memOk :=
  takeFault_memOk hs

theorem errorTaken_memOk {unit who addr} (hs : s.memOk) : (s.errorTaken unit who addr).memOk := by
  dsimp only [State.errorTaken]
  split
  · exact errorEnds_memOk hs
  · split
    · exact engineError_memOk hs
    · exact hs
  · split
    · exact engineError_memOk hs
    · exact hs
  · split
    · exact engineError_memOk hs
    · exact hs
  · exact errorEnds_memOk hs
  · exact homeNext_memOk (convBreak_memOk hs)
  · split
    · exact errorEnds_memOk (dropGate_memOk hs)
    · exact hs
  · exact report_memOk (memOk_with hs)
  · exact hs

theorem execUncorrectableError_memOk {unit who addr} (hs : s.memOk) : NextOk (execUncorrectableError unit who addr s) :=
  nextOk (ite_memOk hs (unitError_memOk (errorTaken_memOk hs)))

theorem execCorrectedError_memOk {unit} (hs : s.memOk) : NextOk (execCorrectedError unit s) := by
  dsimp only [execCorrectedError]
  refine nextOk (ite_memOk hs (memOk_with ?_))
  split
  · exact countUp_memOk hs
  · exact hs

theorem execCorrectedErrorThreshold_memOk {unit} (hs : s.memOk) : NextOk (execCorrectedErrorThreshold unit s) :=
  nextOk (ite_memOk (startSurvey_memOk (logEvent_memOk (memOk_with hs))) hs)

theorem errLog_memOk {c} (hs : s.memOk) : (s.errLog c).2.memOk := hostReport_memOk hs
theorem execErrlog_memOk {c} (hs : s.memOk) : NextOk (execErrlog c s) := config_memOk (fun _ ht => errLog_memOk ht) hs
theorem execTelemetry_memOk {c} (hs : s.memOk) : NextOk (execTelemetry c s) := config_memOk (fun _ ht => hostReport_memOk ht) hs

theorem stepClock_memOk {die} (hs : s.memOk) : (s.stepClock die).memOk :=
  ite_memOk (ite_memOk hs (logEvent_memOk (memOk_with hs))) (ite_memOk (memOk_with hs) hs)

theorem execClockWindow_memOk (hs : s.memOk) : NextOk (execClockWindow s) :=
  nextOk (memOk_with (foldl_memOk (memOk_with hs) fun _ _ ht => stepClock_memOk ht))

theorem senseDie_memOk {die temp} (hs : s.memOk) : (s.senseDie die temp).memOk := by
  dsimp only [State.senseDie]
  refine ite_memOk (ite_memOk (memOk_with hs) (ite_memOk (memOk_with hs) (memOk_with hs))) ?_
  exact ite_memOk (memOk_with hs) (memOk_with hs)

theorem execDieMarkedHot_memOk {die temp} (hs : s.memOk) : NextOk (execDieMarkedHot die temp s) := nextOk (senseDie_memOk hs)

theorem setTherm_memOk {c} (hs : s.memOk) : (s.setTherm c).2.memOk := by
  dsimp only [State.setTherm]
  refine ite_snd_memOk hs ?_
  dsimp only
  exact foldl_memOk (memOk_with hs) fun _ _ h => senseDie_memOk h

theorem execSettherm_memOk {c} (hs : s.memOk) : NextOk (execSettherm c s) := config_memOk (fun _ ht => setTherm_memOk ht) hs

theorem execMigrationChoice_memOk (hs : s.memOk) : NextOk (execMigrationChoice s) := by
  dsimp only [execMigrationChoice]
  refine nextOk (foldl_memOk (memOk_with hs) ?_)
  intro _ _ ht
  split
  · exact logEvent_memOk (preempt_memOk (setTeam_memOk ht))
  · exact ht

/-! ## The operations of Sys2Proof/Machine/Boot.lean -/

/-- A reset empties device memory and keeps the host's. -/
theorem moduleReset_memOk (hs : s.memOk) : s.moduleReset.memOk :=
  memOk_iff.2 ⟨rfl, (memOk_iff.1 hs).2⟩

theorem lost_memOk (hs : s.memOk) : s.lost.memOk := ite_memOk (memOk_with (moduleReset_memOk hs)) (moduleReset_memOk hs)

theorem execBootStart_memOk (hs : s.memOk) : NextOk (execBootStart s) :=
  nextOk (ite_memOk (memOk_with (lost_memOk hs)) (memOk_with (lost_memOk hs)))

theorem runImage_memOk {i} (hs : s.memOk) : (s.runImage i).memOk := extend_memOk (memOk_with hs)

theorem stageWork_memOk {stage} (hs : s.memOk) : (s.stageWork stage).memOk := by
  unfold State.stageWork
  split
  · exact runImage_memOk hs
  · exact foldl_memOk hs fun _ _ ht => runImage_memOk ht
  · exact hs
  · exact memOk_iff.2 ⟨rfl, (memOk_iff.1 hs).2⟩

theorem startFailed_memOk {reason} (hs : s.memOk) : (s.startFailed reason).memOk := memOk_with hs

theorem execBootStageComplete_memOk (hs : s.memOk) : NextOk (execBootStageComplete s) := by
  dsimp only [execBootStageComplete]
  refine nextOk ?_
  refine ite_memOk hs ?_
  refine ite_memOk (startFailed_memOk hs) ?_
  exact ite_memOk (memOk_with (stageWork_memOk hs)) (memOk_with (stageWork_memOk hs))

theorem execBootStageTimeout_memOk {reason} (hs : s.memOk) : NextOk (execBootStageTimeout reason s) :=
  nextOk (ite_memOk (startFailed_memOk hs) hs)

theorem execPowerLoss_memOk (hs : s.memOk) : NextOk (execPowerLoss s) := nextOk (lost_memOk hs)

theorem execThermalShutdown_memOk {unit} (hs : s.memOk) : NextOk (execThermalShutdown unit s) :=
  nextOk (memOk_with (moduleReset_memOk (logEvent_memOk hs)))


/-! ## Dispatch -/

theorem exec_memOk {i : Instr} (hs : s.memOk) : NextOk (exec i s) := by
  cases i
  case nop | nopLong => exact runWord_memOk nopMeaning_keeps hs
  case reconv | reconvLong => exact runWord_memOk reconvMeaning_keeps hs
  case yield | yieldLong => exact runWord_memOk yieldMeaning_keeps hs
  case trap | trapLong => exact runWord_memOk trapMeaning_keeps hs
  case region | regionLong => exact runWord_memOk regionMeaning_keeps hs
  case regend | regendLong => exact runWord_memOk regendMeaning_keeps hs
  case bar | barLong | barp | barpLong => exact runPoint_memOk barPoint_keeps hs
  case iadd | iaddLong | isub | isubLong | imul | imulLong | imulh | imulhLong | imad | imadw | iabs | iabsLong
      | imin | iminLong | imax | imaxLong | icmp | icmpLong | isel | andI | andLong | orI | orLong | xorI | xorLong
      | lop3 | shl | shlLong | shr | shrLong | sar | sarLong | rot | rotLong | funnel | popc | popcLong | clz
      | clzLong | brev | brevLong | bfx | bfxLong | bfi | mov | movLong | lea | leaLong | plop | pset | psetLong
      | lil | lih | fadd | faddLong | fsub | fsubLong | fmul | fmulLong | ffma | fmin | fminLong | fmax | fmaxLong
      | fcmp | fcmpLong | fclass | fclassLong | frnd | frndLong | fdot2 | fdot4 | fscale | fscaleLong | pack
      | packLong | unpk | unpkLong | frcp | frsq | fsqrt | fexp2 | flog2 | fsin | fcos | ftanh | fsigm =>
    exact runWord_memOk alu_keeps hs
  case rdsr | rdsrLong => exact runWord_memOk rdsrMeaning_keeps hs
  case wrsr | wrsrLong => exact runWord_memOk wrsrMeaning_keeps hs
  case jrole => exact runWord_memOk jroleMeaning_keeps hs
  case bra => exact runWord_memOk braMeaning_keeps hs
  case brx => exact runWord_memOk brxMeaning_keeps hs
  case call => exact runWord_memOk callMeaning_keeps hs
  case callx => exact runWord_memOk callxMeaning_keeps hs
  case ret => exact runWord_memOk retMeaning_keeps hs
  case exit => exact runWord_memOk exitMeaning_keeps hs
  case cvt => exact runWord_memOk cvtMeaning_keeps hs
  case qblk => exact runPoint_memOk qblkPoint_keeps hs
  case ld => exact runWord_memOk ldMeaning_keeps hs
  case st | stLong => exact runWord_memOk stMeaning_keeps hs
  case lds => exact runWord_memOk ldsMeaning_keeps hs
  case sts | stsLong => exact runWord_memOk stsMeaning_keeps hs
  case ldc => exact runWord_memOk ldcMeaning_keeps hs
  case atom => exact runWord_memOk atomMeaning_keeps hs
  case atoms => exact runWord_memOk atomsMeaning_keeps hs
  case cas => exact runWord_memOk casMeaning_keeps hs
  case cass => exact runWord_memOk cassMeaning_keeps hs
  case red | redLong => exact runWord_memOk redMeaning_keeps hs
  case fence | fenceLong => exact runWord_memOk fenceMeaning_keeps hs
  case lease | leaseLong => exact runWord_memOk leaseMeaning_keeps hs
  case pref | prefLong => exact runWord_memOk prefMeaning_keeps hs
  case pres => exact runWord_memOk presMeaning_keeps hs
  case vote | shfl | redt | scant | matchI | elect | actmask | tbar | tbarLong =>
    exact runPoint_memOk collPoint_keeps hs
  case copy | copyLong | copym | copymLong => exact runWord_memOk copyMeaning_keeps hs
  case sealLong => exact runWord_memOk sealMeaning_keeps hs
  case waitb | waitbLong => exact runWord_memOk waitbMeaning_keeps hs
  case osbres => exact runWord_memOk osbresMeaning_keeps hs
  case osbrel | osbrelLong => exact runWord_memOk osbrelMeaning_keeps hs
  case plload | plloadLong => exact runWord_memOk plloadMeaning_keeps hs
  case plfree | plfreeLong => exact runWord_memOk plfreeMeaning_keeps hs
  case mxfence | mxfenceLong => exact runWord_memOk mxfenceMeaning_keeps hs
  case mxissue => exact runWord_memOk mxissueMeaning_keeps hs
  case mxwait | mxwaitLong => exact runWord_memOk mxwaitMeaning_keeps hs
  case vrel | vrelLong => exact runWord_memOk vrelMeaning_keeps hs
  case vtrd => exact runWord_memOk vtrdMeaning_keeps hs
  case vtwr | vtwrLong => exact runWord_memOk vtwrMeaning_keeps hs
  case chain | chainLong => exact runWord_memOk chainMeaning_keeps hs
  case chwait | chwaitLong => exact runWord_memOk chwaitMeaning_keeps hs
  case enq | enqLong | enqi | enqiLong => exact runWord_memOk enqMeaning_keeps hs
  case deqmore => exact runWord_memOk deqmoreMeaning_keeps hs
  case qlen => exact runWord_memOk qlenMeaning_keeps hs
  case decdep | decdepLong => exact runWord_memOk decdepMeaning_keeps hs
  case launch | launchLong => exact runWord_memOk launchMeaning_keeps hs
  case arcinit | arcinitLong => exact runWord_memOk arcinitMeaning_keeps hs
  case arcadd | arcaddLong => exact runWord_memOk arcaddMeaning_keeps hs
  case arcwait | arcwaitLong | arcwaitSwap => exact runWord_memOk arcwaitMeaning_keeps hs
  case pldem | pldemLong => exact runWord_memOk pldemMeaning_keeps hs
  case plstate => exact runWord_memOk plstateMeaning_keeps hs
  case gate | gateLong => exact runWord_memOk gateMeaning_keeps hs
  case lblrd => exact runWord_memOk lblrdMeaning_keeps hs
  case give | giveLong | claim | claimLong => exact runPoint_memOk rowsPoint_keeps hs
  case syscall => exact runWord_memOk syscallMeaning_keeps hs
  case quadrantIssueCycle => exact execQuadrantIssueCycle_memOk hs
  case bar4Access => exact execBar4Access_memOk hs
  case cxlMemAccess => exact execCxlMemAccess_memOk hs
  case setcore => exact execSetcore_memOk hs
  case setmem => exact execSetmem_memOk hs
  case setslices => exact execSetslices_memOk hs
  case mapframes => exact execMapframes_memOk hs
  case relframes => exact execRelframes_memOk hs
  case sets2 => exact execSets2_memOk hs
  case setctx => exact execSetctx_memOk hs
  case inval => exact execInval_memOk hs
  case killctx => exact execKillctx_memOk hs
  case setfilter => exact execSetfilter_memOk hs
  case setorr => exact execSetorr_memOk hs
  case evict => exact execEvict_memOk hs
  case savearea => exact execSavearea_memOk hs
  case fabwin => exact execFabwin_memOk hs
  case getreport => exact execGetreport_memOk hs
  case getcert => exact execGetcert_memOk hs
  case fwstage => exact execFwstage_memOk hs
  case bindslot => exact execBindslot_memOk hs
  case unbindslot => exact execUnbindslot_memOk hs
  case bindfn => exact execBindfn_memOk hs
  case setgrant => exact execSetgrant_memOk hs
  case polinstall => exact execPolinstall_memOk hs
  case polrevoke => exact execPolrevoke_memOk hs
  case polread => exact execPolread_memOk hs
  case plpool => exact execPlpool_memOk hs
  case meshdef => exact execMeshdef_memOk hs
  case plinstall => exact execPlinstall_memOk hs
  case plremove => exact execPlremove_memOk hs
  case fwdcfg => exact execFwdcfg_memOk hs
  case portres => exact execPortres_memOk hs
  case stationid => exact execStationid_memOk hs
  case linkup => exact execLinkup_memOk hs
  case portquery => exact execPortquery_memOk hs
  case telemetry => exact execTelemetry_memOk hs
  case errlog => exact execErrlog_memOk hs
  case settherm => exact execSettherm_memOk hs
  case measlog => exact execMeaslog_memOk hs
  case survey => exact execSurvey_memOk hs
  case agePromotion => exact execAgePromotion_memOk hs
  case teamctlPromotion => exact execTeamctlPromotion_memOk hs
  case slotDecision => exact execSlotDecision_memOk hs
  case batchwaitExpiry => exact execBatchwaitExpiry_memOk hs
  case teamRetirement => exact execTeamRetirement_memOk hs
  case stageRunCompletionReport => exact execStageRunCompletionReport_memOk hs
  case cellarRefillStep => exact execCellarRefillStep_memOk hs
  case ephemerisPublish => exact execEphemerisPublish_memOk hs
  case forwardingDecision => exact execForwardingDecision_memOk hs
  case launchRecordAccept => exact execLaunchRecordAccept_memOk hs
  case gangDeadline => exact execGangDeadline_memOk hs
  case coherencePointAccess => exact execCoherencePointAccess_memOk hs
  case memoryResponse => exact execMemoryResponse_memOk hs
  case leaseExpiry => exact execLeaseExpiry_memOk hs
  case pinnedRetry => exact execPinnedRetry_memOk hs
  case pinnedLineTimeout => exact execPinnedLineTimeout_memOk hs
  case streamerWritePerform => exact execStreamerWritePerform_memOk hs
  case plateLoadComplete => exact execPlateLoadComplete_memOk hs
  case mxissueComplete => exact execMxissueComplete_memOk hs
  case chainElementStep => exact execChainElementStep_memOk hs
  case gateTransferAck => exact execGateTransferAck_memOk hs
  case syscallReply => exact execSyscallReply_memOk hs
  case syscallTimeout => exact execSyscallTimeout_memOk hs
  case teamSave => exact execTeamSave_memOk hs
  case drainDeadlineExpiry => exact execDrainDeadlineExpiry_memOk hs
  case notifyWrite => exact execNotifyWrite_memOk hs
  case launchSlotWrite => exact execLaunchSlotWrite_memOk hs
  case sealWaitTimeout => exact execSealWaitTimeout_memOk hs
  case lerrClear => exact execLerrClear_memOk hs
  case hifdrvWrite => exact execHifdrvWrite_memOk hs
  case apbaseWrite => exact execApbaseWrite_memOk hs
  case leasecfgWrite => exact execLeasecfgWrite_memOk hs
  case vfctlWrite => exact execVfctlWrite_memOk hs
  case fqlostClear => exact execFqlostClear_memOk hs
  case registerWrite => exact execRegisterWrite_memOk hs
  case fqresReissue => exact execFqresReissue_memOk hs
  case fqresTerminate => exact execFqresTerminate_memOk hs
  case fqresReflect => exact execFqresReflect_memOk hs
  case faultResolutionTimeout => exact execFaultResolutionTimeout_memOk hs
  case frameScrubComplete => exact execFrameScrubComplete_memOk hs
  case bootStart => exact execBootStart_memOk hs
  case bootStageTimeout => exact execBootStageTimeout_memOk hs
  case vfFlr => exact execVfFlr_memOk hs
  case vfEnableClear => exact execVfEnableClear_memOk hs
  case fabricRequest => exact execFabricRequest_memOk hs
  case fabricResponse => exact execFabricResponse_memOk hs
  case hello => exact execHello_memOk hs
  case clock => exact execClock_memOk hs
  case notifyMsg => exact execNotifyMsg_memOk hs
  case refuse => exact execRefuse_memOk hs
  case renq => exact execRenq_memOk hs
  case renqack => exact execRenqack_memOk hs
  case ephem => exact execEphem_memOk hs
  case gack => exact execGack_memOk hs
  case gabort => exact execGabort_memOk hs
  case preq core => exact execPreq_memOk (core := core) hs
  case pstart epoch => exact execPstart_memOk (epoch := epoch) hs
  case palloc => exact execPalloc_memOk hs
  case pready => exact execPready_memOk hs
  case pswitch => exact execPswitch_memOk hs
  case pabandon => exact execPabandon_memOk hs
  case pdone conv epoch => exact execPdone_memOk (conv := conv) (epoch := epoch) hs
  case cprep => exact execCprep_memOk hs
  case cvote => exact execCvote_memOk hs
  case ccommit => exact execCcommit_memOk hs
  case resetMsg => exact execResetMsg_memOk hs
  case attreq => exact execAttreq_memOk hs
  case attresp => exact execAttresp_memOk hs
  case portLeavesActive => exact execPortLeavesActive_memOk hs
  case clockOutOfBound => exact execClockOutOfBound_memOk hs
  case uncorrectableError => exact execUncorrectableError_memOk hs
  case correctedErrorThreshold => exact execCorrectedErrorThreshold_memOk hs
  case selfTestComplete => exact execSelfTestComplete_memOk hs
  case rowSurveyComplete => exact execRowSurveyComplete_memOk hs
  case sliceSurveyComplete => exact execSliceSurveyComplete_memOk hs
  case clockWindow => exact execClockWindow_memOk hs
  case migrationChoice => exact execMigrationChoice_memOk hs
  case thermalShutdown => exact execThermalShutdown_memOk hs
  case ephemerisRemotePublication => exact execEphemerisRemotePublication_memOk hs
  case clockMessagePeriod => exact execClockMessagePeriod_memOk hs
  case gangIdRetentionExpiry => exact execGangIdRetentionExpiry_memOk hs
  case bootStageComplete => exact execBootStageComplete_memOk hs
  case powerLoss => exact execPowerLoss_memOk hs
  case dieMarkedHot => exact execDieMarkedHot_memOk hs
  case correctedError => exact execCorrectedError_memOk hs
  case vfEnableSet => exact execVfEnableSet_memOk hs
  -- SEAL: its name is a word of Lean, so its case is the one left
  next => exact runWord_memOk sealMeaning_keeps hs

/-! ## What a step does -/

/-- What a step is about to do leaves canonical memories. -/
def TodoOk : Todo → Prop
  | .run _ s => s.memOk = true
  | .done s => s.memOk = true
  | .did o => NextOk o

/-- Whatever is due, if anything, leaves canonical memories. -/
def DueOk (o : Option Todo) : Prop := ∀ x, o = some x → TodoOk x

theorem dueOk_none : DueOk none := fun x e => (Option.some_ne_none x e.symm).elim

theorem dueOk_some {x : Todo} (hx : TodoOk x) : DueOk (some x) := by
  rintro y ⟨⟩
  exact hx

theorem DueOk.ite {c : Prop} [Decidable c] {o u : Option Todo} (ho : DueOk o) (hu : DueOk u) : DueOk (if c then o else u) := by
  split
  · exact ho
  · exact hu

theorem DueOk.orElse {o : Option Todo} {f : Unit → Option Todo} (ho : DueOk o) (hf : DueOk (f ())) : DueOk (o.orElse f) := by
  cases o with
  | none => exact hf
  | some x => exact ho

theorem DueOk.map {o : Option α} {f : α → Todo} (hf : ∀ x, TodoOk (f x)) : DueOk (o.map f) := by
  intro y e
  obtain ⟨x, -, rfl⟩ := Option.map_eq_some_iff.1 e
  exact hf x

theorem DueOk.findSome {xs : List α} {f : α → Option Todo} (hf : ∀ x, DueOk (f x)) : DueOk (xs.findSome? f) := by
  intro y e
  obtain ⟨x, -, hx⟩ := List.exists_of_findSome?_eq_some e
  exact hf x y hx

theorem DueOk.getD {o : Option Todo} {x : Todo} (ho : DueOk o) (hx : TodoOk x) : TodoOk (o.getD x) := by
  cases o with
  | none => exact hx
  | some y => exact ho y rfl

theorem bootDo_dueOk (hs : s.memOk) : DueOk s.bootDo := by
  refine .ite (dueOk_some (execBootStart_memOk hs)) (.ite dueOk_none ?_)
  exact .ite (dueOk_some (execBootStageTimeout_memOk hs)) (dueOk_some (execBootStageComplete_memOk hs))

theorem reqDo_dueOk {r} (hs : s.memOk) : DueOk (s.reqDo r) := by
  refine .ite (dueOk_some (execPinnedLineTimeout_memOk hs)) (.ite dueOk_none ?_)
  refine .ite (dueOk_some (execMemoryResponse_memOk hs)) ?_
  exact .ite (dueOk_some (execPinnedRetry_memOk hs)) (.ite (dueOk_some (execCoherencePointAccess_memOk hs)) dueOk_none)

theorem outDo_dueOk {o} (hs : s.memOk) : DueOk (s.outDo o) := by
  refine .ite (dueOk_some (reqTimeout_memOk hs)) (.ite ?_ dueOk_none)
  exact .ite (dueOk_some (reqEnd_memOk hs)) (dueOk_some (memOk_with hs))

theorem memDo_dueOk (hs : s.memOk) : DueOk s.memDo :=
  .orElse (.findSome fun _ => reqDo_dueOk hs) <| .orElse (.findSome fun _ => outDo_dueOk hs) <|
    .map fun _ => execLeaseExpiry_memOk hs

theorem engineDo_dueOk (hs : s.memOk) : DueOk s.engineDo :=
  .orElse (.map fun _ => execStreamerWritePerform_memOk hs) <| .orElse (.map fun _ => execPlateLoadComplete_memOk hs) <|
  .orElse (.map fun _ => retime_memOk hs) <| .orElse (.map fun _ => execChainElementStep_memOk hs) <|
  .orElse (.map fun _ => execMxissueComplete_memOk hs) <| .orElse (.map fun _ => execGateTransferAck_memOk hs) <|
    .map fun _ => execSyscallReply_memOk hs

theorem queueDo_dueOk (hs : s.memOk) : DueOk s.queueDo :=
  .orElse (.map fun _ => execLaunchRecordAccept_memOk hs) <| .orElse (.map fun _ => serveQueue_memOk hs) <|
    .map fun _ => execCellarRefillStep_memOk hs

theorem teamDo_dueOk (hs : s.memOk) : DueOk s.teamDo :=
  .orElse (.map fun _ => execTeamSave_memOk hs) <| .orElse (.map fun _ => execDrainDeadlineExpiry_memOk hs) <|
  .orElse (.map fun _ => execTeamRetirement_memOk hs) <| .orElse (.map fun _ => execStageRunCompletionReport_memOk hs) <|
  .orElse (.map fun _ => execSlotDecision_memOk hs) <| .orElse (.map fun _ => execAgePromotion_memOk hs) <|
    .map fun _ => execTeamctlPromotion_memOk hs

theorem ephemDo_dueOk (hs : s.memOk) : DueOk s.ephemDo :=
  .ite (dueOk_some (execEphemerisPublish_memOk hs)) <| .ite (dueOk_some (execEphemerisRemotePublication_memOk hs)) dueOk_none

theorem deadlineDo_dueOk (hs : s.memOk) : DueOk s.deadlineDo :=
  .orElse (.map fun _ => execGangDeadline_memOk hs) <| .orElse (.map fun _ => execGangIdRetentionExpiry_memOk hs) <|
  .orElse (.map fun _ => execFrameScrubComplete_memOk hs) <| .orElse (.map fun _ => execSealWaitTimeout_memOk hs) <|
    .map fun _ => execFaultResolutionTimeout_memOk hs

theorem operatorDo_dueOk (hs : s.memOk) : DueOk s.operatorDo := by
  refine .ite (dueOk_some (selfTests_memOk hs)) <| .orElse (.map fun _ => surveyOver_memOk hs) <|
    .orElse (.map fun _ => execCorrectedErrorThreshold_memOk hs) ?_
  refine .ite (dueOk_some (execClockWindow_memOk hs)) <| .ite (dueOk_some (execMigrationChoice_memOk hs)) ?_
  exact .ite (dueOk_some (execClockMessagePeriod_memOk hs)) dueOk_none

theorem wakeDo_dueOk (hs : s.memOk) : DueOk s.wakeDo := by
  refine .orElse (.map fun _ => arcGo_memOk hs) <| .orElse (.map fun _ => pollCounter_memOk hs) <|
    .orElse (.map fun _ => serveOsb_memOk hs) ?_
  refine .ite (dueOk_some (wakeCopies_memOk hs)) <| .ite (dueOk_some (wakeMail_memOk hs)) ?_
  exact .map fun _ => endParlour_memOk hs

theorem eventDo_dueOk (hs : s.memOk) : DueOk s.eventDo :=
  .orElse (memDo_dueOk hs) <| .orElse (engineDo_dueOk hs) <| .orElse (queueDo_dueOk hs) <| .orElse (teamDo_dueOk hs) <|
    .orElse (ephemDo_dueOk hs) <| .orElse (deadlineDo_dueOk hs) (operatorDo_dueOk hs)

theorem mailDo_dueOk (hs : s.memOk) : DueOk s.mailDo := by
  unfold State.mailDo
  split
  · exact dueOk_some (memOk_with hs)
  · split
    · exact dueOk_some (memOk_with hs)
    · exact dueOk_none

theorem inputDo_dueOk (hs : s.memOk) : DueOk s.inputDo :=
  .map fun _ => memOk_with hs

theorem lateDo_dueOk (hs : s.memOk) : DueOk s.lateDo :=
  .orElse (.map fun _ => execForwardingDecision_memOk hs) <| .map fun _ => memOk_with hs

theorem turnDo_todoOk (hs : s.memOk) : TodoOk s.turnDo := by
  unfold State.turnDo
  split
  · exact execQuadrantIssueCycle_memOk (memOk_with hs)
  · exact (lateDo_dueOk hs).getD (tick_memOk hs)

theorem between_todoOk (hs : s.memOk) : TodoOk s.between :=
  DueOk.getD (.orElse (bootDo_dueOk hs) <| .orElse (wakeDo_dueOk hs) <| .orElse (inputDo_dueOk hs) <|
    .orElse (mailDo_dueOk hs) (eventDo_dueOk hs)) (turnDo_todoOk hs)

theorem choose_todoOk (hs : s.memOk) : TodoOk s.choose := by
  unfold State.choose
  split
  · exact between_todoOk hs
  · split
    · exact memOk_with hs
    · split
      · exact hs
      · exact encStop_memOk hs

/-! ## One step -/

theorem step_nextOk (hs : s.memOk) : NextOk (step s) := by
  have h := choose_todoOk hs
  unfold step
  split <;> rename_i e <;> rw [e] at h
  · exact exec_memOk h
  · exact nextOk h
  · exact h

end

/-- Settles O60: every branch of a step is made of operations that keep the memories canonical (`step_nextOk`). -/
theorem stepKeepsMemory : Obligations.StepKeepsMemory := by
  unfold Obligations.StepKeepsMemory
  intro s t hs e
  exact step_nextOk hs t e

end Sys2Proof.Machine

namespace Sys2Proof.Machine

open Sys2Proof

/-! # A cycle passes (O53) -/

/-- Of the two states, the second differs in its registers only. -/
def OnlyRegs (s t : State) : Prop := t = { s with r := t.r }

theorem OnlyRegs.step {s t u : State} (h : OnlyRegs s t) (hu : OnlyRegs t u) : OnlyRegs s u := by
  unfold OnlyRegs at *
  rw [hu, h]

theorem State.onlyRegs_tileSet (s : State) (t : TRef) (k : Tile) (x : Word) : OnlyRegs s (s.tileSet t k x) := by
  cases k with
  | m n =>
    show OnlyRegs s (s.mSet t n (x != 0))
    unfold State.mSet
    split <;> rfl
  | _ => rfl

theorem State.onlyRegs_writeReg (s : State) (w : RegWrite) : OnlyRegs s (s.writeReg w) := by
  unfold State.writeReg
  split
  · exact s.onlyRegs_tileSet _ _ _
  · rfl

/-- A fold of operations that change registers only changes registers only. -/
theorem onlyRegs_foldl {β : Type} {f : State → β → State} (hf : ∀ s x, OnlyRegs s (f s x)) {s t : State} (xs : List β)
    (h : OnlyRegs s t) : OnlyRegs s (xs.foldl f t) :=
  foldl_keeps (OnlyRegs s) f (fun u x hu => hu.step (hf u x)) xs t h

theorem State.onlyRegs_applyLbl (s : State) (w : LblWrite) : OnlyRegs s (s.applyLbl w) := rfl
theorem State.onlyRegs_setThr (s : State) (t : TRef) (f : Thread → Thread) : OnlyRegs s (s.setThr t f) := rfl
theorem State.onlyRegs_tokAdd (s : State) (t : TRef) (k : Nat) (up : Bool) : OnlyRegs s (s.tokAdd t k up) := rfl

theorem State.onlyRegs_applyPend (s : State) (p : Pend) : OnlyRegs s (s.applyPend p) := by
  unfold State.applyPend
  refine onlyRegs_foldl (fun u (k : TRef × Nat) => u.onlyRegs_tokAdd k.1 k.2 false) _ ?_
  refine onlyRegs_foldl (fun u (f : TRef × _) => u.onlyRegs_setThr f.1 _) _ ?_
  refine onlyRegs_foldl (fun u (f : TRef × _) => u.onlyRegs_setThr f.1 _) _ ?_
  refine onlyRegs_foldl State.onlyRegs_applyLbl _ ?_
  exact onlyRegs_foldl State.onlyRegs_writeReg _ rfl

theorem State.onlyRegs_applyDue (s : State) :
    OnlyRegs { s with sch.pend := s.sch.pend.filter fun p => ¬ p.due ≤ s.clk.cycle } s.applyDue :=
  onlyRegs_foldl State.onlyRegs_applyPend _ rfl

theorem State.r_applyDue_of_none_due (s : State) (h : ∀ p ∈ s.sch.pend, s.clk.cycle < p.due) : s.applyDue.r = s.r := by
  have hr : (s.sch.pend.filter fun p => p.due ≤ s.clk.cycle) = [] := by
    simpa using h
  unfold State.applyDue
  simp only [hr, List.foldl_nil]

/-- A single result of a single write, when it is due, is that write. -/
theorem State.applyDue_of_one_write (s : State) (p : Pend) (w : RegWrite) (hp : s.sch.pend = [p]) (hd : p.due ≤ s.clk.cycle)
    (hw : p.writes = [w]) (hl : p.lbls = []) (hf : p.flags = []) (hk : p.links = []) (ht : p.toks = []) :
    s.applyDue = ({ s with sch.pend := [] } : State).writeReg w := by
  simp [State.applyDue, State.applyPend, hp, hd, hw, hl, hf, hk, ht]

/-- R19, R203: a write to a v register of a thread changes that register, if the thread is live, and nothing else. -/
theorem State.vGet_writeReg (s : State) (x y : TRef) (n k : Nat) (w : Word) :
    (s.writeReg ⟨x, .v n, w⟩).vGet y k = if y = x ∧ k = n ∧ (s.thr x).live = true then w else s.vGet y k := by
  by_cases hx : (s.thr x).live = true
  · simp only [State.writeReg, hx, if_true, and_true, State.tileSet, State.vSet, State.vGet, mget_mset, Prod.mk.injEq]
  · simp [State.writeReg, hx]

theorem State.rest_writeReg_v (s : State) (x : TRef) (n : Nat) (w : Word) :
    s.writeReg ⟨x, .v n, w⟩ = { s with r.v := (s.writeReg ⟨x, .v n, w⟩).r.v } := by
  unfold State.writeReg
  split <;> rfl

/-- R6: the clock one cycle later. -/
def State.ticked (s : State) : State :=
  { s with
    clk.cycle := s.clk.cycle + 1
    clk.tclk := if 13 ≤ s.clk.tfrac + 10 then s.clk.tclk + 1 else s.clk.tclk
    clk.tfrac := if 13 ≤ s.clk.tfrac + 10 then s.clk.tfrac + 10 - 13 else s.clk.tfrac + 10 }

theorem State.tick_eq (s : State) : s.tick = { s.ticked.applyDue with clk.todo := s.ticked.applyDue.quadrants } := rfl

/-- R6: ten thirteenths of a unit of the transit clock pass, with the whole units carried. -/
theorem State.ticked_fraction (s : State) (h : s.clk.tfrac < 13) :
    s.ticked.clk.tfrac < 13 ∧ s.ticked.clk.tfrac % 13 = (s.clk.tfrac + 10) % 13 ∧
      s.ticked.clk.tclk = s.clk.tclk + if s.clk.tfrac < 3 then 0 else 1 := by
  by_cases h3 : s.clk.tfrac < 3
  · have : ¬ 13 ≤ s.clk.tfrac + 10 := by omega
    simp only [State.ticked, this, h3, if_true, if_false]
    exact ⟨by omega, trivial, by simp⟩
  · have : 13 ≤ s.clk.tfrac + 10 := by omega
    simp only [State.ticked, this, h3, if_true, if_false, and_true]
    omega

theorem step_of_nothing_due (s : State) (hc : s.clk.cur = none) (ht : s.clk.todo = []) (hb : s.bootDo = none)
    (hw : s.wakeDo = none) (hi : s.inputDo = none) (hm : s.mailDo = none) (he : s.eventDo = none) (hl : s.lateDo = none) :
    step s = .next s.tick := by
  have h : s.choose = .done s.tick := by
    simp [State.choose, State.between, State.turnDo, hc, ht, hb, hw, hi, hm, he, hl]
  rw [step, h]

/-- Settles O53: with nothing else due the step is `State.tick`, which moves the clock on and writes the results that are due; those
change registers only (`State.onlyRegs_applyDue`). -/
theorem cyclesPass : Obligations.CyclesPass := by
  unfold Obligations.CyclesPass
  intro s hc ht hb hw hi hm he hl
  have hr := s.ticked.onlyRegs_applyDue
  refine ⟨s.tick, step_of_nothing_due s hc ht hb hw hi hm he hl, ?_⟩
  rw [State.tick_eq, hr]
  refine ⟨rfl, s.ticked_fraction, rfl, rfl, rfl, rfl, rfl, rfl, fun p => ?_, fun hp => ?_, ?_⟩
  · simp [State.ticked]
  · exact s.ticked.r_applyDue_of_none_due hp
  · intro p x n w hp hd hws hls hfs hks hts
    rw [s.ticked.applyDue_of_one_write p _ hp hd hws hls hfs hks hts, State.rest_writeReg_v]
    refine ⟨rfl, rfl, rfl, rfl, fun y k => ?_⟩
    exact State.vGet_writeReg _ x y n k w

end Sys2Proof.Machine

namespace Sys2Proof.Machine

open Sys2Proof

/-! # What a step runs (O52) -/

/-- What a thing to do leads to. -/
def Todo.out : Todo → Host.Outcome State Fault Refusal
  | .run i s => exec i s
  | .done s => .next s
  | .did o => o

theorem step_eq_out (s : State) : step s = s.choose.out := by
  unfold step Todo.out
  cases s.choose <;> rfl

theorem step_of_fetched {s : State} {g : IssueGroup} (hc : s.clk.cur = some g.id) (hg : s.ig? g.id = some g) :
    step s = match s.fetched g with | .ok (i, _) => exec i s | .error e => .next (s.encStop g e) := by
  rw [step_eq_out, State.choose, hc]
  dsimp only
  rw [hg]
  dsimp only
  cases s.fetched g <;> rfl

theorem step_of_group_gone {s : State} {id : Nat} (hc : s.clk.cur = some id) (hg : s.ig? id = none) :
    step s = .next { s with clk.cur := none } := by
  rw [step_eq_out, State.choose, hc]
  dsimp only
  rw [hg]
  rfl

/-- The first input, once its time has come, is due. -/
theorem State.dueInputs_cons {s : State} {x : DWord × Instr} {rest : List (DWord × Instr)} (hi : s.clk.inputs = x :: rest)
    (ht : x.1.toNat ≤ s.clk.tclk.toNat) :
    s.dueInputs = x :: rest.takeWhile fun y => !DWord.past y.1 s.clk.tclk := by
  have : DWord.past x.1 s.clk.tclk = false := by simp [DWord.past]; omega
  simp [State.dueInputs, hi, this]

theorem State.takeInput_head {s : State} {x : DWord × Instr} {rest : List (DWord × Instr)} (hi : s.clk.inputs = x :: rest) :
    s.takeInput x = .run x.2 { s with clk.inputs := rest } := by
  simp [State.takeInput, hi]

theorem step_of_input {s : State} {x : DWord × Instr} {rest : List (DWord × Instr)} (hc : s.clk.cur = none)
    (hb : s.bootDo = none) (hw : s.wakeDo = none) (hi : s.clk.inputs = x :: rest) (ht : x.1.toNat ≤ s.clk.tclk.toNat)
    (hl : lateKey x.2 = none) : step s = exec x.2 { s with clk.inputs := rest } := by
  have hin : s.inputDo = some (s.takeInput x) := by simp [State.inputDo, State.dueInputs_cons hi ht, hl]
  have h : s.choose = .run x.2 { s with clk.inputs := rest } := by
    simp [State.choose, State.between, hc, hb, hw, hin, State.takeInput_head hi]
  rw [step_eq_out, h, Todo.out]

section Turn
variable {s : State} (hc : s.clk.cur = none) (hb : s.bootDo = none) (hw : s.wakeDo = none) (hi : s.inputDo = none)
  (hm : s.mailDo = none) (he : s.eventDo = none)
include hc hb hw hi hm he

/-- With no event due, a step is the turn of a quadrant, or what follows the quadrants' turns. -/
theorem choose_eq_turnDo : s.choose = s.turnDo := by
  simp [State.choose, State.between, hc, hb, hw, hi, hm, he]

theorem step_of_turn {core quad : Nat} {rest : List (Nat × Nat)} (ht : s.clk.todo = (core, quad) :: rest) :
    step s = exec (.quadrantIssueCycle core quad) { s with clk.todo := rest } := by
  rw [step_eq_out, choose_eq_turnDo hc hb hw hi hm he, State.turnDo, ht]
  rfl

theorem step_of_late {x : Todo} (ht : s.clk.todo = []) (hl : s.lateDo = some x) :
    step s = x.out := by
  rw [step_eq_out, choose_eq_turnDo hc hb hw hi hm he, State.turnDo, ht]
  simp only [hl, Option.getD_some]

end Turn

theorem State.lateDo_forward {s : State} {p port : Nat} (h : s.nextForward = some (p, port)) :
    s.lateDo = some (.did (exec (.forwardingDecision p port) s)) := by
  simp only [State.lateDo, h]
  rfl

theorem State.lateDo_request {s : State} {x : DWord × Instr} (h : s.nextForward = none) (hx : firstLate s.dueInputs = some x) :
    s.lateDo = some (s.takeInput x) := by
  simp [State.lateDo, h, hx]

theorem firstLate_renq (at_ : DWord) (h req q fwd rsz recs) (rest : List (DWord × Instr)) :
    firstLate ((at_, .renq h req q fwd rsz recs) :: rest) = some (at_, .renq h req q fwd rsz recs) := by
  simp [firstLate, lateKey]

/-- The one PLDEM request that has come in a cycle is the first. -/
theorem firstLate_preq (at_ : DWord) (h e d l core) (rest : List (DWord × Instr)) (hr : ∀ x ∈ rest, lateKey x.2 = none) :
    firstLate ((at_, .preq h e d l core) :: rest) = some (at_, .preq h e d l core) := by
  unfold firstLate
  simp only [List.find?_cons, lateKey, Option.isSome_some]
  rw [List.filter_cons_of_pos (by rfl), List.filter_eq_nil_iff.2 fun x hx => ?_]
  · rfl
  · have hk := hr x hx
    split
    · next e => simp [e, lateKey] at hk
    · simp

/-- Settles O52: each clause is one branch of `State.choose`. -/
theorem stepRunsDecoded : Obligations.StepRunsDecoded := by
  unfold Obligations.StepRunsDecoded
  intro s
  refine ⟨fun g i n hc hg hd => ?_, fun g e hc hg hd => ?_, fun id => step_of_group_gone, fun i rest at_ hc hb hw hi ht hl => ?_,
    fun core quad rest hc hb hw hi hm he ht => step_of_turn hc hb hw hi hm he ht, fun hc hb hw hi hm he ht => ⟨?_, ?_, ?_⟩⟩
  · rw [step_of_fetched hc hg, State.fetched, hd]
  · rw [step_of_fetched hc hg, State.fetched, hd]
  · exact step_of_input hc hb hw hi ht hl
  · intro part port hf
    rw [step_of_late hc hb hw hi hm he ht (State.lateDo_forward hf), Todo.out]
  · intro at_ h req q fwd rsz recs rest hf hin hat
    have hx := State.lateDo_request hf (by rw [State.dueInputs_cons hin hat, firstLate_renq])
    rw [step_of_late hc hb hw hi hm he ht hx, State.takeInput_head hin, Todo.out]
  · intro at_ h e d l core rest hf hin hat hlate
    have hr : ∀ x ∈ rest.takeWhile (fun y => !DWord.past y.1 s.clk.tclk), lateKey x.2 = none := by
      intro x hx
      have hdue := List.mem_takeWhile_imp hx
      by_contra hne
      obtain ⟨k, hk⟩ := Option.ne_none_iff_exists'.1 hne
      have := hlate x (List.takeWhile_subset _ hx) k hk
      simp [DWord.past] at hdue
      omega
    have hx := State.lateDo_request hf (by rw [State.dueInputs_cons hin hat, firstLate_preq _ _ _ _ _ _ _ hr])
    rw [step_of_late hc hb hw hi hm he ht hx, State.takeInput_head hin, Todo.out]

end Sys2Proof.Machine

namespace Sys2Proof.Machine

open Sys2Proof

/-! # What a thread starts with (O59) -/

theorem State.vGet_vSet (s : State) (t y : TRef) (n k : Nat) (w : Word) :
    (s.vSet t n w).vGet y k = if y = t ∧ k = n then w else s.vGet y k := by
  simp [State.vGet, State.vSet, mget_mset]

/-- The words that a launch sets in the registers of a thread, as `State.startThread` writes them. -/
def State.dealWords (s : State) (t : TRef) (ws : List (Word × Nat)) : State := ws.foldl (fun s w => s.vSet t w.2 w.1) s

theorem State.thr_dealWords (s : State) (t y : TRef) (ws : List (Word × Nat)) : (s.dealWords t ws).thr y = s.thr y :=
  foldl_keeps (fun u : State => u.thr y = s.thr y) (fun (s : State) (w : Word × Nat) => s.vSet t w.2 w.1) (fun _ _ h => h)
    ws s rfl

theorem State.vGet_dealWords_other (s : State) {t y : TRef} (h : y ≠ t) (ws : List (Word × Nat)) (k : Nat) :
    (s.dealWords t ws).vGet y k = s.vGet y k :=
  foldl_keeps (fun u : State => u.vGet y k = s.vGet y k) _ (fun u w hu => by rw [State.vGet_vSet, if_neg (fun e => h e.1), hu])
    ws s rfl

/-- Zero words are left out, since the registers of a new thread are 0. -/
theorem State.vGet_dealWords (t : TRef) (regs k : Nat) (hk : k < regs) (ws : List Word) (j : Nat) (s : State)
    (h0 : j ≤ k → s.vGet t k = 0) :
    (s.dealWords t ((ws.zipIdx j).filter fun w => w.1 ≠ 0 ∧ w.2 < regs)).vGet t k =
      if j ≤ k then ws.getD (k - j) 0 else s.vGet t k := by
  induction ws generalizing j s with
  | nil =>
    split
    · next h => exact h0 h
    · rfl
  | cons w ws ih =>
    have step : (s.dealWords t (((w :: ws).zipIdx j).filter fun w => w.1 ≠ 0 ∧ w.2 < regs)) =
        (if w ≠ 0 ∧ j < regs then s.vSet t j w else s).dealWords t ((ws.zipIdx (j + 1)).filter fun w => w.1 ≠ 0 ∧ w.2 < regs) := by
      rw [List.zipIdx_cons, List.filter_cons]
      by_cases h : w ≠ 0 ∧ j < regs
      · rw [if_pos (decide_eq_true h), if_pos h]; rfl
      · rw [if_neg (fun e => h (of_decide_eq_true e)), if_neg h]
    have hj : (if w ≠ 0 ∧ j < regs then s.vSet t j w else s).vGet t k = if k = j then w else s.vGet t k := by
      by_cases h : w ≠ 0 ∧ j < regs
      · rw [if_pos h]; simp [State.vGet_vSet]
      · rw [if_neg h]
        split
        · next e =>
          subst e
          rw [h0 (Nat.le_refl _)]
          by_contra hw
          exact h ⟨fun e => hw e.symm, hk⟩
        · rfl
    rw [step, ih (j + 1) _ fun hjk => by rw [hj, if_neg (by omega), h0 (by omega)], hj]
    rcases Nat.lt_trichotomy k j with h | h | h
    · rw [if_neg (by omega), if_neg (by omega), if_neg (by omega)]
    · subst h; simp
    · rw [if_pos (by omega), if_pos (by omega), show k - j = k - (j + 1) + 1 by omega]
      rfl

section Start
variable (s : State) (tid : Nat) (st : Stage) (x : Seed) (grp lane : Nat)

/-- The thread as it starts, before its registers are dealt. -/
def State.bornThread : State :=
  s.setThr ⟨tid, grp, lane⟩ fun _ =>
    { live := true, seed := BitVec.ofNat 32 ((grp * st.width + lane + 1) * 0x2C1B3C6D), dealt := x.lr.isNone }

/-- A thread starts with its own registers, the words of its launch, and the stack pointer where its stage has one. -/
theorem State.startThread_eq : s.startThread tid st x grp lane =
    (let u := (s.bornThread tid st x grp lane).dealWords ⟨tid, grp, lane⟩
      ((x.words st (grp * st.width + lane)).zipIdx.filter fun w => w.1 ≠ 0 ∧ w.2 < 8 * st.rows)
    if st.stksz ≠ 0 ∧ 16 < 8 * st.rows then
      u.vSet ⟨tid, grp, lane⟩ 16 (BitVec.ofNat 32 (st.stkbase + (grp * st.width + lane + 1) * st.stksz)) else u) := rfl

theorem State.thr_startThread (y : TRef) :
    (s.startThread tid st x grp lane).thr y = (s.bornThread tid st x grp lane).thr y := by
  rw [State.startThread_eq]
  dsimp only
  split
  · exact State.thr_dealWords _ _ _ _
  · exact State.thr_dealWords _ _ _ _

theorem State.vGet_startThread_other {y : TRef} (h : y ≠ ⟨tid, grp, lane⟩) (k : Nat) :
    (s.startThread tid st x grp lane).vGet y k = s.vGet y k := by
  rw [State.startThread_eq]
  dsimp only
  split
  · rw [State.vGet_vSet, if_neg (fun e => h e.1), State.vGet_dealWords_other _ h]; rfl
  · rw [State.vGet_dealWords_other _ h]; rfl

/-- Registers v0 to v15 hold the words of the launch, and 0 beyond them. -/
theorem State.vGet_startThread {k : Nat} (hk : k < 16) (hr : 16 ≤ 8 * st.rows) (h0 : ∀ k, s.vGet ⟨tid, grp, lane⟩ k = 0) :
    (s.startThread tid st x grp lane).vGet ⟨tid, grp, lane⟩ k = (x.words st (grp * st.width + lane)).getD k 0 := by
  have hd := State.vGet_dealWords ⟨tid, grp, lane⟩ (8 * st.rows) k (by omega) (x.words st (grp * st.width + lane)) 0
    (s.bornThread tid st x grp lane) fun _ => h0 k
  have h : ∀ u : State, (if st.stksz ≠ 0 ∧ 16 < 8 * st.rows then
      u.vSet ⟨tid, grp, lane⟩ 16 (BitVec.ofNat 32 (st.stkbase + (grp * st.width + lane + 1) * st.stksz)) else u).vGet
        ⟨tid, grp, lane⟩ k = u.vGet ⟨tid, grp, lane⟩ k := by
    intro u
    split
    · rw [State.vGet_vSet, if_neg (by omega)]
    · rfl
  rw [State.startThread_eq]
  dsimp only
  rw [h, hd, if_pos (Nat.zero_le _), Nat.sub_zero]

end Start

theorem Seed.words_of_record {x : Seed} {st : Stage} {n : Nat} {r : Rec} (hx : x.lr = none) (hr : x.recs[n]? = some r)
    (hl : r.bytes.length ≤ 64) (k : Nat) :
    (x.words st n).getD k 0 = if 4 * k + 4 ≤ r.bytes.length then BitVec.ofNat 32 (leNat ((r.bytes.drop (4 * k)).take 4)) else 0 := by
  have h : ¬ 64 < r.bytes.length := by omega
  simp only [Seed.words, hx, hr, h, if_false]
  by_cases hk : 4 * k + 4 ≤ r.bytes.length
  · have : k < r.bytes.length / 4 := by omega
    simp [hk, this]
  · have : ¬ k < r.bytes.length / 4 := by omega
    simp [hk, this]

theorem Seed.words_of_launch {x : Seed} {st : Stage} {n : Nat} {lr : LRec} (hx : x.lr = some lr) :
    x.words st n = [lr.param.setWidth 32, (lr.param >>> 32).setWidth 32] := by
  simp only [Seed.words, hx, words64, List.cons.injEq, and_true]
  constructor
  · apply BitVec.eq_of_toNat_eq; simp
  · apply BitVec.eq_of_toNat_eq; simp [Nat.shiftRight_eq_div_pow]

/-- Settles O59: the registers follow from `State.thr_startThread` and `State.vGet_startThread`. -/
theorem threadsStart : Obligations.ThreadsStart := by
  unfold Obligations.ThreadsStart
  intro s tid st x grp lane
  have ht : ((s.startThread tid st x grp lane).thr ⟨tid, grp, lane⟩) =
      { live := true, seed := BitVec.ofNat 32 ((grp * st.width + lane + 1) * 0x2C1B3C6D), dealt := x.lr.isNone } := by
    rw [State.thr_startThread, State.bornThread, State.thr_setThr, if_pos rfl]
  refine ⟨?_, ?_, ?_, ?_, ?_, ?_, ?_, ?_, fun y hy => ?_, fun y k hy => State.vGet_startThread_other s tid st x grp lane hy k,
    fun r hx hr hl hrows h0 => ⟨fun k hk hkl => ?_, fun k hk hkl => ?_⟩, fun lr hx hrows h0 => ⟨?_, ?_, fun k hk hk' => ?_⟩⟩
  iterate 8 rw [ht]
  · rw [State.thr_startThread, State.bornThread, State.thr_setThr, if_neg hy]
  · rw [State.vGet_startThread s tid st x grp lane hk hrows h0, Seed.words_of_record hx hr hl, if_pos hkl]
  · rw [State.vGet_startThread s tid st x grp lane hk hrows h0, Seed.words_of_record hx hr hl, if_neg (by omega)]
  · rw [State.vGet_startThread s tid st x grp lane (by omega) hrows h0, Seed.words_of_launch hx]; rfl
  · rw [State.vGet_startThread s tid st x grp lane (by omega) hrows h0, Seed.words_of_launch hx]; rfl
  · rw [State.vGet_startThread s tid st x grp lane hk' hrows h0, Seed.words_of_launch hx]
    obtain ⟨j, rfl⟩ : ∃ j, k = j + 2 := ⟨k - 2, by omega⟩
    rfl

end Sys2Proof.Machine

namespace Sys2Proof.Machine

open Sys2Proof

/-! # No step is refused (O57) -/

/-- A word goes on, or finds no issue group selected. -/
def GoesOrNoGroup (s : State) (o : Host.Outcome State Fault Refusal) : Prop :=
  goesOn o ∨ o = .fault .noIssueGroup ∧ s.clk.cur.bind s.ig? = none

theorem runWord_goes {s : State} {i : Instr} {m : Meaning} : GoesOrNoGroup s (runWord i m s) := by
  unfold runWord
  split
  · exact .inl ⟨_, rfl⟩
  · next h => exact .inr ⟨rfl, h⟩

theorem runPoint_goes {s : State} {i : Instr} {m : Point} : GoesOrNoGroup s (runPoint i m s) := by
  unfold runPoint
  split
  · exact .inl ⟨_, rfl⟩
  · next h => exact .inr ⟨rfl, h⟩

theorem exec_word_goes {i : Instr} (s : State) (hv : i.view ≠ none) : GoesOrNoGroup s (exec i s) := by
  cases i
  case bar | barLong | barp | barpLong | qblk | vote | shfl | redt | scant | matchI | elect | actmask | tbar | tbarLong | give
      | giveLong | claim | claimLong => exact runPoint_goes
  all_goals try contradiction
  all_goals exact runWord_goes

theorem execStreamerWritePerform_goesOn (copy : Nat) (s : State) : goesOn (execStreamerWritePerform copy s) := by
  unfold execStreamerWritePerform
  split <;> exact ⟨_, rfl⟩

theorem execPlateLoadComplete_goesOn (load : Nat) (s : State) : goesOn (execPlateLoadComplete load s) := by
  unfold execPlateLoadComplete
  split <;> exact ⟨_, rfl⟩

theorem execMxissueComplete_goesOn (core : Nat) (s : State) : goesOn (execMxissueComplete core s) := by
  unfold execMxissueComplete
  split <;> exact ⟨_, rfl⟩

theorem execChainElementStep_goesOn (core : Nat) (s : State) : goesOn (execChainElementStep core s) := by
  unfold execChainElementStep
  split <;> exact ⟨_, rfl⟩

theorem exec_event_goesOn {i : Instr} (s : State) (hv : i.view = none) : goesOn (exec i s) := by
  cases i
  case streamerWritePerform => exact execStreamerWritePerform_goesOn _ s
  case plateLoadComplete => exact execPlateLoadComplete_goesOn _ s
  case mxissueComplete => exact execMxissueComplete_goesOn _ s
  case chainElementStep => exact execChainElementStep_goesOn _ s
  all_goals try contradiction
  all_goals exact ⟨_, rfl⟩

/-! ## What a step does -/

/-- An event that a step is about to end as goes on. -/
def Todo.goes : Todo → Prop
  | .did o => goesOn o
  | _ => True

/-- Whatever is due, if anything, goes on. -/
def DueGoes (o : Option Todo) : Prop := ∀ x, o = some x → x.goes

theorem dueGoes_none : DueGoes none := fun x e => (Option.some_ne_none x e.symm).elim

theorem dueGoes_some {x : Todo} (hx : x.goes) : DueGoes (some x) := by
  rintro y ⟨⟩
  exact hx

theorem DueGoes.ite {c : Prop} [Decidable c] {o u : Option Todo} (ho : DueGoes o) (hu : DueGoes u) : DueGoes (if c then o else u) := by
  split
  · exact ho
  · exact hu

theorem DueGoes.orElse {o : Option Todo} {f : Unit → Option Todo} (ho : DueGoes o) (hf : DueGoes (f ())) :
    DueGoes (o.orElse f) := by
  cases o with
  | none => exact hf
  | some x => exact ho

theorem DueGoes.map {α : Type} {o : Option α} {f : α → Todo} (hf : ∀ x, (f x).goes) : DueGoes (o.map f) := by
  intro y e
  obtain ⟨x, -, rfl⟩ := Option.map_eq_some_iff.1 e
  exact hf x

/-- An event of the machine's own that is due, as an outcome of `exec`. -/
theorem DueGoes.events {α : Type} {o : Option α} {f : α → Host.Outcome State Fault Refusal} (hf : ∀ x, goesOn (f x)) :
    DueGoes (o.map fun x => .did (f x)) := .map hf

theorem DueGoes.findSome {α : Type} {xs : List α} {f : α → Option Todo} (hf : ∀ x, DueGoes (f x)) : DueGoes (xs.findSome? f) := by
  intro y e
  obtain ⟨x, -, hx⟩ := List.exists_of_findSome?_eq_some e
  exact hf x y hx

theorem State.surveyOver_goesOn (s : State) (x : Survey) : goesOn (s.surveyOver x) := by
  unfold State.surveyOver
  split <;> exact ⟨_, rfl⟩

section
variable (s : State)

theorem State.bootDo_goes : DueGoes s.bootDo :=
  .ite (dueGoes_some ⟨_, rfl⟩) <| .ite dueGoes_none <| .ite (dueGoes_some ⟨_, rfl⟩) (dueGoes_some ⟨_, rfl⟩)

theorem State.reqDo_goes (r : Req) : DueGoes (s.reqDo r) :=
  .ite (dueGoes_some ⟨_, rfl⟩) <| .ite dueGoes_none <| .ite (dueGoes_some ⟨_, rfl⟩) <|
    .ite (dueGoes_some ⟨_, rfl⟩) <| .ite (dueGoes_some ⟨_, rfl⟩) dueGoes_none

theorem State.outDo_goes (o : OutReq) : DueGoes (s.outDo o) :=
  .ite (dueGoes_some trivial) <| .ite (.ite (dueGoes_some trivial) (dueGoes_some trivial)) dueGoes_none

theorem State.memDo_goes : DueGoes s.memDo :=
  .orElse (.findSome s.reqDo_goes) <| .orElse (.findSome s.outDo_goes) <| .events fun _ => ⟨_, rfl⟩

theorem State.engineDo_goes : DueGoes s.engineDo :=
  .orElse (.events fun _ => execStreamerWritePerform_goesOn _ s) <| .orElse (.events fun _ => execPlateLoadComplete_goesOn _ s) <|
  .orElse (.map fun _ => trivial) <| .orElse (.events fun _ => execChainElementStep_goesOn _ s) <|
  .orElse (.events fun _ => execMxissueComplete_goesOn _ s) <| .orElse (.events fun _ => ⟨_, rfl⟩) <| .events fun _ => ⟨_, rfl⟩

theorem State.queueDo_goes : DueGoes s.queueDo :=
  .orElse (.events fun _ => ⟨_, rfl⟩) <| .orElse (.map fun _ => trivial) <| .events fun _ => ⟨_, rfl⟩

theorem State.teamDo_goes : DueGoes s.teamDo :=
  .orElse (.events fun _ => ⟨_, rfl⟩) <| .orElse (.events fun _ => ⟨_, rfl⟩) <| .orElse (.events fun _ => ⟨_, rfl⟩) <|
  .orElse (.events fun _ => ⟨_, rfl⟩) <| .orElse (.events fun _ => ⟨_, rfl⟩) <| .orElse (.events fun _ => ⟨_, rfl⟩) <|
    .events fun _ => ⟨_, rfl⟩

theorem State.ephemDo_goes : DueGoes s.ephemDo := .ite (dueGoes_some ⟨_, rfl⟩) <| .ite (dueGoes_some ⟨_, rfl⟩) dueGoes_none

theorem State.deadlineDo_goes : DueGoes s.deadlineDo :=
  .orElse (.events fun _ => ⟨_, rfl⟩) <| .orElse (.events fun _ => ⟨_, rfl⟩) <| .orElse (.events fun _ => ⟨_, rfl⟩) <|
  .orElse (.events fun _ => ⟨_, rfl⟩) <| .events fun _ => ⟨_, rfl⟩

theorem State.operatorDo_goes : DueGoes s.operatorDo :=
  .ite (dueGoes_some trivial) <| .orElse (.events s.surveyOver_goesOn) <| .orElse (.events fun _ => ⟨_, rfl⟩) <|
    .ite (dueGoes_some ⟨_, rfl⟩) <| .ite (dueGoes_some ⟨_, rfl⟩) <| .ite (dueGoes_some ⟨_, rfl⟩) dueGoes_none

theorem State.eventDo_goes : DueGoes s.eventDo :=
  .orElse s.memDo_goes <| .orElse s.engineDo_goes <| .orElse s.queueDo_goes <| .orElse s.teamDo_goes <|
    .orElse s.ephemDo_goes <| .orElse s.deadlineDo_goes s.operatorDo_goes

theorem State.wakeDo_goes : DueGoes s.wakeDo :=
  .orElse (.map fun _ => trivial) <| .orElse (.map fun _ => trivial) <| .orElse (.map fun _ => trivial) <|
    .ite (dueGoes_some trivial) <| .ite (dueGoes_some trivial) (.map fun _ => trivial)

theorem State.mailDo_goes : DueGoes s.mailDo := by
  unfold State.mailDo
  split
  · exact dueGoes_some trivial
  · split
    · exact dueGoes_some trivial
    · exact dueGoes_none

theorem State.lateDo_goes : DueGoes s.lateDo := .orElse (.events fun _ => ⟨_, rfl⟩) (.map fun _ => trivial)

theorem State.turnDo_goes : s.turnDo.goes := by
  unfold State.turnDo
  split
  · exact ⟨_, rfl⟩
  · cases h : s.lateDo with
    | none => exact trivial
    | some x => exact s.lateDo_goes x h

theorem State.between_goes : s.between.goes := by
  have hdue : DueGoes (s.bootDo.orElse fun _ => s.wakeDo.orElse fun _ => s.inputDo.orElse fun _ => s.mailDo.orElse fun _ => s.eventDo) :=
    .orElse s.bootDo_goes <| .orElse s.wakeDo_goes <| .orElse (.map fun _ => trivial) <| .orElse s.mailDo_goes s.eventDo_goes
  unfold State.between
  cases h : (s.bootDo.orElse fun _ => s.wakeDo.orElse fun _ => s.inputDo.orElse fun _ => s.mailDo.orElse fun _ => s.eventDo) with
  | none => exact s.turnDo_goes
  | some x => exact hdue x h

theorem State.choose_goes : s.choose.goes := by
  unfold State.choose
  split
  · exact s.between_goes
  · split
    · trivial
    · split <;> trivial

end

/-- A word that a step runs for an issue group finds it selected. -/
theorem choose_run_selected {s u : State} {i : Instr} (h : s.choose = .run i u) (hc : s.clk.cur ≠ none) :
    u.clk.cur.bind u.ig? ≠ none := by
  obtain ⟨id, hid⟩ := Option.ne_none_iff_exists'.1 hc
  rw [State.choose, hid] at h
  dsimp only at h
  split at h
  · cases h
  · next g hg =>
    split at h
    · cases h
      rw [hid, Option.bind_some, hg]
      exact Option.some_ne_none g
    · cases h

theorem exec_goes (i : Instr) (s : State) : (∃ t, exec i s = .next t) ∨
    (exec i s = .fault .noIssueGroup ∧ i.view.isSome = true ∧ s.clk.cur.bind s.ig? = none) := by
  by_cases hv : i.view = none
  · exact .inl (exec_event_goesOn s hv)
  · exact (exec_word_goes s hv).imp_right fun ⟨hf, hn⟩ => ⟨hf, Option.isSome_iff_ne_none.2 hv, hn⟩

/-- Settles O57: no arm of `exec` answers anything else (`exec_goes`), every event of the machine's own goes on (`choose_goes`), and the
words that a step runs for its selected group find it (`choose_run_selected`). -/
theorem stepGoesOn : Obligations.StepGoesOn := by
  unfold Obligations.StepGoesOn
  refine ⟨exec_goes, fun s => ?_⟩
  have hg := s.choose_goes
  rw [step_eq_out]
  cases h : s.choose with
  | done t => exact .inl ⟨t, rfl⟩
  | did o => rw [h] at hg; exact .inl hg
  | run i u =>
    rcases exec_goes i u with hn | ⟨hf, hv, hnone⟩
    · exact .inl hn
    · refine .inr ⟨hf, ?_, i, u, hv, rfl⟩
      by_contra hc
      exact choose_run_selected h hc hnone

end Sys2Proof.Machine

namespace Sys2Proof.Machine

open Sys2Proof

/-! # The taking of a fault (O56) -/

/-- One team, a fault queue with room whose ring starts at host address 1, and a host memory that is not in canonical form: it holds
two cells of that address, and a byte 0 written there takes away only the first. -/
def twoCellsAtRing : State :=
  { State.reset with
    sch.teams := [(0, plainTeam 0 0)]
    h.fns := [(0, { fqbase := 1 })]
    m.host := [(1, 1), (1, 1)] }

/-- The fault that its team takes, whose report begins with a byte 0. -/
def twoCellsFaulted : State := twoCellsAtRing.takeFault 0 0 0 0 0 0 0 0 0 0

theorem twoCellsAtRing_room : (twoCellsAtRing.fn 0).fqbase = 1 ∧ (twoCellsAtRing.fn 0).tail = 0 ∧ (twoCellsAtRing.fn 0).fqlog = 0 ∧
    (twoCellsAtRing.fn 0).full = false ∧ twoCellsAtRing.hasPins 0 = false ∧ twoCellsAtRing.fnOf 0 = 0 := by
  decide

/-- The second cell of address 1 is left where the report's first byte should stand. -/
theorem cget_twoCellsFaulted : cget twoCellsFaulted.m.host 1 = 1 := by
  decide +kernel

theorem head_report_twoCells :
    (((plainTeam 0 0).rep 0 0 0 0 0 0 0 0 0).bytes twoCellsAtRing.y.station twoCellsAtRing.clk.tclk).head? = some 0 := rfl

/-- Refutes O56: the statement asks the report of every state, and where host memory is not in canonical form (`State.memOk`), a byte
read back need not be the one written. -/
theorem not_encodingFaults : ¬ Obligations.EncodingFaults := by
  unfold Obligations.EncodingFaults
  rintro ⟨-, h⟩
  obtain ⟨hbase, htail, hlog, hfull, hpins, hfn⟩ := twoCellsAtRing_room
  obtain ⟨-, -, -, hrep⟩ := h twoCellsAtRing (plainTeam 0 0) 0 0 0 0 0 0 0 0 0 0 rfl
  rw [show (plainTeam 0 0).part = 0 from rfl, hfn, hbase, htail, hlog] at hrep
  obtain ⟨-, -, -, hbytes⟩ := hrep (by decide) hfull hpins
  have hhead := congrArg List.head? hbytes
  rw [head_report_twoCells] at hhead
  have hread : cget twoCellsFaulted.m.host 1 = 0 := Option.some.inj hhead
  rw [cget_twoCellsFaulted] at hread
  exact absurd hread (by decide)

end Sys2Proof.Machine

namespace Sys2Proof.Machine

open Sys2Proof

/-! # Quadrant issue and promotion (O45) -/

/-! ## The issue of a quadrant -/

section Quadrant
variable (s : State) (core quad : Nat)

theorem quadrant_of_open {g : IssueGroup} (hg : (s.markHeld core quad).openGroup core quad = some g) :
    exec (.quadrantIssueCycle core quad) s = .next { s.markHeld core quad with clk.cur := some g.id } := by
  show execQuadrantIssueCycle core quad s = _
  simp only [execQuadrantIssueCycle, hg]

section NoneOpen
variable (hn : (s.markHeld core quad).openGroup core quad = none)
include hn

/-- With no open group that may issue, complete sets open first. -/
theorem quadrant_of_set {g : IssueGroup} (hg : ((s.markHeld core quad).openSets core quad 4).openGroup core quad = some g) :
    exec (.quadrantIssueCycle core quad) s =
      .next { (s.markHeld core quad).openSets core quad 4 with clk.cur := some g.id } := by
  show execQuadrantIssueCycle core quad s = _
  simp only [execQuadrantIssueCycle, hn, hg]

/-- Where no complete set may issue either, a new group forms if a context is free. -/
theorem quadrant_of_none (hg : ((s.markHeld core quad).openSets core quad 4).openGroup core quad = none) :
    exec (.quadrantIssueCycle core quad) s =
      .next (if ((s.markHeld core quad).openSets core quad 4).contextFree core quad then
        ((s.markHeld core quad).openSets core quad 4).formGroup core quad else (s.markHeld core quad).openSets core quad 4) := by
  show execQuadrantIssueCycle core quad s = _
  simp only [execQuadrantIssueCycle, hn, hg]

end NoneOpen

end Quadrant

/-! ## A path moves to the front -/

theorem State.path?_mem {s : State} {pid : Nat} {p : Path} (h : s.path? pid = some p) : p ∈ s.sch.paths ∧ p.id = pid := by
  refine ⟨List.mem_of_find?_eq_some h, ?_⟩
  simpa using List.find?_some h

/-- Whether two paths stand in one list of a group and quadrant. -/
def Path.beside (p q : Path) : Bool := q.g = p.g && q.quad = p.quad

theorem toFront_eq (p : Path) (ps : List Path) :
    toFront p ps = match (ps.filter fun q => q.id ≠ p.id).findIdx? p.beside with
      | some k => (ps.filter fun q => q.id ≠ p.id).take k ++ p :: (ps.filter fun q => q.id ≠ p.id).drop k
      | none => ps.map fun q => if q.id = p.id then p else q := rfl

theorem filter_map_replace (p : Path) (ps : List Path) :
    ((ps.map fun q => if q.id = p.id then p else q).filter fun q => q.id ≠ p.id) = ps.filter fun q => q.id ≠ p.id := by
  induction ps with
  | nil => rfl
  | cons q ps ih =>
    by_cases h : q.id = p.id
    · simpa [h] using ih
    · simpa [h] using ih

/-- The other paths keep their places. -/
theorem toFront_filter (p : Path) (ps : List Path) :
    ((toFront p ps).filter fun q => q.id ≠ p.id) = ps.filter fun q => q.id ≠ p.id := by
  rw [toFront_eq]
  split
  · rw [List.filter_append, List.filter_cons_of_neg (by simp), ← List.filter_append, List.take_append_drop, List.filter_filter]
    simp
  · exact filter_map_replace p ps

theorem find?_map_replace {p : Path} {ps : List Path} (h : ∃ q ∈ ps, q.id = p.id) :
    (ps.map fun q => if q.id = p.id then p else q).find? (fun q => q.id = p.id) = some p := by
  induction ps with
  | nil => obtain ⟨q, hq, _⟩ := h; cases hq
  | cons q ps ih =>
    by_cases hq : q.id = p.id
    · simp [hq]
    · obtain ⟨r, hr, hrp⟩ := h
      have hr : r ∈ ps := (List.mem_cons.1 hr).resolve_left fun e => hq (e ▸ hrp)
      simpa [hq] using ih ⟨r, hr, hrp⟩

theorem find?_toFront {p : Path} {ps : List Path} (h : ∃ q ∈ ps, q.id = p.id) :
    (toFront p ps).find? (fun q => q.id = p.id) = some p := by
  rw [toFront_eq]
  split
  · next k _ =>
    have hno : ((ps.filter fun q => q.id ≠ p.id).take k).find? (fun q => q.id = p.id) = none := by
      rw [List.find?_eq_none]
      intro q hq
      simpa using (List.mem_filter.1 (List.mem_of_mem_take hq)).2
    rw [List.find?_append, hno]
    simp
  · exact find?_map_replace h

/-- The moved path stands before every other path of its group and quadrant. -/
theorem find?_beside_toFront {p : Path} {ps : List Path} (h : ∃ q ∈ ps, q.id ≠ p.id ∧ p.beside q) :
    (toFront p ps).find? p.beside = some p := by
  obtain ⟨q, hq, hqp, hb⟩ := h
  rw [toFront_eq]
  split
  · next k hk =>
    rw [List.findIdx?_eq_some_iff_getElem] at hk
    obtain ⟨_, _, hlt⟩ := hk
    have hno : ((ps.filter fun q => q.id ≠ p.id).take k).find? p.beside = none := by
      rw [List.find?_eq_none]
      intro r hr
      obtain ⟨j, hj, rfl⟩ := List.mem_take_iff_getElem.1 hr
      exact hlt j (by omega)
    rw [List.find?_append, hno]
    simp [Path.beside]
  · next hk =>
    rw [List.findIdx?_eq_none_iff] at hk
    have := hk q (List.mem_filter.2 ⟨hq, by simpa using hqp⟩)
    simp [this] at hb

/-! ## Promotion by age and by TEAMCTL -/

section Promote
variable {s : State} {p : Path}

theorem State.promote_eq (hp : s.path? p.id = some p) :
    s.promote p.id = { s with sch.paths := toFront { p with promoted := true } s.sch.paths } := by
  simp only [State.promote, hp]

theorem agePromotion_of_path (hp : s.path? p.id = some p) :
    exec (.agePromotion p.id) s = .next (if s.agesOut p then s.promote p.id else s) := by
  show execAgePromotion p.id s = _
  simp only [execAgePromotion, hp]

theorem State.promote_filter (hp : s.path? p.id = some p) :
    ((s.promote p.id).sch.paths.filter fun q => q.id ≠ p.id) = s.sch.paths.filter fun q => q.id ≠ p.id := by
  rw [State.promote_eq hp]
  exact toFront_filter { p with promoted := true } s.sch.paths

theorem State.promote_path? (hp : s.path? p.id = some p) : (s.promote p.id).path? p.id = some { p with promoted := true } := by
  rw [State.promote_eq hp]
  exact find?_toFront (p := { p with promoted := true }) ⟨p, (State.path?_mem hp).1, rfl⟩

theorem State.promote_first (hp : s.path? p.id = some p)
    (h : ∃ q ∈ s.sch.paths, q.id ≠ p.id ∧ q.g = p.g ∧ q.quad = p.quad) :
    ((s.promote p.id).sch.paths.find? fun q => q.g = p.g && q.quad = p.quad).map (·.id) = some p.id := by
  obtain ⟨q, hq, hid, hg, hquad⟩ := h
  rw [State.promote_eq hp]
  have := find?_beside_toFront (p := { p with promoted := true }) ⟨q, hq, hid, by simp [Path.beside, hg, hquad]⟩
  show (List.find? (Path.beside { p with promoted := true }) _).map _ = _
  rw [this]
  rfl

end Promote

/-- The paths of a team that its promotion by TEAMCTL moves. -/
def State.agedOf (s : State) (tid : Nat) (t : Team) : List Path :=
  (s.pathsOf tid).filter fun p => p.state = .runnable && fairTime t.fairx ≤ s.age p

section Teamctl
variable {s : State} {tid n : Nat} {t : Team}

theorem teamctlPromotion_of_none (ht : s.team? tid = some t) (hn : t.promoteAt = none) :
    exec (.teamctlPromotion tid) s = .next s := by
  show execTeamctlPromotion tid s = _
  simp only [execTeamctlPromotion, ht, hn]

theorem teamctlPromotion_of_early (ht : s.team? tid = some t) (hn : t.promoteAt = some n) (hlt : s.clk.cycle < n) :
    exec (.teamctlPromotion tid) s = .next s := by
  show execTeamctlPromotion tid s = _
  simp only [execTeamctlPromotion, ht, hn, if_pos hlt]

theorem teamctlPromotion_of_due (ht : s.team? tid = some t) (hn : t.promoteAt = some n) (hle : n ≤ s.clk.cycle) :
    exec (.teamctlPromotion tid) s =
      .next ((if t.progress then (s.frontOrder (s.agedOf tid t)).foldl (fun s p => s.promote p.id) s else s).setTeam tid
        fun t => { t with promoteAt := none }) := by
  show execTeamctlPromotion tid s = _
  simp only [execTeamctlPromotion, ht, hn, if_neg (Nat.not_lt.2 hle), State.agedOf]

theorem State.agedOf_eq_nil (h : ∀ p ∈ s.sch.paths, p.g.tid = tid → p.state = .runnable → s.age p < 256 * 2 ^ t.fairx) :
    s.agedOf tid t = [] := by
  rw [State.agedOf, State.pathsOf, List.filter_filter, List.filter_eq_nil_iff]
  intro p hp
  simp only [Bool.and_eq_true, decide_eq_true_eq, fairTime]
  rintro ⟨⟨hr, hage⟩, htid⟩
  exact absurd (h p hp htid hr) (Nat.not_lt.2 (of_decide_eq_true hage))

theorem filter_eq_singleton {α : Type} {f : α → Bool} {x : α} {xs : List α} (hn : xs.Nodup) (hx : x ∈ xs) (hfx : f x)
    (h : ∀ y ∈ xs, f y → y = x) : xs.filter f = [x] := by
  induction xs with
  | nil => cases hx
  | cons y ys ih =>
    rw [List.nodup_cons] at hn
    by_cases hy : f y
    · obtain rfl := h y List.mem_cons_self hy
      rw [List.filter_cons_of_pos hy, List.filter_eq_nil_iff.2]
      exact fun z hz hfz => hn.1 (h z (List.mem_cons_of_mem _ hz) hfz ▸ hz)
    · have hx : x ∈ ys := (List.mem_cons.1 hx).resolve_left fun e => hy (e ▸ hfx)
      rw [List.filter_cons_of_neg hy]
      exact ih hn.2 hx fun z hz => h z (List.mem_cons_of_mem _ hz)

theorem State.agedOf_eq_singleton {p : Path} (hp : s.path? p.id = some p) (htid : p.g.tid = tid) (hr : p.state = .runnable)
    (hage : 256 * 2 ^ t.fairx ≤ s.age p)
    (ho : ∀ q ∈ s.sch.paths, q.g.tid = tid → q.state = .runnable → 256 * 2 ^ t.fairx ≤ s.age q → q = p)
    (hn : (s.sch.paths.map (·.id)).Nodup) : s.agedOf tid t = [p] := by
  rw [State.agedOf, State.pathsOf, List.filter_filter]
  refine filter_eq_singleton (List.Nodup.of_map _ hn) (State.path?_mem hp).1 (by simp [htid, hr, hage, fairTime]) ?_
  intro q hq hf
  simp only [Bool.and_eq_true, decide_eq_true_eq, fairTime] at hf
  obtain ⟨⟨hqr, hqage⟩, hqt⟩ := hf
  exact ho q hq hqt hqr (of_decide_eq_true hqage)

end Teamctl

/-- Settles O45: the open groups and the ranks decide the issue of a quadrant, and a promoted path moves before the paths of its
group and quadrant while the other paths keep their places. -/
theorem quadrantsAndPromotion : Obligations.QuadrantsAndPromotion := by
  unfold Obligations.QuadrantsAndPromotion LeadsTo
  intro s
  refine ⟨fun core quad g hg => quadrant_of_open s core quad hg, fun core quad hn => ?_, fun p hp _ => ?_, fun tid t ht => ?_⟩
  · refine ⟨fun g hg => quadrant_of_set s core quad hn hg, fun hg hc => ?_, fun ps hg hc => ⟨fun hps => ?_, fun hps => ?_⟩⟩
    · simp [quadrant_of_none s core quad hn hg, hc]
    · simp only [quadrant_of_none s core quad hn hg, hc, if_true, State.formGroup, hps]
    · simp only [quadrant_of_none s core quad hn hg, hc, if_true, State.formGroup, hps]
  · rw [agePromotion_of_path hp]
    refine ⟨fun h => by simp [h], fun h => ⟨s.promote p.id, by simp [h], ?_, State.promote_filter hp, State.promote_path? hp, State.promote_first hp⟩⟩
    rw [State.promote_eq hp]
  · refine ⟨teamctlPromotion_of_none ht, fun n => teamctlPromotion_of_early ht, fun n hn hle => ?_⟩
    rw [teamctlPromotion_of_due ht hn hle]
    refine ⟨fun h => by simp [h], fun h ho => ?_, fun p h hp htid hr hage ho hnd => ?_⟩
    · rw [State.agedOf_eq_nil ho, if_pos h]
      rfl
    · rw [State.agedOf_eq_singleton hp htid hr hage ho hnd, if_pos h]
      rfl

end Sys2Proof.Machine

namespace Sys2Proof.Machine

open Sys2Proof

/-! # How a path splits (O11) -/

/-! ## Stable sorting and distinct elements -/

section Sorting
variable {α : Type} {key : α → Nat} {R : α → α → Prop}

theorem insertBy_perm (key : α → Nat) (x : α) (ys : List α) : (insertBy key x ys).Perm (x :: ys) := by
  induction ys with
  | nil => exact .refl _
  | cons y ys ih =>
    rw [insertBy]
    split
    · exact .refl _
    · exact (ih.cons y).trans (.swap x y ys)

/-- Order by a key, and by a relation among equal keys. -/
def KeyThen (key : α → Nat) (R : α → α → Prop) (a b : α) : Prop := key a ≤ key b ∧ (key a = key b → R a b)

theorem pairwise_insertBy {x : α} {ys : List α} (hp : ys.Pairwise (KeyThen key R)) (hx : ∀ y ∈ ys, R y x) :
    (insertBy key x ys).Pairwise (KeyThen key R) := by
  induction ys with
  | nil => exact List.pairwise_singleton _ _
  | cons y ys ih =>
    rw [List.pairwise_cons] at hp
    obtain ⟨hy, hys⟩ := hp
    rw [insertBy]
    split
    · next hlt =>
      refine List.pairwise_cons.2 ⟨fun z hz => ?_, List.pairwise_cons.2 ⟨hy, hys⟩⟩
      have hyz : key y ≤ key z := (List.mem_cons.1 hz).elim (fun e => e ▸ Nat.le_refl _) fun hz => (hy z hz).1
      exact ⟨by omega, fun e => by omega⟩
    · next hge =>
      refine List.pairwise_cons.2 ⟨fun z hz => ?_, ih hys fun z hz => hx z (List.mem_cons_of_mem _ hz)⟩
      rcases List.mem_cons.1 ((insertBy_perm key x ys).mem_iff.1 hz) with rfl | hz
      · exact ⟨Nat.not_lt.1 hge, fun _ => hx y List.mem_cons_self⟩
      · exact hy z hz

theorem foldl_insertBy_perm (key : α → Nat) (xs acc : List α) :
    (xs.foldl (fun acc x => insertBy key x acc) acc).Perm (xs ++ acc) := by
  induction xs generalizing acc with
  | nil => exact .refl _
  | cons x xs ih => exact (ih _).trans (((insertBy_perm key x acc).append_left xs).trans List.perm_middle)

theorem sortBy_perm (key : α → Nat) (xs : List α) : (sortBy key xs).Perm xs := by
  have := foldl_insertBy_perm key xs []
  rwa [List.append_nil] at this

theorem pairwise_foldl_insertBy {xs acc : List α} (hxs : xs.Pairwise R) (ha : acc.Pairwise (KeyThen key R))
    (hax : ∀ a ∈ acc, ∀ x ∈ xs, R a x) : (xs.foldl (fun acc x => insertBy key x acc) acc).Pairwise (KeyThen key R) := by
  induction xs generalizing acc with
  | nil => exact ha
  | cons x xs ih =>
    rw [List.pairwise_cons] at hxs
    obtain ⟨hx, hxs⟩ := hxs
    refine ih hxs (pairwise_insertBy ha fun a h => hax a h x List.mem_cons_self) fun a h y hy => ?_
    rcases List.mem_cons.1 ((insertBy_perm key x acc).mem_iff.1 h) with rfl | h
    · exact hx y hy
    · exact hax a h y (List.mem_cons_of_mem _ hy)

/-- A sort is stable: elements of equal keys keep a relation in which they stood. -/
theorem pairwise_sortBy {xs : List α} (h : xs.Pairwise R) : (sortBy key xs).Pairwise (KeyThen key R) :=
  pairwise_foldl_insertBy h .nil (by simp)

theorem nodup_dedup [DecidableEq α] (xs : List α) : (dedup xs).Nodup := by
  have keeps : ∀ (xs acc : List α), acc.Nodup → (xs.foldl (fun acc x => if acc.contains x then acc else x :: acc) acc).Nodup := by
    intro xs
    induction xs with
    | nil => exact fun _ h => h
    | cons x xs ih =>
      intro acc h
      refine ih _ ?_
      show (if acc.contains x then acc else x :: acc).Nodup
      split
      · exact h
      · next hx => exact List.nodup_cons.2 ⟨by simpa using hx, h⟩
  exact List.nodup_reverse.2 (keeps xs [] .nil)

end Sorting

/-! ## The arms -/

theorem armsOf_fst (ls : List (Nat × Nat)) : (armsOf ls).map (·.1) = dedup (ls.map (·.1)) := by
  simp [armsOf, Function.comp_def]

theorem orderArms_perm (cond : Bool) (fall : Nat) (arms : List (Nat × List Nat)) : (orderArms cond fall arms).Perm arms := by
  unfold orderArms
  cases cond with
  | true => exact (sortBy_perm _ _).trans (sortBy_perm _ _)
  | false => exact (sortBy_perm _ _).trans (sortBy_perm _ _)

theorem orderArms_fst_nodup (cond : Bool) (fall : Nat) (ls : List (Nat × Nat)) :
    ((orderArms cond fall (armsOf ls)).map (·.1)).Nodup := by
  rw [((orderArms_perm cond fall (armsOf ls)).map _).nodup_iff, armsOf_fst]
  exact nodup_dedup _

theorem mem_armsOf {ls : List (Nat × Nat)} {a : Nat × List Nat} :
    a ∈ armsOf ls ↔ a.1 ∈ ls.map (·.1) ∧ a.2 = (ls.filter fun x => x.1 = a.1).map (·.2) := by
  rw [armsOf, List.mem_map]
  constructor
  · rintro ⟨pc, hpc, rfl⟩
    exact ⟨mem_dedup.1 hpc, rfl⟩
  · rintro ⟨hpc, hl⟩
    exact ⟨a.1, mem_dedup.2 hpc, Prod.ext rfl hl.symm⟩

theorem mem_iff_arm (cond : Bool) (fall : Nat) (ls : List (Nat × Nat)) (pc k : Nat) :
    (pc, k) ∈ ls ↔ ∃ a ∈ orderArms cond fall (armsOf ls), a.1 = pc ∧ k ∈ a.2 := by
  simp only [(orderArms_perm cond fall (armsOf ls)).mem_iff, mem_armsOf]
  constructor
  · intro h
    exact ⟨(pc, (ls.filter fun x => x.1 = pc).map (·.2)), ⟨List.mem_map_of_mem h, rfl⟩, rfl,
      List.mem_map.2 ⟨(pc, k), List.mem_filter.2 ⟨h, by simp⟩, rfl⟩⟩
  · rintro ⟨⟨pc', l⟩, ⟨_, hl⟩, rfl, hk⟩
    simp only at hl hk
    rw [hl] at hk
    obtain ⟨⟨a, b⟩, hx, rfl⟩ := List.mem_map.1 hk
    obtain ⟨hx, ha⟩ := List.mem_filter.1 hx
    exact (of_decide_eq_true ha : a = pc') ▸ hx

theorem arm_length_le {ls : List (Nat × Nat)} {a : Nat × List Nat} (h : a ∈ armsOf ls) : a.2.length ≤ ls.length := by
  rw [(mem_armsOf.1 h).2, List.length_map]
  exact List.length_filter_le _ _

/-- What stands before another arm of the same size. -/
def ArmFirst (cond : Bool) (fall : Nat) (a b : Nat × List Nat) : Prop :=
  (cond = true → b.1 = fall → a.1 = fall) ∧ (cond = false → a.1 ≤ b.1)

theorem orderArms_pairwise (cond : Bool) (fall : Nat) (arms : List (Nat × List Nat)) :
    (orderArms cond fall arms).Pairwise (KeyThen (fun a => 64 - a.2.length) (ArmFirst cond fall)) := by
  refine pairwise_sortBy ?_
  have any : arms.Pairwise fun _ _ => True := List.pairwise_of_forall fun _ _ => trivial
  cases cond with
  | true =>
    refine (pairwise_sortBy any).imp fun {a b} ⟨hle, _⟩ => ⟨fun _ hb => ?_, by simp⟩
    by_contra ha
    simp [ha, hb] at hle
  | false => exact (pairwise_sortBy any).imp fun {a b} ⟨hle, _⟩ => ⟨by simp, fun _ => hle⟩

/-- The larger arm first, and among equal arms the order of the rule. -/
theorem orderArms_order {cond : Bool} {fall : Nat} {ls : List (Nat × Nat)} (hl : ls.length ≤ 64) :
    (orderArms cond fall (armsOf ls)).Pairwise fun a b => b.2.length ≤ a.2.length ∧ (a.2.length = b.2.length →
      (cond = true → b.1 = fall → a.1 = fall) ∧ (cond = false → a.1 < b.1)) := by
  have small : ∀ a ∈ orderArms cond fall (armsOf ls), a.2.length ≤ 64 := fun a ha =>
    (arm_length_le ((orderArms_perm cond fall _).mem_iff.1 ha)).trans hl
  have distinct := List.pairwise_map.1 (orderArms_fst_nodup cond fall ls)
  refine ((orderArms_pairwise cond fall (armsOf ls)).and distinct).imp_of_mem fun {a b} ha hb ⟨⟨hkey, hfirst⟩, hne⟩ => ?_
  replace hkey : 64 - a.2.length ≤ 64 - b.2.length := hkey
  have := small a ha
  have := small b hb
  refine ⟨by omega, fun he => ?_⟩
  obtain ⟨hc, hpc⟩ := hfirst (show 64 - a.2.length = 64 - b.2.length by omega)
  exact ⟨hc, fun h => Nat.lt_of_le_of_ne (hpc h) hne⟩

/-! ## The new paths -/

/-- The path of an arm, by its place among the arms. -/
def State.armPath (s : State) (g : IssueGroup) (p : Path) (lbl : Label) (x : (Nat × List Nat) × Nat) : Path :=
  { p with
    id := if x.2 = 0 then p.id else s.clk.fresh + x.2
    mask := maskOf x.1.2
    scopes := s.pushScope p lbl
    state := .runnable
    pc := x.1.1
    hint := g.yld
    mid := none
    gateId := none }

theorem State.splitTo_of_two (s : State) (g : IssueGroup) (p : Path) (lbl : Label) {arms : List (Nat × List Nat)}
    (h : 2 ≤ arms.length) :
    s.splitTo g p lbl arms = { s with
      clk.fresh := s.clk.fresh + arms.length
      sch.paths := s.sch.paths.flatMap fun q => if q.id = p.id then arms.zipIdx.map (s.armPath g p lbl) else [q] } := by
  match arms, h with
  | a :: b :: as, _ => rfl

section NewPaths
variable (s : State) (g : IssueGroup) (p : Path) (lbl : Label) (arms : List (Nat × List Nat))

theorem State.armPaths_targets :
    (arms.zipIdx.map (s.armPath g p lbl)).map (fun q => (q.pc, q.mask)) = arms.map fun a => (a.1, maskOf a.2) := by
  rw [List.map_map]
  conv_rhs => rw [← List.zipIdx_map_fst 0 arms, List.map_map]
  rfl

theorem State.armPaths_ids : (arms.zipIdx.map (s.armPath g p lbl)).map (·.id) =
    (List.range arms.length).map fun k => if k = 0 then p.id else s.clk.fresh + k := by
  rw [List.map_map, List.range_eq_range', ← List.zipIdx_map_snd 0 arms, List.map_map]
  rfl

theorem State.armPaths_nodup (h : p.id ≤ s.clk.fresh) : ((arms.zipIdx.map (s.armPath g p lbl)).map (·.id)).Nodup := by
  rw [s.armPaths_ids g p lbl arms]
  refine List.nodup_range.map fun a b hab => ?_
  split_ifs at hab <;> omega

theorem State.armPath_id (x : (Nat × List Nat) × Nat) (hx : x ∈ arms.zipIdx) :
    (s.armPath g p lbl x).id = p.id ∨
      (s.clk.fresh < (s.armPath g p lbl x).id ∧ (s.armPath g p lbl x).id < s.clk.fresh + arms.length) := by
  have hlt : x.2 < arms.length := (List.mem_zipIdx' hx).1
  simp only [State.armPath]
  split
  · exact .inl rfl
  · exact .inr ⟨by omega, by omega⟩

end NewPaths

/-- Settles O11: the arms are a stable sort of the distinct targets, and their paths stand where the path stood. -/
theorem pathsSplit : Obligations.PathsSplit := by
  unfold Obligations.PathsSplit
  refine ⟨fun cond fall ls hl => ⟨orderArms_fst_nodup cond fall ls, mem_iff_arm cond fall ls, orderArms_order hl⟩, ?_⟩
  intro s g p lbl arms honly hlen
  rw [s.splitTo_of_two g p lbl hlen]
  refine ⟨⟨arms.zipIdx.map (s.armPath g p lbl), ?_, s.armPaths_targets g p lbl arms, fun q hq => ?_,
    s.armPaths_nodup g p lbl arms⟩, ?_⟩
  · refine List.flatMap_congr fun q hq => ?_
    by_cases h : q = p
    · simp [h]
    · have : q.id ≠ p.id := fun e => h (honly q hq e)
      simp [h, this]
  · obtain ⟨x, hx, rfl⟩ := List.mem_map.1 hq
    exact ⟨rfl, rfl, rfl, rfl, rfl, rfl, rfl, rfl, s.armPath_id g p lbl arms x hx⟩
  · exact ⟨rfl, fun _ => rfl⟩

end Sys2Proof.Machine

namespace Sys2Proof.Machine

open Sys2Proof

/-! # Branches, calls, returns, role jumps and traps (O9) -/

/-! ## Masks and lanes -/

theorem getLsbD_bit (i k : Nat) : ((1 : BitVec 64) <<< i).getLsbD k = (decide (k = i) && decide (k < 64)) := by
  rw [BitVec.getLsbD_shiftLeft, show (1 : BitVec 64) = 1#64 from rfl, BitVec.getLsbD_one, Bool.eq_iff_iff]
  simp only [Bool.and_eq_true, decide_eq_true_eq, Bool.not_eq_true', decide_eq_false_iff_not]
  omega

theorem foldl_getLsbD (ls : List Nat) (m : BitVec 64) (k : Nat) :
    (ls.foldl (fun m i => m ||| (1 : BitVec 64) <<< i) m).getLsbD k = (m.getLsbD k || (decide (k ∈ ls) && decide (k < 64))) := by
  induction ls generalizing m with
  | nil => simp
  | cons i ls ih =>
    rw [List.foldl_cons, ih, BitVec.getLsbD_or, getLsbD_bit, Bool.eq_iff_iff]
    simp only [Bool.or_eq_true, Bool.and_eq_true, decide_eq_true_eq, List.mem_cons]
    tauto

theorem maskOf_getLsbD (ls : List Nat) (k : Nat) : (maskOf ls).getLsbD k = (decide (k ∈ ls) && decide (k < 64)) := by
  rw [maskOf, foldl_getLsbD]
  simp

theorem mem_lanesOf {m : BitVec 64} {k : Nat} : k ∈ lanesOf m ↔ m.getLsbD k = true := by
  rw [lanesOf, List.mem_filter, List.mem_range]
  exact ⟨And.right, fun h => ⟨BitVec.lt_of_getLsbD h, h⟩⟩

theorem exists_bit {m : BitVec 64} (h : m ≠ 0) : ∃ k, m.getLsbD k = true := by
  by_contra hn
  refine h (BitVec.eq_of_getLsbD_eq fun k _ => ?_)
  rw [show (0 : BitVec 64) = 0#64 from rfl, BitVec.getLsbD_zero, ← Bool.not_eq_true]
  exact fun hk => hn ⟨k, hk⟩

theorem State.mem_pathLanes {s : State} {p : Path} {l : Lane} (h : l ∈ s.pathLanes p) :
    l.t.g = p.g ∧ p.mask.getLsbD l.t.lane = true ∧ l.pid = p.id ∧ l.ctx = p.ctxLbl := by
  obtain ⟨k, hk, rfl⟩ := List.mem_map.1 h
  exact ⟨rfl, mem_lanesOf.1 hk, rfl, rfl⟩

theorem State.mem_members {s : State} {n : Nat} {l : Lane} :
    l ∈ s.members n ↔ ∃ p ∈ s.sch.paths, p.state = .inClause n ∧ l ∈ s.pathLanes p := by
  rw [State.members, (sortBy_perm _ _).mem_iff, List.mem_flatMap]
  simp only [List.mem_filter, decide_eq_true_eq, and_assoc]

theorem State.pathLanes_congr {s t : State} (ht : t.sch.teams = s.sch.teams) (hg : t.sch.groups = s.sch.groups) (p : Path) :
    t.pathLanes p = s.pathLanes p := by
  unfold State.pathLanes State.team? State.group?
  rw [ht, hg]

/-! ## One path of a branch -/

/-- R30, R31, R33: what a branch does with one path of its group. -/
def branchPath (i : Iss) (cond : Bool) (fall : Nat) (tgt : Lane → Nat) (lbl : Lane → Label) (s : State) (p : Path) : State :=
  let ls := s.pathLanes p
  let on := ls.filter fun l => (i.on.map (·.t)).contains l.t
  let s := s.joinCtx p.id (on.foldl (fun a l => a ||| lbl l) 0)
  let to_ := ls.map fun l => (if (i.on.map (·.t)).contains l.t then tgt l else fall, l.t.lane)
  match s.path? p.id with
  | some p' => s.splitTo i.g p' (((i.ctx0.find? fun x => x.1 = p.id).map (·.2)).getD 0) (orderArms cond fall (armsOf to_))
  | none => s

theorem State.branchFrom_eq (s : State) (i : Iss) (cond : Bool) (fall : Nat) (tgt : Lane → Nat) (lbl : Lane → Label) :
    s.branchFrom i cond fall tgt lbl =
      (s.sch.paths.filter fun p => p.state = .inClause i.g.id).foldl (branchPath i cond fall tgt lbl) s := rfl

/-- Only the paths and the names given differ. -/
def PathsDiffer (s t : State) : Prop := t = { s with clk.fresh := t.clk.fresh, sch.paths := t.sch.paths }

theorem PathsDiffer.trans {s t u : State} (h : PathsDiffer s t) (h' : PathsDiffer t u) : PathsDiffer s u := by
  unfold PathsDiffer at *
  rw [h] at h'
  exact h'

theorem State.splitTo_rest (s : State) (g : IssueGroup) (p : Path) (lbl : Label) (arms : List (Nat × List Nat)) :
    PathsDiffer s (s.splitTo g p lbl arms) := by
  match arms with
  | [] => rfl
  | [_] => rfl
  | _ :: _ :: _ => rfl

theorem branchPath_rest (i : Iss) (cond : Bool) (fall : Nat) (tgt : Lane → Nat) (lbl : Lane → Label) (s : State) (p : Path) :
    PathsDiffer s (branchPath i cond fall tgt lbl s p) := by
  unfold branchPath
  dsimp only
  split
  · exact PathsDiffer.trans (t := s.joinCtx p.id _) rfl (State.splitTo_rest ..)
  · rfl

theorem State.branchFrom_rest (s : State) (i : Iss) (cond : Bool) (fall : Nat) (tgt : Lane → Nat) (lbl : Lane → Label) :
    PathsDiffer s (s.branchFrom i cond fall tgt lbl) :=
  foldl_keeps (PathsDiffer s) _ (fun _ _ h => h.trans (branchPath_rest ..)) _ _ rfl

/-- A path `p` of the state `s` has gone apart: its lanes stand in new Runnable paths, and every other path is kept. -/
structure GoneApart (s t : State) (p : Path) (dest : Lane → Nat) : Prop where
  rest : PathsDiffer s t
  fresh : s.clk.fresh ≤ t.clk.fresh
  kept : ∀ q ∈ s.sch.paths, q ≠ p → q ∈ t.sch.paths
  new : ∀ q ∈ t.sch.paths, (q ∈ s.sch.paths ∧ q ≠ p) ∨ (q.state = .runnable ∧ (q.id = p.id ∨ s.clk.fresh < q.id))
  stands : ∀ l ∈ s.pathLanes p, Stands t l.t (dest l)

/-- A path is the only one of its name. -/
def State.onlyPath (s : State) (p : Path) : Prop := p ∈ s.sch.paths ∧ ∀ q ∈ s.sch.paths, q.id = p.id → q = p

theorem find?_of_only {ps : List Path} {p : Path} {f : Path → Path} (hp : p ∈ ps) (ho : ∀ q ∈ ps, q.id = p.id → q = p)
    (hf : ∀ q, (f q).id = q.id) :
    (ps.map fun q => if q.id = p.id then f q else q).find? (fun q => q.id = p.id) = some (f p) := by
  induction ps with
  | nil => cases hp
  | cons q ps ih =>
    by_cases hq : q.id = p.id
    · obtain rfl := ho q List.mem_cons_self hq
      simp [hf]
    · have hp : p ∈ ps := (List.mem_cons.1 hp).resolve_left fun e => hq (e ▸ rfl)
      simpa [hq] using ih hp fun r hr => ho r (List.mem_cons_of_mem _ hr)

/-- The path behind a union of its context label. -/
theorem State.path?_joinCtx {s : State} {p : Path} (h : s.onlyPath p) (l : Label) :
    (s.joinCtx p.id l).path? p.id = some { p with ctxLbl := p.ctxLbl ||| l } :=
  find?_of_only (f := fun p => { p with ctxLbl := p.ctxLbl ||| l }) h.1 h.2 fun _ => rfl

section Apart
variable {s : State} {p : Path} {g : IssueGroup} {l lbl : Label} {dest : Lane → Nat}

theorem State.mem_joinCtx_of_ne (h : s.onlyPath p) {q : Path} (hq : q ∈ s.sch.paths) (hne : q ≠ p) :
    q.id ≠ p.id ∧ q ∈ (s.joinCtx p.id l).sch.paths := by
  have hid : q.id ≠ p.id := fun e => hne (h.2 q hq e)
  exact ⟨hid, List.mem_map.2 ⟨q, hq, if_neg hid⟩⟩

theorem State.of_mem_joinCtx {q : Path} (hq : q ∈ (s.joinCtx p.id l).sch.paths) (hid : q.id ≠ p.id) : q ∈ s.sch.paths ∧ q ≠ p := by
  obtain ⟨r, hr, rfl⟩ := List.mem_map.1 hq
  by_cases hrp : r.id = p.id
  · simp [hrp] at hid
  · simp only [hrp, if_false] at hid ⊢
    exact ⟨hr, fun e => hid (e ▸ rfl)⟩

/-- All lanes of the path go to one target. -/
theorem goneApart_one (h : s.onlyPath p) {pc : Nat} (hto : ∀ l ∈ s.pathLanes p, dest l = pc) :
    GoneApart s ((s.joinCtx p.id l).leave g p.id pc) p dest := by
  let new : Path → Path := fun p => { p with state := .runnable, pc := pc, hint := g.yld, mid := none, gateId := none }
  have hpaths : ((s.joinCtx p.id l).leave g p.id pc).sch.paths =
      (s.joinCtx p.id l).sch.paths.map fun q => if q.id = p.id then new q else q := rfl
  refine ⟨rfl, Nat.le_refl _, fun q hq hne => ?_, fun q hq => ?_, fun x hx => ?_⟩
  · obtain ⟨hid, hmem⟩ := State.mem_joinCtx_of_ne (l := l) h hq hne
    rw [hpaths]
    exact List.mem_map.2 ⟨q, hmem, if_neg hid⟩
  · rw [hpaths] at hq
    obtain ⟨r, hr, rfl⟩ := List.mem_map.1 hq
    by_cases hid : r.id = p.id
    · simp [hid, new]
    · simp only [hid, if_false]
      exact .inl (State.of_mem_joinCtx hr hid)
  · obtain ⟨hg, hm, _, _⟩ := State.mem_pathLanes hx
    refine ⟨new { p with ctxLbl := p.ctxLbl ||| l }, ?_, hg.symm, hm, rfl, (hto x hx).symm⟩
    rw [hpaths]
    exact List.mem_map.2 ⟨_, List.mem_of_find?_eq_some (State.path?_joinCtx h l), if_pos rfl⟩

/-- The lanes of the path go to the targets of several arms. -/
theorem goneApart_many (h : s.onlyPath p) {arms : List (Nat × List Nat)} (hlen : 2 ≤ arms.length)
    (hto : ∀ l ∈ s.pathLanes p, ∃ a ∈ arms, a.1 = dest l ∧ l.t.lane ∈ a.2) :
    GoneApart s ((s.joinCtx p.id l).splitTo g { p with ctxLbl := p.ctxLbl ||| l } lbl arms) p dest := by
  let s' := s.joinCtx p.id l
  let p' : Path := { p with ctxLbl := p.ctxLbl ||| l }
  have he := s'.splitTo_of_two g p' lbl hlen
  have hpaths := congrArg (fun t : State => t.sch.paths) he
  have hfresh := congrArg (fun t : State => t.clk.fresh) he
  dsimp only at hpaths hfresh
  refine ⟨(show PathsDiffer s s' from rfl).trans (State.splitTo_rest ..), hfresh ▸ Nat.le_add_right _ _, fun q hq hne => ?_,
    fun q hq => ?_, fun x hx => ?_⟩
  · obtain ⟨hid, hmem⟩ := State.mem_joinCtx_of_ne (l := l) h hq hne
    rw [hpaths, List.mem_flatMap]
    exact ⟨q, hmem, by rw [if_neg (show ¬ q.id = p'.id from hid)]; exact List.mem_singleton_self q⟩
  · rw [hpaths, List.mem_flatMap] at hq
    obtain ⟨r, hr, hq⟩ := hq
    by_cases hid : r.id = p.id
    · rw [if_pos (show r.id = p'.id from hid)] at hq
      obtain ⟨a, ha, rfl⟩ := List.mem_map.1 hq
      exact .inr ⟨rfl, (s'.armPath_id g p' lbl arms a ha).imp_right And.left⟩
    · rw [if_neg (show ¬ r.id = p'.id from hid), List.mem_singleton] at hq
      exact .inl (hq ▸ State.of_mem_joinCtx hr hid)
  · obtain ⟨hg, hm, _, _⟩ := State.mem_pathLanes hx
    obtain ⟨a, ha, hpc, hlane⟩ := hto x hx
    obtain ⟨k, hk⟩ := List.getElem?_of_mem ha
    refine ⟨s'.armPath g p' lbl (a, k), ?_, hg.symm, ?_, rfl, hpc⟩
    · rw [hpaths, List.mem_flatMap]
      refine ⟨p', List.mem_of_find?_eq_some (State.path?_joinCtx h l), ?_⟩
      rw [if_pos rfl]
      exact List.mem_map_of_mem (List.mk_mem_zipIdx_iff_getElem?.2 hk)
    · show (maskOf a.2).getLsbD x.t.lane = true
      rw [maskOf_getLsbD]
      simp [hlane, BitVec.lt_of_getLsbD hm]

end Apart

/-- Where a branch sends a lane. -/
def sentTo (i : Iss) (fall : Nat) (tgt : Lane → Nat) (l : Lane) : Nat := if l.t ∈ i.on.map (·.t) then tgt l else fall

theorem goneApart_branchPath {s : State} {p : Path} {i : Iss} {cond : Bool} {fall : Nat} {tgt : Lane → Nat} {lbl : Lane → Label}
    (h : s.onlyPath p) (hm : p.mask ≠ 0) : GoneApart s (branchPath i cond fall tgt lbl s p) p (sentTo i fall tgt) := by
  let arms := orderArms cond fall (armsOf ((s.pathLanes p).map fun l => (sentTo i fall tgt l, l.t.lane)))
  have harm : ∀ l ∈ s.pathLanes p, ∃ a ∈ arms, a.1 = sentTo i fall tgt l ∧ l.t.lane ∈ a.2 := fun l hl =>
    (mem_iff_arm cond fall _ _ _).1 (List.mem_map.2 ⟨l, hl, rfl⟩)
  have he : branchPath i cond fall tgt lbl s p =
      (s.joinCtx p.id (((s.pathLanes p).filter fun l => (i.on.map (·.t)).contains l.t).foldl (fun a l => a ||| lbl l) 0)).splitTo i.g
        { p with ctxLbl := p.ctxLbl ||| ((s.pathLanes p).filter fun l => (i.on.map (·.t)).contains l.t).foldl (fun a l => a ||| lbl l) 0 }
        (((i.ctx0.find? fun x => x.1 = p.id).map (·.2)).getD 0) arms := by
    unfold branchPath
    simp only [State.path?_joinCtx h, arms, sentTo, List.contains_iff_mem]
  rw [he]
  match harms : arms with
  | [] =>
    obtain ⟨k, hk⟩ := exists_bit hm
    obtain ⟨a, ha, _⟩ := harm _ (List.mem_map_of_mem (mem_lanesOf.2 hk))
    rw [harms] at ha
    cases ha
  | [(pc, xs)] =>
    refine goneApart_one h fun l hl => ?_
    obtain ⟨a, ha, hpc, _⟩ := harm l hl
    rw [harms, List.mem_singleton] at ha
    rw [← hpc, ha]
  | a :: b :: as => exact goneApart_many h (by simp) (harms ▸ harm)

/-! ## The paths of a group, one after another -/

/-- The paths of `u` in the list `ps` are still whole in `s`, every other path of the group `n` has gone apart. -/
structure Parting (u s : State) (n : Nat) (dest : Lane → Nat) (ps : List Path) : Prop where
  rest : PathsDiffer u s
  distinct : (ps.map (·.id)).Nodup
  whole : ∀ p ∈ ps, s.onlyPath p ∧ p.id < s.clk.fresh ∧ p.mask ≠ 0 ∧ p.state = .inClause n
  inside : ∀ q ∈ s.sch.paths, q.state = .inClause n → q ∈ ps
  outside : ∀ q ∈ u.sch.paths, q.state ≠ .inClause n → q ∈ s.sch.paths
  gone : ∀ p ∈ u.sch.paths, p.state = .inClause n → p ∉ ps → ∀ l ∈ u.pathLanes p, Stands s l.t (dest l)

theorem Stands.mono {s t : State} {x : TRef} {pc : Nat} (h : Stands s x pc)
    (hk : ∀ q ∈ s.sch.paths, q.state = .runnable → q ∈ t.sch.paths) : Stands t x pc := by
  obtain ⟨q, hq, hg, hm, hr, hpc⟩ := h
  exact ⟨q, hk q hq hr, hg, hm, hr, hpc⟩

theorem PathsDiffer.pathLanes {s t : State} (h : PathsDiffer s t) (p : Path) : t.pathLanes p = s.pathLanes p := by
  rw [h]
  exact State.pathLanes_congr rfl rfl p

theorem Parting.next {u s t : State} {n : Nat} {dest : Lane → Nat} {p : Path} {ps : List Path}
    (h : Parting u s n dest (p :: ps)) (ha : GoneApart s t p dest) : Parting u t n dest ps := by
  obtain ⟨⟨hp, hpo⟩, hpf, _, hpn⟩ := h.whole p List.mem_cons_self
  have hd := h.distinct
  rw [List.map_cons, List.nodup_cons] at hd
  have ne_of_id : ∀ {q : Path}, q.id ≠ p.id → q ≠ p := fun hne e => hne (e ▸ rfl)
  have run : ∀ {q : Path}, q.state = .runnable → q ≠ p := fun hr e => by rw [e, hpn] at hr; cases hr
  refine ⟨h.rest.trans ha.rest, hd.2, fun q hq => ?_, fun q hq hqn => ?_, fun q hq hqn => ?_, fun q hq hqn hqps => ?_⟩
  · obtain ⟨⟨hqs, hqo⟩, hqf, hqm, hqn⟩ := h.whole q (List.mem_cons_of_mem _ hq)
    have hqp : q.id ≠ p.id := fun e => hd.1 (e ▸ List.mem_map_of_mem hq)
    refine ⟨⟨ha.kept q hqs (ne_of_id hqp), fun r hr hid => ?_⟩, hqf.trans_le ha.fresh, hqm, hqn⟩
    rcases ha.new r hr with ⟨hrs, _⟩ | ⟨_, hrid | hrid⟩
    · exact hqo r hrs hid
    · exact absurd (hid.symm.trans hrid) hqp
    · omega
  · rcases ha.new q hq with ⟨hqs, hne⟩ | ⟨hr, _⟩
    · exact (List.mem_cons.1 (h.inside q hqs hqn)).resolve_left hne
    · rw [hr] at hqn
      cases hqn
  · exact ha.kept q (h.outside q hq hqn) fun e => hqn (e ▸ hpn)
  · intro l hl
    by_cases hqp : q = p
    · subst hqp
      exact ha.stands l (h.rest.pathLanes q ▸ hl)
    · refine (h.gone q hq hqn (fun hm => (List.mem_cons.1 hm).elim hqp hqps) l hl).mono fun r hr hrun => ?_
      exact ha.kept r hr (run hrun)

theorem Parting.all {u s : State} {i : Iss} {cond : Bool} {fall : Nat} {tgt : Lane → Nat} {lbl : Lane → Label} {n : Nat} {ps : List Path}
    (h : Parting u s n (sentTo i fall tgt) ps) :
    Parting u (ps.foldl (branchPath i cond fall tgt lbl) s) n (sentTo i fall tgt) [] := by
  induction ps generalizing s with
  | nil => exact h
  | cons p ps ih =>
    obtain ⟨ho, _, hm, _⟩ := h.whole p List.mem_cons_self
    exact ih (h.next (goneApart_branchPath ho hm))

theorem onlyPath_of_named {s : State} (h : s.named) {p : Path} (hp : p ∈ s.sch.paths) : s.onlyPath p :=
  ⟨hp, fun _ hq hid => List.inj_on_of_nodup_map h.1 hq hp hid⟩

/-- A branch leaves no path of its group whole. -/
theorem parting_branchFrom {u : State} (h : u.named) (i : Iss) (cond : Bool) (fall : Nat) (tgt : Lane → Nat) (lbl : Lane → Label) :
    Parting u (u.branchFrom i cond fall tgt lbl) i.g.id (sentTo i fall tgt) [] := by
  rw [State.branchFrom_eq]
  refine Parting.all ⟨rfl, h.1.sublist (List.filter_sublist.map _), fun p hp => ?_, fun q hq hqn => ?_, fun q hq _ => hq,
    fun p hp hpn hno => ?_⟩
  · obtain ⟨hp, hpn⟩ := List.mem_filter.1 hp
    exact ⟨onlyPath_of_named h hp, (h.2 p hp).1, (h.2 p hp).2, of_decide_eq_true hpn⟩
  · exact List.mem_filter.2 ⟨hq, by simpa using hqn⟩
  · exact absurd (List.mem_filter.2 ⟨hp, by simpa using hpn⟩) hno

/-! ## The whole of a branch -/

theorem map_id_of_none {ps : List Path} {n : Nat} {f : Path → Path} (h : ∀ p ∈ ps, p.state ≠ .inClause n) :
    (ps.map fun p => if p.state = .inClause n then f p else p) = ps := by
  conv_rhs => rw [← List.map_id ps]
  exact List.map_congr_left fun p hp => if_neg (h p hp)

section Advance
variable {s : State} {g : IssueGroup} {len stall : Nat}

/-- A group without members closes behind its word. -/
theorem State.advance_of_none (h : ∀ p ∈ s.sch.paths, p.state ≠ .inClause g.id) :
    (s.advance g len stall).sch.paths = s.sch.paths ∧ (s.advance g len stall).ig? g.id = none ∧
      ∀ k, k ≠ g.id → (s.advance g len stall).ig? k = s.ig? k := by
  unfold State.advance
  dsimp only
  split
  · refine ⟨map_id_of_none h, ?_, fun k hk => ?_⟩
    · simp only [State.closeIg, State.ig?]
      rw [find?_filter_ne, if_pos rfl]
    · simp only [State.closeIg, State.ig?]
      rw [find?_filter_ne, if_neg hk]
  · unfold State.sweepIg
    have hno : (s.sch.paths.any fun p => decide (p.state = .inClause g.id)) = false := by simpa using h
    rw [if_neg (by simp only [State.setIg_sch_paths]; simp [hno])]
    refine ⟨rfl, find?_filter_ne.trans (if_pos rfl), fun k hk => ?_⟩
    refine find?_filter_ne.trans ?_
    rw [if_neg hk]
    refine (State.ig?_setIg _ _ _ _ (fun _ => by rfl)).trans ?_
    rw [if_neg hk]
    rfl

theorem State.advance_rest : (s.advance g len stall).sansPaths = s.sansPaths ∧ (s.advance g len stall).r = s.r := by
  unfold State.advance State.sweepIg
  dsimp only
  split
  · exact ⟨rfl, rfl⟩
  · split
    · exact ⟨rfl, rfl⟩
    · exact ⟨rfl, rfl⟩

end Advance

theorem PathsDiffer.sansPaths {s t : State} (h : PathsDiffer s t) : t.sansPaths = s.sansPaths := by rw [h]; rfl

theorem PathsDiffer.r {s t : State} (h : PathsDiffer s t) : t.r = s.r := by rw [h]

theorem Counts.sansPaths {s t : State} (h : Counts s t) : t.sansPaths = s.sansPaths := by rw [h.1]; rfl

theorem Over.sansPaths {b u s : State} {g : IssueGroup} {i : Instr} (h : Over b u s g i) : u.sansPaths = b.sansPaths := by
  have := congrArg (fun z : State => { z with clk.cur := none, clk.fresh := 0, sch.igs := [] }) h.same
  exact this

theorem setThrs_bare {ls : List Lane} {thr : Lane → Thread → Thread}
    (hthr : ∀ l ∈ ls, ∀ h h' : Thread, h.bare = h'.bare → (thr l h).bare = (thr l h').bare) {s t : State}
    (h : ∀ x, (t.thr x).bare = (s.thr x).bare) (x : TRef) :
    ((ls.foldl (fun u l => u.setThr l.t (thr l)) t).thr x).bare = ((ls.foldl (fun u l => u.setThr l.t (thr l)) s).thr x).bare := by
  induction ls generalizing s t with
  | nil => exact h x
  | cons l ls ih =>
    refine ih (fun l' hl' => hthr l' (List.mem_cons_of_mem _ hl')) fun y => ?_
    rw [State.thr_setThr, State.thr_setThr]
    split
    · exact hthr l List.mem_cons_self _ _ (h l.t)
    · exact h y

theorem State.thr_congr {s t : State} (h : t.r = s.r) (x : TRef) : t.thr x = s.thr x := by
  unfold State.thr
  rw [h]

/-- What a branch leads to. -/
def State.branched (s : State) (g : IssueGroup) (i : Instr) (cond : Bool) (tgt : Lane → Nat) (lbl : Lane → Label)
    (thr : Lane → Thread → Thread) (ls : List Lane) : State :=
  (State.tokDown ((ls.foldl (fun u l => u.setThr l.t (thr l)) (s.counted g i)).branchFrom (s.iss g i) cond
    (g.pc + 4 * (fieldsOf i).len) tgt lbl) (fieldsOf i).tok ((s.acting g i).map (·.t))).advance g (fieldsOf i).len (fieldsOf i).stall

section Branched
variable {s : State} {g : IssueGroup} {i : Instr} {cond : Bool} {tgt : Lane → Nat} {lbl : Lane → Label} {thr : Lane → Thread → Thread}
  {ls : List Lane}

theorem State.branched_pathsOnly (hthr : ∀ l ∈ ls, ∀ h h' : Thread, h.bare = h'.bare → (thr l h).bare = (thr l h').bare) :
    PathsOnly (ls.foldl (fun u l => u.setThr l.t (thr l)) s) (s.branched g i cond tgt lbl thr ls) := by
  have hover := s.over_counted g i
  have hb := State.branchFrom_rest (ls.foldl (fun u l => u.setThr l.t (thr l)) (s.counted g i)) (s.iss g i) cond
    (g.pc + 4 * (fieldsOf i).len) tgt lbl
  have hc := State.counts_tokDown ((ls.foldl (fun u l => u.setThr l.t (thr l)) (s.counted g i)).branchFrom (s.iss g i) cond
    (g.pc + 4 * (fieldsOf i).len) tgt lbl) (fieldsOf i).tok ((s.acting g i).map (·.t))
  unfold State.branched
  refine ⟨?_, fun x => ?_⟩
  · rw [State.advance_rest.1, hc.sansPaths, hb.sansPaths, State.rest_setThrs, State.rest_setThrs ls thr s]
    exact hover.sansPaths
  · rw [State.thr_congr State.advance_rest.2, hc.2, State.thr_congr hb.r]
    exact setThrs_bare hthr hover.threads x

theorem State.entered_named (h : s.named) : (s.entered g i).named := by
  have hids : (s.entered g i).sch.paths.map (·.id) = s.sch.paths.map (·.id) := by
    rw [State.entered_paths, List.map_map]
    refine List.map_congr_left fun p _ => ?_
    rw [Function.comp_apply]
    split <;> rfl
  refine ⟨hids ▸ h.1, fun p hp => ?_⟩
  rw [State.entered_paths] at hp
  obtain ⟨q, hq, rfl⟩ := List.mem_map.1 hp
  split <;> exact h.2 q hq

/-- A path outside the group is as before its word. -/
theorem State.mem_entered {p : Path} (hp : p ∈ s.sch.paths) (hne : p.state ≠ .inClause g.id) : p ∈ (s.entered g i).sch.paths := by
  rw [State.entered_paths]
  exact List.mem_map.2 ⟨p, hp, if_neg hne⟩

/-- Every member stands at its target; the group is gone, and the other paths and groups are kept. -/
theorem State.branched_stands (hn : s.named) :
    (∀ l ∈ (s.entered g i).members g.id, Stands (s.branched g i cond tgt lbl thr ls) l.t
      (if l.t ∈ (s.acting g i).map (·.t) then tgt l else g.pc + 4 * (fieldsOf i).len)) ∧
    (∀ p ∈ s.sch.paths, p.state ≠ .inClause g.id → p ∈ (s.branched g i cond tgt lbl thr ls).sch.paths) ∧
    (s.branched g i cond tgt lbl thr ls).ig? g.id = none ∧ ∀ k, k ≠ g.id → (s.branched g i cond tgt lbl thr ls).ig? k = s.ig? k := by
  let u := ls.foldl (fun u l => u.setThr l.t (thr l)) (s.counted g i)
  let fall := g.pc + 4 * (fieldsOf i).len
  let v := (u.branchFrom (s.iss g i) cond fall tgt lbl).tokDown (fieldsOf i).tok ((s.acting g i).map (·.t))
  have hover := s.over_counted g i
  have hrest := State.rest_setThrs ls thr (s.counted g i)
  have hpaths : u.sch.paths = (s.entered g i).sch.paths := (congrArg (·.sch.paths) hrest).trans hover.paths
  have hclk : u.clk = s.clk := (congrArg (·.clk) hrest).trans (congrArg (·.clk) hover.same)
  have higs : u.sch.igs = s.sch.igs := (congrArg (·.sch.igs) hrest).trans (congrArg (·.sch.igs) hover.same)
  have hun : u.named := by
    have he := State.entered_named (g := g) (i := i) hn
    unfold State.named at he ⊢
    rw [hpaths, hclk]
    exact he
  have hlanes : ∀ p, u.pathLanes p = (s.entered g i).pathLanes p := State.pathLanes_congr
    ((congrArg (·.sch.teams) hrest).trans (congrArg (·.sch.teams) hover.same))
    ((congrArg (·.sch.groups) hrest).trans (congrArg (·.sch.groups) hover.same))
  have hpart := parting_branchFrom hun (s.iss g i) cond fall tgt lbl
  have hc := State.counts_tokDown (u.branchFrom (s.iss g i) cond fall tgt lbl) (fieldsOf i).tok ((s.acting g i).map (·.t))
  have hv : v.sch = (u.branchFrom (s.iss g i) cond fall tgt lbl).sch := congrArg (·.sch) hc.1
  have hnone : ∀ p ∈ v.sch.paths, p.state ≠ .inClause g.id := fun p hp hpn =>
    (List.not_mem_nil (hpart.inside p (hv ▸ hp) hpn)).elim
  obtain ⟨hap, hag, hao⟩ := State.advance_of_none (len := (fieldsOf i).len) (stall := (fieldsOf i).stall) hnone
  show (∀ l ∈ _, Stands (v.advance g (fieldsOf i).len (fieldsOf i).stall) l.t (sentTo (s.iss g i) fall tgt l)) ∧
    (∀ p ∈ s.sch.paths, p.state ≠ .inClause g.id → p ∈ (v.advance g (fieldsOf i).len (fieldsOf i).stall).sch.paths) ∧ _
  refine ⟨fun l hl => ?_, fun p hp hne => ?_, hag, fun k hk => (hao k hk).trans ?_⟩
  · obtain ⟨p, hp, hpn, hlp⟩ := State.mem_members.1 hl
    have := hpart.gone p (hpaths ▸ hp) hpn List.not_mem_nil l (hlanes p ▸ hlp)
    unfold Stands at this ⊢
    rw [hap, hv]
    exact this
  · rw [hap, hv]
    exact hpart.outside p (hpaths ▸ State.mem_entered hp hne) hne
  · unfold State.ig?
    rw [hv, congrArg (·.sch.igs) hpart.rest, higs]

end Branched

/-- A word whose effect is a branch, and that faults in no lane that acts. -/
theorem branches {s : State} {g : IssueGroup} {i : Instr} {cond : Bool} {tgt : Lane → Nat} {lbl : Lane → Label}
    {thr : Lane → Thread → Thread} {ls : List Lane} (h : s.ready g i = true) {m : Meaning} (he : exec i s = runWord i m s)
    (hc : ∀ t is l, m.closes t is l = false) (hh : ∀ t is, m.hold t is = (t, none)) (hs : ∀ t is, m.stop t is = (t, []))
    (hf : ∀ l ∈ s.acting g i, m.flt (s.entered g i) (s.iss0 g i) l = none)
    (hthr : ∀ l ∈ ls, ∀ h h' : Thread, h.bare = h'.bare → (thr l h).bare = (thr l h').bare)
    (heff : m.eff (s.counted g i) (s.iss g i) = State.tokDown ((ls.foldl (fun u l => u.setThr l.t (thr l)) (s.counted g i)).branchFrom
      (s.iss g i) cond (g.pc + 4 * (fieldsOf i).len) tgt lbl) (fieldsOf i).tok ((s.acting g i).map (·.t))) :
    ∃ t, exec i s = .next t ∧
      t = (State.tokDown (((ls.foldl (fun u l => u.setThr l.t (thr l)) (s.counted g i)).branchFrom (s.iss g i) cond
        (g.pc + 4 * (fieldsOf i).len) tgt lbl)) (fieldsOf i).tok ((s.acting g i).map (·.t))).advance g (fieldsOf i).len (fieldsOf i).stall ∧
      PathsOnly (ls.foldl (fun u l => u.setThr l.t (thr l)) s) t ∧
      (s.named → ((∀ l ∈ (s.entered g i).members g.id, Stands t l.t
          (if l.t ∈ (s.acting g i).map (·.t) then tgt l else g.pc + 4 * (fieldsOf i).len)) ∧
        (∀ p ∈ s.sch.paths, p.state ≠ .inClause g.id → p ∈ t.sch.paths) ∧ t.ig? g.id = none ∧ ∀ k, k ≠ g.id → t.ig? k = s.ig? k)) := by
  rw [runWord_acts h m hc hh hs hf, heff] at he
  exact ⟨_, he, rfl, State.branched_pathsOnly hthr, State.branched_stands⟩

/-! ## The words -/

section Words
variable {s : State} {g : IssueGroup} {i : Instr}

theorem targetFlt_none {t : State} {is : Iss} {pc : Nat} (hcode : t.codeWord is.g.part is.g.ctx pc = s.codeWord g.part g.ctx pc)
    (h : ∃ w, s.codeWord g.part g.ctx pc = some w ∧ hMark w = 0x3F) : t.targetFlt is pc = none := by
  obtain ⟨w, hw, hm⟩ := h
  rw [← hcode] at hw
  simp [State.targetFlt, State.targetOk, hw, hm]

/-- The word names no token. -/
theorem State.eq_tokDown_of_six {u v : State} {tok : Nat} {ts : List TRef} (h : tok = 6) (e : v = u) : v = u.tokDown tok ts := by
  rw [h]
  exact e

theorem Sees.link {s t : State} (h : Sees s t) (x : TRef) : (t.thr x).link = (s.thr x).link :=
  (congrArg Thread.link (h.thr x) :)

theorem Sees.linkLbl {s t : State} (h : Sees s t) (x : TRef) : (t.thr x).linkLbl = (s.thr x).linkLbl :=
  (congrArg Thread.linkLbl (h.thr x) :)

theorem State.stage?_counted (part ctx stage : Nat) : (s.counted g i).stage? part ctx stage = s.stage? part ctx stage := by
  have hgr := (s.acted_counted g i).graph
  unfold State.stage? State.ctx? State.part
  rw [hgr]

theorem link_bare (pc : Word) (lbl : Label) {h h' : Thread} (e : h.bare = h'.bare) :
    ({ h with link := pc, linkLbl := lbl } : Thread).bare = ({ h' with link := pc, linkLbl := lbl } : Thread).bare := by
  have := congrArg (fun x : Thread => { x with link := pc, linkLbl := lbl }) e
  exact this

theorem bare_popInline (h : Thread) : h.popInline.bare = h.bare.popInline := by
  cases e : h.inlStack with
  | nil => simp [Thread.popInline, Thread.bare, e]
  | cons x xs =>
    simp only [Thread.popInline, Thread.bare, e]
    split
    · rfl
    · rw [e]

theorem popInline_bare {h h' : Thread} (e : h.bare = h'.bare) : h.popInline.bare = h'.popInline.bare := by
  rw [bare_popInline, bare_popInline, e]

end Words

/-- Settles O9: each word is one branch of the paths of its group, which parts them one after another. -/
theorem branchesAndTraps : Obligations.BranchesAndTraps := by
  unfold Obligations.BranchesAndTraps
  refine ⟨fun s g i h cond tgt lbl thr ls => ?_, fun s g i st hi h hst htr hn => ?_⟩
  · intro link reg regLbl hi htgt
    have hsee := s.sees_counted g i
    rcases hi with ⟨f, rfl, rfl, rfl, rfl, rfl⟩ | ⟨f, rfl, rfl, rfl, rfl, rfl, rfl⟩ | ⟨f, rfl, rfl, rfl, rfl, rfl⟩ |
      ⟨f, rfl, rfl, rfl, rfl, rfl, rfl⟩ | ⟨f, rfl, rfl, rfl, rfl, rfl, rfl⟩ | ⟨f, rfl, rfl, rfl, rfl, rfl⟩
    · refine branches h (m := braMeaning f.off) rfl (fun _ _ _ => rfl) (fun _ _ => rfl) (fun _ _ => rfl)
        (fun l hl => targetFlt_none rfl (htgt l hl)) (by simp) ?_
      refine State.eq_tokDown_of_six rfl ?_
      rfl
    · refine branches h (m := callMeaning f.off) rfl (fun _ _ _ => rfl) (fun _ _ => rfl) (fun _ _ => rfl)
        (fun l hl => targetFlt_none rfl (htgt l hl)) (fun l _ _ _ => link_bare _ _) ?_
      refine State.eq_tokDown_of_six rfl ?_
      rfl
    · refine branches h (m := brxMeaning) rfl (fun _ _ _ => rfl) (fun _ _ => rfl) (fun _ _ => rfl)
        (fun l hl => targetFlt_none rfl (htgt l hl)) (by simp) ?_
      refine State.eq_tokDown_of_six rfl ?_
      exact congrArg₂ ((s.counted g _).branch _ _) (funext fun l => hsee.rd32 ..) (funext fun l => hsee.opLbl ..)
    · refine branches h (m := callxMeaning) rfl (fun _ _ _ => rfl) (fun _ _ => rfl) (fun _ _ => rfl)
        (fun l hl => targetFlt_none rfl (htgt l hl)) (fun l _ _ _ => link_bare _ _) ?_
      refine State.eq_tokDown_of_six rfl ?_
      exact congrArg₂ (((s.counted g _).setLink _ _).branch _ _) (funext fun l => hsee.rd32 ..) (funext fun l => hsee.opLbl ..)
    · refine branches h (m := retMeaning) rfl (fun _ _ _ => rfl) (fun _ _ => rfl) (fun _ _ => rfl)
        (fun l hl => targetFlt_none rfl (htgt l hl)) (fun l _ _ _ => popInline_bare) ?_
      refine State.eq_tokDown_of_six rfl ?_
      exact congrArg₂ (State.branch _ _ _) (funext fun l => congrArg BitVec.toNat (hsee.link l.t)) (funext fun l => hsee.linkLbl l.t)
    · refine branches h (m := jroleMeaning) rfl (fun _ _ _ => rfl) (fun _ _ => rfl) (fun _ _ => rfl)
        (fun l hl => targetFlt_none rfl (htgt l hl)) (by simp) ?_
      refine congrArg (fun tgt => State.tokDown ((s.counted g _).branch _ true tgt noLbl) _ _) (funext fun l => ?_)
      unfold State.jroleTarget
      rw [State.stage?_counted, hsee.group?]
      rfl
  · have hsee := s.sees_counted g i
    have key : ∀ {is : Iss} {t : State}, is.g = g → is.f = fieldsOf i → Sees s t → t.stage? g.part g.ctx g.stage = some st →
        ∀ l ∈ s.acting g i, trapMeaning.flt t is l = none := by
      intro is t hg hf ht hs l hl
      simp only [trapMeaning, State.trapHandler, hg, hf, ht.rd32, hs, if_neg (Nat.not_le.2 (hn l hl)), if_neg htr]
    refine branches h (m := trapMeaning) (i := i) ?_ (fun _ _ _ => rfl) (fun _ _ => rfl) (fun _ _ => rfl)
      (key rfl rfl (s.sees_entered g i) hst) (fun l _ a b e => ?_) ?_
    · rcases hi with ⟨f, rfl⟩ | ⟨f, rfl⟩
      · rfl
      · rfl
    · exact congrArg (fun x : Thread => ({ x with
        trapno := s.rd32 l.t (fieldsOf i).lit (fieldsOf i).b
        trapLbl := s.opLbl l.g (fieldsOf i).b 1 ||| l.ctx
        link := BitVec.ofNat 32 (g.pc + 4 * (fieldsOf i).len)
        linkLbl := l.ctx } : Thread)) e
    · simp only [trapMeaning, hsee.rd32, hsee.opLbl]
      have : (s.counted g i).trapHandler (s.iss g i) = some st.traph := by
        have hs : (s.counted g i).stage? (s.iss g i).g.part (s.iss g i).g.ctx (s.iss g i).g.stage = some st :=
          (State.stage?_counted _ _ _).trans hst
        simp only [State.trapHandler, hs, if_neg htr]
      rw [this]
      rfl

end Sys2Proof.Machine

namespace Sys2Proof.Machine

open Sys2Proof

/-! # EXIT and YIELD (O10) -/

/-! ## A path at the entry of a word and behind it -/

/-- R25, R33: a path of the group at the entry of the word. -/
def Path.entry (p : Path) (s : State) (g : IssueGroup) (i : Instr) : Path :=
  if p.state = .inClause g.id then
    { p with ctxLbl := p.ctxLbl ||| s.tileLbl p.g (.m (fieldsOf i).pred), since := s.clk.cycle, promoted := false,
             hint := false, readyAt := s.clk.cycle + 1 + (fieldsOf i).stall }
  else p

/-- R26: a path of a group that has gone past a word of some length: Runnable where that was the last word of the clause. -/
def Path.past (p : Path) (g : IssueGroup) (len : Nat) : Path :=
  if g.endPc ≤ g.pc + 4 * len ∧ p.state = .inClause g.id then
    { p with state := .runnable, pc := g.endPc, hint := g.yld, mid := none, gateId := none }
  else p

section PathOf
variable (p : Path) (s : State) (g : IssueGroup) (i : Instr)

@[simp] theorem Path.entry_id : (p.entry s g i).id = p.id := by unfold Path.entry; split <;> rfl
@[simp] theorem Path.entry_g : (p.entry s g i).g = p.g := by unfold Path.entry; split <;> rfl
@[simp] theorem Path.entry_quad : (p.entry s g i).quad = p.quad := by unfold Path.entry; split <;> rfl
@[simp] theorem Path.entry_mask : (p.entry s g i).mask = p.mask := by unfold Path.entry; split <;> rfl
@[simp] theorem Path.entry_state : (p.entry s g i).state = p.state := by unfold Path.entry; split <;> rfl

theorem Path.past_entry : (p.entry s g i).past g (fieldsOf i).len = p.behind s g i := by
  unfold Path.past Path.entry Path.behind
  by_cases hp : p.state = .inClause g.id
  · by_cases he : g.endPc ≤ g.pc + 4 * (fieldsOf i).len
    · simp [hp, he]
    · simp [hp, he]
  · simp [hp]

theorem Path.past_mask (m : BitVec 64) (len : Nat) : ({ p with mask := m } : Path).past g len = { p.past g len with mask := m } := by
  unfold Path.past
  split <;> rfl

end PathOf

theorem State.entered_entry (s : State) (g : IssueGroup) (i : Instr) :
    (s.entered g i).sch.paths = s.sch.paths.map fun p => p.entry s g i := State.entered_paths s g i

theorem State.counted_paths (s : State) (g : IssueGroup) (i : Instr) :
    (s.counted g i).sch.paths = s.sch.paths.map fun p => p.entry s g i :=
  (s.over_counted g i).paths.trans (s.entered_entry g i)

theorem State.advance_paths (s : State) (g : IssueGroup) (len stall : Nat) :
    (s.advance g len stall).sch.paths = s.sch.paths.map fun p => p.past g len := by
  unfold State.advance State.sweepIg Path.past
  dsimp only
  by_cases he : g.endPc ≤ g.pc + 4 * len
  · simp only [he, if_true, true_and]
    rfl
  · simp only [he, if_false, false_and, List.map_id']
    split <;> rfl

theorem State.advance_ig? (s : State) (g : IssueGroup) (len stall : Nat) {k : Nat} (hk : k ≠ g.id) :
    (s.advance g len stall).ig? k = s.ig? k := by
  unfold State.advance State.sweepIg
  dsimp only
  split
  · exact find?_filter_ne.trans (if_neg hk)
  · have hset : ∀ (u : State) f, (∀ x : IssueGroup, (f x).id = x.id) → (u.setIg g.id f).ig? k = u.ig? k := fun u f hf =>
      (State.ig?_setIg u g.id k f hf).trans (if_neg hk)
    split
    · exact hset _ _ fun _ => rfl
    · exact (find?_filter_ne.trans (if_neg hk)).trans (hset _ _ fun _ => rfl)

/-- The advance of a group leaves all but paths, issue groups and the group selected. -/
theorem State.advance_frame (s : State) (g : IssueGroup) (len stall : Nat) :
    s.advance g len stall = { s with
      clk.cur := none
      sch.paths := (s.advance g len stall).sch.paths
      sch.igs := (s.advance g len stall).sch.igs } := by
  unfold State.advance State.sweepIg
  dsimp only
  split
  · rfl
  · split <;> rfl

/-! ## A team none of whose paths waits -/

/-- No path stands in a waiting state. -/
def State.noneWaits (s : State) : Prop := ∀ p ∈ s.sch.paths, ({ p with gateId := none } : Path).waiting = false

section NoneWaits
variable {p : Path}

theorem Path.not_waiting (h : ({ p with gateId := none } : Path).waiting = false) : p.waiting = false := by
  unfold Path.waiting at h ⊢
  simp only [Option.isNone_none, Bool.true_and] at h
  rw [h, Bool.and_false]

theorem Path.not_opening (h : ({ p with gateId := none } : Path).waiting = false) : p.opening = false := by
  unfold Path.waiting at h
  unfold Path.opening
  cases hs : p.state <;> simp_all

theorem Path.state_ne (h : ({ p with gateId := none } : Path).waiting = false) :
    p.state ≠ .waitReconv ∧ p.state ≠ .waitCollective ∧ p.state ≠ .waitGroup ∧ ∀ b c, p.state ≠ .waitBarrier b c := by
  unfold Path.waiting at h
  refine ⟨?_, ?_, ?_, fun b c => ?_⟩
  all_goals
    intro e
    simp [e] at h

variable {s : State} (h : s.noneWaits) (tid : Nat)
include h

theorem State.noneWaits.pathsOf {p : Path} (hp : p ∈ s.pathsOf tid) : ({ p with gateId := none } : Path).waiting = false :=
  h p (List.mem_of_mem_filter hp)

/-- Nothing is found among paths of one of the waiting states. -/
theorem State.noneWaits.find?_none {f : Path → Bool}
    (hf : ∀ p, f p = true → p.state = .waitReconv ∨ p.state = .waitCollective ∨ p.state = .waitGroup) : (s.pathsOf tid).find? f = none := by
  rw [List.find?_eq_none]
  intro p hp hfp
  obtain ⟨h1, h2, h3, _⟩ := Path.state_ne (h.pathsOf tid hp)
  rcases hf p hfp with e | e | e
  · exact h1 e
  · exact h2 e
  · exact h3 e

theorem State.noneWaits.barFull (bar : Nat) : s.barFull tid bar = false := by
  have : s.atBarrier tid bar = [] := by
    rw [State.atBarrier, List.filter_eq_nil_iff]
    intro p hp
    have hb := (Path.state_ne (h.pathsOf tid hp)).2.2.2
    split
    · next b c e => exact absurd e (hb b c)
    · simp
  simp [State.barFull, this]

theorem State.noneWaits.settleOne : s.settleOne tid = none := by
  have hb : (List.range 16).find? (fun b => s.barFull tid b) = none := by
    rw [List.find?_eq_none]
    intro b _
    simp [h.barFull tid b]
  unfold State.settleOne
  dsimp only
  rw [h.find?_none tid fun p hp => .inl (by simp at hp; exact hp.1),
    h.find?_none tid fun p hp => .inr (.inl (by simp at hp; exact hp.1.1)),
    h.find?_none tid fun p hp => .inr (.inr (by simp at hp; exact hp.1.1)), hb]
  rfl

theorem State.noneWaits.stuck : s.stuck tid = none := by
  unfold State.stuck
  dsimp only
  rw [h.find?_none tid fun p hp => .inr (.inl (by simp at hp; exact hp.1.1)),
    h.find?_none tid fun p hp => .inr (.inr (by simp at hp; exact hp.1.1))]
  dsimp only
  cases hps : s.pathsOf tid with
  | nil => rfl
  | cons p ps =>
    have := Path.not_waiting (h.pathsOf tid (hps ▸ List.mem_cons_self : p ∈ s.pathsOf tid))
    simp [this]

theorem State.noneWaits.openTeam : s.openTeam tid = s := by
  have : (s.pathsOf tid).filter Path.opening = [] := by
    rw [List.filter_eq_nil_iff]
    intro p hp
    simp [Path.not_opening (h.pathsOf tid hp)]
  unfold State.openTeam
  rw [this]
  rfl

/-- Where no path waits, there is nothing to settle. -/
theorem State.noneWaits.settle : s.settle tid = s := by
  unfold State.settle
  rw [h.find?_none tid fun p hp => .inr (.inl (by simp at hp; exact hp.1.1))]
  dsimp only
  rw [show s.settleAll tid 4096 = s by rw [State.settleAll, h.settleOne], h.stuck]
  exact h.openTeam tid

theorem State.noneWaits.settleTeams (ls : List Lane) : s.settleTeams ls = s :=
  foldl_same _ _ _ fun tid _ => h.settle tid

end NoneWaits

/-! ## EXIT -/

/-- The lanes of a path that leave it. -/
def leavers (ls : List Lane) (p : Path) : BitVec 64 := maskOf ((ls.filter fun l => l.pid = p.id).map fun l => l.t.lane)

section Exit
variable (u : State) (ls : List Lane)

theorem State.exitThreads_eq : u.exitThreads ls = { u with
    r.thr := (ls.foldl (fun s l => s.setThr l.t fun h => { h with live := false }) u).r.thr
    sch.paths := (u.sch.paths.map fun p => { p with mask := p.mask &&& ~~~(leavers ls p) }).filter fun p => p.mask ≠ 0 } := by
  unfold State.exitThreads
  dsimp only
  rw [State.rest_setThrs ls (fun _ h => { h with live := false })]
  rfl

theorem State.thr_exitThreads (x : TRef) :
    (u.exitThreads ls).thr x = if x ∈ ls.map (·.t) then { u.thr x with live := false } else u.thr x := by
  rw [← State.thr_setThrs ls (fun h => { h with live := false }) (fun _ => rfl) u x, State.exitThreads_eq]
  rfl

theorem State.mask_exitThreads {p : Path} (hp : p ∈ (u.exitThreads ls).sch.paths) :
    p.mask ≠ 0 ∧ ∀ l ∈ ls, l.pid = p.id → p.mask.getLsbD l.t.lane = false := by
  rw [State.exitThreads_eq, List.mem_filter] at hp
  obtain ⟨hp, hm⟩ := hp
  obtain ⟨q, hq, rfl⟩ := List.mem_map.1 hp
  refine ⟨by simpa using hm, fun l hl hid => ?_⟩
  have hmem : l.t.lane ∈ (ls.filter fun l => l.pid = q.id).map fun l => l.t.lane :=
    List.mem_map_of_mem (List.mem_filter.2 ⟨hl, by simpa using hid⟩)
  by_cases h64 : l.t.lane < 64
  · simp [leavers, maskOf_getLsbD, hmem, h64]
  · exact BitVec.getLsbD_of_ge _ _ (Nat.not_lt.1 h64)

end Exit

/-- What EXIT leads to where no path waits: its threads are not live, its paths have lost them and stand behind the word. -/
theorem exit_of_noneWaits {s : State} {g : IssueGroup} {i : Instr} (hn : s.noneWaits)
    (ht : Takes s g i (s.entered g i) fun u => (u.exitThreads (s.acting g i)).settleTeams (s.acting g i)) :
    exec i s = .next (((s.counted g i).exitThreads (s.acting g i)).advance g (fieldsOf i).len (fieldsOf i).stall) := by
  have hw : ((s.counted g i).exitThreads (s.acting g i)).noneWaits := by
    intro p hp
    rw [State.exitThreads_eq] at hp
    obtain ⟨q, hq, rfl⟩ := List.mem_map.1 (List.mem_filter.1 hp).1
    rw [State.counted_paths] at hq
    obtain ⟨r, hr, rfl⟩ := List.mem_map.1 hq
    have := hn r hr
    unfold Path.waiting at this ⊢
    simpa using this
  have he : exec i s = .next ((((s.counted g i).exitThreads (s.acting g i)).settleTeams (s.acting g i)).advance g
    (fieldsOf i).len (fieldsOf i).stall) := ht
  rwa [hw.settleTeams] at he

/-- The path that is left of a path of the machine. -/
theorem exit_paths (s : State) (g : IssueGroup) (i : Instr) (ls : List Lane) :
    (((s.counted g i).exitThreads ls).advance g (fieldsOf i).len (fieldsOf i).stall).sch.paths =
      (s.sch.paths.filter fun p => p.mask &&& ~~~(leavers ls p) ≠ 0).map fun p =>
        { p.behind s g i with mask := p.mask &&& ~~~(leavers ls p) } := by
  rw [State.advance_paths, State.exitThreads_eq]
  dsimp only
  rw [State.counted_paths, List.map_map, List.filter_map, List.map_map]
  have hl : ∀ p, leavers ls (p.entry s g i) = leavers ls p := fun p => by simp only [leavers, Path.entry_id]
  refine congrArg₂ List.map (funext fun p => ?_) (List.filter_congr fun p _ => ?_)
  · simp only [Function.comp_apply, Path.past_mask, Path.past_entry, Path.entry_mask, hl]
  · simp only [Function.comp_apply, Path.entry_mask, hl]

theorem exit_thread (s : State) (g : IssueGroup) (i : Instr) (ls : List Lane) (x : TRef) :
    ((((s.counted g i).exitThreads ls).advance g (fieldsOf i).len (fieldsOf i).stall).thr x).bare =
      if x ∈ ls.map (·.t) then { (s.thr x).bare with live := false } else (s.thr x).bare := by
  have hb := (s.over_counted g i).threads x
  rw [State.thr_congr State.advance_rest.2, State.thr_exitThreads]
  split
  · exact congrArg (fun h : Thread => { h with live := false }) hb
  · exact hb

/-- A state without what the issue of a word may change in threads, paths and groups. -/
def State.sansIssue (s : State) : State :=
  { s with clk.cur := none, r.thr := [], sch.paths := [], sch.igs := [], sch.busy := [] }

theorem exit_sansIssue (s : State) (g : IssueGroup) (i : Instr) (ls : List Lane) :
    (((s.counted g i).exitThreads ls).advance g (fieldsOf i).len (fieldsOf i).stall).sansIssue = s.sansIssue := by
  have h := congrArg State.sansIssue (s.over_counted g i).same
  rw [State.advance_frame, State.exitThreads_eq]
  exact h

theorem parts_of_sansIssue {s t : State} (h : t.sansIssue = s.sansIssue) (hc : t.clk.cur = none) :
    t.r = { s.r with thr := t.r.thr } ∧ t.m = s.m ∧ t.e = s.e ∧ t.gr = s.gr ∧ t.h = s.h ∧ t.y = s.y ∧
      t.clk = { s.clk with cur := none } ∧
      { t.sch with paths := [], igs := [], busy := [] } = { s.sch with paths := [], igs := [], busy := [] } := by
  refine ⟨?_, congrArg (·.m) h, congrArg (·.e) h, congrArg (·.gr) h, congrArg (·.h) h, congrArg (·.y) h, ?_, congrArg (·.sch) h⟩
  · have hr := congrArg (fun z : State => ({ z.r with thr := t.r.thr } : Regs)) h
    exact hr
  · have hclk : ({ t.clk with cur := none } : Clk) = { s.clk with cur := none } := congrArg (·.clk) h
    rw [← hclk, ← hc]

theorem State.advance_cur (s : State) (g : IssueGroup) (len stall : Nat) : (s.advance g len stall).clk.cur = none := by
  rw [State.advance_frame]

theorem exit_ig? (s : State) (g : IssueGroup) (i : Instr) (ls : List Lane) {k : Nat} (hk : k ≠ g.id) :
    (((s.counted g i).exitThreads ls).advance g (fieldsOf i).len (fieldsOf i).stall).ig? k = s.ig? k := by
  have hs : (s.counted g i).sch.igs = s.sch.igs := congrArg (·.sch.igs) (s.over_counted g i).same
  rw [State.advance_ig? _ _ _ _ hk, State.exitThreads_eq]
  unfold State.ig?
  rw [hs]

/-! ## YIELD -/

theorem PathsDiffer.moveBack (s : State) (pid : Nat) : PathsDiffer s (s.moveBack pid) := by
  unfold State.moveBack
  split
  · split <;> rfl
  · rfl

theorem perm_toBack {ps : List Path} {p : Path} (hn : (ps.map (·.id)).Nodup) (hp : p ∈ ps) :
    ((ps.filter fun q => q.id ≠ p.id) ++ [p]).Perm ps := by
  have hone : (ps.filter fun q => !decide (q.id ≠ p.id)) = [p] := filter_eq_singleton (List.Nodup.of_map _ hn) hp (by simp)
    fun q hq hid => List.inj_on_of_nodup_map hn hq hp (by simpa using hid)
  have := List.filter_append_perm (fun q : Path => decide (q.id ≠ p.id)) ps
  rwa [hone] at this

theorem State.moveBack_perm {s : State} (hn : (s.sch.paths.map (·.id)).Nodup) (pid : Nat) :
    (s.moveBack pid).sch.paths.Perm s.sch.paths := by
  unfold State.moveBack
  split
  · next p hp =>
    split
    · exact .refl _
    · obtain ⟨hm, rfl⟩ := State.path?_mem hp
      exact perm_toBack hn hm
  · exact .refl _

theorem State.moveBacks_perm {s : State} (hn : (s.sch.paths.map (·.id)).Nodup) (pids : List Nat) :
    (pids.foldl (fun u pid => u.moveBack pid) s).sch.paths.Perm s.sch.paths := by
  refine foldl_keeps (fun u : State => u.sch.paths.Perm s.sch.paths) _ (fun u pid h => ?_) pids s (.refl _)
  exact (State.moveBack_perm ((h.map _).nodup_iff.2 hn) pid).trans h

theorem State.tokDown_paths (s : State) (tok : Nat) (ts : List TRef) : (s.tokDown tok ts).sch.paths = s.sch.paths := by
  rw [(State.counts_tokDown s tok ts).1]

/-- What YIELD leads to. -/
def State.yielded (s : State) (g : IssueGroup) (i : Instr) (pids : List Nat) : State :=
  (State.tokDown (pids.foldl (fun u pid => u.moveBack pid) (s.counted g i)) (fieldsOf i).tok ((s.acting g i).map (·.t))).advance g
    (fieldsOf i).len (fieldsOf i).stall

section Yield
variable {s : State} {g : IssueGroup} {i : Instr}

theorem State.yielded_paths (pids : List Nat) : (s.yielded g i pids).sch.paths =
    (pids.foldl (fun u pid => u.moveBack pid) (s.counted g i)).sch.paths.map fun p => p.past g (fieldsOf i).len := by
  rw [State.yielded, State.advance_paths, State.tokDown_paths]

theorem State.yielded_pathsOnly (pids : List Nat) : PathsOnly s (s.yielded g i pids) := by
  have hm : PathsDiffer (s.counted g i) (pids.foldl (fun u pid => u.moveBack pid) (s.counted g i)) :=
    foldl_keeps (PathsDiffer (s.counted g i)) _ (fun u pid h => h.trans (PathsDiffer.moveBack u pid)) _ _ rfl
  have hc := State.counts_tokDown (pids.foldl (fun u pid => u.moveBack pid) (s.counted g i)) (fieldsOf i).tok ((s.acting g i).map (·.t))
  have hover := s.over_counted g i
  refine ⟨?_, fun x => ?_⟩
  · rw [State.yielded, State.advance_rest.1, hc.sansPaths, hm.sansPaths, hover.sansPaths]
  · rw [State.yielded, State.thr_congr State.advance_rest.2, hc.2, State.thr_congr hm.r]
    exact hover.threads x

theorem map_past_entry (ps : List Path) :
    (ps.map fun p => p.entry s g i).map (fun p => p.past g (fieldsOf i).len) = ps.map fun p => p.behind s g i := by
  rw [List.map_map]
  exact List.map_congr_left fun p _ => Path.past_entry p s g i

theorem State.counted_nodup (h : (s.sch.paths.map (·.id)).Nodup) : ((s.counted g i).sch.paths.map (·.id)).Nodup := by
  rw [State.counted_paths, List.map_map]
  simpa [Function.comp_def] using h

theorem State.yielded_perm (h : (s.sch.paths.map (·.id)).Nodup) (pids : List Nat) :
    (s.yielded g i pids).sch.paths.Perm (s.sch.paths.map fun p => p.behind s g i) := by
  rw [State.yielded_paths, ← map_past_entry, ← State.counted_paths]
  exact (State.moveBacks_perm (State.counted_nodup h) pids).map _

theorem State.path?_of_nodup {s : State} {p : Path} (hn : (s.sch.paths.map (·.id)).Nodup) (hp : p ∈ s.sch.paths) :
    s.path? p.id = some p := by
  have := find?_of_only (f := id) hp (fun _ hq hid => List.inj_on_of_nodup_map hn hq hp hid) fun _ => rfl
  simpa [State.path?] using this

theorem State.runnableBeside_entry (p : Path) : ((s.counted g i).runnableBeside (p.entry s g i)).isEmpty = false ↔
    ∃ q ∈ s.sch.paths, q.g = p.g ∧ q.quad = p.quad ∧ q.id ≠ p.id ∧ q.state = .runnable := by
  rw [State.runnableBeside, State.counted_paths, List.isEmpty_eq_false_iff_exists_mem]
  simp [and_assoc]

theorem State.yielded_one {p : Path} (h : s.named) (hp : p ∈ s.sch.paths) :
    (s.yielded g i [p.id]).sch.paths =
      (if ∃ q ∈ s.sch.paths, q.g = p.g ∧ q.quad = p.quad ∧ q.id ≠ p.id ∧ q.state = .runnable then
        (s.sch.paths.filter fun q => q.id ≠ p.id) ++ [p] else s.sch.paths).map fun q => q.behind s g i := by
  have hfind : (s.counted g i).path? p.id = some (p.entry s g i) := by
    have hmem : p.entry s g i ∈ (s.counted g i).sch.paths := by
      rw [State.counted_paths]
      exact List.mem_map_of_mem hp
    have := State.path?_of_nodup (State.counted_nodup (g := g) (i := i) h.1) hmem
    rwa [Path.entry_id] at this
  have hfilter : (s.counted g i).sch.paths.filter (fun q => decide (q.id ≠ p.id)) =
      (s.sch.paths.filter fun q => q.id ≠ p.id).map fun p => p.entry s g i := by
    rw [State.counted_paths, List.filter_map]
    simp [Function.comp_def]
  rw [State.yielded_paths, List.foldl_cons, List.foldl_nil, State.moveBack, hfind]
  dsimp only
  by_cases hb : ∃ q ∈ s.sch.paths, q.g = p.g ∧ q.quad = p.quad ∧ q.id ≠ p.id ∧ q.state = .runnable
  · rw [if_pos hb, if_neg (by simpa using (State.runnableBeside_entry p).2 hb)]
    dsimp only
    rw [hfilter, ← map_past_entry, List.map_append, List.map_append, List.map_append]
    rfl
  · rw [if_neg hb, if_pos (by simpa using mt (State.runnableBeside_entry p).1 hb), State.counted_paths, map_past_entry]

theorem dedup_eq_singleton {α : Type} [DecidableEq α] {xs : List α} {a : α} (hne : xs ≠ []) (h : ∀ x ∈ xs, x = a) : dedup xs = [a] := by
  have hrep := List.eq_replicate_of_mem fun x hx => h x (mem_dedup.1 hx)
  obtain ⟨x, hx⟩ := List.exists_mem_of_ne_nil xs hne
  have hpos := List.length_pos_of_mem (mem_dedup.2 hx)
  have hnd := nodup_dedup xs
  rw [hrep, List.nodup_replicate] at hnd
  rw [hrep, show (dedup xs).length = 1 by omega]
  rfl

end Yield

/-- Settles O10: EXIT takes its threads out of their paths, and where no path waits nothing is left to settle; YIELD permutes the
paths. -/
theorem exitAndYield : Obligations.ExitAndYield := by
  unfold Obligations.ExitAndYield
  intro s g i h ls off
  refine ⟨fun f hi => ?_, fun hi => ?_⟩
  · have ht : Takes s g i (s.entered g i) fun u => (u.exitThreads ls).settleTeams ls := by
      subst hi
      exact takes_acts (m := exitMeaning) h rfl (fun _ _ _ => rfl) (fun _ _ => rfl) rfl (State.acting_alive ..) rfl
    refine ⟨ht, fun u x => ?_, fun u p hp => State.mask_exitThreads u ls hp, fun hn => ⟨_, exit_of_noneWaits hn ht, ?_⟩⟩
    · rw [State.thr_exitThreads]
      by_cases hx : x ∈ ls.map (·.t) <;> simp [hx]
    · obtain ⟨hr, hm, he, hgr, hh, hy, hclk, hsch⟩ := parts_of_sansIssue (exit_sansIssue s g i ls) (State.advance_cur ..)
      exact ⟨exit_thread s g i ls, exit_paths s g i ls, hr, hm, he, hgr, hh, hy, hclk, fun k hk => exit_ig? s g i ls hk, hsch⟩
  · have he : exec i s = .next (s.yielded g i (dedup (ls.map (·.pid)))) := by
      rcases hi with ⟨f, rfl⟩ | ⟨f, rfl⟩
      · exact runWord_acts h yieldMeaning (fun _ _ _ => rfl) (fun _ _ => rfl) (fun _ _ => rfl) fun _ _ => rfl
      · exact runWord_acts h yieldMeaning (fun _ _ _ => rfl) (fun _ _ => rfl) (fun _ _ => rfl) fun _ _ => rfl
    refine ⟨_, he, State.yielded_pathsOnly _, rfl, fun hn => State.yielded_perm hn.1 _, fun p hp hn hne hall => ?_⟩
    have hd : dedup (ls.map (·.pid)) = [p.id] := dedup_eq_singleton (by simpa using hne) fun x hx => by
      obtain ⟨l, hl, rfl⟩ := List.mem_map.1 hx
      exact hall l hl
    rw [hd]
    exact State.yielded_one hn hp

end Sys2Proof.Machine

namespace Sys2Proof.Machine

open Sys2Proof

/-! # Collectives complete (O14) -/

/-! ## The tree of a reduction -/

section Tree
variable {α : Type} {comb : α → α → α} {P : α → Prop}

/-- A fold over closed elements does not depend on their order, where its steps commute. -/
theorem foldl_eq_of_perm (hP : ∀ a b, P a → P b → P (comb a b))
    (hc : ∀ a b c, P a → P b → P c → comb (comb a b) c = comb (comb a c) b) {xs ys : List α} (h : xs.Perm ys)
    (hx : ∀ x ∈ xs, P x) {a : α} (ha : P a) : xs.foldl comb a = ys.foldl comb a := by
  induction h generalizing a with
  | nil => rfl
  | cons x _ ih => exact ih (fun y hy => hx y (List.mem_cons_of_mem _ hy)) (hP a x ha (hx x List.mem_cons_self))
  | swap x y xs =>
    simp only [List.foldl_cons]
    rw [hc a y x ha (hx y List.mem_cons_self) (hx x (by simp))]
  | trans h _ ih ih' => exact (ih hx ha).trans (ih' (fun x hx' => hx x (h.mem_iff.2 hx')) ha)

theorem treeLevel_length (xs : List (Option α)) : (treeLevel comb xs).length = (xs.length + 1) / 2 := by
  induction xs using treeLevel.induct with
  | case1 => simp [treeLevel]
  | case2 => simp [treeLevel]
  | case3 x y xs ih =>
    simp only [treeLevel, List.length_cons, ih]
    omega

section Closed
variable (hP : ∀ a b, P a → P b → P (comb a b)) (ha : ∀ a b c, P a → P b → P c → comb (comb a b) c = comb a (comb b c))
include hP

theorem treeLevel_closed {xs : List (Option α)} (hx : ∀ x, some x ∈ xs → P x) : ∀ x, some x ∈ treeLevel comb xs → P x := by
  induction xs using treeLevel.induct with
  | case1 => exact hx
  | case2 => exact hx
  | case3 x y xs ih =>
    intro z hz
    rcases List.mem_cons.1 hz with hz | hz
    · match x, y, hx, hz with
      | some a, some b, hx, hz => exact Option.some_inj.1 hz ▸ hP a b (hx a (by simp)) (hx b (by simp))
      | some a, none, hx, hz => exact Option.some_inj.1 hz ▸ hx a (by simp)
      | none, some b, hx, hz => exact Option.some_inj.1 hz ▸ hx b (by simp)
    · exact ih (fun w hw => hx w (by simp [hw])) z hz

include ha

/-- A level of the tree keeps the fold. -/
theorem treeLevel_foldl {xs : List (Option α)} (hx : ∀ x, some x ∈ xs → P x) {a : α} (haP : P a) :
    ((treeLevel comb xs).filterMap id).foldl comb a = (xs.filterMap id).foldl comb a := by
  induction xs using treeLevel.induct generalizing a with
  | case1 => rfl
  | case2 => rfl
  | case3 x y xs ih =>
    have hxs : ∀ z, some z ∈ xs → P z := fun z hz => hx z (by simp [hz])
    match x, y, hx with
    | some b, some c, hx =>
      have hb := hx b (by simp)
      have hc := hx c (by simp)
      refine (ih hxs (hP _ _ haP (hP _ _ hb hc))).trans ?_
      rw [← ha a b c haP hb hc]
      rfl
    | some b, none, hx => exact ih hxs (hP _ _ haP (hx b (by simp)))
    | none, some c, hx => exact ih hxs (hP _ _ haP (hx c (by simp)))
    | none, none, hx => exact ih hxs haP

/-- The tree over all positions is the fold over those that hold a value. -/
theorem treeFold_getD {e : α} (he : P e) (hid : ∀ a, P a → comb e a = a) {k : Nat} {xs : List (Option α)} (hl : xs.length = 2 ^ k)
    (hx : ∀ x, some x ∈ xs → P x) : (treeFold comb k xs).getD e = (xs.filterMap id).foldl comb e := by
  induction k generalizing xs with
  | zero =>
    match xs, hl, hx with
    | [none], _, _ => rfl
    | [some a], _, hx => exact (hid a (hx a (by simp))).symm
  | succ k ih =>
    rw [treeFold, ih (by rw [treeLevel_length, hl, Nat.pow_succ]; omega) (treeLevel_closed hP hx), treeLevel_foldl hP ha hx he]

end Closed
end Tree

/-! ## The steps of an integer reduction -/

/-- The number that a step of a minimum or a maximum compares. -/
def redKey (ty x : Nat) : Int := if ty = 1 then (x : Int) else signedOf x 32

theorem redKey_inj {ty x y : Nat} (hx : x < 2 ^ 32) (hy : y < 2 ^ 32) (h : redKey ty x = redKey ty y) : x = y := by
  unfold redKey signedOf at h
  split at h
  · omega
  · split at h <;> split at h <;> omega

section Comb
variable {rop ty a b c : Nat}

theorem ite_lt {p : Prop} [Decidable p] {n : Nat} (ha : a < n) (hb : b < n) : (if p then a else b) < n := by
  split
  · exact ha
  · exact hb

theorem combInt_lt (ha : a < 2 ^ 32) (hb : b < 2 ^ 32) : combInt rop ty a b < 2 ^ 32 := by
  match rop with
  | 0 => exact Nat.mod_lt _ (Nat.two_pow_pos 32)
  | 1 => exact ite_lt ha hb
  | 2 => exact ite_lt ha hb
  | 3 => exact Nat.and_lt_two_pow _ hb
  | 4 => exact Nat.or_lt_two_pow ha hb
  | _ + 5 => exact Nat.xor_lt_two_pow ha hb

theorem combInt_min : combInt 1 ty a b = if redKey ty a ≤ redKey ty b then a else b := rfl
theorem combInt_max : combInt 2 ty a b = if redKey ty b ≤ redKey ty a then a else b := rfl

theorem combInt_comm (ha : a < 2 ^ 32) (hb : b < 2 ^ 32) : combInt rop ty a b = combInt rop ty b a := by
  match rop with
  | 0 => simp only [combInt, Nat.add_comm]
  | 1 =>
    rw [combInt_min, combInt_min]
    by_cases h : redKey ty a = redKey ty b
    · rw [redKey_inj ha hb h]
    · split_ifs <;> omega
  | 2 =>
    rw [combInt_max, combInt_max]
    by_cases h : redKey ty a = redKey ty b
    · rw [redKey_inj ha hb h]
    · split_ifs <;> omega
  | 3 => exact Nat.and_comm ..
  | 4 => exact Nat.or_comm ..
  | _ + 5 => exact Nat.xor_comm ..

theorem combInt_assoc : combInt rop ty (combInt rop ty a b) c = combInt rop ty a (combInt rop ty b c) := by
  match rop with
  | 0 => simp only [combInt, Nat.mod_add_mod, Nat.add_mod_mod, Nat.add_assoc]
  | 1 =>
    simp only [combInt_min]
    split_ifs <;> omega
  | 2 =>
    simp only [combInt_max]
    split_ifs <;> omega
  | 3 => exact Nat.and_assoc ..
  | 4 => exact Nat.or_assoc ..
  | _ + 5 => exact Nat.xor_assoc ..

theorem ropIdentity_lt (ht : ty < 2) : ropIdentity rop ty < 2 ^ 32 := by
  unfold ropIdentity
  rw [if_neg (by omega)]
  split
  · split <;> decide
  · split <;> decide
  · decide
  · decide

/-- No value compares above the identity of the minimum. -/
theorem redKey_min (ht : ty < 2) (ha : a < 2 ^ 32) : redKey ty a ≤ redKey ty (ropIdentity 1 ty) := by
  have hty : ty = 0 ∨ ty = 1 := by omega
  rcases hty with rfl | rfl
  · show signedOf a 32 ≤ (0x7FFFFFFF : Int)
    unfold signedOf
    split <;> omega
  · show (a : Int) ≤ (0xFFFFFFFF : Int)
    omega

/-- No value compares below the identity of the maximum. -/
theorem redKey_max (ht : ty < 2) (ha : a < 2 ^ 32) : redKey ty (ropIdentity 2 ty) ≤ redKey ty a := by
  have hty : ty = 0 ∨ ty = 1 := by omega
  rcases hty with rfl | rfl
  · show (-0x80000000 : Int) ≤ signedOf a 32
    unfold signedOf
    split <;> omega
  · show (0 : Int) ≤ (a : Int)
    omega

theorem combInt_identity (ht : ty < 2) (ha : a < 2 ^ 32) : combInt rop ty (ropIdentity rop ty) a = a := by
  have hty : ty = 0 ∨ ty = 1 := by omega
  match rop with
  | 0 =>
    have : ropIdentity 0 ty = 0 := by rcases hty with rfl | rfl <;> rfl
    rw [this]
    show (0 + a) % 2 ^ 32 = a
    rw [Nat.zero_add, Nat.mod_eq_of_lt ha]
  | 1 =>
    rw [combInt_min]
    split
    · next h => exact redKey_inj (ropIdentity_lt ht) ha (le_antisymm h (redKey_min ht ha))
    · rfl
  | 2 =>
    rw [combInt_max]
    split
    · next h => exact redKey_inj (ropIdentity_lt ht) ha (le_antisymm (redKey_max ht ha) h)
    · rfl
  | 3 =>
    have : ropIdentity 3 ty = 2 ^ 32 - 1 := by rcases hty with rfl | rfl <;> rfl
    rw [this]
    show (2 ^ 32 - 1) &&& a = a
    rw [Nat.and_comm, Nat.and_two_pow_sub_one_eq_mod, Nat.mod_eq_of_lt ha]
  | 4 =>
    have : ropIdentity 4 ty = 0 := by rcases hty with rfl | rfl <;> rfl
    rw [this]
    exact Nat.zero_or a
  | n + 5 =>
    have : ropIdentity (n + 5) ty = 0 := by rcases hty with rfl | rfl <;> rfl
    rw [this]
    exact Nat.zero_xor a

end Comb

/-! ## The reduction as a fold -/

/-- The values that stand at the positions below a bound, in the order of the positions, are those of the list. -/
theorem values_perm {vals : List (Nat × Nat)} {n : Nat} (hn : (vals.map (·.1)).Nodup) (hlt : ∀ v ∈ vals, v.1 < n) (keep : Nat → Bool) :
    ((List.range n).filterMap fun j => (vals.find? fun v => v.1 = j && keep j).map (·.2)).Perm
      ((vals.filter fun v => keep v.1).map (·.2)) := by
  have hmap : ((List.range n).filterMap fun j => (vals.find? fun v => v.1 = j && keep j).map (·.2)) =
      ((List.range n).filterMap fun j => vals.find? fun v => v.1 = j && keep j).map (·.2) := by
    rw [List.map_filterMap]
  have hfound : ∀ {j : Nat} {v : Nat × Nat}, (vals.find? fun v => v.1 = j && keep j) = some v → v ∈ vals ∧ v.1 = j ∧ keep j = true := by
    intro j v h
    have := List.find?_some h
    simp only [Bool.and_eq_true, decide_eq_true_eq] at this
    exact ⟨List.mem_of_find?_eq_some h, this⟩
  rw [hmap]
  refine List.Perm.map _ ((List.perm_ext_iff_of_nodup ?_ (List.Nodup.filter _ (List.Nodup.of_map _ hn))).2 fun v => ?_)
  · exact List.nodup_range.filterMap fun i j v hi hj => (hfound hi).2.1.symm.trans (hfound hj).2.1
  · rw [List.mem_filterMap, List.mem_filter]
    constructor
    · rintro ⟨j, _, h⟩
      obtain ⟨hm, rfl, hk⟩ := hfound h
      exact ⟨hm, hk⟩
    · rintro ⟨hm, hk⟩
      refine ⟨v.1, List.mem_range.2 (hlt v hm), ?_⟩
      cases hf : vals.find? fun w => w.1 = v.1 && keep v.1 with
      | none => simpa [hk] using List.find?_eq_none.1 hf v hm
      | some w =>
        obtain ⟨hw, hid, _⟩ := hfound hf
        rw [List.inj_on_of_nodup_map hn hw hm hid]

/-- The value at a position, if the reduction admits one. -/
def valueAt (vals : List (Nat × Nat)) (keep : Nat → Bool) (j : Nat) : Option Nat :=
  (vals.find? fun v => v.1 = j && keep j).map (·.2)

theorem reduceAt_int (rop n : Nat) {ty : Nat} (ht : ty ≠ 2) (vals : List (Nat × Nat)) (keep : Nat → Bool) :
    reduceAt rop ty n vals keep =
      ((treeFold (combInt rop ty) (Nat.log2 n) ((List.range n).map (valueAt vals keep))).getD (ropIdentity rop ty), 0) := by
  unfold reduceAt
  rw [if_neg ht]
  show (match treeFold (combInt rop ty) (Nat.log2 n) ((List.range n).map (valueAt vals keep)) with
    | some x => (x, (0 : BitVec 8))
    | none => (ropIdentity rop ty, 0)) = _
  cases treeFold (combInt rop ty) (Nat.log2 n) ((List.range n).map (valueAt vals keep)) <;> rfl

/-- An integer reduction is the fold over its lanes. -/
theorem reduceAt_eq_foldl (rop ty k : Nat) (vals : List (Nat × Nat)) (keep : Nat → Bool) (ht : ty < 2)
    (hn : (vals.map (·.1)).Nodup) (hv : ∀ v ∈ vals, v.1 < 2 ^ k ∧ v.2 < 2 ^ 32) :
    reduceAt rop ty (2 ^ k) vals keep =
      ((vals.filter fun v => keep v.1).foldl (fun a v => combInt rop ty a v.2) (ropIdentity rop ty), 0) := by
  have hP : ∀ a b, a < 2 ^ 32 → b < 2 ^ 32 → combInt rop ty a b < 2 ^ 32 := fun _ _ => combInt_lt
  have hperm := values_perm hn (fun v h => (hv v h).1) keep
  have hfm : ((List.range (2 ^ k)).map (valueAt vals keep)).filterMap id = (List.range (2 ^ k)).filterMap (valueAt vals keep) := by
    rw [List.filterMap_map]
    rfl
  have hsmall : ∀ x, some x ∈ (List.range (2 ^ k)).map (valueAt vals keep) → x < 2 ^ 32 := by
    intro x hx
    obtain ⟨j, _, hj⟩ := List.mem_map.1 hx
    obtain ⟨v, hv', rfl⟩ := Option.map_eq_some_iff.1 hj
    exact (hv v (List.mem_of_find?_eq_some hv')).2
  rw [reduceAt_int rop _ (by omega), Nat.log2_two_pow, treeFold_getD hP (fun _ _ _ _ _ _ => combInt_assoc) (ropIdentity_lt ht)
    (fun _ => combInt_identity ht) (by simp) hsmall, hfm]
  congr 1
  refine (foldl_eq_of_perm hP (fun a b c _ hb hc => ?_) hperm (fun x hx => ?_) (ropIdentity_lt ht)).trans ?_
  · rw [combInt_assoc, combInt_assoc, combInt_comm hb hc]
  · obtain ⟨j, hj, hx⟩ := List.mem_filterMap.1 hx
    exact hsmall x (List.mem_map.2 ⟨j, hj, hx⟩)
  · rw [List.foldl_map]

end Sys2Proof.Machine

namespace Sys2Proof.Machine

open Sys2Proof

/-! ## The word of a complete set -/

/-- The issue group of a complete set issues the word of the point. -/
theorem runPoint_of_set {s : State} {g : IssueGroup} {i : Instr} {c : Nat} (h : s.ready g i = true) (hc : g.setAt = some c) (m : Point) :
    runPoint i m s = runWord i m.word s := by
  unfold runPoint runWord
  rw [ready_cur h]
  simp [hc]

/-- The result that a word schedules from some lanes. -/
def State.resultPend (s : State) (i : Iss) (lat : Nat) (os : List (Lane × AluOut)) : Pend where
  due := s.clk.cycle + lat
  writes := resWrites (Fm.writes i.cls i.op i.f) (os.map fun o => ⟨o.1, o.2.ws, s.aluLbl i o.1⟩)
  lbls := s.resLbls (Fm.writes i.cls i.op i.f) (os.map fun o => ⟨o.1, o.2.ws, s.aluLbl i o.1⟩) ++
    flagLbls (mayFlag i.cls i.op i.f) (os.map fun o => ⟨o.1, o.2.ws, s.aluLbl i o.1⟩)
  flags := os.map fun o => (o.1.t, o.2.fl)
  links := []
  toks := tokPairs i.f.tok i.on

theorem State.putAlu_eq (s : State) (i : Iss) (lat : Nat) (os : List (Lane × AluOut)) :
    s.putAlu i lat os = { s.putSeeds os with sch.pend := s.sch.pend ++ [s.resultPend i lat os] } := by
  have hp : (s.putSeeds os).sch.pend = s.sch.pend := by rw [(State.drawn_putSeeds s os).base]
  show { s.putSeeds os with sch.pend := (s.putSeeds os).sch.pend ++ [s.resultPend i lat os] } = _
  rw [hp]

/-- A word whose effect schedules one result, of the lanes in which it acts. -/
theorem issued_of_putAlu {s : State} {g : IssueGroup} {i : Instr} (h : s.ready g i = true) {m : Meaning} (he : exec i s = runWord i m s)
    (hc : ∀ t is l, m.closes t is l = false) (hh : ∀ t is, m.hold t is = (t, none)) (hs : ∀ t is, m.stop t is = (t, []))
    (hf : ∀ t is l, m.flt t is l = none) {is : Iss} {lat : Nat} {os : List (Lane × AluOut)}
    (heff : m.eff (s.counted g i) (s.iss g i) = (s.counted g i).putAlu is lat os)
    (hseed : usesSeed i.cls (opNo i) (fieldsOf i) = false → ∀ o ∈ os, o.2.seed = none) :
    ∃ t, exec i s = .next t ∧ Issued s t g i ∧ t.sch.pend = s.sch.pend ++ [(s.counted g i).resultPend is lat os] ∧
      t.r = ((s.counted g i).putSeeds os).r := by
  rw [runWord_acts h m hc hh hs fun _ _ => hf _ _ _, heff, State.putAlu_eq] at he
  have hact := ((s.acted_counted g i).drawn (State.drawn_putSeeds (s.counted g i) os) fun hk =>
    State.putSeeds_none _ _ (hseed hk)).pend ((s.counted g i).sch.pend ++ [(s.counted g i).resultPend is lat os])
  obtain ⟨hi, hp, hr⟩ := hact.issued (ready_ig h)
  exact ⟨_, he, hi, hp.trans (by rw [s.pend_counted g i]), hr⟩

/-! ## Results that differ in labels only -/

theorem insertBy_map {α β : Type} (key : β → Nat) (f : α → β) (x : α) (ys : List α) :
    insertBy key (f x) (ys.map f) = (insertBy (fun a => key (f a)) x ys).map f := by
  induction ys with
  | nil => rfl
  | cons y ys ih =>
    simp only [List.map_cons, insertBy, ih]
    split <;> rfl

theorem sortBy_map {α β : Type} (key : β → Nat) (f : α → β) (xs : List α) :
    sortBy key (xs.map f) = (sortBy (fun a => key (f a)) xs).map f := by
  have hfold : ∀ (xs acc : List α), (xs.map f).foldl (fun acc x => insertBy key x acc) (acc.map f) =
      (xs.foldl (fun acc x => insertBy (fun a => key (f a)) x acc) acc).map f := by
    intro xs
    induction xs with
    | nil => exact fun _ => rfl
    | cons x xs ih =>
      intro acc
      simp only [List.map_cons, List.foldl_cons, insertBy_map, ih]
  exact hfold xs []

/-- A lane's result without labels, quadrant lane and path. -/
def LaneRes.bare (r : LaneRes) : LaneRes := ⟨r.l.t.lane0, r.ws, 0⟩

theorem laneDown_bare (g : GRef) (rs : List LaneRes) : laneDown g (rs.map LaneRes.bare) = (laneDown g rs).map LaneRes.bare := by
  unfold laneDown
  rw [List.filter_map, sortBy_map, List.map_reverse]
  rfl

theorem resWrites_bare (tiles : List Tile) (rs : List LaneRes) : resWrites tiles (rs.map LaneRes.bare) = resWrites tiles rs := by
  unfold resWrites
  refine List.flatMap_congr fun x _ => ?_
  obtain ⟨k, i⟩ := x
  cases k
  case s n =>
    dsimp only
    rw [List.map_map]
    refine List.flatMap_congr fun g _ => ?_
    rw [laneDown_bare, List.map_map]
    rfl
  all_goals exact List.map_map ..

theorem resWrites_congr (tiles : List Tile) {rs rs' : List LaneRes} (h : rs.map LaneRes.bare = rs'.map LaneRes.bare) :
    resWrites tiles rs = resWrites tiles rs' := by
  rw [← resWrites_bare, h, resWrites_bare]

/-! ## The label of a set -/

theorem getLsbD_foldl_or {α : Type} (f : α → Label) (xs : List α) (a : Label) (k : Nat) :
    (xs.foldl (fun a x => a ||| f x) a).getLsbD k = (a.getLsbD k || xs.any fun x => (f x).getLsbD k) := by
  induction xs generalizing a with
  | nil => simp
  | cons x xs ih => rw [List.foldl_cons, ih, BitVec.getLsbD_or, List.any_cons, Bool.or_assoc]

/-- A union of labels holds each of them. -/
theorem or_foldl_or {α : Type} (f : α → Label) {xs : List α} {x : α} (hx : x ∈ xs) :
    f x ||| xs.foldl (fun a x => a ||| f x) 0 = xs.foldl (fun a x => a ||| f x) 0 := by
  refine BitVec.eq_of_getLsbD_eq fun k _ => ?_
  rw [BitVec.getLsbD_or, getLsbD_foldl_or, Bool.eq_iff_iff]
  simp only [Bool.or_eq_true, List.any_eq_true]
  exact ⟨fun h => h.elim (fun hk => .inr ⟨x, hx, hk⟩) id, .inr⟩

theorem foldl_or_const {α : Type} {f : α → Label} {xs : List α} {c : Label} (hne : xs ≠ []) (h : ∀ x ∈ xs, f x = c) :
    xs.foldl (fun a x => a ||| f x) 0 = c := by
  refine BitVec.eq_of_getLsbD_eq fun k _ => ?_
  obtain ⟨x, hx⟩ := List.exists_mem_of_ne_nil xs hne
  rw [getLsbD_foldl_or, Bool.eq_iff_iff]
  simp only [Bool.or_eq_true, List.any_eq_true]
  constructor
  · rintro (hk | ⟨y, hy, hk⟩)
    · simp at hk
    · exact h y hy ▸ hk
  · exact fun hk => .inr ⟨x, hx, (h x hx).symm ▸ hk⟩

/-- Where the lanes' results have one label, so have the label writes. -/
theorem lbl_of_resLbls {s : State} {tiles : List Tile} {rs : List LaneRes} {c : Label} (h : ∀ r ∈ rs, r.lbl = c) :
    ∀ w ∈ s.resLbls tiles rs, w.lbl = c := by
  intro w hw
  obtain ⟨k, _, hw⟩ := List.mem_flatMap.1 hw
  obtain ⟨g, hg, rfl⟩ := List.mem_map.1 hw
  obtain ⟨r, hr, hrg⟩ := List.mem_map.1 (mem_dedup.1 hg)
  have hmem : r ∈ rs.filter fun r => r.l.g = g := List.mem_filter.2 ⟨hr, by simpa using hrg⟩
  exact foldl_or_const (List.ne_nil_of_mem hmem) fun x hx => h x (List.mem_filter.1 hx).1

theorem lbl_of_flagLbls {may : Bool} {rs : List LaneRes} {c : Label} (h : ∀ r ∈ rs, r.lbl = c) : ∀ w ∈ flagLbls may rs, w.lbl = c := by
  intro w hw
  unfold flagLbls at hw
  split at hw
  · obtain ⟨r, hr, rfl⟩ := List.mem_map.1 hw
    exact h r hr
  · cases hw

/-! ## Collectives -/

/-- The lanes of a set, each with the label of the set in its context. -/
def State.labelled (s : State) (i : Iss) : List Lane := i.on.map fun l => { l with ctx := l.ctx ||| s.collLbl i }

/-- What a collective gives a lane depends on the lane's thread only. -/
theorem State.collOut_ctx (s : State) (op : Nat) (f : Fm) (ls : List Lane) (l : Lane) (c : Label) :
    s.collOut op f ls { l with ctx := c } = s.collOut op f ls l := by
  match op with
  | 1 =>
    have : ∀ o : Option Lane, s.collVal f (o.getD { l with ctx := c }) = s.collVal f (o.getD l) := fun o => by cases o <;> rfl
    simp only [State.collOut, State.shflOut, this]
  | 0 => rfl
  | 2 => rfl
  | 3 => rfl
  | 4 => rfl
  | 5 => rfl
  | _ + 6 => rfl

theorem State.collOut_seed (s : State) (op : Nat) (f : Fm) (ls : List Lane) (l : Lane) : (s.collOut op f ls l).seed = none := by
  match op with
  | 0 =>
    simp only [State.collOut, State.voteOut]
    split <;> rfl
  | 1 => rfl
  | 2 => rfl
  | 3 => rfl
  | 4 => rfl
  | 5 => rfl
  | _ + 6 => rfl

theorem Sees.collVal {s t : State} (h : Sees s t) (f : Fm) (l : Lane) : t.collVal f l = s.collVal f l := h.intVal ..

theorem Sees.widthOf {s t : State} (h : Sees s t) (n : Nat) : t.widthOf n = s.widthOf n := by unfold State.widthOf; rw [h.team?]

theorem Sees.lpart {s t : State} (h : Sees s t) (x : TRef) : (t.thr x).lpart = (s.thr x).lpart :=
  (congrArg Thread.lpart (h.thr x) :)

theorem Sees.positions {s t : State} (h : Sees s t) (f : Fm) (ls : List Lane) : t.positions f ls = s.positions f ls := by
  unfold State.positions
  cases ls with
  | nil => rfl
  | cons l ls => simp only [h.lpart, h.widthOf]

theorem Sees.rdRed {s t : State} (h : Sees s t) (f : Fm) (l : Lane) : t.rdRed f l = s.rdRed f l := by
  unfold State.rdRed; rw [h.fpRaw, h.rd32]

theorem Sees.collOut {s t : State} (h : Sees s t) (op : Nat) (f : Fm) (ls : List Lane) (l : Lane) :
    t.collOut op f ls l = s.collOut op f ls l := by
  match op with
  | 0 => simp only [State.collOut, State.voteOut, h.rdPred]
  | 1 => simp only [State.collOut, State.shflOut, h.collVal, h.positions, h.rd32]
  | 2 => simp only [State.collOut, State.redtOut, h.positions, h.rdRed]
  | 3 => simp only [State.collOut, State.scantOut, h.positions, h.rdRed]
  | 4 => simp only [State.collOut, State.matchOut, h.collVal]
  | 5 => rfl
  | _ + 6 => rfl

theorem Sees.collLbl {s t : State} (h : Sees s t) (i : Iss) : t.collLbl i = s.collLbl i := by
  unfold State.collLbl; simp only [h.srcLbl]

section Collective
variable {s : State} {g : IssueGroup} {i : Instr} {c : Nat}

/-- Every lane's result has the label of the set. -/
theorem aluLbl_labelled {t : State} (hcls : i.cls = 4) {l : Lane} (hl : l ∈ s.acting g i) (on : List Lane) :
    t.aluLbl { s.iss g i with on := on } { l with ctx := l.ctx ||| t.collLbl (s.iss g i) } = t.collLbl (s.iss g i) := by
  have hseed : usesSeed i.cls (opNo i) (fieldsOf i) = false := by rw [hcls]; rfl
  have hor := or_foldl_or (fun l : Lane => t.srcLbl l.g i.cls (opNo i) (fieldsOf i) ||| l.ctx) hl
  have hlbl : t.collLbl (s.iss g i) = (s.acting g i).foldl (fun a l => a ||| (t.srcLbl l.g i.cls (opNo i) (fieldsOf i) ||| l.ctx)) 0 := by
    show (s.acting g i).foldl (fun a l => a ||| t.srcLbl l.g i.cls (opNo i) (fieldsOf i) ||| l.ctx) 0 = _
    simp only [BitVec.or_assoc]
  show t.srcLbl l.g i.cls (opNo i) (fieldsOf i) ||| (l.ctx ||| t.collLbl (s.iss g i)) |||
    (if usesSeed i.cls (opNo i) (fieldsOf i) then t.tileLbl l.g .seed else 0) = _
  rw [hseed, if_neg (by simp), hlbl, ← BitVec.or_assoc, hor]
  exact BitVec.or_zero

/-- A collective issues for its complete set. -/
theorem collective_issues (h : s.ready g i = true) (hc : g.setAt = some c) (he : exec i s = runPoint i collPoint s) (hcls : i.cls = 4)
    (hop : opNo i ≠ 7) :
    ∃ (t : State) (w : Pend), exec i s = .next t ∧ Issued s t g i ∧ t.sch.pend = s.sch.pend ++ [w] ∧
      w.due = s.clk.cycle + max 1 (c + collLat (opNo i) (fieldsOf i) - s.clk.cycle) ∧
      w.writes = resWrites (Fm.writes 4 (opNo i) (fieldsOf i))
        ((s.acting g i).map fun l => ⟨l, (s.collOut (opNo i) (fieldsOf i) (s.acting g i) l).ws, 0⟩) ∧
      w.flags = (s.acting g i).map (fun l => (l.t, (s.collOut (opNo i) (fieldsOf i) (s.acting g i) l).fl)) ∧
      w.toks = tokPairs (fieldsOf i).tok (s.acting g i) ∧ w.links = [] ∧
      (∀ x ∈ w.lbls, x.lbl = (s.acting g i).foldl (fun a l => a ||| s.srcLbl l.g 4 (opNo i) (fieldsOf i) ||| l.ctx) 0) ∧
      ∀ x, (t.thr x).bare = (s.thr x).bare := by
  have hsee := s.sees_counted g i
  have heff : collPoint.word.eff (s.counted g i) (s.iss g i) = (s.counted g i).putAlu
      { s.iss g i with on := (s.counted g i).labelled (s.iss g i) } (g.setLat (s.counted g i).clk.cycle (collLat (opNo i) (fieldsOf i)))
      (((s.counted g i).labelled (s.iss g i)).map fun l => (l, (s.counted g i).collOut (opNo i) (fieldsOf i) (s.acting g i) l)) :=
    if_neg hop
  have hnone : ∀ o ∈ ((s.counted g i).labelled (s.iss g i)).map fun l =>
      (l, (s.counted g i).collOut (opNo i) (fieldsOf i) (s.acting g i) l), o.2.seed = none := by
    intro o ho
    obtain ⟨l, _, rfl⟩ := List.mem_map.1 ho
    exact State.collOut_seed ..
  rw [runPoint_of_set h hc] at he
  obtain ⟨t, ht, hi, hp, hr⟩ := issued_of_putAlu h he (fun _ _ _ => rfl) (fun _ _ => rfl) (fun _ _ => rfl) (fun _ _ _ => rfl) heff
    fun _ => hnone
  refine ⟨t, _, ht, hi, hp, ?_, ?_, ?_, ?_, rfl, ?_, fun x => ?_⟩
  · show (s.counted g i).clk.cycle + g.setLat (s.counted g i).clk.cycle (collLat (opNo i) (fieldsOf i)) = _
    rw [hsee.clk, IssueGroup.setLat, hc]
    rfl
  · show resWrites (Fm.writes i.cls (opNo i) (fieldsOf i)) _ = _
    rw [hcls]
    refine resWrites_congr _ ?_
    simp only [State.labelled, List.map_map]
    refine List.map_congr_left fun l _ => ?_
    simp only [Function.comp_apply, State.collOut_ctx, hsee.collOut]
    rfl
  · show (((s.counted g i).labelled (s.iss g i)).map _).map _ = _
    simp only [State.labelled, List.map_map]
    refine List.map_congr_left fun l _ => ?_
    simp only [Function.comp_apply, State.collOut_ctx, hsee.collOut]
  · show tokPairs (fieldsOf i).tok ((s.counted g i).labelled (s.iss g i)) = _
    unfold tokPairs State.labelled
    split
    · rw [List.map_map]
      rfl
    · rfl
  · have hlbl : ∀ r ∈ (((s.counted g i).labelled (s.iss g i)).map fun l =>
        (l, (s.counted g i).collOut (opNo i) (fieldsOf i) (s.acting g i) l)).map (fun o => (⟨o.1, o.2.ws, (s.counted g i).aluLbl
          { s.iss g i with on := (s.counted g i).labelled (s.iss g i) } o.1⟩ : LaneRes)),
        r.lbl = (s.counted g i).collLbl (s.iss g i) := by
      intro r hr
      obtain ⟨o, ho, rfl⟩ := List.mem_map.1 hr
      obtain ⟨l', hl', rfl⟩ := List.mem_map.1 ho
      obtain ⟨l, hl, rfl⟩ := List.mem_map.1 hl'
      exact aluLbl_labelled hcls hl _
    have hset : (s.counted g i).collLbl (s.iss g i) =
        (s.acting g i).foldl (fun a l => a ||| s.srcLbl l.g 4 (opNo i) (fieldsOf i) ||| l.ctx) 0 := by
      rw [hsee.collLbl, ← hcls]
      rfl
    intro x hx
    rw [← hset]
    rcases List.mem_append.1 hx with hx | hx
    · exact lbl_of_resLbls hlbl x hx
    · exact lbl_of_flagLbls hlbl x hx
  · rw [State.thr_congr hr, State.putSeeds_none _ _ hnone]
    exact (s.over_counted g i).threads x

/-- A collective that sets no flags. -/
theorem collective_gives (h : s.ready g i = true) (hc : g.setAt = some c) (he : exec i s = runPoint i collPoint s) (hcls : i.cls = 4)
    (hop : opNo i ≠ 7) {lat : Nat} (hlat : collLat (opNo i) (fieldsOf i) = lat) {value : Lane → List Word}
    (hout : ∀ l, s.collOut (opNo i) (fieldsOf i) (s.acting g i) l = ⟨value l, 0, none⟩) :
    ∃ (t : State) (w : Pend), exec i s = .next t ∧ Issued s t g i ∧ t.sch.pend = s.sch.pend ++ [w] ∧
      w.due = s.clk.cycle + max 1 (c + lat - s.clk.cycle) ∧
      w.writes = resWrites (Fm.writes 4 (opNo i) (fieldsOf i)) ((s.acting g i).map fun l => ⟨l, value l, 0⟩) ∧
      w.flags = (s.acting g i).map (fun l => (l.t, 0)) ∧ w.toks = tokPairs (fieldsOf i).tok (s.acting g i) ∧ w.links = [] ∧
      (∀ x ∈ w.lbls, x.lbl = (s.acting g i).foldl (fun a l => a ||| s.srcLbl l.g 4 (opNo i) (fieldsOf i) ||| l.ctx) 0) ∧
      ∀ x, (t.thr x).bare = (s.thr x).bare := by
  have hi := collective_issues h hc he hcls hop
  simp only [hout, hlat] at hi
  exact hi

end Collective

/-! ## The values -/

section Values
variable (s : State) (f : Fm) (ls : List Lane)

/-- A truth value as the word of a result. -/
def truthWord (b : Bool) : List Word := [if b then 1 else 0]

theorem State.voteOut_eq (l : Lane) : s.voteOut f ls l = ⟨match mdCopx f.md with
    | 0 => truthWord (ls.any fun m => s.rdPred m.t f.a)
    | 1 => truthWord (ls.all fun m => s.rdPred m.t f.a)
    | 2 => truthWord ((ls.all fun m => s.rdPred m.t f.a) || ls.all fun m => !s.rdPred m.t f.a)
    | _ => [maskWord (ls.filter fun m => s.rdPred m.t f.a)], 0, none⟩ := by
  unfold State.voteOut truthWord
  simp only [List.any_map, List.all_map, Function.comp_def, id_eq, List.not_any_eq_all_not]
  match mdCopx f.md with
  | 0 => rfl
  | 1 => rfl
  | 2 => rfl
  | _ + 3 => rfl

variable {f}

theorem State.rdRed_int (hty : mdCty f.md ≠ 2) (l : Lane) : s.rdRed f l = s.rd32 l.t f.lit f.a := if_neg hty

theorem State.rdRed_float (hty : mdCty f.md = 2) (l : Lane) : s.rdRed f l = s.fpRaw l.t f.lit f.a 1 fmtF32 1 := if_pos hty

theorem State.redtOut_int (hty : mdCty f.md ≠ 2) (l : Lane) : s.redtOut f ls l =
    ⟨[BitVec.ofNat 32 (reduceAt (mdRop f.md) (mdCty f.md) (s.positions f ls)
      (ls.map fun m => (m.t.lane % s.positions f ls, s.rd32 m.t f.lit f.a)) fun _ => true).1], 0, none⟩ := by
  unfold State.redtOut
  simp only [s.rdRed_int hty, reduceAt_int _ _ hty]

theorem State.scantOut_int (hty : mdCty f.md ≠ 2) (l : Lane) : s.scantOut f ls l =
    ⟨[BitVec.ofNat 32 (reduceAt (mdRop f.md) (mdCty f.md) (s.positions f ls)
      (ls.map fun m => (m.t.lane % s.positions f ls, s.rd32 m.t f.lit f.a)) fun j =>
        if mdCopx f.md = 1 then j < l.t.lane % s.positions f ls else j ≤ l.t.lane % s.positions f ls).1], 0, none⟩ := by
  unfold State.scantOut
  simp only [s.rdRed_int hty, reduceAt_int _ _ hty]

/-- The floating-point reduction of a lane, over every position or over those up to its own. -/
def State.floatRed (s : State) (op : Nat) (f : Fm) (ls : List Lane) (l : Lane) : Nat × BitVec 8 :=
  reduceAt (mdRop f.md) 2 (s.positions f ls)
    (ls.map fun m => (m.t.lane % s.positions f ls, s.fpRaw m.t f.lit f.a 1 fmtF32 1)) fun j => if op = 2 then true else
      if mdCopx f.md = 1 then j < l.t.lane % s.positions f ls else j ≤ l.t.lane % s.positions f ls

theorem State.redOut_float (hty : mdCty f.md = 2) (l : Lane) {op : Nat} (hop : op = 2 ∨ op = 3) :
    s.collOut op f ls l = ⟨[BitVec.ofNat 32 (s.floatRed op f ls l).1], (s.floatRed op f ls l).2, none⟩ := by
  rcases hop with rfl | rfl
  · simp only [State.collOut, State.redtOut, s.rdRed_float hty, hty, State.floatRed, if_true]
  · simp only [State.collOut, State.scantOut, s.rdRed_float hty, hty]
    rfl

end Values

/-- Settles O14: a complete set issues its word, whose results are the model's own, and the tree of an integer reduction folds its
values, since its steps associate and commute. -/
theorem collectivesComplete : Obligations.CollectivesComplete := by
  unfold Obligations.CollectivesComplete
  refine ⟨fun s g i c h hc => ?_, fun rop ty k vals keep ht hn hv => reduceAt_eq_foldl rop ty k vals keep ht hn hv⟩
  intro f ls
  refine ⟨fun hi => ?_, ?_, fun hi hty => ?_⟩
  · have hword : exec i s = runPoint i collPoint s ∧ opNo i = 7 := by
      rcases hi with ⟨f, rfl⟩ | ⟨f, rfl⟩ <;> exact ⟨rfl, rfl⟩
    obtain ⟨he, hop⟩ := hword
    rw [runPoint_of_set h hc] at he
    refine does_of_eff h he (fun _ _ _ => rfl) (fun _ _ => rfl) (fun _ _ => rfl) (fun _ _ => rfl) ?_ rfl rfl rfl rfl
    rw [show collPoint.word.eff (s.counted g i) (s.iss g i) = (s.counted g i).doneNow (s.iss g i) from if_pos hop]
    exact (s.over_counted g i).counts (State.counts_tokDown _ _ _)
  · intro lat value tm one hi
    rcases hi with ⟨⟨b, rfl⟩, rfl, rfl⟩ | ⟨⟨b, rfl⟩, rfl, rfl⟩ | ⟨⟨b, rfl⟩, hty, rfl, rfl⟩ | ⟨⟨b, rfl⟩, hty, rfl, rfl⟩ |
      ⟨⟨b, rfl⟩, rfl, rfl⟩ | ⟨⟨b, rfl⟩, rfl, rfl⟩ | ⟨⟨b, rfl⟩, rfl, rfl⟩
    · exact collective_gives h hc rfl rfl (show (0 : Nat) ≠ 7 by decide) rfl fun l => s.voteOut_eq f ls l
    · exact collective_gives h hc rfl rfl (show (1 : Nat) ≠ 7 by decide) rfl fun l => rfl
    · exact collective_gives h hc rfl rfl (show (2 : Nat) ≠ 7 by decide) (if_neg hty) fun l => s.redtOut_int ls hty l
    · exact collective_gives h hc rfl rfl (show (3 : Nat) ≠ 7 by decide) (if_neg hty) fun l => s.scantOut_int ls hty l
    · exact collective_gives h hc rfl rfl (show (4 : Nat) ≠ 7 by decide) rfl fun l => rfl
    · exact collective_gives h hc rfl rfl (show (5 : Nat) ≠ 7 by decide) rfl fun l => rfl
    · exact collective_gives h hc rfl rfl (show (6 : Nat) ≠ 7 by decide) rfl fun l => rfl
  · have hword : exec i s = runPoint i collPoint s ∧ i.cls = 4 ∧ (opNo i = 2 ∨ opNo i = 3) := by
      rcases hi with ⟨b, rfl⟩ | ⟨b, rfl⟩
      · exact ⟨rfl, rfl, .inl rfl⟩
      · exact ⟨rfl, rfl, .inr rfl⟩
    obtain ⟨he, hcls, hop⟩ := hword
    have hlat : collLat (opNo i) (fieldsOf i) = 14 := by
      rcases hop with hop | hop <;> exact hop ▸ if_pos hty
    obtain ⟨t, w, ht, hi, hp, hdue, hwr, hfl, htok, hln, _, _⟩ := collective_issues h hc he hcls (by omega)
    have hout : ∀ l, s.collOut (opNo i) (fieldsOf i) (s.acting g i) l = _ := fun l => s.redOut_float (s.acting g i) hty l hop
    simp only [hout] at hwr hfl
    exact ⟨t, w, ht, hi, hp, hlat ▸ hdue, ⟨hwr, hfl⟩, htok, hln⟩

end Sys2Proof.Machine

namespace Sys2Proof.Machine

open Sys2Proof

/-! # RECONV and QBLK complete (O13) -/

/-! ## QBLK -/

/-- R220, R235: the input of a thread of a block. -/
def State.qblkIn (s : State) (m : Fm) (t : TRef) : FV × BitVec 8 := readElem fmtF32 (qblkFtz m) (s.fpRaw t m.lit m.a 1 fmtF32 1)

/-- R235: what a thread of a block receives under the shared scale. -/
def State.qblkGives (s : State) (m : Fm) (c : Nat) (t : TRef) : AluOut :=
  let q := qblkOne m c (s.qblkIn m t).1 (s.thr t).seed
  ⟨[BitVec.ofNat 32 (q.1 % 256 + c * 256)], (s.qblkIn m t).2 ||| q.2.1, if qblkRm m = 5 then some q.2.2 else none⟩

theorem State.qblkOuts_eq (s : State) (i : Iss) (ls : List Lane) : s.qblkOuts i ls =
    ls.map fun l => (l, s.qblkGives i.f (qblkScale (qblkFmt i.f) (ls.map fun l => (s.qblkIn i.f l.t).1)) l.t) := by
  have hzip : ∀ F : Lane → FV × BitVec 8, ls.zip (ls.map F) = ls.map fun l => (l, F l) := fun F => by
    have := List.zip_map' (f := id) (g := F) (l := ls)
    rwa [List.map_id] at this
  unfold State.qblkOuts
  dsimp only
  rw [List.map_map, hzip, List.map_map]
  rfl

theorem Sees.qblkIn {s t : State} (h : Sees s t) (m : Fm) (x : TRef) : t.qblkIn m x = s.qblkIn m x := by
  unfold State.qblkIn; rw [h.fpRaw]

theorem Sees.qblkGives {s t : State} (h : Sees s t) (m : Fm) (c : Nat) (x : TRef) : t.qblkGives m c x = s.qblkGives m c x := by
  unfold State.qblkGives; rw [h.qblkIn, h.seed]

/-- R147: SEED follows its draw. -/
theorem qblkOne_seed (m : Fm) (c : Nat) (x : FV) (seed : Word) : (qblkOne m c x seed).2.2 = if qblkRm m = 5 then draw seed else seed := by
  unfold qblkOne
  dsimp only
  split <;> rfl

theorem State.qblkGives_seed (s : State) (m : Fm) (c : Nat) (t : TRef) :
    (s.qblkGives m c t).seed.getD (s.thr t).seed = if qblkRm m = 5 then draw (s.thr t).seed else (s.thr t).seed := by
  by_cases h : qblkRm m = 5
  · simp [State.qblkGives, h, qblkOne_seed]
  · simp [State.qblkGives, h]

/-- The lanes of a block, each with the context label of the block. -/
def Iss.united (i : Iss) : List Lane := i.on.map fun l => { l with ctx := i.on.foldl (fun a l => a ||| l.ctx) 0 }

theorem Iss.united_map {α : Type} (i : Iss) (F : TRef → α) : i.united.map (fun l => F l.t) = i.on.map fun l => F l.t := by
  rw [Iss.united, List.map_map]
  rfl

theorem State.runQblk_eq (s : State) (i : Iss) (lat : Nat) : s.runQblk i lat = s.putAlu { i with on := i.united } lat
    (i.united.map fun l => (l, s.qblkGives i.f (qblkScale (qblkFmt i.f) (i.on.map fun l => (s.qblkIn i.f l.t).1)) l.t)) := by
  rw [← Iss.united_map i fun t => (s.qblkIn i.f t).1, ← State.qblkOuts_eq]
  rfl

section Qblk
variable {s : State} {g : IssueGroup} {f : DForm} {at_ : Nat}

/-- The scale of the block. -/
def State.blockScale (s : State) (g : IssueGroup) (f : DForm) : Nat :=
  qblkScale (qblkFmt (fieldsOf (.qblk f))) ((s.acting g (.qblk f)).map fun l => (s.qblkIn (fieldsOf (.qblk f)) l.t).1)

theorem qblk_issues (h : s.ready g (.qblk f) = true) (hc : g.setAt = some at_) :
    ∃ t w, exec (.qblk f) s = .next t ∧ Issued s t g (.qblk f) ∧
      (∀ y, (t.thr y).seed = if y ∈ (s.acting g (.qblk f)).map (·.t) ∧ qblkRm (fieldsOf (.qblk f)) = 5 then draw (s.thr y).seed
        else (s.thr y).seed) ∧
      t.sch.pend = s.sch.pend ++ [w] ∧ w.due = s.clk.cycle + max 1 (at_ + 12 - s.clk.cycle) ∧
      w.writes = resWrites (Fm.writes (Instr.qblk f).cls (opNo (.qblk f)) (fieldsOf (.qblk f)))
        ((s.acting g (.qblk f)).map fun l => ⟨l, (s.qblkGives (fieldsOf (.qblk f)) (s.blockScale g f) l.t).ws, 0⟩) ∧
      w.flags = (s.acting g (.qblk f)).map (fun l => (l.t, (s.qblkGives (fieldsOf (.qblk f)) (s.blockScale g f) l.t).fl)) ∧
      w.toks = tokPairs (fieldsOf (.qblk f)).tok (s.acting g (.qblk f)) ∧ w.links = [] := by
  have hsee := s.sees_counted g (.qblk f)
  have heff : qblkPoint.word.eff (s.counted g (.qblk f)) (s.iss g (.qblk f)) = (s.counted g (.qblk f)).putAlu
      { s.iss g (.qblk f) with on := (s.iss g (.qblk f)).united } (g.setLat (s.counted g (.qblk f)).clk.cycle 12)
      ((s.iss g (.qblk f)).united.map fun l => (l, s.qblkGives (fieldsOf (.qblk f)) (s.blockScale g f) l.t)) := by
    refine (State.runQblk_eq ..).trans ?_
    simp only [hsee.qblkGives, hsee.qblkIn]
    rfl
  have he : exec (.qblk f) s = runWord (.qblk f) qblkPoint.word s := runPoint_of_set h hc qblkPoint
  obtain ⟨t, ht, hi, hp, hr⟩ := issued_of_putAlu h he (fun _ _ _ => rfl) (fun _ _ => rfl) (fun _ _ => rfl) (fun _ _ _ => rfl) heff
    fun hu o ho => by
      obtain ⟨l, _, rfl⟩ := List.mem_map.1 ho
      have hrm : ¬ qblkRm (fieldsOf (.qblk f)) = 5 := fun e => by
        have : ((fieldsOf (.qblk f)).imm.extractLsb' 5 3 == 5) = false := hu
        exact (beq_eq_false_iff_ne.1 this) (BitVec.eq_of_toNat_eq e)
      exact if_neg hrm
  refine ⟨t, _, ht, hi, fun y => ?_, hp, ?_, ?_, ?_, ?_, rfl⟩
  · have hts : (s.iss g (.qblk f)).united.map (·.t) = (s.acting g (.qblk f)).map (·.t) := Iss.united_map _ id
    rw [State.thr_congr hr, State.seed_putSeeds, hts, hsee.seed, State.qblkGives_seed]
    by_cases hy : y ∈ (s.acting g (.qblk f)).map (·.t)
    · simp only [hy, if_true, true_and]
    · simp only [hy, if_false, false_and]
  · show (s.counted g (.qblk f)).clk.cycle + g.setLat (s.counted g (.qblk f)).clk.cycle 12 = _
    rw [hsee.clk, IssueGroup.setLat, hc]
    rfl
  · refine resWrites_congr _ ?_
    simp only [Iss.united, List.map_map]
    rfl
  · show ((s.iss g (.qblk f)).united.map _).map _ = _
    rw [List.map_map]
    exact Iss.united_map (s.iss g (.qblk f)) fun t => (t, (s.qblkGives (fieldsOf (.qblk f)) (s.blockScale g f) t).fl)
  · show tokPairs (fieldsOf (.qblk f)).tok (s.iss g (.qblk f)).united = _
    unfold tokPairs
    rw [Iss.united_map _ fun t => (t, (fieldsOf (.qblk f)).tok)]
    rfl

end Qblk

end Sys2Proof.Machine

namespace Sys2Proof.Machine

open Sys2Proof

/-! # A machine of one path -/

/-! ## The lanes of the path -/

/-- The lanes are those of a path that holds some. -/
structure Fills (ls : List Lane) (q : Path) : Prop where
  path : ∀ l ∈ ls, l.pid = q.id ∧ l.t.g = q.g
  lanes : ∀ k, q.mask.getLsbD k = true ↔ ∃ l ∈ ls, l.t.lane = k
  nonempty : q.mask ≠ 0

theorem fills_of_perm {s : State} {ls : List Lane} {q : Path} (h : ls.Perm (s.pathLanes q)) (hq : q.mask ≠ 0) : Fills ls q := by
  refine ⟨fun l hl => ?_, fun k => ⟨fun hk => ?_, fun ⟨l, hl, hlk⟩ => ?_⟩, hq⟩
  · obtain ⟨hg, _, hid, _⟩ := State.mem_pathLanes (h.mem_iff.1 hl)
    exact ⟨hid, hg⟩
  · exact ⟨_, h.mem_iff.2 (List.mem_map_of_mem (mem_lanesOf.2 hk)), rfl⟩
  · obtain ⟨_, hm, _, _⟩ := State.mem_pathLanes (h.mem_iff.1 hl)
    exact hlk ▸ hm

/-- The members of a group in which the only path stands. -/
theorem State.members_perm {s : State} {n : Nat} {q : Path} (hs : s.sch.paths = [q]) (hq : q.state = .inClause n) :
    (s.members n).Perm (s.pathLanes q) := by
  rw [State.members, hs]
  simpa [hq] using sortBy_perm Lane.q (s.pathLanes q)

section Lanes
variable {ls : List Lane} {q : Path} (h : Fills ls q)
include h

theorem Fills.ne_nil : ls ≠ [] := by
  obtain ⟨k, hk⟩ := exists_bit h.nonempty
  obtain ⟨l, hl, _⟩ := (h.lanes k).1 hk
  exact List.ne_nil_of_mem hl

theorem Fills.pids : dedup (ls.map (·.pid)) = [q.id] :=
  dedup_eq_singleton (by simpa using h.ne_nil) fun x hx => by
    obtain ⟨l, hl, rfl⟩ := List.mem_map.1 hx
    exact (h.path l hl).1

theorem Fills.tids : tidsOf ls = [q.g.tid] :=
  dedup_eq_singleton (by simpa using h.ne_nil) fun x hx => by
    obtain ⟨l, hl, rfl⟩ := List.mem_map.1 hx
    exact congrArg GRef.tid (h.path l hl).2

theorem Fills.own : ls.filter (fun l => l.pid = q.id) = ls :=
  List.filter_eq_self.2 fun l hl => by simp [(h.path l hl).1]

theorem Fills.mask : maskOf ((ls.filter fun l => l.pid = q.id).map fun l => l.t.lane) = q.mask := by
  rw [h.own]
  refine BitVec.eq_of_getLsbD_eq fun k hk => ?_
  rw [maskOf_getLsbD, Bool.eq_iff_iff, h.lanes k]
  simp [hk]

theorem Fills.settleTeams (u : State) : u.settleTeams ls = u.settle q.g.tid := by
  rw [State.settleTeams, h.tids]
  rfl

end Lanes

theorem and_not_self (m : BitVec 64) : m &&& ~~~m = 0 := by
  refine BitVec.eq_of_getLsbD_eq fun k hk => ?_
  simp

/-- R171: the path at the header of its clause, in a waiting state. -/
def Path.arrived (q : Path) (g : IssueGroup) (st : PState) (named : BitVec 64) : Path :=
  { q with state := st, pc := g.hdr, mid := some (g.mid q.id), named := named, gateId := none }

theorem maskUnion_one (p : Path) : maskUnion [p] = p.mask := by
  show 0 ||| p.mask = p.mask
  exact BitVec.zero_or

section OnePath
variable {u : State} {q : Path} (hu : u.sch.paths = [q])
include hu

theorem State.path?_one : u.path? q.id = some q := by
  rw [State.path?, hu]
  simp

theorem State.setPath_one (f : Path → Path) : u.setPath q.id f = { u with sch.paths := [f q] } := by
  rw [State.setPath, hu]
  simp

theorem State.pathsOf_one : u.pathsOf q.g.tid = [q] := by
  rw [State.pathsOf, hu]
  simp

/-- All lanes of the path arrive together. -/
theorem State.arrive_one {ls : List Lane} (hl : Fills ls q) (g : IssueGroup) (st : PState) (named : BitVec 64) :
    u.arrive g ls st named = { u with sch.paths := [q.arrived g st named] } := by
  rw [State.arrive, hl.pids, List.foldl_cons, List.foldl_nil]
  dsimp only
  rw [hl.mask, State.splitPath, State.path?_one hu]
  dsimp only
  rw [if_pos (and_not_self _)]
  exact State.setPath_one hu _

/-- The group has lost its only path. -/
theorem State.sweepIg_one {n : Nat} (hn : q.state ≠ .inClause n) : u.sweepIg n = { u with sch.igs := u.sch.igs.filter fun x => x.id ≠ n } := by
  rw [State.sweepIg, hu]
  simp [hn]

/-! ## Settling the path -/

theorem State.settle_one {v w : State} (hset : u.setClash q = false) (hone : u.settleOne q.g.tid = some v)
    (hnone : v.settleOne q.g.tid = none) (hstuck : v.stuck q.g.tid = none) (hopen : v.openTeam q.g.tid = w) :
    u.settle q.g.tid = w := by
  have hclash : (u.pathsOf q.g.tid).find? (fun p => p.state = .waitCollective && p.gateId.isNone && u.setClash p) = none := by
    rw [State.pathsOf_one hu]
    simp [hset]
  have hall : u.settleAll q.g.tid 4096 = v := by
    rw [State.settleAll, hone]
    show v.settleAll q.g.tid 4095 = v
    rw [State.settleAll, hnone]
  rw [State.settle, hclash]
  dsimp only
  rw [hall, hstuck]
  exact hopen

theorem State.setClash_one : u.setClash q = false := by
  rw [State.setClash, hu]
  simp

end OnePath

end Sys2Proof.Machine

namespace Sys2Proof.Machine

open Sys2Proof

/-! ## RECONV of the only path -/

/-- R32: the path behind its RECONV, its scope popped. -/
def Path.merged (q : Path) (cycle : Nat) : Path :=
  { q with
    scopes := popScope q.scopes
    ctxLbl := (q.scopes.head?.map (·.lbl)).getD 0
    state := .runnable
    pc := (q.mid.map (·.endPc)).getD q.pc
    hint := (q.mid.map (·.yld)).getD false
    mid := none
    gateId := none
    since := cycle
    readyAt := max 0 q.readyAt }

theorem maskSub_of_bits {a b : BitVec 64} (h : ∀ k, a.getLsbD k = true → b.getLsbD k = true) : maskSub a b = true := by
  rw [maskSub, beq_iff_eq]
  refine BitVec.eq_of_getLsbD_eq fun k hk => ?_
  rw [BitVec.getLsbD_and, BitVec.getLsbD_not]
  cases ha : a.getLsbD k with
  | false => simp
  | true => simp [hk, h k ha]

section Reconv
variable {u : State} {q : Path} (hu : u.sch.paths = [q]) (hq : q.state = .waitReconv)
include hu hq

theorem State.sameScope_one : u.sameScope q = [q] := by
  rw [State.sameScope, hu]
  simp [hq]

theorem State.completeScope_one : u.completeScope q = { u with sch.paths := [q.merged u.clk.cycle] } := by
  rw [State.completeScope, State.sameScope_one hu hq, hu]
  simp [mergeReconv, maskUnion_one, Path.merged]

theorem State.settleOne_reconv (hl : ∀ k, (u.liveMask q.g).getLsbD k = true → q.mask.getLsbD k = true) :
    u.settleOne q.g.tid = some { u with sch.paths := [q.merged u.clk.cycle] } := by
  have hsub : maskSub (u.topSet q) (maskUnion (u.sameScope q)) = true := by
    rw [State.sameScope_one hu hq, maskUnion_one]
    refine maskSub_of_bits fun k hk => hl k ?_
    unfold State.topSet at hk
    split at hk
    · rw [BitVec.getLsbD_and, Bool.and_eq_true] at hk
      exact hk.2
    · exact hk
  have hfind : (u.pathsOf q.g.tid).find? (fun p => p.state = .waitReconv && maskSub (u.topSet p) (maskUnion (u.sameScope p))) = some q := by
    rw [State.pathsOf_one hu]
    simp [hq, hsub]
  unfold State.settleOne
  dsimp only
  rw [hfind]
  exact congrArg some (State.completeScope_one hu hq)

/-- The scope completes, and nothing else is left to settle. -/
theorem State.settle_reconv (hl : ∀ k, (u.liveMask q.g).getLsbD k = true → q.mask.getLsbD k = true) :
    u.settle q.g.tid = { u with sch.paths := [q.merged u.clk.cycle] } := by
  have hn : ({ u with sch.paths := [q.merged u.clk.cycle] } : State).noneWaits := by
    intro p hp
    rw [List.mem_singleton.1 hp]
    rfl
  exact State.settle_one hu (State.setClash_one hu) (State.settleOne_reconv hu hq hl) (hn.settleOne _) (hn.stuck _) (hn.openTeam _)

end Reconv

/-! ## What issuing leaves of the live threads -/

theorem mem_mdel {κ α : Type} [DecidableEq κ] {m : Map κ α} {k : κ} {x : κ × α} (h : x ∈ mdel m k) : x ∈ m := by
  induction m with
  | nil => exact h
  | cons y m ih =>
    rw [mdel] at h
    split at h
    · exact List.mem_cons_of_mem _ (ih h)
    · rcases List.mem_cons.1 h with rfl | h
      · exact List.mem_cons_self
      · exact List.mem_cons_of_mem _ (ih h)

theorem mem_mset {κ α : Type} [DecidableEq κ] {m : Map κ α} {k : κ} {v : α} {x : κ × α} (h : x ∈ mset m k v) : x = (k, v) ∨ x ∈ m := by
  induction m with
  | nil => exact .inl (List.mem_singleton.1 h)
  | cons y m ih =>
    rw [mset] at h
    split at h
    · rcases List.mem_cons.1 h with rfl | h
      · exact .inl rfl
      · exact .inr (List.mem_cons_of_mem _ (mem_mdel h))
    · rcases List.mem_cons.1 h with rfl | h
      · exact .inr List.mem_cons_self
      · exact (ih h).imp_right (List.mem_cons_of_mem _)

/-- Only threads of a list have new values. -/
def Touches (ts : List TRef) (s u : State) : Prop := ∀ x ∈ u.r.thr, x ∈ s.r.thr ∨ x.1 ∈ ts

theorem Touches.setThr {ts : List TRef} {s u : State} (h : Touches ts s u) {t : TRef} (ht : t ∈ ts) (f : Thread → Thread) :
    Touches ts s (u.setThr t f) := by
  intro x hx
  rcases mem_mset hx with rfl | hx
  · exact .inr ht
  · exact h x hx

theorem Touches.foldl {α : Type} {ts : List TRef} {s u : State} (h : Touches ts s u) {f : State → α → State} (xs : List α)
    (hf : ∀ v, Touches ts s v → ∀ x ∈ xs, Touches ts s (f v x)) : Touches ts s (xs.foldl f u) := by
  induction xs generalizing u with
  | nil => exact h
  | cons x xs ih => exact ih (hf u h x List.mem_cons_self) fun v hv y hy => hf v hv y (List.mem_cons_of_mem _ hy)

theorem State.touches_account (s : State) (i : Iss) (all : List Lane) :
    Touches ((i.on ++ all).map (·.t)) s (s.account i all) := by
  have hon : ∀ l ∈ i.on, l.t ∈ (i.on ++ all).map (·.t) := fun l hl => List.mem_map_of_mem (List.mem_append_left _ hl)
  have hall : ∀ l ∈ all, l.t ∈ (i.on ++ all).map (·.t) := fun l hl => List.mem_map_of_mem (List.mem_append_right _ hl)
  have hcount : Touches ((i.on ++ all).map (·.t)) s (all.foldl (fun s l => s.setThr l.t fun h => { h with dist := h.dist + 1 + i.f.stall })
      (i.on.foldl (fun s l => s.setThr l.t fun h => h.note (Fm.writes i.cls i.op i.f ++
        (if i.cls = 0 && (i.op = 37 || i.op = 38) then s.sysWrites l.t i.cls i.op i.f else []) ++
        (if mayFlag i.cls i.op i.f then [.fstat] else [])) (!fixedLat i.cls i.op) i.f.tok i.g.pc) s)) :=
    Touches.foldl (Touches.foldl (fun _ hx => .inl hx) _ fun v hv l hl => hv.setThr (hon l hl) _) _ fun v hv l hl => hv.setThr (hall l hl) _
  unfold State.account
  dsimp only
  have hup : ∀ v, Touches ((i.on ++ all).map (·.t)) s v → Touches ((i.on ++ all).map (·.t)) s (v.tokUp i.f.tok all) := by
    intro v hv
    unfold State.tokUp
    split
    · exact hv.foldl _ fun w hw l hl => hw.setThr (hall l hl) _
    · exact hv
  unfold State.tokDown
  split
  · refine (hup _ hcount).foldl _ fun w hw t ht => ?_
    obtain ⟨l, hl, rfl⟩ := List.mem_map.1 ht
    exact hw.setThr (hall l (List.mem_filter.1 hl).1) _
  · exact hup _ hcount

/-- A thread that is live after issuing was live before, or is one of the lanes. -/
theorem State.liveMask_touches {ts : List TRef} {s u : State} (h : Touches ts s u) {g : GRef} {k : Nat}
    (hk : (u.liveMask g).getLsbD k = true) : (s.liveMask g).getLsbD k = true ∨ ∃ t ∈ ts, t.g = g ∧ t.lane = k := by
  rw [State.liveMask, maskOf_getLsbD, Bool.and_eq_true, decide_eq_true_eq, decide_eq_true_eq] at hk
  obtain ⟨hm, h64⟩ := hk
  obtain ⟨x, hx, rfl⟩ := List.mem_map.1 hm
  obtain ⟨hx, hg⟩ := List.mem_filter.1 hx
  simp only [decide_eq_true_eq] at hg
  obtain ⟨htid, hgrp, hlive⟩ := hg
  rcases h x hx with hs | ht
  · refine .inl ?_
    rw [State.liveMask, maskOf_getLsbD, Bool.and_eq_true, decide_eq_true_eq, decide_eq_true_eq]
    exact ⟨List.mem_map_of_mem (List.mem_filter.2 ⟨hs, by simp [htid, hgrp, hlive]⟩), h64⟩
  · refine .inr ⟨x.1, ht, ?_, rfl⟩
    rw [TRef.g, htid, hgrp]

end Sys2Proof.Machine

namespace Sys2Proof.Machine

open Sys2Proof

/-! ## The only path of a machine at its word -/

section Lone
variable {s : State} {g : IssueGroup} {i : Instr} {p : Path} {tm : Team} (h : Lone s g i p tm)
include h

theorem Lone.entered_paths : (s.entered g i).sch.paths = [p.entry s g i] := by
  rw [State.entered_entry, h.paths]
  rfl

theorem Lone.counted_paths : (s.counted g i).sch.paths = [p.entry s g i] := by
  rw [State.counted_paths, h.paths]
  rfl

/-- All lanes of the path act. -/
theorem Lone.fills_acting : Fills (s.acting g i) (p.entry s g i) := by
  rw [h.acting]
  exact fills_of_perm (State.members_perm h.entered_paths (by rw [Path.entry_state]; exact h.here)) (by rw [Path.entry_mask]; exact h.nonempty)

/-- Once the word is counted, no thread but those of the path is live in the group. -/
theorem Lone.counted_live {k : Nat} (hk : ((s.counted g i).liveMask p.g).getLsbD k = true) : p.mask.getLsbD k = true := by
  have hr : (s.counted g i).r = ((s.entered g i).account (s.iss g i) ((s.entered g i).members g.id)).r := by
    unfold State.counted
    rw [State.useUnit_r]
  have hmask : (s.counted g i).liveMask p.g = ((s.entered g i).account (s.iss g i) ((s.entered g i).members g.id)).liveMask p.g := by
    unfold State.liveMask
    rw [hr]
  rw [hmask] at hk
  rcases State.liveMask_touches (State.touches_account _ _ _) hk with hs | ⟨t, ht, _, hlane⟩
  · exact h.live ▸ hs
  · obtain ⟨l, hl, rfl⟩ := List.mem_map.1 ht
    have hl : l ∈ s.acting g i := by
      rcases List.mem_append.1 hl with hl | hl
      · exact hl
      · exact h.acting ▸ hl
    have := (h.fills_acting.lanes k).2 ⟨l, hl, hlane⟩
    rwa [Path.entry_mask] at this

end Lone

/-! ## RECONV -/

/-- The path of RECONV, arrived and merged. -/
def Path.reconverged (p : Path) (s : State) (g : IssueGroup) (i : Instr) : Path :=
  ((p.entry s g i).arrived g .waitReconv 0).merged s.clk.cycle

/-- What RECONV of the only path leads to. -/
theorem reconv_of_lone {s : State} {g : IssueGroup} {i : Instr} {p : Path} {tm : Team}
    (hi : (∃ f, i = .reconv f) ∨ ∃ f, i = .reconvLong f) (h : s.ready g i = true) (hl : Lone s g i p tm) :
    exec i s = .next (({ s.counted g i with sch.paths := [p.reconverged s g i] } : State).advance g (fieldsOf i).len
      (fieldsOf i).stall) := by
  have he : exec i s = runWord i reconvMeaning s := by rcases hi with ⟨f, rfl⟩ | ⟨f, rfl⟩ <;> rfl
  have hf := hl.fills_acting
  have hset := State.settle_reconv (u := { s.counted g i with sch.paths := [(p.entry s g i).arrived g .waitReconv 0] }) rfl rfl
    fun k hk => by
      have hk : ((s.counted g i).liveMask (p.entry s g i).g).getLsbD k = true := hk
      rw [Path.entry_g] at hk
      show (p.entry s g i).mask.getLsbD k = true
      rw [Path.entry_mask]
      exact hl.counted_live hk
  have heff : reconvMeaning.eff (s.counted g i) (s.iss g i) = { s.counted g i with sch.paths := [p.reconverged s g i] } := by
    show (((s.counted g i).arrive g (s.acting g i) .waitReconv 0).settleTeams (s.acting g i)) = _
    rw [State.arrive_one hl.counted_paths hf, hf.settleTeams]
    refine hset.trans ?_
    rw [show ({ s.counted g i with sch.paths := [(p.entry s g i).arrived g .waitReconv 0] } : State).clk.cycle = s.clk.cycle from
      congrArg Clk.cycle (s.sees_counted g i).clk]
    rfl
  rw [he, runWord_acts h reconvMeaning (fun _ _ _ => rfl) (fun _ _ => rfl) (fun _ _ => rfl) fun _ _ => rfl, heff]

section Reconverged
variable (p : Path) (s : State) (g : IssueGroup) (i : Instr)

theorem Path.entry_scopes : (p.entry s g i).scopes = p.scopes := by unfold Path.entry; split <;> rfl

theorem Path.reconverged_scopes : (p.reconverged s g i).scopes = popScope p.scopes := by
  rw [← Path.entry_scopes p s g i]
  rfl

theorem Path.reconverged_ctxLbl : (p.reconverged s g i).ctxLbl = (p.scopes.head?.map (·.lbl)).getD 0 := by
  rw [← Path.entry_scopes p s g i]
  rfl

end Reconverged

/-- Settles O13: the arrival of the only path at RECONV completes its scope, and a block issues QBLK with the model's own results. -/
theorem scopesAndBlocksComplete : Obligations.ScopesAndBlocksComplete := by
  unfold Obligations.ScopesAndBlocksComplete
  refine ⟨fun s g i p tm hi h hl => ?_, fun s g f at_ h hc => ?_⟩
  · let v : State := { s.counted g i with sch.paths := [p.reconverged s g i] }
    have hsans : (v.advance g (fieldsOf i).len (fieldsOf i).stall).sansIssue = s.sansIssue := by
      have hs := congrArg State.sansIssue (s.over_counted g i).same
      rw [State.advance_frame]
      exact hs
    obtain ⟨hr, hm, he, hgr, hh, hy, _, hsch⟩ := parts_of_sansIssue hsans (State.advance_cur ..)
    have hteams : (v.advance g (fieldsOf i).len (fieldsOf i).stall).sch.teams = s.sch.teams := (congrArg Sched.teams hsch :)
    have hpend : (v.advance g (fieldsOf i).len (fieldsOf i).stall).sch.pend = s.sch.pend := (congrArg Sched.pend hsch :)
    refine ⟨_, p.reconverged s g i, reconv_of_lone hi h hl, ?_, rfl, rfl, Path.entry_id .., Path.entry_g .., Path.entry_mask ..,
      fun sc sc' rest hsc => ?_, fun sc hsc => ?_, fun x => ?_, hr, hm, he, hgr, hh, hy, hteams, hpend⟩
    · rw [State.advance_paths]
      exact congrArg (fun q => [q]) (if_neg fun hq => PState.noConfusion hq.2)
    · rw [Path.reconverged_scopes, Path.reconverged_ctxLbl, hsc]
      exact ⟨rfl, rfl⟩
    · rw [Path.reconverged_scopes, Path.reconverged_ctxLbl, hsc]
      exact ⟨rfl, rfl⟩
    · rw [State.thr_congr State.advance_rest.2]
      exact (s.over_counted g i).threads x
  · exact qblk_issues h hc

end Sys2Proof.Machine

namespace Sys2Proof.Machine

open Sys2Proof

/-! # Arrivals (O12) -/

/-! ## The reaching of a point -/

/-- An arrival that faults in no lane. -/
theorem reach_passes {s : State} {g : IssueGroup} {i : Instr} (h : s.ready g i = true) (m : Point)
    (hf : ∀ l ∈ s.members g.id, m.flt s ⟨g, i.cls, opNo i, fieldsOf i, s.members g.id, []⟩ l = none) :
    s.reach g i m = ((m.wait { s with clk.cur := none } ⟨g, i.cls, opNo i, fieldsOf i, s.alive (s.members g.id), []⟩).sweepIg
      g.id).settleTeams (s.alive (s.members g.id)) := by
  obtain ⟨b, hb, hfm⟩ := ready_view h
  unfold State.reach
  rw [hb]
  dsimp only
  rw [← hfm, ready_judge h, s.judge_none g _ _ hf]
  rfl

/-- A group that is not of a complete set reaches the point. -/
theorem runPoint_of_none {s : State} {g : IssueGroup} {i : Instr} (h : s.ready g i = true) (hc : g.setAt = none) (m : Point) :
    runPoint i m s = .next (s.reach g i m) := by
  unfold runPoint
  rw [ready_cur h]
  simp [hc]

section Points
variable {s : State} {g : IssueGroup} {i : Instr}

theorem bar_reaches (h : s.ready g i = true) (hc : g.setAt = none) (he : exec i s = runPoint i barPoint s)
    (hf : ∀ l ∈ s.members g.id, s.rd32 l.t (fieldsOf i).lit (fieldsOf i).a < 16 ∧
      (opNo i = 7 → s.rd32 l.t (fieldsOf i).lit (fieldsOf i).b ≠ 0 ∧ s.rd32 l.t (fieldsOf i).lit (fieldsOf i).b ≤ 4096)) :
    exec i s = .next (((({ s with clk.cur := none } : State).arriveBars ⟨g, i.cls, opNo i, fieldsOf i, s.alive (s.members g.id), []⟩).sweepIg
      g.id).settleTeams (s.alive (s.members g.id))) := by
  rw [he, runPoint_of_none h hc, reach_passes h]
  · rfl
  · intro l hl
    obtain ⟨hb, hn⟩ := hf l hl
    by_cases hop : opNo i = 7
    · obtain ⟨h0, hle⟩ := hn hop
      simp [barPoint, State.barOf, hop, Nat.not_le.2 hb, h0, hle]
    · simp [barPoint, State.barOf, hop, Nat.not_le.2 hb]

theorem coll_reaches (h : s.ready g i = true) (hc : g.setAt = none) (he : exec i s = runPoint i collPoint s)
    (hf : ∀ l ∈ s.members g.id, (s.namedSet (fieldsOf i) l).getLsbD l.t.lane = true) :
    exec i s = .next (((({ s with clk.cur := none } : State).arriveSets ⟨g, i.cls, opNo i, fieldsOf i, s.alive (s.members g.id), []⟩
      fun l => s.namedSet (fieldsOf i) l).sweepIg g.id).settleTeams (s.alive (s.members g.id))) := by
  rw [he, runPoint_of_none h hc, reach_passes h]
  · rfl
  · exact fun l hl => if_pos (hf l hl)

theorem qblk_reaches (h : s.ready g i = true) (hc : g.setAt = none) (he : exec i s = runPoint i qblkPoint s) :
    exec i s = .next (((({ s with clk.cur := none } : State).arriveSets ⟨g, i.cls, opNo i, fieldsOf i, s.alive (s.members g.id), []⟩
      fun l => tileMask l.t.lane 16).sweepIg g.id).settleTeams (s.alive (s.members g.id))) := by
  rw [he, runPoint_of_none h hc, reach_passes h qblkPoint fun _ _ => rfl]
  rfl

theorem rows_reaches (h : s.ready g i = true) (hc : g.setAt = none) (he : exec i s = runPoint i rowsPoint s) :
    exec i s = .next (((({ s with clk.cur := none } : State).arrive g (s.alive (s.members g.id)) .waitGroup 0).sweepIg
      g.id).settleTeams (s.alive (s.members g.id))) := by
  rw [he, runPoint_of_none h hc, reach_passes h rowsPoint fun _ _ => rfl]
  rfl

end Points

/-! ## A set completes -/

/-- R36: the path of a complete set. -/
def Path.gated (q : Path) (s : State) : Path := { q with gateId := some s.clk.fresh, since := s.clk.cycle }

/-- R171: the issue group that opens for the path of a complete set. -/
def State.openedIg (s : State) (q : Path) : IssueGroup :=
  { s.waitIg q with
    id := s.clk.fresh
    formed := s.clk.cycle
    notBefore := max s.clk.cycle q.readyAt
    chk := if (q.mid.map (·.chk)).getD false then [q.id] else []
    setAt := some q.since }

section Complete
variable {u : State} {q : Path} (hu : u.sch.paths = [q])
include hu

theorem State.completed_one : u.completed [q.id] = { u with clk.fresh := u.clk.fresh + 1, sch.paths := [q.gated u] } := by
  rw [State.completed, State.freshId]
  dsimp only
  rw [hu]
  simp [Path.gated]

theorem State.openSet_one (hq : q.opening = true) : u.openSet q = { u with
    clk.fresh := u.clk.fresh + 1
    sch.paths := [{ q with state := .inClause u.clk.fresh, mid := none }]
    sch.igs := u.sch.igs ++ [u.openedIg q] } := by
  rw [State.openSet, State.freshId]
  dsimp only
  rw [hu]
  have hf : ([q].filter fun r => r.core = q.core && r.quad = q.quad && r.g = q.g && r.opening && r.gateId = q.gateId) = [q] := by
    simp [hq]
  rw [hf]
  have hchk : ([q].filter fun r => (r.mid.map (·.chk)).getD false).map (·.id) =
      if (q.mid.map (·.chk)).getD false then [q.id] else [] := by
    rw [List.filter_cons]
    split <;> rfl
  rw [hchk]
  simp [State.openedIg, State.waitIg, State.team?]

theorem State.toOpen_one (hq : q.opening = true) (hr : u.running q.g.tid = true) (hl : u.reloading q.g.tid = false) :
    u.toOpen q.core q.quad = [q] := by
  rw [State.toOpen, hu]
  simp [hq, hr, hl]

theorem State.openSets_none {core quad n : Nat} (hq : q.opening = false) : u.openSets core quad n = u := by
  cases n with
  | zero => rfl
  | succ n =>
    have : u.toOpen core quad = [] := by
      rw [State.toOpen, hu]
      simp [hq]
    rw [State.openSets, this]
    split <;> rfl

/-- The set of the path opens, where a clause context is free. -/
theorem State.openTeam_one (hq : q.opening = true) (hr : u.running q.g.tid = true) (hl : u.reloading q.g.tid = false)
    (hfree : u.contextFree q.core q.quad = true) : u.openTeam q.g.tid = u.openSet q := by
  have hd : dedup ((([q] : List Path).filter Path.opening).map fun p => (p.core, p.quad)) = [(q.core, q.quad)] := by
    refine dedup_eq_singleton ?_ fun x hx => ?_
    · simp [hq]
    · simpa [hq] using hx
  rw [State.openTeam, State.pathsOf_one hu, hd, List.foldl_cons, List.foldl_nil]
  rw [State.openSets, hfree, State.toOpen_one hu hq hr hl]
  show State.openSets (u.openSet q) q.core q.quad 3 = u.openSet q
  have hp : (u.openSet q).sch.paths = [{ q with state := .inClause u.clk.fresh, mid := none }] := by rw [State.openSet_one hu hq]
  exact State.openSets_none hp (by simp [Path.opening])

/-- A path of a complete set has nothing to complete. -/
theorem State.settleOne_gated (hq : q.opening = true) : u.settleOne q.g.tid = none := by
  have hstate : q.gateId.isSome = true ∧ (q.state = .waitCollective ∨ q.state = .waitGroup) := by
    simpa [Path.opening] using hq
  obtain ⟨hg, hs⟩ := hstate
  have hg : q.gateId.isNone = false := Option.isNone_eq_false_iff.2 hg
  have hbar : ∀ b, u.barFull q.g.tid b = false := by
    intro b
    have : u.atBarrier q.g.tid b = [] := by
      rw [State.atBarrier, State.pathsOf_one hu]
      rcases hs with hs | hs <;> simp [hs]
    simp [State.barFull, this]
  have hrec : ¬ q.state = .waitReconv := by rcases hs with hs | hs <;> simp [hs]
  unfold State.settleOne
  simp [State.pathsOf_one hu, hg, hrec, hbar]

theorem State.stuck_gated (hq : q.opening = true) : u.stuck q.g.tid = none := by
  have hg : q.gateId.isNone = false := by
    have : q.gateId.isSome = true := by
      simp only [Path.opening, Bool.and_eq_true] at hq
      exact hq.1
    exact Option.isNone_eq_false_iff.2 this
  unfold State.stuck
  simp [State.pathsOf_one hu, hg, Path.waiting]

end Complete

/-! ## The completion of the only path -/

/-- The path of a machine has arrived at a point of a set, which it completes: what settling comes to. `v` is the state as it
stands when the set completes. -/
theorem State.settle_completes {u v : State} {q : Path} (hu : u.sch.paths = [q]) (hv : v.sch.paths = [q])
    (hone : u.settleOne q.g.tid = some (v.completed [q.id])) (hq : q.state = .waitCollective ∨ q.state = .waitGroup)
    (hr : v.running q.g.tid = true) (hl : v.reloading q.g.tid = false) (hfree : v.contextFree q.core q.quad = true) :
    u.settle q.g.tid = ({ v with clk.fresh := v.clk.fresh + 1, sch.paths := [q.gated v] } : State).openSet (q.gated v) := by
  rw [State.completed_one hv] at hone
  let w : State := { v with clk.fresh := v.clk.fresh + 1, sch.paths := [q.gated v] }
  have hw : w.sch.paths = [q.gated v] := rfl
  have hopen : (q.gated v).opening = true := by
    rcases hq with hq | hq <;> simp [Path.opening, Path.gated, hq]
  have hnone : w.settleOne (q.gated v).g.tid = none := State.settleOne_gated hw hopen
  have hstuck : w.stuck (q.gated v).g.tid = none := State.stuck_gated hw hopen
  exact State.settle_one hu (State.setClash_one hu) hone hnone hstuck (State.openTeam_one hw hopen hr hl hfree)

/-- What an arrival that completes its set leads to, with `l1` as the leased lines that are left. -/
structure Opens (s t : State) (g : IssueGroup) (p : Path) (tm : Team) (l1 : List L1Line) : Prop where
  path : ∃ (q : Path) (h : IssueGroup), t.sch.paths = [q] ∧
    q.state = .inClause h.id ∧ q.id = p.id ∧ q.g = p.g ∧ q.mask = p.mask ∧ q.scopes = p.scopes ∧ q.ctxLbl = p.ctxLbl ∧
    t.sch.igs = (s.sch.igs.filter fun x => x.id ≠ g.id) ++ [h] ∧ h.setAt = some s.clk.cycle ∧ h.core = p.core ∧ h.quad = p.quad ∧
    h.part = tm.part ∧ h.ctx = tm.ctx ∧ h.stage = tm.stage ∧ h.cls = g.cls ∧ h.hdr = g.hdr ∧ h.pc = g.hdr + 4 ∧ h.endPc = g.endPc ∧
    h.yld = g.yld ∧ h.hold = none ∧ h.notBefore = max s.clk.cycle p.readyAt
  frame : t = { s with
    clk.cur := none
    clk.fresh := t.clk.fresh
    sch.paths := t.sch.paths
    sch.igs := t.sch.igs
    m.l1 := l1 }

/-- The path of a machine at the header of its clause, and its group gone. -/
def State.waits (s : State) (g : IssueGroup) (p : Path) (st : PState) (named : BitVec 64) : State :=
  { s with clk.cur := none, sch.paths := [p.arrived g st named], sch.igs := s.sch.igs.filter fun x => x.id ≠ g.id }

section Arrived
variable {s : State} {g : IssueGroup} {p : Path} {tm : Team} {st : PState} {named : BitVec 64} {l1 : List L1Line}

theorem State.contextFree_waits
    (hfree : (s.sch.igs.filter fun x => x.core = p.core && x.quad = p.quad && x.id != g.id).length < 4) :
    (s.waits g p st named).contextFree p.core p.quad = true := by
  have : (s.sch.igs.filter fun x => x.id ≠ g.id).filter (fun x => x.core = p.core && x.quad = p.quad) =
      s.sch.igs.filter fun x => x.core = p.core && x.quad = p.quad && x.id != g.id := by
    rw [List.filter_filter]
    refine List.filter_congr fun x _ => ?_
    simp [bne, beq_eq_decide]
  show decide (((s.sch.igs.filter fun x => x.id ≠ g.id).filter fun x => x.core = p.core && x.quad = p.quad).length < 4) = true
  rw [this]
  exact decide_eq_true hfree

theorem opens_of_completed (hteam : s.team? p.g.tid = some tm) (hst : st = .waitCollective ∨ st = .waitGroup)
    (hone : (s.waits g p st named).settleOne p.g.tid =
      some (State.completed { s.waits g p st named with m.l1 := l1 } [p.id]))
    (hr : s.running p.g.tid = true) (hl : s.reloading p.g.tid = false)
    (hfree : (s.sch.igs.filter fun x => x.core = p.core && x.quad = p.quad && x.id != g.id).length < 4) :
    Opens s ((s.waits g p st named).settle p.g.tid) g p tm l1 := by
  let q := p.arrived g st named
  let v : State := { s.waits g p st named with m.l1 := l1 }
  let w : State := { v with clk.fresh := v.clk.fresh + 1, sch.paths := [q.gated v] }
  have hsettle : (s.waits g p st named).settle p.g.tid = w.openSet (q.gated v) :=
    State.settle_completes (q := q) rfl rfl hone hst hr hl (State.contextFree_waits hfree)
  have hopen : (q.gated v).opening = true := by
    rcases hst with hq | hq <;> simp [Path.opening, Path.gated, q, Path.arrived, hq]
  have hwait : w.waitIg (q.gated v) = { w.waitIg (q.gated v) with part := tm.part, ctx := tm.ctx, stage := tm.stage } := by
    have hteam' : w.team? (q.gated v).g.tid = some tm := hteam
    unfold State.waitIg
    rw [hteam']
  rw [hsettle, State.openSet_one rfl hopen]
  exact ⟨⟨{ q.gated v with state := .inClause w.clk.fresh, mid := none }, w.openedIg (q.gated v), rfl, rfl, rfl, rfl, rfl, rfl, rfl,
    rfl, rfl, rfl, rfl, congrArg IssueGroup.part hwait, congrArg IssueGroup.ctx hwait, congrArg IssueGroup.stage hwait, rfl, rfl, rfl,
    rfl, rfl, rfl, rfl⟩, rfl⟩

end Arrived

/-! ## The arrival of the only path -/

theorem State.teamAcquire_frame (s : State) (tid : Nat) : s.teamAcquire tid = { s with m.l1 := (s.teamAcquire tid).m.l1 } := by
  unfold State.teamAcquire
  split
  · split <;> rfl
  · rfl

section Sets
variable {u : State} {q : Path} (hu : u.sch.paths = [q]) (hg : q.gateId = none)
  (hl : ∀ k, (u.liveMask q.g).getLsbD k = true → q.mask.getLsbD k = true)
include hu hg hl

theorem State.settleOne_set (hq : q.state = .waitCollective) : u.settleOne q.g.tid =
    some ((if (u.waitWord q).any fun x => isTbar x.1 then u.teamAcquire q.g.tid else u).completed [q.id]) := by
  have hsame : u.sameSet q = [q] := by
    rw [State.sameSet, hu]
    simp [hq, hg]
  have hfull : u.setFull q = true := by
    rw [State.setFull, hsame, maskUnion_one]
    refine maskSub_of_bits fun k hk => hl k ?_
    rw [BitVec.getLsbD_and, Bool.and_eq_true] at hk
    exact hk.2
  have hc : u.completeSet q = (if (u.waitWord q).any fun x => isTbar x.1 then u.teamAcquire q.g.tid else u).completed [q.id] := by
    rw [State.completeSet, hsame]
    rfl
  rw [← hc]
  unfold State.settleOne
  simp [State.pathsOf_one hu, hq, hg, hfull]

theorem State.settleOne_group (hq : q.state = .waitGroup) : u.settleOne q.g.tid = some (u.completed [q.id]) := by
  have hsame : u.sameGroup q = [q] := by
    rw [State.sameGroup, hu]
    simp [hq, hg]
  have hfull : maskSub (u.liveMask q.g) (maskUnion (u.sameGroup q)) = true := by
    rw [hsame, maskUnion_one]
    exact maskSub_of_bits hl
  have hc : u.completeGroup q = u.completed [q.id] := by
    rw [State.completeGroup, hsame]
    rfl
  rw [← hc]
  unfold State.settleOne
  simp [State.pathsOf_one hu, hq, hg, hfull]

end Sets

section LoneArrives
variable {s : State} {g : IssueGroup} {i : Instr} {p : Path} {tm : Team} (h : Lone s g i p tm)
include h

theorem Lone.fills : Fills (s.members g.id) p := fills_of_perm (State.members_perm h.paths h.here) h.nonempty

theorem Lone.alive : s.alive (s.members g.id) = s.members g.id :=
  List.filter_eq_self.2 fun l hl => by
    rw [show l.t.tid = p.g.tid from congrArg GRef.tid (h.fills.path l hl).2, h.team]
    rfl

/-- All lanes of the path name one set. -/
theorem Lone.arriveSets {on : Iss} (hg : on.g = g) (hon : on.on = s.members g.id) {named : Lane → BitVec 64} {set : BitVec 64}
    (hset : ∀ l ∈ s.members g.id, named l = set) :
    ((({ s with clk.cur := none } : State).arriveSets on named).sweepIg g.id) = s.waits g p .waitCollective set := by
  have hkeys : dedup (on.on.map fun l => (l.g, named l)) = [(p.g, set)] := by
    rw [hon]
    refine dedup_eq_singleton (by simpa using h.fills.ne_nil) fun x hx => ?_
    obtain ⟨l, hl, rfl⟩ := List.mem_map.1 hx
    exact Prod.ext (h.fills.path l hl).2 (hset l hl)
  have hall : (on.on.filter fun l => l.g = p.g && named l == set) = s.members g.id := by
    rw [hon]
    refine List.filter_eq_self.2 fun l hl => ?_
    have hlg : l.g = p.g := (h.fills.path l hl).2
    simp [hlg, hset l hl]
  rw [State.arriveSets, hkeys, List.foldl_cons, List.foldl_nil]
  dsimp only
  rw [hall, hg, State.arrive_one (u := { s with clk.cur := none }) h.paths h.fills, State.sweepIg_one rfl (by simp [Path.arrived])]
  rfl

theorem Lone.arrives {st : PState} (hst : ∀ n, st ≠ .inClause n) (named : BitVec 64) :
    ((({ s with clk.cur := none } : State).arrive g (s.members g.id) st named).sweepIg g.id) = s.waits g p st named := by
  rw [State.arrive_one (u := { s with clk.cur := none }) h.paths h.fills, State.sweepIg_one rfl (by simpa [Path.arrived] using hst g.id)]
  rfl

theorem Lone.waits_live {st : PState} {named : BitVec 64} {k : Nat}
    (hk : ((s.waits g p st named).liveMask (p.arrived g st named).g).getLsbD k = true) : (p.arrived g st named).mask.getLsbD k = true := by
  have hk : (s.liveMask p.g).getLsbD k = true := hk
  rw [h.live] at hk
  exact hk

theorem Lone.waits_word {st : PState} {named : BitVec 64} :
    (s.waits g p st named).waitWord (p.arrived g st named) = some (i, (fieldsOf i).len) := h.word

end LoneArrives

section LoneCompletes
variable {s : State} {g : IssueGroup} {i : Instr} {p : Path} {tm : Team} (h : Lone s g i p tm)
  (hr : s.running p.g.tid = true) (hl : s.reloading p.g.tid = false)
  (hfree : (s.sch.igs.filter fun x => x.core = p.core && x.quad = p.quad && x.id != g.id).length < 4)
include h hr hl hfree

theorem set_opens (set : BitVec 64) : ∃ l1, Opens s ((s.waits g p .waitCollective set).settle p.g.tid) g p tm l1 ∧
    (isTbar i = false → l1 = s.m.l1) := by
  let u := s.waits g p .waitCollective set
  have hone := State.settleOne_set (u := u) (q := p.arrived g .waitCollective set) rfl rfl (fun _ => h.waits_live) rfl
  rw [h.waits_word] at hone
  cases htb : isTbar i with
  | false =>
    rw [if_neg (by simp [htb])] at hone
    exact ⟨s.m.l1, opens_of_completed h.team (.inl rfl) hone hr hl hfree, fun _ => rfl⟩
  | true =>
    rw [if_pos (by simp [htb]), State.teamAcquire_frame] at hone
    exact ⟨_, opens_of_completed h.team (.inl rfl) hone hr hl hfree, fun e => Bool.noConfusion e⟩

theorem group_opens : Opens s ((s.waits g p .waitGroup 0).settle p.g.tid) g p tm s.m.l1 :=
  opens_of_completed h.team (.inr rfl)
    (State.settleOne_group (q := p.arrived g .waitGroup 0) rfl rfl (fun _ => h.waits_live) rfl) hr hl hfree

end LoneCompletes

/-- What the opening of a set changes in the machine. -/
theorem Opens.result {s t : State} {g : IssueGroup} {p : Path} {tm : Team} {l1 : List L1Line} {n : Nat} (h : Opens s t g p tm l1)
    (hn : n ≠ 7 → l1 = s.m.l1) :
    ∃ (q : Path) (h : IssueGroup), t.sch.paths = [q] ∧
      q.state = .inClause h.id ∧ q.id = p.id ∧ q.g = p.g ∧ q.mask = p.mask ∧ q.scopes = p.scopes ∧ q.ctxLbl = p.ctxLbl ∧
      t.sch.igs = (s.sch.igs.filter fun x => x.id ≠ g.id) ++ [h] ∧ h.setAt = some s.clk.cycle ∧ h.core = p.core ∧ h.quad = p.quad ∧
      h.part = tm.part ∧ h.ctx = tm.ctx ∧ h.stage = tm.stage ∧ h.cls = g.cls ∧ h.hdr = g.hdr ∧ h.pc = g.hdr + 4 ∧ h.endPc = g.endPc ∧
      h.yld = g.yld ∧ h.hold = none ∧ h.notBefore = max s.clk.cycle p.readyAt ∧ t.clk.cur = none ∧
      t.r = s.r ∧ t.sch.pend = s.sch.pend ∧ t.sch.teams = s.sch.teams ∧ t.sch.busy = s.sch.busy ∧
      t.m.mem = s.m.mem ∧ t.e = s.e ∧ t.gr = s.gr ∧ t.h = s.h ∧ t.y = s.y ∧ (n ≠ 7 → t.m = s.m) := by
  have hf := h.frame
  obtain ⟨q, x, hpath, hin, hid, hg, hmask, hsc, hctx, higs, hset, hcore, hquad, hpart, hc, hst, hcls, hhdr, hpc, hend, hyld, hhold,
    hnot⟩ := h.path
  refine ⟨q, x, hpath, hin, hid, hg, hmask, hsc, hctx, higs, hset, hcore, hquad, hpart, hc, hst, hcls, hhdr, hpc, hend, hyld, hhold,
    hnot, ?_⟩
  rw [hf]
  refine ⟨rfl, rfl, rfl, rfl, rfl, rfl, rfl, rfl, rfl, rfl, fun hne => ?_⟩
  rw [hn hne]

theorem opNo_of_isTbar {i : Instr} (h : isTbar i = true) : opNo i = 7 := by
  unfold isTbar at h
  split at h
  · rfl
  · rfl
  · cases h

/-- Settles O12: the threads of the group arrive, and the only path of the machine completes its set and opens. -/
theorem arrivals : Obligations.Arrivals := by
  unfold Obligations.Arrivals
  refine ⟨fun s g i h => ⟨fun hi => ?_, fun hc => ?_⟩, fun s g i p tm h hc hl hr hrl hfree hi => ?_⟩
  · have he : exec i s = runWord i reconvMeaning s := by rcases hi with ⟨f, rfl⟩ | ⟨f, rfl⟩ <;> rfl
    exact takes_acts h he (fun _ _ _ => rfl) (fun _ _ => rfl) rfl (State.acting_alive ..) rfl
  · intro f ls is idle
    refine ⟨fun hi hb => ?_, fun hi hb => ?_, fun hi hset => ?_, fun hi => ?_, fun hi => ?_⟩
    · have hw : exec i s = runPoint i barPoint s ∧ opNo i ≠ 7 := by
        rcases hi with ⟨f, rfl⟩ | ⟨f, rfl⟩ <;> exact ⟨rfl, show (6 : Nat) ≠ 7 by decide⟩
      exact bar_reaches h hc hw.1 fun l hl => ⟨hb l hl, fun hop => absurd hop hw.2⟩
    · have he : exec i s = runPoint i barPoint s := by rcases hi with ⟨f, rfl⟩ | ⟨f, rfl⟩ <;> rfl
      exact bar_reaches h hc he fun l hl => ⟨(hb l hl).1, fun _ => (hb l hl).2⟩
    · have he : exec i s = runPoint i collPoint s := by
        rcases hi with ⟨f, rfl⟩ | ⟨f, rfl⟩ | ⟨f, rfl⟩ | ⟨f, rfl⟩ | ⟨f, rfl⟩ | ⟨f, rfl⟩ | ⟨f, rfl⟩ | ⟨f, rfl⟩ | ⟨f, rfl⟩ <;> rfl
      exact coll_reaches h hc he hset
    · obtain ⟨f, rfl⟩ := hi
      exact qblk_reaches h hc rfl
    · have he : exec i s = runPoint i rowsPoint s := by
        rcases hi with ⟨f, rfl⟩ | ⟨f, rfl⟩ | ⟨f, rfl⟩ | ⟨f, rfl⟩ <;> rfl
      exact rows_reaches h hc he
  · rcases hi with ⟨hi, set, hset⟩ | ⟨⟨f, rfl⟩, set, hset⟩ | hi
    · have he : exec i s = runPoint i collPoint s := by
        rcases hi with ⟨f, rfl⟩ | ⟨f, rfl⟩ | ⟨f, rfl⟩ | ⟨f, rfl⟩ | ⟨f, rfl⟩ | ⟨f, rfl⟩ | ⟨f, rfl⟩ | ⟨f, rfl⟩ | ⟨f, rfl⟩ <;> rfl
      obtain ⟨l1, hopen, hl1⟩ := set_opens hl hr hrl hfree set
      rw [coll_reaches h hc he fun l hlm => (hset l hlm).1 ▸ (hset l hlm).2, hl.alive,
        hl.arriveSets rfl rfl fun l hlm => (hset l hlm).1, hl.fills.settleTeams]
      obtain ⟨q, x, hres⟩ := hopen.result (n := opNo i) fun hne => hl1 (by simpa using mt opNo_of_isTbar hne)
      exact ⟨_, q, x, rfl, hres⟩
    · obtain ⟨l1, hopen, hl1⟩ := set_opens hl hr hrl hfree set
      rw [qblk_reaches h hc rfl, hl.alive, hl.arriveSets rfl rfl hset, hl.fills.settleTeams]
      obtain ⟨q, x, hres⟩ := hopen.result (n := opNo (.qblk f)) fun _ => hl1 rfl
      exact ⟨_, q, x, rfl, hres⟩
    · have he : exec i s = runPoint i rowsPoint s := by
        rcases hi with ⟨f, rfl⟩ | ⟨f, rfl⟩ | ⟨f, rfl⟩ | ⟨f, rfl⟩ <;> rfl
      rw [rows_reaches h hc he, hl.alive, hl.arrives (by simp) 0, hl.fills.settleTeams]
      obtain ⟨q, x, hres⟩ := (group_opens hl hr hrl hfree).result (n := opNo i) fun _ => rfl
      exact ⟨_, q, x, rfl, hres⟩

end Sys2Proof.Machine

namespace Sys2Proof.Machine

open Sys2Proof

/-! # Barriers complete (O15) -/

/-- The words BAR and BARP of a complete generation go on. -/
theorem bar_goes_on {s : State} {g : IssueGroup} {i : Instr} {c : Nat} (h : s.ready g i = true) (hc : g.setAt = some c)
    (he : exec i s = runPoint i barPoint s) : Does s g i s := by
  rw [runPoint_of_set h hc] at he
  exact does_of_eff h he (fun _ _ _ => rfl) (fun _ _ => rfl) (fun _ _ => rfl) (fun _ _ => rfl) (s.over_counted g i) rfl rfl rfl rfl

/-! ## A generation -/

/-- R210: the next generation of a barrier opens. -/
def Team.nextGen (b : Nat) (t : Team) : Team := { t with bars := setAt t.bars b fun x => { x with gen := x.gen + 1, count := none } }

/-- R209: BARP names the count of its generation. -/
def Team.counts (b c : Nat) (t : Team) : Team := { t with bars := setAt t.bars b fun x => { x with count := some c } }

theorem Team.nextGen_counts (b c : Nat) (t : Team) : (t.counts b c).nextGen b = t.nextGen b := by
  unfold Team.nextGen Team.counts setAt
  dsimp only
  rw [List.modify_modify_eq]
  rfl

/-- R210: the path of a complete generation, Runnable at the header of its clause. -/
def Path.passed (q : Path) (s : State) : Path := { q.gated s with state := .runnable }

theorem State.setTeam_of_some {s : State} {tid : Nat} {t : Team} (h : s.team? tid = some t) (f : Team → Team) :
    s.setTeam tid f = { s with sch.teams := mset s.sch.teams tid (f t) } := by
  unfold State.setTeam
  rw [h]

/-- The acquire reads of a team its cores and its partition. -/
theorem State.teamAcquire_m {s u : State} {tid : Nat} {t t' : Team} (hs : s.team? tid = some t) (hu : u.team? tid = some t')
    (hc2 : t'.core2 = t.core2) (hc : t'.core = t.core) (hp : t'.part = t.part) (hm : u.m = s.m) :
    (u.teamAcquire tid).m = (s.teamAcquire tid).m := by
  unfold State.teamAcquire
  rw [hs, hu]
  dsimp only
  rw [hc2, hc, hp]
  cases t.core2 with
  | none => exact hm
  | some c =>
    dsimp only
    rw [hm]

section Barrier
variable {u : State} {q : Path} (hu : u.sch.paths = [q]) {b : Nat} {c : Option Nat} (hq : q.state = .waitBarrier b c)
include hu hq

theorem State.atBarrier_one : u.atBarrier q.g.tid b = [q] := by
  rw [State.atBarrier, State.pathsOf_one hu]
  simp [hq]

theorem State.completeBarrier_one {t : Team} (ht : u.team? q.g.tid = some t) : u.completeBarrier q.g.tid b = { u with
    clk.fresh := u.clk.fresh + 1
    sch.paths := [q.passed u]
    sch.teams := mset u.sch.teams q.g.tid (t.nextGen b)
    m := (u.teamAcquire q.g.tid).m } := by
  let v : State := { u with sch.teams := mset u.sch.teams q.g.tid (t.nextGen b) }
  have hset : u.setTeam q.g.tid (Team.nextGen b) = v := State.setTeam_of_some ht _
  have hm : (v.teamAcquire q.g.tid).m = (u.teamAcquire q.g.tid).m :=
    State.teamAcquire_m ht (mget?_mset_same ..) rfl rfl rfl rfl
  have hacq : v.teamAcquire q.g.tid = { v with m := (u.teamAcquire q.g.tid).m } := by
    rw [← hm, State.teamAcquire_frame]
  have hdone := State.completed_one (u := { v with m := (u.teamAcquire q.g.tid).m }) (q := q) hu
  rw [State.completeBarrier, State.atBarrier_one hu hq]
  show (let s := ((u.setTeam q.g.tid (Team.nextGen b)).teamAcquire q.g.tid).completed [q.id]
    ({ s with sch.paths := s.sch.paths.map fun (p : Path) => if [q.id].contains p.id then { p with state := PState.runnable } else p } : State)) = _
  rw [hset, hacq, hdone]
  simp [Path.passed, Path.gated, v]

end Barrier

theorem State.barFull_one {u : State} {q : Path} (hu : u.sch.paths = [q]) {b : Nat} (hq : q.state = .waitBarrier b none)
    (hlive : ∀ x ∈ u.liveOf q.g.tid, x.g = q.g ∧ q.mask.getLsbD x.lane = true) (b' : Nat) : u.barFull q.g.tid b' = decide (b' = b) := by
  by_cases hb : b' = b
  · subst hb
    rw [State.barFull, State.atBarrier_one hu hq]
    simp only [List.isEmpty_cons, Bool.not_false, List.all_cons, hq, List.all_nil, Bool.and_true, Bool.true_and, List.any_cons,
      List.any_nil, Bool.or_false, decide_true, List.all_eq_true, Bool.and_eq_true, decide_eq_true_eq]
    exact fun x hx => ⟨(hlive x hx).1.symm, (hlive x hx).2⟩
  · have : u.atBarrier q.g.tid b' = [] := by
      rw [State.atBarrier, State.pathsOf_one hu]
      simp [hq, Ne.symm hb]
    simp [State.barFull, this, hb]

/-- A BAR of the whole team completes. -/
theorem State.settle_bar {u : State} {q : Path} (hu : u.sch.paths = [q]) {b : Nat} (hb : b < 16) (hq : q.state = .waitBarrier b none)
    (hlive : ∀ x ∈ u.liveOf q.g.tid, x.g = q.g ∧ q.mask.getLsbD x.lane = true) {t : Team} (ht : u.team? q.g.tid = some t) :
    u.settle q.g.tid = u.completeBarrier q.g.tid b := by
  have hfind : (List.range 16).find? (fun b' => u.barFull q.g.tid b') = some b := by
    simp only [State.barFull_one hu hq hlive]
    rw [List.find?_eq_some_iff_getElem]
    refine ⟨by simp, b, by simpa using hb, by simp, fun j hj => ?_⟩
    simp
    omega
  have hone : u.settleOne q.g.tid = some (u.completeBarrier q.g.tid b) := by
    unfold State.settleOne
    simp [State.pathsOf_one hu, hq, hfind]
  have hn : (u.completeBarrier q.g.tid b).noneWaits := by
    rw [State.completeBarrier_one hu hq ht]
    intro p hp
    rw [List.mem_singleton.1 hp]
    rfl
  exact State.settle_one hu (State.setClash_one hu) hone (hn.settleOne _) (hn.stuck _) (hn.openTeam _)

/-! ## The arrival at a barrier -/

/-- Neighbours of one key are one run. -/
theorem runsBy_const {α β : Type} [DecidableEq β] {key : α → β} {c : β} {xs : List α} (hne : xs ≠ []) (h : ∀ x ∈ xs, key x = c) :
    runsBy key xs = [xs] := by
  induction xs with
  | nil => exact absurd rfl hne
  | cons x xs ih =>
    cases xs with
    | nil => rfl
    | cons y ys =>
      have hy := ih (List.cons_ne_nil _ _) fun z hz => h z (List.mem_cons_of_mem _ hz)
      have hk : key x = key y := (h x List.mem_cons_self).trans (h y (by simp)).symm
      rw [runsBy, hy]
      simp [hk]

/-- The only path of a machine stands at no barrier of its team. -/
theorem State.atBarrier_none {u : State} {q : Path} (hu : u.sch.paths = [q]) (hq : ∀ b c, q.state ≠ .waitBarrier b c) (b : Nat) :
    u.atBarrier q.g.tid b = [] := by
  rw [State.atBarrier, State.pathsOf_one hu, List.filter_eq_nil_iff]
  intro p hp
  rw [List.mem_singleton.1 hp]
  split
  · next e => exact absurd e (hq _ _)
  · simp

section LoneBars
variable {s : State} {g : IssueGroup} {i : Instr} {p : Path} {tm : Team} (h : Lone s g i p tm)
include h

/-- The lanes of the path, all of which name one barrier and one count, arrive at it together. -/
theorem Lone.arriveBars {on : Iss} (hg : on.g = g) (hon : on.on = s.members g.id) {b : Nat} {c : Option Nat}
    (hbar : ∀ l ∈ s.members g.id, ({ s with clk.cur := none } : State).barOf on l = (b, c)) :
    ({ s with clk.cur := none } : State).arriveBars on =
      State.arriveBar { s with clk.cur := none } g p.g.tid b c (s.members g.id) 64 := by
  let idle : State := { s with clk.cur := none }
  have hkeys : dedup (on.on.map fun l => (l.t.tid, (idle.barOf on l).1)) = [(p.g.tid, b)] := by
    rw [hon]
    refine dedup_eq_singleton (by simpa using h.fills.ne_nil) fun x hx => ?_
    obtain ⟨l, hl, rfl⟩ := List.mem_map.1 hx
    exact Prod.ext (congrArg GRef.tid (h.fills.path l hl).2) (congrArg Prod.fst (hbar l hl))
  have hall : (on.on.filter fun l => l.t.tid = p.g.tid && (idle.barOf on l).1 = b) = s.members g.id := by
    rw [hon]
    refine List.filter_eq_self.2 fun l hl => ?_
    have htid : l.t.tid = p.g.tid := congrArg GRef.tid (h.fills.path l hl).2
    have hb : (idle.barOf on l).1 = b := congrArg Prod.fst (hbar l hl)
    simp [htid, hb]
  have hruns : runsBy (fun l => (idle.barOf on l).2) (s.members g.id) = [s.members g.id] :=
    runsBy_const h.fills.ne_nil fun l hl => congrArg Prod.snd (hbar l hl)
  have hhead : ((s.members g.id).head?.map fun l => ((idle.barOf on l).2, s.members g.id)) = some (c, s.members g.id) := by
    cases hm : s.members g.id with
    | nil => exact absurd hm h.fills.ne_nil
    | cons l ls =>
      have : (idle.barOf on l).2 = c := congrArg Prod.snd (hbar l (hm ▸ List.mem_cons_self))
      simp [this]
  have hclash : idle.barClash p.g.tid b c = false := by
    rw [State.barClash, State.atBarrier_none (u := idle) h.paths fun b c => by simp [h.here]]
    rfl
  have hteam : (idle.team? p.g.tid).isNone = false := by
    rw [show idle.team? p.g.tid = some tm from h.team]
    rfl
  show idle.arriveBars on = _
  unfold State.arriveBars
  rw [hkeys, List.foldl_cons, List.foldl_nil]
  dsimp only
  rw [hall, hruns, List.filterMap_cons, hhead, List.filterMap_nil, hg]
  unfold State.arriveRuns
  rw [List.foldl_cons, List.foldl_nil, hteam, hclash]
  rfl

/-- The path at the header of its clause, Runnable. -/
def Path.released (p : Path) (s : State) (g : IssueGroup) (st : PState) : Path := (p.arrived g st 0).passed s

/-- What a complete barrier leads to, `teams` being the teams as they then stand. -/
def State.released (s : State) (g : IssueGroup) (p : Path) (st : PState) (teams : Map Nat Team) : State :=
  { s with
    clk.cur := none
    clk.fresh := s.clk.fresh + 1
    sch.paths := [p.released s g st]
    sch.igs := s.sch.igs.filter fun x => x.id ≠ g.id
    sch.teams := teams
    m := (s.teamAcquire p.g.tid).m }

/-- R209: BAR of the only path. -/
theorem Lone.bar_completes {b : Nat} (hb : b < 16) :
    ((State.arriveBar { s with clk.cur := none } g p.g.tid b none (s.members g.id) 64).sweepIg g.id).settleTeams (s.members g.id) =
      s.released g p (.waitBarrier b none) (mset s.sch.teams p.g.tid (tm.nextGen b)) := by
  have hne : (s.members g.id).isEmpty = false := by simpa using h.fills.ne_nil
  have harr : State.arriveBar { s with clk.cur := none } g p.g.tid b none (s.members g.id) 64 =
      State.arrive { s with clk.cur := none } g (s.members g.id) (.waitBarrier b none) 0 := by
    rw [State.arriveBar, hne]
    rfl
  rw [harr, h.arrives (by simp) 0, h.fills.settleTeams]
  let u := s.waits g p (.waitBarrier b none) 0
  let q := p.arrived g (.waitBarrier b none) 0
  have hset : u.settle q.g.tid = u.completeBarrier q.g.tid b := State.settle_bar (q := q) rfl hb rfl h.only h.team
  refine hset.trans ((State.completeBarrier_one (u := u) (q := q) rfl rfl h.team).trans ?_)
  have hm : (u.teamAcquire q.g.tid).m = (s.teamAcquire p.g.tid).m := State.teamAcquire_m h.team h.team rfl rfl rfl rfl
  rw [hm]
  rfl

/-- R210: BARP of the only path, whose lanes are the count. -/
theorem Lone.barp_completes {b : Nat} :
    ((State.arriveBar { s with clk.cur := none } g p.g.tid b (some (s.members g.id).length) (s.members g.id) 64).sweepIg
        g.id).settleTeams (s.members g.id) =
      s.released g p (.waitBarrier b (some (s.members g.id).length)) (mset (mset s.sch.teams p.g.tid (tm.counts b (s.members g.id).length))
        p.g.tid (tm.nextGen b)) := by
  let n := (s.members g.id).length
  let q := p.arrived g (.waitBarrier b (some n)) 0
  let idle : State := { s with clk.cur := none }
  let u : State := { idle with sch.teams := mset s.sch.teams p.g.tid (tm.counts b n), sch.paths := [q] }
  have hne : (s.members g.id).isEmpty = false := by simpa using h.fills.ne_nil
  have hhere : idle.atBarrier p.g.tid b = [] := State.atBarrier_none (u := idle) h.paths (fun b c => by simp [h.here]) b
  have hset : idle.setTeam p.g.tid (Team.counts b n) = { idle with sch.teams := mset s.sch.teams p.g.tid (tm.counts b n) } :=
    State.setTeam_of_some (s := idle) h.team _
  have harr : State.arriveBar idle g p.g.tid b (some n) (s.members g.id) 64 = u.completeBarrier q.g.tid b := by
    rw [State.arriveBar, hne]
    simp only [Bool.false_eq_true, if_false]
    rw [hhere]
    show State.arriveBar (if n ≤ 0 + ((s.members g.id).take (n - 0)).length then
      (((idle.setTeam p.g.tid (Team.counts b n)).arrive g ((s.members g.id).take (n - 0)) (.waitBarrier b (some n)) 0).completeBarrier
        p.g.tid b) else _) g p.g.tid b (some n) ((s.members g.id).drop (n - 0)) 63 = _
    rw [Nat.sub_zero, List.take_length, List.drop_length, Nat.zero_add, if_pos (Nat.le_refl n), hset,
      State.arrive_one (u := { idle with sch.teams := mset s.sch.teams p.g.tid (tm.counts b n) }) h.paths h.fills]
    rfl
  have hu : u.team? q.g.tid = some (tm.counts b n) := mget?_mset_same ..
  have hm : (u.teamAcquire q.g.tid).m = (s.teamAcquire p.g.tid).m := State.teamAcquire_m h.team hu rfl rfl rfl rfl
  rw [harr, State.completeBarrier_one (u := u) (q := q) rfl rfl hu, Team.nextGen_counts, hm, State.sweepIg_one rfl (by simp [Path.passed]),
    h.fills.settleTeams]
  have hn : (s.released g p (.waitBarrier b (some n)) (mset (mset s.sch.teams p.g.tid (tm.counts b n)) p.g.tid (tm.nextGen b))).noneWaits := by
    intro r hr
    rw [List.mem_singleton.1 hr]
    rfl
  exact hn.settle _

end LoneBars

/-- What the release of the path leaves as it was. -/
theorem released_result {s : State} {g : IssueGroup} {p : Path} {tm : Team} {st : PState} {teams : Map Nat Team} {b : Nat}
    (hown : mget? teams p.g.tid = some (tm.nextGen b)) (hother : ∀ k, k ≠ p.g.tid → mget? teams k = s.team? k) :
    ∃ q, (s.released g p st teams).sch.paths = [q] ∧ q.state = .runnable ∧ q.pc = g.hdr ∧ q.gateId = some s.clk.fresh ∧
      q.since = s.clk.cycle ∧ q.id = p.id ∧ q.g = p.g ∧ q.mask = p.mask ∧ q.scopes = p.scopes ∧ q.ctxLbl = p.ctxLbl ∧
      (s.released g p st teams).sch.igs = s.sch.igs.filter (fun x => x.id ≠ g.id) ∧
      (s.released g p st teams).team? p.g.tid = some { tm with bars := setAt tm.bars b fun x => { gen := x.gen + 1, count := none } } ∧
      (∀ k, k ≠ p.g.tid → (s.released g p st teams).team? k = s.team? k) ∧ (s.released g p st teams).r = s.r ∧
      (s.released g p st teams).m = (s.teamAcquire p.g.tid).m ∧ (s.released g p st teams).e = s.e ∧
      (s.released g p st teams).gr = s.gr ∧ (s.released g p st teams).h = s.h ∧ (s.released g p st teams).y = s.y ∧
      (s.released g p st teams).sch.pend = s.sch.pend :=
  ⟨p.released s g st, rfl, rfl, rfl, rfl, rfl, rfl, rfl, rfl, rfl, rfl, rfl, hown, hother, rfl, rfl, rfl, rfl, rfl, rfl, rfl⟩

section LoneBar
variable {s : State} {g : IssueGroup} {i : Instr} {p : Path} {tm : Team} (hl : Lone s g i p tm) (h : s.ready g i = true)
  (hc : g.setAt = none) (he : exec i s = runPoint i barPoint s) {b : Nat} (hb : b < 16)
  (hbar : ∀ l ∈ s.members g.id, s.rd32 l.t (fieldsOf i).lit (fieldsOf i).a = b)
include hl h hc he hb hbar

theorem bar_releases (hop : opNo i ≠ 7) :
    exec i s = .next (s.released g p (.waitBarrier b none) (mset s.sch.teams p.g.tid (tm.nextGen b))) := by
  rw [bar_reaches h hc he fun l hm => ⟨hbar l hm ▸ hb, fun e => absurd e hop⟩, hl.alive,
    hl.arriveBars (on := ⟨g, i.cls, opNo i, fieldsOf i, s.members g.id, []⟩) rfl rfl (b := b) (c := none) fun l hm =>
      Prod.ext (hbar l hm) (if_neg hop), hl.bar_completes hb]

theorem barp_releases (hop : opNo i = 7) (hlen : (s.members g.id).length ≤ 64)
    (hn : ∀ l ∈ s.members g.id, s.rd32 l.t (fieldsOf i).lit (fieldsOf i).b = (s.members g.id).length) :
    exec i s = .next (s.released g p (.waitBarrier b (some (s.members g.id).length))
      (mset (mset s.sch.teams p.g.tid (tm.counts b (s.members g.id).length)) p.g.tid (tm.nextGen b))) := by
  have hpos : (s.members g.id).length ≠ 0 := by simpa using hl.fills.ne_nil
  rw [bar_reaches h hc he fun l hm => ⟨hbar l hm ▸ hb, fun _ => by rw [hn l hm]; omega⟩, hl.alive,
    hl.arriveBars (on := ⟨g, i.cls, opNo i, fieldsOf i, s.members g.id, []⟩) rfl rfl (b := b) (c := some (s.members g.id).length) fun l hm =>
      Prod.ext (hbar l hm) ((if_pos hop).trans (congrArg some (hn l hm))), hl.barp_completes]

end LoneBar

end Sys2Proof.Machine

namespace Sys2Proof.Machine

open Sys2Proof

/-! # GIVE and CLAIM (O15) -/

/-! ## The effect of a word on a state that is not its own -/

/-- A word issues with the effect `b`, from whose paths at the entry of the word its effect goes on. -/
theorem does_of_same {s b u : State} {g : IssueGroup} {i : Instr} (h : s.ready g i = true)
    (he : exec i s = .next (u.advance g (fieldsOf i).len (fieldsOf i).stall))
    (hsame : ({ u with r.thr := [], sch.paths := [], sch.busy := [] } : State) = { b with r.thr := [], sch.paths := [], sch.busy := [] })
    (hthr : ∀ x, (u.thr x).bare = (b.thr x).bare) (hpaths : u.sch.paths = b.sch.paths.map fun p => p.entry b g i)
    (higs : b.sch.igs = s.sch.igs) : Does s g i b := by
  have hacted : Acted b u g i := by
    refine ⟨congrArg (·.clk) hsame, congrArg (·.m) hsame, congrArg (·.e) hsame, congrArg (·.gr) hsame, congrArg (·.h) hsame,
      congrArg (·.y) hsame, ?_, fun x k _ => ?_, fun x => by rw [hthr x], ?_, hpaths.trans (b.entered_entry g i).symm,
      congrArg (·.sch.igs) hsame⟩
    · have hr := congrArg (fun z : State => ({ z.r with thr := u.r.thr, lbl := u.r.lbl } : Regs)) hsame
      exact hr
    · unfold State.tileLbl
      rw [show u.r.lbl = b.r.lbl from congrArg (·.r.lbl) hsame]
    · have hs := congrArg (fun z : State => ({ z.sch with igs := [], pend := [] } : Sched)) hsame
      exact hs
  have hgb : b.ig? g.id = some g := by
    have := ready_ig h
    unfold State.ig? at this ⊢
    rwa [higs]
  obtain ⟨hi, hp, hr⟩ := hacted.issued hgb
  exact ⟨_, he, hi, hp.trans (congrArg (·.sch.pend) hsame), fun x => by rw [State.thr_congr hr, hthr x]⟩

/-! ## What a GIVE or CLAIM finds -/

theorem Path.entry_charged (p : Path) (s : State) (g : IssueGroup) (i : Instr) : (p.entry s g i).charged = p.charged := by
  unfold Path.entry; split <;> rfl

theorem Path.entry_pc (p : Path) (s : State) (g : IssueGroup) (i : Instr) : (p.entry s g i).pc = p.pc := by
  unfold Path.entry; split <;> rfl

theorem Path.entry_gateId (p : Path) (s : State) (g : IssueGroup) (i : Instr) : (p.entry s g i).gateId = p.gateId := by
  unfold Path.entry; split <;> rfl

/-- No CLAIM is parked, so none goes on. -/
theorem State.serveClaims_none {u : State} (h : ∀ p ∈ u.sch.paths, p.state ≠ .parked .rows) (tid n : Nat) : u.serveClaims tid n = u := by
  cases n with
  | zero => rfl
  | succ n =>
    have : (u.pathsOf tid).filter (fun p => p.state = .parked .rows) = [] := by
      rw [List.filter_eq_nil_iff]
      intro p hp
      simpa using h p (List.mem_of_mem_filter hp)
    rw [State.serveClaims, this]
    rfl

theorem State.setPaths_eq (f : Path → Path) (hf : ∀ p, (f p).id = p.id ∧ f (f p) = f p) (pids : List Nat) (s : State) :
    pids.foldl (fun s pid => s.setPath pid f) s = { s with sch.paths := s.sch.paths.map fun p => if p.id ∈ pids then f p else p } := by
  induction pids generalizing s with
  | nil => simp
  | cons n pids ih =>
    rw [List.foldl_cons, ih]
    simp only [State.setPath, List.map_map]
    congr 2
    refine List.map_congr_left fun p _ => ?_
    by_cases hn : p.id = n
    · by_cases hp : p.id ∈ pids
      · subst hn
        simp [hp, hf]
      · subst hn
        simp [hp, hf]
    · simp [hn]

theorem State.markCharged_eq (s : State) (ls : List Lane) (c : Nat) : s.markCharged ls c =
    { s with sch.paths := s.sch.paths.map fun p => if p.id ∈ ls.map (·.pid) then { p with charged := c } else p } := by
  rw [State.markCharged, State.setPaths_eq (fun p => { p with charged := c }) fun p => ⟨rfl, rfl⟩]
  simp only [mem_dedup]

section Rows
variable {s : State} {g : IssueGroup} {i : Instr}

/-- A state whose paths are those of the entry of the word. -/
structure AtEntry (s u : State) (g : IssueGroup) (i : Instr) : Prop where
  sees : Sees s u
  paths : u.sch.paths = s.sch.paths.map fun p => p.entry s g i
  igs : u.sch.igs = s.sch.igs

theorem atEntry_entered : AtEntry s (s.entered g i) g i := ⟨s.sees_entered g i, s.entered_entry g i, rfl⟩

theorem atEntry_counted : AtEntry s (s.counted g i) g i := ⟨s.sees_counted g i, s.counted_paths g i, (s.acted_counted g i).igs⟩

variable {u : State} (hu : AtEntry s u g i)
include hu

/-- A lane of the path at the entry is a lane of the path, but for its label. -/
theorem AtEntry.pathLanes {p : Path} {l : Lane} (hl : l ∈ u.pathLanes (p.entry s g i)) : ∃ l' ∈ s.pathLanes p, l'.t = l.t := by
  rw [State.pathLanes_congr hu.sees.teams hu.sees.groups] at hl
  obtain ⟨k, hk, rfl⟩ := List.mem_map.1 hl
  rw [Path.entry_mask] at hk
  exact ⟨_, List.mem_map_of_mem hk, by simp⟩

theorem AtEntry.members {l : Lane} (hl : l ∈ u.members g.id) :
    ∃ p ∈ s.sch.paths, p.state = .inClause g.id ∧ p.id = l.pid ∧ ∃ l' ∈ s.members g.id, l'.t = l.t := by
  obtain ⟨q, hq, hin, hlq⟩ := State.mem_members.1 hl
  rw [hu.paths] at hq
  obtain ⟨p, hp, rfl⟩ := List.mem_map.1 hq
  rw [Path.entry_state] at hin
  obtain ⟨l', hl', ht⟩ := hu.pathLanes hlq
  have hid := (State.mem_pathLanes hlq).2.2.1
  rw [Path.entry_id] at hid
  exact ⟨p, hp, hin, hid.symm, l', State.mem_members.2 ⟨p, hp, hin, hl'⟩, ht⟩

theorem AtEntry.rowsRest (is : Iss) (G : GRef) : u.rowsRest is G = (s.rowsRest is G).map fun p => p.entry s g i := by
  have hig : ∀ p, u.rowsIg is (p.entry s g i) = s.rowsIg is p := fun p => by
    unfold State.rowsIg
    rw [hu.igs, Path.entry_state]
  unfold State.rowsRest
  rw [hu.paths, List.filter_map]
  congr 1
  refine List.filter_congr fun p _ => ?_
  simp only [Function.comp_apply, hig, Path.entry_g, Path.opening, Path.entry_gateId, Path.entry_state, Path.entry_pc]

theorem AtEntry.rowsRest_ids (is : Iss) (G : GRef) : (u.rowsRest is G).map (·.id) = (s.rowsRest is G).map (·.id) := by
  rw [hu.rowsRest, List.map_map]
  exact List.map_congr_left fun p _ => Path.entry_id ..

/-- The instruction has not acted for a lane none of whose path is charged. -/
theorem AtEntry.rowsActed_false (hc : ∀ p ∈ s.sch.paths, p.charged = 0) (l : Lane) : u.rowsActed l = false := by
  unfold State.rowsActed
  cases hp : u.path? l.pid with
  | none => rfl
  | some q =>
    have hq := (State.path?_mem hp).1
    rw [hu.paths] at hq
    obtain ⟨p, hpm, rfl⟩ := List.mem_map.1 hq
    simp [Path.entry_charged, hc p hpm]

end Rows

/-! ## The issue of a group in whose name nothing has acted -/

theorem check_pred {c o : Nat} {f : Fm} (h : f.check c o = none) (hp : (spec c o f).predOk = false) : f.pred = 7 ∧ f.neg = false := by
  unfold Fm.check at h
  dsimp only at h
  split at h
  · cases h
  · split at h
    · cases h
    · next hres =>
      simp only [Bool.or_eq_true, not_or, hp, Bool.not_false, Bool.true_and, bne_iff_ne, ne_eq, not_not, Bool.not_eq_true] at hres
      exact hres.1.2

theorem ready_pred {s : State} {g : IssueGroup} {i : Instr} (h : s.ready g i = true) {c o : Nat} {b : Body}
    (hv : i.view = some (c, o, b)) (hb : b.check c o = b.fm.check c o) (hp : (spec c o b.fm).predOk = false) :
    (fieldsOf i).pred = 7 ∧ (fieldsOf i).neg = false := by
  have hc := ready_check h
  unfold Instr.check at hc
  rw [hv] at hc
  rw [show fieldsOf i = b.fm by simp [fieldsOf, hv]]
  exact check_pred (hb ▸ hc) hp

section Acting
variable {s : State} {g : IssueGroup} {i : Instr}

theorem State.mem_acting {l : Lane} (h : l ∈ s.acting g i) : l ∈ (s.entered g i).members g.id :=
  (List.mem_filter.1 (List.mem_filter.1 h).1).1

/-- Without an instruction predicate all members of resident teams act. -/
theorem State.acting_of_pred (hp : (fieldsOf i).pred = 7 ∧ (fieldsOf i).neg = false) :
    s.acting g i = (s.entered g i).alive ((s.entered g i).members g.id) := by
  unfold State.acting
  dsimp only
  rw [List.filter_eq_self.2 fun l _ => by simp [State.predOn, hp.1, hp.2, State.mGet]]

end Acting

/-- What the statement asks of a GIVE or CLAIM that acts: one group, whose lanes all name `n` rows, and none charged or parked. -/
structure RowsNamed (s : State) (g : IssueGroup) (i : Instr) (G : GRef) (n : Nat) : Prop where
  has : s.members g.id ≠ []
  team : (s.team? G.tid).isSome
  own : ∀ l ∈ s.members g.id, l.g = G ∧ s.rd32 l.t (fieldsOf i).lit (fieldsOf i).b = n
  rest : ∀ p ∈ s.rowsRest (s.iss g i) G, ∀ l ∈ s.pathLanes p, s.rd32 l.t (fieldsOf i).lit (fieldsOf i).b = n
  named : s.named
  fresh : ∀ p ∈ s.sch.paths, p.charged = 0 ∧ p.state ≠ .parked .rows
  pred : (fieldsOf i).pred = 7 ∧ (fieldsOf i).neg = false

section Named
variable {s : State} {g : IssueGroup} {i : Instr} {G : GRef} {n : Nat} (h : RowsNamed s g i G n)
include h

theorem RowsNamed.acting {l : Lane} (hl : l ∈ s.acting g i) : l.g = G ∧ s.rd32 l.t (fieldsOf i).lit (fieldsOf i).b = n := by
  obtain ⟨_, _, _, _, l', hl', ht⟩ := (atEntry_entered (s := s)).members (State.mem_acting hl)
  obtain ⟨hg, hn⟩ := h.own l' hl'
  rw [ht] at hn
  exact ⟨(congrArg TRef.g ht).symm.trans hg, hn⟩

theorem RowsNamed.acting_ne : s.acting g i ≠ [] := by
  obtain ⟨l, hl⟩ := List.exists_mem_of_ne_nil _ h.has
  obtain ⟨p, hp, hin, hlp⟩ := State.mem_members.1 hl
  obtain ⟨k, hk, rfl⟩ := List.mem_map.1 hlp
  have hmem : p.entry s g i ∈ (s.entered g i).sch.paths := by
    rw [State.entered_entry]
    exact List.mem_map_of_mem hp
  obtain ⟨l', hl'⟩ : ∃ l', l' ∈ (s.entered g i).pathLanes (p.entry s g i) :=
    ⟨_, List.mem_map_of_mem (by rw [Path.entry_mask]; exact hk)⟩
  have hm : l' ∈ (s.entered g i).members g.id :=
    State.mem_members.2 ⟨_, hmem, by rw [Path.entry_state]; exact hin, hl'⟩
  have hg : l'.g = G := by
    obtain ⟨_, _, _, _, l'', hl'', ht⟩ := (atEntry_entered (s := s)).members hm
    exact (congrArg TRef.g ht).symm.trans (h.own l'' hl'').1
  rw [State.acting_of_pred h.pred]
  refine List.ne_nil_of_mem (List.mem_filter.2 ⟨hm, ?_⟩)
  rw [show l'.t.tid = G.tid from congrArg GRef.tid hg]
  exact h.team

variable {u : State} (hu : AtEntry s u g i)
include hu

theorem RowsNamed.rowsGroups : u.rowsGroups (s.iss g i) = [(G, n)] := by
  have hact : ∀ l, u.rowsActed l = false := hu.rowsActed_false fun p hp => (h.fresh p hp).1
  have hfilter : (s.acting g i).filter (fun l => !u.rowsActed l) = s.acting g i := List.filter_eq_self.2 fun l _ => by simp [hact]
  have hkeys : dedup ((s.acting g i).map (·.g)) = [G] := dedup_eq_singleton (by simpa using h.acting_ne) fun x hx => by
    obtain ⟨l, hl, rfl⟩ := List.mem_map.1 hx
    exact (h.acting hl).1
  have hfind : ((s.acting g i).find? fun l => l.g = G).map (fun l => (G, u.rowsOf (s.iss g i) l)) = some (G, n) := by
    cases hf : (s.acting g i).find? fun l => l.g = G with
    | none =>
      obtain ⟨l, hl⟩ := List.exists_mem_of_ne_nil _ h.acting_ne
      exact absurd (h.acting hl).1 (by simpa using List.find?_eq_none.1 hf l hl)
    | some l =>
      have hn : u.rowsOf (s.iss g i) l = n := (hu.sees.rd32 ..).trans (h.acting (List.mem_of_find?_eq_some hf)).2
      rw [Option.map_some, hn]
  unfold State.rowsGroups
  show (dedup (((s.acting g i).filter fun l => !u.rowsActed l).map (·.g))).filterMap (fun x =>
    ((s.acting g i).find? fun l => l.g = x).map fun l => (x, u.rowsOf (s.iss g i) l)) = _
  rw [hfilter, hkeys, List.filterMap_cons, hfind, List.filterMap_nil]

/-- Where n and the group's rows are in range, no lane faults. -/
theorem RowsNamed.rowsFlt {gr : Group} (hg : s.group? G = some gr) (hn : 1 ≤ n) (hn' : n ≤ 15)
    (hrows : if opNo i = 14 then gr.rows + n ≤ 16 else n + 1 ≤ gr.rows) {l : Lane} (hl : l ∈ s.acting g i) :
    u.rowsFlt { s.iss g i with on := s.entrants g i } l = none := by
  obtain ⟨hlg, hln⟩ := h.acting hl
  have hof : u.rowsOf { s.iss g i with on := s.entrants g i } l = n := (hu.sees.rd32 ..).trans hln
  have hmembers : ∀ q ∈ (s.entered g i).members g.id, u.rowsOf { s.iss g i with on := s.entrants g i } q = n := fun q hq => by
    obtain ⟨_, _, _, _, l', hl', ht⟩ := (atEntry_entered (s := s)).members hq
    have := (h.own l' hl').2
    rw [ht] at this
    exact (hu.sees.rd32 ..).trans this
  have hlanes : (u.rowsLanes { s.iss g i with on := s.entrants g i } G).any
      (fun q => u.rowsOf { s.iss g i with on := s.entrants g i } q ≠ n) = false := by
    rw [List.any_eq_false]
    intro q hq
    rcases List.mem_append.1 hq with hq | hq
    · simp [hmembers q (List.mem_filter.1 (List.mem_filter.1 hq).1).1]
    · obtain ⟨r, hr, hqr⟩ := List.mem_flatMap.1 hq
      rw [hu.rowsRest] at hr
      obtain ⟨p, hp, rfl⟩ := List.mem_map.1 hr
      obtain ⟨l', hl', ht⟩ := hu.pathLanes hqr
      have := h.rest p hp l' hl'
      rw [ht] at this
      have hq : u.rowsOf { s.iss g i with on := s.entrants g i } q = n := (hu.sees.rd32 ..).trans this
      simp [hq]
  unfold State.rowsFlt
  rw [hlg, hu.sees.group?, hg, hof, hu.rowsActed_false fun p hp => (h.fresh p hp).1]
  dsimp only
  rw [if_neg (by simp), if_neg (by omega), hlanes, if_neg (by simp)]
  refine if_neg ?_
  show ¬ (if opNo i = 14 then 16 < gr.rows + n else gr.rows < n + 1)
  split at hrows
  · next hop => simpa [hop] using hrows
  · next hop => simpa [hop] using hrows

end Named

end Sys2Proof.Machine

namespace Sys2Proof.Machine

open Sys2Proof

/-! ## GIVE and CLAIM act -/

/-- What GIVE or CLAIM moves before its issue counts as done. -/
def State.rowsMoved (s : State) (i : Iss) : State :=
  ((s.rowsGroups i).foldl (fun s' x =>
    let rest := (s.rowsRest i x.1).map (·.id)
    let s' := if i.op = 14 then s'.claimRows x.1 x.2 else s'.giveRows x.1 x.2
    { s' with sch.paths := s'.sch.paths.map fun (q : Path) => if rest.contains q.id then { q with charged := 3 } else q }) s).markCharged i.on 0

/-- Where no CLAIM is parked, none goes on behind a GIVE or CLAIM. -/
theorem State.rowsAct_eq (s : State) (i : Iss) (h : ∀ p ∈ (s.rowsMoved i).sch.paths, p.state ≠ .parked .rows) :
    s.rowsAct i = (s.rowsMoved i).doneNow i := by
  have h' : ∀ p ∈ ((s.rowsMoved i).doneNow i).sch.paths, p.state ≠ .parked .rows := by
    unfold State.doneNow
    rwa [State.tokDown_paths]
  exact foldl_same _ _ _ fun tid _ => State.serveClaims_none h' tid 64

theorem State.thr_of_regs {s t : State} (h : t.r.thr = s.r.thr) (x : TRef) : t.thr x = s.thr x := by
  unfold State.thr
  rw [h]

section Act
variable {s b : State} {g : IssueGroup} {i : Instr} {c : Nat}

theorem Path.entry_congr (hb : b.clk = s.clk) (hl : ∀ G, b.tileLbl G (.m (fieldsOf i).pred) = s.tileLbl G (.m (fieldsOf i).pred)) (p : Path) :
    p.entry b g i = p.entry s g i := by
  unfold Path.entry
  rw [hb, hl]

/-- A path of the given names is charged. -/
def Path.chargeIn (p : Path) (pids : List Nat) (n : Nat) : Path := if p.id ∈ pids then { p with charged := n } else p

/-- The state in which the paths of the given names are charged. -/
def State.chargePaths (s : State) (pids : List Nat) (n : Nat) : State := { s with sch.paths := s.sch.paths.map fun p => p.chargeIn pids n }

theorem State.markCharged_chargePaths (s : State) (ls : List Lane) (n : Nat) : s.markCharged ls n = s.chargePaths (ls.map (·.pid)) n :=
  s.markCharged_eq ls n

theorem State.chargePaths_contains (s : State) (pids : List Nat) (n : Nat) :
    ({ s with sch.paths := s.sch.paths.map fun q => if pids.contains q.id then { q with charged := n } else q } : State) =
      s.chargePaths pids n := by
  unfold State.chargePaths Path.chargeIn
  simp only [List.contains_eq_mem, decide_eq_true_eq]

theorem Path.chargeIn_state (p : Path) (pids : List Nat) (n : Nat) : (p.chargeIn pids n).state = p.state := by
  unfold Path.chargeIn; split <;> rfl

theorem Path.chargeIn_entry (p : Path) (pids : List Nat) (n : Nat) : (p.entry s g i).chargeIn pids n = (p.chargeIn pids n).entry s g i := by
  have hid := p.entry_id s g i
  unfold Path.chargeIn
  rw [hid]
  split
  · unfold Path.entry
    dsimp only
    split <;> rfl
  · rfl

/-- A GIVE or CLAIM of a complete group that faults in no lane and parks none has the effect `b`, to whose paths its entry leads. -/
theorem rows_does (h : s.ready g i = true) (he : exec i s = runPoint i rowsPoint s) (hc : g.setAt = some c)
    (hflt : ∀ l ∈ s.acting g i, (s.entered g i).rowsFlt (s.iss0 g i) l = none)
    (hstop : (s.entered g i).rowsStop (s.iss g i) = (s.entered g i, []))
    (hsame : ({ (s.counted g i).rowsMoved (s.iss g i) with r.thr := [], sch.paths := [], sch.busy := [] } : State) =
      { b with r.thr := [], sch.paths := [], sch.busy := [] })
    (hthr : ((s.counted g i).rowsMoved (s.iss g i)).r.thr = (s.counted g i).r.thr) (hbthr : b.r.thr = s.r.thr)
    (hpaths : ((s.counted g i).rowsMoved (s.iss g i)).sch.paths = b.sch.paths.map fun p => p.entry b g i)
    (hpark : ∀ p ∈ b.sch.paths, p.state ≠ .parked .rows) (higs : b.sch.igs = s.sch.igs) : Does s g i b := by
  rw [runPoint_of_set h hc] at he
  have htake : exec i s = .next (((s.counted g i).rowsAct (s.iss g i)).advance g (fieldsOf i).len (fieldsOf i).stall) :=
    takes_acts (u := s.entered g i) h he (fun _ _ _ => rfl) hflt rfl (s.acting_alive g i) hstop
  have hst : ∀ p ∈ ((s.counted g i).rowsMoved (s.iss g i)).sch.paths, p.state ≠ .parked .rows := by
    rw [hpaths]
    intro p hp
    obtain ⟨q, hq, rfl⟩ := List.mem_map.1 hp
    rw [Path.entry_state]
    exact hpark q hq
  rw [State.rowsAct_eq _ _ hst] at htake
  have hd : Counts ((s.counted g i).rowsMoved (s.iss g i)) (((s.counted g i).rowsMoved (s.iss g i)).doneNow (s.iss g i)) :=
    State.counts_tokDown ..
  have hbare : ∀ x, (((s.counted g i).rowsMoved (s.iss g i)).thr x).bare = (b.thr x).bare := fun x => by
    rw [State.thr_of_regs hthr, (s.sees_counted g i).thr, State.thr_of_regs hbthr]
  generalize ((s.counted g i).rowsMoved (s.iss g i)).doneNow (s.iss g i) = w at hd htake
  generalize (s.counted g i).rowsMoved (s.iss g i) = v at *
  obtain ⟨hw, ht⟩ := hd
  refine does_of_same h htake ?_ (fun x => (ht x).trans (hbare x)) ?_ higs
  · rw [hw]
    exact hsame
  · rw [hw]
    exact hpaths

/-! ## The group's other quadrant (R310) -/

/-- A lane that acts stands in a path of the group, which its entry keeps. -/
theorem State.acting_path (hn : s.named) {u : State} (hu : AtEntry s u g i) {l : Lane} (hl : l ∈ s.acting g i) :
    ∃ p ∈ s.sch.paths, p.state = .inClause g.id ∧ p.id = l.pid ∧ u.path? l.pid = some (p.entry s g i) := by
  obtain ⟨p, hp, hin, hid, _⟩ := (atEntry_entered (s := s)).members (State.mem_acting hl)
  refine ⟨p, hp, hin, hid, ?_⟩
  have hnd : (u.sch.paths.map (·.id)).Nodup := by
    rw [hu.paths, List.map_map, show ((·.id) ∘ fun p : Path => p.entry s g i) = (·.id) from funext fun p => Path.entry_id ..]
    exact hn.1
  have hm : p.entry s g i ∈ u.sch.paths := by
    rw [hu.paths]
    exact List.mem_map_of_mem hp
  rw [← hid, ← Path.entry_id p s g i]
  exact State.path?_of_nodup hnd hm

variable (hn : s.named) (h3 : ∀ p ∈ s.sch.paths, p.state = .inClause g.id → p.charged = 3) {u : State} (hu : AtEntry s u g i)
include hn h3 hu

theorem AtEntry.rowsActed_true {l : Lane} (hl : l ∈ s.acting g i) : u.rowsActed l = true := by
  obtain ⟨p, hp, hin, _, hpath⟩ := State.acting_path hn hu hl
  unfold State.rowsActed
  rw [hpath]
  simp [Path.entry_charged, h3 p hp hin]

theorem AtEntry.rowsGroups_nil : u.rowsGroups (s.iss g i) = [] := by
  have hnone : (s.iss g i).on.filter (fun l => !u.rowsActed l) = [] :=
    List.filter_eq_nil_iff.2 fun l hl => by simp [hu.rowsActed_true hn h3 hl]
  unfold State.rowsGroups
  rw [hnone]
  rfl

end Act

/-- A CLAIM in whose name no group must park parks no lane. -/
theorem State.rowsStop_none {s : State} {i : Iss} (h : i.op = 14 → (s.rowsGroups i).filter s.claimParks = []) : s.rowsStop i = (s, []) := by
  unfold State.rowsStop
  split
  · rfl
  · next hop =>
    rw [h (not_not.1 hop)]
    simp only [List.map_nil, List.flatMap_nil, List.filterMap_nil, List.contains_nil, Bool.false_eq_true, if_false, List.map_id',
      List.filter_false]
    rfl

/-- R310: the issue group of a group's other quadrant goes on, for the word has acted for it. -/
theorem rows_go_on {s : State} {g : IssueGroup} {i : Instr} {c : Nat} (h : s.ready g i = true)
    (he : exec i s = runPoint i rowsPoint s) (hc : g.setAt = some c)
    (h3 : ∀ p ∈ s.sch.paths, (p.state = .inClause g.id → p.charged = 3) ∧ p.state ≠ .parked .rows) (hn : s.named) :
    Does s g i (s.chargePaths ((s.acting g i).map (·.pid)) 0) := by
  have hin : ∀ p ∈ s.sch.paths, p.state = .inClause g.id → p.charged = 3 := fun p hp => (h3 p hp).1
  have hmoved : (s.counted g i).rowsMoved (s.iss g i) = (s.counted g i).chargePaths ((s.acting g i).map (·.pid)) 0 := by
    unfold State.rowsMoved
    rw [atEntry_counted.rowsGroups_nil hn hin]
    exact State.markCharged_chargePaths ..
  refine rows_does h he hc (fun l hl => ?_) (State.rowsStop_none fun _ => ?_) ?_ ?_ rfl ?_ (fun p hp => ?_) rfl
  · unfold State.rowsFlt
    rw [atEntry_entered.rowsActed_true hn hin hl]
    rfl
  · rw [atEntry_entered.rowsGroups_nil hn hin]
    rfl
  · rw [hmoved]
    exact (s.over_counted g i).same
  · rw [hmoved]
    rfl
  · rw [hmoved]
    dsimp only [State.chargePaths]
    rw [s.counted_paths g i, List.map_map, List.map_map]
    exact List.map_congr_left fun p _ => p.chargeIn_entry _ 0
  · obtain ⟨q, hq, rfl⟩ := List.mem_map.1 hp
    exact (congrArg (· ≠ PState.parked .rows) (q.chargeIn_state _ 0)).mpr (h3 q hq).2

end Sys2Proof.Machine

namespace Sys2Proof.Machine

open Sys2Proof

/-! ## The rows that move (R22) -/

theorem mget?_filter_key {κ α : Type} [DecidableEq κ] (q : κ → Bool) (m : Map κ α) (k : κ) :
    mget? (m.filter fun kv => q kv.1) k = if q k then mget? m k else none := by
  induction m with
  | nil => simp [mget?]
  | cons kv m ih =>
    obtain ⟨k', v⟩ := kv
    by_cases hk : k' = k
    · subst hk
      by_cases hq : q k' <;> simp [hq, mget?, ih]
    · by_cases hq : q k' <;> simp [hq, mget?, ih, hk]

theorem mget_filter_key {κ α : Type} [DecidableEq κ] (d : α) (q : κ → Bool) (m : Map κ α) (k : κ) :
    mget d (m.filter fun kv => q kv.1) k = if q k then mget d m k else d := by
  unfold mget
  rw [mget?_filter_key]
  split <;> rfl

/-- R22: GIVE takes rows of a group to the pool, and CLAIM the other way. -/
def State.moveRows (i : Instr) (s : State) (G : GRef) (n : Nat) : State := if opNo i = 14 then s.claimRows G n else s.giveRows G n

/-- The state with the groups, pools, vector registers and labels of another. -/
def State.withRows (s b : State) : State :=
  { s with sch.teams := b.sch.teams, sch.groups := b.sch.groups, r.v := b.r.v, r.lbl := b.r.lbl }

theorem State.setGroup_of_some {s : State} {G : GRef} {gr : Group} (h : s.group? G = some gr) (f : Group → Group) :
    s.setGroup G f = { s with sch.groups := mset s.sch.groups G (f gr) } := by
  unfold State.setGroup
  rw [h]

section Moved
variable {s : State} {G : GRef} {tm : Team} {gr : Group} (ht : s.team? G.tid = some tm) (hg : s.group? G = some gr) (n : Nat)
include ht hg

theorem State.giveRows_eq : s.giveRows G n = { s with
    sch.groups := mset s.sch.groups G { gr with rows := gr.rows - n }
    sch.teams := mset s.sch.teams G.tid { tm with freeRows := setAt tm.freeRows (poolOf tm gr) (· + n) } } := by
  unfold State.giveRows
  rw [ht, hg]
  dsimp only
  rw [State.setGroup_of_some hg]
  exact State.setTeam_of_some (by exact ht) _

theorem State.claimRows_eq : s.claimRows G n = { s.zeroRows G (8 * gr.rows) (8 * (gr.rows + n)) with
    sch.groups := mset s.sch.groups G { gr with rows := gr.rows + n }
    sch.teams := mset s.sch.teams G.tid { tm with freeRows := setAt tm.freeRows (poolOf tm gr) (· - n) } } := by
  unfold State.claimRows
  rw [ht, hg]
  dsimp only
  rw [State.setGroup_of_some (s := s.zeroRows G (8 * gr.rows) (8 * (gr.rows + n))) hg]
  exact State.setTeam_of_some (by exact ht) _

theorem Sees.moveRows {w : State} (h : Sees s w) (i : Instr) : w.moveRows i G n = w.withRows (s.moveRows i G n) := by
  have ht' := (h.team? G.tid).trans ht
  have hg' := (h.group? G).trans hg
  unfold State.moveRows State.withRows
  split
  · rw [State.claimRows_eq ht hg, State.claimRows_eq ht' hg']
    simp only [State.zeroRows, h.rv, h.rl, h.teams, h.groups]
  · rw [State.giveRows_eq ht hg, State.giveRows_eq ht' hg']
    simp only [← h.rv, ← h.rl, h.teams, h.groups]

theorem State.vGet_claimRows (x : TRef) (r : Nat) : (s.claimRows G n).vGet x r =
    if x.g = G ∧ 8 * gr.rows ≤ r ∧ r < 8 * (gr.rows + n) then 0 else s.vGet x r := by
  rw [State.claimRows_eq ht hg]
  refine (mget_filter_key (0 : Word) (fun k : TRef × Nat => !(k.1.g = G && 8 * gr.rows ≤ k.2 && k.2 < 8 * (gr.rows + n))) s.r.v (x, r)).trans ?_
  by_cases h : x.g = G ∧ 8 * gr.rows ≤ r ∧ r < 8 * (gr.rows + n)
  · rw [if_pos h]
    simp [h]
  · rw [if_neg h, if_pos (by simpa [imp_iff_not_or, or_assoc] using h)]
    rfl

end Moved

/-- Is a tile one of the vector registers of some rows? -/
def Tile.inRows (lo hi : Nat) : Tile → Bool
  | .v n => decide (lo ≤ n ∧ n < hi)
  | _ => false

theorem State.tileLbl_claimRows {s : State} {G : GRef} {tm : Team} {gr : Group} (ht : s.team? G.tid = some tm)
    (hg : s.group? G = some gr) (n : Nat) (x : GRef) (r : Tile) : (s.claimRows G n).tileLbl x r =
    if x = G ∧ r.inRows (8 * gr.rows) (8 * (gr.rows + n)) = true then 0 else s.tileLbl x r := by
  have hl : (s.claimRows G n).r.lbl = s.r.lbl.filter fun kv => !(kv.1.1 = G && kv.1.2.inRows (8 * gr.rows) (8 * (gr.rows + n))) := by
    rw [State.claimRows_eq ht hg]
    refine List.filter_congr fun kv _ => ?_
    cases kv.1.2 <;> simp [Tile.inRows]
  unfold State.tileLbl
  rw [hl, mget_filter_key (0 : Label) (fun k : GRef × Tile => !(k.1 = G && k.2.inRows (8 * gr.rows) (8 * (gr.rows + n)))) s.r.lbl (x, r)]
  by_cases hm : r = .m 7
  · subst hm
    simp [Tile.inRows]
  rw [if_neg hm, if_neg hm]
  by_cases h : x = G ∧ r.inRows (8 * gr.rows) (8 * (gr.rows + n)) = true
  · rw [if_pos h]
    simp [h]
  · rw [if_neg h, if_pos (by simpa [imp_iff_not_or] using h)]

/-! ## The first issue group of a complete group acts -/

section First
variable {s : State} {g : IssueGroup} {i : Instr} {c : Nat} {G : GRef} {tm : Team} {gr : Group} {n : Nat}

/-- A path of the rest of a group stands in no lane that acts. -/
theorem State.rowsRest_apart {p : Path} (hp : p ∈ s.rowsRest (s.iss g i) G) : p.state ≠ .inClause g.id := by
  intro hin
  have hc := (List.mem_filter.1 hp).2
  have hopen : p.opening = false := by simp [Path.opening, hin]
  have hig : s.rowsIg (s.iss g i) p = none := by
    refine List.find?_eq_none.2 fun x _ => ?_
    simp only [hin, PState.inClause.injEq, State.iss, Bool.and_eq_true, decide_eq_true_eq, and_assoc, not_and]
    intro hx hne
    exact absurd hx.symm (of_decide_eq_true hne)
  simp [hopen, hig] at hc

/-- No path of the rest of a group acts, and a path that acts is charged for nothing. -/
theorem RowsNamed.charge_apart (h : RowsNamed s g i G n) {p : Path} (hp : p ∈ s.sch.paths) :
    (p.chargeIn ((s.rowsRest (s.iss g i) G).map (·.id)) 3).chargeIn ((s.acting g i).map (·.pid)) 0 =
      p.chargeIn ((s.rowsRest (s.iss g i) G).map (·.id)) 3 := by
  by_cases ha : p.id ∈ (s.acting g i).map (·.pid)
  · obtain ⟨l, hl, hlp⟩ := List.mem_map.1 ha
    obtain ⟨q, hq, hin, hid, _⟩ := State.acting_path h.named atEntry_entered hl
    obtain rfl : q = p := List.inj_on_of_nodup_map h.named.1 hq hp (hid.trans hlp)
    have hrest : q.id ∉ (s.rowsRest (s.iss g i) G).map (·.id) := by
      intro hr
      obtain ⟨r, hrest, hrq⟩ := List.mem_map.1 hr
      obtain rfl : r = q := List.inj_on_of_nodup_map h.named.1 (List.mem_of_mem_filter hrest) hq hrq
      exact State.rowsRest_apart hrest hin
    have hz := (h.fresh q hq).1
    unfold Path.chargeIn
    rw [if_neg hrest, if_pos ha, ← hz]
  · have hid : (p.chargeIn ((s.rowsRest (s.iss g i) G).map (·.id)) 3).id = p.id := by
      unfold Path.chargeIn; split <;> rfl
    exact if_neg (by rwa [hid])

/-- A CLAIM whose rows are free does not park its group. -/
theorem RowsNamed.claimParks (h : RowsNamed s g i G n) (ht : s.team? G.tid = some tm) (hg : s.group? G = some gr)
    (hfree : n ≤ tm.freeRows.getD (poolOf tm gr) 0) : (s.entered g i).claimParks (G, n) = false := by
  have hrows : (s.entered g i).rowsFree G n = true := by
    unfold State.rowsFree
    rw [(s.sees_entered g i).team?, ht, (s.sees_entered g i).group?, hg]
    exact decide_eq_true hfree
  have hpark : ((s.entered g i).pathsOf G.tid).any (fun q => q.state = .parked .rows) = false := by
    rw [List.any_eq_false]
    intro q hq
    have hq := List.mem_of_mem_filter hq
    rw [s.entered_entry g i] at hq
    obtain ⟨p, hp, rfl⟩ := List.mem_map.1 hq
    simpa using (h.fresh p hp).2
  unfold State.claimParks
  rw [hrows, hpark]
  rfl

/-- What GIVE or CLAIM moves for one group, and the paths that it charges. -/
theorem State.rowsMoved_one {w : State} {G : GRef} {n : Nat} (h : w.rowsGroups (s.iss g i) = [(G, n)]) : w.rowsMoved (s.iss g i) =
    ((w.moveRows i G n).chargePaths ((w.rowsRest (s.iss g i) G).map (·.id)) 3).chargePaths ((s.acting g i).map (·.pid)) 0 := by
  unfold State.rowsMoved
  rw [h, State.markCharged_chargePaths]
  refine congrArg (fun w : State => w.chargePaths _ 0) ?_
  exact State.chargePaths_contains ..

/-- R22, R310: GIVE or CLAIM of a group whose lanes all name n rows moves them, and has acted for the group's other quadrant. -/
theorem RowsNamed.does (h : RowsNamed s g i G n) (hr : s.ready g i = true) (he : exec i s = runPoint i rowsPoint s)
    (hc : g.setAt = some c) (ht : s.team? G.tid = some tm) (hg : s.group? G = some gr) (hn : 1 ≤ n) (hn' : n ≤ 15)
    (hrows : if opNo i = 14 then gr.rows + n ≤ 16 else n + 1 ≤ gr.rows)
    (hfree : opNo i = 14 → n ≤ tm.freeRows.getD (poolOf tm gr) 0) :
    Does s g i ((s.moveRows i G n).chargePaths ((s.rowsRest (s.iss g i) G).map (·.id)) 3) := by
  have hgroups : (s.entered g i).rowsGroups (s.iss g i) = [(G, n)] := h.rowsGroups atEntry_entered
  have hmoved := State.rowsMoved_one (h.rowsGroups atEntry_counted)
  rw [atEntry_counted.rowsRest_ids, (s.sees_counted g i).moveRows ht hg] at hmoved
  have hsee : Sees s s := ⟨rfl, rfl, rfl, rfl, rfl, rfl, rfl, rfl, fun _ => rfl⟩
  have hb := hsee.moveRows ht hg n i
  have hcharge : ∀ p ∈ s.sch.paths, (p.chargeIn ((s.rowsRest (s.iss g i) G).map (·.id)) 3).chargeIn ((s.acting g i).map (·.pid)) 0 =
      p.chargeIn ((s.rowsRest (s.iss g i) G).map (·.id)) 3 := fun p hp => h.charge_apart hp
  generalize s.moveRows i G n = b at hmoved hb ⊢
  generalize (s.rowsRest (s.iss g i) G).map (·.id) = rest at hmoved hcharge ⊢
  have hpaths : b.sch.paths = s.sch.paths := congrArg (·.sch.paths) hb
  have hlbl : ∀ G, b.tileLbl G (.m (fieldsOf i).pred) = s.tileLbl G (.m (fieldsOf i).pred) := fun G => by
    rw [h.pred.1]
    rfl
  refine rows_does hr he hc (fun l hl => h.rowsFlt atEntry_entered hg hn hn' hrows hl) (State.rowsStop_none fun hop => ?_) ?_ ?_ ?_ ?_ ?_ ?_
  · rw [hgroups]
    simp [h.claimParks ht hg (hfree hop)]
  · rw [hmoved]
    calc ({ (s.counted g i).withRows b with r.thr := [], sch.paths := [], sch.busy := [] } : State)
        = { s.withRows b with r.thr := [], sch.paths := [], sch.busy := [] } :=
          congrArg (fun z : State => z.withRows b) (s.over_counted g i).same
      _ = { b with r.thr := [], sch.paths := [], sch.busy := [] } := by rw [← hb]
  · rw [hmoved]
    rfl
  · exact congrArg (·.r.thr) hb
  · rw [hmoved]
    show ((s.counted g i).sch.paths.map _).map _ = (b.sch.paths.map _).map _
    rw [s.counted_paths g i, hpaths, List.map_map, List.map_map, List.map_map]
    refine List.map_congr_left fun p hp => ?_
    calc ((p.entry s g i).chargeIn rest 3).chargeIn ((s.acting g i).map (·.pid)) 0
        = ((p.chargeIn rest 3).chargeIn ((s.acting g i).map (·.pid)) 0).entry s g i := by rw [Path.chargeIn_entry, Path.chargeIn_entry]
      _ = (p.chargeIn rest 3).entry s g i := by rw [hcharge p hp]
      _ = (p.chargeIn rest 3).entry (b.chargePaths rest 3) g i := (Path.entry_congr (congrArg (·.clk) hb) hlbl _).symm
  · intro p hp
    obtain ⟨q, hq, rfl⟩ := List.mem_map.1 hp
    rw [Path.chargeIn_state]
    exact (h.fresh q (hpaths ▸ hq)).2
  · exact congrArg (·.sch.igs) hb

end First

end Sys2Proof.Machine

namespace Sys2Proof.Machine

open Sys2Proof

/-! ## The settlement of O15 -/

section Give
variable {s : State} {g : IssueGroup} {i : Instr} {c n : Nat} {G : GRef} {tm : Team} {gr : Group}
  (h : RowsNamed s g i G n) (hr : s.ready g i = true) (he : exec i s = runPoint i rowsPoint s) (hc : g.setAt = some c)
  (ht : s.team? G.tid = some tm) (hg : s.group? G = some gr) (hn : 1 ≤ n) (hn' : n ≤ 15)
include h hr he hc ht hg hn hn'

theorem give_does (hop : opNo i ≠ 14) (hrows : n + 1 ≤ gr.rows) :
    ∃ b, Does s g i b ∧ b = { s with
        sch.teams := b.sch.teams
        sch.groups := b.sch.groups
        sch.paths := s.sch.paths.map fun p => p.chargeIn ((s.rowsRest (s.iss g i) G).map (·.id)) 3 } ∧
      b.group? G = some { gr with rows := gr.rows - n } ∧ (∀ x, x ≠ G → b.group? x = s.group? x) ∧
      b.team? G.tid = some { tm with freeRows := setAt tm.freeRows (poolOf tm gr) (· + n) } ∧
      ∀ x, x ≠ G.tid → b.team? x = s.team? x := by
  have hd := h.does hr he hc ht hg hn hn' (by rwa [if_neg hop]) fun h => absurd h hop
  rw [State.moveRows, if_neg hop, State.giveRows_eq ht hg] at hd
  exact ⟨_, hd, rfl, mget?_mset_same .., fun x hx => mget?_mset_other _ _ hx, mget?_mset_same .., fun x hx => mget?_mset_other _ _ hx⟩

theorem claim_does (hop : opNo i = 14) (hrows : gr.rows + n ≤ 16) (hfree : n ≤ tm.freeRows.getD (poolOf tm gr) 0) :
    ∃ b, Does s g i b ∧ b = { s with
        sch.teams := b.sch.teams
        sch.groups := b.sch.groups
        sch.paths := s.sch.paths.map fun p => p.chargeIn ((s.rowsRest (s.iss g i) G).map (·.id)) 3
        r.v := b.r.v
        r.lbl := b.r.lbl } ∧
      b.group? G = some { gr with rows := gr.rows + n } ∧ (∀ x, x ≠ G → b.group? x = s.group? x) ∧
      b.team? G.tid = some { tm with freeRows := setAt tm.freeRows (poolOf tm gr) (· - n) } ∧
      (∀ x, x ≠ G.tid → b.team? x = s.team? x) ∧
      (∀ x r, b.vGet x r = if x.g = G ∧ 8 * gr.rows ≤ r ∧ r < 8 * (gr.rows + n) then 0 else s.vGet x r) ∧
      ∀ x r, b.tileLbl x r = if x = G ∧ r.inRows (8 * gr.rows) (8 * (gr.rows + n)) = true then 0 else s.tileLbl x r := by
  have hd := h.does hr he hc ht hg hn hn' (by rwa [if_pos hop]) fun _ => hfree
  have hv := State.vGet_claimRows ht hg n
  have hl := State.tileLbl_claimRows ht hg n
  rw [State.moveRows, if_pos hop] at hd
  rw [State.claimRows_eq ht hg] at hd hv hl
  exact ⟨_, hd, rfl, mget?_mset_same .., fun x hx => mget?_mset_other _ _ hx, mget?_mset_same .., fun x hx => mget?_mset_other _ _ hx,
    hv, hl⟩

end Give

/-- GIVE and CLAIM have no instruction predicate. -/
theorem rows_pred {s : State} {g : IssueGroup} {i : Instr} (h : s.ready g i = true)
    (hi : (∃ f, i = .give f) ∨ (∃ f, i = .giveLong f) ∨ (∃ f, i = .claim f) ∨ (∃ f, i = .claimLong f)) :
    (fieldsOf i).pred = 7 ∧ (fieldsOf i).neg = false := by
  rcases hi with ⟨f, rfl⟩ | ⟨f, rfl⟩ | ⟨f, rfl⟩ | ⟨f, rfl⟩ <;> exact ready_pred h rfl rfl rfl

/-- GIVE and CLAIM are run by one point. -/
theorem exec_rows {s : State} {i : Instr}
    (hi : (∃ f, i = .give f) ∨ (∃ f, i = .giveLong f) ∨ (∃ f, i = .claim f) ∨ (∃ f, i = .claimLong f)) :
    exec i s = runPoint i rowsPoint s := by
  rcases hi with ⟨f, rfl⟩ | ⟨f, rfl⟩ | ⟨f, rfl⟩ | ⟨f, rfl⟩ <;> rfl

/-- BAR and BARP are run by one point. -/
theorem exec_bar {s : State} {i : Instr}
    (hi : (∃ f, i = .bar f) ∨ (∃ f, i = .barLong f) ∨ (∃ f, i = .barp f) ∨ (∃ f, i = .barpLong f)) :
    exec i s = runPoint i barPoint s := by
  rcases hi with ⟨f, rfl⟩ | ⟨f, rfl⟩ | ⟨f, rfl⟩ | ⟨f, rfl⟩ <;> rfl

/-- BAR counts the live threads of the team, and BARP those that it names. -/
theorem opNo_bar {i : Instr} (hi : (∃ f, i = .bar f) ∨ (∃ f, i = .barLong f) ∨ (∃ f, i = .barp f) ∨ (∃ f, i = .barpLong f)) :
    opNo i ≠ 7 ∨ opNo i = 7 ∧ ((∃ f, i = .barp f) ∨ (∃ f, i = .barpLong f)) := by
  rcases hi with ⟨f, rfl⟩ | ⟨f, rfl⟩ | hi
  · exact .inl (show (6 : Nat) ≠ 7 by decide)
  · exact .inl (show (6 : Nat) ≠ 7 by decide)
  · refine .inr ⟨?_, hi⟩
    rcases hi with ⟨f, rfl⟩ | ⟨f, rfl⟩ <;> rfl

/-- Settles O15: the only path of a team releases itself from the barrier that it completes; a GIVE or CLAIM that has not acted
moves its rows once and charges the paths of the group's other quadrant, and one whose paths are charged only goes on. -/
theorem barriersAndRows : Obligations.BarriersAndRows := by
  unfold Obligations.BarriersAndRows
  refine ⟨fun s g i h hi => ⟨fun c hc => bar_goes_on h hc (exec_bar hi), ?_⟩, ?_,
    fun s g i c h hc hi h3 hn => rows_go_on h (exec_rows hi) hc h3 hn⟩
  · intro p tm b hc hl f ls hb hbar hcount
    rcases opNo_bar hi with hop | ⟨hop, hbarp⟩
    · obtain ⟨q, hq⟩ := released_result (s := s) (g := g) (p := p) (tm := tm) (st := .waitBarrier b none)
        (teams := mset s.sch.teams p.g.tid (tm.nextGen b)) (mget?_mset_same ..) fun k hk => mget?_mset_other _ _ hk
      exact ⟨_, q, bar_releases hl h hc (exec_bar hi) hb hbar hop, hq⟩
    · obtain ⟨hlen, hn⟩ := hcount hbarp
      obtain ⟨q, hq⟩ := released_result (s := s) (g := g) (p := p) (tm := tm) (st := .waitBarrier b (some ls.length))
        (teams := mset (mset s.sch.teams p.g.tid (tm.counts b ls.length)) p.g.tid (tm.nextGen b)) (mget?_mset_same ..) fun k hk =>
          (mget?_mset_other _ _ hk).trans (mget?_mset_other _ _ hk)
      exact ⟨_, q, barp_releases hl h hc (exec_bar hi) hb hbar hop hlen hn, hq⟩
  · intro s g i c G tm gr n h hc ht hg f k hn hn' hne hown hnamed hfresh hrest acted
    have named (hi) : RowsNamed s g i G n :=
      { has := hne, team := by rw [ht]; rfl, own := hown, rest := hrest, named := hnamed, fresh := hfresh, pred := rows_pred h hi }
    refine ⟨fun hi hrows => ?_, fun hi hrows hfree => ?_⟩
    · have hi' : (∃ f, i = .give f) ∨ (∃ f, i = .giveLong f) ∨ (∃ f, i = .claim f) ∨ (∃ f, i = .claimLong f) :=
        hi.imp id Or.inl
      have hop : opNo i ≠ 14 := by
        rcases hi with ⟨f, rfl⟩ | ⟨f, rfl⟩ <;> exact show (13 : Nat) ≠ 14 by decide
      exact give_does (named hi') h (exec_rows hi') hc ht hg hn hn' hop hrows
    · have hi' : (∃ f, i = .give f) ∨ (∃ f, i = .giveLong f) ∨ (∃ f, i = .claim f) ∨ (∃ f, i = .claimLong f) := .inr (.inr hi)
      have hop : opNo i = 14 := by
        rcases hi with ⟨f, rfl⟩ | ⟨f, rfl⟩ <;> rfl
      obtain ⟨b, hd, hb, hgr, hgr', htm, htm', hv, hl⟩ := claim_does (named hi') h (exec_rows hi') hc ht hg hn hn' hop hrows hfree
      exact ⟨b, hd, hb, hgr, hgr', htm, htm', hv, fun x r => (hl x r).trans (by cases r <;> rfl)⟩

end Sys2Proof.Machine

namespace Sys2Proof.Machine

open Sys2Proof

/-! # The end of a team (O47) -/

/-- A team that is being saved. -/
def stoppingTeam : Team := { plainTeam 0 0 with status := .stopping false }

/-- The team's one live thread, a line that it has pinned, and a save area without room, long after its save began. -/
def pinnedNoRoom : State :=
  { State.reset with
    clk.tclk := 1000000
    sch.teams := [(0, stoppingTeam)]
    r.thr := [(⟨0, 0, 0⟩, { live := true })]
    m.l1 := [{ core := 0, part := 0, line := .mem 0, bytes := [], expiry := 0, pin := some { tid := 0, level := 0 }, lbl := 0 }] }

theorem pinnedNoRoom_due : pinnedNoRoom.saveDue 0 = true := by decide +kernel

/-- The write-back takes the pinned line out of the L1, and the team's image finds no room. -/
theorem pinnedNoRoom_unpinned : (pinnedNoRoom.unpinTeam 0).team? 0 ≠ none ∧ (pinnedNoRoom.unpinTeam 0).writeImage 0 0 false = none ∧
    ((pinnedNoRoom.unpinTeam 0).noRoom 0 stoppingTeam).m.l1.length = 0 := by
  decide +kernel

/-- The event leaves the pinned line where it was. -/
theorem pinnedNoRoom_saved : (pinnedNoRoom.saveTeam 0).m.l1.length = 1 := by
  decide +kernel

/-- A team that is due and not to be discarded is saved. -/
theorem exec_teamSave {s : State} {tid : Nat} {t : Team} (hdue : s.saveDue tid = true) (ht : s.team? tid = some t)
    (hst : t.status ≠ .stopping true) : exec (.teamSave tid) s = .next (s.saveTeam tid) := by
  show Host.Outcome.next _ = _
  rw [hdue, ht]
  simp [hst]

/-- Refutes O47: where the image of a team with a pinned line finds no room, the statement has the team go on from the state after
the write-back (R99), in which the line is no longer pinned; the event goes on from the state before it. -/
theorem not_teamsEnd : ¬ Obligations.TeamsEnd := by
  unfold Obligations.TeamsEnd
  intro h
  obtain ⟨-, -, -, -, -, -, -, -, hsave, -⟩ := h pinnedNoRoom
  have hstopping : stoppingTeam.status ≠ .stopping true := by decide
  obtain ⟨-, hsave⟩ := hsave 0 stoppingTeam pinnedNoRoom_due rfl
  obtain ⟨-, -, hnoRoom⟩ := hsave (.inl hstopping)
  obtain ⟨hteam, himage, hgone⟩ := pinnedNoRoom_unpinned
  have hclaim : exec (.teamSave 0) pinnedNoRoom = .next ((pinnedNoRoom.unpinTeam 0).noRoom 0 stoppingTeam) := hnoRoom hteam himage
  rw [exec_teamSave pinnedNoRoom_due rfl hstopping] at hclaim
  have hstate : pinnedNoRoom.saveTeam 0 = (pinnedNoRoom.unpinTeam 0).noRoom 0 stoppingTeam := Host.Outcome.next.inj hclaim
  have hlines : 1 = 0 := by rw [← pinnedNoRoom_saved, hstate, hgone]
  exact absurd hlines (by decide)

end Sys2Proof.Machine

namespace Sys2Proof.Machine

open Sys2Proof

/-! # A queue after a change of it, and what waits at it (O26, O27, O42, O46, O48, O50) -/

theorem Queue.startRefill_of_cellarLen {q : Queue} (h : q.cellarLen = 0) (c : Nat) : q.startRefill c = q := by
  simp [Queue.startRefill, h]

@[simp] theorem Queue.startRefill_waiting (q : Queue) (c : Nat) : (q.startRefill c).waiting = q.waiting := by
  unfold Queue.startRefill; split <;> rfl

@[simp] theorem Queue.put_waiting (q : Queue) (p : Nat) (x : QRec) : (q.put p x).waiting = q.waiting := by
  unfold Queue.put; dsimp only; split <;> rfl

/-- What waits has no say in where a record is put. -/
theorem Queue.put_setWaiting (q : Queue) (p : Nat) (x : QRec) (ws : List Waiter) :
    ({ q with waiting := ws } : Queue).put p x = { q.put p x with waiting := ws } := by
  unfold Queue.put
  show (if (q.cellars.getD p []).isEmpty && decide (q.ringLen < q.ring) then _ else _) = _
  dsimp only
  show _ = { (if (q.cellars.getD p []).isEmpty && decide (q.ringLen < q.ring) then _ else _ : Queue) with waiting := ws }
  split <;> rfl

theorem State.setQueue_of_some {s : State} {k : QKey} {q : Queue} (h : s.queue? k = some q) (f : Queue → Queue) :
    s.setQueue k f = { s with gr.queues := mset s.gr.queues k ((f q).startRefill s.clk.cycle) } := by
  unfold State.setQueue; rw [h]

theorem State.queue?_setQueue_same {s : State} {k : QKey} {q : Queue} (h : s.queue? k = some q) (f : Queue → Queue) :
    (s.setQueue k f).queue? k = some ((f q).startRefill s.clk.cycle) := by
  rw [State.setQueue_of_some h]; exact mget?_mset_same ..

theorem State.queue?_setQueue_other {s : State} {k j : QKey} (h : j ≠ k) (f : Queue → Queue) :
    (s.setQueue k f).queue? j = s.queue? j := by
  unfold State.setQueue; split
  · exact mget?_mset_other _ _ h
  · rfl

theorem State.queue?_placeRec {s : State} {k : QKey} {q : Queue} (h : s.queue? k = some q) (p : Nat) (r : Rec) (lr : Option LRec) (n : Nat) :
    (s.placeRec k p r lr n).queue? k = some ((q.put p ⟨q.next, r, s.clk.tclk, lr, n⟩).startRefill s.clk.cycle) :=
  State.queue?_setQueue_same h _

/-- A change of a queue changes the map of the queues only. -/
theorem State.setQueue_frame (s : State) (k : QKey) (f : Queue → Queue) :
    s.setQueue k f = { s with gr.queues := (s.setQueue k f).gr.queues } := by
  unfold State.setQueue; split <;> rfl

theorem State.serveQueue_succ {s t : State} {k : QKey} {q : Queue} (h : s.queue? k = some q) (ht : s.serveHead k q = some t) (n : Nat) :
    s.serveQueue k (n + 1) = t.serveQueue k n := by
  rw [State.serveQueue, h]; simp only; rw [ht]

/-- Where nothing waits, nothing is served. -/
theorem State.serveQueue_of_idle {s : State} {k : QKey} {q : Queue} (h : s.queue? k = some q) (hw : q.waiting = []) (n : Nat) :
    s.serveQueue k n = s := by
  cases n with
  | zero => rfl
  | succ n => rw [State.serveQueue, h]; simp only [State.serveHead, hw]

/-- A queue that is the same but for its refill holds back nothing of an empty row either. -/
theorem State.serveQueue_setQueue {s : State} {k : QKey} {q r : Queue} (h : s.queue? k = some q) (hr : r.waiting = []) (n : Nat) :
    (s.setQueue k fun _ => r).serveQueue k n = s.setQueue k fun _ => r :=
  State.serveQueue_of_idle (State.queue?_setQueue_same h _) (by simpa using hr) n

end Sys2Proof.Machine

namespace Sys2Proof.Machine

open Sys2Proof

/-! # Messages of queues (O50) -/

section

variable {s t : State} {h : MsgHdr} {i : Instr}

theorem leadsTo_of_msg_discarded (he : exec i s = .next (if s.msgOk h then t else s)) (hbad : s.msgOk h = false) : LeadsTo s i s :=
  he.trans (by rw [hbad]; rfl)

theorem leadsTo_of_msg_taken (he : exec i s = .next (if s.msgOk h then t else s)) (hok : s.msgOk h = true) : LeadsTo s i t :=
  he.trans (by rw [hok]; rfl)

end

/-- Records of one record that wait at the head of a queue with room take their position, and the sender has its answer (R295, R406). -/
theorem State.serveHead_fabric {s : State} {k : QKey} {q : Queue} {r : Rec} {st part : Nat} {req : Word} {fwd : Bool}
    (hw : q.waiting = [.fabric [r] st part req fwd]) (hf : q.fits 0 1 = true) :
    s.serveHead k q = some (((s.placeRec k 0 r none 1).setQueue k fun q => { q with waiting := q.waiting.drop 1 }).sendMsg
      0x19 part k.part st (renqackBody req)) := by
  have hone : (if fwd then min 1 [r].length else [r].length) = 1 := by cases fwd <;> rfl
  unfold State.serveHead
  rw [hw]
  simp only [hone, hf]
  rfl

/-- A remote enqueue of one record that a queue with room takes. -/
theorem State.takeRenq_accepts {s : State} {h : MsgHdr} {req : Word} {n rsz : Nat} {fwd : Bool} {l : Label} {bs : List Byte} {k : QKey}
    {q : Queue} (hc : s.renqCause h n fwd rsz [l] = none) (hk : s.queueOf h.tpart n = some k) (hq : s.queue? k = some q)
    (hw : q.waiting = []) (hf : q.fits 0 1 = true) (he : q.cellarLen = 0)
    (hp : (q.put 0 ⟨q.next, ⟨bs, l, true⟩, s.clk.tclk, none, 1⟩).cellarLen = 0) :
    ∃ u, s.takeRenq h req n fwd rsz [(l, bs)] = u ∧ u = { s with gr.queues := u.gr.queues, y.msgs := u.y.msgs } ∧
      u.queue? k = some (q.put 0 ⟨q.next, ⟨bs, l, true⟩, s.clk.tclk, none, 1⟩) ∧ (∀ x, x ≠ k → u.queue? x = s.queue? x) ∧
      u.y.msgs = (s.sendMsg 0x19 h.spart k.part h.sstation (renqackBody req)).y.msgs := by
  let w : Waiter := .fabric [⟨bs, l, true⟩] h.sstation h.spart req fwd
  let x : QRec := ⟨q.next, ⟨bs, l, true⟩, s.clk.tclk, none, 1⟩
  let waited := s.waitAt k w
  let placed := waited.placeRec k 0 ⟨bs, l, true⟩ none 1
  let served := placed.setQueue k fun q => { q with waiting := q.waiting.drop 1 }
  have hwaited : waited.queue? k = some { q with waiting := [w] } := by
    have := State.queue?_setQueue_same hq fun q => { q with waiting := q.waiting ++ [w] }
    rwa [hw, Queue.startRefill_of_cellarLen (by exact he)] at this
  have hclk : waited.clk = s.clk := by rw [show waited = _ from State.setQueue_frame ..]
  have hplaced : placed.queue? k = some { q.put 0 x with waiting := [w] } := by
    have := State.queue?_placeRec hwaited 0 ⟨bs, l, true⟩ none 1
    rw [hclk, Queue.put_setWaiting, Queue.startRefill_of_cellarLen (by exact hp)] at this
    exact this
  have hserved : served.queue? k = some (q.put 0 x) := by
    have := State.queue?_setQueue_same hplaced fun q => { q with waiting := q.waiting.drop 1 }
    rw [Queue.startRefill_of_cellarLen (by exact hp)] at this
    rw [show served.queue? k = _ from this]
    have hput : (q.put 0 x).waiting = [] := by rw [Queue.put_waiting, hw]
    exact congrArg some (by rw [← hput]; rfl)
  have hframe : served = { s with gr.queues := served.gr.queues } := by
    have h1 : waited = _ := State.setQueue_frame ..
    have h2 : placed = _ := State.setQueue_frame ..
    have h3 : served = _ := State.setQueue_frame ..
    rw [h3, h2, h1]
  have hhead := State.serveHead_fabric (s := waited) (k := k) (q := { q with waiting := [w] }) rfl hf
  have hrun : s.takeRenq h req n fwd rsz [(l, bs)] = served.sendMsg 0x19 h.spart k.part h.sstation (renqackBody req) := by
    have hidle := State.serveQueue_of_idle (s := served.sendMsg 0x19 h.spart k.part h.sstation (renqackBody req)) (k := k)
      hserved (by rw [Queue.put_waiting, hw]) 4095
    unfold State.takeRenq
    simp only [List.map_cons, List.map_nil, hc, hk]
    exact (State.serveQueue_succ hwaited hhead 4095).trans hidle
  refine ⟨_, hrun, ?_, hserved, fun y hy => ?_, ?_⟩
  · rw [hframe]; rfl
  · calc served.queue? y = placed.queue? y := State.queue?_setQueue_other hy _
      _ = waited.queue? y := State.queue?_setQueue_other hy _
      _ = s.queue? y := State.queue?_setQueue_other hy _
  · rw [hframe]; rfl

section

variable {κ α β : Type} [DecidableEq κ] (f : β → κ) (v : β → α)

/-- A key that no element of a row of writes names is as before. -/
theorem mget?_foldl_mset_other {k : κ} (xs : List β) (m : Map κ α) (h : ∀ x ∈ xs, f x ≠ k) :
    mget? (xs.foldl (fun m x => mset m (f x) (v x)) m) k = mget? m k := by
  induction xs generalizing m with
  | nil => rfl
  | cons x xs ih =>
    rw [List.foldl_cons, ih _ fun y hy => h y (by simp [hy]), mget?_mset_other _ _ (Ne.symm (h x (by simp)))]

/-- Of a row of writes, the last one of a key stands. -/
theorem mget?_foldl_mset_last (a b : List β) (e : β) (m : Map κ α) (h : ∀ x ∈ b, f x ≠ f e) :
    mget? ((a ++ e :: b).foldl (fun m x => mset m (f x) (v x)) m) (f e) = some (v e) := by
  rw [List.foldl_append, List.foldl_cons, mget?_foldl_mset_other f v b _ h, mget?_mset_same]

end

/-- R57, R406: the key under which an entry of an EPHEM enters the view. -/
def ephemKey (h : MsgHdr) (e : EphemEntry) : Nat × Nat × Nat := (h.tpart, e.queue, h.sstation)
/-- R57, R406: what the entry enters there. -/
def ephemPub (e : EphemEntry) : Pub := ⟨e.len, e.pressed, e.park⟩

theorem exec_ephem {s : State} {h : MsgHdr} (hok : s.msgOk h = true) (es : List EphemEntry) :
    LeadsTo s (.ephem h es) { s with gr.remote := es.foldl (fun m e => mset m (ephemKey h e) (ephemPub e)) s.gr.remote } := by
  refine (leadsTo_of_msg_taken rfl hok).trans (congrArg Host.Outcome.next ?_)
  clear hok
  induction es generalizing s with
  | nil => rfl
  | cons e es ih => exact ih

theorem exec_renq {s : State} {h : MsgHdr} (hok : s.msgOk h = true) (req : Word) (n : Nat) (fwd : Bool) (rsz : Nat)
    (recs : List (Label × List Byte)) : LeadsTo s (.renq h req n fwd rsz recs) (s.takeRenq h req n fwd rsz recs) :=
  leadsTo_of_msg_taken rfl hok

/-- R116, R357, R406: a refused RENQ is answered with its cause. -/
theorem State.takeRenq_refuses {s : State} {h : MsgHdr} {req : Word} {n rsz c : Nat} {fwd : Bool} {recs : List (Label × List Byte)}
    (hc : s.renqCause h n fwd rsz (recs.map (·.1)) = some c) : s.takeRenq h req n fwd rsz recs = s.sendRefuse h c req := by
  unfold State.takeRenq; rw [hc]

/-- R295: a remote enqueue for which no path waits ends with its entry alone. -/
theorem State.renqEnd_of_pids {s : State} {o : OutRenq} (hp : o.pids = []) :
    s.renqEnd o = { s with gr.renqs := s.gr.renqs.filter fun x => x.req ≠ o.req } := by
  unfold State.renqEnd; rw [hp]; rfl

theorem State.renq?_req {s : State} {st : Nat} {req : Word} {o : OutRenq} (h : s.renq? st req = some o) : o.req = req := by
  have := List.find?_some h
  simp only [Bool.and_eq_true, decide_eq_true_eq] at this
  exact this.1

section

variable {s : State} {h : MsgHdr} (hok : s.msgOk h = true)
include hok

theorem exec_renqack {req : Word} {st : Nat} {o : OutRenq} (ho : s.renq? h.sstation req = some o) :
    LeadsTo s (.renqack h req st) (if st = 0 then s.renqEnd o else s) := by
  refine (leadsTo_of_msg_taken rfl hok).trans ?_
  simp only [ho]

theorem exec_renqack_none {req : Word} {st : Nat} (ho : s.renq? h.sstation req = none) : LeadsTo s (.renqack h req st) s := by
  refine (leadsTo_of_msg_taken rfl hok).trans ?_
  simp only [ho]

theorem exec_refuse {cause : Nat} {ref : Word} {o : OutRenq} (ho : s.renq? h.sstation ref = some o) :
    LeadsTo s (.refuse h cause ref) ((s.renqEnd o).asyncReport o.part o.ctx (refuseCode cause) 0 0) := by
  refine (leadsTo_of_msg_taken rfl hok).trans ?_
  simp only [ho]

theorem exec_refuse_none {cause : Nat} {ref : Word} (ho : s.renq? h.sstation ref = none) :
    LeadsTo s (.refuse h cause ref) (s.asyncReport h.tpart 0 0x58 0 0) := by
  refine (leadsTo_of_msg_taken rfl hok).trans ?_
  simp only [ho]

end

/-- Settles O50: a message that is not taken leaves the state, by `leadsTo_of_msg_discarded`; one that is taken acts as the lemma of its kind says. -/
theorem fabricMessages : Obligations.FabricMessages := by
  unfold Obligations.FabricMessages
  refine ⟨fun s h hbad => ?_, fun s h hok => ⟨?_, ?_, ?_, ?_, ?_, ?_, fun es => ?_⟩⟩
  · refine ⟨?_, ?_, ?_, ?_, ?_, ?_, ?_, ?_, ?_, ?_, ?_, ?_⟩ <;> intros <;> exact leadsTo_of_msg_discarded rfl hbad
  · intro req n fwd rsz recs c hc
    have := exec_renq hok req n fwd rsz recs
    rwa [State.takeRenq_refuses hc] at this
  · intro req n fwd rsz l bs k q hc hk hq hw hf he hp
    obtain ⟨u, hu, hrest⟩ := State.takeRenq_accepts (req := req) hc hk hq hw hf he hp
    exact ⟨u, hu ▸ exec_renq hok .., hrest⟩
  · exact fun req st ho => exec_renqack_none hok ho
  · intro req st o ho
    have hend := exec_renqack hok (st := st) ho
    refine ⟨fun hst => by rwa [if_neg hst] at hend, fun hst hp => ?_⟩
    rwa [if_pos hst, State.renqEnd_of_pids hp, State.renq?_req ho] at hend
  · intro cause ref o ho hp
    have hend := exec_refuse hok (cause := cause) ho
    rwa [State.renqEnd_of_pids hp, State.renq?_req ho] at hend
  · exact fun cause ref ho => exec_refuse_none hok ho
  · refine ⟨_, exec_ephem hok es, rfl, fun p q st hne => ?_, fun a e b hes hlast => ?_⟩
    · refine mget?_foldl_mset_other _ _ es _ fun e he heq => ?_
      simp only [ephemKey, Prod.mk.injEq] at heq
      obtain ⟨rfl, rfl, rfl⟩ := heq
      rcases hne with h | h | h
      · exact h rfl
      · exact h rfl
      · exact h e he rfl
    · subst hes
      exact mget?_foldl_mset_last _ _ a b e _ fun x hx heq => hlast x hx (by simpa [ephemKey] using heq)

end Sys2Proof.Machine

namespace Sys2Proof.Machine

open Sys2Proof

/-! # Published lengths, refills and forwarding (O48) -/

/-! ## Publications within the package -/

section

variable (s : State)

/-- The lengths that a publication within the dies gives to the free slots of other dies (R332). -/
def State.earlyKeys : Map QKey Pub := s.publication.filter fun kv => s.wantsEarly kv.1 kv.2

theorem State.mem_sub_publishFar (x : (Nat × QKey) × Nat) :
    x ∈ s.publishFar.sch.sub ↔ x ∈ s.sch.sub ∧ s.homeDie x.1.2 = coreDie x.1.1 := by
  simp [State.publishFar]

theorem State.any_earlyKeys (k : QKey) : (s.earlyKeys.any fun kv => kv.1 = k) = true ↔ ∃ p, (k, p) ∈ s.publication ∧ s.wantsEarly k p = true := by
  simp [State.earlyKeys]

theorem State.mem_sub_publishEarly (x : (Nat × QKey) × Nat) : x ∈ s.publishNear.publishEarly.sch.sub ↔ x ∈ s.sch.sub ∧
    s.homeDie x.1.2 ≠ coreDie x.1.1 ∧ ¬ ∃ p, (x.1.2, p) ∈ s.publication ∧ s.wantsEarly x.1.2 p = true := by
  have hsub : s.publishNear.publishEarly.sch.sub = (s.sch.sub.filter fun x => s.homeDie x.1.2 ≠ coreDie x.1.1).filter fun x =>
      s.homeDie x.1.2 = coreDie x.1.1 || !s.earlyKeys.any fun kv => kv.1 = x.1.2 := rfl
  rw [hsub, List.mem_filter, List.mem_filter, ← s.any_earlyKeys]
  cases s.earlyKeys.any fun kv => kv.1 = x.1.2 <;> simp +contextual [and_assoc]

end

/-! ## Publications to other stations -/

/-- R57: the message that tells a station the lengths of a partition. -/
def State.ephemMsg (s : State) (st p : Nat) : OutMsg :=
  { typ := 0x20, tpart := p, spart := p, tstation := st, time := s.clk.tclk, body := s.ephemBody p }

/-- R57: the partitions with queues that are published. -/
def State.ephemParts (s : State) : List Nat :=
  sortBy id (dedup ((s.gr.queues.filter fun kv => !kv.1.launch && kv.2.kind ≠ 1).map fun kv => kv.1.part))

theorem State.mem_ephemParts {s : State} {p : Nat} :
    p ∈ s.ephemParts ↔ ∃ kv ∈ s.gr.queues, kv.1.launch = false ∧ kv.2.kind ≠ 1 ∧ p = kv.1.part := by
  simp only [State.ephemParts, (sortBy_perm _ _).mem_iff, mem_dedup, List.mem_map, List.mem_filter, Bool.and_eq_true,
    Bool.not_eq_true', decide_eq_true_eq]
  exact ⟨fun ⟨kv, ⟨hm, hl, hk⟩, hp⟩ => ⟨kv, hm, hl, hk, hp.symm⟩, fun ⟨kv, hm, hl, hk, hp⟩ => ⟨kv, ⟨hm, hl, hk⟩, hp.symm⟩⟩

theorem State.sends_parts (s : State) (st : Nat) (ps : List Nat) :
    ps.foldl (fun s p => s.sendMsg 0x20 p p st (s.ephemBody p)) s = { s with y.msgs := s.y.msgs ++ ps.map (s.ephemMsg st) } := by
  induction ps generalizing s with
  | nil => simp
  | cons p ps ih =>
    rw [List.foldl_cons, ih, List.map_cons, List.append_cons]
    rfl

theorem State.sends_stations (s : State) (ps sts : List Nat) :
    sts.foldl (fun s st => ps.foldl (fun s p => s.sendMsg 0x20 p p st (s.ephemBody p)) s) s =
      { s with y.msgs := s.y.msgs ++ sts.flatMap fun st => ps.map (s.ephemMsg st) } := by
  induction sts generalizing s with
  | nil => simp
  | cons st sts ih =>
    rw [List.foldl_cons, ih, State.sends_parts, List.flatMap_cons, ← List.append_assoc]
    rfl

theorem State.publishRemote_eq (s : State) : s.publishRemote = { s with
    gr.remAt := s.clk.tclk
    y.msgs := s.y.msgs ++ s.peers.flatMap fun st => s.ephemParts.map (s.ephemMsg st) } :=
  State.sends_stations { s with gr.remAt := s.clk.tclk } s.ephemParts s.peers

/-! ## Refills -/

@[simp] theorem Queue.refillOne_waiting (q : Queue) : q.refillOne.waiting = q.waiting := by
  unfold Queue.refillOne
  split
  · rfl
  · split
    · rfl
    · split <;> rfl

@[simp] theorem Queue.refillStep_waiting (q : Queue) : q.refillStep.waiting = q.waiting :=
  foldl_keeps (fun r : Queue => r.waiting = q.waiting) _ (fun r _ hr => by rw [Queue.refillOne_waiting, hr]) _ _ rfl

/-! ## The best queue for a port -/

/-- R68: does a candidate of a port go before another: a greater value, or the same value and a lower index? -/
def ForwardBefore (x y : QKey × Queue × Int) : Prop := y.2.2 < x.2.2 ∨ (y.2.2 = x.2.2 ∧ x.1.idx < y.1.idx)

theorem bestForward_cons (z : QKey × Queue × Int) (zs : List (QKey × Queue × Int)) :
    bestForward (z :: zs) = (match bestForward zs with
      | none => some z
      | some y => if z.2.2 < y.2.2 ∨ (y.2.2 = z.2.2 ∧ y.1.idx < z.1.idx) then some y else some z) := by
  rw [bestForward]
  cases bestForward zs with
  | none => rfl
  | some y => simp only [Bool.or_eq_true, Bool.and_eq_true, decide_eq_true_eq, eq_comm (a := z.2.2)]

theorem bestForward_mem {y : QKey × Queue × Int} : ∀ {xs : List (QKey × Queue × Int)}, bestForward xs = some y → y ∈ xs
  | z :: zs, h => by
    rw [bestForward_cons] at h
    cases hb : bestForward zs with
    | none => simp_all
    | some w =>
      rw [hb] at h
      rcases ite_eq_or_eq (z.2.2 < w.2.2 ∨ (w.2.2 = z.2.2 ∧ w.1.idx < z.1.idx)) (some w) (some z) with hw | hw
      · exact List.mem_cons_of_mem _ (bestForward_mem (hb.trans (hw.symm.trans h)))
      · exact (Option.some.inj (hw.symm.trans h)) ▸ List.mem_cons_self

/-- The candidate that goes before every other one is the choice. -/
theorem bestForward_eq {x : QKey × Queue × Int} : ∀ {xs : List (QKey × Queue × Int)}, x ∈ xs →
    (∀ y ∈ xs, y ≠ x → ForwardBefore x y) → bestForward xs = some x
  | z :: zs, h, hbest => by
    rw [bestForward_cons]
    by_cases hz : z = x
    · subst hz
      cases hb : bestForward zs with
      | none => rfl
      | some y =>
        by_cases hy : y = z
        · subst hy; simp
        · have hbefore := hbest y (List.mem_cons_of_mem _ (bestForward_mem hb)) hy
          refine if_neg ?_
          simp only [ForwardBefore] at hbefore
          omega
    · have hm : x ∈ zs := by simpa [Ne.symm hz] using h
      rw [bestForward_eq hm fun y hy => hbest y (List.mem_cons_of_mem _ hy)]
      refine if_pos ?_
      exact (hbest z List.mem_cons_self hz).imp_right fun ⟨h1, h2⟩ => ⟨h1.symm, h2⟩

theorem exec_forwardingDecision {s : State} {part port : Nat} :
    exec (.forwardingDecision part port) s = .next (if s.forwardDue part port then s.forward part port else s) := rfl

/-- The instant that a decision keeps has no say in it (R68, R318). -/
theorem State.forward_eq (s : State) (part port : Nat) : s.forward part port =
    (let u := { s with gr.fwd := mset s.gr.fwd (part, port) s.clk.tclk }
     if !s.portIdle port then u
     else match bestForward (s.forwardCands part (s.port port).far) with
      | some (k, q, _) => u.burst k q port
      | none => u) := rfl

/-- Settles O48: the publications by what each changes, a refill step by the idle queue that it leaves, a decision by the candidate that
goes before every other. -/
theorem ephemerisAndForwarding : Obligations.EphemerisAndForwarding := by
  unfold Obligations.EphemerisAndForwarding
  intro s
  refine ⟨?_, ?_, ?_, ?_, ?_⟩
  · intro near far
    have hexec : exec .ephemerisPublish s = .next (
      let t := if near then s.publishNear.publishEarly else s
      if far then t.publishFar else t) := by
      show Host.Outcome.next (if (if s.nearDue then s.publishNear.publishEarly else s).farDue then _ else _) = _
      cases hn : s.nearDue <;> simp only [show near = _ from hn, show far = s.farDue from rfl] <;> rfl
    cases hn : near <;> cases hf : far <;> rw [hn, hf] at hexec
    · exact ⟨_, hexec, rfl, rfl, rfl, rfl, rfl, rfl, fun x => by simp⟩
    · refine ⟨_, hexec, rfl, rfl, rfl, rfl, rfl, rfl, fun x => ?_⟩
      refine (s.mem_sub_publishFar x).trans ?_
      simp
    · refine ⟨_, hexec, rfl, rfl, rfl, rfl, rfl, rfl, fun x => ?_⟩
      refine (s.mem_sub_publishEarly x).trans ?_
      simp only [Bool.false_eq_true, false_and, not_false_eq_true, true_and]
      exact and_congr_right fun _ => and_congr_right fun hd => not_congr ⟨fun h => ⟨hd, h⟩, fun h => h.2⟩
    · refine ⟨_, hexec, rfl, rfl, rfl, rfl, rfl, rfl, fun x => ?_⟩
      refine (s.publishNear.publishEarly.mem_sub_publishFar x).trans ?_
      rw [s.mem_sub_publishEarly]
      show _ ∧ s.homeDie _ = _ ↔ _
      tauto
  · refine ⟨s.publishRemote, rfl, by rw [State.publishRemote_eq], fun m => ?_⟩
    rw [State.publishRemote_eq]
    simp only [List.mem_append, List.mem_flatMap, List.mem_map, State.mem_ephemParts]
    refine or_congr_right (exists_congr fun st => and_congr_right fun _ => ⟨?_, ?_⟩)
    · rintro ⟨_, ⟨kv, hm, hl, hk, rfl⟩, rfl⟩
      exact ⟨kv, hm, hl, hk, rfl⟩
    · rintro ⟨kv, hm, hl, hk, rfl⟩
      exact ⟨_, ⟨kv, hm, hl, hk, rfl⟩, rfl⟩
  · intro k q hq hw
    show Host.Outcome.next _ = _
    have := State.serveQueue_of_idle (State.queue?_setQueue_same hq Queue.refillStep) (by simpa using hw) 4096
    rw [this, State.setQueue_of_some hq]
  · intro part port hdue
    rw [LeadsTo, exec_forwardingDecision, hdue]; rfl
  · intro part port hdue far u
    have hexec : exec (.forwardingDecision part port) s = .next (s.forward part port) := by
      rw [exec_forwardingDecision, hdue]; rfl
    rw [State.forward_eq] at hexec
    refine ⟨fun hbusy => ?_, fun hidle hnone => ?_, fun k q f hidle hmem hbest => ?_⟩
    · rw [hbusy] at hexec; exact hexec
    · rw [hidle, hnone] at hexec; exact hexec
    · rw [hidle, bestForward_eq hmem hbest] at hexec; exact hexec

end Sys2Proof.Machine

namespace Sys2Proof.Machine

open Sys2Proof

/-! # The launch law (O46) -/

/-! ## The order of the candidates -/

/-- R59: the greater D, then the lower stage index, then the lower context. -/
def Cand.Outranks (a b : Cand) : Prop := b.d < a.d ∨ (a.d = b.d ∧ (a.stage < b.stage ∨ (a.stage = b.stage ∧ a.ctx < b.ctx)))

theorem Cand.before_iff (a b : Cand) : a.before b = true ↔
    (a.pressed = true ∧ b.pressed = false) ∨ (a.pressed = false ∧ b.pressed = false ∧ a.Outranks b) ∨
    (a.pressed = true ∧ b.pressed = true ∧ (a.park.toNat < b.park.toNat ∨ (a.park.toNat = b.park.toNat ∧ a.Outranks b))) := by
  unfold Cand.before Cand.Outranks
  cases a.pressed <;> cases b.pressed <;> simp [BitVec.toNat_inj]

theorem Cand.not_before_self (a : Cand) : a.before a = false := by
  rw [← Bool.not_eq_true, Cand.before_iff]
  unfold Cand.Outranks
  cases a.pressed <;> simp

theorem Cand.before_asymm {a b : Cand} (h : a.before b = true) : b.before a = false := by
  rw [Cand.before_iff] at h
  rw [← Bool.not_eq_true, Cand.before_iff]
  unfold Cand.Outranks at *
  cases ha : a.pressed <;> cases hb : b.pressed <;>
    simp only [ha, hb, Bool.false_eq_true, reduceCtorEq, true_and, false_and, or_false, false_or, not_false_eq_true] at h ⊢ <;> omega

/-- What does not go before a candidate that does not go before a third one does not go before the third one either. -/
theorem Cand.not_before_trans {a b c : Cand} (hab : a.before b = false) (hbc : b.before c = false) : a.before c = false := by
  rw [← Bool.not_eq_true, Cand.before_iff] at *
  unfold Cand.Outranks at *
  cases ha : a.pressed <;> cases hb : b.pressed <;> cases hc : c.pressed <;>
    simp only [ha, hb, hc, Bool.false_eq_true, reduceCtorEq, true_and, false_and, or_false, false_or, not_false_eq_true,
      not_true_eq_false] at hab hbc ⊢ <;> omega

/-- The choice is one of the candidates, and none goes before it (R59). -/
theorem bestCand_spec {c : Cand} : ∀ {xs : List Cand}, bestCand xs = some c → c ∈ xs ∧ ∀ d ∈ xs, d.before c = false
  | x :: xs, h => by
    rw [bestCand] at h
    cases hb : bestCand xs with
    | none =>
      obtain rfl : x = c := by simpa [hb] using h
      have hnil : xs = [] := by
        cases xs with
        | nil => rfl
        | cons z zs => rw [bestCand] at hb; split at hb <;> [skip; split at hb] <;> simp at hb
      simp [hnil, Cand.not_before_self]
    | some y =>
      obtain ⟨hmem, hbest⟩ := bestCand_spec hb
      simp only [hb] at h
      split at h
      · next hyx =>
        obtain rfl := Option.some.inj h
        refine ⟨List.mem_cons_of_mem _ hmem, fun d hd => ?_⟩
        rcases List.mem_cons.mp hd with rfl | hd
        · exact Cand.before_asymm hyx
        · exact hbest d hd
      · next hyx =>
        obtain rfl := Option.some.inj h
        refine ⟨List.mem_cons_self, fun d hd => ?_⟩
        rcases List.mem_cons.mp hd with rfl | hd
        · exact Cand.not_before_self _
        · exact Cand.not_before_trans (hbest d hd) (Bool.not_eq_true _ ▸ hyx)

theorem State.launchLaw_spec {s : State} {part core : Nat} {c : Cand} (h : s.launchLaw part core = some c) :
    (∃ x ∈ s.stagesOf part, s.eligible part core x.1 x.2.1 x.2.2 = some c) ∧
    ∀ x ∈ s.stagesOf part, ∀ d, s.eligible part core x.1 x.2.1 x.2.2 = some d → d.before c = false := by
  obtain ⟨hmem, hbest⟩ := bestCand_spec h
  exact ⟨List.mem_filterMap.mp hmem, fun x hx d hd => hbest d (List.mem_filterMap.mpr ⟨x, hx, hd⟩)⟩

theorem State.eligible_ctx {s : State} {part core ctx idx : Nat} {st : Stage} {c : Cand}
    (h : s.eligible part core ctx idx st = some c) : c.ctx = ctx ∧ c.stage = idx := by
  unfold State.eligible at h
  dsimp only at h
  split at h
  · simp at h
  · split at h
    · simp at h
    · split at h
      · obtain rfl := Option.some.inj h; exact ⟨rfl, rfl⟩
      · simp at h

/-! ## What the start of a team leaves as it was -/

/-- The teams, the runs and the queues are the same. -/
def SameForm (s t : State) : Prop := t.sch.teams = s.sch.teams ∧ t.sch.runs = s.sch.runs ∧ t.gr.queues = s.gr.queues

namespace SameForm

variable {s t u : State}

theorem refl (s : State) : SameForm s s := ⟨rfl, rfl, rfl⟩

theorem trans (h : SameForm s t) (h' : SameForm t u) : SameForm s u := by
  obtain ⟨h1, h2, h3⟩ := h
  obtain ⟨h1', h2', h3'⟩ := h'
  exact ⟨h1'.trans h1, h2'.trans h2, h3'.trans h3⟩

theorem foldl {β : Type} {f : State → β → State} (hf : ∀ s x, SameForm s (f s x)) (s : State) (xs : List β) :
    SameForm s (xs.foldl f s) :=
  foldl_keeps (SameForm s) f (fun t x ht => ht.trans (hf t x)) xs s (refl s)

theorem ite {c : Prop} [Decidable c] (ht : SameForm s t) (hu : SameForm s u) : SameForm s (if c then t else u) := by
  split
  · exact ht
  · exact hu

end SameForm

theorem sameForm_vSet (s : State) (t : TRef) (n : Nat) (x : Word) : SameForm s (s.vSet t n x) := ⟨rfl, rfl, rfl⟩
theorem sameForm_setTileLbl (s : State) (g : GRef) (k : Tile) (l : Label) : SameForm s (s.setTileLbl g k l) := ⟨rfl, rfl, rfl⟩
theorem sameForm_dropL1 (s : State) (core part : Nat) (line : Loc) : SameForm s (s.dropL1 core part line) := ⟨rfl, rfl, rfl⟩
theorem sameForm_acquireAt (s : State) (core part rank : Nat) : SameForm s (s.acquireAt core part rank) := ⟨rfl, rfl, rfl⟩

theorem sameForm_startThread (s : State) (tid : Nat) (st : Stage) (x : Seed) (grp lane : Nat) :
    SameForm s (s.startThread tid st x grp lane) := by
  have hdeal (u : State) (ws : List (Word × Nat)) (t : TRef) : SameForm u (ws.foldl (fun s w => s.vSet t w.2 w.1) u) :=
    SameForm.foldl (fun s w => sameForm_vSet s t w.2 w.1) u ws
  exact (hdeal (s.setThr ⟨tid, grp, lane⟩ _) _ _).trans (.ite ⟨rfl, rfl, rfl⟩ (.refl _))

theorem sameForm_startPath (s : State) (tid : Nat) (st : Stage) (late grp : Nat) (g : Group) (quad : Nat) (all mask : BitVec 64) :
    SameForm s (s.startPath tid st late grp g quad all mask) := by
  unfold State.startPath
  exact .ite (.refl _) ⟨rfl, rfl, rfl⟩

theorem sameForm_startGroup (s : State) (tid : Nat) (st : Stage) (x : Seed) (grp : Nat) (g : Group) :
    SameForm s (s.startGroup tid st x grp g) := by
  have hthreads (u : State) (is : List Nat) : SameForm u (is.foldl (fun s i => s.startThread tid st x grp i) u) :=
    SameForm.foldl (fun _ _ => sameForm_startThread ..) u is
  have hlabels (u : State) (ns : List Nat) (l : Label) : SameForm u (ns.foldl (fun s n => s.setTileLbl ⟨tid, grp⟩ (.v n) l) u) :=
    SameForm.foldl (fun s n => sameForm_setTileLbl s ⟨tid, grp⟩ (.v n) l) u ns
  have hpaths (u : State) (all : BitVec 64) (qs : List (Nat × BitVec 64)) :
      SameForm u (qs.foldl (fun s q => s.startPath tid st x.late grp g q.1 all (all &&& q.2)) u) :=
    SameForm.foldl (fun _ _ => sameForm_startPath ..) u qs
  have hgroup : SameForm s { s with sch.groups := mset s.sch.groups ⟨tid, grp⟩ g } := ⟨rfl, rfl, rfl⟩
  exact (hgroup.trans (hthreads _ _)).trans ((SameForm.ite (.refl _) (hlabels _ _ _)).trans
    (SameForm.trans (t := (State.sSet _ _ 0 x.s0).setTileLbl _ (.s 0) x.sLbl) ⟨rfl, rfl, rfl⟩ (hpaths _ _ _)))

theorem sameForm_trimL1 (s : State) (part core : Nat) : SameForm s (s.trimL1 part core) :=
  SameForm.foldl (f := fun s (y : L1Line) => s.dropL1 core part y.line) (fun s y => sameForm_dropL1 s core part y.line) s _

theorem sameForm_startAcquire (s : State) (part : Nat) (f : Fit) (x : Seed) : SameForm s (s.startAcquire part f x) :=
  SameForm.foldl (fun s c => sameForm_acquireAt s c part _) s _

/-- A team of a launch record starts under its handle; no other team, no run and no queue changes (R61, R70). -/
theorem sameForm_startTeam (s : State) (tid : Nat) (st : Stage) (x : Seed) (f : Fit) (hx : x.recs = []) :
    SameForm { s with sch.teams := mset s.sch.teams tid (Team.start st x f s.clk.tclk) } (s.startTeam tid st x f) := by
  have hgroups (u : State) (t : Team) (ps : List ((Nat × Spot) × Nat)) :
      SameForm u (ps.foldl (fun s p => s.startGroup tid st x p.2 (t.group st p.2 p.1)) u) :=
    SameForm.foldl (fun _ _ => sameForm_startGroup ..) u ps
  have htrim (u : State) (cs : List Nat) : SameForm u (cs.foldl (fun s c => s.trimL1 x.part c) u) :=
    SameForm.foldl (fun _ _ => sameForm_trimL1 ..) u cs
  have hdeal (u : State) : u.dealAreas tid st x.recs = u := by rw [hx]; rfl
  unfold State.startTeam
  dsimp only
  rw [hdeal]
  exact ((hgroups _ _ _).trans (htrim _ _)).trans (sameForm_startAcquire ..)

/-- R18: the %team of the next team of a run, and the runs with that team counted. -/
theorem State.nextTeam_of_some {s : State} {n : Nat} {r : Run} (h : mget? s.sch.runs n = some r) :
    s.nextTeam n = (r.next, { s with sch.runs := mset s.sch.runs n { r with next := r.next + 1 } }) := by
  unfold State.nextTeam; rw [h]

theorem State.nextTeam_frame (s : State) (n : Nat) : (s.nextTeam n).2 = { s with sch.runs := (s.nextTeam n).2.sch.runs } := by
  unfold State.nextTeam; split <;> rfl

/-- R70: what a team of a launch record is formed of. -/
def LRec.seed (lr : LRec) (team : Word) (late : Nat) : Seed := ⟨lr.part, lr.ctx, lr.stage, lr.run, team, [], some lr, late⟩

/-- A team of a launch record (R18, R60, R70). -/
theorem State.formOfLaunch_spec (s : State) (st : Stage) (f : Fit) (lr : LRec) (late : Nat) :
    let w := s.formOfLaunch st f lr late
    w.gr.queues = s.gr.queues ∧ w.sch.runs = (s.nextTeam lr.run).2.sch.runs ∧
    w.sch.teams = mset s.sch.teams s.clk.fresh (Team.start st (lr.seed (s.nextTeam lr.run).1 late) f s.clk.tclk) := by
  intro w
  have hstart := sameForm_startTeam (s.nextTeam lr.run).2.freshId.2 (s.nextTeam lr.run).2.freshId.1 st
    (lr.seed (s.nextTeam lr.run).1 late) f rfl
  obtain ⟨hteams, hruns, hqueues⟩ := hstart
  have hframe := s.nextTeam_frame lr.run
  have hclk : (s.nextTeam lr.run).2.clk = s.clk := by rw [hframe]
  refine ⟨?_, hruns, ?_⟩
  · rw [show w.gr.queues = _ from hqueues]
    show (s.nextTeam lr.run).2.gr.queues = _
    rw [hframe]
  · rw [show w.sch.teams = _ from hteams]
    show mset (s.nextTeam lr.run).2.sch.teams (s.nextTeam lr.run).2.clk.fresh (Team.start _ _ _ (s.nextTeam lr.run).2.clk.tclk) = _
    rw [hclk, show (s.nextTeam lr.run).2.sch.teams = s.sch.teams by rw [hframe]]

/-! ## The decision of a core -/

theorem exec_slotDecision {s : State} {part core : Nat} (hd : s.droppedNow part core = false) :
    LeadsTo s (.slotDecision part core) (match s.launchLaw part core with | some c => s.placeCand part core c | none => s) := by
  show Host.Outcome.next _ = _
  rw [hd]
  rfl

/-- R62: is a stage's partial batch of a queue overdue? -/
def State.batchLate (s : State) (k : QKey) : Bool :=
  (s.stagesOf k.part).any fun x => x.1 = k.ctx && s.inputOf k.part x.1 x.2.1 x.2.2 = k && s.batchOver k x.2.2

theorem State.batchLate_iff {s : State} {k : QKey} : s.batchLate k = true ↔
    ∃ x ∈ s.stagesOf k.part, x.1 = k.ctx ∧ s.inputOf k.part x.1 x.2.1 x.2.2 = k ∧ s.batchOver k x.2.2 = true := by
  simp [State.batchLate, and_assoc]

theorem exec_batchwaitExpiry_none {s : State} {k : QKey} (h : s.batchLate k = false) : LeadsTo s (.batchwaitExpiry k) s := by
  show Host.Outcome.next _ = _
  unfold State.batchLate at h
  rw [h]
  simp only [Bool.false_and]
  split <;> [split; skip] <;> rfl

theorem exec_batchwaitExpiry {s : State} {k : QKey} {core : Nat} {c : Cand} (h : s.batchLate k = true)
    (hf : ((s.part k.part).corelim.map (·.1)).find? (fun core => (s.launchLaw k.part core).isSome) = some core)
    (hd : s.droppedNow k.part core = false) (hc : s.launchLaw k.part core = some c) :
    LeadsTo s (.batchwaitExpiry k) (s.placeCand k.part core c) := by
  show Host.Outcome.next _ = _
  unfold State.batchLate at h
  rw [h]
  simp only [hf, hc, hd]
  rfl

theorem Queue.pop?_of_head {q : Queue} {x : QRec} (h : q.head? = some x) : ∃ p rest, q.from? = some p ∧ q.pop? =
    some (x, { q with rings := setAt q.rings p fun _ => rest }) := by
  obtain ⟨p, hp, hx⟩ := Option.bind_eq_some_iff.mp h
  obtain ⟨rest, hr⟩ := List.head?_eq_some_iff.mp hx
  exact ⟨p, rest, hp, by unfold Queue.pop?; simp only [hp, hr]⟩

theorem Queue.pop?_waiting {q r : Queue} {x : QRec} (h : q.pop? = some (x, r)) : r.waiting = q.waiting := by
  unfold Queue.pop? at h
  split at h
  · simp at h
  · split at h
    · simp at h
    · obtain ⟨-, rfl⟩ := Prod.mk.inj (Option.some.inj h); rfl

theorem Queue.resumeRefill_now (q : Queue) (now : Nat) : q.resumeRefill now now = q := by simp [Queue.resumeRefill]

/-- The last team of the launch record at the head of a queue at which nothing waits (R60, R70). -/
theorem State.formLaunch_last {s : State} {part core : Nat} {c : Cand} {k : QKey} {q rest : Queue} {x u : QRec} {lr : LRec}
    (hq : s.queue? k = some q) (hwaits : q.waits = false) (hhead : q.head? = some x) (hl : x.launch = some lr) (hleft : x.left = 1)
    (hpop : q.pop? = some (u, rest)) (hw : q.waiting = []) :
    s.formLaunch part core c k = ((s.subView core k 1).setQueue k fun _ => rest).formOfLaunch c.st c.fit lr 0 := by
  have hidle : ((s.subView core k 1).setQueue k fun _ => rest).serveQueue k 4096 = (s.subView core k 1).setQueue k fun _ => rest :=
    State.serveQueue_setQueue (s := s.subView core k 1) hq ((Queue.pop?_waiting hpop).trans hw) 4096
  have hawait : q.awaitRefill s.clk.cycle = (q, s.clk.cycle) := by simp [Queue.awaitRefill, hwaits]
  have hlate : lateBy s.clk.cycle s.clk.cycle = 0 := by simp [lateBy]
  unfold State.formLaunch
  simp only [hq, hawait, Queue.resumeRefill_now, hhead, hpop, hl, hleft, hlate, lt_irrefl, if_false, hidle]

/-- Settles O46: the choice by `State.launchLaw_spec`, the team of a launch record by `State.formOfLaunch_spec`. -/
theorem launchLaw : Obligations.LaunchLaw := by
  unfold Obligations.LaunchLaw
  intro s
  refine ⟨fun part core hd => ?_, fun part core hd hc => ?_, fun part core c hd hc => ⟨?_, ?_, fun x hx d hd _ => .inl ?_⟩,
    fun k core c hf hd hc hx => ?_, fun k hnone => ?_, ?_⟩
  · show Host.Outcome.next _ = _
    rw [hd]; rfl
  · have := exec_slotDecision hd; rwa [hc] at this
  · have := exec_slotDecision hd; rwa [hc] at this
  · obtain ⟨⟨x, hx, he⟩, -⟩ := State.launchLaw_spec hc
    obtain ⟨hctx, hstage⟩ := State.eligible_ctx he
    exact ⟨x.2.1, x.2.2, hctx ▸ hx, hctx ▸ he⟩
  · exact (State.launchLaw_spec hc).2 x hx d hd
  · exact exec_batchwaitExpiry (State.batchLate_iff.mpr hx) hf hd hc
  · refine exec_batchwaitExpiry_none (Bool.eq_false_iff.mpr fun h => ?_)
    obtain ⟨x, hx, hctx, hk, hover⟩ := State.batchLate_iff.mp h
    exact absurd hover (by rw [hnone x hx hctx hk]; decide)
  · intro part core c lr q hd hc hkind hsaved k hq hwaits hlr hleft hw
    obtain ⟨x, hhead, hl⟩ := Option.bind_eq_some_iff.mp hlr
    have hx : x.left = 1 := by simpa [hhead] using hleft
    obtain ⟨p, ring, -, hpop⟩ := Queue.pop?_of_head hhead
    let rest : Queue := { q with rings := setAt q.rings p fun _ => ring }
    let w := ((s.subView core k 1).setQueue k fun _ => rest).formOfLaunch c.st c.fit lr 0
    have hexec : LeadsTo s (.slotDecision part core) w := by
      have := exec_slotDecision hd
      rw [hc] at this
      refine this.trans (congrArg Host.Outcome.next ?_)
      unfold State.placeCand
      simp only [hsaved, hkind, if_true]
      exact State.formLaunch_last hq hwaits hhead hl hx hpop hw
    let v := (s.subView core k 1).setQueue k fun _ => rest
    have hv : v = { s.subView core k 1 with gr.queues := v.gr.queues } := State.setQueue_frame ..
    obtain ⟨hqueues, hruns, hteams⟩ := v.formOfLaunch_spec c.st c.fit lr 0
    have hfresh : v.clk = s.clk := by rw [hv]; rfl
    have hnow : v.clk.tclk = s.clk.tclk := by rw [hfresh]
    have hteam (n : Nat) : w.team? n = if n = s.clk.fresh then some (Team.start c.st (lr.seed (v.nextTeam lr.run).1 0) c.fit v.clk.tclk)
        else s.team? n := by
      show mget? w.sch.teams n = _
      rw [show w.sch.teams = _ from hteams, mget?_mset, hfresh, show v.sch.teams = s.sch.teams by rw [hv]; rfl]
      rfl
    have hqueue : w.queue? k = some (rest.startRefill s.clk.cycle) := by
      show mget? w.gr.queues k = _
      rw [show w.gr.queues = _ from hqueues]
      exact State.queue?_setQueue_same (s := s.subView core k 1) hq _
    refine ⟨rest, x, w, _, hpop, hexec, rfl, hqueue, (hteam _).trans (if_pos rfl), rfl, rfl, rfl, rfl, rfl, rfl, rfl, rfl, rfl, rfl, rfl,
      hnow, rfl, rfl, rfl, fun r hr => ?_, fun n hn => (hteam n).trans (if_neg hn)⟩
    have hr' : mget? v.sch.runs lr.run = some r := by rw [hv]; exact hr
    have hnext := State.nextTeam_of_some hr'
    refine ⟨?_, ?_⟩
    · show (v.nextTeam lr.run).1 = _
      rw [hnext]
    · rw [show w.sch.runs = _ from hruns, hnext]
      exact mget?_mset_same ..

end Sys2Proof.Machine

namespace Sys2Proof.Machine

open Sys2Proof

/-! # Launch slots (O42) -/

section

variable {s : State} {k : SlotKey}

theorem State.slot_setSlot (s : State) (k j : SlotKey) (f : LSlot → LSlot) :
    (s.setSlot k f).slot j = if j = k then f (s.slot k) else s.slot j := mget_mset ..

theorem State.fn_setFn (s : State) (n m : Nat) (f : Fn → Fn) : (s.setFn n f).fn m = if m = n then f (s.fn n) else s.fn m := mget_mset ..

theorem State.seeSeal_of_idle (h : (s.slot k).wait = none) : s.seeSeal k = s := by
  unfold State.seeSeal; rw [h]

/-- The slot that waits for a seal takes its packet where the seal stands, and waits on where it does not (R355). -/
theorem State.seeSeal_of_wait {seq : Word} {t : DWord} (h : (s.slot k).wait = some (seq, t)) :
    s.seeSeal k = if (s.slot k).sealWord = seq then s.takePacket k seq else s := by
  unfold State.seeSeal; rw [h]

/-- R355: a slot as a notify leaves it, before its seal is read. -/
def State.begun (s : State) (k : SlotKey) (seq : Word) (src : Option (Nat × Nat)) (adm : Option Label) : State :=
  s.setSlot k fun x => { x with busy := true, wait := some (seq, s.clk.tclk + 10000), src := src, adm := adm }

theorem State.slot_begun (seq : Word) (src : Option (Nat × Nat)) (adm : Option Label) : (s.begun k seq src adm).slot k =
    { s.slot k with busy := true, wait := some (seq, s.clk.tclk + 10000), src := src, adm := adm } := by
  rw [State.begun, State.slot_setSlot, if_pos rfl]

theorem State.beginSlot_eq (seq : Word) (src : Option (Nat × Nat)) (adm : Option Label) : s.beginSlot k seq src adm =
    if (s.slot k).sealWord = seq then (s.begun k seq src adm).takePacket k seq else s.begun k seq src adm := by
  have hslot := State.slot_begun (s := s) (k := k) seq src adm
  have hsee := State.seeSeal_of_wait (s := s.begun k seq src adm) (k := k) (congrArg LSlot.wait hslot)
  rw [hslot] at hsee
  exact hsee

end

/-! ## Notifies of the host -/

theorem State.setLerr_eq (s : State) (fn : Nat) {slot cause : Nat} (hs : slot < 64) (hc : cause < 256) :
    s.setLerr fn slot cause 0 = s.setFn fn fun f => { f with lerr := BitVec.ofNat 64 (2 ^ 63 + slot * 2 ^ 40 + cause * 2 ^ 32) } := by
  simp [State.setLerr, lerrWord, Nat.mod_eq_of_lt hs, Nat.mod_eq_of_lt hc]

/-- A NOTIFY whose value is well formed goes through the checks of its slot in order (R355). -/
theorem State.notify_eq (s : State) (fn : Nat) {seq slot : Nat} (h1 : 1 ≤ seq) (h2 : seq < 2 ^ 32) (h3 : slot < 64) :
    s.notify fn 8 (BitVec.ofNat 64 (seq * 2 ^ 32 + slot)) =
      if (s.fn fn).hifsel = 0 then s.setLerr fn 0 7 0
      else if (s.slot ⟨false, fn, slot⟩).busy then s.setLerr fn slot 2 0
      else if (s.slot ⟨false, fn, slot⟩).last = some (BitVec.ofNat 32 seq) then s.setLerr fn slot 3 0
      else s.beginSlot ⟨false, fn, slot⟩ (BitVec.ofNat 32 seq) none none := by
  have hval : (BitVec.ofNat 64 (seq * 2 ^ 32 + slot)).toNat = seq * 2 ^ 32 + slot := by
    rw [BitVec.toNat_ofNat]; omega
  have hseq : (seq * 2 ^ 32 + slot) / 2 ^ 32 = seq := by omega
  have hslot : (seq * 2 ^ 32 + slot) % 64 = slot := by omega
  have hbits : bitsOf (seq * 2 ^ 32 + slot) 6 26 = 0 := by
    rw [bitsOf, Nat.shiftRight_eq_div_pow]; omega
  have hne : (BitVec.ofNat 32 seq) ≠ 0 := by
    intro h
    have := congrArg BitVec.toNat h
    rw [BitVec.toNat_ofNat, Nat.mod_eq_of_lt h2] at this
    simp at this
    omega
  unfold State.notify
  simp only [hval, hseq, hslot, hbits, hne, decide_false, ne_eq, not_true_eq_false, Bool.or_self, Bool.false_eq_true, if_false]

/-! ## Bytes of a slot -/

/-- Values written at the keys of successive addresses. -/
theorem mget_foldl_zipIdx {κ α : Type} [DecidableEq κ] (d : α) {key : Nat → κ} (hkey : Function.Injective key) (off : Nat) (xs : List α)
    (i : Nat) (m : Map κ α) (n : Nat) : mget d ((xs.zipIdx i).foldl (fun m b => mset m (key (off + b.2)) b.1) m) (key n) =
      if off + i ≤ n ∧ n < off + i + xs.length then xs.getD (n - (off + i)) d else mget d m (key n) := by
  induction xs generalizing i m with
  | nil => simp
  | cons x xs ih =>
    rw [List.zipIdx_cons, List.foldl_cons, ih, mget_mset]
    simp only [hkey.eq_iff]
    rcases Nat.lt_trichotomy n (off + i) with h | h | h
    · rw [if_neg (by omega), if_neg (by omega), if_neg (by omega)]
    · rw [if_neg (by omega), if_pos h, if_pos (by simp; omega), h, Nat.sub_self]; rfl
    · rw [if_neg (show ¬ n = off + i by omega), show n - (off + i) = n - (off + (i + 1)) + 1 by omega, List.getD_cons_succ, List.length_cons]
      exact if_congr (by omega) rfl rfl

theorem LSlot.getD_packet (x : LSlot) {n : Nat} (h : n < 128) : x.packet.getD n 0 = mget 0 x.bytes n := by
  simp [LSlot.packet, List.getD_eq_getElem?_getD, h]

/-- Bytes that arrive in a slot stand in its packet (R354). -/
theorem State.packet_slotStore (s : State) (k : SlotKey) (off : Nat) (bs : List Byte) (l : Label) {n : Nat} (h : n < 128) :
    ((s.slotStore k off bs l).slot k).packet.getD n 0 =
      if off ≤ n ∧ n < off + bs.length then bs.getD (n - off) 0 else (s.slot k).packet.getD n 0 := by
  rw [LSlot.getD_packet _ h, LSlot.getD_packet _ h, State.slotStore, State.slot_setSlot, if_pos rfl]
  exact mget_foldl_zipIdx 0 Function.injective_id off bs 0 _ n

/-! ## Refusals -/

/-- The seal of a slot of the host has not come in time (R355). -/
theorem State.slotFail_seal (s : State) {k : SlotKey} (hk : k.peer = false) (seq sv : Word) : s.slotFail k 4 seq sv =
    ((s.setSlot k fun x => { x with busy := false, wait := none, src := none, adm := none }).setLerr k.owner k.slot 4 sv).raiseMsix k.owner 0 := by
  simp [State.slotFail, hk]

/-! ## Records of launches -/

theorem State.freeEntry_of_none {s : State} {tid : Nat} (h : ∀ c ∈ s.sch.lcopies, c.1.tid ≠ tid) (entry : Nat) :
    s.freeEntry tid entry = { s with sch.pendL := s.sch.pendL.filter fun p => !(p.tid = tid && p.entry = entry) } := by
  have hnone : s.sch.lcopies.find? (fun c => c.1.tid = tid) = none := by simpa using h
  unfold State.freeEntry
  dsimp only
  rw [hnone]

theorem State.ackGang_of_none (s : State) {lr : LRec} (h : lr.gang = none) : s.ackGang lr = s := by
  unfold State.ackGang; rw [h]

/-- R70: the count of teams that a launch record asks for, and its run as it opens. -/
def LRec.total (lr : LRec) : Nat := bitsOf (leNat (lr.bytes.take 4)) 0 13
def LRec.opened (lr : LRec) (k : QKey) : Run :=
  { part := k.part, ctx := k.ctx, stage := k.idx, total := some lr.total, next := 0, ended := 0, stores := 0,
    terminated := false, reported := false, arc := BitVec.ofNat 64 (leNat ((lr.bytes.drop 0x10).take 8)) }

/-- An accepted record outside gangs opens its run and takes its place, and nothing else changes (R70, R316). -/
theorem State.acceptLaunch_spec {s : State} {k : QKey} {q : Queue} {lr : LRec} (hq : s.queue? k = some q) (hg : lr.gang = none) :
    let u := s.acceptLaunch k lr
    u = { s with clk.fresh := s.clk.fresh + 1, sch.runs := mset s.sch.runs s.clk.fresh (lr.opened k), gr.queues := u.gr.queues } ∧
    u.queue? k = some (Queue.startRefill { (q.put 0 ⟨q.next, ⟨lr.bytes, lr.lbl, lr.mark⟩, s.clk.tclk,
      some { lr with run := s.clk.fresh }, lr.total⟩).startRefill s.clk.cycle with accepted := s.clk.cycle + 1 } s.clk.cycle) ∧
    ∀ j, j ≠ k → u.queue? j = s.queue? j := by
  intro u
  let v : State := { s with clk.fresh := s.clk.fresh + 1, sch.runs := mset s.sch.runs s.clk.fresh (lr.opened k) }
  let placed := v.placeRec k 0 ⟨lr.bytes, lr.lbl, lr.mark⟩ (some { lr with run := s.clk.fresh }) lr.total
  have hframe : placed = _ := State.setQueue_frame ..
  have hplaced := State.queue?_placeRec (s := v) hq 0 ⟨lr.bytes, lr.lbl, lr.mark⟩ (some { lr with run := s.clk.fresh }) lr.total
  have hclk : placed.clk.cycle = s.clk.cycle := by rw [hframe]
  have hu : u = placed.setQueue k fun q => { q with accepted := s.clk.cycle + 1 } := by rw [← hclk]; exact State.ackGang_of_none _ hg
  refine ⟨?_, ?_, fun j hj => ?_⟩
  · rw [hu, State.setQueue_frame, hframe]
  · rw [hu]
    have := State.queue?_setQueue_same hplaced fun q => { q with accepted := s.clk.cycle + 1 }
    rw [hclk] at this
    exact this
  · rw [hu, State.queue?_setQueue_other hj]
    exact State.queue?_setQueue_other (s := v) hj _

/-! ## Gangs -/

theorem State.gang?_setGang (s : State) (origin : Nat) (id : Word) (f : Gang → Gang) (hf : ∀ g, (f g).origin = g.origin ∧ (f g).id = g.id) :
    (s.setGang origin id f).gang? origin id = (s.gang? origin id).map f := by
  unfold State.gang? State.setGang
  dsimp only
  induction s.y.gangs with
  | nil => rfl
  | cons g gs ih =>
    obtain ⟨ho, hi⟩ := hf g
    by_cases h : g.origin = origin && g.id = id
    · simp only [List.map_cons, h, if_true, List.find?_cons, ho, hi, Option.map_some]
    · simp only [List.map_cons, h, if_false, List.find?_cons, Bool.false_eq_true]
      exact ih

/-- The gangs, the teams and the queues are the same. -/
def SameGangs (s t : State) : Prop := t.y.gangs = s.y.gangs ∧ t.sch.teams = s.sch.teams ∧ t.gr.queues = s.gr.queues

namespace SameGangs

variable {s t u : State}

theorem refl (s : State) : SameGangs s s := ⟨rfl, rfl, rfl⟩

theorem trans (h : SameGangs s t) (h' : SameGangs t u) : SameGangs s u := by
  obtain ⟨h1, h2, h3⟩ := h
  obtain ⟨h1', h2', h3'⟩ := h'
  exact ⟨h1'.trans h1, h2'.trans h2, h3'.trans h3⟩

theorem foldl {β : Type} {f : State → β → State} (hf : ∀ s x, SameGangs s (f s x)) (s : State) (xs : List β) :
    SameGangs s (xs.foldl f s) :=
  foldl_keeps (SameGangs s) f (fun t x ht => ht.trans (hf t x)) xs s (refl s)

end SameGangs

theorem sameGangs_putLoc (s : State) (l : Loc) (bs : List Byte) : SameGangs s (s.putLoc l bs) := by
  unfold State.putLoc; split <;> exact ⟨rfl, rfl, rfl⟩

theorem sameGangs_sendReq (s : State) (r : OutReq) : SameGangs s (s.sendReq r) := ⟨rfl, rfl, rfl⟩

theorem sameGangs_joinWct (s : State) (t : TRef) (w : DWord) : SameGangs s (s.joinWct t w) := ⟨rfl, rfl, rfl⟩

theorem sameGangs_writeBack (s : State) (x : L1Line) : SameGangs s (s.writeBack x) := by
  unfold State.writeBack
  split
  · exact .refl s
  · split
    · exact .refl s
    · refine SameGangs.foldl (fun s r => ?_) s _
      split
      · exact sameGangs_sendReq ..
      · exact sameGangs_putLoc ..

theorem sameGangs_flushPin (s : State) (x : L1Line) (ts : List TRef) : SameGangs s (s.flushPin x ts) := by
  unfold State.flushPin
  split
  · exact sameGangs_writeBack s x
  · exact (sameGangs_writeBack s x).trans (SameGangs.foldl (fun s t => sameGangs_joinWct s t _) _ ts)

theorem sameGangs_unpinAll (s : State) (tid : Nat) : SameGangs s (s.unpinAll tid) :=
  (SameGangs.foldl (fun u x => sameGangs_flushPin u x (u.liveOf tid)) s _).trans ⟨rfl, rfl, rfl⟩

theorem sameGangs_report (s : State) (fn : Nat) (r : Rep) : SameGangs s (s.report fn r) := by
  unfold State.report State.postRecord
  dsimp only
  split
  · exact .refl s
  · split
    · exact ⟨rfl, rfl, rfl⟩
    · split <;> exact ⟨rfl, rfl, rfl⟩

theorem sameGangs_freeSlot (s : State) (k : SlotKey) (seq : Word) : SameGangs s (s.freeSlot k seq) := ⟨rfl, rfl, rfl⟩

theorem sameGangs_freeGangSlots (s : State) (origin : Nat) (id : Word) : SameGangs s (s.freeGangSlots origin id) := by
  refine SameGangs.foldl (fun s kv => SameGangs.foldl (fun s w => ?_) s _) s _
  split
  · split
    · exact sameGangs_freeSlot ..
    · exact .refl s
  · exact .refl s

section

variable {κ α : Type} [DecidableEq κ]

theorem mem_mdel_iff {m : Map κ α} {k : κ} {kv : κ × α} : kv ∈ mdel m k ↔ kv ∈ m ∧ kv.1 ≠ k := by
  induction m with
  | nil => simp [mdel]
  | cons p m ih =>
    by_cases h : p.1 = k
    · simp only [mdel, h, if_true, ih, List.mem_cons]
      exact ⟨fun ⟨hm, hk⟩ => ⟨.inr hm, hk⟩, fun ⟨hm, hk⟩ => ⟨hm.resolve_left fun e => hk (e ▸ h), hk⟩⟩
    · simp only [mdel, h, if_false, List.mem_cons, ih]
      exact ⟨fun hm => hm.elim (fun e => ⟨.inl e, e ▸ h⟩) fun ⟨hm, hk⟩ => ⟨.inr hm, hk⟩,
        fun ⟨hm, hk⟩ => hm.imp_right fun hm => ⟨hm, hk⟩⟩

theorem key_ne_of_mget?_none {m : Map κ α} {k : κ} (h : mget? m k = none) {kv : κ × α} (hm : kv ∈ m) : kv.1 ≠ k := by
  induction m with
  | nil => simp at hm
  | cons p m ih =>
    by_cases hp : p.1 = k
    · simp [mget?, hp] at h
    · simp only [mget?, hp, if_false] at h
      rcases List.mem_cons.mp hm with rfl | hm
      · exact hp
      · exact ih h hm

end

/-- No launch queue holds a record of a gang. -/
def NoneOfGang (origin : Nat) (id : Word) (m : Map QKey Queue) : Prop :=
  ∀ kv ∈ m, ∀ ring ∈ kv.2.rings ++ kv.2.cellars, ∀ x ∈ ring, ∀ lr, x.launch = some lr → ofGang origin id lr.gang = false

section

variable {origin : Nat} {id : Word}

theorem noneOfGang_dropGang (m : Map QKey Queue) : NoneOfGang origin id (m.map fun kv => (kv.1, kv.2.dropGang origin id)) := by
  intro kv hkv ring hring x hx lr hlr
  obtain ⟨kv, -, rfl⟩ := List.mem_map.mp hkv
  simp only [Queue.dropGang, ← List.map_append, List.mem_map] at hring
  obtain ⟨ring, -, rfl⟩ := hring
  simpa [hlr] using (List.mem_filter.mp hx).2

theorem noneOfGang_dropPaths {m : Map QKey Queue} (h : NoneOfGang origin id m) (pids : List Nat) :
    NoneOfGang origin id (m.map fun kv => (kv.1, kv.2.dropPaths pids)) := by
  intro kv hkv
  obtain ⟨kv, hm, rfl⟩ := List.mem_map.mp hkv
  exact h kv hm

theorem State.runEnd_frame (s : State) (run : Nat) (b : Bool) : s.runEnd run b = { s with sch.runs := (s.runEnd run b).sch.runs } := by
  unfold State.runEnd; split <;> rfl

/-- What the end of a team leaves of the gangs, the teams and the launch queues (R39). -/
theorem State.terminate_spec (s : State) (tid : Nat) :
    (s.terminate tid).y.gangs = s.y.gangs ∧ (∀ kv, kv ∈ (s.terminate tid).sch.teams ↔ kv ∈ s.sch.teams ∧ kv.1 ≠ tid) ∧
    (NoneOfGang origin id s.gr.queues → NoneOfGang origin id (s.terminate tid).gr.queues) := by
  cases ht : s.team? tid with
  | none =>
    have hself : s.terminate tid = s := by unfold State.terminate; rw [ht]
    rw [hself]
    exact ⟨rfl, fun kv => ⟨fun h => ⟨h, key_ne_of_mget?_none ht h⟩, fun h => h.1⟩, fun h => h⟩
  | some t =>
    obtain ⟨hgangs, hteams, hqueues⟩ := sameGangs_unpinAll s tid
    let u : State := { s.unpinAll tid with sch.pendL := (s.unpinAll tid).sch.pendL.filter fun (p : PendLaunch) => p.tid ≠ tid }
    have hself : s.terminate tid = ((u.freeTeam tid).runEnd t.run true).freeImage t.part tid := by
      unfold State.terminate; rw [ht]
    rw [hself, State.runEnd_frame]
    refine ⟨hgangs, fun kv => ?_, fun h => ?_⟩
    · rw [← hteams]; exact mem_mdel_iff
    · exact noneOfGang_dropPaths (hqueues ▸ h) _

theorem State.terminates_spec (s : State) (ts : List (Nat × Team)) :
    let t := ts.foldl (fun s kv => s.terminate kv.1) s
    t.y.gangs = s.y.gangs ∧ (∀ kv, kv ∈ t.sch.teams ↔ kv ∈ s.sch.teams ∧ ∀ x ∈ ts, x.1 ≠ kv.1) ∧
    (NoneOfGang origin id s.gr.queues → NoneOfGang origin id t.gr.queues) := by
  induction ts generalizing s with
  | nil => simp
  | cons x ts ih =>
    obtain ⟨hgangs, hteams, hqueues⟩ := ih (s.terminate x.1)
    obtain ⟨hgangs', hteams', hqueues'⟩ := s.terminate_spec (origin := origin) (id := id) x.1
    refine ⟨hgangs.trans hgangs', fun kv => (hteams kv).trans ?_, hqueues ∘ hqueues'⟩
    rw [hteams', List.forall_mem_cons, and_assoc, ne_comm]

/-- What the abort of a gang leaves: the gangs as they were, the teams outside it, and no record of it (R73). -/
theorem State.abortHere_spec (s : State) (failed : List Nat) :
    let t := s.abortHere origin id failed
    t.y.gangs = s.y.gangs ∧
    (∀ kv, kv ∈ t.sch.teams ↔ kv ∈ s.sch.teams ∧ ∀ x ∈ s.sch.teams, x.1 = kv.1 → ofGang origin id x.2.gang = false) ∧
    NoneOfGang origin id t.gr.queues := by
  intro t
  let ts := s.sch.teams.filter fun kv => ofGang origin id kv.2.gang
  let freed := s.freeGangSlots origin id
  let dropped : State := { freed with gr.queues := freed.gr.queues.map fun kv => (kv.1, kv.2.dropGang origin id) }
  let ended := ts.foldl (fun s kv => s.terminate kv.1) dropped
  have hreports : SameGangs ended t :=
    SameGangs.foldl (fun u c => SameGangs.foldl (fun u st => sameGangs_report u _ _) u _) ended _
  obtain ⟨hgangs, hteams, hqueues⟩ := hreports
  obtain ⟨hfgangs, hfteams, -⟩ := sameGangs_freeGangSlots s origin id
  obtain ⟨hegangs, heteams, hequeues⟩ := dropped.terminates_spec (origin := origin) (id := id) ts
  refine ⟨hgangs.trans (hegangs.trans hfgangs), fun kv => ?_, ?_⟩
  · rw [hteams, heteams, show dropped.sch.teams = s.sch.teams from hfteams]
    refine and_congr_right fun _ => ⟨fun h x hx hk => ?_, fun h x hx hk => ?_⟩
    · exact Bool.eq_false_iff.mpr fun hg => h x (List.mem_filter.mpr ⟨hx, hg⟩) hk
    · obtain ⟨hx, hg⟩ := List.mem_filter.mp hx
      exact absurd hg (by rw [h x hx hk]; decide)
  · rw [hqueues]
    exact hequeues (noneOfGang_dropGang _)

end

/-! ## The events and the messages -/

section

variable {s : State}

theorem exec_notifyWrite {fn bytes : Nat} {val : DWord} (hup : s.fnUp fn = true) :
    LeadsTo s (.notifyWrite fn bytes val) (s.notify fn bytes val) := by
  show Host.Outcome.next _ = _
  rw [hup]; rfl

theorem exec_launchSlotWrite {fn slot off : Nat} {data : List Byte} (hup : s.fnUp fn = true) (hs : slot < 64)
    (hl : off + data.length ≤ 128) : LeadsTo s (.launchSlotWrite fn slot off data)
      ((s.slotStore ⟨false, fn, slot⟩ off data 0).seeSeal ⟨false, fn, slot⟩) := by
  show Host.Outcome.next _ = _
  simp only [hup, hs, hl, decide_true, Bool.and_self, if_true]

theorem exec_sealWaitTimeout {k : SlotKey} {seq : Word} {t : DWord} (h : (s.slot k).wait = some (seq, t)) :
    LeadsTo s (.sealWaitTimeout k) (if t.toNat ≤ s.clk.tclk.toNat then s.slotFail k 4 seq (s.slot k).sealWord else s) := by
  show Host.Outcome.next _ = _
  rw [h]

theorem exec_notifyMsg {h : MsgHdr} {e : Nat} (hok : s.msgOk h = true) (he : s.aclEntry h.tpart h.spart h.sstation = some e)
    (seq : Word) (slot : Nat) : LeadsTo s (.notifyMsg h seq slot) (
      let k : SlotKey := ⟨true, h.tpart, slot % 64⟩
      if aclLaunch e = false then s.sendRefuse h 8 seq
      else if seq = 0 || 64 ≤ slot then s.sendRefuse h 1 seq
      else if (s.slot k).busy then s.sendRefuse h 2 seq
      else if (s.slot k).last = some seq then s.sendRefuse h 3 seq
      else s.beginSlot k seq (some (h.sstation, h.spart)) (some (aclMax e))) := by
  refine (leadsTo_of_msg_taken rfl hok).trans (congrArg Host.Outcome.next ?_)
  dsimp only
  rw [he]
  cases hl : aclLaunch e <;> simp [Option.filter, hl]

theorem exec_launchRecordAccept {k : QKey} : exec (.launchRecordAccept k) s = .next (match s.nextEntry k with
    | some p => if s.entryDue p then s.acceptEntry k p else s.serveQueue k 4096
    | none => s.serveQueue k 4096) := rfl

/-- The record of an entry that is due enters a queue that has room for it (R70, R316). -/
theorem State.acceptEntry_spec {k : QKey} {p : PendLaunch} {q : Queue} (hq : s.queue? k = some q) (hw : q.waiting = [])
    (hf : q.fits 0 1 = true) (ha : q.accepted ≤ s.clk.cycle) (hg : p.lr.gang = none) (hl : ∀ c ∈ s.sch.lcopies, c.1.tid ≠ p.tid) :
    let u := s.acceptEntry k p
    u = { s with clk.fresh := s.clk.fresh + 1, sch.runs := mset s.sch.runs s.clk.fresh (p.lr.opened k), gr.queues := u.gr.queues,
                 sch.pendL := s.sch.pendL.filter fun x => !(x.tid = p.tid && x.entry = p.entry) } ∧
    u.queue? k = some (Queue.startRefill { (q.put 0 ⟨q.next, ⟨p.lr.bytes, p.lr.lbl, p.lr.mark⟩, s.clk.tclk,
      some { p.lr with run := s.clk.fresh }, p.lr.total⟩).startRefill s.clk.cycle with accepted := s.clk.cycle + 1 } s.clk.cycle) ∧
    ∀ j, j ≠ k → u.queue? j = s.queue? j := by
  intro u
  obtain ⟨hframe, hthis, hother⟩ := State.acceptLaunch_spec (lr := p.lr) hq hg
  have hroom : s.roomFor k 0 1 = true := by simp [State.roomFor, hq, hw, hf]
  have hfree := State.freeEntry_of_none (s := s.acceptLaunch k p.lr) (tid := p.tid) (by rw [hframe]; exact hl) p.entry
  have hu : u = (s.acceptLaunch k p.lr).freeEntry p.tid p.entry := by
    show s.acceptEntry k p = _
    unfold State.acceptEntry
    simp only [hq, hroom, ha, decide_true, Bool.and_self, if_true]
  rw [hu, hfree]
  exact ⟨by rw [hframe], hthis, hother⟩

theorem exec_gack {h : MsgHdr} {gang : Word} {deadline : DWord} {g : Gang} (hok : s.msgOk h = true)
    (hg : s.gang? s.y.station gang = some g) (ha : g.aborted = false) : LeadsTo s (.gack h gang deadline)
      (if s.clk.tclk.toNat ≤ g.deadline.toNat then s.setGang s.y.station gang fun g => { g with acked := dedup (g.acked ++ [h.sstation]) }
      else s) := by
  refine (leadsTo_of_msg_taken rfl hok).trans (congrArg Host.Outcome.next ?_)
  simp only [hg, Option.isNone_some, Bool.and_false, Bool.false_eq_true, if_false]
  unfold State.takeGack
  simp only [hg, Option.isSome_some, if_true, ha, Bool.false_eq_true, if_false]

theorem exec_gabort {h : MsgHdr} {gang : Word} {g : Gang} (hok : s.msgOk h = true) (hg : s.gang? h.sstation gang = some g) :
    LeadsTo s (.gabort h gang) ((s.setGang h.sstation gang fun g => { g with aborted := true }).abortHere h.sstation gang []) := by
  refine (leadsTo_of_msg_taken rfl hok).trans (congrArg Host.Outcome.next ?_)
  simp only [hg, Option.isSome_some, if_true]

theorem exec_gangDeadline {g : Gang} (hg : s.y.gangs.find? (fun x => x.id = g.id && s.gangDue x) = some g) :
    LeadsTo s (.gangDeadline g.id.toNat) (s.gangDecide g) := by
  show Host.Outcome.next _ = _
  simp only [BitVec.toNat_inj, hg]

/-- The decision at the deadline of a gang that this station has a packet of (R73, R358). -/
theorem State.gangDecide_of_accepted {g : Gang} (ha : g.accepted = true) : s.gangDecide g =
    if (g.members.filter fun m => !g.acked.contains m) = [] then s.setGang g.origin g.id fun g => { g with held := true }
    else (((g.members.filter fun m => m ≠ s.y.station).foldl (fun u m => u.sendMsg 0x29 g.part g.part m (natLE 8 g.id.toNat))
      (s.setGang g.origin g.id fun g => { g with aborted := true })).abortHere g.origin g.id
        (g.members.filter fun m => !g.acked.contains m)) := by
  unfold State.gangDecide
  simp only [ha, Bool.true_and, List.isEmpty_iff, if_true]
  rfl

theorem Gang.missing_eq_nil (g : Gang) : (g.members.filter fun m => !g.acked.contains m) = [] ↔ ∀ m ∈ g.members, m ∈ g.acked := by
  simp

end

/-- Settles O42: the checks of a notify in their order (`State.notify_eq`, `exec_notifyMsg`), the packet's bytes by
`State.packet_slotStore`, the accepted record by `State.acceptEntry_spec`, the abort of a gang by `State.abortHere_spec`. -/
theorem hostLaunches : Obligations.HostLaunches := by
  unfold Obligations.HostLaunches
  refine ⟨fun s => ⟨?_, ?_, ?_, ?_, ?_, ?_⟩, fun s => ⟨?_, ?_, ?_, fun _ => rfl⟩⟩
  · intro fn seq slot hup h1 h2 h3 i k err
    have hexec := exec_notifyWrite (bytes := 8) (val := BitVec.ofNat 64 (seq * 2 ^ 32 + slot)) hup
    rw [State.notify_eq s fn h1 h2 h3] at hexec
    refine ⟨fun hh => ?_, fun hh => ?_⟩
    · rwa [if_pos hh, s.setLerr_eq fn (by decide) (by decide)] at hexec
    · rw [if_neg hh] at hexec
      refine ⟨fun hb => ?_, fun hb hlast => ?_, fun hb hlast hseal => ?_, fun hb hlast hseal => ?_⟩
      · rwa [if_pos hb, s.setLerr_eq fn h3 (by decide)] at hexec
      all_goals rw [if_neg (by simp [show (s.slot ⟨false, fn, slot⟩).busy = false from hb])] at hexec
      · rwa [if_pos hlast, s.setLerr_eq fn h3 (by decide)] at hexec
      all_goals rw [if_neg hlast, State.beginSlot_eq] at hexec
      · rwa [if_neg hseal] at hexec
      · rwa [if_pos hseal] at hexec
  · intro fn slot off data hup hs hl hwait
    let k : SlotKey := ⟨false, fn, slot⟩
    have hslot (j : SlotKey) := State.slot_setSlot s k j
    have hexec := exec_launchSlotWrite hup hs hl
    have hidle : ((s.slotStore k off data 0).slot k).wait = none := by
      rw [State.slotStore, hslot, if_pos rfl]; exact hwait
    rw [State.seeSeal_of_idle hidle] at hexec
    refine ⟨_, hexec, rfl, fun j hj => ?_, ?_, fun n hn => s.packet_slotStore k off data 0 hn⟩
    · rw [State.slotStore, hslot, if_neg hj]
    · rw [State.slotStore, hslot, if_pos rfl]
  · intro k seq at_ hpeer hs hwait
    have hexec := exec_sealWaitTimeout hwait
    refine ⟨fun hlt => ?_, fun hle => ?_⟩
    · rwa [if_neg (by omega)] at hexec
    · rw [if_pos hle, s.slotFail_seal hpeer] at hexec
      have hslot (j : SlotKey) := s.slot_setSlot k j fun x => { x with busy := false, wait := none, src := none, adm := none }
      refine ⟨_, hexec, rfl, (hslot k).trans (if_pos rfl), fun j hj => (hslot j).trans (if_neg hj), ?_, fun n hn => ?_⟩
      · rw [State.raiseMsix, State.fn_setFn, if_pos rfl, State.setLerr, State.fn_setFn, if_pos rfl]
        simp only [lerrWord, Nat.mod_eq_of_lt hs]
        rfl
      · rw [State.raiseMsix, State.fn_setFn, if_neg hn, State.setLerr, State.fn_setFn, if_neg hn]; rfl
  · intro h seq slot e hok he i k no
    have hexec := exec_notifyMsg hok he seq slot
    dsimp only at hexec
    refine ⟨fun hl => ?_, fun hl hbad => ?_, fun hl hseq hs => ?_⟩
    · rwa [if_pos hl] at hexec
    · rw [if_neg (by simp [hl]), if_pos (by simpa using hbad)] at hexec; exact hexec
    · rw [if_neg (by simp [hl]), if_neg (by simp only [Bool.or_eq_true, decide_eq_true_eq, not_or]; exact ⟨hseq, by omega⟩), Nat.mod_eq_of_lt hs] at hexec
      refine ⟨fun hb => ?_, fun hb hlast => ?_, fun hb hlast hseal => ?_⟩
      · rwa [if_pos hb] at hexec
      all_goals rw [if_neg (by simp [show (s.slot ⟨true, h.tpart, slot⟩).busy = false from hb])] at hexec
      · rwa [if_pos hlast] at hexec
      · rwa [if_neg hlast, State.beginSlot_eq, if_neg hseal] at hexec
  · intro k p q hp hdue hq
    have hexec : LeadsTo s (.launchRecordAccept k) (s.acceptEntry k p) := by
      rw [LeadsTo, exec_launchRecordAccept, hp]
      simp only [hdue, if_true]
    refine ⟨hexec, fun hw hf ha hg hl => ?_⟩
    obtain ⟨hframe, hthis, hother⟩ := State.acceptEntry_spec hq hw hf ha hg hl
    exact ⟨_, p.lr.opened k, hexec, hframe, rfl, rfl, rfl, rfl, rfl, rfl, hthis, hother⟩
  · intro k q hp hq hw
    rw [LeadsTo, exec_launchRecordAccept, hp]
    simp only [State.serveQueue_of_idle hq hw]
  · intro h gang deadline g hok hg ha
    have hexec := exec_gack (deadline := deadline) hok hg ha
    refine ⟨fun hle => ?_, fun hlt => by rwa [if_neg (by omega)] at hexec⟩
    rw [if_pos hle] at hexec
    have hacked := (s.gang?_setGang s.y.station gang (fun g => { g with acked := dedup (g.acked ++ [h.sstation]) }) fun _ => ⟨rfl, rfl⟩).trans
      (congrArg (Option.map _) hg)
    refine ⟨_, hexec, rfl, ?_, fun x => ?_⟩
    · rw [hacked]; rfl
    · rw [hacked]; simp [mem_dedup]
  · intro h gang g hok hg
    have habort := State.abortHere_spec (origin := h.sstation) (id := gang) (s.setGang h.sstation gang fun g => { g with aborted := true }) []
    obtain ⟨hgangs, hteams, hqueues⟩ := habort
    refine ⟨_, exec_gabort hok hg, rfl, ?_, hteams, hqueues⟩
    have hthis := (s.gang?_setGang h.sstation gang (fun g => { g with aborted := true }) fun _ => ⟨rfl, rfl⟩).trans
      (congrArg (Option.map _) hg)
    exact (congrArg (List.find? _) hgangs).trans hthis
  · intro g hg
    have hexec := exec_gangDeadline hg
    refine ⟨fun ha hall => ?_, fun ha hsome => ?_⟩
    · rwa [State.gangDecide_of_accepted ha, if_pos (g.missing_eq_nil.mpr hall)] at hexec
    · rw [State.gangDecide_of_accepted ha, if_neg fun h => ?_] at hexec
      · exact hexec
      · obtain ⟨m, hm, hna⟩ := hsome
        exact hna (g.missing_eq_nil.mp h m hm)

end Sys2Proof.Machine

namespace Sys2Proof.Machine

open Sys2Proof

/-! # Words whose effect stands aside from threads, paths and units (O26, O27, O28, O29) -/

/-- The state with threads, paths and busy units of its own. -/
def State.dress (s : State) (thr : Map TRef Thread) (ps : List Path) (busy : Map (Nat × Nat × Nat) Nat) : State :=
  { s with r.thr := thr, sch.paths := ps, sch.busy := busy }

/-- `u` is `b` but for paths, busy units and what issuing counts in the threads. -/
structure Beside (b u : State) : Prop where
  eq : u = b.dress u.r.thr u.sch.paths u.sch.busy
  bare : ∀ x, (u.thr x).bare = (b.thr x).bare

/-- An effect that neither looks at threads, paths and busy units nor changes them. -/
def Aside (f : State → State) : Prop := ∀ t thr ps busy, f (t.dress thr ps busy) = (f t).dress thr ps busy

namespace Beside

variable {a b u v : State}

theorem refl (s : State) : Beside s s := ⟨rfl, fun _ => rfl⟩

theorem trans (h : Beside a b) (h' : Beside b u) : Beside a u := by
  refine ⟨?_, fun x => (h'.bare x).trans (h.bare x)⟩
  have e := h'.eq
  rw [h.eq] at e
  exact e

theorem of_counts (h : Counts b u) : Beside b u := by
  obtain ⟨he, hb⟩ := h
  refine ⟨?_, hb⟩
  have hp : u.sch.paths = b.sch.paths := by rw [he]
  have hu : u.sch.busy = b.sch.busy := by rw [he]
  rw [hp, hu]
  exact he

theorem of_paths (h : u = { b with sch.paths := u.sch.paths }) : Beside b u := by
  have ht : u.r.thr = b.r.thr := by rw [h]
  have hu : u.sch.busy = b.sch.busy := by rw [h]
  refine ⟨?_, fun x => by unfold State.thr; rw [ht]⟩
  rw [ht, hu]
  exact h

theorem useUnit (u : State) (i : Iss) : Beside u (u.useUnit i) := by
  unfold State.useUnit
  split
  · exact ⟨rfl, fun _ => rfl⟩
  · exact refl u

theorem countedAt (u s : State) (g : IssueGroup) (i : Instr) : Beside u (u.countedAt s g i) :=
  (of_counts (State.counts_account ..)).trans (useUnit ..)

end Beside

/-- Counting an issue leaves the paths as they are. -/
theorem State.countedAt_paths (u s : State) (g : IssueGroup) (i : Instr) : (u.countedAt s g i).sch.paths = u.sch.paths := by
  unfold State.countedAt
  rw [State.useUnit_sch_paths, (State.counts_account _ _ _).1]

namespace Aside

variable {f f' : State → State}

theorem id : Aside fun s => s := fun _ _ _ _ => rfl

theorem comp (h : Aside f) (h' : Aside f') : Aside fun s => f' (f s) := fun t thr ps busy => by
  show f' (f _) = _
  rw [h t thr ps busy, h' (f t) thr ps busy]

theorem foldl {β : Type} {f : State → β → State} (h : ∀ x, Aside fun s => f s x) (xs : List β) : Aside fun s => xs.foldl f s := by
  induction xs with
  | nil => exact id
  | cons x xs ih => exact (h x).comp ih

theorem beside (h : Aside f) {b u : State} (hb : Beside b u) : Beside (f b) (f u) := by
  have hfu : f u = (f b).dress u.r.thr u.sch.paths u.sch.busy := by
    rw [← h b u.r.thr u.sch.paths u.sch.busy, ← hb.eq]
  have hfb : f b = (f b).dress b.r.thr b.sch.paths b.sch.busy := (h b b.r.thr b.sch.paths b.sch.busy)
  refine ⟨by rw [hfu]; rfl, fun x => ?_⟩
  have hthr : (f u).thr x = u.thr x := by rw [hfu]; rfl
  have hthr' : (f b).thr x = b.thr x := by rw [hfb]; rfl
  rw [hthr, hthr', hb.bare x]

theorem paths (h : Aside f) (u : State) : (f u).sch.paths = u.sch.paths := by
  rw [show f u = (f u).dress u.r.thr u.sch.paths u.sch.busy from h u u.r.thr u.sch.paths u.sch.busy]
  rfl

theorem setTeam (n : Nat) (f : Team → Team) : Aside fun s => s.setTeam n f := fun t thr ps busy => by
  have ht : (t.dress thr ps busy).team? n = t.team? n := rfl
  dsimp only
  unfold State.setTeam
  rw [ht]
  split <;> rfl

theorem close (ls : List Lane) : Aside fun s => s.close ls := foldl (fun tid => setTeam tid _) _

theorem setQueue (k : QKey) (f : Queue → Queue) : Aside fun s => s.setQueue k f := fun t thr ps busy => by
  have ht : (t.dress thr ps busy).queue? k = t.queue? k := rfl
  dsimp only
  unfold State.setQueue
  rw [ht]
  split <;> rfl

theorem swrites (tid off : Nat) (bs : List Byte) : Aside fun s => s.swrites tid off bs :=
  foldl (f := fun s (b : Byte × Nat) => s.setSbyte tid (off + b.2) b.1) (fun _ _ _ _ _ => rfl) _

theorem sjoin (tid off n : Nat) (l : Label) : Aside fun s => s.sjoin tid off n l :=
  foldl (f := fun s k => s.setSline tid k fun x => { x with lbl := x.lbl ||| l }) (fun _ _ _ _ _ => rfl) _

theorem subView (core : Nat) (k : QKey) (n : Nat) : Aside fun s => s.subView core k n := fun _ _ _ _ => rfl

theorem acquireAt (core part rank : Nat) : Aside fun s => s.acquireAt core part rank := fun _ _ _ _ => rfl

end Aside

/-! ## The whole of a word -/

section

variable {s b u v : State} {g : IssueGroup} {i : Instr}

theorem State.beside_entered (s : State) (g : IssueGroup) (i : Instr) : Beside s (s.entered g i) := Beside.of_paths rfl

/-- A word issues with the effect `b`, beside which its effect leads. -/
theorem does_of_takes (h : s.ready g i = true) {eff : State → State} (ht : Takes s g i v eff) {w : State} (hw : v.countedAt s g i = w)
    (hb : Beside b (eff w)) (hp : (eff w).sch.paths = (s.entered g i).sch.paths) (hbp : b.sch.paths = s.sch.paths)
    (hbg : b.sch.igs = s.sch.igs) (hbl : b.r.lbl = s.r.lbl) (hbc : b.clk.cycle = s.clk.cycle) : Does s g i b := by
  subst hw
  refine does_of_same h ht ?_ hb.bare ?_ hbg
  · rw [hb.eq]; rfl
  · rw [hp, s.entered_entry, hbp]
    refine List.map_congr_left fun p _ => ?_
    unfold Path.entry State.tileLbl
    rw [hbl, hbc]

/-- A word that closes CLEAN in its teams is entered beside the state in which they are closed. -/
theorem State.beside_closed (s : State) (g : IssueGroup) (i : Instr) : Beside (s.close (s.entrants g i)) (s.closed g i) :=
  (Aside.close _).beside (s.beside_entered g i)

theorem State.closed_paths (s : State) (g : IssueGroup) (i : Instr) : (s.closed g i).sch.paths = (s.entered g i).sch.paths :=
  (Aside.close _).paths _

theorem State.team?_close_eq (s : State) (ls : List Lane) (n : Nat) :
    (s.close ls).team? n = (s.team? n).map fun t => if n ∈ ls.map (·.t.tid) then { t with clean := false } else t := by
  have hfold : ∀ (tids : List Nat) (s : State), (tids.foldl (fun s tid => s.setTeam tid fun t => { t with clean := false }) s).team? n =
      (s.team? n).map fun t => if n ∈ tids then { t with clean := false } else t := by
    intro tids
    induction tids with
    | nil => intro s; simp
    | cons tid tids ih =>
      intro s
      rw [List.foldl_cons, ih, State.team?_setTeam]
      by_cases hn : n = tid
      · subst hn; cases s.team? n <;> simp
      · simp [hn]
  refine (hfold (tidsOf ls) s).trans ?_
  simp only [tidsOf, mem_dedup]

theorem State.close_frame (s : State) (ls : List Lane) : s.close ls = { s with sch.teams := (s.close ls).sch.teams } := by
  refine foldl_keeps (fun t : State => t = { s with sch.teams := t.sch.teams }) _ (fun t tid ht => ?_) _ _ rfl
  unfold State.setTeam
  split
  · rw [ht]
  · exact ht

end

/-! ## Teams that differ in what a word closes, charges and deals -/

/-- A team without its CLEAN bit, its channels and the count of its records. -/
def Team.fixed (t : Team) : Team := { t with clean := true, chan := [], dealt := 0 }

/-- Two states in which a word finds the same operands: registers, labels and groups are the same, and teams but for what `Team.fixed`
leaves out. -/
structure Alike (s u : State) : Prop where
  rv : u.r.v = s.r.v
  rs : u.r.s = s.r.s
  rm : u.r.m = s.r.m
  rl : u.r.lbl = s.r.lbl
  groups : u.sch.groups = s.sch.groups
  cycle : u.clk.cycle = s.clk.cycle
  station : u.y.station = s.y.station
  teams : ∀ n, (u.team? n).map Team.fixed = (s.team? n).map Team.fixed

namespace Alike

variable {s u : State} (h : Alike s u)
include h

theorem team?_cases (n : Nat) : (s.team? n = none ∧ u.team? n = none) ∨
    ∃ t t', s.team? n = some t ∧ u.team? n = some t' ∧ t'.fixed = t.fixed := by
  have ht := h.teams n
  cases hs : s.team? n <;> cases hu : u.team? n <;> simp [hs, hu] at ht ⊢
  exact ht

theorem special (x : TRef) (n : Nat) : u.special x n = s.special x n := by
  have hg : u.group? x.g = s.group? x.g := by unfold State.group?; rw [h.groups]
  unfold State.special State.quadOf
  rw [hg, h.cycle, h.station]
  obtain ⟨hs, hu⟩ | ⟨t, t', hs, hu, hf⟩ := h.team?_cases x.tid
  · rw [hs, hu]
  · have hwidth : t'.width = t.width := (congrArg Team.width hf :)
    have hteam : t'.team = t.team := (congrArg Team.team hf :)
    have hstage : t'.stage = t.stage := (congrArg Team.stage hf :)
    have hpart : t'.part = t.part := (congrArg Team.part hf :)
    cases s.group? x.g with
    | none => simp only [hs, hu]
    | some g => simp only [hs, hu, hwidth, hteam, hstage, hpart]

theorem vSpan (x : TRef) (n w : Nat) : u.vSpan x n w = s.vSpan x n w := by
  induction w generalizing n with
  | zero => rfl
  | succ w ih => simp only [State.vSpan, State.vGet, ih, h.rv]

theorem sSpan (x : GRef) (n w : Nat) : u.sSpan x n w = s.sSpan x n w := by
  induction w generalizing n with
  | zero => rfl
  | succ w ih => simp only [State.sSpan, State.sGet, ih, h.rs]

theorem intVal (x : TRef) (lit : Word) (c : Code) (w lay : Nat) (b : Bool) : u.intVal x lit c w lay b = s.intVal x lit c w lay b := by
  unfold State.intVal State.mGet
  simp only [h.vSpan, h.sSpan, h.special, h.rm]

theorem rd32 (x : TRef) (lit : Word) (c : Code) : u.rd32 x lit c = s.rd32 x lit c := h.intVal ..

theorem tileLbl (x : GRef) (k : Tile) : u.tileLbl x k = s.tileLbl x k := by unfold State.tileLbl; rw [h.rl]

theorem opLbl (x : GRef) (c : Code) (w : Nat) : u.opLbl x c w = s.opLbl x c w := by unfold State.opLbl; simp only [h.tileLbl]

theorem srcLbl (x : GRef) (c o : Nat) (f : Fm) : u.srcLbl x c o f = s.srcLbl x c o f := by unfold State.srcLbl; simp only [h.opLbl]

theorem aluLbl (i : Iss) (l : Lane) : u.aluLbl i l = s.aluLbl i l := by unfold State.aluLbl; simp only [h.srcLbl, h.tileLbl]

theorem alive (ls : List Lane) : u.alive ls = s.alive ls := by
  unfold State.alive
  refine List.filter_congr fun l _ => ?_
  obtain ⟨hs, hu⟩ | ⟨t, t', hs, hu, -⟩ := h.team?_cases l.t.tid <;> simp [hs, hu]

theorem pairLat (i : Iss) : u.pairLat i = s.pairLat i := by
  have hany : (fun l : Lane => match u.team? l.t.tid with | some t => decide (t.core2 = some i.g.core) | none => false) =
      fun l => match s.team? l.t.tid with | some t => decide (t.core2 = some i.g.core) | none => false := by
    funext l
    obtain ⟨hs, hu⟩ | ⟨t, t', hs, hu, hf⟩ := h.team?_cases l.t.tid
    · simp only [hs, hu]
    · have hcore : t'.core2 = t.core2 := (congrArg Team.core2 hf :)
      simp only [hs, hu, hcore]
  unfold State.pairLat
  exact congrArg (fun f => if i.on.any f then 24 else 0) hany

end Alike

theorem Alike.trans {s u v : State} (h : Alike s u) (h' : Alike u v) : Alike s v :=
  ⟨h'.rv.trans h.rv, h'.rs.trans h.rs, h'.rm.trans h.rm, h'.rl.trans h.rl, h'.groups.trans h.groups, h'.cycle.trans h.cycle,
    h'.station.trans h.station, fun n => (h'.teams n).trans (h.teams n)⟩

theorem Beside.alike {b u : State} (h : Beside b u) : Alike b u := by
  have he := h.eq
  refine ⟨?_, ?_, ?_, ?_, ?_, ?_, ?_, fun n => ?_⟩ <;> rw [he] <;> rfl

theorem State.alike_close (s : State) (ls : List Lane) : Alike s (s.close ls) := by
  have hf := s.close_frame ls
  refine ⟨?_, ?_, ?_, ?_, ?_, ?_, ?_, fun n => ?_⟩
  case refine_8 =>
    rw [State.team?_close_eq]
    cases s.team? n with
    | none => rfl
    | some t => simp only [Option.map_some]; split <;> rfl
  all_goals rw [hf]

/-- At the entry of a word the lanes are charged as they were. -/
theorem State.chargedLane_of_entry {s u : State} {g : IssueGroup} {i : Instr} (h : u.sch.paths = (s.entered g i).sch.paths) (l : Lane) :
    u.chargedLane l = s.chargedLane l := by
  have hid : (fun p : Path => decide (p.id = l.pid)) ∘ (fun p => p.entry s g i) = fun p : Path => decide (p.id = l.pid) := by
    funext p; simp only [Function.comp, Path.entry_id]
  unfold State.chargedLane State.path?
  rw [h, s.entered_entry, List.find?_map, hid, Option.any_map]
  congr 1
  funext p
  simp only [Path.entry_charged]

end Sys2Proof.Machine

namespace Sys2Proof.Machine

open Sys2Proof

/-! # DEQMORE and QLEN (O27) -/

/-! ## What dequeues leave of a queue -/

theorem Queue.refillOne_frame (q : Queue) : q.refillOne = { q with rings := q.refillOne.rings, cellars := q.refillOne.cellars } := by
  unfold Queue.refillOne
  split
  · rfl
  · split
    · rfl
    · split <;> rfl

/-- Only the records of the ring and of the Cellar, and the refill that is under way, differ. -/
def SameButRecords (q r : Queue) : Prop := r = { q with rings := r.rings, cellars := r.cellars, refill := r.refill }

namespace SameButRecords

variable {q r p : Queue}

theorem refl (q : Queue) : SameButRecords q q := rfl

theorem trans (h : SameButRecords q r) (h' : SameButRecords r p) : SameButRecords q p := by
  unfold SameButRecords at *
  rw [h] at h'
  exact h'

theorem waiting (h : SameButRecords q r) : r.waiting = q.waiting := by rw [h]

theorem slice (h : SameButRecords q r) : r.slice = q.slice := by rw [h]

theorem refillOne (q : Queue) : SameButRecords q q.refillOne := by
  unfold SameButRecords
  rw [q.refillOne_frame]

theorem refillStep (q : Queue) : SameButRecords q q.refillStep :=
  foldl_keeps (fun r : Queue => SameButRecords q r) _ (fun r _ hr => hr.trans (refillOne r)) _ { q with refill := none } rfl

theorem awaitRefill (q : Queue) (n : Nat) : SameButRecords q (q.awaitRefill n).1 := by
  unfold Queue.awaitRefill
  rw [apply_ite Prod.fst]
  by_cases hw : q.waits = true
  · rw [if_pos hw]
    dsimp only
    exact refillStep q
  · rw [if_neg hw]
    exact refl q

theorem pop? {x : QRec} (h : q.pop? = some (x, r)) : SameButRecords q r := by
  unfold Queue.pop? at h
  split at h
  · simp at h
  · split at h
    · simp at h
    · obtain ⟨-, rfl⟩ := Prod.mk.inj (Option.some.inj h); rfl

theorem startRefill (q : Queue) (n : Nat) : SameButRecords q (q.startRefill n) := by
  unfold Queue.startRefill; split <;> rfl

theorem resumeRefill (q : Queue) (n m : Nat) : SameButRecords q (q.resumeRefill n m) := by
  unfold Queue.resumeRefill; split <;> rfl

end SameButRecords

theorem Queue.takeN_of_empty {q : Queue} {at_ : Nat} (h : (q.awaitRefill at_).1.pop? = none) (n : Nat) :
    q.takeN at_ (n + 1) = ([], q.awaitRefill at_) := by
  rw [Queue.takeN]
  simp only [h]

theorem Queue.takeN_of_pop {q r : Queue} {at_ : Nat} {x : QRec} (h : (q.awaitRefill at_).1.pop? = some (x, r)) (n : Nat) :
    q.takeN at_ (n + 1) = (x :: (r.takeN (q.awaitRefill at_).2 n).1, (r.takeN (q.awaitRefill at_).2 n).2) := by
  rw [Queue.takeN]
  simp only [h]

/-- Some dequeues take no more than they want, and leave all of the queue but its records. -/
theorem Queue.takeN_spec (q : Queue) (at_ n : Nat) : SameButRecords q (q.takeN at_ n).2.1 ∧ (q.takeN at_ n).1.length ≤ n := by
  induction n generalizing q at_ with
  | zero => exact ⟨.refl q, Nat.le_refl 0⟩
  | succ n ih =>
    have hawait := SameButRecords.awaitRefill q at_
    cases hp : (q.awaitRefill at_).1.pop? with
    | none =>
      rw [Queue.takeN_of_empty hp]
      exact ⟨hawait, Nat.zero_le _⟩
    | some xr =>
      obtain ⟨x, r⟩ := xr
      obtain ⟨hsame, hlen⟩ := ih r (q.awaitRefill at_).2
      rw [Queue.takeN_of_pop hp]
      exact ⟨(hawait.trans (.pop? hp)).trans hsame, Nat.succ_le_succ hlen⟩

/-- The queue that a dequeue of up to `n` records leaves. -/
def Queue.taken (q : Queue) (now n : Nat) : Queue := (q.takeN now n).2.1.resumeRefill now (q.takeN now n).2.2

theorem Queue.sameButRecords_taken (q : Queue) (now n : Nat) : SameButRecords q (q.taken now n) :=
  (q.takeN_spec now n).1.trans (.resumeRefill ..)

/-- A dequeue of a queue at which nothing waits. -/
theorem State.dequeue_of_idle {s : State} {k : QKey} {q : Queue} (hq : s.queue? k = some q) (hw : q.waiting = []) (n : Nat) :
    s.dequeue k n = ((q.takeN s.clk.cycle n).1, lateBy s.clk.cycle (q.takeN s.clk.cycle n).2.2,
      s.setQueue k fun _ => q.taken s.clk.cycle n) := by
  have hidle := State.serveQueue_setQueue (r := q.taken s.clk.cycle n) hq ((q.sameButRecords_taken _ _).waiting.trans hw) 4096
  unfold State.dequeue
  rw [hq]
  exact congrArg (fun u => ((q.takeN s.clk.cycle n).1, lateBy s.clk.cycle (q.takeN s.clk.cycle n).2.2, u)) hidle

/-! ## Records in the record area -/

theorem State.sbyte_swrites (s : State) (tid off : Nat) (bs : List Byte) (a : Nat) : (s.swrites tid off bs).sbyte tid a =
    if off ≤ a ∧ a < off + bs.length then bs.getD (a - off) 0 else s.sbyte tid a := by
  have hscr : (s.swrites tid off bs).r.scr = bs.zipIdx.foldl (fun m b => mset m (tid, off + b.2) b.1) s.r.scr := by
    unfold State.swrites
    generalize bs.zipIdx = xs
    induction xs generalizing s with
    | nil => rfl
    | cons x xs ih => exact ih _
  unfold State.sbyte
  rw [hscr]
  exact mget_foldl_zipIdx 0 (key := fun n => (tid, n)) (fun _ _ h => (Prod.mk.inj h).2) off bs 0 _ a

theorem State.sreads_scr {s u : State} (h : u.r.scr = s.r.scr) (tid off n : Nat) : u.sreads tid off n = s.sreads tid off n := by
  unfold State.sreads State.sbyte; rw [h]

theorem State.sjoin_scr (s : State) (tid off n : Nat) (l : Label) : (s.sjoin tid off n l).r.scr = s.r.scr :=
  foldl_keeps (fun t : State => t.r.scr = s.r.scr) (fun s k => s.setSline tid k fun x => { x with lbl := x.lbl ||| l }) (fun _ _ h => h) _ s rfl

theorem State.sbyte_dealArea (s : State) (tid base thr : Nat) (r : Rec) (a : Nat) : (s.dealArea tid base thr r).sbyte tid a =
    if base + thr * r.bytes.length ≤ a ∧ a < base + thr * r.bytes.length + r.bytes.length then
      r.bytes.getD (a - (base + thr * r.bytes.length)) 0 else s.sbyte tid a := by
  rw [← State.sbyte_swrites, State.dealArea]
  unfold State.sbyte
  rw [State.sjoin_scr]

/-- R61, R297: records enter the record area for the threads from `first` on. -/
def State.dealAll (s : State) (tid base first : Nat) (xs : List (QRec × Nat)) : State :=
  xs.foldl (fun s x => s.dealArea tid base (first + x.2) x.1.r) s

theorem State.dealAll_cons (s : State) (tid base first i : Nat) (x : QRec) (xs : List QRec) :
    s.dealAll tid base first ((x :: xs).zipIdx i) = (s.dealArea tid base (first + i) x.r).dealAll tid base first (xs.zipIdx (i + 1)) := rfl

section

variable {tid base first sz : Nat} {xs : List QRec} (hsz : ∀ x ∈ xs, x.r.bytes.length = sz)
include hsz

/-- Records dealt further up leave the area below them. -/
theorem State.sbyte_dealAll_below (s : State) (i : Nat) {a : Nat} (ha : a < base + (first + i) * sz) :
    (s.dealAll tid base first (xs.zipIdx i)).sbyte tid a = s.sbyte tid a := by
  induction xs generalizing s i with
  | nil => rfl
  | cons x xs ih =>
    have hnext : (first + (i + 1)) * sz = (first + i) * sz + sz := by rw [← Nat.add_assoc, Nat.succ_mul]
    rw [State.dealAll_cons, ih (fun y hy => hsz y (by simp [hy])) _ _ (by omega), State.sbyte_dealArea, hsz x (by simp),
      if_neg (by omega)]

/-- Record `j` stands in its part of the area. -/
theorem State.sbyte_dealAll (s : State) (i : Nat) {j c : Nat} {x : QRec} (hx : xs[j]? = some x) (hc : c < sz) :
    (s.dealAll tid base first (xs.zipIdx i)).sbyte tid (base + (first + (i + j)) * sz + c) = x.r.bytes.getD c 0 := by
  induction xs generalizing s i j with
  | nil => simp at hx
  | cons y ys ih =>
    have hys : ∀ z ∈ ys, z.r.bytes.length = sz := fun z hz => hsz z (by simp [hz])
    rw [State.dealAll_cons]
    cases j with
    | zero =>
      obtain rfl : y = x := by simpa using hx
      have hnext : (first + (i + 1)) * sz = (first + i) * sz + sz := by rw [← Nat.add_assoc, Nat.succ_mul]
      rw [show first + (i + 0) = first + i by omega, State.sbyte_dealAll_below hys _ _ (by omega), State.sbyte_dealArea, hsz y (by simp), if_pos (by omega),
        Nat.add_sub_cancel_left]
    | succ j =>
      rw [show i + (j + 1) = i + 1 + j by omega]
      exact ih hys _ _ (by simpa using hx)

theorem State.sreads_dealAll (s : State) {j : Nat} {x : QRec} (hx : xs[j]? = some x) :
    (s.dealAll tid base first xs.zipIdx).sreads tid (base + (first + j) * sz) sz = x.r.bytes := by
  have hlen : x.r.bytes.length = sz := hsz x (List.mem_of_getElem? hx)
  unfold State.sreads
  refine List.ext_getElem (by simp [hlen]) fun c hc hc' => ?_
  have hcs : c < sz := by simpa using hc
  have hbyte := State.sbyte_dealAll (tid := tid) (base := base) (first := first) hsz s 0 hx hcs
  rw [Nat.zero_add] at hbyte
  rw [List.getElem_map, List.getElem_range, hbyte, List.getD_eq_getElem?_getD, List.getElem?_eq_getElem hc', Option.getD_some]

end

/-! ## DEQMORE -/

/-- The machine behind a DEQMORE of one lane: queue `k` is `r`, the records stand in the area, and the team and the view count them. -/
def State.dealTo (s : State) (i : Iss) (tid base : Nat) (k : QKey) (first : Nat) (r : Queue) (xs : List QRec) : State :=
  ((((s.setQueue k fun _ => r).dealAll tid base first xs.zipIdx).setTeam tid fun t => { t with dealt := first + xs.length }).subView
    i.g.core k xs.length).acquireAt i.g.core i.g.part (if xs.any fun x => x.r.mark then 3 else 2)

theorem Aside.dealAll (tid base first : Nat) (xs : List (QRec × Nat)) : Aside fun s => s.dealAll tid base first xs :=
  Aside.foldl (f := fun s (x : QRec × Nat) => s.dealArea tid base (first + x.2) x.1.r)
    (fun x => (Aside.swrites tid _ x.1.r.bytes).comp (Aside.sjoin tid _ _ _)) xs

theorem Aside.dealTo (i : Iss) (tid base : Nat) (k : QKey) (first : Nat) (r : Queue) (xs : List QRec) :
    Aside fun s => s.dealTo i tid base k first r xs :=
  ((((Aside.setQueue k _).comp (Aside.dealAll tid base first _)).comp (Aside.setTeam tid _)).comp (Aside.subView _ _ _)).comp
    (Aside.acquireAt _ _ _)

theorem State.dealAll_frame (s : State) (tid base first : Nat) (xs : List (QRec × Nat)) : s.dealAll tid base first xs =
    { s with r.scr := (s.dealAll tid base first xs).r.scr, r.sline := (s.dealAll tid base first xs).r.sline } := by
  have hwrites (t : State) (off : Nat) (bs : List Byte) : t.swrites tid off bs = { t with r.scr := (t.swrites tid off bs).r.scr } :=
    foldl_keeps (fun u : State => u = { t with r.scr := u.r.scr }) (fun u (b : Byte × Nat) => u.setSbyte tid (off + b.2) b.1)
      (fun u b hu => by rw [hu]; rfl) _ t rfl
  have hjoin (t : State) (off n : Nat) (l : Label) : t.sjoin tid off n l = { t with r.sline := (t.sjoin tid off n l).r.sline } :=
    foldl_keeps (fun u : State => u = { t with r.sline := u.r.sline }) (fun u k => u.setSline tid k fun x => { x with lbl := x.lbl ||| l })
      (fun u b hu => by rw [hu]; rfl) _ t rfl
  refine foldl_keeps (fun u : State => u = { s with r.scr := u.r.scr, r.sline := u.r.sline }) _ (fun u x hu => ?_) _ s rfl
  unfold State.dealArea
  rw [hjoin, hwrites, hu]

theorem State.setTeam_frame (s : State) (n : Nat) (f : Team → Team) : s.setTeam n f = { s with sch.teams := (s.setTeam n f).sch.teams } := by
  unfold State.setTeam; split <;> rfl

/-- What DEQMORE changes: teams, the core's view, the queue, the record area with its labels, and the L1. -/
def DealFrame (s t : State) : Prop :=
  t = { s with sch.teams := t.sch.teams, sch.sub := t.sch.sub, gr.queues := t.gr.queues, r.scr := t.r.scr, r.sline := t.r.sline, m.l1 := t.m.l1 }

theorem DealFrame.trans {s t u : State} (h : DealFrame s t) (h' : DealFrame t u) : DealFrame s u := by
  unfold DealFrame at *
  rw [h] at h'
  exact h'

section

variable {s : State} {i : Iss} {tid base first : Nat} {k : QKey} {q r : Queue} {xs : List QRec}

theorem State.dealTo_frame (s : State) (i : Iss) (tid base : Nat) (k : QKey) (first : Nat) (r : Queue) (xs : List QRec) :
    DealFrame s (s.dealTo i tid base k first r xs) := by
  have hq : DealFrame s (s.setQueue k fun _ => r) := by
    unfold DealFrame; rw [State.setQueue_frame]
  have hd (u : State) : DealFrame u (u.dealAll tid base first xs.zipIdx) := by
    unfold DealFrame; rw [State.dealAll_frame]
  have ht (u : State) (f : Team → Team) : DealFrame u (u.setTeam tid f) := by
    unfold DealFrame; rw [State.setTeam_frame]
  have hs (u : State) : DealFrame u (u.subView i.g.core k xs.length) := rfl
  have ha (u : State) (n : Nat) : DealFrame u (u.acquireAt i.g.core i.g.part n) := rfl
  exact (((hq.trans (hd _)).trans (ht _ _)).trans (hs _)).trans (ha _ _)

theorem State.dealTo_queues : (s.dealTo i tid base k first r xs).gr.queues = (s.setQueue k fun _ => r).gr.queues := by
  have hd := State.dealAll_frame (s.setQueue k fun _ => r) tid base first xs.zipIdx
  have ht := State.setTeam_frame ((s.setQueue k fun _ => r).dealAll tid base first xs.zipIdx) tid fun t => { t with dealt := first + xs.length }
  show (State.setTeam _ _ _).gr.queues = _
  rw [ht, hd]

theorem State.dealTo_scr : (s.dealTo i tid base k first r xs).r.scr =
    ((s.setQueue k fun _ => r).dealAll tid base first xs.zipIdx).r.scr := by
  show (State.setTeam _ _ _).r.scr = _
  rw [State.setTeam_r]

theorem State.dealTo_team? : (s.dealTo i tid base k first r xs).team? tid = (s.team? tid).map fun t => { t with dealt := first + xs.length } := by
  have hd := State.dealAll_frame (s.setQueue k fun _ => r) tid base first xs.zipIdx
  have hq := State.setQueue_frame s k fun _ => r
  show (State.setTeam _ _ _).team? tid = _
  rw [State.team?_setTeam, if_pos rfl, hd, hq]
  rfl

/-- A core that has dealt records sees the queue that much shorter (R57). -/
theorem State.dealTo_viewLen (hq : s.queue? k = some q) (hr : SameButRecords q r) :
    (s.dealTo i tid base k first r xs).viewLen i.g.core k = s.viewLen i.g.core k - xs.length := by
  have hframe := s.dealTo_frame i tid base k first r xs
  have hqueue : (s.dealTo i tid base k first r xs).queue? k = some (r.startRefill s.clk.cycle) := by
    unfold State.queue?
    rw [State.dealTo_queues]
    exact State.queue?_setQueue_same hq _
  have hslice : (r.startRefill s.clk.cycle).slice = q.slice := ((SameButRecords.startRefill r _).slice).trans hr.slice
  have hdie : (s.dealTo i tid base k first r xs).homeDie k = s.homeDie k := by
    unfold State.homeDie
    rw [hqueue, hq]
    simp only [hslice]
    rw [hframe]
    rfl
  have hpub : (s.dealTo i tid base k first r xs).viewPub i.g.core k = s.viewPub i.g.core k := by
    unfold State.viewPub
    rw [hdie, hframe]
  have hsub : mget 0 (s.dealTo i tid base k first r xs).sch.sub (i.g.core, k) = mget 0 s.sch.sub (i.g.core, k) + xs.length := by
    have hd := State.dealAll_frame (s.setQueue k fun _ => r) tid base first xs.zipIdx
    have hs := State.setQueue_frame s k fun _ => r
    have hview (u : State) (n m : Nat) : mget 0 ((u.subView i.g.core k n).acquireAt i.g.core i.g.part m).sch.sub (i.g.core, k) =
        mget 0 u.sch.sub (i.g.core, k) + n := (mget_mset ..).trans (if_pos rfl)
    rw [State.dealTo, hview, State.setTeam_sch_sub, hd, hs]
  unfold State.viewLen
  rw [hpub, hsub, Nat.sub_add_eq]

end

/-- The machine behind a DEQMORE, part by part. -/
theorem State.dealTo_spec {s : State} {i : Iss} {tid base first : Nat} {k : QKey} {q r : Queue} {xs : List QRec} {t : Team}
    (hq : s.queue? k = some q) (hr : SameButRecords q r) (ht : s.team? tid = some t) :
    let b := s.dealTo i tid base k first r xs
    b.queue? k = some (r.startRefill s.clk.cycle) ∧ (∀ j, j ≠ k → b.queue? j = s.queue? j) ∧
    b.team? tid = some { t with dealt := first + xs.length } ∧ b.viewLen i.g.core k = s.viewLen i.g.core k - xs.length ∧
    ∀ sz, (∀ x ∈ xs, x.r.bytes.length = sz) → ∀ j x, xs[j]? = some x → b.sreads tid (base + (first + j) * sz) sz = x.r.bytes := by
  intro b
  have hqueues (j : QKey) : b.queue? j = (s.setQueue k fun _ => r).queue? j := congrArg (fun m => mget? m j) State.dealTo_queues
  refine ⟨(hqueues k).trans (State.queue?_setQueue_same hq _), fun j hj => (hqueues j).trans (State.queue?_setQueue_other hj _),
    State.dealTo_team?.trans (by rw [ht]; rfl), State.dealTo_viewLen hq hr, fun sz hsz j x hx => ?_⟩
  rw [State.sreads_scr State.dealTo_scr]
  exact State.sreads_dealAll hsz _ hx

/-- DEQMORE in a lane whose team takes up to `m` records of a queue at which nothing waits (R61, R297). -/
theorem State.deqLane_eq {u : State} {i : Iss} {st : Stage} {l : Lane} {t : Team} {k : QKey} {q : Queue} {c m : Nat}
    (ht : u.team? l.t.tid = some t) (hk : u.inputOf i.g.part i.g.ctx i.g.stage st = k) (hq : u.queue? k = some q) (hw : q.waiting = [])
    (hc : u.clk.cycle = c) (hm : min (u.rd32 l.t i.f.lit i.f.b) (min (t.groups * t.width - t.dealt) (u.viewLen i.g.core k)) = m) :
    u.deqLane i st l =
      (u.dealTo i l.t.tid st.recbase k t.dealt (q.taken c m) (q.takeN c m).1,
        ⟨l, [BitVec.ofNat 32 ((q.takeN c m).1.length + t.dealt * 65536)], (q.takeN c m).1.foldl (fun a x => a ||| x.r.lbl) (u.aluLbl i l)⟩,
        lateBy c (q.takeN c m).2.2) := by
  subst hk hc hm
  unfold State.deqLane
  rw [ht]
  simp only [State.dequeue_of_idle hq hw]
  rfl

/-- The results of some lanes as they are under way. -/
def State.resPend (s : State) (i : Iss) (lat : Nat) (rs : List LaneRes) : Pend :=
  { due := s.clk.cycle + lat, writes := resWrites (Fm.writes i.cls i.op i.f) rs, lbls := s.resLbls (Fm.writes i.cls i.op i.f) rs,
    flags := [], links := [], toks := tokPairs i.f.tok (rs.map (·.l)) }

/-- Results join what is under way. -/
def State.addPend (s : State) (p : Pend) : State := { s with sch.pend := s.sch.pend ++ [p] }

theorem State.putRes_eq (s : State) (i : Iss) (lat : Nat) (rs : List LaneRes) : s.putRes i lat rs = s.addPend (s.resPend i lat rs) := rfl

theorem Aside.addPend (p : Pend) : Aside fun s => s.addPend p := fun _ _ _ _ => rfl

/-- What DEQMORE of one lane does to a machine whose queue nothing waits at (R61, R297). -/
theorem deqmore_eff {w : State} {is : Iss} {st : Stage} {l : Lane} {t : Team} {k : QKey} {q : Queue} {m : Nat} (hon : is.on = [l])
    (hst : w.stageIg is.g = some st) (ht : w.team? l.t.tid = some t) (hk : w.inputOf is.g.part is.g.ctx is.g.stage st = k)
    (hq : w.queue? k = some q) (hw : q.waiting = [])
    (hm : min (w.rd32 l.t is.f.lit is.f.b) (min (t.groups * t.width - t.dealt) (w.viewLen is.g.core k)) = m) :
    ∃ p : Pend, deqmoreMeaning.eff w is =
        (w.dealTo is l.t.tid st.recbase k t.dealt (q.taken w.clk.cycle m) (q.takeN w.clk.cycle m).1).addPend p ∧
      p.due = w.clk.cycle + (lateBy w.clk.cycle (q.takeN w.clk.cycle m).2.2 + 170 + 2 * ((q.takeN w.clk.cycle m).1.length % 65536 - 1) +
        w.pairLat is) ∧
      p.toks = tokPairs is.f.tok [l] ∧
      p.writes = resWrites (Fm.writes is.cls is.op is.f) [⟨l, [BitVec.ofNat 32 ((q.takeN w.clk.cycle m).1.length + t.dealt * 65536)], 0⟩] := by
  have hlane := State.deqLane_eq (i := is) ht hk hq hw rfl hm
  have heff : deqmoreMeaning.eff w is = (w.deqLane is st l).1.putRes is
      ((w.deqLane is st l).2.2 + 170 + 2 * (((w.deqLane is st l).2.1.ws.headD 0).toNat % 65536 - 1) + w.pairLat is) [(w.deqLane is st l).2.1] := by
    show (match w.stageIg is.g with | none => w | some st => _) = _
    rw [hst]
    simp only [hon, List.foldl_cons, List.foldl_nil, List.nil_append, Nat.zero_max, Nat.zero_add]
  have hcount (n d : Nat) : (BitVec.ofNat 32 (n + d * 65536)).toNat % 65536 = n % 65536 := by
    rw [BitVec.toNat_ofNat]; omega
  have hcycle : (w.dealTo is l.t.tid st.recbase k t.dealt (q.taken w.clk.cycle m) (q.takeN w.clk.cycle m).1).clk.cycle = w.clk.cycle := by
    rw [State.dealTo_frame]
  rw [hlane, State.putRes_eq, List.headD_cons, hcount] at heff
  refine ⟨_, heff, ?_, rfl, resWrites_congr _ rfl⟩
  exact congrArg (· + _) hcycle

/-- The state in which a word that closes CLEAN has been entered and counted, but for threads, paths and units. -/
theorem State.countedAt_closed (s : State) (g : IssueGroup) (i : Instr) :
    Beside (s.close (s.entrants g i)) ((s.closed g i).countedAt s g i) :=
  (s.beside_closed g i).trans (.countedAt ..)

theorem State.acting_sub_entrants {s : State} {g : IssueGroup} {i : Instr} {l : Lane} (h : l ∈ s.acting g i) : l ∈ s.entrants g i :=
  List.mem_of_mem_filter h

section

variable {s : State} {g : IssueGroup} {f : LForm} {l : Lane} {t : Team} {st : Stage} {q : Queue}

theorem deqmore_flt {u : State} {is : Iss} (hst : u.stageIg is.g = some st) (hin : st.inkind ≠ 0) (hrec : st.hasRec = true) (l : Lane) :
    deqmoreMeaning.flt u is l = none := by
  show u.deqFlt is l = none
  unfold State.deqFlt
  rw [hst]
  simp [hin, hrec]

theorem deqmore_takes (h : s.ready g (.deqmore f) = true) (hst : s.stage? g.part g.ctx g.stage = some st) (hin : st.inkind ≠ 0)
    (hrec : st.hasRec = true) :
    Takes s g (.deqmore f) (s.closed g (.deqmore f)) fun w => deqmoreMeaning.eff w (s.iss g (.deqmore f)) := by
  have hexec : exec (.deqmore f) s = runWord (.deqmore f) deqmoreMeaning s := rfl
  have hstage : (s.closed g (.deqmore f)).stageIg g = some st := by
    rw [(s.beside_closed g (.deqmore f)).eq, State.close_frame]; exact hst
  exact takes_closes h hexec (fun _ _ _ => rfl) (fun l _ => deqmore_flt (is := s.iss0 g (.deqmore f)) hstage hin hrec l) rfl
    ((State.alive_close ..).trans (s.acting_alive g _)) rfl

/-- DEQMORE of one lane (R61, R297). -/
theorem deqmore_does {k : QKey} {m : Nat} (h : s.ready g (.deqmore f) = true) (hact : s.acting g (.deqmore f) = [l]) (ht : s.team? l.t.tid = some t)
    (hst : s.stage? g.part g.ctx g.stage = some st) (hin : st.inkind ≠ 0) (hrec : st.hasRec = true)
    (hk : s.inputOf g.part g.ctx g.stage st = k) (hq : s.queue? k = some q) (hw : q.waiting = [])
    (hm : min (s.rd32 l.t (fieldsOf (.deqmore f)).lit (fieldsOf (.deqmore f)).b) (min (t.groups * t.width - t.dealt) (s.viewLen g.core k)) = m) :
    ∃ p : Pend, Does s g (.deqmore f) (((s.close (s.entrants g (.deqmore f))).dealTo (s.iss g (.deqmore f)) l.t.tid st.recbase k t.dealt
        (q.taken s.clk.cycle m) (q.takeN s.clk.cycle m).1).addPend p) ∧
      p.due = s.clk.cycle + (lateBy s.clk.cycle (q.takeN s.clk.cycle m).2.2 + 170 + 2 * ((q.takeN s.clk.cycle m).1.length % 65536 - 1) +
        s.pairLat (s.iss g (.deqmore f))) ∧
      p.toks = tokPairs (fieldsOf (.deqmore f)).tok [l] ∧
      p.writes = resWrites (Fm.writes (Instr.deqmore f).cls (opNo (.deqmore f)) (fieldsOf (.deqmore f)))
        [⟨l, [BitVec.ofNat 32 ((q.takeN s.clk.cycle m).1.length + t.dealt * 65536)], 0⟩] := by
  obtain ⟨w, hcounted⟩ : ∃ w, (s.closed g (.deqmore f)).countedAt s g (.deqmore f) = w := ⟨_, rfl⟩
  have hbeside : Beside (s.close (s.entrants g (.deqmore f))) w := hcounted ▸ s.countedAt_closed g (.deqmore f)
  have halike : Alike s w := (s.alike_close _).trans hbeside.alike
  have hframe : w = State.dress { s with sch.teams := (s.close (s.entrants g (.deqmore f))).sch.teams } w.r.thr w.sch.paths w.sch.busy := by
    rw [← State.close_frame]; exact hbeside.eq
  have hlmem : l ∈ s.acting g (.deqmore f) := by rw [hact]; exact List.mem_cons_self
  have hteam : w.team? l.t.tid = some { t with clean := false } := by
    have hclosed := s.team?_close_eq (s.entrants g (.deqmore f)) l.t.tid
    rw [ht, Option.map_some, if_pos (List.mem_map_of_mem (f := fun l : Lane => l.t.tid) (State.acting_sub_entrants hlmem))] at hclosed
    rw [hbeside.eq]
    exact hclosed
  have hstage : w.stageIg g = some st := by rw [hframe]; exact hst
  have hkey : w.inputOf g.part g.ctx g.stage st = k := by rw [hframe]; exact hk
  have hqueue : w.queue? k = some q := by rw [hframe]; exact hq
  have hview : w.viewLen g.core k = s.viewLen g.core k := by rw [hframe]; rfl
  have hcycle : w.clk.cycle = s.clk.cycle := halike.cycle
  have htake := deqmore_takes h hst hin hrec
  have hm : min (w.rd32 l.t (fieldsOf (.deqmore f)).lit (fieldsOf (.deqmore f)).b) (min (t.groups * t.width - t.dealt) (w.viewLen g.core k)) = m := by
    rw [hview, halike.rd32]; exact hm
  obtain ⟨p, heff, hdue, htoks, hwrites⟩ := deqmore_eff (is := s.iss g (.deqmore f)) hact hstage hteam hkey hqueue hw hm
  rw [hcycle] at heff hdue hwrites
  rw [halike.pairLat] at hdue
  refine ⟨p, ?_, hdue, htoks, hwrites⟩
  have hb := Aside.beside (Aside.addPend p) (Aside.beside
    (Aside.dealTo (s.iss g (.deqmore f)) l.t.tid st.recbase k t.dealt (q.taken s.clk.cycle m) (q.takeN s.clk.cycle m).1) hbeside)
  have hpaths := (Aside.paths (Aside.addPend p) _).trans
    (Aside.paths (Aside.dealTo (s.iss g (.deqmore f)) l.t.tid st.recbase k t.dealt (q.taken s.clk.cycle m) (q.takeN s.clk.cycle m).1) w)
  have hentered : w.sch.paths = (s.entered g (.deqmore f)).sch.paths := by rw [← hcounted, State.countedAt_paths, State.closed_paths]
  have hframe := (s.close (s.entrants g (.deqmore f))).dealTo_frame (s.iss g (.deqmore f)) l.t.tid st.recbase
    k t.dealt (q.taken s.clk.cycle m) (q.takeN s.clk.cycle m).1
  have hclosed := s.close_frame (s.entrants g (.deqmore f))
  refine does_of_takes h htake hcounted (by rw [heff]; exact hb) (by rw [heff]; exact hpaths.trans hentered) ?_ ?_ ?_ ?_ <;>
    rw [State.addPend, hframe, hclosed]

end

/-! ## QLEN -/

theorem State.qlenOf_dress (s : State) (thr : Map TRef Thread) (ps : List Path) (busy : Map (Nat × Nat × Nat) Nat) (i : Iss) (e : Nat) :
    (s.dress thr ps busy).qlenOf i e = s.qlenOf i e := rfl

theorem Sees.chanOf {s u : State} (h : Sees s u) (n : Nat) (f : Fm) : u.chanOf n f = s.chanOf n f := by
  unfold State.chanOf; rw [h.team?]

section

variable {s : State} {g : IssueGroup} {f : LForm}

theorem qlen_flt {u : State} {is : Iss} {l : Lane} {e : Nat} (hcharged : u.chargedLane l = false) (he : u.chanOf l.t.tid is.f = e)
    (hvalid : capValid e = true) (hkind : [0, 1].contains (capKind e) = true) (hperm : e.testBit permLen = true) :
    qlenMeaning.flt u is l = none := by
  show u.capFlt is [0, 1] permLen false l = none
  unfold State.capFlt
  simp only [he, hcharged, hvalid, hkind, hperm]
  simp

theorem qlen_takes (h : s.ready g (.qlen f) = true) (hcap : ∀ l ∈ s.acting g (.qlen f), s.chargedLane l = false ∧
      capValid (s.chanOf l.t.tid (fieldsOf (.qlen f))) = true ∧ capKind (s.chanOf l.t.tid (fieldsOf (.qlen f))) ≤ 1 ∧
      (s.chanOf l.t.tid (fieldsOf (.qlen f))).testBit permLen = true) :
    Takes s g (.qlen f) (s.entered g (.qlen f)) fun w => qlenMeaning.eff w (s.iss g (.qlen f)) := by
  have hexec : exec (.qlen f) s = runWord (.qlen f) qlenMeaning s := rfl
  have hflt : ∀ l ∈ s.acting g (.qlen f), qlenMeaning.flt (s.entered g (.qlen f)) (s.iss0 g (.qlen f)) l = none := by
    intro l hl
    obtain ⟨hcharged, hvalid, hkind, hperm⟩ := hcap l hl
    have hkinds : [0, 1].contains (capKind (s.chanOf l.t.tid (fieldsOf (.qlen f)))) = true := by
      simp only [List.contains_eq_mem, List.mem_cons, List.not_mem_nil, decide_eq_true_eq]; omega
    exact qlen_flt ((State.chargedLane_of_entry rfl l).trans hcharged) ((s.sees_entered g (.qlen f)).chanOf ..) hvalid hkinds hperm
  exact takes_acts h hexec (fun _ _ _ => rfl) hflt rfl (s.acting_alive g _) rfl

/-- QLEN (R57, R298). -/
theorem qlen_does (h : s.ready g (.qlen f) = true) (hcap : ∀ l ∈ s.acting g (.qlen f), s.chargedLane l = false ∧
      capValid (s.chanOf l.t.tid (fieldsOf (.qlen f))) = true ∧ capKind (s.chanOf l.t.tid (fieldsOf (.qlen f))) ≤ 1 ∧
      (s.chanOf l.t.tid (fieldsOf (.qlen f))).testBit permLen = true) :
    let i := Instr.qlen f
    ∃ p : Pend, Does s g i (s.addPend p) ∧ p.due = s.clk.cycle + 8 ∧ p.toks = tokPairs (fieldsOf i).tok (s.acting g i) ∧
      p.writes = resWrites (Fm.writes i.cls (opNo i) (fieldsOf i)) ((s.acting g i).map fun l =>
        ⟨l, [BitVec.ofNat 32 (s.qlenOf (s.iss g i) (s.chanOf l.t.tid (fieldsOf i)))], 0⟩) := by
  intro i
  obtain ⟨w, hcounted⟩ : ∃ w, (s.entered g i).countedAt s g i = w := ⟨_, rfl⟩
  have hbeside : Beside s w := hcounted ▸ (s.beside_entered g i).trans (.countedAt ..)
  let rs := (s.acting g i).map fun l => (⟨l, [BitVec.ofNat 32 (w.qlenOf (s.iss g i) (w.chanOf l.t.tid (fieldsOf i)))],
    w.ceilOf (chanKey g.part g.ctx (w.chanOf l.t.tid (fieldsOf i))) ||| l.ctx⟩ : LaneRes)
  have hlen (l : Lane) : w.qlenOf (s.iss g i) (w.chanOf l.t.tid (fieldsOf i)) = s.qlenOf (s.iss g i) (s.chanOf l.t.tid (fieldsOf i)) := by
    have hchan : w.chanOf l.t.tid (fieldsOf i) = s.chanOf l.t.tid (fieldsOf i) := by rw [hbeside.eq]; rfl
    rw [hchan, hbeside.eq, State.qlenOf_dress]
  have hb := Aside.beside (Aside.addPend (w.resPend (s.iss g i) 8 rs)) hbeside
  have hpaths : (qlenMeaning.eff w (s.iss g i)).sch.paths = (s.entered g i).sch.paths := by
    rw [← State.countedAt_paths (s.entered g i) s g i, hcounted]; rfl
  refine ⟨w.resPend (s.iss g i) 8 rs, does_of_takes h (qlen_takes h hcap) hcounted hb hpaths rfl rfl rfl rfl, ?_, ?_, ?_⟩
  · exact congrArg (· + 8) hbeside.alike.cycle
  · show tokPairs _ (rs.map (·.l)) = _
    simp only [rs, List.map_map, Function.comp_def, List.map_id']
    rfl
  · refine resWrites_congr _ ?_
    simp only [rs, List.map_map, Function.comp_def, LaneRes.bare, hlen]

end

/-- DEQMORE of one lane, with what each part of the machine is behind it (R57, R61, R297). -/
theorem deqmore_dealt {s : State} {g : IssueGroup} {f : LForm} {l : Lane} {t : Team} {st : Stage} {k : QKey} {q : Queue} {m : Nat}
    (h : s.ready g (.deqmore f) = true) (hact : s.acting g (.deqmore f) = [l]) (ht : s.team? l.t.tid = some t)
    (hst : s.stage? g.part g.ctx g.stage = some st) (hin : st.inkind ≠ 0) (hrec : st.hasRec = true)
    (hk : s.inputOf g.part g.ctx g.stage st = k) (hq : s.queue? k = some q) (hw : q.waiting = [])
    (hm : min (s.rd32 l.t (fieldsOf (.deqmore f)).lit (fieldsOf (.deqmore f)).b) (min (t.groups * t.width - t.dealt) (s.viewLen g.core k)) = m) :
    ∃ (b : State) (p : Pend), Does s g (.deqmore f) b ∧
      b = { s with sch.teams := b.sch.teams, sch.sub := b.sch.sub, gr.queues := b.gr.queues, r.scr := b.r.scr,
                   r.sline := b.r.sline, m.l1 := b.m.l1, sch.pend := s.sch.pend ++ [p] } ∧
      b.queue? k = some ((q.taken s.clk.cycle m).startRefill s.clk.cycle) ∧ (∀ j, j ≠ k → b.queue? j = s.queue? j) ∧
      b.team? l.t.tid = some { t with clean := false, dealt := t.dealt + (q.takeN s.clk.cycle m).1.length } ∧
      b.viewLen g.core k = s.viewLen g.core k - (q.takeN s.clk.cycle m).1.length ∧
      (∀ sz, (∀ x ∈ (q.takeN s.clk.cycle m).1, x.r.bytes.length = sz) → ∀ j x, (q.takeN s.clk.cycle m).1[j]? = some x →
        b.sreads l.t.tid (st.recbase + (t.dealt + j) * sz) sz = x.r.bytes) ∧
      p.due = s.clk.cycle + (lateBy s.clk.cycle (q.takeN s.clk.cycle m).2.2 + 170 + 2 * ((q.takeN s.clk.cycle m).1.length % 65536 - 1) +
        s.pairLat (s.iss g (.deqmore f))) ∧
      p.toks = tokPairs (fieldsOf (.deqmore f)).tok [l] ∧
      p.writes = resWrites (Fm.writes (Instr.deqmore f).cls (opNo (.deqmore f)) (fieldsOf (.deqmore f)))
        [⟨l, [BitVec.ofNat 32 ((q.takeN s.clk.cycle m).1.length + t.dealt * 65536)], 0⟩] := by
  obtain ⟨p, hdoes, hdue, htoks, hwrites⟩ := deqmore_does h hact ht hst hin hrec hk hq hw hm
  have hlane : l ∈ s.entrants g (.deqmore f) := State.acting_sub_entrants (by rw [hact]; exact List.mem_cons_self)
  have hteam := s.team?_close_eq (s.entrants g (.deqmore f)) l.t.tid
  rw [ht, Option.map_some, if_pos (List.mem_map_of_mem (f := fun l : Lane => l.t.tid) hlane)] at hteam
  have hclosed := s.close_frame (s.entrants g (.deqmore f))
  obtain ⟨c, hc⟩ : ∃ c, s.close (s.entrants g (.deqmore f)) = c := ⟨_, rfl⟩
  rw [hc] at hdoes hteam hclosed
  have hqc : c.queue? k = some q := by rw [hclosed]; exact hq
  have hcycle : c.clk.cycle = s.clk.cycle := by rw [hclosed]
  have hview : c.viewLen g.core k = s.viewLen g.core k := by rw [hclosed]; rfl
  have hothers (j : QKey) : c.queue? j = s.queue? j := by rw [hclosed]; rfl
  obtain ⟨hself, hother, hteam', hview', hreads⟩ := State.dealTo_spec (i := s.iss g (.deqmore f)) (base := st.recbase) (first := t.dealt)
    (xs := (q.takeN s.clk.cycle m).1) hqc (q.sameButRecords_taken s.clk.cycle m) hteam
  rw [hcycle] at hself
  rw [show (s.iss g (.deqmore f)).g = g from rfl, hview] at hview'
  refine ⟨_, p, hdoes, ?_, hself, fun j hj => (hother j hj).trans (hothers j), hteam', hview', hreads, hdue, htoks, hwrites⟩
  rw [State.addPend, State.dealTo_frame, hclosed]

/-- Settles O27: `deqmore_dealt` says what one lane takes and deals, `qlen_does` what the lanes answer. -/
theorem recordsDealt : Obligations.RecordsDealt := by
  unfold Obligations.RecordsDealt
  refine ⟨fun s g f l t st q => ?_, fun s g f => ?_⟩
  · intro i h hact ht hst hin hrec k hq hw tid m d xs n
    obtain ⟨b, p, hdoes, hframe, hself, hother, hteam, hview, hreads, hdue, htoks, hwrites⟩ :=
      deqmore_dealt h hact ht hst hin hrec rfl hq hw rfl
    exact ⟨b, p, hdoes, hframe, (q.takeN_spec _ _).2, hself, hother, hteam, hview, hdue, htoks, hwrites, hreads⟩
  · intro i ls e h hcap
    exact qlen_does h hcap

end Sys2Proof.Machine

namespace Sys2Proof.Machine

open Sys2Proof

/-! # Words that are charged (O26, O28) -/

/-! ## Capability entries whose ALLOW has fallen -/

theorem capCharge_low (n : Nat) (e : DWord) : (capCharge n e).toNat % 2 ^ 32 = e.toNat % 2 ^ 32 := by
  unfold capCharge
  split
  · rfl
  · rw [BitVec.toNat_sub, BitVec.toNat_ofNat]
    omega

section

variable {e e' : Nat} (h : e % 2 ^ 32 = e' % 2 ^ 32)
include h

theorem capKind_low : capKind e = capKind e' := by
  unfold capKind bitsOf
  rw [Nat.shiftRight_eq_div_pow, Nat.shiftRight_eq_div_pow]
  omega

theorem capTarget_low : capTarget e = capTarget e' := by
  unfold capTarget bitsOf
  rw [Nat.shiftRight_eq_div_pow, Nat.shiftRight_eq_div_pow]
  omega

theorem testBit_low {n : Nat} (hn : n < 32) : e.testBit n = e'.testBit n := by
  have hbit (x : Nat) : (x % 2 ^ 32).testBit n = x.testBit n := by rw [Nat.testBit_mod_two_pow, decide_eq_true hn, Bool.true_and]
  rw [← hbit e, ← hbit e', h]

theorem chanKey_low (part ctx : Nat) : chanKey part ctx e = chanKey part ctx e' := by unfold chanKey; rw [capTarget_low h]

end

/-! ## What a charge leaves as it is -/

/-- `u` is `s` but for paths, busy units, what issuing counts, and CLEAN and ALLOW of the teams. -/
structure Paid (s u : State) : Prop where
  eq : u = State.dress { s with sch.teams := u.sch.teams } u.r.thr u.sch.paths u.sch.busy
  bare : ∀ x, (u.thr x).bare = (s.thr x).bare
  teams : ∀ n, (u.team? n).map Team.fixed = (s.team? n).map Team.fixed
  chan : ∀ n f, u.chanOf n f % 2 ^ 32 = s.chanOf n f % 2 ^ 32

theorem Beside.teams {b u : State} (h : Beside b u) : u.sch.teams = b.sch.teams := by rw [h.eq]; rfl

theorem Beside.paid {b u : State} (h : Beside b u) : Paid b u := by
  have ht := h.teams
  refine ⟨?_, h.bare, fun n => ?_, fun n f => ?_⟩
  · rw [ht]; exact h.eq
  · unfold State.team?; rw [ht]
  · unfold State.chanOf State.team?; rw [ht]

/-- A team that is charged for `n` lanes. -/
def Team.charge (i : Iss) (n : Nat) (t : Team) : Team := { t with chan := setAt t.chan (mdCh i.f.md) (capCharge n) }

theorem capCharge_getD (xs : List DWord) (i j n : Nat) :
    ((setAt xs i (capCharge n)).getD j 0).toNat % 2 ^ 32 = (xs.getD j 0).toNat % 2 ^ 32 := by
  unfold setAt
  rw [List.getD_eq_getElem?_getD, List.getD_eq_getElem?_getD, List.getElem?_modify]
  cases xs[j]? with
  | none => rfl
  | some e =>
    by_cases hij : i = j
    · simpa [hij] using capCharge_low n e
    · simp [hij]

theorem State.chanOf_close (s : State) (ls : List Lane) (n : Nat) (f : Fm) : (s.close ls).chanOf n f = s.chanOf n f := by
  unfold State.chanOf
  rw [State.team?_close_eq]
  cases s.team? n with
  | none => rfl
  | some t => simp only [Option.map_some]; split <;> rfl

theorem State.chanOf_closed (s : State) (g : IssueGroup) (i : Instr) (n : Nat) (f : Fm) : (s.closed g i).chanOf n f = s.chanOf n f :=
  State.chanOf_close ..

namespace Paid

variable {s u v : State}

theorem trans (h : Paid s u) (h' : Paid u v) : Paid s v := by
  have e := h'.eq
  rw [h.eq] at e
  exact ⟨e, fun x => (h'.bare x).trans (h.bare x), fun n => (h'.teams n).trans (h.teams n),
    fun n f => (h'.chan n f).trans (h.chan n f)⟩

/-- Of the teams only CLEAN and channels whose low words stay. -/
theorem of_team (h : u = { s with sch.teams := u.sch.teams }) (hteams : ∀ n, (u.team? n).map Team.fixed = (s.team? n).map Team.fixed)
    (hchan : ∀ n f, u.chanOf n f % 2 ^ 32 = s.chanOf n f % 2 ^ 32) : Paid s u := by
  have hthr : u.r.thr = s.r.thr := by rw [h]
  have hpaths : u.sch.paths = s.sch.paths := by rw [h]
  have hbusy : u.sch.busy = s.sch.busy := by rw [h]
  refine ⟨?_, fun x => by rw [State.thr_of_regs hthr], hteams, hchan⟩
  rw [hthr, hpaths, hbusy]
  exact h

theorem close (s : State) (ls : List Lane) : Paid s (s.close ls) :=
  of_team (s.close_frame ls) (s.alike_close ls).teams fun n f => by rw [State.chanOf_close]

theorem charge (s : State) (i : Iss) (tid n : Nat) : Paid s (s.setTeam tid (Team.charge i n)) := by
  refine of_team (State.setTeam_frame ..) (fun k => ?_) fun k f => ?_
  · rw [State.team?_setTeam]
    split
    · cases s.team? k <;> rfl
    · rfl
  · unfold State.chanOf
    rw [State.team?_setTeam]
    by_cases hk : k = tid
    · rw [if_pos hk]
      cases s.team? k with
      | none => rfl
      | some t => exact capCharge_getD ..
    · rw [if_neg hk]

variable (h : Paid s u)
include h

theorem alike : Alike s u := by
  refine ⟨?_, ?_, ?_, ?_, ?_, ?_, ?_, h.teams⟩ <;> rw [h.eq] <;> rfl

theorem queue? (k : QKey) : u.queue? k = s.queue? k := by rw [h.eq]; rfl

theorem ceilOf (k : QKey) : u.ceilOf k = s.ceilOf k := by unfold State.ceilOf; rw [h.queue?]

theorem roomFor (k : QKey) (p n : Nat) : u.roomFor k p n = s.roomFor k p n := by unfold State.roomFor; rw [h.queue?]

theorem filterOf (n : Nat) : u.filterOf n = s.filterOf n := by rw [h.eq]; rfl

theorem heldMail (n : Nat) : u.heldMail n = s.heldMail n := by rw [h.eq]; rfl

theorem mailFull (n : Nat) : u.mailFull n = s.mailFull n := by unfold State.mailFull; rw [h.filterOf, h.heldMail]

theorem mailQueue (n : Nat) : u.mailQueue n = s.mailQueue n := by rw [h.eq]; rfl

theorem consumer (k : QKey) : u.consumer k = s.consumer k := by rw [h.eq]; rfl

theorem stage? (part ctx n : Nat) : u.stage? part ctx n = s.stage? part ctx n := by rw [h.eq]; rfl

theorem scrSize (tid : Nat) : u.scrSize tid = s.scrSize tid := by
  unfold State.scrSize
  obtain ⟨hs, hu⟩ | ⟨t, t', hs, hu, hf⟩ := h.alike.team?_cases tid
  · rw [hs, hu]; rfl
  · have hstage : u.stageOf t' = s.stageOf t := by
      have hst : t'.stage = t.stage := (congrArg Team.stage hf :)
      have hpart : t'.part = t.part := (congrArg Team.part hf :)
      have hctx : t'.ctx = t.ctx := (congrArg Team.ctx hf :)
      unfold State.stageOf
      rw [hst, hpart, hctx, h.stage?]
    rw [hs, hu, Option.bind_some, Option.bind_some, hstage]

theorem groupChan (i : Iss) : u.groupChan i % 2 ^ 32 = s.groupChan i % 2 ^ 32 := by
  unfold State.groupChan
  split
  · exact h.chan ..
  · rfl

theorem chanRsz {e e' : Nat} (he : e % 2 ^ 32 = e' % 2 ^ 32) (part ctx : Nat) : u.chanRsz part ctx e = s.chanRsz part ctx e' := by
  unfold State.chanRsz
  have hq : u.queue? = s.queue? := funext h.queue?
  rw [capKind_low he, capTarget_low he, chanKey_low he, h.mailQueue, hq]

theorem recOff (i : Iss) (l : Lane) : u.recOff i l = s.recOff i l := h.alike.rd32 ..

theorem sreads (tid off n : Nat) : u.sreads tid off n = s.sreads tid off n := by rw [h.eq]; rfl

theorem slabel (tid off n : Nat) : u.slabel tid off n = s.slabel tid off n := by rw [h.eq]; rfl

theorem sabsent (tid off n : Nat) : u.sabsent tid off n = s.sabsent tid off n := by rw [h.eq]; rfl

theorem recBytes (l : Lane) (a n : Nat) : u.recBytes l a n = s.recBytes l a n := by
  unfold State.recBytes
  rw [h.sabsent, h.sreads]

theorem cmdLbl (i : Iss) (l : Lane) (a n : Nat) : u.cmdLbl i l a n = s.cmdLbl i l a n := by
  unfold State.cmdLbl
  rw [h.alike.aluLbl, h.slabel]

theorem recFlt (i : Iss) (n : Nat) (l : Lane) : u.recFlt i n l = s.recFlt i n l := by
  unfold State.recFlt
  rw [h.recOff, h.scrSize]

theorem regs (x : GRef) : u.regs x = s.regs x := by rw [h.eq]; rfl

end Paid

/-! ## A word of one lane that is charged -/

/-- The team of a lane closes CLEAN and is charged for the lane (R54, R213). -/
def State.paid (s : State) (g : IssueGroup) (i : Instr) (l : Lane) : State :=
  (s.close (s.entrants g i)).setTeam l.t.tid (Team.charge (s.iss g i) 1)

theorem State.charge_one {u : State} {i : Iss} {l : Lane} (hon : i.on = [l]) (hc : u.chargedLane l = false) :
    u.charge i = (u.setTeam l.t.tid (Team.charge i 1)).chargePaths [l.pid] 1 := by
  have hcount : u.chargeCount i l.t.tid = 1 := by unfold State.chargeCount; simp [hon, hc]
  have htids : tidsOf [l] = [l.t.tid] := rfl
  unfold State.charge
  simp only [hon, htids, List.foldl_cons, List.foldl_nil, hcount, List.filter_cons, hc, Bool.not_false, if_true, List.filter_nil]
  exact State.markCharged_chargePaths ..

theorem State.chargePaths_eq {s : State} {pids : List Nat} {n : Nat} {ps : List Path} (h : (s.chargePaths pids n).sch.paths = ps) :
    s.chargePaths pids n = { s with sch.paths := ps } := by subst h; rfl

theorem State.beside_chargePaths (s : State) (pids : List Nat) (n : Nat) : Beside s (s.chargePaths pids n) := .of_paths rfl

section

variable {s : State} {g : IssueGroup} {i : Instr} {l : Lane}

theorem State.paid_paid (s : State) (g : IssueGroup) (i : Instr) (l : Lane) : Paid s (s.paid g i l) :=
  (Paid.close ..).trans (Paid.charge ..)

theorem State.paid_frame (s : State) (g : IssueGroup) (i : Instr) (l : Lane) :
    s.paid g i l = { s with sch.teams := (s.paid g i l).sch.teams } := by
  unfold State.paid
  rw [State.setTeam_frame, State.close_frame]

theorem State.acting_of_entrants {t : Team} (hent : s.entrants g i = [l]) (ht : s.team? l.t.tid = some t) : s.acting g i = [l] := by
  have hteam : ((s.entered g i).team? l.t.tid).isSome = true := by
    rw [show (s.entered g i).team? l.t.tid = s.team? l.t.tid from rfl, ht]; rfl
  show (s.entered g i).alive (s.entrants g i) = [l]
  rw [hent]
  exact List.filter_cons_of_pos (l := []) hteam

theorem State.iss0_of_entrants {t : Team} (hent : s.entrants g i = [l]) (ht : s.team? l.t.tid = some t) : s.iss0 g i = s.iss g i := by
  unfold State.iss0
  rw [hent, ← State.acting_of_entrants hent ht]
  rfl

theorem State.paid_team? (hent : s.entrants g i = [l]) (n : Nat) : (s.paid g i l).team? n = (s.team? n).map fun t =>
    if n = l.t.tid then { t with clean := false, chan := setAt t.chan (mdCh (fieldsOf i).md) (capCharge 1) } else t := by
  unfold State.paid
  rw [State.team?_setTeam, State.team?_close_eq, hent, List.map_singleton]
  by_cases hn : n = l.t.tid
  · subst hn
    cases s.team? l.t.tid <;> simp [Team.charge, State.iss]
  · simp [hn]

/-- The path of a lane is charged so far. -/
def State.chargedAs (s : State) (l : Lane) (n : Nat) : Prop := ∀ p ∈ s.sch.paths, p.id = l.pid → p.charged = n

theorem State.chargedAs.any {u : State} {n : Nat} (h : u.chargedAs l n) {f : Nat → Bool} (hf : f n = false) :
    ((u.path? l.pid).any fun p => f p.charged) = false := by
  cases hp : u.path? l.pid with
  | none => rfl
  | some p => rw [Option.any_some, h p (List.mem_of_find?_eq_some hp) (by simpa using List.find?_some hp), hf]

theorem State.chargedAs.chargedLane {u : State} (h : u.chargedAs l 0) : u.chargedLane l = false :=
  h.any (f := fun n => decide (n ≠ 0)) rfl

theorem State.chargedAs_entered {u : State} {n : Nat} (h : s.chargedAs l n) (hu : u.sch.paths = (s.entered g i).sch.paths) :
    u.chargedAs l n := by
  intro p hp hid
  rw [hu, s.entered_entry] at hp
  obtain ⟨q, hq, rfl⟩ := List.mem_map.1 hp
  rw [Path.entry_charged]
  exact h q hq ((q.entry_id s g i).symm.trans hid)

theorem State.chargedAs_chargePaths (u : State) (l : Lane) (n : Nat) : (u.chargePaths [l.pid] n).chargedAs l n := by
  intro p hp hid
  obtain ⟨q, hq, rfl⟩ := List.mem_map.1 hp
  unfold Path.chargeIn at hid ⊢
  split
  · rfl
  · next hne => rw [if_neg hne] at hid; exact absurd (List.mem_singleton.2 hid) hne

/-- When a word is charged, its paths stand as before its entry. -/
theorem State.states_of_charged {w : State} {P : PState → Prop} (h : ∀ p ∈ s.sch.paths, P p.state)
    (hw : w.sch.paths = ((s.entered g i).chargePaths [l.pid] 1).sch.paths) : ∀ p ∈ w.sch.paths, P p.state := by
  intro p hp
  rw [hw] at hp
  obtain ⟨q, hq, rfl⟩ := List.mem_map.1 hp
  rw [s.entered_entry] at hq
  obtain ⟨x, hx, rfl⟩ := List.mem_map.1 hq
  rw [Path.chargeIn_state, Path.entry_state]
  exact h x hx

theorem State.chargedAs_of_charged {w : State} (hw : w.sch.paths = ((s.entered g i).chargePaths [l.pid] 1).sch.paths) :
    w.chargedAs l 1 := by
  intro p hp
  rw [hw] at hp
  exact State.chargedAs_chargePaths _ l 1 p hp

/-- A path that a word has charged, and uncharges again, is as its entry left it. -/
theorem State.uncharge_paths {w : State} (hfree : s.chargedAs l 0)
    (hw : w.sch.paths = ((s.entered g i).chargePaths [l.pid] 1).sch.paths) :
    (w.chargePaths [l.pid] 0).sch.paths = (s.entered g i).sch.paths := by
  show w.sch.paths.map _ = _
  rw [hw]
  show ((s.entered g i).sch.paths.map _).map _ = _
  rw [List.map_map]
  refine (List.map_congr_left fun p hp => ?_).trans (List.map_id _)
  have hp0 := State.chargedAs_entered (g := g) (i := i) hfree rfl p hp
  show (p.chargeIn [l.pid] 1).chargeIn [l.pid] 0 = p
  unfold Path.chargeIn
  by_cases hid : p.id = l.pid
  · rw [if_pos (List.mem_singleton.2 hid), if_pos (List.mem_singleton.2 hid), ← hp0 hid]
  · simp [hid]

/-- A word of one lane that closes CLEAN and is charged completes: its effect finds the team paid and the path charged. -/
theorem takes_charged {m : Meaning} {t : Team} (h : s.ready g i = true) (he : exec i s = runWord i m s) (hent : s.entrants g i = [l])
    (ht : s.team? l.t.tid = some t) (hfree : s.chargedAs l 0) (hcl : ∀ t is l, m.closes t is l = true)
    (hf : ∀ u, Paid s u → u.chargedAs l 0 → (∀ n f, u.chanOf n f = s.chanOf n f) → m.flt u (s.iss g i) l = none)
    (hh : ∀ u : State, u.chargedAs l 0 → m.hold u (s.iss g i) = (u.charge (s.iss g i), none))
    (hs : ∀ u, Paid s u → u.chargedAs l 1 → m.stop u (s.iss g i) = (u, [])) :
    ∃ v w, Takes s g i v (fun w => m.eff w (s.iss g i)) ∧ v.countedAt s g i = w ∧ Beside (s.paid g i l) w ∧
      w.sch.paths = ((s.entered g i).chargePaths [l.pid] 1).sch.paths := by
  have hact := State.acting_of_entrants hent ht
  have hfree' : (s.closed g i).chargedAs l 0 := State.chargedAs_entered hfree (s.closed_paths g i)
  have hcharge := State.charge_one (u := s.closed g i) (i := s.iss g i) hact hfree'.chargedLane
  have hclosed : Paid s (s.closed g i) := (Paid.close ..).trans (s.beside_closed g i).paid
  obtain ⟨v, hv⟩ : ∃ v, (s.closed g i).charge (s.iss g i) = v := ⟨_, rfl⟩
  have hbeside : Beside (s.paid g i l) v := by
    rw [← hv, hcharge]
    exact ((Aside.setTeam _ _).beside (s.beside_closed g i)).trans (State.beside_chargePaths ..)
  have hpaid : Paid s v := (s.paid_paid g i l).trans hbeside.paid
  have hpaths : v.sch.paths = ((s.entered g i).chargePaths [l.pid] 1).sch.paths := by
    rw [← hv, hcharge]
    show ((s.closed g i).setTeam _ _).sch.paths.map _ = _
    rw [State.setTeam_sch_paths, s.closed_paths g i]
    rfl
  have hone : v.chargedAs l 1 := State.chargedAs_of_charged hpaths
  refine ⟨v, _, takes_closes h he hcl (fun l' hl' => ?_) ((hh _ hfree').trans (by rw [hv])) ?_ (hs v hpaid hone), rfl,
    hbeside.trans (.countedAt ..), (State.countedAt_paths ..).trans hpaths⟩
  · rw [hact, List.mem_singleton] at hl'
    subst hl'
    rw [State.iss0_of_entrants hent ht]
    exact hf _ hclosed hfree' fun n f => s.chanOf_closed g i n f
  · exact (hpaid.alike.alive _).trans (s.acting_alive g i)

/-- The charged word has an effect that stands aside from threads and paths, then uncharges its path and drops its token. -/
theorem does_of_charged {v w : State} {eff : State → State} {f : State → State} (h : s.ready g i = true) (hfree : s.chargedAs l 0)
    (ht : Takes s g i v eff) (hw : v.countedAt s g i = w) (hb : Beside (s.paid g i l) w)
    (hp : w.sch.paths = ((s.entered g i).chargePaths [l.pid] 1).sch.paths) (hf : Aside f)
    (hu : Counts ((f w).chargePaths [l.pid] 0) (eff w))
    (hfl : ∀ s : State, (f s).r.lbl = s.r.lbl ∧ (f s).sch.igs = s.sch.igs ∧ (f s).clk.cycle = s.clk.cycle) :
    Does s g i (f (s.paid g i l)) := by
  have hframe := s.paid_frame g i l
  have hbeside : Beside (f (s.paid g i l)) (eff w) :=
    ((hf.beside hb).trans (State.beside_chargePaths ..)).trans (.of_counts hu)
  have hpaths : (eff w).sch.paths = (s.entered g i).sch.paths := by
    rw [show (eff w).sch.paths = ((f w).chargePaths [l.pid] 0).sch.paths by rw [hu.1]]
    exact State.uncharge_paths hfree ((Aside.paths hf w).trans hp)
  obtain ⟨hlbl, higs, hcycle⟩ := hfl (s.paid g i l)
  refine does_of_takes h ht hw hbeside hpaths ((Aside.paths hf _).trans ?_) (higs.trans ?_) (hlbl.trans ?_) (hcycle.trans ?_) <;> rw [hframe]

end

end Sys2Proof.Machine

namespace Sys2Proof.Machine

open Sys2Proof

/-! # ENQ and ENQI (O26) -/

/-! ## What the checks find in a state that is charged -/

namespace Paid

variable {s u : State} (h : Paid s u)
include h

theorem enqRsz (i : Iss) : u.enqRsz i = s.enqRsz i := h.chanRsz (h.groupChan i) _ _

theorem enqRec (i : Iss) (l : Lane) : u.enqRec i l = s.enqRec i l := by
  unfold State.enqRec
  simp only [h.enqRsz, h.recOff, h.recBytes, h.cmdLbl, h.alike.vSpan, h.alike.opLbl]

theorem enqRecFlt (i : Iss) (l : Lane) : u.enqRecFlt i l = s.enqRecFlt i l := by
  unfold State.enqRecFlt
  simp only [h.enqRsz, h.recOff, h.scrSize]

theorem mayInline (i : Iss) (st : Stage) (l : Lane) : u.mayInline i st l = s.mayInline i st l := by
  have hdepth : (u.thr l.t).inlDepth = (s.thr l.t).inlDepth := (congrArg Thread.inlDepth (h.bare l.t) :)
  have hperm : (u.chanOf l.t.tid i.f).testBit permInl = (s.chanOf l.t.tid i.f).testBit permInl := testBit_low (h.chan ..) (by decide)
  unfold State.mayInline
  rw [hdepth, hperm, h.regs]

theorem inlines (i : Iss) : u.inlines i = s.inlines i := by
  have hq : u.queue? = s.queue? := funext h.queue?
  have hmay : u.mayInline i = s.mayInline i := funext fun st => funext (h.mayInline i st)
  unfold State.inlines
  simp only [capKind_low (h.groupChan i), chanKey_low (h.groupChan i), hq, h.enqRsz, h.consumer, hmay]

end Paid

section

variable {u : State} {i : Iss} {l : Lane} {t : Team} {r : Rec}

theorem State.groupChan_of_one (hon : i.on = [l]) : u.groupChan i = u.chanOf l.t.tid i.f := by
  unfold State.groupChan; rw [hon]

theorem State.chanOf_of_team (ht : u.team? l.t.tid = some t) (f : Fm) : u.chanOf l.t.tid f = (t.chan.getD (mdCh f.md) 0).toNat := by
  unfold State.chanOf; rw [ht]

/-- A lane whose entry is in order and not spent has no capability fault (R54, R294). -/
theorem State.capFlt_none {e perm : Nat} {kinds : List Nat} (hon : i.on = [l]) (hc : u.chargedLane l = false)
    (he : u.chanOf l.t.tid i.f = e) (hvalid : capValid e = true) (hkind : kinds.contains (capKind e) = true)
    (hperm : e.testBit perm = true) (hallow : capAllow e ≠ 0) : u.capFlt i kinds perm true l = none := by
  have hcount : u.chargeCount i l.t.tid = 1 := by unfold State.chargeCount; simp [hon, hc]
  unfold State.capFlt
  simp only [he, hc, hcount, hvalid, hkind, hperm, Bool.not_true, Bool.false_or, Bool.false_eq_true, if_false, if_true,
    Nat.lt_one_iff, hallow, decide_false, Bool.and_false]

/-- The record of one lane whose label its queue takes, or that its consumer takes inline, has no fault (R294, R295). -/
theorem State.enqFlt_none (hcap : u.capFlt i [0, 1, 2] permEnq true l = none) (hrecFlt : u.enqRecFlt i l = none)
    (hrec : u.enqRec i l = .ok r)
    (hlbl : capKind (u.groupChan i) ≠ 0 ∨ (u.inlines i).isSome = true ∨
      Label.sub r.lbl (u.ceilOf (chanKey i.g.part i.g.ctx (u.groupChan i))) = true) : u.enqFlt i l = none := by
  have hlblFlt : u.enqLblFlt i l = none := by
    unfold State.enqLblFlt
    simp only [hrec]
    obtain hk | hi | hsub := hlbl
    · simp [hk]
    · simp [hi]
    · simp [hsub]
  unfold State.enqFlt
  rw [hcap, hrecFlt, hlblFlt]
  rfl

/-- One lane with its record goes on where its queue has room, its mailbox is not full, or its consumer takes the record inline. -/
theorem State.enqStop_none (hon : i.on = [l]) (hrec : u.enqRec i l = .ok r) (hremote : capKind (u.groupChan i) ≠ 1)
    (hroom : capKind (u.groupChan i) = 0 → (u.inlines i).isSome = true ∨ u.roomFor (chanKey i.g.part i.g.ctx (u.groupChan i)) 0 1 = true)
    (hmail : capKind (u.groupChan i) = 2 → u.mailFull (capTarget (u.groupChan i)) = false) : u.enqStop i = (u, []) := by
  have hiss : ({ i with on := [l] } : Iss) = i := by rw [← hon]
  have hfull : (decide (capKind (u.groupChan i) = 2) && u.mailFull (capTarget (u.groupChan i))) = false := by
    by_cases hk : capKind (u.groupChan i) = 2
    · rw [hmail hk, Bool.and_false]
    · rw [decide_eq_false hk, Bool.false_and]
  have hwait : ((decide (capKind (u.groupChan i) = 1) ||
      (decide (capKind (u.groupChan i) = 0) && !u.roomFor (chanKey i.g.part i.g.ctx (u.groupChan i)) 0 1)) &&
      (u.inlines i).isNone) = false := by
    by_cases hk : capKind (u.groupChan i) = 0
    · obtain hi | hr := hroom hk
      · obtain ⟨st, hst⟩ := Option.isSome_iff_exists.1 hi
        rw [hst, Option.isNone_some, Bool.and_false]
      · rw [hr, decide_eq_false hremote]
        simp
    · rw [decide_eq_false hk, decide_eq_false hremote]
      rfl
  have hmerge : mergeLines [] = [] := rfl
  unfold State.enqStop
  simp only [hon, List.filterMap_cons, List.filterMap_nil, hrec, hmerge, List.map_nil, List.contains_nil, Bool.not_false,
    List.filter_true, hiss, List.length_singleton, List.isEmpty_cons, Bool.true_and, hwait, hfull, Bool.false_eq_true, if_false,
    List.nil_append]

/-- No path is parked at a queue. -/
def State.queueless (s : State) : Prop := ∀ p ∈ s.sch.paths, ∀ k, p.state ≠ .parked (.queue k)

theorem State.queueless.justQueued (h : u.queueless) (i : Iss) : u.justQueued i = [] := by
  refine List.filter_eq_nil_iff.2 fun p hp => ?_
  have hst := h p hp
  split
  · next k hk => exact absurd hk (hst k)
  · simp

theorem State.queueless.justParked (h : u.queueless) (i : Iss) (k : QKey) : u.justParked i (.queue k) = [] :=
  List.filter_eq_nil_iff.2 fun p hp => by simp [h p hp k]

/-- The record of one lane is passed on where no path waits at a queue (R295). -/
theorem State.enqueue_one {x : State} (hon : i.on = [l]) (hfree : u.queueless) (hrec : u.enqRec i l = .ok r)
    (hx : (capKind (u.chanOf l.t.tid i.f) = 0 ∧ u.placeRec (chanKey i.g.part i.g.ctx (u.chanOf l.t.tid i.f)) 0 r none 1 = x) ∨
      (capKind (u.chanOf l.t.tid i.f) = 2 ∧ u.mail i (capTarget (u.chanOf l.t.tid i.f)) r = x)) :
    u.enqueue i = (x.chargePaths [l.pid] 0).tokDown i.f.tok [l.t] := by
  have hall : sortBy Lane.q (i.on ++ (u.justQueued i).flatMap u.pathLanes) = [l] := by
    rw [hfree.justQueued, hon]; rfl
  have hrecs : u.enqRecs i [l] = [r] := by
    unfold State.enqRecs
    rw [List.filterMap_cons, hrec]; rfl
  unfold State.enqueue
  rw [hall, hon]
  dsimp only
  rw [hrecs]
  obtain ⟨hk, rfl⟩ | ⟨hk, rfl⟩ := hx
  · rw [hk, hfree.justParked, State.markCharged_chargePaths]
    rfl
  · rw [hk, State.markCharged_chargePaths]
    rfl

/-- A mailbox that may pass a record on passes it to its queue (R376). -/
theorem State.mail_placed {n : Nat} {k : QKey} (hk : u.mailQueue n = some k) (hvalid : filtValid (u.filterOf n) = true)
    (hpart : filtSpart (u.filterOf n) = i.g.part) (hmax : Label.sub r.lbl (filtMax (u.filterOf n)) = true)
    (hcredit : u.heldMail n < filtCredit (u.filterOf n)) (hceil : Label.sub r.lbl (u.ceilOf k) = true)
    (hroom : u.roomFor k 0 1 = true) : u.mail i n r = u.placeRec k 0 r none 1 := by
  unfold State.mail
  simp only [hk, hvalid, hpart, hmax, hceil, hroom, Nat.not_le.2 hcredit]
  simp

end

theorem Aside.placeRec (k : QKey) (p : Nat) (r : Rec) (lr : Option LRec) (n : Nat) : Aside fun s => s.placeRec k p r lr n :=
  fun t thr ps busy => Aside.setQueue k (fun q => q.put p ⟨q.next, r, t.clk.tclk, lr, n⟩) t thr ps busy

theorem State.placeRec_frame (s : State) (k : QKey) (p : Nat) (r : Rec) (lr : Option LRec) (n : Nat) :
    s.placeRec k p r lr n = { s with gr.queues := (s.placeRec k p r lr n).gr.queues } := State.setQueue_frame ..

theorem State.placeRec_keeps (k : QKey) (r : Rec) (s : State) : (s.placeRec k 0 r none 1).r.lbl = s.r.lbl ∧
    (s.placeRec k 0 r none 1).sch.igs = s.sch.igs ∧ (s.placeRec k 0 r none 1).clk.cycle = s.clk.cycle := by
  rw [State.placeRec_frame]; exact ⟨rfl, rfl, rfl⟩

/-! ## The record of one lane -/

/-- The word is one of ENQ and ENQI. -/
def IsEnq (i : Instr) : Prop := (∃ f, i = .enq f) ∨ (∃ f, i = .enqLong f) ∨ (∃ f, i = .enqi f) ∨ (∃ f, i = .enqiLong f)

theorem exec_enq {i : Instr} (h : IsEnq i) (s : State) : exec i s = runWord i enqMeaning s := by
  obtain ⟨f, rfl⟩ | ⟨f, rfl⟩ | ⟨f, rfl⟩ | ⟨f, rfl⟩ := h <;> rfl

/-- One lane issues ENQ or ENQI with a record in order, at an entry `e` that is not spent. -/
structure Enqueues (s : State) (g : IssueGroup) (i : Instr) (l : Lane) (r : Rec) (e : Nat) : Prop where
  enq : IsEnq i
  ready : s.ready g i = true
  entrants : s.entrants g i = [l]
  team : ∃ t, s.team? l.t.tid = some t
  free : s.chargedAs l 0
  chan : s.chanOf l.t.tid (fieldsOf i) = e
  valid : capValid e = true
  perm : e.testBit permEnq = true
  allow : capAllow e ≠ 0
  recFlt : s.enqRecFlt (s.iss g i) l = none
  record : s.enqRec (s.iss g i) l = .ok r

namespace Enqueues

variable {s : State} {g : IssueGroup} {i : Instr} {l : Lane} {r : Rec} {e : Nat} (h : Enqueues s g i l r e)
include h

theorem on : (s.iss g i).on = [l] := by
  obtain ⟨t, ht⟩ := h.team
  exact State.acting_of_entrants h.entrants ht

theorem groupChan : s.groupChan (s.iss g i) = e := (State.groupChan_of_one h.on).trans h.chan

/-- The word completes where its record has no label fault and need not wait. -/
theorem takes (hkind : [0, 1, 2].contains (capKind e) = true) (hremote : capKind e ≠ 1)
    (hlbl : capKind e ≠ 0 ∨ (s.inlines (s.iss g i)).isSome = true ∨ Label.sub r.lbl (s.ceilOf (chanKey g.part g.ctx e)) = true)
    (hroom : capKind e = 0 → (s.inlines (s.iss g i)).isSome = true ∨ s.roomFor (chanKey g.part g.ctx e) 0 1 = true)
    (hmail : capKind e = 2 → s.mailFull (capTarget e) = false) :
    ∃ v w, Takes s g i v (fun w => enqMeaning.eff w (s.iss g i)) ∧ v.countedAt s g i = w ∧ Beside (s.paid g i l) w ∧
      w.sch.paths = ((s.entered g i).chargePaths [l.pid] 1).sch.paths := by
  obtain ⟨t, ht⟩ := h.team
  have hlow {u : State} (hp : Paid s u) : u.groupChan (s.iss g i) % 2 ^ 32 = e % 2 ^ 32 := by rw [hp.groupChan, h.groupChan]
  refine takes_charged h.ready (exec_enq h.enq s) h.entrants ht h.free (fun _ _ _ => rfl) (fun u hp hc hchan => ?_) (fun _ _ => rfl)
    fun u hp _ => ?_
  · have he := (hchan l.t.tid (fieldsOf i)).trans h.chan
    refine State.enqFlt_none (r := r) (State.capFlt_none h.on hc.chargedLane he h.valid hkind h.perm h.allow)
      ((hp.enqRecFlt ..).trans h.recFlt) ((hp.enqRec ..).trans h.record) ?_
    rw [capKind_low (hlow hp), chanKey_low (hlow hp), hp.inlines, hp.ceilOf]
    exact hlbl
  · refine State.enqStop_none (r := r) h.on ((hp.enqRec ..).trans h.record) ?_ ?_ ?_
    · rw [capKind_low (hlow hp)]; exact hremote
    · rw [capKind_low (hlow hp), chanKey_low (hlow hp), hp.inlines, hp.roomFor]; exact hroom
    · rw [capKind_low (hlow hp), capTarget_low (hlow hp), hp.mailFull]; exact hmail

end Enqueues

/-- Queue `q` of key `k` takes a record that is sent by the entry `e`: a local queue, or the queue of a mailbox (R49, R295, R376). -/
structure Accepts (s : State) (g : IssueGroup) (e : Nat) (r : Rec) (k : QKey) (q : Queue) : Prop where
  queue : s.queue? k = some q
  idle : q.waiting = []
  fits : q.fits 0 1 = true
  ceil : Label.sub r.lbl q.ceil = true
  dest : (capKind e = 0 ∧ k = chanKey g.part g.ctx e) ∨
    (capKind e = 2 ∧ s.mailQueue (capTarget e) = some k ∧ filtValid (s.filterOf (capTarget e)) = true ∧
      filtSpart (s.filterOf (capTarget e)) = g.part ∧ Label.sub r.lbl (filtMax (s.filterOf (capTarget e))) = true ∧
      s.heldMail (capTarget e) < filtCredit (s.filterOf (capTarget e)))

namespace Accepts

variable {s w : State} {g : IssueGroup} {i : Instr} {l : Lane} {e : Nat} {r : Rec} {k : QKey} {q : Queue} (h : Accepts s g e r k q)
include h

theorem kind : [0, 1, 2].contains (capKind e) = true ∧ capKind e ≠ 1 := by
  obtain ⟨hk, -⟩ | ⟨hk, -⟩ := h.dest <;> simp [hk]

theorem ceilOf : s.ceilOf k = q.ceil := by unfold State.ceilOf; rw [h.queue]

theorem roomFor : s.roomFor k 0 1 = true := by unfold State.roomFor; rw [h.queue]; simp [h.idle, h.fits]

theorem label : capKind e ≠ 0 ∨ (s.inlines (s.iss g i)).isSome = true ∨ Label.sub r.lbl (s.ceilOf (chanKey g.part g.ctx e)) = true := by
  obtain ⟨-, hk⟩ | ⟨hk, -⟩ := h.dest
  · rw [← hk, h.ceilOf]
    exact .inr (.inr h.ceil)
  · exact .inl (by omega)

theorem room (h0 : capKind e = 0) : (s.inlines (s.iss g i)).isSome = true ∨ s.roomFor (chanKey g.part g.ctx e) 0 1 = true := by
  obtain ⟨-, hk⟩ | ⟨hk, -⟩ := h.dest
  · rw [← hk]
    exact .inr h.roomFor
  · omega

theorem notFull (h2 : capKind e = 2) : s.mailFull (capTarget e) = false := by
  obtain ⟨hk, -⟩ | ⟨-, -, -, -, -, hcredit⟩ := h.dest
  · omega
  · unfold State.mailFull
    rw [decide_eq_false (Nat.not_le.2 hcredit), Bool.and_false]

/-- A record that is taken is not handed inline (R296). -/
theorem inlines {is : Iss} (hon : is.on = [l]) (hg : is.g = g) (he : s.groupChan is = e) : s.inlines is = none := by
  unfold State.inlines
  rw [he, hg]
  refine if_pos ?_
  obtain ⟨-, hk⟩ | ⟨hk, -⟩ := h.dest
  · rw [← hk, h.queue, hon]
    simp [h.fits]
  · simp [hk]

/-- The effect of ENQ in the one lane: its record is placed. -/
theorem enqueue {is : Iss} (hp : Paid s w) (hon : is.on = [l]) (hg : is.g = g) (he : s.chanOf l.t.tid is.f = e) (hfree : w.queueless)
    (hrec : s.enqRec is l = .ok r) :
    w.enqueue is = ((w.placeRec k 0 r none 1).chargePaths [l.pid] 0).tokDown is.f.tok [l.t] := by
  have hlow : w.chanOf l.t.tid is.f % 2 ^ 32 = e % 2 ^ 32 := by rw [hp.chan, he]
  refine State.enqueue_one hon hfree ((hp.enqRec ..).trans hrec) ?_
  rw [capKind_low hlow, chanKey_low hlow, capTarget_low hlow, hg]
  obtain ⟨hk, heq⟩ | ⟨hk, hbox, hvalid, hpart, hmax, hcredit⟩ := h.dest
  · rw [← heq]
    exact .inl ⟨hk, rfl⟩
  · refine .inr ⟨hk, State.mail_placed ((hp.mailQueue _).trans hbox) ?_ ?_ ?_ ?_ ?_ ?_⟩
    · rw [hp.filterOf]; exact hvalid
    · rw [hp.filterOf, hg]; exact hpart
    · rw [hp.filterOf]; exact hmax
    · rw [hp.filterOf, hp.heldMail]; exact hcredit
    · rw [hp.ceilOf, h.ceilOf]; exact h.ceil
    · rw [hp.roomFor]; exact h.roomFor

end Accepts

theorem enqMeaning_eff_of_none {w : State} {is : Iss} (h : w.inlines is = none) : enqMeaning.eff w is = w.enqueue is := by
  unfold enqMeaning
  simp only [h]

theorem enqMeaning_eff_of_some {w : State} {is : Iss} {st : Stage} (h : w.inlines is = some st) :
    enqMeaning.eff w is = w.inlineAll is st := by
  unfold enqMeaning
  simp only [h]

section

variable {s : State} {g : IssueGroup} {i : Instr} {l : Lane} {r : Rec} {e : Nat} {k : QKey} {q : Queue}

/-- A record that a queue accepts is placed at its tail. -/
theorem Enqueues.does (h : Enqueues s g i l r e) (hacc : Accepts s g e r k q) (hparked : s.queueless) :
    Does s g i ((s.paid g i l).placeRec k 0 r none 1) := by
  obtain ⟨v, w, htakes, hcounted, hbeside, hpaths⟩ := h.takes hacc.kind.1 hacc.kind.2 hacc.label hacc.room hacc.notFull
  have hp : Paid s w := (s.paid_paid g i l).trans hbeside.paid
  have hinlines := hacc.inlines h.on rfl h.groupChan
  have heff := (enqMeaning_eff_of_none ((hp.inlines _).trans hinlines)).trans
    (hacc.enqueue hp h.on rfl h.chan (State.states_of_charged (P := fun x => ∀ k, x ≠ .parked (.queue k)) hparked hpaths) h.record)
  have hcounts := State.counts_tokDown ((w.placeRec k 0 r none 1).chargePaths [l.pid] 0) (s.iss g i).f.tok [l.t]
  rw [← heff] at hcounts
  exact does_of_charged (f := fun s => s.placeRec k 0 r none 1) h.ready h.free htakes hcounted hbeside hpaths
    (Aside.placeRec k 0 r none 1) hcounts (State.placeRec_keeps k r)

/-- What the record placed and the charge leave of queues and teams. -/
theorem State.placed_spec {b : State} (hb : (s.paid g i l).placeRec k 0 r none 1 = b) (hent : s.entrants g i = [l])
    (hq : s.queue? k = some q) :
    b = { s with sch.teams := b.sch.teams, gr.queues := b.gr.queues } ∧
      b.queue? k = some ((q.put 0 ⟨q.next, r, s.clk.tclk, none, 1⟩).startRefill s.clk.cycle) ∧
      (∀ j, j ≠ k → b.queue? j = s.queue? j) ∧
      ∀ n, b.team? n = (s.team? n).map fun t => if n = l.t.tid then
        { t with clean := false, chan := setAt t.chan (mdCh (fieldsOf i).md) (capCharge 1) } else t := by
  have hteams := State.paid_team? (s := s) (g := g) (i := i) hent
  have hpaid := s.paid_paid g i l
  have hframe := s.paid_frame g i l
  obtain ⟨c, hc⟩ : ∃ c, s.paid g i l = c := ⟨_, rfl⟩
  rw [hc] at hb hteams hpaid hframe
  subst hb
  have hself := State.queue?_placeRec ((hpaid.queue? k).trans hq) 0 r none 1
  rw [show c.clk = s.clk by rw [hframe]] at hself
  have hrec := State.placeRec_frame c k 0 r none 1
  refine ⟨?_, hself, fun j hj => (State.queue?_setQueue_other hj _).trans (hpaid.queue? j), fun n => ?_⟩
  · rw [hrec, hframe]
  · rw [← hteams, hrec]
    rfl

end

/-! ## The inlined call of one lane (R66, R296) -/

theorem State.vGet_writes (s : State) (t x : TRef) (f : Nat → Word) (n j : Nat) :
    ((List.range n).foldl (fun s k => s.vSet t k (f k)) s).vGet x j = if x = t ∧ j < n then f j else s.vGet x j := by
  induction n with
  | zero => simp
  | succ n ih =>
    rw [List.range_succ, List.foldl_append, List.foldl_cons, List.foldl_nil, State.vGet_vSet, ih]
    by_cases hx : x = t
    · subst hx
      by_cases hj : j = n
      · simp [hj]
      · simp [hj, show j < n + 1 ↔ j < n by omega]
    · simp [hx]

/-- Only labels differ. -/
def LabelsDiffer (s u : State) : Prop := u = { s with r.lbl := u.r.lbl }

theorem LabelsDiffer.trans {s u v : State} (h : LabelsDiffer s u) (h' : LabelsDiffer u v) : LabelsDiffer s v := by
  unfold LabelsDiffer at *
  rw [h] at h'
  exact h'

theorem LabelsDiffer.foldl {β : Type} {f : State → β → State} (h : ∀ s x, LabelsDiffer s (f s x)) (xs : List β) (s : State) :
    LabelsDiffer s (xs.foldl f s) :=
  foldl_keeps (LabelsDiffer s) f (fun t x ht => ht.trans (h t x)) xs s rfl

theorem State.writes_frame (s : State) (t : TRef) (f : Nat → Word) (n : Nat) :
    (List.range n).foldl (fun s k => s.vSet t k (f k)) s = { s with r.v := ((List.range n).foldl (fun s k => s.vSet t k (f k)) s).r.v } :=
  foldl_keeps (fun u : State => u = { s with r.v := u.r.v }) (fun (s : State) k => s.vSet t k (f k)) (fun u k hu => by rw [hu]; rfl) _ s rfl

/-- The words that the call of a consumer finds in its registers. -/
def Rec.word (r : Rec) (j : Nat) : Word := if j < r.bytes.length / 4 then BitVec.ofNat 32 (leNat ((r.bytes.drop (4 * j)).take 4)) else 0

theorem State.inlReg_word (w : State) (i : Iss) (l : Lane) (r : Rec) (j : Nat) : (w.inlReg i l r j).1 = Rec.word r j := by
  unfold State.inlReg Rec.word
  dsimp only
  split <;> rfl

/-- A thread that has called a consumer from a clause that goes on at `ret`. -/
def Thread.called (ret : Nat) (l : Lane) (h : Thread) : Thread :=
  { h with inlStack := ⟨ret, h.link, h.linkLbl⟩ :: h.inlStack, inlDepth := h.inlDepth + 1, link := BitVec.ofNat 32 ret, linkLbl := l.ctx }

/-- A state but for paths, teams, the registers V and labels. -/
def State.sansCall (s : State) : State := { s.sansPaths with r.v := [], r.lbl := [], sch.teams := [] }

/-- A lane has called the consumer of its record: registers, some labels, and the return of the call. -/
structure Called (w u : State) (ret : Nat) (l : Lane) (r : Rec) : Prop where
  rest : u.sansCall = w.sansCall
  words : ∀ x j, u.vGet x j = if x = l.t ∧ j < 16 then Rec.word r j else w.vGet x j
  threads : ∀ x, (u.thr x).bare = if x = l.t then (Thread.called ret l (w.thr x)).bare else (w.thr x).bare

section

variable {w u : State} {i : Iss} {l : Lane} {r : Rec} {st : Stage}

theorem Called.of_inlineCall {v : State} {ret : Nat}
    (hv : LabelsDiffer ((List.range 16).foldl (fun s j => s.vSet l.t j (Rec.word r j)) w) v) (hu : PathsOnly (v.inlineCall ret l) u) :
    Called w u ret l r := by
  obtain ⟨hsans, hbare⟩ := hu
  have hwrites := State.writes_frame w l.t (Rec.word r) 16
  have hget := fun x j => State.vGet_writes w l.t x (Rec.word r) 16 j
  generalize (List.range 16).foldl (fun s j => s.vSet l.t j (Rec.word r j)) w = z at *
  have hv' : v.sansCall = w.sansCall := by rw [hv, hwrites]; rfl
  have hthr : v.r.thr = w.r.thr := by rw [hv, hwrites]
  have hregs : u.r.v = z.r.v := by
    have hvz : v.r.v = z.r.v := by rw [hv]
    exact (congrArg (fun s : State => s.r.v) hsans).trans hvz
  refine ⟨?_, fun x j => ?_, fun x => ?_⟩
  · rw [← hv']
    exact congrArg (fun s : State => { s with r.v := [], r.lbl := [], sch.teams := [] }) hsans
  · rw [← hget x j]
    unfold State.vGet
    rw [hregs]
  · rw [hbare x, State.inlineCall, State.thr_setThr, State.thr_of_regs hthr]
    by_cases hx : x = l.t
    · rw [if_pos hx, if_pos hx, hx]
      rfl
    · rw [if_neg hx, if_neg hx, State.thr_of_regs hthr]

theorem State.inlineAll_called (hon : i.on = [l]) (hrec : w.enqRec i l = .ok r) : Called w (w.inlineAll i st) i.g.endPc l r := by
  have hlabels (z : State) (f : Nat → GRef → LblWrite) :
      LabelsDiffer z ((List.range 16).foldl (fun s j => (dedup [l.g]).foldl (fun s g => s.applyLbl (f j g)) s) z) :=
    LabelsDiffer.foldl (f := fun s j => (dedup [l.g]).foldl (fun s g => s.applyLbl (f j g)) s)
      (fun s j => LabelsDiffer.foldl (f := fun s g => s.applyLbl (f j g)) (fun _ _ => rfl) _ s) _ _
  unfold State.inlineAll
  simp only [hon, List.filterMap_cons, List.filterMap_nil, hrec, List.map_cons, List.map_nil, List.foldl_cons, List.foldl_nil,
    ← List.map_eq_flatMap, List.foldl_map, State.inlReg_word]
  generalize hc : State.inlineCall _ _ _ = c
  have hdown := State.counts_tokDown c i.f.tok [l.t]
  have hbranch := State.branchFrom_rest ((c.tokDown i.f.tok [l.t]).chargePaths ([l].map (·.pid)) 0) i true i.g.endPc (fun _ => st.ientry) noLbl
  rw [State.markCharged_chargePaths]
  generalize ((c.tokDown i.f.tok [l.t]).chargePaths ([l].map (·.pid)) 0).branchFrom i true i.g.endPc (fun _ => st.ientry) noLbl = u at *
  have hpaths : PathsOnly c u := by
    refine ⟨?_, fun x => ?_⟩
    · rw [hbranch.sansPaths]
      exact hdown.sansPaths
    · rw [State.thr_congr hbranch.r]
      exact hdown.2 x
  rw [← hc] at hpaths
  exact Called.of_inlineCall (hlabels _ _) hpaths

end

/-- A record for which its local queue has no room calls a consumer that takes it inline. -/
theorem Enqueues.calls {s : State} {g : IssueGroup} {i : Instr} {l : Lane} {r : Rec} {e : Nat} {st : Stage} (h : Enqueues s g i l r e)
    (hkind : capKind e = 0) (hinlines : s.inlines (s.iss g i) = some st) :
    ∃ u, exec i s = .next u ∧ Called s u g.endPc l r := by
  have hsome : (s.inlines (s.iss g i)).isSome = true := by rw [hinlines]; rfl
  obtain ⟨v, w, htakes, hcounted, hbeside, hpaths⟩ := h.takes (by rw [hkind]; rfl) (by omega) (.inr (.inl hsome))
    (fun _ => .inl hsome) (by omega)
  have hp : Paid s w := (s.paid_paid g i l).trans hbeside.paid
  have heff := enqMeaning_eff_of_some ((hp.inlines _).trans hinlines)
  have hcalled := State.inlineAll_called (st := st) h.on ((hp.enqRec ..).trans h.record)
  have hnext : exec i s = .next ((enqMeaning.eff w (s.iss g i)).advance g (fieldsOf i).len (fieldsOf i).stall) := hcounted ▸ htakes
  rw [← heff] at hcalled
  generalize enqMeaning.eff w (s.iss g i) = u at hnext hcalled
  refine ⟨_, hnext, ?_, fun x j => ?_, fun x => ?_⟩
  · have hrest := congrArg (fun s : State => ({ s with r.v := [], r.lbl := [], sch.teams := [] } : State))
      (State.advance_rest (s := u) (g := g) (len := (fieldsOf i).len) (stall := (fieldsOf i).stall)).1
    refine (hrest.trans hcalled.rest).trans ?_
    rw [hp.eq]
    rfl
  · have hwords := hcalled.words x j
    unfold State.vGet at hwords ⊢
    rw [State.advance_rest.2, hwords, hp.alike.rv]
  · rw [State.thr_congr State.advance_rest.2, hcalled.threads x]
    have hbare : (Thread.called g.endPc l (w.thr x)).bare = (Thread.called g.endPc l (s.thr x)).bare :=
      congrArg (Thread.called g.endPc l) (hp.bare x)
    split
    · exact hbare
    · exact hp.bare x

theorem Called.facts {s u : State} {ret : Nat} {l : Lane} {r : Rec} (h : Called s u ret l r) :
    (∀ j, j < 16 → u.vGet l.t j = if j < r.bytes.length / 4 then BitVec.ofNat 32 (leNat ((r.bytes.drop (4 * j)).take 4)) else 0) ∧
      (∀ x j, x ≠ l.t ∨ 16 ≤ j → u.vGet x j = s.vGet x j) ∧
      (u.thr l.t).inlDepth = (s.thr l.t).inlDepth + 1 ∧ (u.thr l.t).link = BitVec.ofNat 32 ret ∧ (u.thr l.t).linkLbl = l.ctx ∧
      (u.thr l.t).inlStack = ⟨ret, (s.thr l.t).link, (s.thr l.t).linkLbl⟩ :: (s.thr l.t).inlStack ∧
      (∀ x, x ≠ l.t → (u.thr x).bare = (s.thr x).bare) ∧ u.m = s.m ∧ u.e = s.e ∧ u.gr = s.gr ∧ u.h = s.h ∧ u.y = s.y ∧
      u.r.s = s.r.s ∧ u.r.m = s.r.m ∧ u.sch.pend = s.sch.pend := by
  have hself := (h.threads l.t).trans (if_pos rfl)
  have hrest := h.rest
  refine ⟨fun j hj => (h.words l.t j).trans (if_pos ⟨rfl, hj⟩), fun x j hx => (h.words x j).trans (if_neg fun hj => ?_),
    (congrArg Thread.inlDepth hself :), (congrArg Thread.link hself :), (congrArg Thread.linkLbl hself :),
    (congrArg Thread.inlStack hself :), fun x hx => (h.threads x).trans (if_neg hx), (congrArg State.m hrest :),
    (congrArg State.e hrest :), (congrArg State.gr hrest :), (congrArg State.h hrest :), (congrArg State.y hrest :),
    (congrArg (fun s : State => s.r.s) hrest :), (congrArg (fun s : State => s.r.m) hrest :),
    (congrArg (fun s : State => s.sch.pend) hrest :)⟩
  obtain hx | hx := hx
  · exact hx hj.1
  · omega

/-- A consumer that one lane may inline its record into is called (R296). -/
theorem State.inlines_consumer {s : State} {is : Iss} {l : Lane} {e : Nat} {q : Queue} {st : Stage} (hon : is.on = [l])
    (he : s.chanOf l.t.tid is.f = e) (hop : is.op = 1) (hkind : capKind e = 0)
    (hq : s.queue? (chanKey is.g.part is.g.ctx e) = some q) (hfits : q.fits 0 1 = false) (hsize : s.enqRsz is ≤ 64)
    (hst : s.consumer (chanKey is.g.part is.g.ctx e) = some st) (hperm : e.testBit permInl = true) (hinl : st.inl = true)
    (hrows : 8 * (st.irows + 1) ≤ s.regs l.g) (hdepth : (s.thr l.t).inlDepth < st.depthmax) : s.inlines is = some st := by
  have hmay : s.mayInline is st l = true := by
    unfold State.mayInline
    rw [he, hperm, hinl, decide_eq_true hrows, decide_eq_true hdepth]
    rfl
  have hchan : s.groupChan is = e := (State.groupChan_of_one hon).trans he
  unfold State.inlines
  simp only [hchan, hop, hkind, hon, hq, hst, hmay, List.isEmpty_cons, List.length_singleton, Option.all_some, hfits, Nat.not_lt.2 hsize,
    ne_eq, not_true_eq_false, decide_false, Bool.or_self, Bool.false_eq_true, if_false, List.all_cons, List.all_nil, Bool.and_self, if_true]

theorem isEnq_of_enqi {i : Instr} (h : (∃ f, i = .enqi f) ∨ (∃ f, i = .enqiLong f)) : IsEnq i ∧ opNo i = 1 := by
  obtain ⟨f, rfl⟩ | ⟨f, rfl⟩ := h
  · exact ⟨.inr (.inr (.inl ⟨f, rfl⟩)), rfl⟩
  · exact ⟨.inr (.inr (.inr ⟨f, rfl⟩)), rfl⟩

/-- Settles O26: `Enqueues.does` says where a record is placed, `Enqueues.calls` when its consumer is called. -/
theorem recordsEnqueued : Obligations.RecordsEnqueued := by
  unfold Obligations.RecordsEnqueued
  refine ⟨fun s g i l t r k q henq hready hent ht => ?_, fun s g i l t r st henq hready hent ht => ?_⟩
  · intro is e hpaths hvalid hperm hallow hflt hrec hq hidle hfits hceil hdest
    have h : Enqueues s g i l r e := ⟨henq, hready, hent, ⟨t, ht⟩, fun p hp => (hpaths p hp).2, State.chanOf_of_team ht _, hvalid, hperm,
      hallow, hflt, hrec⟩
    have hacc : Accepts s g e r k q := ⟨hq, hidle, hfits, hceil, hdest⟩
    exact ⟨_, h.does hacc fun p hp => (hpaths p hp).1, State.placed_spec rfl hent hq⟩
  · intro is e hpaths hvalid hperm hallow hkind hflt hrec hfull hlen hsize hst hinlPerm hinl hrows hdepth
    obtain ⟨hisEnq, hop⟩ := isEnq_of_enqi henq
    obtain ⟨q, hq, hfits⟩ := hfull
    have h : Enqueues s g i l r e := ⟨hisEnq, hready, hent, ⟨t, ht⟩, hpaths, State.chanOf_of_team ht _, hvalid, hperm, hallow, hflt, hrec⟩
    have hinlines := State.inlines_consumer h.on h.chan hop hkind hq hfits (hsize.trans_le hlen) hst hinlPerm hinl hrows hdepth
    obtain ⟨u, hexec, hcalled⟩ := h.calls hkind hinlines
    exact ⟨u, hexec, hcalled.facts⟩

end Sys2Proof.Machine

namespace Sys2Proof.Machine

open Sys2Proof

/-! # Requests of one issue (O28, O29) -/

/-! ## What accesses find where teams are paid -/

/-- The state with teams, threads, paths and busy units of its own. -/
def State.garb (s : State) (teams : Map Nat Team) (thr : Map TRef Thread) (ps : List Path) (busy : Map (Nat × Nat × Nat) Nat) : State :=
  State.dress { s with sch.teams := teams } thr ps busy

theorem Paid.garb {s u : State} (h : Paid s u) : u = s.garb u.sch.teams u.r.thr u.sch.paths u.sch.busy := h.eq

theorem State.translate_garb (s : State) (teams : Map Nat Team) (thr : Map TRef Thread) (ps : List Path)
    (busy : Map (Nat × Nat × Nat) Nat) (core part ctx va : Nat) (write : Bool) :
    (s.garb teams thr ps busy).translate core part ctx va write = s.translate core part ctx va write := rfl

namespace Paid

variable {s u : State} (h : Paid s u)
include h

theorem translate (core part ctx va : Nat) (write : Bool) : u.translate core part ctx va write = s.translate core part ctx va write := by
  rw [h.garb]; exact State.translate_garb ..

theorem owned (part : Nat) (loc : Loc) : u.owned part loc = s.owned part loc := by rw [h.garb]; rfl

theorem addrOf (i : Iss) (glob : Bool) (l : Lane) : u.addrOf i glob l = s.addrOf i glob l := by
  unfold State.addrOf; rw [h.alike.intVal]

theorem tr (i : Iss) (write : Bool) (l : Lane) : u.tr i write l = s.tr i write l := by
  unfold State.tr; rw [h.addrOf, h.translate]

theorem accFlt (i : Iss) (kind : ReqKind) (l : Lane) : u.accFlt i kind l = s.accFlt i kind l := by
  unfold State.accFlt State.trFlt State.pcieFlt State.storeFlt State.ownFlt
  simp only [h.tr, h.addrOf, h.owned, h.alike.aluLbl]

end Paid

/-! ## Effects on the memory side -/

/-- An effect that neither looks at teams, threads, paths and busy units nor changes them. -/
def Memwise (f : State → State) : Prop := ∀ s teams thr ps busy, f (s.garb teams thr ps busy) = (f s).garb teams thr ps busy

namespace Memwise

variable {f f' : State → State}

theorem id : Memwise fun s => s := fun _ _ _ _ _ => rfl

theorem comp (h : Memwise f) (h' : Memwise f') : Memwise fun s => f' (f s) := fun t teams thr ps busy => by
  show f' (f _) = _
  rw [h t teams thr ps busy, h' (f t) teams thr ps busy]

theorem foldl {β : Type} {f : State → β → State} (h : ∀ x, Memwise fun s => f s x) (xs : List β) : Memwise fun s => xs.foldl f s := by
  induction xs with
  | nil => exact id
  | cons x xs ih => exact (h x).comp ih

theorem tlbFill (core part ctx va : Nat) (write : Bool) : Memwise fun s => s.tlbFill core part ctx va write := by
  intro s teams thr ps busy
  have hwalk : (s.garb teams thr ps busy).tableWalk core part ctx va write = s.tableWalk core part ctx va write := rfl
  have hcond : (((s.garb teams thr ps busy).poolAddr? part va).isSome || ((s.garb teams thr ps busy).tlb? core part ctx va write).isSome) =
      ((s.poolAddr? part va).isSome || (s.tlb? core part ctx va write).isSome) := rfl
  dsimp only
  unfold State.tlbFill
  rw [hwalk, hcond]
  split
  · rfl
  · cases s.tableWalk core part ctx va write <;> rfl

theorem fillTlb (i : Iss) (write : Bool) (vas : List Nat) : Memwise fun s => s.fillTlb i write vas :=
  foldl (fun va => tlbFill i.g.core i.g.part i.g.ctx va write) vas

/-- What such an effect makes of the memory side does not depend on what teams have paid. -/
theorem m (h : Memwise f) {s u : State} (hp : Paid s u) : (f u).m = (f s).m := by
  rw [hp.garb, h]; rfl

end Memwise

/-- Only the TLBs, the L1s and the requests differ. -/
def MemDiffer (s u : State) : Prop := u = { s with m.tlb := u.m.tlb, m.l1 := u.m.l1, m.reqs := u.m.reqs }

namespace MemDiffer

theorem trans {s u v : State} (h : MemDiffer s u) (h' : MemDiffer u v) : MemDiffer s v := by
  unfold MemDiffer at *
  rw [h] at h'
  exact h'

theorem foldl {β : Type} {f : State → β → State} (h : ∀ s x, MemDiffer s (f s x)) (xs : List β) (s : State) : MemDiffer s (xs.foldl f s) :=
  foldl_keeps (MemDiffer s) f (fun t x ht => ht.trans (h t x)) xs s rfl

theorem tlbFill (s : State) (core part ctx va : Nat) (write : Bool) : MemDiffer s (s.tlbFill core part ctx va write) := by
  unfold State.tlbFill
  split
  · rfl
  · split <;> rfl

theorem fillTlb (s : State) (i : Iss) (write : Bool) (vas : List Nat) : MemDiffer s (s.fillTlb i write vas) :=
  foldl (fun s va => tlbFill s i.g.core i.g.part i.g.ctx va write) vas s

theorem touchL1 (s : State) (i : Iss) (kind : ReqKind) (a : Acc) : MemDiffer s (s.touchL1 i kind a) := by
  unfold State.touchL1
  split
  · split <;> rfl
  · split <;> rfl

end MemDiffer

theorem State.fillTlb_frame (s : State) (i : Iss) (write : Bool) (vas : List Nat) :
    s.fillTlb i write vas = { s with m.tlb := (s.fillTlb i write vas).m.tlb } := by
  refine foldl_keeps (fun t : State => t = { s with m.tlb := t.m.tlb }) _ (fun t va ht => ?_) vas s rfl
  unfold State.tlbFill
  split
  · exact ht
  · split
    · exact ht
    · rw [ht]

/-! ## Lines that loads on their way do not keep (R96) -/

/-- A request of a core among whose accesses those to the lines of `as_` do not keep their lines. -/
def Req.dropKeep (core : Nat) (as_ : List Acc) (q : Req) : Req :=
  { q with accs := q.accs.map fun x => { x with keep := x.keep && !(
    q.core = core && !q.kind.writes && !x.done && as_.any fun y => y.loc.line = x.loc.line) } }

theorem Req.dropKeep_nil (core : Nat) (q : Req) : q.dropKeep core [] = q := by
  unfold Req.dropKeep
  simp

theorem Req.dropKeep_cons (core : Nat) (a : Acc) (as_ : List Acc) (q : Req) :
    (q.dropKeep core [a]).dropKeep core as_ = q.dropKeep core (a :: as_) := by
  unfold Req.dropKeep
  simp only [List.map_map, List.any_cons, List.any_nil, Bool.or_false]
  congr 1
  refine List.map_congr_left fun x _ => ?_
  simp only [Function.comp]
  congr 1
  generalize (decide (q.core = core) && !q.kind.writes && !x.done) = c
  cases x.keep <;> cases c <;> cases decide (a.loc.line = x.loc.line) <;> rfl

theorem State.noKeep_reqs (s : State) (core : Nat) (a : Acc) : (s.noKeep core a.loc.line).m.reqs = s.m.reqs.map (Req.dropKeep core [a]) := by
  refine List.map_congr_left fun q _ => ?_
  have hlines (x : Acc) : decide (x.loc.line = a.loc.line) = decide (a.loc.line = x.loc.line) := decide_eq_decide.2 eq_comm
  unfold Req.dropKeep
  simp only [List.any_cons, List.any_nil, Bool.or_false, hlines]
  cases decide (q.core = core) && !q.kind.writes with
  | false => simp
  | true =>
    rw [if_pos rfl]
    congr 1
    refine List.map_congr_left fun x _ => ?_
    rw [Bool.true_and]
    cases !x.done && decide (a.loc.line = x.loc.line) with
    | false => rw [Bool.not_false, Bool.and_true]; rfl
    | true => rw [Bool.not_true, Bool.and_false]; rfl

theorem State.touchL1_reqs (s : State) (i : Iss) {kind : ReqKind} (h : kind.writes = true) (a : Acc) :
    (s.touchL1 i kind a).m.reqs = s.m.reqs.map (Req.dropKeep i.g.core [a]) := by
  rw [← State.noKeep_reqs]
  unfold State.touchL1
  simp only [h, if_true]
  split <;> rfl

theorem State.touchAll_reqs (i : Iss) {kind : ReqKind} (h : kind.writes = true) (as_ : List Acc) (s : State) :
    (as_.foldl (fun s a => s.touchL1 i kind a) s).m.reqs = s.m.reqs.map (Req.dropKeep i.g.core as_) := by
  induction as_ generalizing s with
  | nil => exact ((List.map_congr_left fun q _ => q.dropKeep_nil _).trans (List.map_id _)).symm
  | cons a as_ ih =>
    rw [List.foldl_cons, ih, State.touchL1_reqs s i h, List.map_map]
    exact List.map_congr_left fun q _ => q.dropKeep_cons ..

/-! ## The request -/

/-- An access but for when it performs. -/
def Acc.untimed (a : Acc) : Acc := { a with at_ := 0, trip := 0 }

theorem State.timed_untimed (s : State) (core : Nat) (a : Acc) : (s.timed core a).1.untimed = a.untimed := by
  unfold State.timed
  split
  · rfl
  · split <;> rfl

theorem State.timed_frame (s : State) (core : Nat) (a : Acc) : (s.timed core a).2 = { s with m.l2 := (s.timed core a).2.m.l2 } := by
  unfold State.timed
  split
  · rfl
  · split
    · rfl
    · unfold State.l2Fetch
      dsimp only
      split
      · split <;> rfl
      · rfl

theorem State.timeAll_spec (core : Nat) (as_ : List Acc) (s : State) :
    (s.timeAll core as_).1.map Acc.untimed = as_.map Acc.untimed ∧
      ∃ l2, (s.timeAll core as_).2 = { s with m.l2 := l2 } := by
  have hfold : ∀ (as_ done : List Acc) (s : State),
      let x := as_.foldl (fun (x : List Acc × State) a => (x.1 ++ [(x.2.timed core a).1], (x.2.timed core a).2)) (done, s)
      x.1.map Acc.untimed = (done ++ as_).map Acc.untimed ∧ ∃ l2, x.2 = { s with m.l2 := l2 } := by
    intro as_
    induction as_ with
    | nil => exact fun done s => ⟨by simp, s.m.l2, rfl⟩
    | cons a as_ ih =>
      intro done s
      obtain ⟨haccs, l2, hs⟩ := ih (done ++ [(s.timed core a).1]) (s.timed core a).2
      refine ⟨haccs.trans ?_, l2, ?_⟩
      · simp [State.timed_untimed]
      · rw [List.foldl_cons, hs, s.timed_frame core a]
  exact hfold as_ [] s

theorem atOnce_untimed (kind : ReqKind) (as_ : List Acc) : (atOnce kind as_).map Acc.untimed = as_.map Acc.untimed := by
  unfold atOnce
  split
  · rw [List.map_map]; rfl
  · rfl

/-- The issue of accesses is one request more, with times, units and slices of its own (R240, R241, R324). -/
theorem State.request_spec (s : State) (i : Iss) (kind : ReqKind) (scope : Nat) (nl : Bool) {as_ : List Acc} (dst : List Tile) (sz tok : Nat)
    (h : as_ ≠ []) : ∃ (r : Req) (busy : Map (Nat × Nat × Nat) Nat) (l2 : Map Nat (List (Nat × Nat))),
      s.request i kind scope nl as_ dst sz tok =
        { s with clk.fresh := s.clk.fresh + 1, sch.busy := busy, m.l2 := l2, m.reqs := s.m.reqs ++ [r] } ∧
      r.kind = kind ∧ r.dst = dst ∧ r.tok = tok ∧ r.accs.map Acc.untimed = as_.map Acc.untimed := by
  have hne : as_.isEmpty = false := by simpa using h
  unfold State.request
  rw [hne]
  simp only [Bool.false_eq_true, if_false]
  obtain ⟨haccs, l2, hframe⟩ := State.timeAll_spec i.g.core as_ ((s.useCoalescer i (linesOfAccs as_)).freshId).2
  generalize State.timeAll _ _ _ = x at *
  obtain ⟨ys, t⟩ := x
  dsimp only at haccs hframe ⊢
  subst hframe
  refine ⟨_, _, _, rfl, ?_, ?_, ?_, ?_⟩
  · split <;> rfl
  · split <;> rfl
  · split <;> rfl
  · split <;> exact (atOnce_untimed ..).trans haccs

/-! ## The whole of a word that makes a request -/

/-- What the issue of a request does to TLB, L1 and the loads on their way (R89, R96, R372). -/
def State.touchAll (s : State) (i : Iss) (kind : ReqKind) (vas : List Nat) (as_ : List Acc) : State :=
  as_.foldl (fun s a => s.touchL1 i kind a) (s.fillTlb i true vas)

theorem MemDiffer.touchAll (s : State) (i : Iss) (kind : ReqKind) (vas : List Nat) (as_ : List Acc) :
    MemDiffer s (s.touchAll i kind vas as_) :=
  (MemDiffer.fillTlb s i true vas).trans (MemDiffer.foldl (fun s a => MemDiffer.touchL1 s i kind a) as_ _)

theorem State.touchL1_tlb (s : State) (i : Iss) (kind : ReqKind) (a : Acc) : (s.touchL1 i kind a).m.tlb = s.m.tlb := by
  unfold State.touchL1
  split
  · split <;> rfl
  · split <;> rfl

theorem State.touchAll_tlb {s w : State} (hp : Paid s w) (i : Iss) (kind : ReqKind) (vas : List Nat) (as_ : List Acc) :
    (w.touchAll i kind vas as_).m.tlb = (s.fillTlb i true vas).m.tlb := by
  have hfold : (w.touchAll i kind vas as_).m.tlb = (w.fillTlb i true vas).m.tlb :=
    foldl_keeps (fun t : State => t.m.tlb = (w.fillTlb i true vas).m.tlb) (fun s a => s.touchL1 i kind a)
      (fun t a ht => (t.touchL1_tlb i kind a).trans ht) as_ _ rfl
  exact hfold.trans (congrArg Mem.tlb ((Memwise.fillTlb i true vas).m hp))

theorem State.touchAll_requests {s w : State} (hp : Paid s w) (i : Iss) {kind : ReqKind} (h : kind.writes = true) (vas : List Nat)
    (as_ : List Acc) : (w.touchAll i kind vas as_).m.reqs = s.m.reqs.map (Req.dropKeep i.g.core as_) := by
  have hreqs : (w.fillTlb i true vas).m.reqs = s.m.reqs := by
    rw [State.fillTlb_frame, hp.garb]; rfl
  rw [State.touchAll, State.touchAll_reqs i h, hreqs]

section

variable {s v w : State} {g : IssueGroup} {i : Instr} {eff : State → State} {is : Iss} {kind touch : ReqKind} {scope sz tok : Nat} {nl : Bool}
  {as_ : List Acc} {dst : List Tile} {vas : List Nat}

/-- A word whose effect is a request that writes issues: the state and the request that it leaves. -/
theorem request_does (h : s.ready g i = true) (ht : Takes s g i v eff) (hw : v.countedAt s g i = w) (hp : Paid s w)
    (htouch : touch.writes = true) (hne : as_ ≠ []) {x : State} (hx : eff w = x.request is kind scope nl as_ dst sz tok)
    (hxw : x = { w.touchAll is touch vas as_ with sch.paths := (s.entered g i).sch.paths }) :
    ∃ (b : State) (r : Req), Does s g i b ∧
      b = { s with clk.fresh := s.clk.fresh + 1, sch.teams := b.sch.teams, sch.busy := b.sch.busy, m.reqs := b.m.reqs,
                   m.l1 := b.m.l1, m.tlb := (s.fillTlb is true vas).m.tlb, m.l2 := b.m.l2 } ∧
      b.m.reqs = s.m.reqs.map (Req.dropKeep is.g.core as_) ++ [r] ∧ b.sch.teams = w.sch.teams ∧
      r.kind = kind ∧ r.dst = dst ∧ r.tok = tok ∧ r.accs.map Acc.untimed = as_.map Acc.untimed := by
  obtain ⟨r, busy, l2, hreq, hkind, hdst, htok, haccs⟩ := x.request_spec is kind scope nl dst sz tok hne
  have hdiffer := MemDiffer.touchAll w is touch vas as_
  have htlb := State.touchAll_tlb hp is touch vas as_
  have hreqs := State.touchAll_requests hp is htouch vas as_
  generalize w.touchAll is touch vas as_ = y at *
  have hbare := hp.bare
  have hframe := hp.garb
  let b : State := { s with clk.fresh := s.clk.fresh + 1, sch.teams := w.sch.teams, sch.busy := busy,
                            m.reqs := s.m.reqs.map (Req.dropKeep is.g.core as_) ++ [r], m.l1 := y.m.l1,
                            m.tlb := (s.fillTlb is true vas).m.tlb, m.l2 := l2 }
  refine ⟨b, r, does_of_takes h ht hw ⟨?_, fun z => ?_⟩ ?_ rfl rfl rfl rfl, rfl, rfl, rfl, hkind, hdst, htok, haccs⟩
  · rw [hx, hreq, hxw, hdiffer, hreqs, htlb, hframe]
    rfl
  · rw [hx, hreq, hxw, hdiffer]
    exact hbare z
  · rw [hx, hreq, hxw]

end

end Sys2Proof.Machine

namespace Sys2Proof.Machine

open Sys2Proof

/-! # DECDEP and LAUNCH (O28) -/

/-! ## DECDEP -/

namespace Paid

variable {s u : State} (h : Paid s u)
include h

theorem depTab (i : Iss) : u.depTab i = s.depTab i := by
  have htab (n : Nat) : u.ttab? i.g.part i.g.ctx n = s.ttab? i.g.part i.g.ctx n := by rw [h.garb]; rfl
  unfold State.depTab
  rw [capTarget_low (h.groupChan i), htab]

theorem depVa (i : Iss) (t : TTab) (l : Lane) : u.depVa i t l = s.depVa i t l := by
  unfold State.depVa State.depIndex State.entrySize
  rw [h.alike.rd32, h.queue?]

theorem entrySize (part ctx : Nat) (t : TTab) : u.entrySize part ctx t = s.entrySize part ctx t := by
  unfold State.entrySize
  rw [h.queue?]

theorem depTrs (i : Iss) (t : TTab) (l : Lane) : u.depTrs i t l = s.depTrs i t l := by
  unfold State.depTrs
  simp only [h.depVa, h.entrySize, h.translate]

theorem depAccFlt (i : Iss) (t : TTab) (l : Lane) : u.depAccFlt i t l = s.depAccFlt i t l := by
  unfold State.depAccFlt
  simp only [h.depTrs, h.depVa, h.owned, h.alike.aluLbl]

theorem depAcc (i : Iss) (t : TTab) (l : Lane) : u.depAcc i t l = s.depAcc i t l := by
  unfold State.depAcc
  rw [h.depVa, h.translate, h.alike.aluLbl]
  obtain ⟨hs, hu⟩ | ⟨t', t'', hs, hu, hf⟩ := h.alike.team?_cases l.t.tid
  · simp only [hs, hu]
  · have hrun : t''.run = t'.run := (congrArg Team.run hf :)
    simp only [hs, hu, hrun]

end Paid

section

variable {u : State} {i : Iss} {l : Lane} {tab : TTab}

theorem MemDiffer.groupChan {s : State} (h : MemDiffer s u) (i : Iss) : u.groupChan i = s.groupChan i := by
  unfold MemDiffer at h
  rw [h]
  rfl

theorem State.depFlt_none (hcap : u.capFlt i [4] permDep true l = none) (htab : u.depTab i = some tab) (hcount : u.depIndex i l < tab.count)
    (hva : u.depVa i tab l < 2 ^ 57) : u.depFlt i l = none := by
  have hglob : globFlt (u.depVa i tab l) (u.entrySize i.g.part i.g.ctx tab) false = none := by
    unfold globFlt
    rw [if_neg (by omega)]
    rfl
  unfold State.depFlt
  simp only [hcap, htab, Nat.not_le.2 hcount, if_false, hglob, Option.or_none]

theorem State.depStop_none (hon : i.on = [l]) (htab : u.depTab i = some tab) (hok : ∀ x ∈ u.depTrs i tab l, ∃ loc fl, x.2 = .ok loc fl) :
    u.depStop i = (u, []) := by
  unfold State.depStop
  simp only [htab, hon, List.filterMap_cons, List.filterMap_nil]
  split
  · rfl
  · next p hp =>
    obtain ⟨x, hx, hpage⟩ := List.exists_of_findSome?_eq_some hp
    obtain ⟨loc, fl, hx⟩ := hok x hx
    simp only [hx] at hpage
    cases hpage

theorem State.depAcc_some {loc : Loc} {fl : Label} (h : u.translate i.g.core i.g.part i.g.ctx (u.depVa i tab l) true = .ok loc fl) :
    ∃ a, u.depAcc i tab l = some a ∧ a.t = l.t ∧ a.va = BitVec.ofNat 64 (u.depVa i tab l) ∧ a.len = 4 ∧ a.done = false := by
  unfold State.depAcc
  rw [h]
  exact ⟨_, rfl, rfl, rfl, rfl, rfl⟩

theorem State.decdep_eff {a : Acc} {n : Nat} (hon : i.on = [l]) (halive : u.alive [l] = [l]) (htab : u.depTab i = some tab)
    (hflt : u.depAccFlt i tab l = none) (ha : u.depAcc i tab l = some a) (hn : capTarget (u.groupChan i) = n) :
    decdepMeaning.eff u i = ((u.touchAll i (.decdep 0) [u.depVa i tab l] [a]).chargePaths [l.pid] 0).request i (.decdep n) 0 false [a] [] 0 i.f.tok := by
  have hiss : ({ i with on := [l] } : Iss) = i := by rw [← hon]
  have hjudge : u.judge i.g [l] (fun l => u.depAccFlt i tab l) = u := by
    refine State.judge_alive _ _ _ _ fun l' hl' => ?_
    rw [halive, List.mem_singleton] at hl'
    rw [hl', hflt]
  have hchan := (MemDiffer.touchAll u i (.decdep 0) [u.depVa i tab l] [a]).groupChan i
  unfold State.touchAll at hchan ⊢
  rw [List.foldl_cons, List.foldl_nil] at hchan
  unfold decdepMeaning
  simp only [htab, hon, hjudge, halive, hiss, List.filterMap_cons, List.filterMap_nil, ha, List.map_cons, List.map_nil, List.foldl_cons,
    List.foldl_nil, State.markCharged_chargePaths, hchan, hn]

end

/-- The word is one of DECDEP. -/
def IsDecdep (i : Instr) : Prop := (∃ f, i = .decdep f) ∨ (∃ f, i = .decdepLong f)

theorem exec_decdep {i : Instr} (h : IsDecdep i) (s : State) : exec i s = runWord i decdepMeaning s := by
  obtain ⟨f, rfl⟩ | ⟨f, rfl⟩ := h <;> rfl

/-- One lane issues DECDEP with an index in range, at an entry `e` that is not spent and pages that translate. -/
structure Decrements (s : State) (g : IssueGroup) (i : Instr) (l : Lane) (e : Nat) (tab : TTab) : Prop where
  decdep : IsDecdep i
  ready : s.ready g i = true
  entrants : s.entrants g i = [l]
  team : ∃ t, s.team? l.t.tid = some t
  free : s.chargedAs l 0
  chan : s.chanOf l.t.tid (fieldsOf i) = e
  valid : capValid e = true
  kind : capKind e = 4
  perm : e.testBit permDep = true
  allow : capAllow e ≠ 0
  table : s.ttab? g.part g.ctx (capTarget e) = some tab
  index : s.depIndex (s.iss g i) l < tab.count
  va : s.depVa (s.iss g i) tab l < 2 ^ 57
  pages : ∀ x ∈ s.depTrs (s.iss g i) tab l, ∃ loc fl, x.2 = .ok loc fl
  accFlt : s.depAccFlt (s.iss g i) tab l = none

namespace Decrements

variable {s : State} {g : IssueGroup} {i : Instr} {l : Lane} {e : Nat} {tab : TTab} (h : Decrements s g i l e tab)
include h

theorem on : (s.iss g i).on = [l] := by
  obtain ⟨t, ht⟩ := h.team
  exact State.acting_of_entrants h.entrants ht

theorem depTab : s.depTab (s.iss g i) = some tab := by
  unfold State.depTab
  rw [State.groupChan_of_one h.on]
  exact (congrArg (fun e => s.ttab? g.part g.ctx (capTarget e)) h.chan).trans h.table

theorem takes : ∃ v w, Takes s g i v (fun w => decdepMeaning.eff w (s.iss g i)) ∧ v.countedAt s g i = w ∧ Beside (s.paid g i l) w ∧
      w.sch.paths = ((s.entered g i).chargePaths [l.pid] 1).sch.paths := by
  obtain ⟨t, ht⟩ := h.team
  refine takes_charged h.ready (exec_decdep h.decdep s) h.entrants ht h.free (fun _ _ _ => rfl) (fun u hp hc hchan => ?_) (fun _ _ => rfl)
    fun u hp _ => ?_
  · have he := (hchan l.t.tid (fieldsOf i)).trans h.chan
    have hkind : [4].contains (capKind e) = true := by rw [h.kind]; rfl
    refine State.depFlt_none (State.capFlt_none h.on hc.chargedLane he h.valid hkind h.perm h.allow) ((hp.depTab _).trans h.depTab) ?_ ?_
    · exact (hp.alike.rd32 ..).trans_lt h.index
    · rw [hp.depVa]; exact h.va
  · exact State.depStop_none h.on ((hp.depTab _).trans h.depTab) (by rw [hp.depTrs]; exact h.pages)

/-- The entry of the index translates for a write: the decrement is an access. -/
theorem acc : ∃ a, s.depAcc (s.iss g i) tab l = some a ∧ a.t = l.t ∧ a.va = BitVec.ofNat 64 (s.depVa (s.iss g i) tab l) ∧ a.len = 4 ∧
    a.done = false := by
  have hmem : (s.depVa (s.iss g i) tab l, s.translate g.core g.part g.ctx (s.depVa (s.iss g i) tab l) true) ∈
      s.depTrs (s.iss g i) tab l := by
    unfold State.depTrs pageHeads
    dsimp only
    rw [List.map_cons, decide_eq_true rfl]
    exact List.mem_cons_self
  obtain ⟨loc, fl, hok⟩ := h.pages _ hmem
  exact State.depAcc_some hok

/-- The decrement is one request more, at the address of the entry (R299, R300). -/
theorem does : ∃ (b : State) (r : Req) (a : Acc), Does s g i b ∧
    b = { s with clk.fresh := s.clk.fresh + 1, sch.teams := b.sch.teams, sch.busy := b.sch.busy, m.reqs := b.m.reqs,
                 m.l1 := b.m.l1, m.tlb := (s.fillTlb (s.iss g i) true [s.depVa (s.iss g i) tab l]).m.tlb, m.l2 := b.m.l2 } ∧
    b.m.reqs = s.m.reqs.map (Req.dropKeep g.core [a]) ++ [r] ∧ b.sch.teams = (s.paid g i l).sch.teams ∧
    r.kind = .decdep (capTarget e) ∧ r.accs = [a] ∧ r.dst = [] ∧ r.tok = (fieldsOf i).tok ∧ a.t = l.t ∧
    a.va = BitVec.ofNat 64 (s.depVa (s.iss g i) tab l) ∧ a.len = 4 ∧ a.done = false := by
  obtain ⟨v, w, htakes, hcounted, hbeside, hpaths⟩ := h.takes
  obtain ⟨a, ha, haccs⟩ := h.acc
  have hp : Paid s w := (s.paid_paid g i l).trans hbeside.paid
  have hlow : w.groupChan (s.iss g i) % 2 ^ 32 = e % 2 ^ 32 := by
    rw [hp.groupChan, State.groupChan_of_one h.on]
    exact congrArg (· % 2 ^ 32) h.chan
  have halive : w.alive [l] = [l] := by
    rw [hp.alike.alive, ← h.on]
    exact s.acting_alive g i
  have heff := State.decdep_eff h.on halive ((hp.depTab _).trans h.depTab) ((hp.depAccFlt ..).trans h.accFlt) ((hp.depAcc ..).trans ha)
    (capTarget_low hlow)
  rw [hp.depVa] at heff
  have hdiffer := MemDiffer.touchAll w (s.iss g i) (.decdep 0) [s.depVa (s.iss g i) tab l] [a]
  have huncharged := State.uncharge_paths h.free
    (show (w.touchAll (s.iss g i) (.decdep 0) [s.depVa (s.iss g i) tab l] [a]).sch.paths = _ by rw [hdiffer]; exact hpaths)
  obtain ⟨b, r, hdoes, hb, hreqs, hteams, hkind, hdst, htok, hraccs⟩ := request_does (touch := .decdep 0) h.ready htakes hcounted hp rfl
    (List.cons_ne_nil a []) heff (State.chargePaths_eq huncharged)
  obtain ⟨a', hr, ha'⟩ : ∃ a', r.accs = [a'] ∧ a'.untimed = a.untimed := by
    match hr : r.accs with
    | [a'] => rw [hr] at hraccs; exact ⟨a', rfl, (List.cons.inj hraccs).1⟩
    | [] => rw [hr] at hraccs; cases hraccs
    | _ :: _ :: _ => rw [hr] at hraccs; cases (List.cons.inj hraccs).2
  obtain ⟨hat, hva, hlen, hdone⟩ := haccs
  have hloc : a'.loc = a.loc := (congrArg Acc.loc ha' :)
  have hkeep (q : Req) : q.dropKeep g.core [a] = q.dropKeep g.core [a'] := by
    unfold Req.dropKeep
    simp only [List.any_cons, hloc]
  refine ⟨b, r, a', hdoes, hb, hreqs.trans ?_, hteams.trans hbeside.teams, hkind, hr, hdst, htok, (congrArg Acc.t ha' :).trans hat,
    (congrArg Acc.va ha' :).trans hva, (congrArg Acc.len ha' :).trans hlen, (congrArg Acc.done ha' :).trans hdone⟩
  exact congrArg (· ++ [r]) (List.map_congr_left fun q _ => hkeep q)

end Decrements

/-! ## LAUNCH -/

namespace Paid

variable {s u : State} (h : Paid s u)
include h

theorem launchKey (i : Iss) : u.launchKey i = s.launchKey i := by unfold State.launchKey; rw [capTarget_low (h.groupChan i)]

theorem launchRecFlt (i : Iss) (l : Lane) : u.launchRecFlt i l = s.launchRecFlt i l := by
  unfold State.launchRecFlt
  simp only [capTarget_low (h.groupChan i), h.stage?, h.recOff, h.recBytes, h.cmdLbl, h.ceilOf, h.launchKey]

theorem launchCopy (i : Iss) (l : Lane) : u.launchCopy i l = s.launchCopy i l := by
  unfold State.launchCopy
  simp only [h.launchKey, h.recOff, h.sreads, h.cmdLbl]

theorem freeEntries (tid : Nat) : u.freeEntries tid = s.freeEntries tid := by rw [h.garb]; rfl

end Paid

/-- The entry that is taken is the lowest of the four that no launch of the team holds (R302). -/
theorem State.freeEntries_head {s : State} {tid n : Nat} {ns : List Nat} (h : s.freeEntries tid = n :: ns) :
    n < 4 ∧ (∀ p ∈ s.sch.pendL, p.tid = tid → p.entry ≠ n) ∧ ∀ m, m < n → ∃ p ∈ s.sch.pendL, p.tid = tid ∧ p.entry = m := by
  unfold State.freeEntries at h
  split at h
  · cases h
  · have hfind := congrArg List.head? h
    rw [List.head?_filter, List.head?_cons, List.find?_range_eq_some] at hfind
    obtain ⟨hfree, hmem, hleast⟩ := hfind
    refine ⟨List.mem_range.1 hmem, fun p hp htid hentry => ?_, fun m hm => ?_⟩
    · simp only [Bool.not_eq_true', List.any_eq_false, Bool.and_eq_true, decide_eq_true_eq] at hfree
      exact hfree p hp ⟨htid, hentry⟩
    · have hheld := hleast m hm
      simp only [Bool.not_not, List.any_eq_true, Bool.and_eq_true, decide_eq_true_eq] at hheld
      exact hheld

/-- The word is one of LAUNCH. -/
def IsLaunch (i : Instr) : Prop := (∃ f, i = .launch f) ∨ (∃ f, i = .launchLong f)

theorem exec_launch {i : Instr} (h : IsLaunch i) (s : State) : exec i s = runWord i launchMeaning s := by
  obtain ⟨f, rfl⟩ | ⟨f, rfl⟩ := h <;> rfl

section

variable {u : State} {i : Iss} {l : Lane} {n : Nat}

theorem State.chargedAs.launchedLane (h : u.chargedAs l n) (hn : n ≠ 2) : u.launchedLane l = false :=
  h.any (f := fun n => decide (n = 2)) (decide_eq_false hn)

theorem State.launchNew_one (h : u.launchedLane l = false) : u.launchNew [l] = [l] := by
  unfold State.launchNew
  rw [List.filter_cons_of_pos (by rw [h]; rfl), List.filter_nil]

theorem State.recBytes_of_present {a m : Nat} (h : u.sabsent l.t.tid a m = false) : u.recBytes l a m = .ok (u.sreads l.t.tid a m) := by
  unfold State.recBytes
  rw [h]
  rfl

theorem State.launchRecFlt_none {st : Stage} {e : Nat} (hchan : capTarget (u.groupChan i) = e)
    (hst : u.stage? i.g.part i.g.ctx e = some st) (hpresent : u.sabsent l.t.tid (u.recOff i l) 64 = false)
    (hrec : launchRecBad (u.sreads l.t.tid (u.recOff i l) 64) st.groups = false)
    (hlbl : Label.sub (u.cmdLbl i l (u.recOff i l) 64) (u.ceilOf (u.launchKey i)) = true) : u.launchRecFlt i l = none := by
  have hbytes := State.recBytes_of_present hpresent
  unfold State.launchRecFlt
  simp only [hchan, hst, hbytes, hrec, hlbl]
  rfl

theorem State.recFlt_none {m : Nat} (halign : u.recOff i l % m = 0) (hbound : u.recOff i l + m ≤ u.scrSize l.t.tid) :
    u.recFlt i m l = none := by
  unfold State.recFlt
  rw [if_neg (not_not.2 halign), if_neg (Nat.not_lt.2 hbound)]

/-- One lane goes on whose record is there and whose team has an entry free (R302). -/
theorem State.launchStop_none (hon : i.on = [l]) (hnew : u.launchedLane l = false)
    (hpresent : u.sabsent l.t.tid (u.recOff i l) 64 = false) (hfree : u.freeEntries l.t.tid ≠ []) : u.launchStop i = (u, []) := by
  have hmerge : mergeLines [] = [] := rfl
  have htids : tidsOf [l] = [l.t.tid] := rfl
  have hbytes := State.recBytes_of_present hpresent
  have hmine : [l].filter (fun x => decide (x.t.tid = l.t.tid)) = [l] := by simp
  have hdrop : [l].drop (u.freeEntries l.t.tid).length = [] :=
    List.drop_eq_nil_of_le (Nat.succ_le_of_lt (List.length_pos_iff.2 hfree))
  unfold State.launchStop
  simp only [hon, State.launchNew_one hnew, List.filterMap_cons, List.filterMap_nil, hbytes, hmerge, List.map_nil, List.contains_nil,
    Bool.not_false, List.filter_true, htids, List.flatMap_cons, List.flatMap_nil, hmine, hdrop, List.append_nil]

/-- The entry that LAUNCH of one lane takes joins the pending launches (R302). -/
def State.addEntry (s : State) (x : PendLaunch) : State := { s with sch.pendL := s.sch.pendL ++ [x] }

theorem State.launch_eff {ns : List Nat} (hon : i.on = [l]) (hnew : u.launchedLane l = false) (hfree : u.freeEntries l.t.tid = n :: ns)
    (hparked : ∀ p ∈ u.sch.paths, p.state ≠ .parked .launchEntry) :
    launchMeaning.eff u i =
      ((u.addEntry ⟨l.t.tid, n, u.launchCopy i l, u.clk.cycle, false⟩).chargePaths [l.pid] 0).tokDown i.f.tok [l.t] := by
  have htake : u.takeEntry i l = u.addEntry ⟨l.t.tid, n, u.launchCopy i l, u.clk.cycle, false⟩ := by
    unfold State.takeEntry
    rw [hfree]
    rfl
  have hjust : (u.addEntry ⟨l.t.tid, n, u.launchCopy i l, u.clk.cycle, false⟩).justParked i .launchEntry = [] :=
    List.filter_eq_nil_iff.2 fun p hp => by simp [hparked p hp]
  have hsort : sortBy Lane.q [] = [] := rfl
  have hup (s : State) : s.tokUp i.f.tok [] = s := by unfold State.tokUp; split <;> rfl
  unfold launchMeaning
  simp only [hon, State.launchNew_one hnew, List.foldl_cons, List.foldl_nil, htake, hjust, List.flatMap_nil, hsort, List.map_nil,
    List.append_nil, hup, State.markCharged_chargePaths, List.map_cons]

theorem Aside.addEntry (x : PendLaunch) : Aside fun s => s.addEntry x := fun _ _ _ _ => rfl

end

/-- One lane issues LAUNCH with a record in order, at an entry `e` that is not spent; its team has the entry `n` free. -/
structure Launches (s : State) (g : IssueGroup) (i : Instr) (l : Lane) (e n : Nat) : Prop where
  launch : IsLaunch i
  ready : s.ready g i = true
  entrants : s.entrants g i = [l]
  team : ∃ t, s.team? l.t.tid = some t
  free : s.chargedAs l 0
  unparked : ∀ p ∈ s.sch.paths, p.state ≠ .parked .launchEntry
  chan : s.chanOf l.t.tid (fieldsOf i) = e
  valid : capValid e = true
  kind : capKind e = 3
  perm : e.testBit permLaunch = true
  allow : capAllow e ≠ 0
  align : s.recOff (s.iss g i) l % 64 = 0
  bound : s.recOff (s.iss g i) l + 64 ≤ s.scrSize l.t.tid
  present : s.sabsent l.t.tid (s.recOff (s.iss g i) l) 64 = false
  recFlt : s.launchRecFlt (s.iss g i) l = none
  entry : ∃ ns, s.freeEntries l.t.tid = n :: ns

namespace Launches

variable {s : State} {g : IssueGroup} {i : Instr} {l : Lane} {e n : Nat} (h : Launches s g i l e n)
include h

theorem on : (s.iss g i).on = [l] := by
  obtain ⟨t, ht⟩ := h.team
  exact State.acting_of_entrants h.entrants ht

theorem takes : ∃ v w, Takes s g i v (fun w => launchMeaning.eff w (s.iss g i)) ∧ v.countedAt s g i = w ∧ Beside (s.paid g i l) w ∧
      w.sch.paths = ((s.entered g i).chargePaths [l.pid] 1).sch.paths := by
  obtain ⟨t, ht⟩ := h.team
  obtain ⟨ns, hns⟩ := h.entry
  refine takes_charged h.ready (exec_launch h.launch s) h.entrants ht h.free (fun _ _ _ => rfl) (fun u hp hc hchan => ?_)
    (fun u hc => ?_) fun u hp hc => ?_
  · have he := (hchan l.t.tid (fieldsOf i)).trans h.chan
    have hkind : [3].contains (capKind e) = true := by rw [h.kind]; rfl
    have hcap := State.capFlt_none h.on hc.chargedLane he h.valid hkind h.perm h.allow
    have hrec := State.recFlt_none h.align h.bound
    show u.launchFlt (s.iss g i) l = none
    unfold State.launchFlt
    rw [hc.launchedLane (by decide), hcap, hp.recFlt, hrec, hp.launchRecFlt, h.recFlt]
    rfl
  · have hiss : ({ s.iss g i with on := u.launchNew (s.iss g i).on } : Iss) = s.iss g i := by
      rw [h.on, State.launchNew_one (hc.launchedLane (by decide)), ← h.on]
    show (u.charge { s.iss g i with on := u.launchNew (s.iss g i).on }, none) = _
    rw [hiss]
  · have habsent : u.sabsent l.t.tid (u.recOff (s.iss g i) l) 64 = false := by
      rw [hp.recOff, hp.sabsent, h.present]
    exact State.launchStop_none h.on (hc.launchedLane (by decide)) habsent (by rw [hp.freeEntries, hns]; exact List.cons_ne_nil n ns)

/-- The launch takes the entry with the copy of its record (R70, R302). -/
theorem does : Does s g i ((s.paid g i l).addEntry ⟨l.t.tid, n, s.launchCopy (s.iss g i) l, s.clk.cycle, false⟩) := by
  obtain ⟨ns, hns⟩ := h.entry
  obtain ⟨v, w, htakes, hcounted, hbeside, hpaths⟩ := h.takes
  have hp : Paid s w := (s.paid_paid g i l).trans hbeside.paid
  have hone := State.chargedAs_of_charged hpaths
  have hunparked := State.states_of_charged (P := fun x => x ≠ .parked .launchEntry) h.unparked hpaths
  have heff := State.launch_eff h.on (hone.launchedLane (by decide)) ((hp.freeEntries _).trans hns) hunparked
  rw [hp.launchCopy, hp.alike.cycle] at heff
  have hcounts := State.counts_tokDown ((w.addEntry ⟨l.t.tid, n, s.launchCopy (s.iss g i) l, s.clk.cycle, false⟩).chargePaths [l.pid] 0)
    (s.iss g i).f.tok [l.t]
  rw [← heff] at hcounts
  exact does_of_charged (f := fun t => t.addEntry ⟨l.t.tid, n, s.launchCopy (s.iss g i) l, s.clk.cycle, false⟩) h.ready h.free htakes hcounted
    hbeside hpaths (Aside.addEntry _) hcounts fun _ => ⟨rfl, rfl, rfl⟩

end Launches

/-- What the charge and the entry taken leave of the teams. -/
theorem State.launched_spec {s b : State} {g : IssueGroup} {i : Instr} {l : Lane} {x : PendLaunch} (hb : (s.paid g i l).addEntry x = b)
    (hent : s.entrants g i = [l]) :
    b = { s with sch.teams := b.sch.teams, sch.pendL := s.sch.pendL ++ [x] } ∧
      ∀ n, b.team? n = (s.team? n).map fun t => if n = l.t.tid then
        { t with clean := false, chan := setAt t.chan (mdCh (fieldsOf i).md) (capCharge 1) } else t := by
  have hframe := s.paid_frame g i l
  have hteams := State.paid_team? (s := s) (g := g) (i := i) hent
  obtain ⟨c, hc⟩ : ∃ c, s.paid g i l = c := ⟨_, rfl⟩
  rw [hc] at hb hframe hteams
  subst hb
  refine ⟨?_, hteams⟩
  rw [State.addEntry, hframe]

/-- The copy that LAUNCH of one lane keeps of its record (R302). -/
theorem State.launchCopy_one {s : State} {is : Iss} {l : Lane} {k : QKey} (hon : is.on = [l]) (hk : s.launchKey is = k) :
    s.launchCopy is l = { bytes := s.sreads l.t.tid (s.recOff is l) 64, lbl := s.cmdLbl is l (s.recOff is l) 64, part := k.part,
                          ctx := k.ctx, stage := k.idx, run := 0 } := by
  have hiss : ({ is with on := [l] } : Iss) = is := by rw [← hon]
  unfold State.launchCopy
  simp only [hiss, hk]

/-- Settles O28: `Decrements.does` gives the request of DECDEP, `Launches.does` the entry of LAUNCH. -/
theorem decrementsAndLaunches : Obligations.DecrementsAndLaunches := by
  unfold Obligations.DecrementsAndLaunches
  refine ⟨fun s g i l t tab hdec hready hent ht => ?_, fun s g i l t st hlaunch hready hent ht => ?_⟩
  · intro is e hpaths hvalid hkind hperm hallow htab n va hindex hva hpages hflt
    have h : Decrements s g i l e tab := ⟨hdec, hready, hent, ⟨t, ht⟩, hpaths, State.chanOf_of_team ht _, hvalid, hkind, hperm, hallow,
      htab, hindex, hva, hpages, hflt⟩
    obtain ⟨b, r, a, hdoes, hb, hreqs, hteams, hrkind, hraccs, hdst, htok, hat, hava, hlen, hdone⟩ := h.does
    refine ⟨b, r, a, hdoes, hb, ?_, fun n => ?_, hrkind, hraccs, hdst, htok, hat, hava, hlen, hdone⟩
    · rw [hreqs]
      refine congrArg (· ++ [r]) (List.map_congr_left fun q _ => ?_)
      unfold Req.dropKeep
      simp only [List.any_cons, List.any_nil, Bool.or_false]
    · rw [← State.paid_team? hent]
      exact congrArg (fun m => mget? m n) hteams
  · intro is e a bs hpaths hvalid hkind hperm hallow hst halign hbound hpresent hbad hlbl hfree
    obtain ⟨n, ns, hns⟩ := List.exists_cons_of_ne_nil hfree
    have hchan := State.chanOf_of_team ht (fieldsOf i)
    have hgroup : s.groupChan (s.iss g i) = e := (State.groupChan_of_one (State.acting_of_entrants hent ht)).trans hchan
    have hkey : s.launchKey (s.iss g i) = ⟨g.part, g.ctx, true, capTarget e⟩ := by
      unfold State.launchKey
      rw [hgroup]
      rfl
    have hrecFlt : s.launchRecFlt (s.iss g i) l = none :=
      State.launchRecFlt_none (congrArg capTarget hgroup) hst hpresent hbad (by rw [hkey]; exact hlbl)
    have h : Launches s g i l e n := ⟨hlaunch, hready, hent, ⟨t, ht⟩, fun p hp => (hpaths p hp).2, fun p hp => (hpaths p hp).1, hchan,
      hvalid, hkind, hperm, hallow, halign, hbound, hpresent, hrecFlt, ⟨ns, hns⟩⟩
    obtain ⟨hlt, hunused, hleast⟩ := State.freeEntries_head hns
    have hdoes := h.does
    rw [State.launchCopy_one h.on hkey] at hdoes
    obtain ⟨hb, hteams⟩ := State.launched_spec rfl hent
    exact ⟨_, n, hdoes, hb, hlt, hunused, hleast, hteams⟩

end Sys2Proof.Machine

namespace Sys2Proof.Machine

open Sys2Proof

/-! # ARCINIT, ARCADD and ARCWAIT (O29) -/

/-! ## The accesses of several lanes -/

theorem map_filterMap_of_some {α β γ : Type} {f : α → Option β} {p : β → γ} {q : α → γ} {xs : List α}
    (h : ∀ x ∈ xs, ∃ b, f x = some b ∧ p b = q x) : (xs.filterMap f).map p = xs.map q := by
  induction xs with
  | nil => rfl
  | cons x xs ih =>
    obtain ⟨b, hb, hp⟩ := h x List.mem_cons_self
    rw [List.filterMap_cons_some hb, List.map_cons, List.map_cons, hp, ih fun y hy => h y (List.mem_cons_of_mem _ hy)]

/-- What the statement asks of an access: its thread, its address, its length and its bytes. -/
def Acc.plain (a : Acc) : TRef × DWord × Nat × List Byte := (a.t, a.va, a.len, a.data)

theorem State.combineLbl_plain (s : State) (i : Iss) (kind : ReqKind) (as_ : List Acc) (a : Acc) : (s.combineLbl i kind as_ a).plain = a.plain := by
  unfold State.combineLbl
  split <;> rfl

theorem Req.dropKeep_congr {as_ bs : List Acc} (h : bs.map Acc.untimed = as_.map Acc.untimed) (core : Nat) (q : Req) :
    q.dropKeep core as_ = q.dropKeep core bs := by
  have hany (xs : List Acc) (x : Acc) : (xs.any fun y => decide (y.loc.line = x.loc.line)) =
      (xs.map Acc.untimed).any fun y => decide (y.loc.line = x.loc.line) := by rw [List.any_map]; rfl
  unfold Req.dropKeep
  simp only [hany as_, hany bs, h]

section

variable {u : State} {i : Iss} {kind : ReqKind}

/-- The accesses of lanes that all translate (R240). -/
theorem State.accsOf_plain {data cmp : Lane → List Byte} {nl : Bool} {len : Nat} (hkind : kind ≠ .load)
    (hok : ∀ l ∈ i.on, ∃ loc fl, u.tr i kind.writes l = .ok loc fl) :
    (u.accsOf i kind nl data cmp len).map Acc.plain =
      i.on.map fun l => (l.t, BitVec.ofNat 64 (u.addrOf i true l).toNat, len, data l) := by
  unfold State.accsOf
  simp only [decide_eq_false hkind, Bool.false_and, Bool.false_eq_true, if_false, List.map_map]
  refine map_filterMap_of_some fun l hl => ?_
  obtain ⟨loc, fl, htr⟩ := hok l hl
  unfold State.accOf
  rw [htr]
  exact ⟨_, rfl, State.combineLbl_plain ..⟩

/-- Lanes in which no test of an access fails are not judged (R240). -/
theorem State.judgeAcc_none (h : ∀ l ∈ u.alive i.on, u.accFlt i kind l = none) : u.judgeAcc i kind = u := by
  have hall : ∀ l ∈ u.alive i.on, u.trFlt i kind l = none ∧ u.pcieFlt i kind l = none ∧ u.storeFlt i kind l = none ∧
      u.ownFlt i kind l = none := by
    intro l hl
    have hl := h l hl
    unfold State.accFlt at hl
    simpa only [Option.or_eq_none_iff] using hl
  have halive : u.alive (u.alive i.on) = u.alive i.on := by unfold State.alive; rw [List.filter_filter]; simp
  unfold State.judgeAcc
  rw [State.judge_alive _ _ _ _ fun l hl => (hall l hl).1]
  dsimp only
  rw [State.judge_alive _ _ _ _ fun l hl => (hall l (halive ▸ hl)).2.1]
  rw [State.judge_alive _ _ _ _ fun l hl => (hall l (halive ▸ hl)).2.2.1]
  exact State.judge_alive _ _ _ _ fun l hl => (hall l (halive ▸ hl)).2.2.2

/-- A global access that writes and in which no lane fails is one request (R240, R241). -/
theorem State.globalAccess_eq {data cmp : Lane → List Byte} {nl : Bool} {len scope sz : Nat} {dst : List Tile} (halive : u.alive i.on = i.on)
    (hflt : ∀ l ∈ i.on, u.accFlt i kind l = none) (hw : kind.writes = true) :
    u.globalAccess i kind scope nl data cmp len dst sz =
      (u.touchAll i kind (i.on.map fun l => (u.addrOf i true l).toNat) (u.accsOf i kind nl data cmp len)).request i kind scope nl
        (u.accsOf i kind nl data cmp len) dst sz i.f.tok := by
  have hjudge : u.judgeAcc i kind = u := State.judgeAcc_none (by rw [halive]; exact hflt)
  unfold State.globalAccess State.touchAll
  simp only [hjudge, halive, hw]

end

/-! ## Release without pinned lines -/

theorem State.flush_unpinned {s : State} (h : ∀ x ∈ s.m.l1, x.pin = none) (ts : List (TRef × Nat)) : s.flush ts = s := by
  have hpins (tid rank : Nat) : s.releasePins tid rank = s := by
    unfold State.releasePins
    rw [(List.filter_eq_nil_iff.2 fun x hx => by rw [h x hx]; simp : List.filter _ s.m.l1 = [])]
    rfl
  unfold State.flush
  refine foldl_same _ _ _ fun tid _ => ?_
  dsimp only
  split
  · rfl
  · exact hpins ..

/-- A release whose threads are done, and which has no line to write back, holds nothing (R92, R94). -/
theorem State.release92_none {s : State} {g : IssueGroup} {ts : List (TRef × Nat)} (hpins : ∀ x ∈ s.m.l1, x.pin = none)
    (hdone : ∀ x ∈ ts, s.relDone x.1 x.2 = true) : s.release92 g ts = (s, none) := by
  have hbusy : (ts.any fun x => s.busyThread x.1) = false := by
    rw [List.any_eq_false]
    intro x hx
    have hx := hdone x hx
    unfold State.relDone at hx
    simp only [Bool.and_eq_true, Bool.not_eq_true'] at hx
    simp [hx.1]
  have hall : (ts.all fun x => s.relDone x.1 x.2) = true := List.all_eq_true.2 hdone
  unfold State.release92
  simp only [hbusy, State.flush_unpinned hpins, ite_self, hall, Bool.false_eq_true, if_false, if_true]

namespace Paid

variable {s u : State} (h : Paid s u)
include h

theorem relDone (t : TRef) (scope : Nat) : u.relDone t scope = s.relDone t scope := by
  have hwct : (u.thr t).wct = (s.thr t).wct := (congrArg Thread.wct (h.bare t) :)
  have hbusy : u.busyThread t = s.busyThread t := by rw [h.garb]; rfl
  have hclk : u.clk = s.clk := by rw [h.garb]; rfl
  have hreqs : u.y.reqs = s.y.reqs := by rw [h.garb]; rfl
  unfold State.relDone
  rw [hwct, hbusy, hclk, hreqs]

theorem arcScope (i : Iss) (l : Lane) : u.arcScope i l = s.arcScope i l := by unfold State.arcScope; rw [h.tr]

theorem arcAccFlt (i : Iss) (l : Lane) : u.arcAccFlt i l = s.arcAccFlt i l := by
  unfold State.arcAccFlt
  simp only [h.tr, h.addrOf, h.owned]

theorem arcReached (i : Iss) (l : Lane) : u.arcReached i l = s.arcReached i l := by
  have hreached (tid va : Nat) : u.reached tid i.g.core i.g.part i.g.ctx va = s.reached tid i.g.core i.g.part i.g.ctx va := by
    rw [h.garb]; rfl
  unfold State.arcReached
  rw [h.addrOf, hreached]

end Paid

/-! ## ARCINIT and ARCADD -/

theorem State.arcFlt_none {u : State} {i : Iss} {l : Lane} (h : 0 ≤ u.addrOf i true l ∧ u.addrOf i true l < 2 ^ 57 ∧ u.addrOf i true l % 16 = 0) :
    u.arcFlt i l = none := by
  obtain ⟨hpos, hbound, halign⟩ := h
  unfold State.arcFlt globFlt
  rw [if_neg (by omega), if_neg (by simp [halign])]

theorem State.pageStop_none {u : State} {i : Iss} {write : Bool} (h : ∀ l ∈ i.on, ∃ loc fl, u.tr i write l = .ok loc fl) :
    u.pageStop i write = (u, []) := by
  have hstops : pageStops i (fun l => (u.addrOf i true l).toNat) (fun l => u.tr i write l) = [] := by
    refine List.filterMap_eq_nil_iff.2 fun l hl => ?_
    obtain ⟨loc, fl, hl⟩ := h l hl
    simp only [hl]
  unfold State.pageStop
  rw [hstops]
  rfl

/-- A counter's word that writes: its checks, and its effect as one access of each lane. -/
structure CounterWrite (s : State) (g : IssueGroup) (i : Instr) (m : Meaning) (kind : ReqKind) (data : State → Lane → List Byte) (n : Nat) :
    Prop where
  exec : exec i s = runWord i m s
  closes : ∀ t is l, m.closes t is l = true
  flt : ∀ t is l, m.flt t is l = t.arcFlt is l
  hold : ∀ u, Paid s u → m.hold u (s.iss g i) = (u, none)
  stop : ∀ t is, m.stop t is = t.pageStop is true
  eff : ∀ t, m.eff t (s.iss g i) = t.globalAccess (s.iss g i) kind 0 false (data t) noBytes n [] 0
  writes : kind.writes = true
  load : kind ≠ .load
  data : ∀ u, Paid s u → data u = data s

theorem CounterWrite.does {s : State} {g : IssueGroup} {i : Instr} {m : Meaning} {kind : ReqKind} {data : State → Lane → List Byte} {n : Nat}
    (h : CounterWrite s g i m kind data n) (hready : s.ready g i = true) (hne : s.acting g i ≠ [])
    (haddr : ∀ l ∈ s.acting g i, 0 ≤ s.addrOf (s.iss g i) true l ∧ s.addrOf (s.iss g i) true l < 2 ^ 57 ∧ s.addrOf (s.iss g i) true l % 16 = 0)
    (hok : ∀ l ∈ s.acting g i, (∃ loc fl, s.tr (s.iss g i) true l = .ok loc fl) ∧ s.accFlt (s.iss g i) kind l = none) :
    ∃ (b : State) (r : Req), Does s g i b ∧
      b = { s with clk.fresh := s.clk.fresh + 1, sch.teams := b.sch.teams, sch.busy := b.sch.busy, m.reqs := b.m.reqs, m.l1 := b.m.l1,
                   m.tlb := (s.fillTlb (s.iss g i) true ((s.acting g i).map fun l => (s.addrOf (s.iss g i) true l).toNat)).m.tlb,
                   m.l2 := b.m.l2 } ∧
      b.m.reqs = s.m.reqs.map (Req.dropKeep g.core r.accs) ++ [r] ∧ b.sch.teams = (s.close (s.entrants g i)).sch.teams ∧
      r.kind = kind ∧ r.dst = [] ∧ r.tok = (fieldsOf i).tok ∧
      r.accs.map Acc.plain = (s.acting g i).map fun l => (l.t, BitVec.ofNat 64 (s.addrOf (s.iss g i) true l).toNat, n, data s l) := by
  have hclosed : Paid s (s.closed g i) := (Paid.close ..).trans (s.beside_closed g i).paid
  have htakes : Takes s g i (s.closed g i) fun w => m.eff w (s.iss g i) := by
    refine takes_closes hready h.exec h.closes (fun l hl => ?_) (h.hold _ hclosed) ((hclosed.alike.alive _).trans (s.acting_alive g i)) ?_
    · rw [h.flt]
      refine State.arcFlt_none ?_
      rw [hclosed.addrOf]
      exact haddr l hl
    · rw [h.stop]
      refine State.pageStop_none fun l hl => ?_
      rw [hclosed.tr]
      exact (hok l hl).1
  obtain ⟨w, hcounted⟩ : ∃ w, (s.closed g i).countedAt s g i = w := ⟨_, rfl⟩
  have hbeside : Beside (s.close (s.entrants g i)) w := hcounted ▸ s.countedAt_closed g i
  have hp : Paid s w := (Paid.close ..).trans hbeside.paid
  have hentered : w.sch.paths = (s.entered g i).sch.paths := by rw [← hcounted, State.countedAt_paths, State.closed_paths]
  have halive : w.alive (s.iss g i).on = (s.iss g i).on := (hp.alike.alive _).trans (s.acting_alive g i)
  have haccess := State.globalAccess_eq (data := data w) (cmp := noBytes) (nl := false) (len := n) (scope := 0) (sz := 0) (dst := []) halive
    (fun l hl => (hp.accFlt ..).trans (hok l hl).2) h.writes
  have hplain := State.accsOf_plain (u := w) (i := s.iss g i) (data := data w) (cmp := noBytes) (nl := false) (len := n) h.load
    (fun l hl => by rw [hp.tr, h.writes]; exact (hok l hl).1)
  simp only [hp.addrOf] at haccess hplain
  rw [h.data w hp] at haccess hplain
  have heff := h.eff w
  rw [h.data w hp, haccess] at heff
  generalize w.accsOf (s.iss g i) kind false (data s) noBytes n = as_ at *
  have hnonempty : as_ ≠ [] := by
    rintro rfl
    exact hne (List.map_eq_nil_iff.1 hplain.symm)
  have hdiffer := MemDiffer.touchAll w (s.iss g i) kind ((s.iss g i).on.map fun l => (s.addrOf (s.iss g i) true l).toNat) as_
  have hpaths : (w.touchAll (s.iss g i) kind ((s.iss g i).on.map fun l => (s.addrOf (s.iss g i) true l).toNat) as_).sch.paths =
      (s.entered g i).sch.paths := by rw [hdiffer]; exact hentered
  obtain ⟨b, r, hdoes, hb, hreqs, hteams, hrkind, hdst, htok, haccs⟩ :=
    request_does hready htakes hcounted hp h.writes hnonempty heff (by rw [← hpaths])
  have hraccs : r.accs.map Acc.plain = as_.map Acc.plain := by
    have := congrArg (List.map Acc.plain) haccs
    rwa [List.map_map, List.map_map] at this
  exact ⟨b, r, hdoes, hb, hreqs.trans (congrArg (· ++ [r]) (List.map_congr_left fun q _ => Req.dropKeep_congr haccs g.core q)),
    hteams.trans hbeside.teams, hrkind, hdst, htok, hraccs.trans hplain⟩

theorem arcinit_eff (t : State) (is : Iss) : arcinitMeaning.eff t is =
    t.globalAccess is .arcinit 0 false (fun l => natLE 8 0 ++ natLE 8 (t.intVal l.t is.f.lit is.f.b 2 0 true)) noBytes 16 [] 0 := rfl

theorem arcadd_eff (t : State) (is : Iss) : arcaddMeaning.eff t is =
    t.globalAccess is .arcadd 0 false (fun l => natLE 8 (t.rd32 l.t is.f.lit is.f.b)) noBytes 8 [] 0 := rfl

theorem counterWrite_arcinit {s : State} {g : IssueGroup} {i : Instr} {f : Fm} (h : (∃ f, i = .arcinit f) ∨ (∃ f, i = .arcinitLong f))
    (hf : (s.iss g i).f = f) :
    CounterWrite s g i arcinitMeaning .arcinit (fun t l => natLE 8 0 ++ natLE 8 (t.intVal l.t f.lit f.b 2 0 true)) 16 where
  exec := by obtain ⟨f, rfl⟩ | ⟨f, rfl⟩ := h <;> rfl
  closes _ _ _ := rfl
  flt _ _ _ := rfl
  hold _ _ := rfl
  stop _ _ := rfl
  eff t := by rw [arcinit_eff, hf]
  writes := rfl
  load := by simp
  data u hp := by simp only [hp.alike.intVal]

theorem counterWrite_arcadd {s : State} {g : IssueGroup} {i : Instr} {f : Fm} (h : (∃ f, i = .arcadd f) ∨ (∃ f, i = .arcaddLong f))
    (hf : (s.iss g i).f = f) (hpins : ∀ x ∈ s.m.l1, x.pin = none) (hdone : ∀ l ∈ s.acting g i, s.relDone l.t (s.arcScope (s.iss g i) l) = true) :
    CounterWrite s g i arcaddMeaning .arcadd (fun t l => natLE 8 (t.rd32 l.t f.lit f.b)) 8 where
  exec := by obtain ⟨f, rfl⟩ | ⟨f, rfl⟩ := h <;> rfl
  closes _ _ _ := rfl
  flt _ _ _ := rfl
  hold u hp := by
    have hl1 : u.m.l1 = s.m.l1 := by rw [hp.garb]; rfl
    refine State.release92_none (by rw [hl1]; exact hpins) fun x hx => ?_
    obtain ⟨l, hl, rfl⟩ := List.mem_map.1 hx
    rw [hp.relDone, hp.arcScope]
    exact hdone l hl
  stop _ _ := rfl
  eff t := by rw [arcadd_eff, hf]
  writes := rfl
  load := by simp
  data u hp := by simp only [hp.alike.rd32]

/-! ## ARCWAIT -/

theorem State.perform_stops {u v s : State} {g : IssueGroup} {i : Instr} {m : Meaning} (ha : v.alive (s.acting g i) = s.acting g i)
    (hs : m.stop u (s.iss g i) = (v, [])) :
    u.perform (s.iss g i) m = (m.eff (v.countedAt s g i) (s.iss g i)).advance g (fieldsOf i).len (fieldsOf i).stall := by
  have hon : ((s.iss g i).on.filter fun l => !([] : List TRef).contains l.t) = s.acting g i := by simp [State.iss]
  have hiss : ({ s.iss g i with on := v.alive ((s.iss g i).on.filter fun l => !([] : List TRef).contains l.t) } : Iss) = s.iss g i := by
    rw [hon, ha]; rfl
  unfold State.perform
  simp only [hs, List.map_nil, List.filter_nil, State.parkAll_nil]
  rw [hiss]
  rfl

/-- A word that closes nothing and whose stop leads to a state of its own completes. -/
theorem takes_stops {s u v : State} {g : IssueGroup} {i : Instr} (h : s.ready g i = true) {m : Meaning} (he : exec i s = runWord i m s)
    (hc : ∀ t is l, m.closes t is l = false) (hf : ∀ l ∈ s.acting g i, m.flt (s.entered g i) (s.iss0 g i) l = none)
    (hh : m.hold (s.entered g i) (s.iss g i) = (u, none)) (ha : v.alive (s.acting g i) = s.acting g i)
    (hs : m.stop u (s.iss g i) = (v, [])) : Takes s g i v fun w => m.eff w (s.iss g i) := by
  have hshut : s.shut g i m = s.entered g i := by
    unfold State.shut
    simp only [hc, List.filter_false, State.close_nil]
  unfold Takes
  rw [he, runWord_passes h m (by rw [hshut]; exact hf), hshut, hh]
  dsimp only
  rw [State.perform_stops ha hs]

theorem Memwise.aside {f : State → State} (h : Memwise f) : Aside f := fun t thr ps busy => by
  have hself : f t = (f t).garb t.sch.teams t.r.thr t.sch.paths t.sch.busy := h t t.sch.teams t.r.thr t.sch.paths t.sch.busy
  have hteams : (f t).sch.teams = t.sch.teams := by rw [hself]; rfl
  have hgarb : f (t.dress thr ps busy) = (f t).garb t.sch.teams thr ps busy := h t t.sch.teams thr ps busy
  rw [hgarb, ← hteams]
  rfl

section

variable {u : State} {i : Iss}

theorem State.acquireHold_none (h : ∀ l ∈ i.on, u.loading l.t = false) : u.acquireHold i = (u, none) := by
  unfold State.acquireHold
  rw [if_neg]
  simpa using h

/-- Where every counter has reached its goal, no lane parks (R305). -/
theorem State.arcStop_none (halive : u.alive i.on = i.on) (htr : ∀ l ∈ i.on, ∃ loc fl, u.tr i false l = .ok loc fl)
    (hflt : ∀ l ∈ i.on, u.arcAccFlt i l = none) (hreached : ∀ l ∈ i.on, u.arcReached i l = true) :
    u.arcStop i = (u.fillTlb i false (i.on.map fun l => (u.addrOf i true l).toNat), []) := by
  have hjudge : u.judge i.g i.on (fun l => u.arcAccFlt i l) = u := State.judge_alive _ _ _ _ (by rw [halive]; exact hflt)
  have hwait : (i.on.filter fun l => !u.arcReached i l) = [] := List.filter_eq_nil_iff.2 fun l hl => by rw [hreached l hl]; simp
  have hpages := State.pageStop_none htr
  unfold State.arcStop
  simp only [hjudge, halive, hpages, List.map_nil, List.contains_nil, Bool.not_false, List.filter_true, hwait, List.append_nil]

/-- An acquire of mesh scope by lanes that there are (R93, R105). -/
theorem State.arcAcquire_eq {ls : List Lane} (h : ls ≠ []) : u.arcAcquire i ls = { u with m.l1 := u.m.l1.filter fun x =>
    !(x.core = i.g.core && x.part = i.g.part && x.pin.isNone && dropsLine 3 false x.line) } := by
  have hne : ls.isEmpty = false := by simpa using h
  unfold State.arcAcquire State.acquire
  rw [hne]
  have hrank : scopeRank 3 = 3 := rfl
  simp only [Bool.false_eq_true, if_false, hrank, show ¬ (3 = 0) by decide, decide_false, Bool.and_false]

/-- ARCWAIT of lanes that go on where none is parked at a counter (R305). -/
theorem State.arcwait_eff (hfree : ∀ p ∈ u.sch.paths, p.atCounter = false) :
    arcwaitMeaning.eff u i = (u.arcAcquire i i.on).tokDown i.f.tok (i.on.map (·.t)) := by
  have hjust : u.justParked i (.counter (i.f.md.getLsbD 0)) = [] := by
    refine List.filter_eq_nil_iff.2 fun p hp => ?_
    have hstate : p.state ≠ .parked (.counter (i.f.md.getLsbD 0)) := by
      intro hp'
      have hc := hfree p hp
      unfold Path.atCounter at hc
      rw [hp'] at hc
      cases hc
    simp only [decide_eq_false hstate, Bool.false_and, Bool.false_eq_true, not_false_eq_true]
  unfold arcwaitMeaning
  simp only [hjust, List.foldl_nil]

end

/-- The machine behind an ARCWAIT that goes on: translations are kept, and lines of mesh scope dropped (R93, R105, R372). -/
def State.waited (s : State) (i : Iss) (vas : List Nat) : State :=
  { s.fillTlb i false vas with m.l1 := (s.fillTlb i false vas).m.l1.filter fun x =>
    !(x.core = i.g.core && x.part = i.g.part && x.pin.isNone && dropsLine 3 false x.line) }

theorem Aside.dropMesh (core part : Nat) : Aside fun s => { s with m.l1 := s.m.l1.filter fun x =>
    !(x.core = core && x.part = part && x.pin.isNone && dropsLine 3 false x.line) } := fun _ _ _ _ => rfl

theorem Aside.fillTlb (i : Iss) (write : Bool) (vas : List Nat) : Aside fun s => s.fillTlb i write vas := (Memwise.fillTlb i write vas).aside

theorem State.waited_eq (s : State) (i : Iss) (vas : List Nat) : s.waited i vas =
    { s with m.tlb := (s.fillTlb i false vas).m.tlb, m.l1 := s.m.l1.filter fun x =>
      !(x.core = i.g.core && x.part = i.g.part && x.pin.isNone && dropsLine 3 false x.line) } := by
  unfold State.waited
  rw [State.fillTlb_frame]

/-- The word is one of ARCWAIT. -/
def IsArcwait (i : Instr) : Prop := (∃ f, i = .arcwait f) ∨ (∃ f, i = .arcwaitLong f) ∨ (∃ f, i = .arcwaitSwap f)

theorem exec_arcwait {i : Instr} (h : IsArcwait i) (s : State) : exec i s = runWord i arcwaitMeaning s := by
  obtain ⟨f, rfl⟩ | ⟨f, rfl⟩ | ⟨f, rfl⟩ := h <;> rfl

theorem arcwait_does {s : State} {g : IssueGroup} {i : Instr} (h : IsArcwait i) (hready : s.ready g i = true) (hne : s.acting g i ≠ [])
    (haddr : ∀ l ∈ s.acting g i, 0 ≤ s.addrOf (s.iss g i) true l ∧ s.addrOf (s.iss g i) true l < 2 ^ 57 ∧ s.addrOf (s.iss g i) true l % 16 = 0)
    (hok : ∀ l ∈ s.acting g i, s.loading l.t = false ∧
      (∃ loc fl, s.tr (s.iss g i) false l = .ok loc fl ∧ s.owned g.part loc = true) ∧ s.arcReached (s.iss g i) l = true)
    (hfree : ∀ p ∈ s.sch.paths, p.atCounter = false) :
    Does s g i (s.waited (s.iss g i) ((s.acting g i).map fun l => (s.addrOf (s.iss g i) true l).toNat)) := by
  have hentered : Paid s (s.entered g i) := (s.beside_entered g i).paid
  have hfill := Aside.fillTlb (s.iss g i) false ((s.acting g i).map fun l => (s.addrOf (s.iss g i) true l).toNat)
  have hflt (l : Lane) (hl : l ∈ s.acting g i) : (s.entered g i).arcAccFlt (s.iss g i) l = none := by
    obtain ⟨-, ⟨loc, fl, htr, howned⟩, -⟩ := hok l hl
    rw [hentered.arcAccFlt]
    unfold State.arcAccFlt
    simp only [htr]
    exact if_pos howned
  have hstop := State.arcStop_none (u := s.entered g i) (i := s.iss g i) (s.acting_alive g i)
    (fun l hl => by obtain ⟨-, ⟨loc, fl, htr, -⟩, -⟩ := hok l hl; rw [hentered.tr]; exact ⟨loc, fl, htr⟩)
    hflt (fun l hl => by rw [hentered.arcReached]; exact (hok l hl).2.2)
  simp only [hentered.addrOf] at hstop
  have hloading : ∀ l ∈ (s.iss g i).on, (s.entered g i).loading l.t = false := fun l hl => (hok l hl).1
  obtain ⟨v, hv⟩ : ∃ v, (s.entered g i).fillTlb (s.iss g i) false ((s.iss g i).on.map fun l => (s.addrOf (s.iss g i) true l).toNat) = v :=
    ⟨_, rfl⟩
  rw [hv] at hstop
  have hvframe : v = { s.entered g i with m.tlb := v.m.tlb } := by rw [← hv]; exact State.fillTlb_frame ..
  have htakes : Takes s g i v fun w => arcwaitMeaning.eff w (s.iss g i) := by
    refine takes_stops hready (exec_arcwait h s) (fun _ _ _ => rfl) (fun l hl => ?_) (State.acquireHold_none hloading) ?_ hstop
    · refine State.arcFlt_none ?_
      rw [hentered.addrOf]
      exact haddr l hl
    · rw [hvframe]
      exact s.acting_alive g i
  obtain ⟨w, hcounted⟩ : ∃ w, v.countedAt s g i = w := ⟨_, rfl⟩
  have hbeside : Beside (s.fillTlb (s.iss g i) false ((s.acting g i).map fun l => (s.addrOf (s.iss g i) true l).toNat)) w := by
    have hfilled := hfill.beside (s.beside_entered g i)
    rw [← hcounted]
    exact (hv ▸ hfilled).trans (.countedAt ..)
  have hpaths : w.sch.paths = (s.entered g i).sch.paths := by
    rw [← hcounted, State.countedAt_paths, hvframe]
  have hfreew : ∀ p ∈ w.sch.paths, p.atCounter = false := by
    intro p hp
    rw [hpaths, s.entered_entry] at hp
    obtain ⟨q, hq, rfl⟩ := List.mem_map.1 hp
    unfold Path.atCounter
    rw [Path.entry_state]
    exact hfree q hq
  have heff := (State.arcwait_eff (i := s.iss g i) hfreew).trans (congrArg (fun t : State => t.tokDown _ _) (State.arcAcquire_eq hne))
  have hdrop := (Aside.dropMesh g.core g.part).beside hbeside
  have hframe := s.waited_eq (s.iss g i) ((s.acting g i).map fun l => (s.addrOf (s.iss g i) true l).toNat)
  refine does_of_takes hready htakes hcounted (b := s.waited _ _) ?_ ?_ ?_ ?_ ?_ ?_
  · rw [heff]
    exact hdrop.trans (.of_counts (State.counts_tokDown ..))
  · rw [heff, (State.counts_tokDown _ _ _).1]
    exact hpaths
  all_goals rw [hframe]

/-- The teams of the lanes that act are those that a word closes. -/
theorem State.team?_close_acting (s : State) (g : IssueGroup) (i : Instr) (n : Nat) : (s.close (s.entrants g i)).team? n =
    (s.team? n).map fun t => if n ∈ (s.acting g i).map (·.t.tid) then { t with clean := false } else t := by
  rw [State.team?_close_eq]
  cases hn : s.team? n with
  | none => rfl
  | some t =>
    have hmem : n ∈ (s.entrants g i).map (·.t.tid) ↔ n ∈ (s.acting g i).map (·.t.tid) := by
      refine ⟨fun h => ?_, fun h => ?_⟩
      · obtain ⟨l, hl, rfl⟩ := List.mem_map.1 h
        have halive : ((s.entered g i).team? l.t.tid).isSome = true := by
          rw [show (s.entered g i).team? l.t.tid = s.team? l.t.tid from rfl, hn]; rfl
        exact List.mem_map_of_mem (f := fun l : Lane => l.t.tid) (List.mem_filter.2 ⟨hl, halive⟩)
      · obtain ⟨l, hl, rfl⟩ := List.mem_map.1 h
        exact List.mem_map_of_mem (f := fun l : Lane => l.t.tid) (State.acting_sub_entrants hl)
    simp only [Option.map_some, hmem]

/-- Settles O29: `CounterWrite.does` gives the requests of ARCINIT and ARCADD, `arcwait_does` how ARCWAIT goes on. -/
theorem arrivalCounters : Obligations.ArrivalCounters := by
  unfold Obligations.ArrivalCounters
  intro s g i hready is f ls a hne haddr
  refine ⟨fun kind data n hword hok => ?_, fun hword hok hfree => ?_⟩
  · obtain ⟨m, data', hwrite, rfl⟩ : ∃ m data', CounterWrite s g i m kind data' n ∧ data = data' s := by
      obtain ⟨hi, rfl, rfl, rfl⟩ | ⟨hi, rfl, rfl, rfl, hpins, hdone⟩ := hword
      · exact ⟨_, _, counterWrite_arcinit hi rfl, rfl⟩
      · exact ⟨_, _, counterWrite_arcadd hi rfl hpins hdone, rfl⟩
    obtain ⟨b, r, hdoes, hb, hreqs, hteams, hkind, hdst, htok, haccs⟩ := hwrite.does hready hne haddr fun l hl => by
      obtain ⟨htr, hflt⟩ := hok l hl
      exact ⟨htr, hflt⟩
    refine ⟨b, r, hdoes, hb, hreqs, fun tid => ?_, hkind, hdst, htok, haccs⟩
    exact (congrArg (fun m => mget? m tid) hteams).trans (s.team?_close_acting g i tid)
  · have hdoes := arcwait_does hword hready hne haddr hok hfree
    rw [State.waited_eq] at hdoes
    exact hdoes

end Sys2Proof.Machine

namespace Sys2Proof.Machine

open Sys2Proof

/-! # What reset leaves (O58) -/

/-- Settles O58: every table of the reset state is empty or holds the value of its rule. -/
theorem resetState : Obligations.ResetState := by
  unfold Obligations.ResetState
  refine ⟨fun _ => rfl, fun _ => rfl, rfl, rfl, rfl, rfl, rfl, rfl, fun _ => ?_, fun _ => ?_, rfl, rfl, rfl⟩
  · exact ⟨rfl, rfl, rfl, rfl, rfl, rfl, rfl, rfl, rfl, rfl⟩
  · exact ⟨rfl, rfl, rfl, rfl⟩

end Sys2Proof.Machine

namespace Sys2Proof.Machine

open Sys2Proof

/-! # Registers of the host interface (O40) -/

section

variable {s : State} {fn : Nat}

/-- The registers of the fault queue and of the two mailboxes lie from 0x1000 to 0x1FFF (Tables 20.1 and 21.1). -/
theorem leadsTo_queueReg (h : s.fnUp fn = true) {off bytes : Nat} {val : DWord} (hlow : 0x1000 ≤ off) (hhigh : off < 0x2000) :
    LeadsTo s (.registerWrite fn off bytes val) (s.writeQueueReg fn off bytes val) := by
  have hreg : s.writeReg0 fn off bytes val = s.writeQueueReg fn off bytes val := by
    have hne (n : Nat) (hn : n < 0x1000) : off ≠ n := by omega
    unfold State.writeReg0
    simp [hne, hlow, hhigh]
  show exec _ s = _
  rw [← hreg]
  exact congrArg Host.Outcome.next (if_pos h)

/-- R362: a free mailbox takes the bytes that are written to its block. -/
theorem leadsTo_mailboxBlock (h : s.fnUp fn = true) {k : Nat} {val : DWord} (hk : k < 8) (hfree : (s.fn fn).mbbusy = false) :
    LeadsTo s (.registerWrite fn (0x1100 + 8 * k) 8 val) (s.setFn fn fun f => { f with mbcmd := blockWrite f.mbcmd (8 * k) 8 val }) := by
  have hreg : s.writeQueueReg fn (0x1100 + 8 * k) 8 val =
      s.setFn fn fun f => { f with mbcmd := blockWrite f.mbcmd (8 * k) 8 val } := by
    have hne (n : Nat) (hn : n < 0x1100) : 0x1100 + 8 * k ≠ n := by omega
    have hblock : 0x1100 + 8 * k < 0x1140 := by omega
    unfold State.writeQueueReg
    simp [hne, hblock, hfree]
  exact hreg ▸ leadsTo_queueReg h (by omega) (by omega)

/-- R362: the doorbell of a free mailbox hands over the command of its block. -/
theorem leadsTo_mbdoor (h : s.fnUp fn = true) {val : DWord} {i : Instr} (hbit : val.toNat.testBit 0 = true)
    (hfree : (s.fn fn).mbbusy = false)
    (hop : parlourOp (opOf (blockBytes (s.fn fn).mbcmd)) (cmdOf fn (blockBytes (s.fn fn).mbcmd)) = some i) :
    LeadsTo s (.registerWrite fn 0x1140 4 val)
      { s.setFn fn (fun f => { f with mbbusy := true }) with h.parlourQ := s.h.parlourQ ++ [i] } := by
  have hreg : s.writeQueueReg fn 0x1140 4 val = s.mbDoor fn := by
    unfold State.writeQueueReg
    simp [-Nat.testBit_zero, hbit]
  have hdoor : s.mbDoor fn = { s.setFn fn (fun f => { f with mbbusy := true }) with h.parlourQ := s.h.parlourQ ++ [i] } := by
    unfold State.mbDoor
    simp only [hfree, hop, Bool.false_eq_true, if_false]
  exact hdoor ▸ hreg ▸ leadsTo_queueReg h (by omega) (by omega)

/-- R386: the doorbell of a free configuration mailbox hands over the command of its block. -/
theorem leadsTo_cfgdoor (h : s.fnUp fn = true) {val : DWord} {i : Instr} (hbit : val.toNat.testBit 0 = true)
    (hfree : (s.fn fn).cfgbusy = false)
    (hop : configOp (opOf (blockBytes (s.fn fn).cfgcmd)) (cmdOf fn (blockBytes (s.fn fn).cfgcmd)) = some i) :
    LeadsTo s (.registerWrite fn 0x1240 4 val)
      { s.setFn fn (fun f => { f with cfgbusy := true }) with h.cfgQ := s.h.cfgQ ++ [i] } := by
  have hreg : s.writeQueueReg fn 0x1240 4 val = s.cfgDoor fn := by
    unfold State.writeQueueReg State.writeCfg
    simp [-Nat.testBit_zero, hbit]
  have hdoor : s.cfgDoor fn = { s.setFn fn (fun f => { f with cfgbusy := true }) with h.cfgQ := s.h.cfgQ ++ [i] } := by
    unfold State.cfgDoor
    simp only [hfree, hop, Bool.false_eq_true, if_false]
  exact hdoor ▸ hreg ▸ leadsTo_queueReg h (by omega) (by omega)

end

/-! ## The size of BAR4 -/

theorem State.barSize_bounds (s : State) (vf n : Nat) : 30 ≤ s.barSize vf n ∧ s.barSize vf n ≤ 40 := by
  unfold State.barSize; omega

/-- R352: a BAR4 of a partition that has a grant is no greater than the grant. -/
theorem State.barSize_le_grant {s : State} {vf : Nat} (n : Nat) (h : 2 ^ 30 ≤ s.grantBytes (vfPart vf)) :
    2 ^ s.barSize vf n ≤ s.grantBytes (vfPart vf) := by
  have hne : s.grantBytes (vfPart vf) ≠ 0 := by omega
  have hlog : 30 ≤ Nat.log2 (s.grantBytes (vfPart vf)) := (Nat.le_log2 hne).2 h
  have hsize : s.barSize vf n ≤ Nat.log2 (s.grantBytes (vfPart vf)) := by unfold State.barSize; omega
  exact (Nat.le_log2 hne).1 hsize

/-! ## VF_ENABLE_SET -/

/-- R352: a VF as VF_ENABLE_SET leaves it. -/
def State.enabledFn (s : State) (v : Nat) : Fn :=
  if (s.fn v).enabled then s.fn v
  else { s.fn v with enabled := true, part := some (vfPart v), barLog := s.barSize v (s.fn v).vfctl }

/-- R352: VF `n + 1` is enabled where it is not. -/
def State.enableVf (s : State) (n : Nat) : State :=
  if (s.fn (n + 1)).enabled then s
  else s.setFn (n + 1) fun f => { f with enabled := true, part := some (vfPart (n + 1)), barLog := s.barSize (n + 1) f.vfctl }

theorem State.enableVf_frame (s : State) (n : Nat) : s.enableVf n = { s with h.fns := (s.enableVf n).h.fns } := by
  unfold State.enableVf
  split <;> rfl

theorem State.fn_enableVf (s : State) (n m : Nat) : (s.enableVf n).fn m = if m = n + 1 then s.enabledFn m else s.fn m := by
  unfold State.enableVf State.enabledFn
  by_cases hm : m = n + 1
  · subst hm
    split
    · rw [if_pos rfl]
    · rw [State.fn_setFn, if_pos rfl]
  · rw [if_neg hm]
    split
    · rfl
    · rw [State.fn_setFn, if_neg hm]

theorem State.enabledFn_of_frame {s t : State} {v : Nat} (h : t = { s with h.fns := t.h.fns }) (hv : t.fn v = s.fn v) :
    t.enabledFn v = s.enabledFn v := by
  have hsize (n : Nat) : t.barSize v n = s.barSize v n := by rw [h]; rfl
  unfold State.enabledFn
  rw [hv, hsize]

/-- The first `n` VFs are enabled, and nothing else changes. -/
theorem State.enableVfs_spec (s : State) (n : Nat) :
    let t := (List.range n).foldl State.enableVf s
    t = { s with h.fns := t.h.fns } ∧ ∀ m, t.fn m = if 1 ≤ m ∧ m ≤ n then s.enabledFn m else s.fn m := by
  induction n with
  | zero => exact ⟨rfl, fun m => (if_neg (by omega)).symm⟩
  | succ n ih =>
    rw [List.range_succ, List.foldl_append, List.foldl_cons, List.foldl_nil]
    generalize (List.range n).foldl State.enableVf s = t at ih
    obtain ⟨hframe, hfn⟩ := ih
    refine ⟨(t.enableVf_frame n).trans (by rw [hframe]), fun m => ?_⟩
    rw [State.fn_enableVf]
    by_cases hm : m = n + 1
    · have hother : t.fn m = s.fn m := (hfn m).trans (if_neg (by omega))
      rw [if_pos hm, if_pos (by omega), State.enabledFn_of_frame hframe hother]
    · rw [if_neg hm, hfn m]
      refine if_congr ?_ rfl rfl
      omega

theorem leadsTo_vfEnableSet {s : State} (h : s.hostOpen = true) :
    LeadsTo s .vfEnableSet ((List.range 16).foldl State.enableVf s) := by
  show Host.Outcome.next (if !s.hostOpen then s else _) = _
  rw [h]
  rfl

/-- Settles O40: the events of single registers by the branch of their offset, and VF_ENABLE_SET by `enableVfs_spec`. -/
theorem hostRegisters : Obligations.HostRegisters := by
  unfold Obligations.HostRegisters
  intro s fn
  refine ⟨fun hup => ⟨fun val => ?_, fun val => ?_, fun val p hp => ?_, ?_, fun val hval => ?_, fun val => ?_⟩, fun val hbit => ?_,
    fun hopen => ⟨fun vf val hlow hhigh => ⟨?_, (s.barSize_bounds ..).1, (s.barSize_bounds ..).2, State.barSize_le_grant _⟩, ?_⟩⟩
  · refine (congrArg Host.Outcome.next (if_pos hup)).trans ?_
    unfold State.setHifdrv hifSelect hifDev
    cases commonVersion 0x01000100 val.toNat <;> rfl
  · exact congrArg Host.Outcome.next (if_pos hup)
  · have hlease : s.setLease fn val = s.setPart p fun x => { x with lease := leaseLen val } := by unfold State.setLease; rw [hp]
    exact hlease ▸ congrArg Host.Outcome.next (if_pos hup)
  · exact congrArg Host.Outcome.next (if_pos (by simp [hup]))
  · exact congrArg Host.Outcome.next (if_neg (by rw [decide_eq_false hval, Bool.and_false]; exact Bool.false_ne_true))
  · refine ⟨?_, ?_, ?_, ?_, ?_, ?_, ?_, fun k hk hfree => leadsTo_mailboxBlock hup hk hfree, ?_, ?_⟩
    · exact leadsTo_queueReg hup (by omega) (by omega)
    · exact leadsTo_queueReg hup (by omega) (by omega)
    · exact leadsTo_queueReg hup (by omega) (by omega)
    · exact leadsTo_queueReg hup (by omega) (by omega)
    · refine congrArg Host.Outcome.next ((if_pos hup).trans ?_)
      simp [State.writeReg0]
    · exact leadsTo_queueReg hup (by omega) (by omega)
    · exact leadsTo_queueReg hup (by omega) (by omega)
    · rintro c i hbit hfree rfl hop
      exact leadsTo_mbdoor hup hbit hfree hop
    · rintro c i hbit hfree rfl hop
      exact leadsTo_cfgdoor hup hbit hfree hop
  · exact congrArg Host.Outcome.next (if_pos hbit)
  · have hvf : (s.hostOpen && decide (vf ≠ 0) && decide (vf ≤ 16)) = true := by
      rw [hopen, decide_eq_true (show vf ≠ 0 by omega), decide_eq_true hhigh]; rfl
    exact congrArg Host.Outcome.next (if_pos hvf)
  · obtain ⟨hframe, hfn⟩ := s.enableVfs_spec 16
    refine ⟨_, leadsTo_vfEnableSet hopen, hframe, fun n => (hfn n).trans ?_⟩
    by_cases hn : 1 ≤ n ∧ n ≤ 16 ∧ (s.fn n).enabled = false
    · obtain ⟨hlow, hhigh, henabled⟩ := hn
      rw [if_pos ⟨hlow, hhigh⟩, if_pos ⟨hlow, hhigh, henabled⟩, State.enabledFn, henabled]
      rfl
    · rw [if_neg hn, State.enabledFn]
      split
      · next hrange => exact if_pos (by simpa [hrange] using hn)
      · rfl

end Sys2Proof.Machine

namespace Sys2Proof.Machine

open Sys2Proof

/-! # Words that answer results (O18, O24) -/

/-- A value into which threads, paths and busy units do not enter. -/
def Blind {α : Type} (f : State → α) : Prop := ∀ t thr ps busy, f (t.dress thr ps busy) = f t

theorem Beside.blind {α : Type} {b u : State} {f : State → α} (h : Beside b u) (hf : Blind f) : f u = f b := by
  rw [h.eq]; exact hf ..

/-- The entry of a word that closes, waits for and parks nothing is beside the state in which the word stands. -/
theorem State.beside_counted (s : State) (g : IssueGroup) (i : Instr) : Beside s (s.counted g i) :=
  (s.beside_entered g i).trans (.countedAt ..)

section

variable {s : State} {g : IssueGroup} {i : Instr} {eff : State → State}

/-- A word whose effect stands aside from threads and paths issues. -/
theorem does_of_aside (h : s.ready g i = true) (ht : Takes s g i (s.entered g i) eff) {f : State → State} (hf : Aside f)
    (heff : Counts (f (s.counted g i)) (eff (s.counted g i)))
    (hkeeps : (f s).r.lbl = s.r.lbl ∧ (f s).sch.igs = s.sch.igs ∧ (f s).clk.cycle = s.clk.cycle) : Does s g i (f s) := by
  obtain ⟨hlbl, higs, hcycle⟩ := hkeeps
  refine does_of_takes h ht rfl ((hf.beside (s.beside_counted g i)).trans (.of_counts heff)) ?_ (hf.paths s) higs hlbl hcycle
  show (eff (s.counted g i)).sch.paths = _
  rw [heff.1]
  exact (hf.paths _).trans (State.countedAt_paths ..)

/-- A word whose effect is `f` and the results `rs`, `lat` cycles from now. -/
theorem does_of_putRes (h : s.ready g i = true) (ht : Takes s g i (s.entered g i) eff) {f : State → State} (hf : Aside f)
    {lat : State → Nat} {rs : State → List LaneRes} (hlat : Blind lat) (hrs : Blind rs)
    (heff : eff (s.counted g i) = (f (s.counted g i)).putRes (s.iss g i) (lat (s.counted g i)) (rs (s.counted g i)))
    (hkeeps : (f s).r.lbl = s.r.lbl ∧ (f s).sch.igs = s.sch.igs ∧ (f s).clk.cycle = s.clk.cycle) :
    ∃ (p : Pend) (u : State), Does s g i ((f s).addPend p) ∧ p = u.resPend (s.iss g i) (lat s) (rs s) ∧ u.clk.cycle = s.clk.cycle := by
  have hbeside := s.beside_counted g i
  rw [hbeside.blind hlat, hbeside.blind hrs] at heff
  refine ⟨_, f (s.counted g i), does_of_aside h ht (hf.comp (Aside.addPend _)) ?_ hkeeps, rfl, ?_⟩
  · rw [heff, State.putRes_eq]
    exact .refl _
  · exact (hf.beside hbeside).alike.cycle.trans hkeeps.2.2

end

/-! ## Commands of single lanes that all end -/

theorem State.laneLoop_done {step : State → Lane → State × LaneOut} {s : State} {g : IssueGroup} {ls : List Lane} {ws : Lane → List Word}
    {lbl : Lane → Label} (halive : s.alive ls = ls) (hstep : ∀ l ∈ ls, step s l = (s, .done (ws l) (lbl l))) :
    s.laneLoop step g ls = (s, ls.map fun l => (l, .done (ws l) (lbl l))) := by
  have hteam : ∀ l ∈ ls, (s.team? l.t.tid).isNone = false := fun l hl => by
    simpa using List.filter_eq_self.1 halive l hl
  have hfold : ∀ (ls : List Lane) (out : List (Lane × LaneOut)),
      (∀ l ∈ ls, (s.team? l.t.tid).isNone = false ∧ step s l = (s, .done (ws l) (lbl l))) →
      ls.foldl (fun (x : State × List (Lane × LaneOut)) l =>
        if (x.1.team? l.t.tid).isNone then (x.1, x.2)
        else match step x.1 l with
          | (s', .fault f) => (s'.judge g [l] fun _ => some f, x.2)
          | (s', r) => (s', x.2 ++ [(l, r)])) (s, out) = (s, out ++ ls.map fun l => (l, .done (ws l) (lbl l))) := by
    intro ls
    induction ls with
    | nil => intro out _; simp
    | cons l ls ih =>
      intro out h
      obtain ⟨hnone, hl⟩ := h l List.mem_cons_self
      rw [List.foldl_cons]
      simp only [hnone, Bool.false_eq_true, if_false, hl]
      rw [ih _ fun y hy => h y (List.mem_cons_of_mem _ hy)]
      simp
  exact hfold ls [] fun l hl => ⟨hteam l hl, hstep l hl⟩

theorem State.laneLoop_one {step : State → Lane → State × LaneOut} {s s' : State} {g : IssueGroup} {l : Lane} {ws : List Word} {lbl : Label}
    (halive : s.alive [l] = [l]) (hstep : step s l = (s', .done ws lbl)) : s.laneLoop step g [l] = (s', [(l, .done ws lbl)]) := by
  have hteam : (s.team? l.t.tid).isNone = false := by simpa using List.filter_eq_self.1 halive l List.mem_cons_self
  unfold State.laneLoop
  simp only [List.foldl_cons, List.foldl_nil, hteam, Bool.false_eq_true, if_false, hstep, List.nil_append]

theorem finished_done (ls : List Lane) (ws : Lane → List Word) (lbl : Lane → Label) :
    finished (ls.map fun l => (l, .done (ws l) (lbl l))) = ls.map fun l => ⟨l, ws l, lbl l⟩ := by
  unfold finished
  rw [List.filterMap_map]
  exact congrFun List.filterMap_eq_map ls

/-- What a result writes does not depend on its labels. -/
theorem resPend_writes (u : State) (is : Iss) (lat : Nat) (ls : List Lane) (ws : Lane → List Word) (lbl lbl' : Lane → Label) :
    (u.resPend is lat (ls.map fun l => ⟨l, ws l, lbl l⟩)).writes =
      resWrites (Fm.writes is.cls is.op is.f) (ls.map fun l => ⟨l, ws l, lbl' l⟩) := by
  refine resWrites_congr _ ?_
  rw [List.map_map, List.map_map]
  rfl

theorem resPend_toks (u : State) (is : Iss) (lat : Nat) (ls : List Lane) (ws : Lane → List Word) (lbl : Lane → Label) :
    (u.resPend is lat (ls.map fun l => ⟨l, ws l, lbl l⟩)).toks = tokPairs is.f.tok ls := by
  show tokPairs _ _ = _
  rw [List.map_map]
  exact congrArg _ (List.map_id _)

end Sys2Proof.Machine

namespace Sys2Proof.Machine

open Sys2Proof

/-! # VTRD, VTWR and VREL (O24) -/

/-! ## VTRD -/

/-- The words of a Vat slot that a lane's access names (R286). -/
def State.vatWords (s : State) (i : Iss) (l : Lane) : List Word :=
  (List.range (vatCount i.f)).map fun k =>
    s.vatGet l.t.tid (vatAddr (s.rd32 l.t i.f.lit i.f.a)).1 ((vatAddr (s.rd32 l.t i.f.lit i.f.a)).2 + k)

/-- The label of a VTRD outside every window: operands, context and slot (R110, R286). -/
def State.vatReadLbl (s : State) (i : Iss) (l : Lane) : Label :=
  s.aluLbl i l ||| s.vatLabel l.t.tid (vatAddr (s.rd32 l.t i.f.lit i.f.a)).1

/-- The free words that a VTRD gives inside a window (R102). -/
def State.freeVatWords (s : State) (i : Iss) : List Word := (List.range (vatCount i.f)).map fun k => Config.freeWord (s.clk.free + k)

/-- The label of a VTRD inside windows (R102). -/
def State.windowLbl (s : State) (i : Iss) (l : Lane) : Label :=
  (s.windows l.t.tid (vatAddr (s.rd32 l.t i.f.lit i.f.a)).1).foldl
    (fun a x => a ||| (if x.done then x.slotLbl ||| x.oldLbl else s.mxLabel x)) (s.vatReadLbl i l)

/-- Fresh undefined words have been drawn (R8). -/
def State.drawFree (s : State) (n : Nat) : State := { s with clk.free := s.clk.free + n }

theorem Aside.drawFree (n : Nat) : Aside fun s => s.drawFree n := fun _ _ _ _ => rfl

section

variable {s w : State} {g : IssueGroup} {i : Instr} {is : Iss} {l : Lane}

theorem State.vatFlt_none (ha : s.rd32 l.t is.f.lit is.f.a < 2 ^ 18)
    (he : (vatAddr (s.rd32 l.t is.f.lit is.f.a)).2 % vatCount is.f = 0)
    (hheld : s.vatHeld l.t.tid (vatAddr (s.rd32 l.t is.f.lit is.f.a)).1 = true) : s.vatFlt is l = none := by
  show (if (decide (2 ^ 18 ≤ s.rd32 l.t is.f.lit is.f.a) || decide ((vatAddr (s.rd32 l.t is.f.lit is.f.a)).2 % vatCount is.f ≠ 0) ||
    !s.vatHeld l.t.tid (vatAddr (s.rd32 l.t is.f.lit is.f.a)).1) = true then _ else _) = _
  rw [he, hheld]
  exact if_neg (by simpa using ha)

theorem State.vtrdLane_outside (h : s.windows l.t.tid (vatAddr (s.rd32 l.t is.f.lit is.f.a)).1 = []) :
    s.vtrdLane is l = (s, .done (s.vatWords is l) (s.vatReadLbl is l)) := by
  unfold State.vtrdLane
  simp only [h, List.isEmpty_nil, if_true]
  rfl

theorem State.vtrdLane_inside (h : s.windows l.t.tid (vatAddr (s.rd32 l.t is.f.lit is.f.a)).1 ≠ []) :
    s.vtrdLane is l = (s.drawFree (vatCount is.f), .done (s.freeVatWords is) (s.windowLbl is l)) := by
  have hne : (s.windows l.t.tid (vatAddr (s.rd32 l.t is.f.lit is.f.a)).1).isEmpty = false := by simpa using h
  unfold State.vtrdLane
  simp only [hne, Bool.false_eq_true, if_false]
  rfl

/-- VTRD whose every lane is outside the windows of its slot. -/
theorem vtrd_eff_outside (halive : w.alive is.on = is.on)
    (h : ∀ l ∈ is.on, w.windows l.t.tid (vatAddr (w.rd32 l.t is.f.lit is.f.a)).1 = []) :
    vtrdMeaning.eff w is = w.putRes is (12 + w.pairLat is) (is.on.map fun l => ⟨l, w.vatWords is l, w.vatReadLbl is l⟩) := by
  have hloop := State.laneLoop_done (step := fun s l => s.vtrdLane is l) (g := is.g) halive fun l hl => State.vtrdLane_outside (h l hl)
  unfold vtrdMeaning
  simp only [hloop, finished_done]

/-- VTRD of one lane inside a window. -/
theorem vtrd_eff_inside (halive : w.alive is.on = is.on) (hon : is.on = [l])
    (h : w.windows l.t.tid (vatAddr (w.rd32 l.t is.f.lit is.f.a)).1 ≠ []) :
    vtrdMeaning.eff w is = (w.drawFree (vatCount is.f)).putRes is (12 + w.pairLat is) [⟨l, w.freeVatWords is, w.windowLbl is l⟩] := by
  rw [hon] at halive
  have hloop := State.laneLoop_one (step := fun s l => s.vtrdLane is l) (g := is.g) halive (State.vtrdLane_inside h)
  unfold vtrdMeaning
  simp only [hon, hloop]
  rfl

theorem State.alive_counted (s : State) (g : IssueGroup) (i : Instr) : (s.counted g i).alive (s.acting g i) = s.acting g i :=
  ((s.beside_counted g i).alike.alive _).trans (s.acting_alive g i)

theorem vat_takes {m : Meaning} (h : s.ready g i = true) (he : exec i s = runWord i m s) (hc : ∀ t is l, m.closes t is l = false)
    (hh : ∀ t is, m.hold t is = (t, none)) (hs : ∀ t is, m.stop t is = (t, [])) (hf : m.flt = fun t is l => t.vatFlt is l)
    (hok : ∀ l ∈ s.acting g i, s.vatFlt (s.iss g i) l = none) : Takes s g i (s.entered g i) fun w => m.eff w (s.iss g i) :=
  takes_acts h he hc (fun l hl => by rw [hf]; exact hok l hl) (hh _ _) (s.acting_alive g i) (hs _ _)

end

/-! ## VTWR -/

theorem wordsOf_getD (x n k : Nat) (h : k < n) : (wordsOf x n).getD k 0 = BitVec.ofNat 32 (bitsOf x (32 * k) 32) := by
  induction n generalizing x k with
  | zero => omega
  | succ n ih =>
    have hmod (y : Nat) : BitVec.ofNat 32 y = BitVec.ofNat 32 (bitsOf y 0 32) := by
      apply BitVec.eq_of_toNat_eq; simp [bitsOf]
    cases k with
    | zero => exact hmod x
    | succ k =>
      have hstep : bitsOf (x / 2 ^ 32) (32 * k) 32 = bitsOf x (32 * (k + 1)) 32 := by
        unfold bitsOf
        rw [Nat.shiftRight_eq_div_pow, Nat.shiftRight_eq_div_pow, Nat.div_div_eq_div_mul, ← Nat.pow_add, Nat.mul_succ, Nat.add_comm 32]
      rw [wordsOf, List.getD_cons_succ, ih _ _ (by omega), hstep]

/-- Words enter a slot from element `e` on; what stood there is kept under the number `id` (R285). -/
def State.putVat (s : State) (tid h e id : Nat) (ws : List (Word × Nat)) : State :=
  ws.foldl (fun s x => (s.keepVat tid h (e + x.2) id).vatSet tid h (e + x.2) x.1) s

theorem Aside.putVat (tid h e id : Nat) (ws : List (Word × Nat)) : Aside fun s => s.putVat tid h e id ws :=
  Aside.foldl (f := fun s (x : Word × Nat) => (s.keepVat tid h (e + x.2) id).vatSet tid h (e + x.2) x.1) (fun _ _ _ _ _ => rfl) ws

theorem State.putVat_frame (s : State) (tid h e id : Nat) (ws : List (Word × Nat)) : s.putVat tid h e id ws =
    { s with r.vat := (s.putVat tid h e id ws).r.vat, r.vatOld := (s.putVat tid h e id ws).r.vatOld } :=
  foldl_keeps (fun t : State => t = { s with r.vat := t.r.vat, r.vatOld := t.r.vatOld }) _ (fun t x ht => by rw [ht]; rfl) ws s rfl

section

variable (s : State) (tid h e id : Nat) (ws : List Word) (i : Nat)

theorem State.vatGet_putVat (tid' k x : Nat) : (s.putVat tid h e id (ws.zipIdx i)).vatGet tid' k x =
    if tid' = tid ∧ k = h ∧ e + i ≤ x ∧ x < e + i + ws.length then ws.getD (x - (e + i)) 0 else s.vatGet tid' k x := by
  have hvat : (s.putVat tid h e id (ws.zipIdx i)).r.vat =
      (ws.zipIdx i).foldl (fun m b => mset m (tid, h, e + b.2) b.1) s.r.vat := by
    unfold State.putVat
    generalize ws.zipIdx i = xs
    induction xs generalizing s with
    | nil => rfl
    | cons x xs ih => exact ih _
  by_cases hk : tid' = tid ∧ k = h
  · obtain ⟨rfl, rfl⟩ := hk
    have hget := mget_foldl_zipIdx (0 : Word) (key := fun n => (tid', k, n)) (fun a b hab => by simpa using hab) e ws i s.r.vat x
    unfold State.vatGet
    rw [hvat, hget]
    simp only [true_and]
  · rw [if_neg fun hc => hk ⟨hc.1, hc.2.1⟩]
    unfold State.vatGet
    rw [hvat]
    refine foldl_keeps (fun m => mget 0 m (tid', k, x) = mget 0 s.r.vat (tid', k, x)) _ (fun m b hm => ?_) _ _ rfl
    rw [mget_mset, if_neg fun hc => hk (by simp only [Prod.mk.injEq] at hc; exact ⟨hc.1, hc.2.1⟩)]
    exact hm

/-- The older word of each element written stays under the number of the latest write (R285). -/
theorem State.vatOld_putVat (tid' k x : Nat) : mget? (s.putVat tid h e id (ws.zipIdx i)).r.vatOld (tid', k, x) =
    if tid' = tid ∧ k = h ∧ e + i ≤ x ∧ x < e + i + ws.length then
      some (((mget? s.r.vatOld (tid', k, x)).map (·.1)).getD (s.vatGet tid' k x), id) else mget? s.r.vatOld (tid', k, x) := by
  induction ws generalizing s i with
  | nil => rw [if_neg (by simp only [List.length_nil]; omega)]; rfl
  | cons y ys ih =>
    obtain ⟨u, hu⟩ : ∃ u, (s.keepVat tid h (e + i) id).vatSet tid h (e + i) y = u := ⟨_, rfl⟩
    have hold : mget? u.r.vatOld (tid', k, x) = if (tid', k, x) = (tid, h, e + i) then
        some (((mget? s.r.vatOld (tid, h, e + i)).map (·.1)).getD (s.vatGet tid h (e + i)), id) else mget? s.r.vatOld (tid', k, x) := by
      rw [← hu]; exact mget?_mset ..
    have hget : u.vatGet tid' k x = if (tid', k, x) = (tid, h, e + i) then y else s.vatGet tid' k x := by
      rw [← hu]; exact mget_mset ..
    rw [List.zipIdx_cons]
    show mget? ((State.vatSet _ _ _ _ _).putVat tid h e id (ys.zipIdx (i + 1))).r.vatOld _ = _
    rw [hu, ih, hold, hget]
    simp only [Prod.mk.injEq, List.length_cons]
    by_cases hk : tid' = tid ∧ k = h
    · obtain ⟨rfl, rfl⟩ := hk
      by_cases hx : x = e + i
      · subst hx
        rw [if_neg (by omega), if_pos ⟨rfl, rfl, rfl⟩, if_pos (by omega)]
      · simp only [hx, true_and, and_false, if_false]
        exact if_congr (by omega) rfl rfl
    · rw [if_neg fun c => hk ⟨c.1, c.2.1⟩, if_neg fun c => hk ⟨c.1, c.2.1⟩, if_neg fun c => hk ⟨c.1, c.2.1⟩]

end

/-- The slot takes a label, and issues whose window is open note the elements written (R102, R286). -/
def State.stainVat (s : State) (tid h e n : Nat) (lbl : Label) : State :=
  (s.setVatLabel tid h (s.vatLabel tid h ||| lbl)).dirtyMx fun x =>
    if x.tid = tid && x.slot = h then (List.range n).map fun k => 2 * (e + k) + 1 else []

theorem Aside.stainVat (tid h e n : Nat) (lbl : Label) : Aside fun s => s.stainVat tid h e n lbl := fun _ _ _ _ => rfl

theorem State.vtwrLane_eq (s : State) (i : Iss) (l : Lane) (ws : List Word) (lbl : Label) (h e : Nat) : s.vtwrLane i l ws lbl h e =
    (State.putVat { s with clk.fresh := s.clk.fresh + 1 } l.t.tid h e s.clk.fresh ws.zipIdx).stainVat l.t.tid h e ws.length lbl := rfl

theorem Aside.vtwrLane (i : Iss) (l : Lane) (ws : List Word) (lbl : Label) (h e : Nat) : Aside fun s => s.vtwrLane i l ws lbl h e :=
  fun t thr ps busy =>
    (congrArg (fun v => v.stainVat l.t.tid h e ws.length lbl)
      (Aside.putVat l.t.tid h e t.clk.fresh ws.zipIdx { t with clk.fresh := t.clk.fresh + 1 } thr ps busy)).trans
      (Aside.stainVat l.t.tid h e ws.length lbl _ thr ps busy)

theorem State.dirtyMx_clean (s : State) (codes : Mx → List Nat) :
    (s.dirtyMx codes).e.mxs.map (fun x => { x with dirty := [] }) = s.e.mxs.map fun x => { x with dirty := [] } := by
  show (s.e.mxs.map _).map _ = _
  rw [List.map_map]
  refine List.map_congr_left fun x _ => ?_
  simp only [Function.comp]
  split <;> rfl

/-- What VTWR of one lane leaves (R102, R285, R286). -/
theorem State.vtwrLane_spec (s : State) (i : Iss) (l : Lane) (ws : List Word) (lbl : Label) (h e : Nat) :
    let b := s.vtwrLane i l ws lbl h e
    b = { s with clk.fresh := s.clk.fresh + 1, r.vat := b.r.vat, r.vatOld := b.r.vatOld, r.vatLbl := b.r.vatLbl, e.mxs := b.e.mxs } ∧
    (∀ tid k x, mget? b.r.vatOld (tid, k, x) = if tid = l.t.tid ∧ k = h ∧ e ≤ x ∧ x < e + ws.length then
      some (((mget? s.r.vatOld (tid, k, x)).map (·.1)).getD (s.vatGet tid k x), s.clk.fresh) else mget? s.r.vatOld (tid, k, x)) ∧
    (∀ tid k x, b.vatGet tid k x = if tid = l.t.tid ∧ k = h ∧ e ≤ x ∧ x < e + ws.length then ws.getD (x - e) 0 else s.vatGet tid k x) ∧
    (∀ tid k, b.vatLabel tid k = if tid = l.t.tid ∧ k = h then s.vatLabel tid k ||| lbl else s.vatLabel tid k) ∧
    b.e.mxs.map (fun x => { x with dirty := [] }) = s.e.mxs.map (fun x => { x with dirty := [] }) := by
  intro b
  obtain ⟨v, hv⟩ : ∃ v, ({ s with clk.fresh := s.clk.fresh + 1 } : State).putVat l.t.tid h e s.clk.fresh ws.zipIdx = v := ⟨_, rfl⟩
  have hframe := State.putVat_frame { s with clk.fresh := s.clk.fresh + 1 } l.t.tid h e s.clk.fresh ws.zipIdx
  have hold := State.vatOld_putVat { s with clk.fresh := s.clk.fresh + 1 } l.t.tid h e s.clk.fresh ws 0
  have hget := State.vatGet_putVat { s with clk.fresh := s.clk.fresh + 1 } l.t.tid h e s.clk.fresh ws 0
  rw [hv] at hframe hold hget
  have hb : b = v.stainVat l.t.tid h e ws.length lbl := by rw [← hv]; rfl
  have hlbl (tid k : Nat) : v.vatLabel tid k = s.vatLabel tid k := by rw [hframe]; rfl
  refine ⟨?_, fun tid k x => ?_, fun tid k x => ?_, fun tid k => ?_, ?_⟩
  · rw [hb, hframe]; rfl
  · rw [hb]; exact hold tid k x
  · rw [hb]; exact hget tid k x
  · have hset : b.vatLabel tid k = if (tid, k) = (l.t.tid, h) then v.vatLabel l.t.tid h ||| lbl else v.vatLabel tid k := by
      rw [hb]; exact mget_mset ..
    rw [hset]
    by_cases hk : tid = l.t.tid ∧ k = h
    · obtain ⟨rfl, rfl⟩ := hk
      rw [if_pos rfl, if_pos ⟨rfl, rfl⟩, hlbl]
    · rw [if_neg (by simpa using hk), if_neg hk, hlbl]
  · rw [hb, State.stainVat, State.dirtyMx_clean, hframe]
    rfl

/-! ## The words -/

/-- What VTWR of one lane does where its operands are those of `s` (R286). -/
theorem vtwr_eff {s w : State} {is : Iss} {l : Lane} (ha : Alike s w) (hon : is.on = [l]) :
    vtwrMeaning.eff w is = (w.vtwrLane is l (wordsOf (s.intVal l.t is.f.lit is.f.b (vatCount is.f) 0 true) (vatCount is.f)) (s.aluLbl is l)
      (vatAddr (s.rd32 l.t is.f.lit is.f.a)).1 (vatAddr (s.rd32 l.t is.f.lit is.f.a)).2).tokDown is.f.tok [l.t] := by
  unfold vtwrMeaning
  simp only [hon, List.foldl_cons, List.foldl_nil, List.map_cons, List.map_nil, ha.rd32, ha.intVal, ha.aluLbl]

/-- VTWR leaves memory and the results under way as they are. -/
theorem vtwr_eff_frame (w : State) (is : Iss) : (vtwrMeaning.eff w is).m = w.m ∧ (vtwrMeaning.eff w is).sch.pend = w.sch.pend := by
  have hfold (ls : List Lane) (ws : Lane → List Word) (lbl : Lane → Label) (h e : Lane → Nat) :
      (ls.foldl (fun u l => u.vtwrLane is l (ws l) (lbl l) (h l) (e l)) w).m = w.m ∧
      (ls.foldl (fun u l => u.vtwrLane is l (ws l) (lbl l) (h l) (e l)) w).sch.pend = w.sch.pend := by
    refine foldl_keeps (fun u : State => u.m = w.m ∧ u.sch.pend = w.sch.pend) _ (fun u l hu => ?_) ls w ⟨rfl, rfl⟩
    rw [(u.vtwrLane_spec is l (ws l) (lbl l) (h l) (e l)).1]
    exact hu
  unfold vtwrMeaning
  dsimp only
  rw [(State.counts_tokDown _ _ _).1]
  exact hfold is.on (fun l => wordsOf (w.intVal l.t is.f.lit is.f.b (vatCount is.f) 0 true) (vatCount is.f)) (fun l => w.aluLbl is l) _ _

/-! ## VREL -/

/-- R286: a team that gives slot `h` back: it returns to the list when no issue that names it is incomplete. -/
def Team.backVat (t : Team) (busy : Nat → Bool) (h : Nat) : Team :=
  let back := t.vatBack ++ [h]
  let ready := back.filter fun k => !busy k
  { t with vatBack := back.filter fun k => !ready.contains k, vatFree := ready.foldl (fun l k => insertBy id k l) t.vatFree }

/-- R286: an issue that names the slot is incomplete. -/
def State.vatBusy (s : State) (tid h : Nat) : Bool := s.e.mxs.any fun x => x.tid = tid && x.slot = h && !x.done

/-- R286: a lane gives a slot back. -/
def State.giveVat (s : State) (tid h : Nat) : State := (s.setTeam tid fun t => { t with vatBack := t.vatBack ++ [h] }).backSlots tid

theorem Aside.backSlots (tid : Nat) : Aside fun s => s.backSlots tid := fun t thr ps busy => Aside.setTeam tid _ t thr ps busy

theorem Aside.giveVat (tid h : Nat) : Aside fun s => s.giveVat tid h := (Aside.setTeam tid _).comp (Aside.backSlots tid)

theorem State.giveVat_frame (s : State) (tid h : Nat) : s.giveVat tid h = { s with sch.teams := (s.giveVat tid h).sch.teams } := by
  unfold State.giveVat State.backSlots
  rw [State.setTeam_frame, State.setTeam_frame]

theorem State.team?_giveVat (s : State) (tid h k : Nat) : (s.giveVat tid h).team? k =
    if k = tid then (s.team? k).map fun t => t.backVat (s.vatBusy tid) h else s.team? k := by
  unfold State.giveVat State.backSlots
  rw [State.team?_setTeam, State.team?_setTeam, State.setTeam_e]
  split
  · rw [Option.map_map]; rfl
  · rfl

theorem Team.mem_vatFree_backVat {t : Team} {busy : Nat → Bool} {h k : Nat} :
    k ∈ (t.backVat busy h).vatFree ↔ ((k ∈ t.vatBack ∨ k = h) ∧ busy k = false) ∨ k ∈ t.vatFree := by
  have hperm := foldl_insertBy_perm id ((t.vatBack ++ [h]).filter fun k => !busy k) t.vatFree
  refine hperm.mem_iff.trans ?_
  simp only [List.mem_append, List.mem_filter, List.mem_singleton, Bool.not_eq_true']

theorem Team.mem_vatBack_backVat {t : Team} {busy : Nat → Bool} {h k : Nat} :
    k ∈ (t.backVat busy h).vatBack ↔ (k ∈ t.vatBack ∨ k = h) ∧ busy k = true := by
  simp only [Team.backVat, List.mem_filter, List.mem_append, List.mem_singleton, List.contains_eq_mem, Bool.not_eq_true',
    decide_eq_false_iff_not, not_and, Bool.not_eq_false]
  exact ⟨fun h => ⟨h.1, h.2 h.1⟩, fun h => ⟨h.1, fun _ => h.2⟩⟩

/-- A slot that a team has given back is not held. -/
theorem Team.backVat_gone (t : Team) (busy : Nat → Bool) (h : Nat) :
    ((t.backVat busy h).vatFree.contains h || (t.backVat busy h).vatBack.contains h) = true := by
  simp only [Bool.or_eq_true, List.contains_eq_mem, decide_eq_true_eq, Team.mem_vatFree_backVat, Team.mem_vatBack_backVat]
  cases busy h <;> simp

theorem State.vatHeld_giveVat (s : State) (tid h : Nat) : (s.giveVat tid h).vatHeld tid h = false := by
  unfold State.vatHeld
  rw [State.team?_giveVat, if_pos rfl]
  cases s.team? tid with
  | none => rfl
  | some t =>
    have hgone := t.backVat_gone (s.vatBusy tid) h
    simp only [Option.map_some]
    rw [Bool.and_assoc, ← Bool.not_or, hgone, Bool.not_true, Bool.and_false]

theorem vrel_eff {s w : State} {is : Iss} {l : Lane} (hb : Beside s w) (halive : w.alive is.on = is.on) (hon : is.on = [l])
    (hheld : s.vatHeld l.t.tid (s.rd32 l.t is.f.lit is.f.a) = true) :
    Counts (w.giveVat l.t.tid (s.rd32 l.t is.f.lit is.f.a)) (vrelMeaning.eff w is) := by
  have hheld' : w.vatHeld l.t.tid (s.rd32 l.t is.f.lit is.f.a) = true := by rw [hb.eq]; exact hheld
  have hstep : w.vrelLane is l = (w.giveVat l.t.tid (s.rd32 l.t is.f.lit is.f.a), .done [] 0) := by
    unfold State.vrelLane
    rw [hb.alike.rd32]
    exact if_pos hheld'
  rw [hon] at halive
  have hloop := State.laneLoop_one (step := fun s l => s.vrelLane is l) (g := is.g) halive hstep
  unfold vrelMeaning
  simp only [hon, hloop]
  exact State.counts_tokDown ..

/-! ## The settlement of O24 -/

theorem vtrd_takes {s : State} {g : IssueGroup} {w : LForm} (h : s.ready g (.vtrd w) = true)
    (hok : ∀ l ∈ s.acting g (.vtrd w), s.vatFlt (s.iss g (.vtrd w)) l = none) :
    Takes s g (.vtrd w) (s.entered g (.vtrd w)) fun u => vtrdMeaning.eff u (s.iss g (.vtrd w)) :=
  vat_takes h rfl (fun _ _ _ => rfl) (fun _ _ => rfl) (fun _ _ => rfl) rfl hok

theorem exec_vtwr {i : Instr} (hi : (∃ w, i = .vtwr w) ∨ (∃ w, i = .vtwrLong w)) (s : State) : exec i s = runWord i vtwrMeaning s := by
  obtain ⟨w, rfl⟩ | ⟨w, rfl⟩ := hi <;> rfl

theorem exec_vrel {i : Instr} (hi : (∃ w, i = .vrel w) ∨ (∃ w, i = .vrelLong w)) (s : State) : exec i s = runWord i vrelMeaning s := by
  obtain ⟨w, rfl⟩ | ⟨w, rfl⟩ := hi <;> rfl

theorem vtwr_takes {s : State} {g : IssueGroup} {i : Instr} (hi : (∃ w, i = .vtwr w) ∨ (∃ w, i = .vtwrLong w)) (h : s.ready g i = true)
    (hok : ∀ l ∈ s.acting g i, s.vatFlt (s.iss g i) l = none) :
    Takes s g i (s.entered g i) fun u => vtwrMeaning.eff u (s.iss g i) :=
  vat_takes h (exec_vtwr hi s) (fun _ _ _ => rfl) (fun _ _ => rfl) (fun _ _ => rfl) rfl hok

theorem vtwr_does {s : State} {g : IssueGroup} {i : Instr} {l : Lane} (hi : (∃ w, i = .vtwr w) ∨ (∃ w, i = .vtwrLong w))
    (h : s.ready g i = true) (hok : ∀ l ∈ s.acting g i, s.vatFlt (s.iss g i) l = none) (hact : s.acting g i = [l]) :
    Does s g i (s.vtwrLane (s.iss g i) l
      (wordsOf (s.intVal l.t (fieldsOf i).lit (fieldsOf i).b (vatCount (fieldsOf i)) 0 true) (vatCount (fieldsOf i))) (s.aluLbl (s.iss g i) l)
      (vatAddr (s.rd32 l.t (fieldsOf i).lit (fieldsOf i).a)).1 (vatAddr (s.rd32 l.t (fieldsOf i).lit (fieldsOf i).a)).2) := by
  have hframe (ws : List Word) (lbl : Label) (k e : Nat) := (s.vtwrLane_spec (s.iss g i) l ws lbl k e).1
  refine does_of_aside h (vtwr_takes hi h hok) (Aside.vtwrLane _ _ _ _ _ _) ?_ ?_
  · rw [vtwr_eff (s.beside_counted g i).alike hact]
    exact State.counts_tokDown ..
  · rw [hframe]
    exact ⟨rfl, rfl, rfl⟩

/-- Settles O24: VTRD by `vtrd_eff_outside` and `vtrd_eff_inside`, VTWR by `vtwr_does` and `vtwrLane_spec`, VREL by
`vrel_eff` and `team?_giveVat`. -/
theorem vatWords : Obligations.VatWords := by
  unfold Obligations.VatWords
  constructor
  · intro s g i hready is f ls a h e n hok
    have hflt : ∀ l ∈ s.acting g i, s.vatFlt (s.iss g i) l = none := fun l hl => by
      obtain ⟨ha, he, hheld⟩ := hok l hl
      exact State.vatFlt_none ha he hheld
    refine ⟨?_, ?_, fun l hi hact => ?_, fun hi => ?_⟩
    · rintro w rfl hwin
      have hbeside := s.beside_counted g (.vtrd w)
      obtain ⟨p, u, hdoes, rfl, hcycle⟩ := does_of_putRes (f := fun s => s) (lat := fun s => 12 + s.pairLat is)
        (rs := fun s => ls.map fun l => ⟨l, s.vatWords is l, s.vatReadLbl is l⟩) hready (vtrd_takes hready hflt) Aside.id
        (fun _ _ _ _ => rfl) (fun _ _ _ _ => rfl)
        (vtrd_eff_outside (State.alive_counted ..) fun l hl => by rw [hbeside.eq]; exact hwin l hl) ⟨rfl, rfl, rfl⟩
      exact ⟨_, hdoes, congrArg (· + _) hcycle, resPend_toks .., resPend_writes ..⟩
    · rintro w l rfl hact hwin
      have hbeside := s.beside_counted g (.vtrd w)
      obtain ⟨p, u, hdoes, rfl, -⟩ := does_of_putRes (f := fun s => s.drawFree n) (lat := fun s => 12 + s.pairLat is)
        (rs := fun s => [⟨l, s.freeVatWords is, s.windowLbl is l⟩]) hready (vtrd_takes hready hflt) (Aside.drawFree n)
        (fun _ _ _ _ => rfl) (fun _ _ _ _ => rfl)
        (vtrd_eff_inside (State.alive_counted ..) hact (by rw [hbeside.eq]; exact hwin)) ⟨rfl, rfl, rfl⟩
      exact ⟨_, hdoes, resWrites_congr _ rfl⟩
    · have hlen (x : Nat) : (wordsOf x n).length = n := length_wordsOf x n
      obtain ⟨hframe, hold, hget, hlbl, hmx⟩ := s.vtwrLane_spec is l (wordsOf (s.intVal l.t f.lit f.b n 0 true) n) (s.aluLbl is l) (h l) (e l)
      refine ⟨_, vtwr_does hi hready hflt hact, hframe, fun tid k x => ?_, fun tid k x => ?_, hlbl, hmx⟩
      · exact hlen (s.intVal l.t f.lit f.b n 0 true) ▸ hold tid k x
      · refine (hget tid k x).trans ?_
        rw [hlen]
        refine ite_congr rfl (fun hx => ?_) fun _ => rfl
        exact wordsOf_getD _ _ _ (by omega)
    · obtain ⟨hm, hpend⟩ := vtwr_eff_frame (s.counted g i) is
      refine ⟨_, vtwr_takes hi hready hflt, ?_, ?_⟩
      · rw [State.advance_frame]
        exact hm.trans (by rw [(s.beside_counted g i).eq]; rfl)
      · rw [State.advance_frame]
        exact hpend.trans (s.pend_counted g i)
  · intro s g i l hready hi hact h hheld
    obtain ⟨t, ht⟩ : ∃ t, s.team? l.t.tid = some t := by
      unfold State.vatHeld at hheld
      cases ht : s.team? l.t.tid with
      | none => rw [ht] at hheld; cases hheld
      | some t => exact ⟨t, rfl⟩
    have htakes : Takes s g i (s.entered g i) fun u => vrelMeaning.eff u (s.iss g i) :=
      takes_acts hready (exec_vrel hi s) (fun _ _ _ => rfl) (fun _ _ => rfl) rfl (s.acting_alive g i) rfl
    have hframe := s.giveVat_frame l.t.tid h
    have hteam := s.team?_giveVat l.t.tid h
    have hcounts : Counts ((s.counted g i).giveVat l.t.tid h) (vrelMeaning.eff (s.counted g i) (s.iss g i)) :=
      vrel_eff (is := s.iss g i) (s.beside_counted g i) (State.alive_counted ..) hact hheld
    have hdoes : Does s g i (s.giveVat l.t.tid h) :=
      does_of_aside hready htakes (Aside.giveVat _ _) hcounts (by rw [hframe]; exact ⟨rfl, rfl, rfl⟩)
    refine ⟨s.giveVat l.t.tid h, hdoes, hframe,
      fun k hk => (hteam k).trans (if_neg hk), s.vatHeld_giveVat .., t, t.backVat (s.vatBusy l.t.tid) h, ht, ?_, rfl, fun hbusy => ?_,
      fun hidle => ⟨?_, ?_⟩⟩
    · rw [hteam, if_pos rfl, ht]; rfl
    · exact Team.mem_vatBack_backVat.2 ⟨.inr rfl, hbusy⟩
    · exact Team.mem_vatFree_backVat.2 (.inl ⟨.inr rfl, hidle⟩)
    · exact fun hin => Bool.false_ne_true (hidle.symm.trans (Team.mem_vatBack_backVat.1 hin).2)

end Sys2Proof.Machine

namespace Sys2Proof.Machine

open Sys2Proof

/-! # Words that make a request (O16, O17) -/

theorem Alike.dataBytes {s w : State} (h : Alike s w) (i : Iss) (c : Code) (n : Nat) : w.dataBytes i c n = s.dataBytes i c n := by
  unfold State.dataBytes; simp only [h.intVal]

theorem Alike.atomBytes {s w : State} (h : Alike s w) (i : Iss) (c : Code) : w.atomBytes i c = s.atomBytes i c := by
  unfold State.atomBytes; simp only [h.intVal]

/-! ## The entry of a word that may close CLEAN -/

section

variable {s : State} {g : IssueGroup} {i : Instr} {m : Meaning}

theorem State.paid_shut (s : State) (g : IssueGroup) (i : Instr) (m : Meaning) : Paid s (s.shut g i m) :=
  (s.beside_entered g i).paid.trans (Paid.close ..)

theorem State.shut_paths (s : State) (g : IssueGroup) (i : Instr) (m : Meaning) :
    (s.shut g i m).sch.paths = (s.entered g i).sch.paths := (Aside.close _).paths _

theorem State.alive_shut (s : State) (g : IssueGroup) (i : Instr) (m : Meaning) : (s.shut g i m).alive (s.acting g i) = s.acting g i :=
  ((s.paid_shut g i m).alike.alive _).trans (s.acting_alive g i)

/-- The teams that a word closes are those of the lanes that act (R213). -/
theorem State.team?_shut {c : Bool} (hc : ∀ t is l, m.closes t is l = c) (n : Nat) : (s.shut g i m).team? n =
    (s.team? n).map fun t => if c = true ∧ n ∈ (s.acting g i).map (·.t.tid) then { t with clean := false } else t := by
  cases c with
  | true =>
    have hshut : s.shut g i m = s.closed g i := by
      unfold State.shut State.closed; simp only [hc, List.filter_true]
    rw [hshut]
    simp only [true_and]
    rw [← State.team?_close_acting]
    exact congrArg (fun x => mget? x n) (s.beside_closed g i).teams
  | false =>
    have hshut : s.shut g i m = s.entered g i := by
      unfold State.shut; simp only [hc, List.filter_false, State.close_nil]
    rw [hshut]
    simp only [Bool.false_eq_true, false_and, if_false, Option.map_id']
    rfl

/-- A word that faults in no lane, waits for nothing and parks no lane completes. -/
theorem takes_shut (h : s.ready g i = true) (he : exec i s = runWord i m s)
    (hf : ∀ l ∈ s.acting g i, m.flt (s.shut g i m) (s.iss0 g i) l = none) (hh : m.hold (s.shut g i m) (s.iss g i) = (s.shut g i m, none))
    (hs : m.stop (s.shut g i m) (s.iss g i) = (s.shut g i m, [])) : Takes s g i (s.shut g i m) fun w => m.eff w (s.iss g i) := by
  unfold Takes
  rw [he, runWord_passes h m hf, hh]
  dsimp only
  rw [State.perform_passes _ _ _ _ _ (s.alive_shut g i m) hs]

end

/-! ## The request -/

/-- A request as an issue makes it (R240, R241): its fields, and its accesses but for when they perform. -/
structure Req.From (r : Req) (id : Nat) (i : Iss) (kind : ReqKind) (scope : Nat) (nl : Bool) (as_ : List Acc) (dst : List Tile) (sz tok : Nat) :
    Prop where
  id : r.id = id
  kind : r.kind = kind
  core : r.core = i.g.core
  part : r.part = i.g.part
  ctx : r.ctx = i.g.ctx
  pc : r.pc = i.g.pc
  scope : r.scope = scope
  nl : r.nl = nl
  dst : r.dst = dst
  sz : r.sz = sz
  tok : r.tok = tok
  accs : r.accs.map Acc.untimed = as_.map Acc.untimed

theorem State.request_from (s : State) (i : Iss) (kind : ReqKind) (scope : Nat) (nl : Bool) {as_ : List Acc} (dst : List Tile) (sz tok : Nat)
    (h : as_ ≠ []) : ∃ (r : Req) (busy : Map (Nat × Nat × Nat) Nat) (l2 : Map Nat (List (Nat × Nat))),
      s.request i kind scope nl as_ dst sz tok =
        { s with clk.fresh := s.clk.fresh + 1, sch.busy := busy, m.l2 := l2, m.reqs := s.m.reqs ++ [r] } ∧
      r.From s.clk.fresh i kind scope nl as_ dst sz tok := by
  have hne : as_.isEmpty = false := by simpa using h
  unfold State.request
  rw [hne]
  simp only [Bool.false_eq_true, if_false]
  obtain ⟨haccs, l2, hframe⟩ := State.timeAll_spec i.g.core as_ ((s.useCoalescer i (linesOfAccs as_)).freshId).2
  generalize State.timeAll _ _ _ = x at *
  obtain ⟨ys, t⟩ := x
  dsimp only at haccs hframe ⊢
  subst hframe
  refine ⟨_, _, _, rfl, ?_⟩
  split <;> exact ⟨rfl, rfl, rfl, rfl, rfl, rfl, rfl, rfl, rfl, rfl, rfl, (atOnce_untimed ..).trans haccs⟩

/-- An access of the request is one of those that the issue made. -/
theorem Req.From.mem {r : Req} {id scope sz tok : Nat} {i : Iss} {kind : ReqKind} {nl : Bool} {as_ : List Acc} {dst : List Tile}
    (h : r.From id i kind scope nl as_ dst sz tok) {x : Acc} (hx : x ∈ r.accs) : ∃ a ∈ as_, a.untimed = x.untimed := by
  have hmem : x.untimed ∈ as_.map Acc.untimed := h.accs ▸ List.mem_map_of_mem hx
  exact List.mem_map.1 hmem

/-- The whole of a word that makes a request: its effect finds the teams paid, and touches TLBs, L1s and older requests. -/
theorem request_issues {s v w x : State} {g : IssueGroup} {i : Instr} {eff : State → State} {is : Iss} {kind : ReqKind} {scope sz tok : Nat}
    {nl : Bool} {as_ : List Acc} {dst : List Tile} (h : s.ready g i = true) (ht : Takes s g i v eff) (hp : Paid s w)
    (hpaths : w.sch.paths = (s.entered g i).sch.paths) (hx : MemDiffer w x) (hne : as_ ≠ [])
    (heff : eff (v.countedAt s g i) = x.request is kind scope nl as_ dst sz tok) :
    ∃ (b : State) (r : Req), Does s g i b ∧
      b = { s with clk.fresh := s.clk.fresh + 1, sch.teams := w.sch.teams, sch.busy := b.sch.busy, m.reqs := x.m.reqs ++ [r],
                   m.l1 := x.m.l1, m.tlb := x.m.tlb, m.l2 := b.m.l2 } ∧
      r.From s.clk.fresh is kind scope nl as_ dst sz tok := by
  obtain ⟨r, busy, l2, hreq, hfrom⟩ := x.request_from is kind scope nl dst sz tok hne
  have hframe := hp.garb
  have hfresh : x.clk.fresh = s.clk.fresh := by rw [hx, hframe]; rfl
  rw [hfresh] at hfrom
  let b : State := { s with clk.fresh := s.clk.fresh + 1, sch.teams := w.sch.teams, sch.busy := busy, m.reqs := x.m.reqs ++ [r],
                            m.l1 := x.m.l1, m.tlb := x.m.tlb, m.l2 := l2 }
  have hthr : x.r.thr = w.r.thr := by rw [hx]
  refine ⟨b, r, does_of_takes h ht rfl ⟨?_, fun z => ?_⟩ ?_ rfl rfl rfl rfl, rfl, hfrom⟩
  · rw [heff, hreq, hx, hframe]
    rfl
  · rw [heff, hreq]
    unfold State.thr
    dsimp only
    rw [hthr]
    exact hp.bare z
  · rw [heff, hreq]
    dsimp only
    rw [hx]
    exact hpaths

/-! ## What the issue of accesses does to the L1s and to older requests -/

theorem State.touchL1_quiet (s : State) (i : Iss) {kind : ReqKind} (h : kind.writes = false) (a : Acc) :
    (s.touchL1 i kind a).m.reqs = s.m.reqs := by
  unfold State.touchL1
  simp only [h, Bool.false_eq_true, if_false]
  split <;> rfl

theorem State.touchL1_load (s : State) (i : Iss) (a : Acc) : s.touchL1 i .load a = s := rfl

theorem State.touchAll_quiet (i : Iss) {kind : ReqKind} (h : kind.writes = false) (as_ : List Acc) (s : State) :
    (as_.foldl (fun s a => s.touchL1 i kind a) s).m.reqs = s.m.reqs :=
  foldl_keeps (fun t : State => t.m.reqs = s.m.reqs) _ (fun t a ht => (t.touchL1_quiet i h a).trans ht) as_ s rfl

theorem State.touchFold_tlb (i : Iss) (kind : ReqKind) (as_ : List Acc) (s : State) :
    (as_.foldl (fun s a => s.touchL1 i kind a) s).m.tlb = s.m.tlb :=
  foldl_keeps (fun t : State => t.m.tlb = s.m.tlb) _ (fun t a ht => (t.touchL1_tlb i kind a).trans ht) as_ s rfl

/-- A request of a core among whose accesses those to the lines of `as_` do not keep their lines, where the issue writes (R96). -/
def Req.passed (kind : ReqKind) (core : Nat) (as_ : List Acc) (q : Req) : Req :=
  { q with accs := q.accs.map fun x => { x with keep := x.keep && !(kind.writes &&
    q.core = core && !q.kind.writes && !x.done && as_.any fun y => y.loc.line = x.loc.line) } }

theorem Req.passed_writes {kind : ReqKind} (h : kind.writes = true) (core : Nat) (as_ : List Acc) (q : Req) :
    q.passed kind core as_ = q.dropKeep core as_ := by
  unfold Req.passed Req.dropKeep
  simp only [h, Bool.true_and]

theorem Req.passed_quiet {kind : ReqKind} (h : kind.writes = false) (core : Nat) (as_ : List Acc) (q : Req) : q.passed kind core as_ = q := by
  unfold Req.passed
  simp [h]

theorem State.touchFold_reqs (i : Iss) (kind : ReqKind) (as_ : List Acc) (s : State) :
    (as_.foldl (fun s a => s.touchL1 i kind a) s).m.reqs = s.m.reqs.map (Req.passed kind i.g.core as_) := by
  cases h : kind.writes with
  | true => rw [State.touchAll_reqs i h]; exact List.map_congr_left fun q _ => (q.passed_writes h ..).symm
  | false => rw [State.touchAll_quiet i h]; exact ((List.map_congr_left fun q _ => q.passed_quiet h ..).trans (List.map_id _)).symm

theorem Req.passed_congr {as_ bs : List Acc} (h : bs.map Acc.untimed = as_.map Acc.untimed) (kind : ReqKind) (core : Nat) (q : Req) :
    q.passed kind core as_ = q.passed kind core bs := by
  cases hw : kind.writes with
  | true => rw [q.passed_writes hw, q.passed_writes hw]; exact q.dropKeep_congr h core
  | false => rw [q.passed_quiet hw, q.passed_quiet hw]

/-! ## The accesses of an issue -/

/-- What a statement names of an access: its thread, address, length, bytes and bytes compared. -/
def Acc.shape (a : Acc) : TRef × DWord × Nat × List Byte × List Byte := (a.t, a.va, a.len, a.data, a.cmp)

theorem Req.From.shapes {r : Req} {id scope sz tok : Nat} {i : Iss} {kind : ReqKind} {nl : Bool} {as_ : List Acc} {dst : List Tile}
    (h : r.From id i kind scope nl as_ dst sz tok) : r.accs.map Acc.shape = as_.map Acc.shape := by
  have hmap (xs : List Acc) : xs.map Acc.shape = (xs.map Acc.untimed).map Acc.shape := by rw [List.map_map]; rfl
  rw [hmap, h.accs, ← hmap]

theorem State.combineLbl_keeps (s : State) (i : Iss) (kind : ReqKind) (as_ : List Acc) (a : Acc) :
    s.combineLbl i kind as_ a = { a with lbl := (s.combineLbl i kind as_ a).lbl } := by
  unfold State.combineLbl
  split <;> rfl

section

variable {u : State} {i : Iss} {kind : ReqKind} {data cmp : Lane → List Byte} {nl : Bool} {len : Nat}

/-- A load that hits in L1 has its value; every other access is as it was (R88). -/
theorem State.hitAcc_cases (u : State) (i : Iss) (a : Acc) : u.hitAcc i a = a ∨
    ∃ y, u.l1Hit i.g.core i.g.part a.loc.line = some y ∧
      u.hitAcc i a = { a with done := true, old := (y.bytes.drop a.loc.off).take a.len, rlbl := y.lbl } := by
  unfold State.hitAcc
  split
  · next y hy =>
    split
    · exact .inl rfl
    · exact .inr ⟨y, hy, rfl⟩
  · exact .inl rfl

theorem State.hitAcc_shape (u : State) (i : Iss) (a : Acc) : (u.hitAcc i a).shape = a.shape := by
  obtain h | ⟨y, -, h⟩ := u.hitAcc_cases i a <;> rw [h]
  rfl

theorem State.accOf_ok {write : Bool} {l : Lane} {loc : Loc} {fl : Label} (h : u.tr i write l = .ok loc fl) :
    ∃ a, u.accOf i write data cmp len l = some (a, fl) ∧ a.t = l.t ∧ a.loc = loc ∧ a.done = false ∧ a.len = len ∧
      a.shape = (l.t, BitVec.ofNat 64 (u.addrOf i true l).toNat, len, data l, cmp l) := by
  unfold State.accOf
  rw [h]
  exact ⟨_, rfl, rfl, rfl, rfl, rfl, rfl⟩

/-- The accesses of lanes that all translate (R240). -/
theorem State.accsOf_shape (hok : ∀ l ∈ i.on, ∃ loc fl, u.tr i kind.writes l = .ok loc fl) :
    (u.accsOf i kind nl data cmp len).map Acc.shape =
      i.on.map fun l => (l.t, BitVec.ofNat 64 (u.addrOf i true l).toNat, len, data l, cmp l) := by
  have hcombine (as_ : List Acc) (a : Acc) : (u.combineLbl i kind as_ a).shape = a.shape := by rw [State.combineLbl_keeps]; rfl
  have hbase : ((i.on.filterMap fun l => u.accOf i kind.writes data cmp len l).map fun x => x.1.shape) =
      i.on.map fun l => (l.t, BitVec.ofNat 64 (u.addrOf i true l).toNat, len, data l, cmp l) :=
    map_filterMap_of_some fun l hl => by
      obtain ⟨loc, fl, htr⟩ := hok l hl
      obtain ⟨a, ha, -, -, -, -, hshape⟩ := State.accOf_ok (data := data) (cmp := cmp) (len := len) htr
      exact ⟨(a, fl), ha, hshape⟩
  rw [← hbase]
  unfold State.accsOf
  split <;> simp only [List.map_map, Function.comp_def, State.hitAcc_shape, hcombine]

/-- Where an access of an issue goes, and what a hit in L1 gives it (R88, R240). -/
theorem State.mem_accsOf {a : Acc} (h : a ∈ u.accsOf i kind nl data cmp len) : ∃ l ∈ i.on, ∃ fl, a.t = l.t ∧
    u.tr i kind.writes l = .ok a.loc fl ∧ (a.done = true → kind = .load ∧ nl = false ∧
      ∃ y, u.l1Hit i.g.core i.g.part a.loc.line = some y ∧ a.old = (y.bytes.drop a.loc.off).take len) := by
  have hbase : ∀ b ∈ ((i.on.filterMap fun l => u.accOf i kind.writes data cmp len l).map (·.1)).map fun a => u.combineLbl i kind
      ((i.on.filterMap fun l => u.accOf i kind.writes data cmp len l).map (·.1)) a,
      ∃ l ∈ i.on, ∃ fl, b.t = l.t ∧ u.tr i kind.writes l = .ok b.loc fl ∧ b.done = false ∧ b.len = len := by
    intro b hb
    obtain ⟨c, hc, rfl⟩ := List.mem_map.1 hb
    obtain ⟨⟨d, fl⟩, hd, rfl⟩ := List.mem_map.1 hc
    obtain ⟨l, hl, hacc⟩ := List.mem_filterMap.1 hd
    cases htr : u.tr i kind.writes l with
    | ok loc fl' =>
      obtain ⟨d', hd', ht, hloc, hdone, hlen, -⟩ := State.accOf_ok (data := data) (cmp := cmp) (len := len) htr
      obtain ⟨rfl, rfl⟩ : d' = d ∧ fl' = fl := by simpa [hd'] using hacc
      rw [State.combineLbl_keeps]
      exact ⟨l, hl, fl', ht, by rw [← hloc] at htr; exact htr, hdone, hlen⟩
    | page _ _ _ _ _ => simp [State.accOf, htr] at hacc
    | bad _ => simp [State.accOf, htr] at hacc
  unfold State.accsOf at h
  dsimp only at h
  split at h
  · next hload =>
    obtain ⟨hkind, hnl⟩ : kind = .load ∧ nl = false := by simpa using hload
    obtain ⟨b, hb, rfl⟩ := List.mem_map.1 h
    obtain ⟨l, hl, fl, ht, htr, hdone, hlen⟩ := hbase b hb
    obtain hsame | ⟨y, hy, hhit⟩ := u.hitAcc_cases i b
    · rw [hsame]
      exact ⟨l, hl, fl, ht, htr, fun hd => absurd hd (by rw [hdone]; exact Bool.false_ne_true)⟩
    · rw [hhit]
      exact ⟨l, hl, fl, ht, htr, fun _ => ⟨hkind, hnl, y, hy, by rw [← hlen]⟩⟩
  · obtain ⟨l, hl, fl, ht, htr, hdone, -⟩ := hbase a h
    exact ⟨l, hl, fl, ht, htr, fun hd => absurd hd (by rw [hdone]; exact Bool.false_ne_true)⟩

theorem State.globFltOf_none {l : Lane} (h : 0 ≤ u.addrOf i true l ∧ u.addrOf i true l < 2 ^ 57)
    (halign : lineOp i.op = true ∨ u.addrOf i true l % accLen i.op i.f = 0) : u.globFltOf i l = none := by
  obtain ⟨hpos, hbound⟩ := h
  unfold State.globFltOf globFlt
  rw [if_neg (by omega)]
  refine if_neg ?_
  obtain hline | hmod := halign
  · simp [hline]
  · simp [hmod]

/-- A global access in which no lane fails is one request (R240, R241). -/
theorem State.globalAccess_request {scope sz : Nat} {dst : List Tile} (halive : u.alive i.on = i.on)
    (hflt : ∀ l ∈ i.on, u.accFlt i kind l = none) :
    u.globalAccess i kind scope nl data cmp len dst sz =
      ((u.accsOf i kind nl data cmp len).foldl (fun s a => s.touchL1 i kind a)
        (u.fillTlb i kind.writes (i.on.map fun l => (u.addrOf i true l).toNat))).request i kind scope nl
        (u.accsOf i kind nl data cmp len) dst sz i.f.tok := by
  have hjudge : u.judgeAcc i kind = u := State.judgeAcc_none (by rw [halive]; exact hflt)
  unfold State.globalAccess
  simp only [hjudge, halive]

end

end Sys2Proof.Machine

namespace Sys2Proof.Machine

open Sys2Proof

/-! # LD, ST, ATOM, RED and CAS (O16) -/

theorem Paid.fillTlb {s w : State} (h : Paid s w) (i : Iss) (write : Bool) (vas : List Nat) :
    (w.fillTlb i write vas).m.tlb = (s.fillTlb i write vas).m.tlb := congrArg Mem.tlb ((Memwise.fillTlb i write vas).m h)

/-- A word whose lanes all belong to teams that there are no more closes nothing. -/
theorem State.shut_of_none {s : State} {g : IssueGroup} {i : Instr} {m : Meaning} (h : s.acting g i = []) : s.shut g i m = s.entered g i := by
  refine foldl_same _ _ _ fun n hn => ?_
  obtain ⟨l, hl, rfl⟩ := List.mem_map.1 (mem_dedup.1 hn)
  have hnot : ¬ ((s.entered g i).team? l.t.tid).isSome = true := fun halive => by
    have hmem : l ∈ s.acting g i := List.mem_filter.2 ⟨(List.mem_filter.1 hl).1, halive⟩
    rw [h] at hmem
    cases hmem
  unfold State.setTeam
  split
  · next ht => rw [ht] at hnot; exact absurd rfl hnot
  · rfl

/-- A word that is one access of each lane: its checks, and the request that it makes. -/
structure GlobalWord (s : State) (g : IssueGroup) (i : Instr) (m : Meaning) (kind : ReqKind) (scope : Nat) (nl : Bool)
    (data cmp : State → Lane → List Byte) (dst : List Tile) (sz : Nat) : Prop where
  exec : exec i s = runWord i m s
  closes : ∀ t is l, m.closes t is l = kind.writes
  flt : ∀ t is l, m.flt t is l = t.globFltOf is l
  hold : ∀ t is, m.hold t is = (t, none)
  stop : ∀ t is, m.stop t is = t.pageStop is kind.writes
  eff : ∀ t, m.eff t (s.iss g i) = t.globalAccess (s.iss g i) kind scope nl (data t) (cmp t) (accLen (opNo i) (fieldsOf i)) dst sz
  data : ∀ u, Paid s u → data u = data s
  cmp : ∀ u, Paid s u → cmp u = cmp s

namespace GlobalWord

variable {s : State} {g : IssueGroup} {i : Instr} {m : Meaning} {kind : ReqKind} {scope : Nat} {nl : Bool}
  {data cmp : State → Lane → List Byte} {dst : List Tile} {sz : Nat} (hword : GlobalWord s g i m kind scope nl data cmp dst sz)
  (hok : ∀ l ∈ s.acting g i, 0 ≤ s.addrOf (s.iss g i) true l ∧ s.addrOf (s.iss g i) true l < 2 ^ 57 ∧
    s.addrOf (s.iss g i) true l % accLen (opNo i) (fieldsOf i) = 0 ∧
    (∃ loc fl, s.tr (s.iss g i) kind.writes l = .ok loc fl) ∧ s.accFlt (s.iss g i) kind l = none)
include hword hok

theorem takes (hready : s.ready g i = true) : Takes s g i (s.shut g i m) fun w => m.eff w (s.iss g i) := by
  have hpaid := s.paid_shut g i m
  refine takes_shut hready hword.exec (fun l hl => ?_) (hword.hold _ _) ?_
  · obtain ⟨hpos, hbound, halign, -⟩ := hok l hl
    rw [hword.flt]
    refine State.globFltOf_none ?_ (.inr ?_) <;> rw [hpaid.addrOf]
    · exact ⟨hpos, hbound⟩
    · exact halign
  · rw [hword.stop]
    refine State.pageStop_none fun l hl => ?_
    obtain ⟨-, -, -, htr, -⟩ := hok l hl
    rw [hpaid.tr]
    exact htr

/-- The effect of the word where its issue has been counted: one request of the accesses of the lanes. -/
theorem eff_request {w : State} (hp : Paid s w) (halive : w.alive (s.acting g i) = s.acting g i) :
    m.eff w (s.iss g i) =
      ((w.accsOf (s.iss g i) kind nl (data s) (cmp s) (accLen (opNo i) (fieldsOf i))).foldl (fun t a => t.touchL1 (s.iss g i) kind a)
        (w.fillTlb (s.iss g i) kind.writes ((s.acting g i).map fun l => (s.addrOf (s.iss g i) true l).toNat))).request (s.iss g i) kind scope nl
        (w.accsOf (s.iss g i) kind nl (data s) (cmp s) (accLen (opNo i) (fieldsOf i))) dst sz (fieldsOf i).tok := by
  rw [hword.eff, hword.data w hp, hword.cmp w hp, State.globalAccess_request halive]
  · simp only [hp.addrOf]
    rfl
  · intro l hl
    obtain ⟨-, -, -, -, hflt⟩ := hok l hl
    rw [hp.accFlt]
    exact hflt

/-- Where no lane acts, nothing is accessed. -/
theorem does_nothing (hready : s.ready g i = true) (hnone : s.acting g i = []) : Does s g i s := by
  have hbeside : Beside s ((s.shut g i m).countedAt s g i) := by
    rw [State.shut_of_none hnone]
    exact s.beside_counted g i
  have hp := hbeside.paid
  have heff := hword.eff_request hok hp ((hp.alike.alive _).trans (by rw [hnone]; rfl))
  have haccs : ((s.shut g i m).countedAt s g i).accsOf (s.iss g i) kind nl (data s) (cmp s) (accLen (opNo i) (fieldsOf i)) = [] := by
    have hshape := State.accsOf_shape (u := (s.shut g i m).countedAt s g i) (i := s.iss g i) (kind := kind) (data := data s) (cmp := cmp s)
      (nl := nl) (len := accLen (opNo i) (fieldsOf i)) fun l (hl : l ∈ s.acting g i) => absurd (hnone ▸ hl) List.not_mem_nil
    rw [show (s.iss g i).on = [] from hnone] at hshape
    exact List.map_eq_nil_iff.1 hshape
  rw [haccs, hnone] at heff
  refine does_of_takes hready (hword.takes hok hready) rfl (heff ▸ hbeside) ?_ rfl rfl rfl rfl
  rw [heff]
  exact (State.countedAt_paths ..).trans (s.shut_paths g i m)

/-- The request of lanes that act. -/
theorem does (hready : s.ready g i = true) (hne : s.acting g i ≠ []) : ∃ (b : State) (r : Req), Does s g i b ∧
    b = { s with clk.fresh := s.clk.fresh + 1, sch.teams := b.sch.teams, sch.busy := b.sch.busy, m.reqs := b.m.reqs,
                 m.l1 := b.m.l1, m.tlb := b.m.tlb, m.l2 := b.m.l2 } ∧
    b.m.reqs = s.m.reqs.map (Req.passed kind g.core r.accs) ++ [r] ∧
    b.m.tlb = (s.fillTlb (s.iss g i) kind.writes ((s.acting g i).map fun l => (s.addrOf (s.iss g i) true l).toNat)).m.tlb ∧
    b.sch.teams = (s.shut g i m).sch.teams ∧ (kind = .load → b.m.l1 = s.m.l1) ∧
    ∃ as_, r.From s.clk.fresh (s.iss g i) kind scope nl as_ dst sz (fieldsOf i).tok ∧
      as_.map Acc.shape = (s.acting g i).map (fun l => (l.t, BitVec.ofNat 64 (s.addrOf (s.iss g i) true l).toNat,
        accLen (opNo i) (fieldsOf i), data s l, cmp s l)) ∧
      ∀ a ∈ as_, ∃ l ∈ s.acting g i, ∃ fl, a.t = l.t ∧ s.tr (s.iss g i) kind.writes l = .ok a.loc fl ∧
        (a.done = true → kind = .load ∧ nl = false ∧ ∃ y, s.l1Hit g.core g.part a.loc.line = some y ∧
          a.old = (y.bytes.drop a.loc.off).take (accLen (opNo i) (fieldsOf i))) := by
  obtain ⟨w, hw⟩ : ∃ w, (s.shut g i m).countedAt s g i = w := ⟨_, rfl⟩
  have hbeside : Beside (s.shut g i m) w := hw ▸ Beside.countedAt ..
  have hp : Paid s w := (s.paid_shut g i m).trans hbeside.paid
  have hpaths : w.sch.paths = (s.entered g i).sch.paths := by rw [← hw, State.countedAt_paths, State.shut_paths]
  have heff := hword.eff_request hok hp ((hp.alike.alive _).trans (s.acting_alive g i))
  have htr : ∀ l ∈ (s.iss g i).on, ∃ loc fl, w.tr (s.iss g i) kind.writes l = .ok loc fl := fun l hl => by
    obtain ⟨-, -, -, htr, -⟩ := hok l hl
    rw [hp.tr]
    exact htr
  have hshape := State.accsOf_shape (data := data s) (cmp := cmp s) (nl := nl) (len := accLen (opNo i) (fieldsOf i)) htr
  have hmem := fun a => State.mem_accsOf (u := w) (i := s.iss g i) (kind := kind) (data := data s) (cmp := cmp s) (nl := nl)
    (len := accLen (opNo i) (fieldsOf i)) (a := a)
  have hhit : kind = .load → w.l1Hit = s.l1Hit := fun hkind => by
    have hopen : Beside s w := by
      have hshut : s.shut g i m = s.entered g i := by
        unfold State.shut; simp only [hword.closes, hkind, ReqKind.writes, List.filter_false, State.close_nil]
      exact (s.beside_entered g i).trans (hshut ▸ hbeside)
    rw [hopen.eq]
    rfl
  generalize w.accsOf (s.iss g i) kind nl (data s) (cmp s) (accLen (opNo i) (fieldsOf i)) = as_ at *
  simp only [hp.addrOf, hp.tr] at hshape hmem
  have hnonempty : as_ ≠ [] := by
    rintro rfl
    exact hne (List.map_eq_nil_iff.1 hshape.symm)
  obtain ⟨vas, hvas⟩ : ∃ vas, (s.acting g i).map (fun l => (s.addrOf (s.iss g i) true l).toNat) = vas := ⟨_, rfl⟩
  rw [hvas] at heff ⊢
  obtain ⟨x, hx⟩ : ∃ x, as_.foldl (fun t a => t.touchL1 (s.iss g i) kind a) (w.fillTlb (s.iss g i) kind.writes vas) = x := ⟨_, rfl⟩
  rw [hx] at heff
  have hdiffer : MemDiffer w x := hx ▸ (MemDiffer.fillTlb ..).trans (MemDiffer.foldl (fun t a => MemDiffer.touchL1 t (s.iss g i) kind a) as_ _)
  have hfill := w.fillTlb_frame (s.iss g i) kind.writes vas
  have hreqs : x.m.reqs = s.m.reqs.map (Req.passed kind g.core as_) := by
    rw [← hx, State.touchFold_reqs, hfill, hp.garb]
    rfl
  have htlb : x.m.tlb = (s.fillTlb (s.iss g i) kind.writes vas).m.tlb := by
    rw [← hx, State.touchFold_tlb, hp.fillTlb]
  have hl1 : kind = .load → x.m.l1 = s.m.l1 := by
    rintro rfl
    have hkeep : as_.foldl (fun t a => t.touchL1 (s.iss g i) .load a) (w.fillTlb (s.iss g i) ReqKind.load.writes vas) =
      w.fillTlb (s.iss g i) ReqKind.load.writes vas := foldl_same _ as_ _ fun a _ => State.touchL1_load _ _ a
    rw [← hx, hkeep, hfill, hp.garb]
    rfl
  obtain ⟨b, r, hdoes, hb, hfrom⟩ := request_issues hready (hword.takes hok hready) hp hpaths hdiffer hnonempty (hw ▸ heff)
  refine ⟨b, r, hdoes, ?_, ?_, ?_, ?_, fun hkind => ?_, as_, hfrom, hshape, fun a ha => ?_⟩
  · rw [hb]
  · rw [hb]
    show x.m.reqs ++ [r] = _
    rw [hreqs]
    exact congrArg (· ++ [r]) (List.map_congr_left fun q _ => q.passed_congr hfrom.accs ..)
  · rw [hb]
    exact htlb
  · rw [hb]
    exact hbeside.teams
  · rw [hb]
    exact hl1 hkind
  · obtain ⟨l, hl, fl, ht, hloc, hdone⟩ := hmem a ha
    refine ⟨l, hl, fl, ht, hloc, fun hd => ?_⟩
    obtain ⟨hkind, hnl, y, hy, hold⟩ := hdone hd
    exact ⟨hkind, hnl, y, hhit hkind ▸ hy, hold⟩

end GlobalWord

/-! ## The words -/

theorem stMeaning_eff (t : State) (is : Iss) : stMeaning.eff t is = t.globalAccess is .store 0 false (t.dataBytes is is.f.b (accLen is.op is.f))
    noBytes (accLen is.op is.f) [] 0 := rfl

theorem atomMeaning_eff (t : State) (is : Iss) : atomMeaning.eff t is =
    t.globalAccess is (.atomic (mdAop is.f.md) (mdAW is.f.md = 1) (mdU is.f.md)) (mdScope is.f.md) false (t.atomBytes is is.f.b) noBytes
      (accLen is.op is.f) (Fm.writes is.cls is.op is.f) (atomSz is.f) := rfl

theorem redMeaning_eff (t : State) (is : Iss) : redMeaning.eff t is =
    t.globalAccess is (.red (mdAop is.f.md) (mdAW is.f.md = 1) (mdU is.f.md)) (mdScope is.f.md) false (t.atomBytes is is.f.b) noBytes
      (accLen is.op is.f) [] 0 := rfl

theorem casMeaning_eff (t : State) (is : Iss) : casMeaning.eff t is =
    t.globalAccess is (.cas (mdAW is.f.md = 1)) (mdScope is.f.md) false (t.atomBytes is is.f.c) (t.atomBytes is is.f.b)
      (accLen is.op is.f) (Fm.writes is.cls is.op is.f) (atomSz is.f) := rfl

section

variable {s : State} {g : IssueGroup} {i : Instr} {f : Fm}

theorem globalWord_ld {h : LForm} (hi : i = .ld h) (hf : fieldsOf i = f) : GlobalWord s g i ldMeaning .load 0 (mdNl f.md) (fun _ => noBytes)
    (fun _ => noBytes) (Fm.writes 3 0 f) (mdSz f.md) where
  exec := by subst hi; rfl
  closes _ _ _ := rfl
  flt _ _ _ := rfl
  hold _ _ := rfl
  stop _ _ := rfl
  eff _ := by subst hi hf; rfl
  data _ _ := rfl
  cmp _ _ := rfl

theorem globalWord_st (hi : (∃ h, i = .st h) ∨ (∃ h, i = .stLong h)) (hf : fieldsOf i = f) : GlobalWord s g i stMeaning .store 0 false
    (fun t => t.dataBytes (s.iss g i) f.b (accLen (opNo i) f)) (fun _ => noBytes) [] 0 where
  exec := by obtain ⟨h, rfl⟩ | ⟨h, rfl⟩ := hi <;> rfl
  closes _ _ _ := rfl
  flt _ _ _ := rfl
  hold _ _ := rfl
  stop _ _ := rfl
  eff t := by subst hf; exact stMeaning_eff t _
  data _ hu := hu.alike.dataBytes (s.iss g i) f.b (accLen (opNo i) f)
  cmp _ _ := rfl

theorem globalWord_atom {h : LForm} (hi : i = .atom h) (hf : fieldsOf i = f) :
    GlobalWord s g i atomMeaning (.atomic (mdAop f.md) (decide (mdAW f.md = 1)) (mdU f.md)) (mdScope f.md) false
      (fun t => t.atomBytes (s.iss g i) f.b) (fun _ => noBytes) (Fm.writes 3 5 f) (atomSz f) where
  exec := by subst hi; rfl
  closes _ _ _ := rfl
  flt _ _ _ := rfl
  hold _ _ := rfl
  stop _ _ := rfl
  eff t := by subst hi hf; exact atomMeaning_eff t _
  data _ hu := hu.alike.atomBytes (s.iss g i) f.b
  cmp _ _ := rfl

theorem globalWord_red (hi : (∃ h, i = .red h) ∨ (∃ h, i = .redLong h)) (hf : fieldsOf i = f) :
    GlobalWord s g i redMeaning (.red (mdAop f.md) (decide (mdAW f.md = 1)) (mdU f.md)) (mdScope f.md) false
      (fun t => t.atomBytes (s.iss g i) f.b) (fun _ => noBytes) [] 0 where
  exec := by obtain ⟨h, rfl⟩ | ⟨h, rfl⟩ := hi <;> rfl
  closes _ _ _ := rfl
  flt _ _ _ := rfl
  hold _ _ := rfl
  stop _ _ := rfl
  eff t := by subst hf; exact redMeaning_eff t _
  data _ hu := hu.alike.atomBytes (s.iss g i) f.b
  cmp _ _ := rfl

theorem globalWord_cas {h : LForm} (hi : i = .cas h) (hf : fieldsOf i = f) :
    GlobalWord s g i casMeaning (.cas (decide (mdAW f.md = 1))) (mdScope f.md) false (fun t => t.atomBytes (s.iss g i) f.c)
      (fun t => t.atomBytes (s.iss g i) f.b) (Fm.writes 3 7 f) (atomSz f) where
  exec := by subst hi; rfl
  closes _ _ _ := rfl
  flt _ _ _ := rfl
  hold _ _ := rfl
  stop _ _ := rfl
  eff t := by subst hi hf; exact casMeaning_eff t _
  data _ hu := hu.alike.atomBytes (s.iss g i) f.c
  cmp _ hu := hu.alike.atomBytes (s.iss g i) f.b

end

/-- Settles O16: `GlobalWord` holds of each of the words, and `GlobalWord.does` gives its request. -/
theorem globalAccesses : Obligations.GlobalAccesses := by
  unfold Obligations.GlobalAccesses
  intro s g i kind scope nl data cmp dst sz f is wide hcase hready a n hok
  obtain ⟨m, data', cmp', hword, hload, rfl, rfl⟩ : ∃ m data' cmp', GlobalWord s g i m kind scope nl data' cmp' dst sz ∧
      (kind.writes = true ↔ kind ≠ .load) ∧ data = data' s ∧ cmp = cmp' s := by
    obtain ⟨h, hi, rfl, rfl, rfl, rfl, rfl, rfl, rfl⟩ | ⟨hi, rfl, rfl, rfl, rfl, rfl, rfl, rfl⟩ | ⟨h, hi, rfl, rfl, rfl, rfl, rfl, rfl, rfl⟩ |
      ⟨hi, rfl, rfl, rfl, rfl, rfl, rfl, rfl⟩ | ⟨h, hi, rfl, rfl, rfl, rfl, rfl, rfl, rfl⟩ := hcase
    · exact ⟨_, _, _, globalWord_ld hi rfl, by simp [ReqKind.writes], rfl, rfl⟩
    · exact ⟨_, _, _, globalWord_st hi rfl, by simp [ReqKind.writes], rfl, rfl⟩
    · exact ⟨_, _, _, globalWord_atom hi rfl, by simp [ReqKind.writes], rfl, rfl⟩
    · exact ⟨_, _, _, globalWord_red hi rfl, by simp [ReqKind.writes], rfl, rfl⟩
    · exact ⟨_, _, _, globalWord_cas hi rfl, by simp [ReqKind.writes], rfl, rfl⟩
  refine ⟨hword.does_nothing hok hready, fun hne => ?_⟩
  obtain ⟨b, r, hdoes, hb, hreqs, htlb, hteams, hl1, as_, hfrom, hshape, hacc⟩ := hword.does hok hready hne
  refine ⟨b, r, hdoes, hb, hreqs, htlb, fun tid => ?_, hl1, hfrom.id, hfrom.kind, hfrom.core, hfrom.part, hfrom.ctx, hfrom.pc, hfrom.scope,
    hfrom.nl, hfrom.dst, hfrom.sz, hfrom.tok, ?_, fun x hx => ?_⟩
  · refine (congrArg (fun m => mget? m tid) hteams).trans ((State.team?_shut hword.closes tid).trans ?_)
    simp only [hload]
  · exact hfrom.shapes.trans hshape
  · obtain ⟨y, hy, hxy⟩ := hfrom.mem hx
    have ht : y.t = x.t := (congrArg Acc.t hxy :)
    have hloc : y.loc = x.loc := (congrArg Acc.loc hxy :)
    have hdone : y.done = x.done := (congrArg Acc.done hxy :)
    have hold : y.old = x.old := (congrArg Acc.old hxy :)
    rw [← ht, ← hloc, ← hdone, ← hold]
    obtain ⟨l, hl, fl, htl, htr, hd⟩ := hacc y hy
    exact ⟨⟨l, hl, fl, htl, htr⟩, hd⟩

end Sys2Proof.Machine

namespace Sys2Proof.Machine

open Sys2Proof

/-! # LEASE, PREF and FENCE (O17) -/

section

variable {s : State} {g : IssueGroup} {i : Instr}

/-- The counted entry of a word that closes nothing. -/
theorem Beside.alive {u : State} (h : Beside s u) (ls : List Lane) : u.alive ls = s.alive ls := h.paid.alike.alive ls

theorem State.counted_entered_paths (s : State) (g : IssueGroup) (i : Instr) : (s.counted g i).sch.paths = (s.entered g i).sch.paths :=
  State.countedAt_paths ..

/-! ## LEASE (R252) -/

/-- The accesses of a LEASE. -/
def State.leaseAccs (s : State) (i : Iss) : List Acc :=
  (i.on.filterMap fun l => s.accOf i false noBytes noBytes 1 l).map fun x => s.leaseLeft i x.1

/-- A LEASE whose lanes all go on. -/
theorem lease_eff {u : State} {is : Iss} (halive : u.alive is.on = is.on) (hflt : ∀ l ∈ is.on, u.accFlt is .lease l = none) :
    leaseMeaning.eff u is = (((u.leaseAccs is).filter fun a => !a.done).foldl (fun t a => t.touchL1 is .lease a)
      (u.fillTlb is false (is.on.map fun l => (u.addrOf is true l).toNat))).request is .lease 0 false (u.leaseAccs is) [] 0 is.f.tok := by
  have hjudge : u.judgeAcc is .lease = u := State.judgeAcc_none (by rw [halive]; exact hflt)
  unfold leaseMeaning
  simp only [hjudge, halive]
  rfl

/-- Is a line one that LEASE leaves as it is? -/
def State.leaseKept (s : State) (i : Iss) (a : Acc) : Bool :=
  !a.loc.leaseable || s.l1Cap i.g.part i.g.core = 0 || (s.pinOf a.t.tid a.loc.line).isSome

theorem State.leaseLeft_eq {u : State} {is : Iss} {a : Acc} (h : a.done = false) : u.leaseLeft is a = { a with done := u.leaseKept is a } := by
  unfold State.leaseLeft State.leaseKept
  split
  · next hk => rw [hk]
  · next hk => rw [Bool.not_eq_true] at hk; rw [hk, ← h]

theorem State.leaseAccs_spec {u : State} {is : Iss} (htr : ∀ l ∈ is.on, ∃ loc fl, u.tr is false l = .ok loc fl) :
    (u.leaseAccs is).map (fun x => (x.t, x.va)) = is.on.map (fun l => (l.t, BitVec.ofNat 64 (u.addrOf is true l).toNat)) ∧
    ∀ x ∈ u.leaseAccs is, x.done = u.leaseKept is x := by
  have hacc : ∀ l ∈ is.on, ∃ a fl, u.accOf is false noBytes noBytes 1 l = some (a, fl) ∧ a.done = false ∧
      (a.t, a.va) = (l.t, BitVec.ofNat 64 (u.addrOf is true l).toNat) := fun l hl => by
    obtain ⟨loc, fl, hok⟩ := htr l hl
    obtain ⟨a, ha, ht, -, hdone, -, hshape⟩ := State.accOf_ok (data := noBytes) (cmp := noBytes) (len := 1) hok
    have hva : a.va = BitVec.ofNat 64 (u.addrOf is true l).toNat := (congrArg (fun x => x.2.1) hshape :)
    exact ⟨a, fl, ha, hdone, by rw [ht, hva]⟩
  unfold State.leaseAccs
  constructor
  · rw [List.map_map]
    refine map_filterMap_of_some fun l hl => ?_
    obtain ⟨a, fl, ha, hdone, hname⟩ := hacc l hl
    refine ⟨_, ha, ?_⟩
    rw [Function.comp_apply, State.leaseLeft_eq hdone]
    exact hname
  · intro x hx
    obtain ⟨⟨a, fl⟩, ha, rfl⟩ := List.mem_map.1 hx
    obtain ⟨l, hl, hla⟩ := List.mem_filterMap.1 ha
    obtain ⟨a', fl', ha', hdone, -⟩ := hacc l hl
    obtain ⟨rfl, rfl⟩ : a' = a ∧ fl' = fl := by simpa [ha'] using hla
    rw [State.leaseLeft_eq hdone]
    rfl

theorem exec_lease (hi : (∃ h, i = .lease h) ∨ (∃ h, i = .leaseLong h)) (s : State) : exec i s = runWord i leaseMeaning s := by
  obtain ⟨h, rfl⟩ | ⟨h, rfl⟩ := hi <;> rfl

theorem lineOp_lease (hi : (∃ h, i = .lease h) ∨ (∃ h, i = .leaseLong h)) : lineOp (opNo i) = true := by
  obtain ⟨h, rfl⟩ | ⟨h, rfl⟩ := hi <;> rfl

/-- The lanes of a LEASE have addresses that it may name. -/
def State.leasable (s : State) (g : IssueGroup) (i : Instr) : Prop := ∀ l ∈ s.acting g i, 0 ≤ s.addrOf (s.iss g i) true l ∧
  s.addrOf (s.iss g i) true l < 2 ^ 57 ∧ (∃ loc fl, s.tr (s.iss g i) false l = .ok loc fl) ∧ s.accFlt (s.iss g i) .lease l = none

theorem lease_takes (hi : (∃ h, i = .lease h) ∨ (∃ h, i = .leaseLong h)) (hready : s.ready g i = true) (hok : s.leasable g i) :
    Takes s g i (s.entered g i) fun w => leaseMeaning.eff w (s.iss g i) := by
  have hp := (s.beside_entered g i).paid
  refine takes_acts hready (exec_lease hi s) (fun _ _ _ => rfl) (fun l hl => ?_) rfl (s.acting_alive g i) ?_
  · obtain ⟨hpos, hbound, -⟩ := hok l hl
    exact State.globFltOf_none (by rw [hp.addrOf]; exact ⟨hpos, hbound⟩) (.inl (lineOp_lease hi))
  · refine State.pageStop_none fun l hl => ?_
    obtain ⟨-, -, htr, -⟩ := hok l hl
    rw [hp.tr]
    exact htr

/-- The effect of a LEASE where its issue is counted, and the accesses of it. -/
theorem lease_counted (hok : s.leasable g i) : ∃ as_ : List Acc,
    leaseMeaning.eff (s.counted g i) (s.iss g i) = ((as_.filter fun a => !a.done).foldl (fun t a => t.touchL1 (s.iss g i) .lease a)
      ((s.counted g i).fillTlb (s.iss g i) false ((s.acting g i).map fun l => (s.addrOf (s.iss g i) true l).toNat))).request
        (s.iss g i) .lease 0 false as_ [] 0 (fieldsOf i).tok ∧
    as_.map (fun x => (x.t, x.va)) = (s.acting g i).map (fun l => (l.t, BitVec.ofNat 64 (s.addrOf (s.iss g i) true l).toNat)) ∧
    ∀ x ∈ as_, x.done = s.leaseKept (s.iss g i) x := by
  have hbeside := s.beside_counted g i
  have hp := hbeside.paid
  have hkept : (s.counted g i).leaseKept (s.iss g i) = s.leaseKept (s.iss g i) := by rw [hbeside.eq]; rfl
  obtain ⟨hname, hdone⟩ := State.leaseAccs_spec (u := s.counted g i) (is := s.iss g i) fun l hl => by
    obtain ⟨-, -, htr, -⟩ := hok l hl
    rw [hp.tr]
    exact htr
  have heff := lease_eff (u := s.counted g i) (is := s.iss g i) ((hbeside.alive (s.acting g i)).trans (s.acting_alive g i)) fun l hl => by
    obtain ⟨-, -, -, hflt⟩ := hok l hl
    rw [hp.accFlt]
    exact hflt
  simp only [hp.addrOf] at heff hname
  exact ⟨_, heff, hname, hkept ▸ hdone⟩

theorem lease_nothing (hi : (∃ h, i = .lease h) ∨ (∃ h, i = .leaseLong h)) (hready : s.ready g i = true) (hok : s.leasable g i)
    (hnone : s.acting g i = []) : Does s g i s := by
  obtain ⟨as_, heff, hname, -⟩ := lease_counted hok
  rw [hnone] at heff hname
  obtain rfl : as_ = [] := List.map_eq_nil_iff.1 hname
  refine does_of_takes hready (lease_takes hi hready hok) rfl (heff ▸ s.beside_counted g i) ?_ rfl rfl rfl rfl
  exact (congrArg (fun t : State => t.sch.paths) heff).trans (s.counted_entered_paths g i)

theorem lease_does (hi : (∃ h, i = .lease h) ∨ (∃ h, i = .leaseLong h)) (hready : s.ready g i = true) (hok : s.leasable g i)
    (hne : s.acting g i ≠ []) : ∃ (b : State) (r : Req), Does s g i b ∧
      b = { s with clk.fresh := s.clk.fresh + 1, sch.busy := b.sch.busy, m.reqs := s.m.reqs ++ [r], m.l1 := b.m.l1,
                   m.tlb := b.m.tlb, m.l2 := b.m.l2 } ∧
      r.kind = .lease ∧ r.dst = [] ∧ r.tok = (fieldsOf i).tok ∧
      r.accs.map (fun x => (x.t, x.va)) = (s.acting g i).map (fun l => (l.t, BitVec.ofNat 64 (s.addrOf (s.iss g i) true l).toNat)) ∧
      ∀ x ∈ r.accs, x.done = s.leaseKept (s.iss g i) x := by
  obtain ⟨as_, heff, hname, hdone⟩ := lease_counted hok
  have hbeside := s.beside_counted g i
  have hnonempty : as_ ≠ [] := by
    rintro rfl
    exact hne (List.map_eq_nil_iff.1 hname.symm)
  obtain ⟨vas, hvas⟩ : ∃ vas, (s.acting g i).map (fun l => (s.addrOf (s.iss g i) true l).toNat) = vas := ⟨_, rfl⟩
  rw [hvas] at heff
  obtain ⟨x, hx⟩ : ∃ x, (as_.filter fun a => !a.done).foldl (fun t a => t.touchL1 (s.iss g i) .lease a)
    ((s.counted g i).fillTlb (s.iss g i) false vas) = x := ⟨_, rfl⟩
  rw [hx] at heff
  have hdiffer : MemDiffer (s.counted g i) x :=
    hx ▸ (MemDiffer.fillTlb ..).trans (MemDiffer.foldl (fun t a => MemDiffer.touchL1 t (s.iss g i) .lease a) _ _)
  have hreqs : x.m.reqs = s.m.reqs := by
    rw [← hx, State.touchAll_quiet _ rfl, State.fillTlb_frame, hbeside.eq]
    rfl
  obtain ⟨b, r, hdoes, hb, hfrom⟩ :=
    request_issues hready (lease_takes hi hready hok) hbeside.paid (s.counted_entered_paths g i) hdiffer hnonempty heff
  refine ⟨b, r, hdoes, ?_, hfrom.kind, hfrom.dst, hfrom.tok, ?_, fun y hy => ?_⟩
  · rw [hb, hreqs, hbeside.teams]
  · have hmap (xs : List Acc) : xs.map (fun x => (x.t, x.va)) = (xs.map Acc.shape).map fun x => (x.1, x.2.1) := by rw [List.map_map]; rfl
    rw [hmap, hfrom.shapes, ← hmap, hname]
  · obtain ⟨a, ha, hay⟩ := hfrom.mem hy
    have hd : a.done = y.done := (congrArg Acc.done hay :)
    have hk : s.leaseKept (s.iss g i) a = s.leaseKept (s.iss g i) y := (congrArg (s.leaseKept (s.iss g i)) hay :)
    rw [← hd, ← hk, hdone a ha]

/-! ## PREF (R253) -/

theorem exec_pref (hi : (∃ h, i = .pref h) ∨ (∃ h, i = .prefLong h)) (s : State) : exec i s = runWord i prefMeaning s := by
  obtain ⟨h, rfl⟩ | ⟨h, rfl⟩ := hi <;> rfl

theorem pref_takes (hi : (∃ h, i = .pref h) ∨ (∃ h, i = .prefLong h)) (hready : s.ready g i = true) :
    Takes s g i (s.entered g i) fun w => prefMeaning.eff w (s.iss g i) :=
  takes_acts hready (exec_pref hi s) (fun _ _ _ => rfl) (fun _ _ => rfl) rfl (s.acting_alive g i) rfl

theorem Blind.prefAccs (is : Iss) : Blind fun s => s.prefAccs is := fun _ _ _ _ => rfl

theorem Aside.l2Fetch (core : Nat) (loc : Loc) : Aside fun s => (s.l2Fetch core loc).2 := fun t thr ps busy => by
  have hget : (t.dress thr ps busy).l2Fetch core loc = ((t.l2Fetch core loc).1, (t.l2Fetch core loc).2.dress thr ps busy) := by
    unfold State.l2Fetch
    cases loc with
    | mem a =>
      dsimp only
      have hm : (t.dress thr ps busy).m = t.m := rfl
      have hs : (t.dress thr ps busy).sliceOf = t.sliceOf := rfl
      rw [hm, hs]
      split <;> rfl
    | fab _ _ => rfl
    | host _ _ => rfl
  exact congrArg Prod.snd hget

theorem State.l2Fetch_frame (s : State) (core : Nat) (loc : Loc) :
    (s.l2Fetch core loc).2 = { s with m.l2 := (s.l2Fetch core loc).2.m.l2 } := by
  unfold State.l2Fetch
  split
  · dsimp only
    split <;> rfl
  · rfl

/-- The slices fetch the lines of some accesses (R77). -/
def State.l2FetchAll (s : State) (core : Nat) (as_ : List Acc) : State := as_.foldl (fun s a => (s.l2Fetch core a.loc).2) s

theorem Aside.l2FetchAll (core : Nat) (as_ : List Acc) : Aside fun s => s.l2FetchAll core as_ :=
  Aside.foldl (f := fun s (a : Acc) => (s.l2Fetch core a.loc).2) (fun a => Aside.l2Fetch core a.loc) as_

theorem State.l2FetchAll_frame (s : State) (core : Nat) (as_ : List Acc) :
    s.l2FetchAll core as_ = { s with m.l2 := (s.l2FetchAll core as_).m.l2 } :=
  foldl_keeps (fun t : State => t = { s with m.l2 := t.m.l2 }) _ (fun t a ht => by rw [t.l2Fetch_frame, ht]) as_ s rfl

/-- What a PREF does by its hint and the room of its L1 (R253). -/
theorem pref_eff (u : State) (is : Iss) : prefMeaning.eff u is =
    if mdNl is.f.md then (u.tokDown is.f.tok (is.on.map (·.t))).l2FetchAll is.g.core (u.prefAccs is)
    else if u.l1Cap is.g.part is.g.core = 0 then u.tokDown is.f.tok (is.on.map (·.t))
    else ((u.tokDown is.f.tok (is.on.map (·.t))).fillTlb is false ((u.prefAccs is).map fun a => a.va.toNat)).request is .pref 0 false
      (u.prefAccs is) [] 0 6 := rfl

/-- The state in which a PREF fetches is beside that in which it stands. -/
theorem State.beside_spent (s : State) (g : IssueGroup) (i : Instr) (tok : Nat) (ts : List TRef) :
    Beside s ((s.counted g i).tokDown tok ts) := (s.beside_counted g i).trans (.of_counts (State.counts_tokDown ..))

theorem State.spent_paths (s : State) (g : IssueGroup) (i : Instr) (tok : Nat) (ts : List TRef) :
    ((s.counted g i).tokDown tok ts).sch.paths = (s.entered g i).sch.paths := by
  exact (congrArg (fun t : State => t.sch.paths) (State.counts_tokDown _ _ _).1).trans (s.counted_entered_paths g i)

theorem pref_far (hi : (∃ h, i = .pref h) ∨ (∃ h, i = .prefLong h)) (hready : s.ready g i = true) (hnl : mdNl (fieldsOf i).md = true) :
    Does s g i (s.l2FetchAll g.core (s.prefAccs (s.iss g i))) := by
  have hfetch := Aside.l2FetchAll g.core (s.prefAccs (s.iss g i))
  have heff : prefMeaning.eff (s.counted g i) (s.iss g i) =
      ((s.counted g i).tokDown (fieldsOf i).tok ((s.acting g i).map (·.t))).l2FetchAll g.core (s.prefAccs (s.iss g i)) := by
    rw [pref_eff, (s.beside_counted g i).blind (Blind.prefAccs _)]
    exact if_pos hnl
  refine does_of_takes hready (pref_takes hi hready) rfl ?_ ?_ (hfetch.paths s) ?_ ?_ ?_
  · exact heff ▸ hfetch.beside (s.beside_spent g i _ _)
  · exact (congrArg (fun t : State => t.sch.paths) heff).trans ((hfetch.paths _).trans (s.spent_paths g i _ _))
  all_goals rw [State.l2FetchAll_frame]

theorem pref_nothing (hi : (∃ h, i = .pref h) ∨ (∃ h, i = .prefLong h)) (hready : s.ready g i = true)
    (hnone : s.prefAccs (s.iss g i) = [] ∨ mdNl (fieldsOf i).md = false ∧ s.l1Cap g.part g.core = 0) : Does s g i s := by
  have heff : prefMeaning.eff (s.counted g i) (s.iss g i) = (s.counted g i).tokDown (fieldsOf i).tok ((s.acting g i).map (·.t)) := by
    have hcap : (s.counted g i).l1Cap g.part g.core = s.l1Cap g.part g.core := by rw [(s.beside_counted g i).eq]; rfl
    rw [pref_eff, (s.beside_counted g i).blind (Blind.prefAccs _)]
    obtain hempty | ⟨hnl, hzero⟩ := hnone
    · rw [hempty]
      split
      · rfl
      · split <;> rfl
    · exact (if_neg (Bool.eq_false_iff.1 hnl)).trans (if_pos (hcap.trans hzero))
  refine does_of_takes hready (pref_takes hi hready) rfl (heff ▸ s.beside_spent g i _ _) ?_ rfl rfl rfl rfl
  exact (congrArg (fun t : State => t.sch.paths) heff).trans (s.spent_paths g i _ _)

theorem pref_does (hi : (∃ h, i = .pref h) ∨ (∃ h, i = .prefLong h)) (hready : s.ready g i = true) (hnl : mdNl (fieldsOf i).md = false)
    (hcap : s.l1Cap g.part g.core ≠ 0) (hne : s.prefAccs (s.iss g i) ≠ []) : ∃ (b : State) (r : Req), Does s g i b ∧
      b = { s with clk.fresh := s.clk.fresh + 1, sch.busy := b.sch.busy, m.reqs := s.m.reqs ++ [r], m.tlb := b.m.tlb, m.l2 := b.m.l2 } ∧
      r.From s.clk.fresh (s.iss g i) .pref 0 false (s.prefAccs (s.iss g i)) [] 0 6 := by
  have hbeside := s.beside_spent g i (fieldsOf i).tok ((s.acting g i).map (·.t))
  have heff : prefMeaning.eff (s.counted g i) (s.iss g i) =
      (((s.counted g i).tokDown (fieldsOf i).tok ((s.acting g i).map (·.t))).fillTlb (s.iss g i) false
        ((s.prefAccs (s.iss g i)).map fun a => a.va.toNat)).request (s.iss g i) .pref 0 false (s.prefAccs (s.iss g i)) [] 0 6 := by
    have hcap' : (s.counted g i).l1Cap g.part g.core = s.l1Cap g.part g.core := by rw [(s.beside_counted g i).eq]; rfl
    rw [pref_eff, (s.beside_counted g i).blind (Blind.prefAccs _)]
    exact (if_neg (Bool.eq_false_iff.1 hnl)).trans (if_neg (hcap'.trans_ne hcap))
  obtain ⟨b, r, hdoes, hb, hfrom⟩ := request_issues hready (pref_takes hi hready) hbeside.paid (s.spent_paths g i _ _)
    (MemDiffer.fillTlb ..) hne heff
  refine ⟨b, r, hdoes, ?_, hfrom⟩
  rw [hb, State.fillTlb_frame, hbeside.teams, hbeside.eq]
  rfl

/-! ## FENCE (R92, R93, R94, R251) -/

theorem exec_fence (hi : (∃ h, i = .fence h) ∨ (∃ h, i = .fenceLong h)) (s : State) : exec i s = runWord i fenceMeaning s := by
  obtain ⟨h, rfl⟩ | ⟨h, rfl⟩ := hi <;> rfl

theorem Aside.acquire (g : IssueGroup) (ls : List Lane) (scope : Nat) : Aside fun s => s.acquire g ls scope := fun t thr ps busy => by
  dsimp only
  unfold State.acquire
  split <;> rfl

/-- Is a lane one of a team that spans a pair of cores? -/
def State.spansPair (s : State) (l : Lane) : Bool := match s.team? l.t.tid with | some t => t.core2.isSome | none => false

/-- The lines that are left behind an acquire (R93). -/
theorem State.acquire_eq (s : State) (g : IssueGroup) (ls : List Lane) (scope : Nat) : s.acquire g ls scope =
    { s with m.l1 := s.m.l1.filter fun x => !(!ls.isEmpty && x.core = g.core && x.part = g.part && x.pin.isNone &&
        dropsLine (scopeRank scope) (scopeRank scope = 0 && ls.any fun l => s.spansPair l) x.line) } := by
  cases hls : ls.isEmpty with
  | true =>
    have hsame : s.acquire g ls scope = s := if_pos hls
    rw [hsame]
    simp
  | false =>
    have hdrop : s.acquire g ls scope = { s with m.l1 := s.m.l1.filter fun x => !(x.core = g.core && x.part = g.part && x.pin.isNone &&
        dropsLine (scopeRank scope) ((ls.any fun l => s.spansPair l) && scopeRank scope = 0) x.line) } := if_neg (by rw [hls]; exact Bool.false_ne_true)
    rw [hdrop]
    simp only [Bool.not_false, Bool.true_and, Bool.and_comm (decide (scopeRank scope = 0))]

/-- What a FENCE that waits for nothing does. -/
theorem fence_does (hi : (∃ h, i = .fence h) ∨ (∃ h, i = .fenceLong h)) (hready : s.ready g i = true)
    (hhold : fenceMeaning.hold (s.entered g i) (s.iss g i) = (s.entered g i, none)) :
    Does s g i (if mdKind (fieldsOf i).md = 1 then s else s.acquire g (s.acting g i) (mdScope (fieldsOf i).md)) := by
  have htakes : Takes s g i (s.entered g i) fun w => fenceMeaning.eff w (s.iss g i) :=
    takes_acts hready (exec_fence hi s) (fun _ _ _ => rfl) (fun _ _ => rfl) hhold (s.acting_alive g i) rfl
  by_cases hkind : mdKind (fieldsOf i).md = 1
  · rw [if_pos hkind]
    refine does_of_aside hready htakes Aside.id ?_ ⟨rfl, rfl, rfl⟩
    have heff : fenceMeaning.eff (s.counted g i) (s.iss g i) = s.counted g i := if_pos hkind
    rw [heff]
    exact .refl _
  · rw [if_neg hkind]
    refine does_of_aside hready htakes (Aside.acquire g _ _) ?_ (by rw [State.acquire_eq]; exact ⟨rfl, rfl, rfl⟩)
    have heff : fenceMeaning.eff (s.counted g i) (s.iss g i) = (s.counted g i).acquire g (s.acting g i) (mdScope (fieldsOf i).md) :=
      if_neg hkind
    rw [heff]
    exact .refl _

/-- A FENCE that waits holds its group. -/
theorem fence_holds (hi : (∃ h, i = .fence h) ∨ (∃ h, i = .fenceLong h)) (hready : s.ready g i = true) {k : Hold}
    (hhold : fenceMeaning.hold (s.entered g i) (s.iss g i) = (s.entered g i, some k)) : exec i s = .next ((s.entered g i).holdIg g k) := by
  have hshut : s.shut g i fenceMeaning = s.entered g i := by
    unfold State.shut fenceMeaning
    simp only [List.filter_false, State.close_nil]
  rw [exec_fence hi, runWord_passes hready fenceMeaning fun _ _ => rfl, hshut, hhold]

/-- How a FENCE waits (R92, R251). -/
theorem fence_hold (u : State) (is : Iss) : fenceMeaning.hold u is = if mdKind is.f.md = 2 then u.acquireHold is
    else u.release92 is.g (is.on.map fun l => (l.t, mdScope is.f.md)) := rfl

theorem fence_acquires (hkind : mdKind (fieldsOf i).md = 2) (hfree : ∀ l ∈ s.acting g i, s.loading l.t = false) :
    fenceMeaning.hold (s.entered g i) (s.iss g i) = (s.entered g i, none) := by
  exact (fence_hold ..).trans ((if_pos hkind).trans (State.acquireHold_none hfree))

theorem fence_awaits_loads (hkind : mdKind (fieldsOf i).md = 2) (hload : ∃ l ∈ s.acting g i, s.loading l.t = true) :
    fenceMeaning.hold (s.entered g i) (s.iss g i) = (s.entered g i, some { loads := (s.acting g i).map (·.t) }) := by
  refine (fence_hold ..).trans ((if_pos hkind).trans ?_)
  unfold State.acquireHold
  exact if_pos (List.any_eq_true.2 hload)

theorem fence_releases (hkind : mdKind (fieldsOf i).md ≠ 2) (hpins : ∀ x ∈ s.m.l1, x.pin = none)
    (hdone : ∀ l ∈ s.acting g i, s.relDone l.t (mdScope (fieldsOf i).md) = true) :
    fenceMeaning.hold (s.entered g i) (s.iss g i) = (s.entered g i, none) := by
  refine (fence_hold ..).trans ((if_neg hkind).trans (State.release92_none hpins ?_))
  intro x hx
  obtain ⟨l, hl, rfl⟩ := List.mem_map.1 hx
  rw [(s.beside_entered g i).paid.relDone]
  exact hdone l hl

theorem fence_awaits_stores (hkind : mdKind (fieldsOf i).md ≠ 2) (hbusy : ∃ l ∈ s.acting g i, s.busyThread l.t = true) :
    fenceMeaning.hold (s.entered g i) (s.iss g i) =
      (s.entered g i, some { rel := (s.acting g i).map fun l => (l.t, mdScope (fieldsOf i).md) }) := by
  refine (fence_hold ..).trans ((if_neg hkind).trans ?_)
  have hany : (((s.iss g i).on.map fun l => (l.t, mdScope (s.iss g i).f.md)).any fun x => (s.entered g i).busyThread x.1) = true := by
    rw [List.any_map]
    exact List.any_eq_true.2 hbusy
  unfold State.release92
  exact if_pos hany

end

/-- Settles O17: LEASE by `lease_does`, PREF by `pref_far`, `pref_nothing` and `pref_does`, FENCE by `fence_does` and `fence_holds`. -/
theorem fencesAndLines : Obligations.FencesAndLines := by
  unfold Obligations.FencesAndLines
  constructor <;> intro s g i hready
  case left =>
    intro is f
    refine ⟨fun hi hok => ⟨lease_nothing hi hready hok, lease_does hi hready hok⟩, fun hi => ⟨fun hnl => ?_, pref_nothing hi hready,
      fun hnl hcap hne => ?_⟩⟩
    · exact ⟨_, pref_far hi hready hnl, State.l2FetchAll_frame ..⟩
    · obtain ⟨b, r, hdoes, hb, hfrom⟩ := pref_does hi hready hnl hcap hne
      have hmap (xs : List Acc) : xs.map (fun x => (x.t, x.va, x.loc)) = (xs.map Acc.untimed).map fun x => (x.t, x.va, x.loc) := by
        rw [List.map_map]; rfl
      refine ⟨b, r, hdoes, hb, hfrom.kind, hfrom.dst, hfrom.tok, ?_⟩
      rw [hmap, hfrom.accs, ← hmap]
  case right =>
    intro hi f ls kept
    refine ⟨fun hkind hfree => ?_, fun hkind hload => ?_, fun hkind hbusy => ?_, fun hkind hpins hdone => ?_⟩
    · have hdoes := fence_does hi hready (fence_acquires hkind hfree)
      rw [if_neg (by rw [hkind]; decide), State.acquire_eq] at hdoes
      exact hdoes
    · exact fence_holds hi hready (fence_awaits_loads hkind hload)
    · exact fence_holds hi hready (fence_awaits_stores hkind hbusy)
    · have hdoes := fence_does hi hready (fence_releases hkind hpins hdone)
      rw [State.acquire_eq] at hdoes
      exact hdoes

end Sys2Proof.Machine

namespace Sys2Proof.Machine

open Sys2Proof

/-! # LDS, STS, ATOMS, CASS, LDC and PRES (O18) -/

/-! ## The passes of the scratchpad (R325) -/

section

variable {core icore quad : Nat}

theorem State.passAt_congr {s u : State} (h : u.sch.passes = s.sch.passes) (n t : Nat) :
    u.passAt core icore quad n t = s.passAt core icore quad n t := by
  induction n generalizing t with
  | zero => rfl
  | succ n ih => simp only [State.passAt, h, ih]

theorem State.bookPasses_dress (thr : Map TRef Thread) (ps : List Path) (busy : Map (Nat × Nat × Nat) Nat) (n t : Nat) (s : State) :
    State.bookPasses core icore quad n t (s.dress thr ps busy) =
      ((State.bookPasses core icore quad n t s).1, (State.bookPasses core icore quad n t s).2.dress thr ps busy) := by
  induction n generalizing t s with
  | zero => rfl
  | succ n ih =>
    have hat := State.passAt_congr (core := core) (icore := icore) (quad := quad) (s := s) (u := s.dress thr ps busy) rfl
    have hpasses : (s.dress thr ps busy).sch.passes = s.sch.passes := rfl
    simp only [State.bookPasses, hat, hpasses]
    exact ih _ { s with sch.passes := s.sch.passes ++ [(core, s.passAt core icore quad (s.sch.passes.length + 1) t, icore, quad)] }

theorem State.bookPasses_frame (n t : Nat) (s : State) : (State.bookPasses core icore quad n t s).2 =
    { s with sch.passes := (State.bookPasses core icore quad n t s).2.sch.passes } := by
  induction n generalizing t s with
  | zero => rfl
  | succ n ih => exact ih ..

/-- Passes are free behind those that are booked. -/
theorem State.bookPasses_behind (n t : Nat) (s : State) (h : ∀ x ∈ s.sch.passes, x.2.1 < t) :
    (State.bookPasses core icore quad n t s).1 = t + n := by
  induction n generalizing t s with
  | zero => rfl
  | succ n ih =>
    have hnone : (s.sch.passes.filter fun x => decide (x.1 = core) && decide (x.2.1 = t)) = [] := List.filter_eq_nil_iff.2 fun x hx => by
      have := h x hx
      simp only [Bool.and_eq_true, decide_eq_true_eq]
      omega
    have hfirst : s.passAt core icore quad (s.sch.passes.length + 1) t = t := by
      rw [State.passAt, hnone]
      rfl
    simp only [State.bookPasses, hfirst]
    rw [ih]
    · omega
    · intro x hx
      obtain hx | hx := List.mem_append.1 hx
      · exact Nat.lt_succ_of_lt (h x hx)
      · rw [List.mem_singleton.1 hx]
        exact Nat.lt_succ_self t

end

section

variable (i : Iss)

/-- The passes that are not over. -/
def State.aired (s : State) : State := { s with sch.passes := s.sch.passes.filter fun (x : Nat × Nat × Nat × Nat) => s.clk.cycle ≤ x.2.1 }

theorem State.scrPasses_none (s : State) (h : i.on.isEmpty = true) : s.scrPasses i = (0, s) := if_pos h

theorem State.scrPasses_some (s : State) (h : i.on.isEmpty = false) : s.scrPasses i =
    ((State.bookPasses (s.scrCore i) i.g.core i.g.quad (passesOf (s.scrWords i)) s.clk.cycle s.aired).1 -
      (s.clk.cycle + passesOf (s.scrWords i)),
      (State.bookPasses (s.scrCore i) i.g.core i.g.quad (passesOf (s.scrWords i)) s.clk.cycle s.aired).2) := by
  have hframe := State.bookPasses_frame (core := s.scrCore i) (icore := i.g.core) (quad := i.g.quad) (passesOf (s.scrWords i)) s.clk.cycle s.aired
  have hcore : s.aired.scrCore i = s.scrCore i := rfl
  have hwords : s.aired.scrWords i = s.scrWords i := rfl
  unfold State.scrPasses
  rw [h]
  simp only [Bool.false_eq_true, if_false]
  rw [← State.aired, hcore, hwords]
  generalize passesOf (s.scrWords i) = n at *
  rw [hframe]
  rfl

theorem State.scrPasses_dress (s : State) (thr : Map TRef Thread) (ps : List Path) (busy : Map (Nat × Nat × Nat) Nat) :
    (s.dress thr ps busy).scrPasses i = ((s.scrPasses i).1, (s.scrPasses i).2.dress thr ps busy) := by
  cases h : i.on.isEmpty with
  | true => rw [State.scrPasses_none i _ h, State.scrPasses_none i _ h]
  | false =>
    have hcore : (s.dress thr ps busy).scrCore i = s.scrCore i := rfl
    have hwords : (s.dress thr ps busy).scrWords i = s.scrWords i := rfl
    have haired : (s.dress thr ps busy).aired = s.aired.dress thr ps busy := rfl
    rw [State.scrPasses_some i _ h, State.scrPasses_some i _ h, hcore, hwords, haired, State.bookPasses_dress]
    generalize passesOf (s.scrWords i) = n
    rfl

theorem State.scrPasses_frame (s : State) : (s.scrPasses i).2 = { s with sch.passes := (s.scrPasses i).2.sch.passes } := by
  cases h : i.on.isEmpty with
  | true => rw [State.scrPasses_none i _ h]
  | false =>
    rw [State.scrPasses_some i _ h]
    generalize passesOf (s.scrWords i) = n
    dsimp only
    rw [State.bookPasses_frame]
    rfl

/-- Where no pass is booked, no issue waits for one. -/
theorem State.scrPasses_free {s : State} (hfree : s.sch.passes = []) : (s.scrPasses i).1 = 0 := by
  cases h : i.on.isEmpty with
  | true => rw [State.scrPasses_none i _ h]
  | false =>
    rw [State.scrPasses_some i _ h, State.bookPasses_behind]
    · exact Nat.sub_self _
    · simp [State.aired, hfree]

/-- The state behind the passes of an issue. -/
def State.passed (s : State) : State := (s.scrPasses i).2

theorem State.passed_dress (s : State) (thr : Map TRef Thread) (ps : List Path) (busy : Map (Nat × Nat × Nat) Nat) :
    (s.dress thr ps busy).passed i = (s.passed i).dress thr ps busy := congrArg Prod.snd (s.scrPasses_dress i thr ps busy)

theorem Aside.passed : Aside fun s => s.passed i := State.passed_dress i

theorem State.passed_frame (s : State) : s.passed i = { s with sch.passes := (s.passed i).sch.passes } := s.scrPasses_frame i

theorem State.scrLat_eq (s : State) : s.scrLat i = (20 + 2 * (passesOf (s.scrWords i) - 1) + (s.scrPasses i).1 + s.pairLat i, s.passed i) := rfl

theorem Blind.scrLat : Blind fun s => (s.scrLat i).1 := fun t thr ps busy => by
  have hwords : (t.dress thr ps busy).scrWords i = t.scrWords i := rfl
  have hpair : (t.dress thr ps busy).pairLat i = t.pairLat i := rfl
  simp only [State.scrLat_eq, State.scrPasses_dress, hwords, hpair]

theorem State.scrLat_free {s : State} (h : s.sch.passes = []) :
    (s.scrLat i).1 = 20 + 2 * (passesOf (s.scrWords i) - 1) + s.pairLat i := by
  rw [State.scrLat_eq, State.scrPasses_free i h, Nat.add_zero]

end

/-! ## Accesses in bounds, aligned and present -/

section

variable {s u : State} {g : IssueGroup} {i : Instr} {is : Iss} {l : Lane}

theorem State.scrFltOf_none (hpos : 0 ≤ u.addrOf is false l)
    (hbound : u.addrOf is false l + (if lineOp is.op then 1 else accLen is.op is.f : Nat) ≤ u.scrSize l.t.tid)
    (hlen : 0 < (if lineOp is.op then 1 else accLen is.op is.f))
    (halign : lineOp is.op = true ∨ u.addrOf is false l % accLen is.op is.f = 0) : u.scrFltOf is l = none := by
  unfold State.scrFltOf State.scrFlt
  rw [if_neg (by omega)]
  obtain hline | hmod := halign
  · rw [if_neg (by simp [hline]), if_neg (by omega)]
  · cases hline : lineOp is.op with
    | true => rw [hline] at hbound; rw [if_neg (by simp), if_neg (by omega)]
    | false =>
      rw [hline] at hbound
      rw [if_neg (by simpa using hmod), if_neg (by omega)]

theorem accLen_pos (op : Nat) (f : Fm) : 0 < accLen op f := by
  unfold accLen szBytes
  split
  · split <;> omega
  · split <;> omega

/-- Where every line is present, no lane parks (R83). -/
theorem State.scrStop_none (h : ∀ l ∈ is.on, u.sabsent l.t.tid (u.scrOff is l) (accLen is.op is.f) = false) : u.scrStop is = (u, []) := by
  have hout : (is.on.filter fun l => u.sabsent l.t.tid (u.scrOff is l) (accLen is.op is.f)) = [] :=
    List.filter_eq_nil_iff.2 fun l hl => by rw [h l hl]; exact Bool.false_ne_true
  unfold State.scrStop State.parkLines
  simp only [hout, List.map_nil]

end

/-! ## Loads -/

theorem Alike.scrOff {s u : State} (h : Alike s u) (is : Iss) (l : Lane) : u.scrOff is l = s.scrOff is l := by
  unfold State.scrOff State.addrOf
  rw [h.intVal]

theorem State.alike_passed (s : State) (is : Iss) : Alike s (s.passed is) := by
  rw [s.passed_frame is]
  exact ⟨rfl, rfl, rfl, rfl, rfl, rfl, rfl, fun _ => rfl⟩

/-- The label of a result of some lanes is the union of theirs. -/
theorem resPend_lbl {u : State} {is : Iss} {lat : Nat} {ls : List Lane} {ws : Lane → List Word} {lbl : Lane → Label} {x : LblWrite}
    (h : x ∈ (u.resPend is lat (ls.map fun l => ⟨l, ws l, lbl l⟩)).lbls) :
    x.lbl = (ls.filter fun l => l.g = x.g).foldl (fun y l => y ||| lbl l) 0 := by
  obtain ⟨k, -, hx⟩ := List.mem_flatMap.1 h
  obtain ⟨g, -, rfl⟩ := List.mem_map.1 hx
  dsimp only
  rw [List.filter_map, List.foldl_map]
  rfl

section

variable {s : State} {g : IssueGroup} {i : Instr} {m : Meaning}

/-- A word of the scratchpad whose accesses are in bounds and aligned, and that parks no lane, completes. -/
theorem scr_takes (hready : s.ready g i = true) (he : exec i s = runWord i m s) (hclose : ∀ t is l, m.closes t is l = false)
    (hflt : ∀ t is l, m.flt t is l = t.scrFltOf is l) (hhold : ∀ t is, m.hold t is = (t, none))
    (hstop : m.stop (s.entered g i) (s.iss g i) = (s.entered g i, []))
    (hok : ∀ l ∈ s.acting g i, s.scrFltOf (s.iss g i) l = none) : Takes s g i (s.entered g i) fun w => m.eff w (s.iss g i) := by
  refine takes_acts hready he hclose (fun l hl => ?_) (hhold ..) (s.acting_alive g i) hstop
  rw [hflt]
  exact hok l hl

/-- The accesses of lanes in bounds, aligned and of present lines neither fault nor park. -/
theorem scr_stop (hpresent : ∀ l ∈ s.acting g i, s.sabsent l.t.tid (s.addrOf (s.iss g i) false l).toNat (accLen (opNo i) (fieldsOf i)) = false) :
    (s.entered g i).scrStop (s.iss g i) = (s.entered g i, []) :=
  State.scrStop_none hpresent

theorem scr_flt (hline : lineOp (opNo i) = false) {l : Lane} (hpos : 0 ≤ s.addrOf (s.iss g i) false l)
    (hbound : s.addrOf (s.iss g i) false l + accLen (opNo i) (fieldsOf i) ≤ s.scrSize l.t.tid)
    (halign : s.addrOf (s.iss g i) false l % accLen (opNo i) (fieldsOf i) = 0) : s.scrFltOf (s.iss g i) l = none := by
  have hop : lineOp (s.iss g i).op = false := hline
  refine State.scrFltOf_none hpos ?_ ?_ (.inr halign)
  · rw [hop]; exact hbound
  · rw [hop]; exact accLen_pos ..

end

/-- The results of LDS (R243). -/
def State.ldsRes (s : State) (i : Iss) : List LaneRes := i.on.map fun l =>
  ⟨l, extendLoad (mdSz i.f.md) (s.sreads l.t.tid (s.scrOff i l) (accLen i.op i.f)),
    s.aluLbl i l ||| s.slabel l.t.tid (s.scrOff i l) (accLen i.op i.f)⟩

/-- What PRES gives a lane (R254): a predicate takes the presence of its line, a register its count too. -/
def State.presWord (s : State) (i : Iss) (l : Lane) : Word :=
  BitVec.ofNat 32 ((if (s.sline l.t.tid (s.scrOff i l / 128)).p then 1 else 0) +
    match Opnd.ofCode i.f.dst with | .pred _ => 0 | _ => 2 * (s.sline l.t.tid (s.scrOff i l / 128)).c)

/-- The results of PRES (R254). -/
def State.presRes (s : State) (i : Iss) : List LaneRes := i.on.map fun l => ⟨l, [s.presWord i l], s.aluLbl i l⟩

/-- The results of LDC (R243). -/
def State.ldcRes (s : State) (st : Stage) (i : Iss) : List LaneRes := i.on.map fun l =>
  ⟨l, extendLoad (mdSz i.f.md) ((st.const.drop (s.scrOff i l)).take (accLen i.op i.f)), s.aluLbl i l ||| st.constLbl⟩

/-- When the results of LDC are there (R243). -/
def State.ldcLat (s : State) (i : Iss) : Nat := 12 + ((dedup ((s.scrWords i).map fun w => w.2)).length - 1)

theorem lds_eff (u : State) (is : Iss) : ldsMeaning.eff u is = (u.passed is).putRes is (u.scrLat is).1 (u.ldsRes is) := by
  have heff : ldsMeaning.eff u is = (u.passed is).putRes is (u.scrLat is).1 ((u.passed is).ldsRes is) := rfl
  have hreads : (u.passed is).sreads = u.sreads := by rw [u.passed_frame is]; rfl
  have hlabel : (u.passed is).slabel = u.slabel := by rw [u.passed_frame is]; rfl
  have halike := u.alike_passed is
  rw [heff]
  unfold State.ldsRes
  simp only [hreads, hlabel, halike.scrOff, halike.aluLbl]

theorem pres_eff (u : State) (is : Iss) : presMeaning.eff u is = u.putRes is (8 + u.pairLat is) (u.presRes is) := by
  unfold presMeaning State.presRes State.presWord
  dsimp only
  cases Opnd.ofCode is.f.dst <;> rfl

theorem ldc_eff {u : State} {is : Iss} {st : Stage} (h : u.stageIg is.g = some st) :
    ldcMeaning.eff u is = u.putRes is (u.ldcLat is) (u.ldcRes st is) := by
  unfold ldcMeaning
  simp only [h]
  rfl

section

variable {s : State} {g : IssueGroup} {i : Instr} {f : Fm}

/-- The accesses of some lanes to the scratchpad are in bounds and aligned (R76, R239). -/
def State.inScratch (s : State) (g : IssueGroup) (i : Instr) : Prop := ∀ l ∈ s.acting g i, 0 ≤ s.addrOf (s.iss g i) false l ∧
  s.addrOf (s.iss g i) false l + accLen (opNo i) (fieldsOf i) ≤ s.scrSize l.t.tid ∧
  s.addrOf (s.iss g i) false l % accLen (opNo i) (fieldsOf i) = 0

/-- The lines that some lanes access are present (R83). -/
def State.linesPresent (s : State) (g : IssueGroup) (i : Instr) : Prop := ∀ l ∈ s.acting g i,
  s.sabsent l.t.tid (s.addrOf (s.iss g i) false l).toNat (accLen (opNo i) (fieldsOf i)) = false

theorem State.inScratch.flt (h : s.inScratch g i) (hline : lineOp (opNo i) = false) : ∀ l ∈ s.acting g i, s.scrFltOf (s.iss g i) l = none :=
  fun l hl => by
    obtain ⟨hpos, hbound, halign⟩ := h l hl
    exact scr_flt hline hpos hbound halign

theorem lds_does {h : LForm} (hi : i = .lds h) (hready : s.ready g i = true) (hin : s.inScratch g i) (hpresent : s.linesPresent g i) :
    ∃ (p : Pend) (u : State), Does s g i ((s.passed (s.iss g i)).addPend p) ∧
      p = u.resPend (s.iss g i) (s.scrLat (s.iss g i)).1 (s.ldsRes (s.iss g i)) ∧ u.clk.cycle = s.clk.cycle := by
  have htakes : Takes s g i (s.entered g i) fun w => ldsMeaning.eff w (s.iss g i) := by
    refine scr_takes hready (by subst hi; rfl) (fun _ _ _ => rfl) (fun _ _ _ => rfl) (fun _ _ => rfl) (scr_stop hpresent) ?_
    exact hin.flt (by subst hi; rfl)
  refine does_of_putRes hready htakes (Aside.passed (s.iss g i)) (Blind.scrLat (s.iss g i)) (rs := fun t => t.ldsRes (s.iss g i))
    (fun _ _ _ _ => rfl) (lds_eff ..) ?_
  rw [State.passed_frame]
  exact ⟨rfl, rfl, rfl⟩

theorem pres_does {h : LForm} (hi : i = .pres h) (hready : s.ready g i = true)
    (hin : ∀ l ∈ s.acting g i, 0 ≤ s.addrOf (s.iss g i) false l ∧ s.addrOf (s.iss g i) false l < s.scrSize l.t.tid) :
    ∃ (p : Pend) (u : State), Does s g i (s.addPend p) ∧
      p = u.resPend (s.iss g i) (8 + s.pairLat (s.iss g i)) (s.presRes (s.iss g i)) ∧ u.clk.cycle = s.clk.cycle := by
  have hop : lineOp (s.iss g i).op = true := by subst hi; rfl
  have htakes : Takes s g i (s.entered g i) fun w => presMeaning.eff w (s.iss g i) := by
    refine scr_takes hready (by subst hi; rfl) (fun _ _ _ => rfl) (fun _ _ _ => rfl) (fun _ _ => rfl) rfl fun l hl => ?_
    obtain ⟨hpos, hbound⟩ := hin l hl
    refine State.scrFltOf_none hpos ?_ ?_ (.inl hop)
    · rw [if_pos hop]; exact hbound
    · rw [if_pos hop]; exact Nat.one_pos
  exact does_of_putRes hready htakes Aside.id (lat := fun t => 8 + t.pairLat (s.iss g i)) (rs := fun t => t.presRes (s.iss g i))
    (fun _ _ _ _ => rfl) (fun _ _ _ _ => rfl) (pres_eff ..) ⟨rfl, rfl, rfl⟩

theorem State.constFlt_none {u : State} {is : Iss} {st : Stage} {l : Lane} (hst : u.stageIg is.g = some st)
    (hindex : u.intVal l.t is.f.lit is.f.a 1 0 true < 65536) (hpos : 0 ≤ u.addrOf is false l)
    (hbound : u.addrOf is false l + accLen is.op is.f ≤ st.const.length) (halign : u.addrOf is false l % accLen is.op is.f = 0) :
    u.constFlt is l = none := by
  have := accLen_pos is.op is.f
  unfold State.constFlt
  simp only [hst]
  rw [if_neg (by omega), if_neg (by simpa using halign), if_neg (by omega)]

theorem ldc_does {h : LForm} (hi : i = .ldc h) {st : Stage} (hst : s.stage? g.part g.ctx g.stage = some st) (hready : s.ready g i = true)
    (hin : ∀ l ∈ s.acting g i, s.intVal l.t (fieldsOf i).lit (fieldsOf i).a 1 0 true < 65536 ∧ 0 ≤ s.addrOf (s.iss g i) false l ∧
      s.addrOf (s.iss g i) false l + accLen (opNo i) (fieldsOf i) ≤ st.const.length ∧
      s.addrOf (s.iss g i) false l % accLen (opNo i) (fieldsOf i) = 0) :
    ∃ (p : Pend) (u : State), Does s g i (s.addPend p) ∧
      p = u.resPend (s.iss g i) (s.ldcLat (s.iss g i)) (s.ldcRes st (s.iss g i)) ∧ u.clk.cycle = s.clk.cycle := by
  have htakes : Takes s g i (s.entered g i) fun w => ldcMeaning.eff w (s.iss g i) := by
    refine takes_acts hready (by subst hi; rfl) (fun _ _ _ => rfl) (fun l hl => ?_) rfl (s.acting_alive g i) rfl
    obtain ⟨hindex, hpos, hbound, halign⟩ := hin l hl
    exact State.constFlt_none (u := s) (is := s.iss g i) hst hindex hpos hbound halign
  have hstage : (s.counted g i).stageIg (s.iss g i).g = some st := by
    rw [(s.beside_counted g i).eq]
    exact hst
  exact does_of_putRes hready htakes Aside.id (lat := fun t => t.ldcLat (s.iss g i)) (rs := fun t => t.ldcRes st (s.iss g i))
    (fun _ _ _ _ => rfl) (fun _ _ _ _ => rfl) (ldc_eff hstage) ⟨rfl, rfl, rfl⟩

end

/-! ## Stores (R114, R242, R245) -/

/-- The bytes of the scratchpad at offsets are as they were, and nothing but scratchpad and its lines differs. -/
def ScrDiffer (s u : State) : Prop := u = { s with r.scr := u.r.scr, r.sline := u.r.sline }

namespace ScrDiffer

theorem trans {s u v : State} (h : ScrDiffer s u) (h' : ScrDiffer u v) : ScrDiffer s v := by
  unfold ScrDiffer at *
  rw [h] at h'
  exact h'

theorem swrites (s : State) (tid off : Nat) (bs : List Byte) : ScrDiffer s (s.swrites tid off bs) :=
  foldl_keeps (ScrDiffer s) (fun s (b : Byte × Nat) => s.setSbyte tid (off + b.2) b.1) (fun _ _ h => h.trans rfl) _ s rfl

theorem sjoin (s : State) (tid off n : Nat) (l : Label) : ScrDiffer s (s.sjoin tid off n l) :=
  foldl_keeps (ScrDiffer s) (fun s k => s.setSline tid k fun x => { x with lbl := x.lbl ||| l }) (fun _ _ h => h.trans rfl) _ s rfl

end ScrDiffer

theorem State.sbyte_swrites_other {s : State} {tid tid' off : Nat} {bs : List Byte} {a : Nat} (h : tid' ≠ tid) :
    (s.swrites tid off bs).sbyte tid' a = s.sbyte tid' a :=
  foldl_keeps (fun t : State => t.sbyte tid' a = s.sbyte tid' a) (fun s (b : Byte × Nat) => s.setSbyte tid (off + b.2) b.1)
    (fun _ _ ht => (mget_mset ..).trans ((if_neg fun e => h (Prod.mk.inj e).1).trans ht)) _ s rfl

theorem State.sbyte_sjoin (s : State) (tid off n : Nat) (l : Label) (tid' a : Nat) : (s.sjoin tid off n l).sbyte tid' a = s.sbyte tid' a := by
  unfold State.sbyte
  rw [State.sjoin_scr]

section

variable {s : State} {is : Iss} {l : Lane} {a : Nat} {bs : List Byte} {lbl : Label}

theorem Aside.stsLane (is : Iss) (l : Lane) (a : Nat) (bs : List Byte) (lbl : Label) : Aside fun s => s.stsLane is l a bs lbl :=
  (Aside.swrites l.t.tid a bs).comp (Aside.sjoin l.t.tid a (accLen is.op is.f) lbl)

theorem ScrDiffer.stsLane (s : State) (is : Iss) (l : Lane) (a : Nat) (bs : List Byte) (lbl : Label) : ScrDiffer s (s.stsLane is l a bs lbl) :=
  (ScrDiffer.swrites ..).trans (ScrDiffer.sjoin ..)

/-- A lane's STS leaves the bytes beside its access. -/
theorem State.sbyte_stsLane_outside {tid off : Nat} (h : l.t.tid = tid → off < a ∨ a + bs.length ≤ off) :
    (s.stsLane is l a bs lbl).sbyte tid off = s.sbyte tid off := by
  unfold State.stsLane
  rw [State.sbyte_sjoin]
  by_cases htid : l.t.tid = tid
  · subst htid
    rw [State.sbyte_swrites, if_neg (by have := h rfl; omega)]
  · exact State.sbyte_swrites_other fun e => htid e.symm

/-- A lane's STS puts its bytes. -/
theorem State.sbyte_stsLane_inside {k : Nat} (h : k < bs.length) : (s.stsLane is l a bs lbl).sbyte l.t.tid (a + k) = bs.getD k 0 := by
  unfold State.stsLane
  rw [State.sbyte_sjoin, State.sbyte_swrites, if_pos (by omega), Nat.add_sub_cancel_left]

end

/-- The stores of some lanes, one by one. -/
def State.stsAll (s : State) (is : Iss) (off : Lane → Nat) (data : Lane → List Byte) (lbl : Lane → Label) (ls : List Lane) : State :=
  ls.foldl (fun s l => s.stsLane is l (off l) (data l) (lbl l)) s

section

variable {s : State} {is : Iss} {off : Lane → Nat} {data : Lane → List Byte} {lbl : Lane → Label} {n : Nat}

theorem ScrDiffer.stsAll (s : State) (is : Iss) (off : Lane → Nat) (data : Lane → List Byte) (lbl : Lane → Label) (ls : List Lane) :
    ScrDiffer s (s.stsAll is off data lbl ls) :=
  foldl_keeps (ScrDiffer s) _ (fun _ _ h => h.trans (ScrDiffer.stsLane ..)) ls s rfl

theorem Aside.stsAll (is : Iss) (off : Lane → Nat) (data : Lane → List Byte) (lbl : Lane → Label) (ls : List Lane) :
    Aside fun s => s.stsAll is off data lbl ls :=
  Aside.foldl (f := fun s (l : Lane) => s.stsLane is l (off l) (data l) (lbl l)) (fun l => Aside.stsLane is l _ _ _) ls

theorem State.sbyte_stsAll_outside (hdata : ∀ l, (data l).length = n) (ls : List Lane) {tid a : Nat}
    (h : ∀ l ∈ ls, l.t.tid = tid → a < off l ∨ off l + n ≤ a) : (s.stsAll is off data lbl ls).sbyte tid a = s.sbyte tid a := by
  induction ls generalizing s with
  | nil => rfl
  | cons l ls ih =>
    refine (ih fun m hm => h m (List.mem_cons_of_mem _ hm)).trans (State.sbyte_stsLane_outside ?_)
    rw [hdata]
    exact h l List.mem_cons_self

/-- The last lane that stores a byte wins (R242). -/
theorem State.sbyte_stsAll_inside (hdata : ∀ l, (data l).length = n) (xs ys : List Lane) {l : Lane} {k : Nat} (hk : k < n)
    (h : ∀ m ∈ ys, m.t.tid = l.t.tid → off l + k < off m ∨ off m + n ≤ off l + k) :
    (s.stsAll is off data lbl (xs ++ l :: ys)).sbyte l.t.tid (off l + k) = (data l).getD k 0 := by
  have hsplit : s.stsAll is off data lbl (xs ++ l :: ys) =
      ((s.stsAll is off data lbl xs).stsLane is l (off l) (data l) (lbl l)).stsAll is off data lbl ys := by
    unfold State.stsAll
    rw [List.foldl_append, List.foldl_cons]
  rw [hsplit, State.sbyte_stsAll_outside hdata ys h]
  exact State.sbyte_stsLane_inside (by rw [hdata]; exact hk)

end

/-! ## Atomics (R248, R249) -/

/-- The bytes that an atomic leaves, if any, enter the scratchpad. -/
def State.swrites? (s : State) (tid off : Nat) : Option (List Byte) → State
  | some bs => s.swrites tid off bs
  | none => s

/-- One lane's atomic: its state, and the result that the lane takes. -/
def State.atomLane (s : State) (is : Iss) (l : Lane) (a : Nat) (lbl : Label) (new : List Byte → Option (List Byte)) : State × LaneRes :=
  let n := accLen is.op is.f
  ((s.swrites? l.t.tid a (new (s.sreads l.t.tid a n))).sjoin l.t.tid a n lbl,
    ⟨l, extendLoad (atomSz is.f) (s.sreads l.t.tid a n), lbl ||| s.slabel l.t.tid a n⟩)

/-- The atomics of some lanes, one by one. -/
def State.atomAll (s : State) (is : Iss) (off : Lane → Nat) (lbl : Lane → Label) (new : Lane → List Byte → Option (List Byte)) :
    List Lane → State × List LaneRes
  | [] => (s, [])
  | l :: ls =>
    let x := s.atomLane is l (off l) (lbl l) (new l)
    let y := x.1.atomAll is off lbl new ls
    (y.1, x.2 :: y.2)

section

variable {s : State} {is : Iss} {l : Lane} {a n : Nat} {lbl : Label} {new : List Byte → Option (List Byte)}

theorem State.atomsLanes_eq (s : State) (is : Iss) (new : Lane → List Byte → Option (List Byte)) :
    s.atomsLanes is new = s.atomAll is (s.scrOff is) (s.aluLbl is) new is.on := by
  have hfold : ∀ (ls : List Lane) (t : State) (rs : List LaneRes), ls.foldl (fun (x : State × List LaneRes) l =>
      ((x.1.atomLane is l (s.scrOff is l) (s.aluLbl is l) (new l)).1, x.2 ++ [(x.1.atomLane is l (s.scrOff is l) (s.aluLbl is l) (new l)).2]))
      (t, rs) = ((t.atomAll is (s.scrOff is) (s.aluLbl is) new ls).1, rs ++ (t.atomAll is (s.scrOff is) (s.aluLbl is) new ls).2) := by
    intro ls
    induction ls with
    | nil => intro t rs; simp [State.atomAll]
    | cons l ls ih => intro t rs; simp only [List.foldl_cons, ih, State.atomAll, List.append_assoc, List.singleton_append]
  have h := hfold is.on s []
  rw [List.nil_append] at h
  refine Eq.trans ?_ h
  unfold State.atomsLanes
  refine congrArg (fun f => List.foldl f (s, []) is.on) (funext fun x => funext fun l => ?_)
  obtain ⟨t, rs⟩ := x
  dsimp only [State.atomLane]
  cases new l (t.sreads l.t.tid (s.scrOff is l) (accLen is.op is.f)) <;> rfl

theorem ScrDiffer.atomLane (s : State) (is : Iss) (l : Lane) (a : Nat) (lbl : Label) (new : List Byte → Option (List Byte)) :
    ScrDiffer s (s.atomLane is l a lbl new).1 := by
  refine ScrDiffer.trans ?_ (ScrDiffer.sjoin ..)
  cases new (s.sreads l.t.tid a (accLen is.op is.f)) with
  | none => rfl
  | some bs => exact ScrDiffer.swrites ..

theorem ScrDiffer.atomAll (is : Iss) (off : Lane → Nat) (lbl : Lane → Label) (new : Lane → List Byte → Option (List Byte)) (ls : List Lane)
    (s : State) : ScrDiffer s (s.atomAll is off lbl new ls).1 := by
  induction ls generalizing s with
  | nil => rfl
  | cons l ls ih => exact (ScrDiffer.atomLane ..).trans (ih _)

theorem State.atomLane_dress (s : State) (thr : Map TRef Thread) (ps : List Path) (busy : Map (Nat × Nat × Nat) Nat) (is : Iss) (l : Lane)
    (a : Nat) (lbl : Label) (new : List Byte → Option (List Byte)) : (s.dress thr ps busy).atomLane is l a lbl new =
      ((s.atomLane is l a lbl new).1.dress thr ps busy, (s.atomLane is l a lbl new).2) := by
  have hreads : (s.dress thr ps busy).sreads = s.sreads := rfl
  have hlabel : (s.dress thr ps busy).slabel = s.slabel := rfl
  have hwrites (o : Option (List Byte)) : (s.dress thr ps busy).swrites? l.t.tid a o = (s.swrites? l.t.tid a o).dress thr ps busy := by
    cases o with
    | none => rfl
    | some bs => exact Aside.swrites l.t.tid a bs s thr ps busy
  have hjoin := Aside.sjoin l.t.tid a (accLen is.op is.f) lbl
  unfold State.atomLane
  dsimp only
  rw [hreads, hlabel, hwrites]
  exact congrArg (fun t => (t, _)) (hjoin _ thr ps busy)

theorem State.atomAll_dress (thr : Map TRef Thread) (ps : List Path) (busy : Map (Nat × Nat × Nat) Nat) (is : Iss) (off : Lane → Nat)
    (lbl : Lane → Label) (new : Lane → List Byte → Option (List Byte)) (ls : List Lane) (s : State) :
    (s.dress thr ps busy).atomAll is off lbl new ls =
      ((s.atomAll is off lbl new ls).1.dress thr ps busy, (s.atomAll is off lbl new ls).2) := by
  induction ls generalizing s with
  | nil => rfl
  | cons l ls ih => simp only [State.atomAll, State.atomLane_dress, ih]

theorem State.sbyte_atomLane_outside {tid off : Nat} (hnew : ∀ old bs, new old = some bs → bs.length = accLen is.op is.f)
    (h : l.t.tid = tid → off < a ∨ a + accLen is.op is.f ≤ off) : (s.atomLane is l a lbl new).1.sbyte tid off = s.sbyte tid off := by
  refine (State.sbyte_sjoin ..).trans ?_
  cases hx : new (s.sreads l.t.tid a (accLen is.op is.f)) with
  | none => rfl
  | some bs =>
    have hlen := hnew _ _ hx
    show (s.swrites l.t.tid a bs).sbyte tid off = _
    by_cases htid : l.t.tid = tid
    · subst htid
      rw [State.sbyte_swrites, if_neg (by have := h rfl; omega)]
    · exact State.sbyte_swrites_other fun e => htid e.symm

theorem State.sreads_getD (s : State) (tid a : Nat) {n k : Nat} (h : k < n) : (s.sreads tid a n).getD k 0 = s.sbyte tid (a + k) := by
  simp [State.sreads, List.getD_eq_getElem?_getD, h]

/-- A lane's atomic puts its new bytes, or leaves the old ones. -/
theorem State.sbyte_atomLane_inside {k : Nat} (hnew : ∀ old bs, new old = some bs → bs.length = accLen is.op is.f) (hk : k < accLen is.op is.f) :
    (s.atomLane is l a lbl new).1.sbyte l.t.tid (a + k) =
      ((new (s.sreads l.t.tid a (accLen is.op is.f))).getD (s.sreads l.t.tid a (accLen is.op is.f))).getD k 0 := by
  refine (State.sbyte_sjoin ..).trans ?_
  cases hx : new (s.sreads l.t.tid a (accLen is.op is.f)) with
  | none => exact (s.sreads_getD l.t.tid a hk).symm
  | some bs =>
    have hlen := hnew _ _ hx
    show (s.swrites l.t.tid a bs).sbyte l.t.tid (a + k) = _
    rw [State.sbyte_swrites, if_pos (by omega), Nat.add_sub_cancel_left]
    rfl

theorem State.sbyte_atomAll_outside {off : Lane → Nat} {lbl : Lane → Label} {new : Lane → List Byte → Option (List Byte)}
    (hnew : ∀ l old bs, new l old = some bs → bs.length = accLen is.op is.f) (ls : List Lane) {tid a : Nat}
    (h : ∀ l ∈ ls, l.t.tid = tid → a < off l ∨ off l + accLen is.op is.f ≤ a) :
    (s.atomAll is off lbl new ls).1.sbyte tid a = s.sbyte tid a := by
  induction ls generalizing s with
  | nil => rfl
  | cons l ls ih =>
    exact (ih fun m hm => h m (List.mem_cons_of_mem _ hm)).trans
      (State.sbyte_atomLane_outside (hnew l) (h l List.mem_cons_self))

/-- The lanes of the results are the lanes that act. -/
theorem State.atomAll_lanes (is : Iss) (off : Lane → Nat) (lbl : Lane → Label) (new : Lane → List Byte → Option (List Byte)) (ls : List Lane)
    (s : State) : (s.atomAll is off lbl new ls).2.map (·.l) = ls := by
  induction ls generalizing s with
  | nil => rfl
  | cons l ls ih => exact congrArg (l :: ·) (ih _)

end

/-! ## The words of stores and atomics -/

section

variable {s : State} {g : IssueGroup} {i : Instr}

/-- The state behind the stores of an STS. -/
def State.stored (s : State) (is : Iss) : State := (s.passed is).stsAll is (s.scrOff is) (s.dataBytes is is.f.b (accLen is.op is.f)) (s.aluLbl is) is.on

theorem sts_eff (u : State) (is : Iss) : stsMeaning.eff u is = (u.stored is).tokDown is.f.tok (is.on.map (·.t)) := rfl

theorem exec_sts (hi : (∃ h, i = .sts h) ∨ (∃ h, i = .stsLong h)) (s : State) : exec i s = runWord i stsMeaning s := by
  obtain ⟨h, rfl⟩ | ⟨h, rfl⟩ := hi <;> rfl

theorem sts_does (hi : (∃ h, i = .sts h) ∨ (∃ h, i = .stsLong h)) (hready : s.ready g i = true) (hin : s.inScratch g i) :
    Does s g i (s.stored (s.iss g i)) := by
  have hbeside := s.beside_counted g i
  have halike := hbeside.alike
  have htakes : Takes s g i (s.entered g i) fun w => stsMeaning.eff w (s.iss g i) := by
    refine scr_takes hready (exec_sts hi s) (fun _ _ _ => rfl) (fun _ _ _ => rfl) (fun _ _ => rfl) rfl ?_
    exact hin.flt (by obtain ⟨h, rfl⟩ | ⟨h, rfl⟩ := hi <;> rfl)
  have hoff : (s.counted g i).scrOff (s.iss g i) = s.scrOff (s.iss g i) := funext fun l => halike.scrOff _ l
  have hlbl : (s.counted g i).aluLbl (s.iss g i) = s.aluLbl (s.iss g i) := funext fun l => halike.aluLbl _ l
  refine does_of_aside hready htakes (f := fun t => (t.passed (s.iss g i)).stsAll (s.iss g i) (s.scrOff (s.iss g i))
    (s.dataBytes (s.iss g i) (fieldsOf i).b (accLen (opNo i) (fieldsOf i))) (s.aluLbl (s.iss g i)) (s.acting g i))
    ((Aside.passed _).comp (Aside.stsAll _ _ _ _ _)) ?_ ?_
  · rw [sts_eff]
    unfold State.stored
    rw [hoff, hlbl, halike.dataBytes]
    exact State.counts_tokDown ..
  · rw [ScrDiffer.stsAll, State.passed_frame]
    exact ⟨rfl, rfl, rfl⟩

/-- A word that is one atomic of each lane in the scratchpad. -/
structure AtomWord (s : State) (g : IssueGroup) (i : Instr) (m : Meaning) (new : State → Lane → List Byte → Option (List Byte)) : Prop where
  exec : exec i s = runWord i m s
  line : lineOp (opNo i) = false
  closes : ∀ t is l, m.closes t is l = false
  flt : ∀ t is l, m.flt t is l = t.scrFltOf is l
  hold : ∀ t is, m.hold t is = (t, none)
  stop : ∀ t is, m.stop t is = t.scrStop is
  eff : ∀ t, m.eff t (s.iss g i) = ((t.passed (s.iss g i)).atomsLanes (s.iss g i) (new (t.passed (s.iss g i)))).1.putRes (s.iss g i)
    (t.scrLat (s.iss g i)).1 ((t.passed (s.iss g i)).atomsLanes (s.iss g i) (new (t.passed (s.iss g i)))).2
  same : ∀ u, Alike s u → new u = new s
  length : ∀ l old bs, new s l old = some bs → bs.length = accLen (opNo i) (fieldsOf i)

/-- The state behind some atomics, and their results. -/
def State.atomised (s : State) (is : Iss) (new : Lane → List Byte → Option (List Byte)) : State × List LaneRes :=
  (s.passed is).atomAll is (s.scrOff is) (s.aluLbl is) new is.on

theorem AtomWord.does {m : Meaning} {new : State → Lane → List Byte → Option (List Byte)} (hw : AtomWord s g i m new)
    (hready : s.ready g i = true) (hin : s.inScratch g i) (hpresent : s.linesPresent g i) :
    ∃ (p : Pend) (u : State), Does s g i ((s.atomised (s.iss g i) (new s)).1.addPend p) ∧
      p = u.resPend (s.iss g i) (s.scrLat (s.iss g i)).1 (s.atomised (s.iss g i) (new s)).2 ∧ u.clk.cycle = s.clk.cycle := by
  have htakes : Takes s g i (s.entered g i) fun w => m.eff w (s.iss g i) :=
    scr_takes hready hw.exec hw.closes hw.flt hw.hold ((hw.stop ..).trans (scr_stop hpresent)) (hin.flt hw.line)
  have hdress (t : State) (thr : Map TRef Thread) (ps : List Path) (busy : Map (Nat × Nat × Nat) Nat) :
      ((t.dress thr ps busy).passed (s.iss g i)).atomAll (s.iss g i) (s.scrOff (s.iss g i)) (s.aluLbl (s.iss g i)) (new s) (s.acting g i) =
      (((t.passed (s.iss g i)).atomAll (s.iss g i) (s.scrOff (s.iss g i)) (s.aluLbl (s.iss g i)) (new s) (s.acting g i)).1.dress thr ps busy,
        ((t.passed (s.iss g i)).atomAll (s.iss g i) (s.scrOff (s.iss g i)) (s.aluLbl (s.iss g i)) (new s) (s.acting g i)).2) := by
    rw [State.passed_dress, State.atomAll_dress]
  refine does_of_putRes hready htakes
    (f := fun t => ((t.passed (s.iss g i)).atomAll (s.iss g i) (s.scrOff (s.iss g i)) (s.aluLbl (s.iss g i)) (new s) (s.acting g i)).1)
    (rs := fun t => ((t.passed (s.iss g i)).atomAll (s.iss g i) (s.scrOff (s.iss g i)) (s.aluLbl (s.iss g i)) (new s) (s.acting g i)).2)
    (fun t thr ps busy => (congrArg Prod.fst (hdress t thr ps busy) :)) (Blind.scrLat (s.iss g i))
    (fun t thr ps busy => (congrArg Prod.snd (hdress t thr ps busy) :)) ?_ ?_
  · have halike : Alike s ((s.counted g i).passed (s.iss g i)) := (s.beside_counted g i).alike.trans (State.alike_passed ..)
    have hoff : ((s.counted g i).passed (s.iss g i)).scrOff (s.iss g i) = s.scrOff (s.iss g i) := funext fun l => halike.scrOff _ l
    have hlbl : ((s.counted g i).passed (s.iss g i)).aluLbl (s.iss g i) = s.aluLbl (s.iss g i) := funext fun l => halike.aluLbl _ l
    rw [hw.eff, State.atomsLanes_eq, hoff, hlbl, hw.same _ halike]
    rfl
  · rw [ScrDiffer.atomAll, State.passed_frame]
    exact ⟨rfl, rfl, rfl⟩

theorem length_natLE (n x : Nat) : (natLE n x).length = n := by
  induction n generalizing x with
  | zero => rfl
  | succ n ih => exact congrArg (· + 1) (ih _)

theorem State.length_atomBytes (s : State) (is : Iss) (c : Code) (l : Lane) (h : atomOp is.op = true) :
    (s.atomBytes is c l).length = accLen is.op is.f := by
  unfold State.atomBytes accLen
  rw [length_natLE, if_pos h]
  by_cases hw : mdAW is.f.md = 1
  · rw [if_pos hw, if_pos hw]
  · rw [if_neg hw, if_neg hw]

/-- What ATOMS makes of the bytes at a lane's offset (R248). -/
def State.atomsNew (s : State) (is : Iss) (l : Lane) (old : List Byte) : Option (List Byte) :=
  some (natLE (accLen is.op is.f) (atomNew (mdAop is.f.md) (mdAW is.f.md = 1) (mdU is.f.md) (leNat old) (leNat (s.atomBytes is is.f.b l))))

/-- What CASS makes of the bytes at a lane's offset (R249). -/
def State.cassNew (s : State) (is : Iss) (l : Lane) (old : List Byte) : Option (List Byte) :=
  if old = s.atomBytes is is.f.b l then some (s.atomBytes is is.f.c l) else none

theorem atomWord_atoms {h : LForm} (hi : i = .atoms h) : AtomWord s g i atomsMeaning fun t => t.atomsNew (s.iss g i) where
  exec := by subst hi; rfl
  line := by subst hi; rfl
  closes _ _ _ := rfl
  flt _ _ _ := rfl
  hold _ _ := rfl
  stop _ _ := rfl
  eff _ := rfl
  same u hu := by funext l old; unfold State.atomsNew; rw [hu.atomBytes]
  length l old bs hbs := by rw [← Option.some.inj hbs]; exact length_natLE ..

theorem atomWord_cass {h : LForm} (hi : i = .cass h) : AtomWord s g i cassMeaning fun t => t.cassNew (s.iss g i) where
  exec := by subst hi; rfl
  line := by subst hi; rfl
  closes _ _ _ := rfl
  flt _ _ _ := rfl
  hold _ _ := rfl
  stop _ _ := rfl
  eff _ := rfl
  same u hu := by funext l old; unfold State.cassNew; rw [hu.atomBytes, hu.atomBytes]
  length l old bs hbs := by
    obtain ⟨-, hbs⟩ := Option.ite_none_right_eq_some.1 hbs
    rw [← Option.some.inj hbs]
    exact State.length_atomBytes _ _ _ _ (by subst hi; rfl)

end

/-- A result of some lanes: when it is there, what it writes, and its tokens. -/
def Pend.Of (p : Pend) (due : Nat) (tiles : List Tile) (tok : Nat) (ls : List Lane) (ws : Lane → List Word) : Prop :=
  p.due = due ∧ p.writes = resWrites tiles (ls.map fun l => ⟨l, ws l, 0⟩) ∧ p.toks = tokPairs tok ls ∧ p.flags = [] ∧ p.links = []

theorem resPend_of {s u : State} (hu : u.clk.cycle = s.clk.cycle) (is : Iss) (lat : Nat) (ls : List Lane) (ws : Lane → List Word)
    (lbl : Lane → Label) : (u.resPend is lat (ls.map fun l => ⟨l, ws l, lbl l⟩)).Of (s.clk.cycle + lat) (Fm.writes is.cls is.op is.f) is.f.tok
      ls ws :=
  ⟨congrArg (· + lat) hu, resPend_writes .., resPend_toks .., rfl, rfl⟩

section

variable {s : State} {g : IssueGroup} {i : Instr} {h : LForm}

theorem lds_result (hi : i = .lds h) (hready : s.ready g i = true) (hin : s.inScratch g i) (hpresent : s.linesPresent g i) :
    ∃ p : Pend, Does s g i { s with sch.pend := s.sch.pend ++ [p], sch.passes := (s.scrLat (s.iss g i)).2.sch.passes } ∧
      p.Of (s.clk.cycle + (s.scrLat (s.iss g i)).1) (Fm.writes 3 2 (fieldsOf i)) (fieldsOf i).tok (s.acting g i) (fun l =>
        extendLoad (mdSz (fieldsOf i).md) (s.sreads l.t.tid (s.scrOff (s.iss g i) l) (accLen (opNo i) (fieldsOf i)))) ∧
      ∀ x ∈ p.lbls, x.lbl = ((s.acting g i).filter fun l => l.g = x.g).foldl (fun y l =>
        y ||| (s.aluLbl (s.iss g i) l ||| s.slabel l.t.tid (s.scrOff (s.iss g i) l) (accLen (opNo i) (fieldsOf i)))) 0 := by
  obtain ⟨p, u, hdoes, rfl, hu⟩ := lds_does hi hready hin hpresent
  have hcls : Fm.writes 3 2 (fieldsOf i) = Fm.writes (s.iss g i).cls (s.iss g i).op (s.iss g i).f := by subst hi; rfl
  rw [hcls]
  rw [State.passed_frame] at hdoes
  exact ⟨_, hdoes, resPend_of hu .., fun x hx => resPend_lbl hx⟩

theorem pres_result (hi : i = .pres h) (hready : s.ready g i = true)
    (hin : ∀ l ∈ s.acting g i, 0 ≤ s.addrOf (s.iss g i) false l ∧ s.addrOf (s.iss g i) false l < s.scrSize l.t.tid) :
    ∃ p : Pend, Does s g i (s.addPend p) ∧
      p.Of (s.clk.cycle + (8 + s.pairLat (s.iss g i))) (Fm.writes 3 (opNo i) (fieldsOf i)) (fieldsOf i).tok (s.acting g i) (fun l =>
        [s.presWord (s.iss g i) l]) := by
  obtain ⟨p, u, hdoes, rfl, hu⟩ := pres_does hi hready hin
  have hcls : Fm.writes 3 (opNo i) (fieldsOf i) = Fm.writes (s.iss g i).cls (s.iss g i).op (s.iss g i).f := by subst hi; rfl
  rw [hcls]
  exact ⟨_, hdoes, resPend_of hu ..⟩

theorem ldc_result (hi : i = .ldc h) {st : Stage} (hst : s.stage? g.part g.ctx g.stage = some st) (hready : s.ready g i = true)
    (hin : ∀ l ∈ s.acting g i, s.intVal l.t (fieldsOf i).lit (fieldsOf i).a 1 0 true < 65536 ∧ 0 ≤ s.addrOf (s.iss g i) false l ∧
      s.addrOf (s.iss g i) false l + accLen (opNo i) (fieldsOf i) ≤ st.const.length ∧
      s.addrOf (s.iss g i) false l % accLen (opNo i) (fieldsOf i) = 0) :
    ∃ p : Pend, Does s g i (s.addPend p) ∧
      p.Of (s.clk.cycle + s.ldcLat (s.iss g i)) (Fm.writes 3 4 (fieldsOf i)) (fieldsOf i).tok (s.acting g i) (fun l =>
        extendLoad (mdSz (fieldsOf i).md) ((st.const.drop (s.scrOff (s.iss g i) l)).take (accLen (opNo i) (fieldsOf i)))) := by
  obtain ⟨p, u, hdoes, rfl, hu⟩ := ldc_does hi hst hready hin
  have hcls : Fm.writes 3 4 (fieldsOf i) = Fm.writes (s.iss g i).cls (s.iss g i).op (s.iss g i).f := by subst hi; rfl
  rw [hcls]
  exact ⟨_, hdoes, resPend_of hu ..⟩

/-- The words of constants that an issue reads. -/
theorem State.ldcLat_eq (s : State) (is : Iss) : s.ldcLat is = 12 + ((dedup (is.on.flatMap fun l =>
    (List.range ((accLen is.op is.f + 3) / 4)).map fun k => s.scrOff is l / 4 + k)).length - 1) := by
  unfold State.ldcLat State.scrWords
  simp only [List.map_flatMap, List.map_map]
  rfl

/-- STS changes the bytes of its lanes only, and the last lane wins. -/
theorem sts_result (hi : (∃ h, i = .sts h) ∨ (∃ h, i = .stsLong h)) (hready : s.ready g i = true) (hin : s.inScratch g i) :
    ∃ b, Does s g i b ∧ b = { s with r.scr := b.r.scr, r.sline := b.r.sline, sch.passes := (s.passed (s.iss g i)).sch.passes } ∧
      (∀ tid off, (∀ l ∈ s.acting g i, l.t.tid = tid → off < s.scrOff (s.iss g i) l ∨
        s.scrOff (s.iss g i) l + accLen (opNo i) (fieldsOf i) ≤ off) → b.sbyte tid off = s.sbyte tid off) ∧
      ∀ xs l ys k, s.acting g i = xs ++ l :: ys → k < accLen (opNo i) (fieldsOf i) →
        (∀ m ∈ ys, m.t.tid = l.t.tid → s.scrOff (s.iss g i) l + k < s.scrOff (s.iss g i) m ∨
          s.scrOff (s.iss g i) m + accLen (opNo i) (fieldsOf i) ≤ s.scrOff (s.iss g i) l + k) →
        b.sbyte l.t.tid (s.scrOff (s.iss g i) l + k) =
          (s.dataBytes (s.iss g i) (fieldsOf i).b (accLen (opNo i) (fieldsOf i)) l).getD k 0 := by
  have hpassed := s.passed_frame (s.iss g i)
  have hdata (l : Lane) : (s.dataBytes (s.iss g i) (fieldsOf i).b (accLen (opNo i) (fieldsOf i)) l).length = accLen (opNo i) (fieldsOf i) :=
    length_natLE ..
  have hdiffer : ScrDiffer (s.passed (s.iss g i)) (s.stored (s.iss g i)) := ScrDiffer.stsAll ..
  refine ⟨_, sts_does hi hready hin, ?_, fun tid off hout => ?_, fun xs l ys k hsplit hk hlast => ?_⟩
  · rw [hpassed] at hdiffer
    exact hdiffer
  · refine (State.sbyte_stsAll_outside hdata (s.acting g i) hout).trans ?_
    rw [hpassed]
    rfl
  · unfold State.stored
    rw [show (s.iss g i).on = xs ++ l :: ys from hsplit]
    exact State.sbyte_stsAll_inside hdata xs ys hk hlast

/-- A scratchpad atomic gives the old bytes, and leaves the new ones. -/
theorem AtomWord.result {m : Meaning} {new : State → Lane → List Byte → Option (List Byte)} (hw : AtomWord s g i m new) (hcls : i.cls = 3)
    (hready : s.ready g i = true) (hin : s.inScratch g i) (hpresent : s.linesPresent g i) :
    ∃ (b : State) (p : Pend), Does s g i b ∧
      b = { s with r.scr := b.r.scr, r.sline := b.r.sline, sch.pend := s.sch.pend ++ [p], sch.passes := (s.passed (s.iss g i)).sch.passes } ∧
      (∀ tid off, (∀ l ∈ s.acting g i, l.t.tid = tid → off < s.scrOff (s.iss g i) l ∨
        s.scrOff (s.iss g i) l + accLen (opNo i) (fieldsOf i) ≤ off) → b.sbyte tid off = s.sbyte tid off) ∧
      p.due = s.clk.cycle + (s.scrLat (s.iss g i)).1 ∧ p.toks = tokPairs (fieldsOf i).tok (s.acting g i) ∧
      ∀ l, s.acting g i = [l] →
        let old := s.sreads l.t.tid (s.scrOff (s.iss g i) l) (accLen (opNo i) (fieldsOf i))
        p.writes = resWrites (Fm.writes 3 (opNo i) (fieldsOf i)) [⟨l, extendLoad (atomSz (fieldsOf i)) old, 0⟩] ∧
        ∀ k, k < accLen (opNo i) (fieldsOf i) →
          b.sbyte l.t.tid (s.scrOff (s.iss g i) l + k) = ((new s l old).getD old).getD k 0 := by
  obtain ⟨p, u, hdoes, hp, hu⟩ := hw.does hready hin hpresent
  have hpassed := s.passed_frame (s.iss g i)
  have hdiffer : ScrDiffer (s.passed (s.iss g i)) (s.atomised (s.iss g i) (new s)).1 := ScrDiffer.atomAll ..
  refine ⟨_, p, hdoes, ?_, fun tid off hout => ?_, ?_, ?_, fun l hone => ⟨?_, fun k hk => ?_⟩⟩
  · unfold State.addPend
    rw [hpassed] at hdiffer
    rw [hdiffer]
  · refine (State.sbyte_atomAll_outside (is := s.iss g i) (s := s.passed (s.iss g i)) hw.length (s.acting g i) hout).trans ?_
    rw [hpassed]
    rfl
  · rw [hp]
    exact congrArg (· + (s.scrLat (s.iss g i)).1) hu
  · rw [hp]
    exact congrArg (tokPairs _) (State.atomAll_lanes ..)
  · have hreads : (s.passed (s.iss g i)).sreads = s.sreads := by rw [hpassed]; rfl
    rw [hp, ← hcls, ← hreads]
    unfold State.atomised
    rw [show (s.iss g i).on = [l] from hone]
    exact resWrites_congr _ rfl
  · have hreads : (s.passed (s.iss g i)).sreads = s.sreads := by rw [hpassed]; rfl
    have hinside := State.sbyte_atomLane_inside (s := s.passed (s.iss g i)) (is := s.iss g i) (l := l) (a := s.scrOff (s.iss g i) l)
      (lbl := s.aluLbl (s.iss g i) l) (hw.length l) hk
    rw [hreads] at hinside
    unfold State.atomised
    rw [show (s.iss g i).on = [l] from hone]
    exact hinside

end

/-- Settles O18: `lds_result`, `pres_result` and `ldc_result` give the loads, `sts_result` the stores, `AtomWord.result` the atomics. -/
theorem scratchAccesses : Obligations.ScratchAccesses := by
  unfold Obligations.ScratchAccesses
  constructor <;> intro s g i hready <;> dsimp only
  case left =>
    refine ⟨fun h hi hok => ?_, fun h hi hok => ?_, fun h st hi hst hok => ?_⟩
    · have hin : s.inScratch g i := fun l hl => by
        obtain ⟨hpos, hbound, halign, -⟩ := hok l hl
        exact ⟨hpos, hbound, halign⟩
      obtain ⟨p, hdoes, ⟨hdue, hwrites, htoks, hflags, hlinks⟩, hlbls⟩ := lds_result hi hready hin fun l hl => by
        obtain ⟨-, -, -, hpresent⟩ := hok l hl
        exact hpresent
      exact ⟨p, hdoes, hdue, State.scrLat_free _, hwrites, htoks, hflags, hlinks, hlbls⟩
    · obtain ⟨p, hdoes, hdue, hwrites, htoks, hflags, hlinks⟩ := pres_result hi hready hok
      exact ⟨p, hdoes, hdue, hwrites, htoks, hflags, hlinks⟩
    · obtain ⟨p, hdoes, hdue, hwrites, htoks, hflags, hlinks⟩ := ldc_result hi hst hready hok
      rw [State.ldcLat_eq] at hdue
      exact ⟨p, hdoes, hdue, hwrites, htoks, hflags, hlinks⟩
  case right =>
    refine ⟨fun hin hi => sts_result hi hready hin, fun hok new hnew => ?_⟩
    have hin : s.inScratch g i := fun l hl => by
      obtain ⟨hpos, hbound, halign, -⟩ := hok l hl
      exact ⟨hpos, hbound, halign⟩
    have hpresent : s.linesPresent g i := fun l hl => by
      obtain ⟨-, -, -, hpresent⟩ := hok l hl
      exact hpresent
    obtain ⟨h, hi, rfl⟩ | ⟨h, hi, rfl⟩ := hnew
    · exact (atomWord_atoms hi).result (by subst hi; rfl) hready hin hpresent
    · exact (atomWord_cass hi).result (by subst hi; rfl) hready hin hpresent

end Sys2Proof.Machine

namespace Sys2Proof.Machine

open Sys2Proof

/-! # COPY and COPYM (O20) -/

/-- COPYM of the record at offset 0, the value of v1. -/
def copymV1 : Instr := .copym ⟨0, 0xFF, 1, 0xE0, 0⟩

/-- A record that sends 128 bytes from 0x1000 of the scratchpad to 0x7F80 of the issuing team's own. -/
def copyToSelf : List Byte := natLE 8 0x1000 ++ natLE 8 0x7F80 ++ natLE 4 127 ++ natLE 8 0 ++ natLE 4 0x10005

/-- One thread of one team stands at the word. -/
def copymStands : State := (State.reset.withClause 5 (encode copymV1)).swrites 1 0 copyToSelf

/-- The machine's table of teams names the team twice, which no step of the machine makes. The entry of COPYM sets CLEAN to 0 in the team
(R213), and with it leaves one of the two entries (`mset`): the team receives the copy once, where the statement counts its entries at
issue. -/
def namedTwice : State := { copymStands with sch.teams := copymStands.sch.teams ++ copymStands.sch.teams }

/-- The issue group at the word. -/
def copymGroup : IssueGroup :=
  { id := 1, core := 0, quad := 0, part := 0, ctx := 0, stage := 0, cls := 5, hdr := 0, pc := 4, endPc := 8, yld := false, formed := 0,
    notBefore := 0, chk := [], hold := none, setAt := some 0 }

/-- Its one lane. -/
def copymLane : Lane := ⟨⟨1, 0, 0⟩, 1, 0, 0⟩

/-- The lane's group. -/
def copymProducer : Group := { producer := true, roleid := 0, rows := 16, core := 0, quad := 0, half := 0, row := 0 }

theorem namedTwice_stands : namedTwice.ready copymGroup copymV1 = true ∧ namedTwice.acting copymGroup copymV1 = [copymLane] ∧
    namedTwice.group? copymLane.g = some copymProducer := by
  decide +kernel

theorem namedTwice_record : namedTwice.recOff (namedTwice.iss copymGroup copymV1) copymLane = 0 ∧ 0 + 32 ≤ namedTwice.scrSize 1 ∧
    namedTwice.sabsent 1 0 32 = false ∧ namedTwice.sreads 1 0 32 = copyToSelf := by
  decide +kernel

theorem namedTwice_dests : namedTwice.copymDests 1 0 (copyRec copyToSelf) = [1, 1] := by
  decide +kernel

theorem namedTwice_accepts : (copyRec copyToSelf).dkind ≠ 2 ∧ namedTwice.copyBad 1 (copyRec copyToSelf) true = false ∧ namedTwice.unfinished copymLane.t < 8 ∧
    (∀ k ∈ (copyRec copyToSelf).lines, (namedTwice.sline 1 k).c < 7) ∧ namedTwice.coRoom 0 = true := by
  decide +kernel

/-- The receiving teams of the copies that a word leaves under way. -/
def copyDests : Host.Outcome State Fault Refusal → List (List Nat)
  | .next t => t.e.copies.map fun c => c.dests
  | _ => []

theorem copyDests_namedTwice : copyDests (exec copymV1 namedTwice) = [[1]] := by
  decide +kernel

/-- Refutes O20: the statement counts the receiving teams of a COPYM at issue, in any state; in `namedTwice` the entry of the word leaves
one of the two entries that name the team, so that the copy has one receiver and not two. -/
theorem not_copiesAccepted : ¬ Obligations.CopiesAccepted := by
  unfold Obligations.CopiesAccepted
  intro h
  obtain ⟨hready, hacting, hgroup⟩ := namedTwice_stands
  obtain ⟨hoff, hbound, hpresent, hbytes⟩ := namedTwice_record
  obtain ⟨hkind, hgood, hroom, hlines, hcore⟩ := namedTwice_accepts
  have h := h namedTwice copymGroup copymV1 true copymLane copymProducer (.inr ⟨rfl, .inl ⟨_, rfl⟩⟩) hready rfl hacting hgroup rfl
  dsimp only at h
  rw [hoff, show copymLane.t.tid = 1 from rfl, hbytes] at h
  simp only [if_true] at h
  rw [show copymGroup.core = 0 from rfl, namedTwice_dests, if_neg hkind] at h
  obtain ⟨b, c, ⟨t, hexec, hissued, -⟩, hb, -, -, -, -, -, hdests, -⟩ := h trivial hbound hpresent hgood (.inl hroom)
    (fun d hd => by
      obtain rfl : d = 1 := by simpa using hd
      exact hlines) hcore
  have hcopies : t.e.copies = [c] := by
    rw [hissued.engines, hb]
    rfl
  have hdone := copyDests_namedTwice
  rw [hexec] at hdone
  simp [copyDests, hcopies, hdests] at hdone

end Sys2Proof.Machine

namespace Sys2Proof.Machine

open Sys2Proof

/-! # Accesses perform and resolvable faults settle (O43) -/

/-! ## An access at its coherence point (R88, R89) -/

/-- An access that has performed (R88, R89). -/
def Acc.performed (a : Acc) (old : List Byte) (gwct : DWord) (lbl : Label) (cycle : Nat) : Acc :=
  { a with done := true, old := old, gwct := gwct, rlbl := lbl, back := cycle + a.trip }

section

variable {s : State} {r : Req} {a : Acc} {p : Nat}

theorem State.req?_only (h : s.m.reqs = [r]) : s.req? r.id = some r := by
  unfold State.req?
  rw [h]
  simp

theorem State.setReq_only (h : s.m.reqs = [r]) (f : Req → Req) : s.setReq r.id f = { s with m.reqs := [f r] } := by
  unfold State.setReq
  rw [h]
  simp

theorem State.accDone_only (h : s.m.reqs = [r]) (ha : r.accs = [a]) (old : List Byte) (gwct : DWord) (lbl : Label) :
    s.accDone r 0 old gwct lbl = { s with m.reqs := [{ r with accs := [a.performed old gwct lbl s.clk.cycle] }] } := by
  unfold State.accDone State.setAcc
  rw [State.setReq_only h]
  simp [setAt, ha, Acc.performed]

theorem State.pinMerge_unpinned (h : ∀ x ∈ s.m.l1, x.pin = none) (loc : Loc) (bs : List Byte) : s.pinMerge loc bs = s := by
  have hsame : s.m.l1.map (fun x => if x.pin.isSome && x.line = loc.line then x.take loc.off bs else x) = s.m.l1 :=
    (List.map_congr_left fun x hx => by rw [h x hx]; rfl).trans (List.map_id _)
  unfold State.pinMerge
  rw [hsame]

/-- Where no line is pinned, a write at a coherence point of this chip changes its bytes, and repairs the blocks that it covers (R412). -/
theorem State.cohWrite_unpinned (h : ∀ x ∈ s.m.l1, x.pin = none) (bs : List Byte) : s.cohWrite (.mem p) bs =
    { s with m.mem := csets s.m.mem p bs, m.bad := s.m.bad.filter fun b => !(p ≤ b && b + 64 ≤ p + bs.length) } :=
  State.pinMerge_unpinned (s := { s with m.mem := csets s.m.mem p bs, m.bad := s.m.bad.filter fun b => !(p ≤ b && b + 64 ≤ p + bs.length) }) h _ _

/-- The GWCT that an access takes back: a load has none (R89). -/
def State.gwctFor (s : State) (kind : ReqKind) (p : Nat) : DWord := if kind = .load then 0 else s.gwct (.mem p)

/-- What an access at its coherence point leaves of memory, and of its request. -/
theorem State.performCoherent_only (h : s.m.reqs = [r]) (ha : r.accs = [a]) (hloc : a.loc = .mem p) (hlease : r.kind ≠ .lease)
    (hpref : r.kind ≠ .pref) (hload : r.kind = .load → r.nl = true) (hpins : ∀ x ∈ s.m.l1, x.pin = none) (hwf : Memory.wf s.m.mem = true) :
    ∃ mem bad, s.performCoherent r 0 a = { s with m.mem := mem, m.bad := bad, m.reqs := [{ r with
        accs := [a.performed (creads s.m.mem p a.len) (s.gwctFor r.kind p) (s.frame (p / 65536)).lbl s.clk.cycle] }] } ∧
      Memory.wf mem = true ∧ ∀ x, cget mem x = match r.kind.write a (creads s.m.mem p a.len) with
        | some bs => if p ≤ x ∧ x < p + bs.length then bs.getD (x - p) 0 else cget s.m.mem x
        | none => cget s.m.mem x := by
  unfold State.performCoherent
  rw [hloc]
  dsimp only [State.getLoc]
  cases hw : r.kind.write a (creads s.m.mem p a.len) with
  | some bs =>
    have hstore : r.kind ≠ .load := by rintro hk; rw [hk] at hw; cases hw
    refine ⟨csets s.m.mem p bs, s.m.bad.filter fun b => !(p ≤ b && b + 64 ≤ p + bs.length), ?_, csets_wf _ _ _ hwf, fun x => ?_⟩
    · unfold State.gwctFor
      rw [if_neg hstore]
      dsimp only
      rw [State.cohWrite_unpinned hpins]
      exact State.accDone_only (s := { s with
        m.mem := csets s.m.mem p bs, m.bad := s.m.bad.filter fun b => !(p ≤ b && b + 64 ≤ p + bs.length) }) h ha _ _ _
    · exact cget_csets _ _ _ _ hwf
  | none =>
    refine ⟨s.m.mem, s.m.bad, ?_, hwf, fun _ => rfl⟩
    dsimp only
    by_cases hk : r.kind = .load
    · have hwrites : r.kind.writes = false := by rw [hk]; rfl
      rw [if_neg (by rw [hwrites]; exact Bool.false_ne_true), if_pos (by rw [hload hk]; rfl), State.accDone_only h ha, State.gwctFor, if_pos hk]
      rfl
    · have hwrites : r.kind.writes = true := by
        revert hk hlease hpref
        cases r.kind <;> simp [ReqKind.writes]
      rw [if_pos hwrites, State.accDone_only h ha, State.gwctFor, if_neg hk]
      rfl

/-- An access to this chip against which no pin, no capability, no shard and no bad block stands performs (R88, R98, R366). -/
theorem State.performAcc_only (h : s.m.reqs = [r]) (ha : r.accs = [a]) (hdone : a.done = false) (hat : a.at_ ≤ s.clk.cycle)
    (hretry : a.retryAt.toNat ≤ s.clk.tclk.toNat) (hloc : a.loc = .mem p) (hpins : ∀ x ∈ s.m.l1, x.pin = none)
    (howned : s.owned r.part (.mem p) = true) (hshard : s.roShard (.mem p) = false) (hecc : s.eccBad (.mem p) a.len = false)
    (hpin : s.wantsPin r a = false) : s.performAcc r.id 0 = s.performCoherent r 0 a := by
  have hfree : s.blocked r 0 a = false := by
    unfold State.blocked
    rw [h]
    simp
  have hpast : DWord.past a.retryAt s.clk.tclk = false := decide_eq_false (Nat.not_lt.2 hretry)
  have hmine : s.pinOf a.t.tid a.loc.line = none := List.find?_eq_none.2 fun x hx => by simp [hpins x hx]
  have hserve : s.servable (some a.t.tid) (s.accScope r a) a.loc.line = true := by
    have hnone : s.pinned? a.loc.line = none := List.find?_eq_none.2 fun x hx => by simp [hpins x hx]
    unfold State.servable
    rw [hnone]
    rfl
  have hcombined : r.combined a = [] := by
    unfold Req.combined
    rw [hloc]
  unfold State.performAcc
  rw [State.req?_only h]
  simp only [ha, List.getElem?_cons_zero, hdone, hfree, hpast, Bool.false_or, Bool.or_false, decide_eq_true_eq, if_neg (Nat.not_lt.2 hat),
    hmine, hserve, if_true]
  unfold State.serveAcc
  simp only [hloc, howned, hshard, hecc, hpin, hcombined, Bool.not_true, Bool.and_false, Bool.false_and, Bool.or_false, Bool.false_eq_true,
    if_false, List.length_nil, Nat.not_lt_zero]

/-- Without waiters at counters nothing looks at them. -/
theorem State.seeCounters_none (h : ∀ x ∈ s.sch.paths, x.atCounter = false) : s.seeCounters = s := by
  have hsame : s.sch.paths.map (fun p => if p.atCounter then { p with named := p.named ||| maskOf ((s.arcReady p).map (·.lane)) } else p) =
      s.sch.paths := (List.map_congr_left fun x hx => by rw [h x hx]; rfl).trans (List.map_id _)
  unfold State.seeCounters
  rw [hsame]

/-- A request of one access comes back when that access has performed. -/
theorem State.performAll_only {s' : State} {a' : Acc} (h : s.m.reqs = [r]) (ha : r.accs = [a]) {seen : State → State} {one : State → Nat → State}
    (hone : seen (one s 0) = s') (h' : s'.m.reqs = [{ r with accs := [a'] }]) (hdone : a'.done = true) :
    s.performAll r.id seen one = { s' with m.reqs := [{ r with accs := [a'], back := true, due := max (s'.clk.cycle + 1) a'.back }] } := by
  unfold State.performAll
  rw [State.req?_only h]
  simp only [ha, List.length_singleton, List.range_one, List.foldl_cons, List.foldl_nil, hone]
  have hset := State.setReq_only (s := s') (r := { r with accs := [a'] }) h'
  dsimp only at hset
  rw [hset]
  simp [hdone]

theorem State.performAny_of {seen : State → State} (h : s.m.reqs = [r]) (hdep : ∀ n, r.kind ≠ .decdep n)
    (hseen : seen = if r.kind.writes then State.seeCounters else fun s => s) :
    s.performAny r.id = s.performAll r.id seen fun s k => s.performAcc r.id k := by
  subst hseen
  unfold State.performAny
  rw [State.req?_only h]
  dsimp only [Option.map_some]
  split
  · next n hk => exact absurd (Option.some.inj hk) (hdep n)
  · next k hk => rw [← Option.some.inj hk]
  · next hk => cases hk

end

/-- The events that try a request's accesses. -/
theorem tries_leads {s : State} {r : Req} {a : Acc} {i : Instr} (h : s.m.reqs = [r]) (ha : r.accs = [a]) (hdone : a.done = false)
    (hi : i = .coherencePointAccess r.id ∨ i = .pinnedRetry r.id ∧ a.refused.isSome = true) : LeadsTo s i (s.performAny r.id) := by
  obtain rfl | ⟨rfl, hrefused⟩ := hi
  · rfl
  · have hwaits : (s.req? r.id).any (fun r => r.accs.any Acc.waits) = true := by
      rw [State.req?_only h]
      simp [ha, Acc.waits, hdone, hrefused]
    exact congrArg Host.Outcome.next (if_pos hwaits)

section

variable {s : State} {r : Req} {a : Acc} {p : Nat}

/-- The request of one access performs, and its answer is on its way. -/
theorem State.performAny_only (h : s.m.reqs = [r]) (ha : r.accs = [a]) (hdep : ∀ n, r.kind ≠ .decdep n) (hlease : r.kind ≠ .lease)
    (hpref : r.kind ≠ .pref) (hload : r.kind = .load → r.nl = true) (hdone : a.done = false) (hat : a.at_ ≤ s.clk.cycle)
    (hretry : a.retryAt.toNat ≤ s.clk.tclk.toNat) (hloc : a.loc = .mem p) (hpins : ∀ x ∈ s.m.l1, x.pin = none)
    (howned : s.owned r.part (.mem p) = true) (hshard : s.roShard (.mem p) = false) (hecc : s.eccBad (.mem p) a.len = false)
    (hpin : s.wantsPin r a = false) (hcounters : ∀ x ∈ s.sch.paths, x.atCounter = false) (hwf : Memory.wf s.m.mem = true) :
    ∃ mem bad, s.performAny r.id = { s with m.mem := mem, m.bad := bad, m.reqs := [{ r with
        accs := [a.performed (creads s.m.mem p a.len) (s.gwctFor r.kind p) (s.frame (p / 65536)).lbl s.clk.cycle]
        back := true
        due := s.clk.cycle + max 1 a.trip }] } ∧
      Memory.wf mem = true ∧ ∀ x, cget mem x = match r.kind.write a (creads s.m.mem p a.len) with
        | some bs => if p ≤ x ∧ x < p + bs.length then bs.getD (x - p) 0 else cget s.m.mem x
        | none => cget s.m.mem x := by
  obtain ⟨mem, bad, hperform, hmem⟩ := State.performCoherent_only h ha hloc hlease hpref hload hpins hwf
  refine ⟨mem, bad, ?_, hmem⟩
  have hone : s.performAcc r.id 0 = _ := (State.performAcc_only h ha hdone hat hretry hloc hpins howned hshard hecc hpin).trans hperform
  have hseen : (if r.kind.writes then State.seeCounters else fun s => s) (s.performAcc r.id 0) = s.performAcc r.id 0 := by
    rw [hone]
    split
    · exact State.seeCounters_none hcounters
    · rfl
  rw [State.performAny_of h hdep rfl, State.performAll_only h ha (hseen.trans hone) rfl rfl]
  have hdue : max (s.clk.cycle + 1) (s.clk.cycle + a.trip) = s.clk.cycle + max 1 a.trip := Nat.add_max_add_left ..
  rw [← hdue]
  rfl

end

/-! ## Responses (R90, R243) -/

section

variable {s : State} {r : Req} {a : Acc} {n : Nat}

/-- The machine behind the response to a load of one lane into a v register. -/
def State.loaded (s : State) (r : Req) (a : Acc) (n : Nat) : State :=
  ({ s with
      m.reqs := s.m.reqs.filter fun q => q.id ≠ r.id
      r.v := mset s.r.v (a.t, n) (BitVec.ofNat 32 (leNat a.old)) }).applyLbl ⟨a.t.g, .v n, a.lbl ||| a.rlbl, r.cover.contains a.t.g⟩

theorem State.respond_only (hr : s.req? r.id = some r) (ha : r.accs = [a]) (hkind : r.kind = .load) (hdst : r.dst = [.v n]) (hsz : r.sz = 0)
    (hteam : (s.team? a.t.tid).isSome = true) (hlive : (s.thr a.t).live = true) :
    s.respond r.id = (s.loaded r a n).tokDown r.tok [a.t] := by
  have hresults : r.results.filter (fun x => (s.team? x.l.t.tid).isSome) =
      [⟨⟨a.t, 0, a.qlane, 0⟩, [BitVec.ofNat 32 (leNat a.old)], a.lbl ||| a.rlbl⟩] := by
    unfold Req.results
    rw [ha, hsz]
    simp [hteam, extendLoad]
  have hwrite (u : State) (hu : u.r.thr = s.r.thr) : u.writeReg ⟨a.t, .v n, BitVec.ofNat 32 (leNat a.old)⟩ =
      u.vSet a.t n (BitVec.ofNat 32 (leNat a.old)) := if_pos (by unfold State.thr at hlive ⊢; rw [hu]; exact hlive)
  have hquiet : r.kind.writes = false := by rw [hkind]; rfl
  have hdedup (g : GRef) : dedup [g] = [g] := rfl
  have hzero (l : Label) : 0 ||| l = l := BitVec.zero_or
  unfold State.respond
  rw [hr]
  simp only [hresults, hdst, hquiet, resWrites, List.zipIdx_singleton, List.flatMap_cons, List.flatMap_nil, List.append_nil, List.map_cons,
    List.map_nil, List.foldl_cons, List.foldl_nil, List.getD_cons_zero, hdedup, Bool.false_eq_true, if_false, List.filter_cons, decide_true,
    if_true, List.filter_nil, hzero]
  rw [hwrite]
  all_goals rfl

theorem State.tileLbl_loaded (s : State) (r : Req) (a : Acc) (n : Nat) : (s.loaded r a n).tileLbl a.t.g (.v n) =
    if a.t.g ∈ r.cover then a.lbl ||| a.rlbl else s.tileLbl a.t.g (.v n) ||| (a.lbl ||| a.rlbl) := by
  have hget (x : Label) : mget 0 (mset s.r.lbl (a.t.g, Tile.v n) x) (a.t.g, .v n) = x := (mget_mset ..).trans (if_pos rfl)
  unfold State.loaded State.applyLbl State.setTileLbl State.tileLbl
  simp only [reduceCtorEq, if_false, hget, List.contains_iff_mem]

theorem State.vGet_loaded (s : State) (r : Req) (a : Acc) (n : Nat) (x : TRef) (k : Nat) : (s.loaded r a n).vGet x k =
    if x = a.t ∧ k = n then BitVec.ofNat 32 (leNat a.old) else s.vGet x k := by
  refine (mget_mset ..).trans ?_
  simp only [Prod.mk.injEq]
  rfl

end

/-! ## Refusals and their end (R100) -/

theorem pinnedRetry_idle {s : State} {r : Nat} (h : ∀ q, s.req? r = some q → ∀ a ∈ q.accs, a.done = true ∨ a.refused = none) :
    LeadsTo s (.pinnedRetry r) s := by
  refine congrArg Host.Outcome.next (if_neg ?_)
  cases hr : s.req? r with
  | none => simp
  | some q =>
    simp only [Option.any_some, List.any_eq_true, not_exists, not_and]
    intro a ha hwaits
    unfold Acc.waits at hwaits
    obtain hd | hd := h q hr a ha <;> simp [hd] at hwaits

theorem pinnedLineTimeout_leads {s : State} {r : Req} {a : Acc} {first : DWord} (hr : s.req? r.id = some r) (ha : r.accs = [a])
    (hdone : a.done = false) (hfirst : a.refused = some first) :
    LeadsTo s (.pinnedLineTimeout r.id) (if first.toNat + 1000000 ≤ s.clk.tclk.toNat then s.accFault r 0 a fcPinned 0 else s) := by
  have htimed : a.timedOut s.clk.tclk = decide (first.toNat + 1000000 ≤ s.clk.tclk.toNat) := by
    simp [Acc.timedOut, Acc.waits, hdone, hfirst]
  refine congrArg Host.Outcome.next ?_
  rw [hr]
  dsimp only
  unfold State.pinTimeouts
  simp only [ha, List.zipIdx_singleton, List.foldl_cons, List.foldl_nil, htimed, decide_eq_true_eq]

/-! ## Resolvable reports (R290, R371) -/

theorem State.setPath_paths (s : State) (n : Nat) (f : Path → Path) : (s.setPath n f).sch.paths = s.sch.paths.map fun p =>
    if p.id = n then f p else p := rfl

theorem State.wakeIf_frame (s : State) (f : Path → Bool) : s.wakeIf f = { s with sch.paths := (s.wakeIf f).sch.paths } :=
  foldl_keeps (fun t : State => t = { s with sch.paths := t.sch.paths }) _ (fun t p ht => by
    unfold State.wakePath State.setPath
    dsimp only
    rw [ht]) _ s rfl

/-- A path that wakes (R46). -/
def State.woken (s : State) (p : Path) : Path :=
  { p with state := .runnable, since := s.ageZero p.g.tid, readyAt := max p.readyAt s.clk.cycle }

/-- The paths that a test names wake, where every path has a name of its own. -/
theorem State.wakeIf_paths {s : State} {f : Path → Bool} (h : (s.sch.paths.map (·.id)).Nodup) :
    (s.wakeIf f).sch.paths = s.sch.paths.map fun p => if f p then s.woken p else p := by
  have hfold : ∀ (ids : List Nat) (t : State), ids.Nodup → t.clk = s.clk → t.sch.teams = s.sch.teams →
      (ids.foldl (fun s n => s.wakePath n) t).sch.paths = t.sch.paths.map fun p => if p.id ∈ ids then s.woken p else p := by
    intro ids
    induction ids with
    | nil => intro t _ _ _; simp
    | cons n ids ih =>
      intro t hids hclk hteams
      obtain ⟨hn, hids⟩ := List.nodup_cons.1 hids
      have hwake : (t.wakePath n).sch.paths = t.sch.paths.map fun p => if p.id = n then s.woken p else p := by
        unfold State.wakePath State.woken State.ageZero State.team?
        rw [State.setPath_paths, hclk, hteams]
      rw [List.foldl_cons, ih (t.wakePath n) hids hclk hteams, hwake, List.map_map]
      refine List.map_congr_left fun p _ => ?_
      have hid : (s.woken p).id = p.id := rfl
      by_cases hp : p.id = n
      · simp only [Function.comp, hid, hp, if_true, hn, if_false, List.mem_cons, true_or]
      · simp only [Function.comp, hp, if_false, List.mem_cons, false_or]
  have hids : ((s.sch.paths.filter f).map (·.id)).Nodup := (List.filter_sublist.map _).nodup h
  have hwake : s.wakeIf f = ((s.sch.paths.filter f).map (·.id)).foldl (fun s n => s.wakePath n) s := by
    unfold State.wakeIf
    rw [List.foldl_map]
  rw [hwake, hfold _ s hids rfl rfl]
  refine List.map_congr_left fun p hp => ?_
  have hmem : p.id ∈ (s.sch.paths.filter f).map (·.id) ↔ f p = true := by
    refine ⟨fun hm => ?_, fun hf => List.mem_map_of_mem (f := (·.id)) (List.mem_filter.2 ⟨hp, hf⟩)⟩
    obtain ⟨q, hq, hid⟩ := List.mem_map.1 hm
    obtain ⟨hq, hfq⟩ := List.mem_filter.1 hq
    rwa [List.inj_on_of_nodup_map h hq hp hid] at hfq
  simp only [hmem]

/-- A report that a function names by a token has that token. -/
theorem State.resolv?_token {s : State} {fn : Nat} {token : Word} {x : Resolvable} (h : s.resolv? fn token = some x) : x.token = token := by
  have hx := List.find?_some h
  simp only [Bool.and_eq_true, decide_eq_true_eq] at hx
  exact hx.1

theorem fqresReissue_leads {s : State} {fn : Nat} {token : Word} {x : Resolvable} (h : s.resolv? fn token = some x) (hchain : x.chain = none) :
    LeadsTo s (.fqresReissue fn token) ((s.settled token).wakeIf fun p => p.state = .parked (.fault token)) := by
  refine congrArg Host.Outcome.next ?_
  rw [h]
  dsimp only
  unfold State.reissue
  simp only [hchain, State.resolv?_token h]

theorem State.settleEnd_eq {s : State} {token : Word} {x : Resolvable} (h : x.token = token) (detail : Nat) (gpa : DWord) :
    s.settleEnd x detail gpa = (s.settled token).teamFault x.tid 0x17 detail (s.resolvPc x) x.va.toNat gpa.toNat := by
  unfold State.settleEnd
  rw [h]
  rfl

theorem fqresTerminate_leads {s : State} {fn : Nat} {token : Word} {x : Resolvable} (h : s.resolv? fn token = some x) :
    LeadsTo s (.fqresTerminate fn token) ((s.settled token).teamFault x.tid 0x17 2 (s.resolvPc x) x.va.toNat 0) := by
  refine congrArg Host.Outcome.next ?_
  rw [h]
  exact State.settleEnd_eq (State.resolv?_token h) 2 0

theorem fqresReflect_leads {s : State} {fn : Nat} {token : Word} {x : Resolvable} (h : s.resolv? fn token = some x) :
    LeadsTo s (.fqresReflect fn token)
      (if fn = 0 then (s.settled token).teamFault x.tid 0x17 6 (s.resolvPc x) x.va.toNat x.gpa.toNat else s) := by
  refine congrArg Host.Outcome.next ?_
  rw [h, ← State.settleEnd_eq (State.resolv?_token h)]

theorem faultResolutionTimeout_leads {s : State} {token : Word} {x : Resolvable} (h : s.sch.resolv.find? (fun y => y.token = token) = some x) :
    LeadsTo s (.faultResolutionTimeout token) (if x.at_.toNat + 1000000 * (s.fn x.fn).ftmo ≤ s.clk.tclk.toNat then
      (s.settled token).teamFault x.tid 0x17 1 (s.resolvPc x) x.va.toNat 0 else s) := by
  have htoken : x.token = token := by simpa using List.find?_some h
  refine congrArg Host.Outcome.next ?_
  rw [h]
  dsimp only
  rw [State.settleEnd_eq htoken 1 0]
  simp only [State.resolvLate, decide_eq_true_eq]
  rfl

/-- Settles O43: `State.performAny_only` says how an access performs, `State.respond_only` what its response writes; leases, retries and
reports end as their events say. -/
theorem accessesPerform : Obligations.AccessesPerform := by
  unfold Obligations.AccessesPerform
  refine ⟨fun s => ⟨fun r a p i hi h ha hdep hlease hpref hload hdone hat hretry hloc hpins howned hshard hecc hpin hcounters hwf => ?_,
    fun r a n hr ha hkind hdst hsz hteam hlive => ?_, fun core line => ?_, fun r h => pinnedRetry_idle h,
    fun r a first hr ha hdone hfirst => ?_⟩, fun s => ⟨fun fn token x hx => ⟨fun hchain => ?_, fqresTerminate_leads hx, fun hfn => ?_, fun hfn => ?_⟩,
    fun token x hx => ?_⟩⟩
  · obtain ⟨mem, bad, hperform, hwf', hread⟩ := State.performAny_only h ha hdep hlease hpref hload hdone hat hretry hloc hpins howned hshard
      hecc hpin hcounters hwf
    refine ⟨_, tries_leads h ha hdone hi, ?_⟩
    rw [hperform]
    exact ⟨rfl, rfl, hwf', hread⟩
  · have hcounts := State.counts_tokDown (s.loaded r a n) r.tok [a.t]
    refine ⟨_, congrArg Host.Outcome.next (State.respond_only hr ha hkind hdst hsz hteam hlive), ?_⟩
    obtain ⟨hframe, hbare⟩ := hcounts
    rw [hframe]
    refine ⟨rfl, fun x k => State.vGet_loaded s r a n x k, rfl, rfl, State.tileLbl_loaded s r a n, fun x => ?_, rfl, rfl, rfl, rfl, rfl, rfl⟩
    exact hbare x
  · refine ⟨_, rfl, rfl, fun x => ?_⟩
    have hexpired : s.expired x = true ↔ x.pin = none ∧ x.expiry.toNat ≤ s.clk.tclk.toNat := by
      simp [State.expired, DWord.past]
    simp only [List.mem_filter, Bool.not_eq_true', ← Bool.not_eq_true, Bool.and_eq_true, decide_eq_true_eq, hexpired, and_assoc]
  · have hleads := pinnedLineTimeout_leads hr ha hdone hfirst
    refine ⟨fun hlt => ?_, fun hle => ?_⟩
    · rwa [if_neg (by omega)] at hleads
    · rwa [if_pos hle] at hleads
  · have hleads := fqresReissue_leads hx hchain
    have hframe := (s.settled token).wakeIf_frame fun p => p.state = .parked (.fault token)
    refine ⟨_, hleads, hframe, fun hnodup => ?_⟩
    refine (State.wakeIf_paths (s := s.settled token) hnodup).trans ?_
    simp only [decide_eq_true_eq]
    rfl
  · have hleads := fqresReflect_leads hx
    rwa [if_pos hfn] at hleads
  · have hleads := fqresReflect_leads hx
    rwa [if_neg hfn] at hleads
  · have hleads := faultResolutionTimeout_leads hx
    refine ⟨fun hlt => ?_, fun hle => ?_⟩
    · rwa [if_neg (by omega)] at hleads
    · rwa [if_pos hle] at hleads

end Sys2Proof.Machine

namespace Sys2Proof.Machine

open Sys2Proof

/-! # Fabric requests and responses (O49) -/

/-! ## A request at its target (R356, R374, R402) -/

theorem fabricRequest_leads {s u : State} {r : FabReq} {x : FabResp} (h : s.fabServe r = (x, u)) :
    LeadsTo s (.fabricRequest r) { u with y.resps := u.y.resps ++ [(r.sstation, x)] } := by
  show execFabricRequest r s = _
  unfold execFabricRequest
  rw [h]

section

variable {s : State} {r : FabReq}

theorem State.fabServe_malformed (h : r.rsvd = true ∨ 5 ≤ r.kind) : s.fabServe r = (fabRefuse r 3, s) := by
  have hbad : (r.rsvd || decide (5 ≤ r.kind)) = true := by simpa using h
  unfold State.fabServe
  rw [if_pos hbad]

/-- A request to memory is tested where it lands, unless its length is not that of its operation (R402). -/
theorem State.fabServe_memory (hr : r.rsvd = false) (hkind : r.kind < 4) (hlen : 2 ≤ r.kind → r.len = if r.wide then 8 else 4)
    (hoff : r.off < Config.pslotBase) : s.fabServe r = s.fabMemory r := by
  have hlen' : r.kind = 2 ∨ r.kind = 3 → r.len = if r.wide then 8 else 4 := fun h => hlen (by omega)
  unfold State.fabServe
  rw [if_neg (by simp [hr]; omega), if_neg (by simp; omega), if_neg (by simpa [show r.kind ≠ 4 by omega] using hlen')]

/-- A store to a peer launch slot is tested by the access-control table (R356). -/
theorem State.fabServe_slot (hr : r.rsvd = false) (hkind : r.kind = 4) (hbase : Config.pslotBase ≤ r.off) (hend : r.off < 2 ^ 50) :
    s.fabServe r = s.fabSlot r := by
  unfold State.fabServe
  rw [if_neg (by simp [hr, hkind]), if_pos (Bool.and_eq_true_iff.2 ⟨decide_eq_true hbase, decide_eq_true hend⟩), if_pos (by simp [hkind])]

/-! ### Memory -/

theorem State.fabMemory_nowhere (h : s.fabDest r = none) : s.fabMemory r = (fabRefuse r 3, s) := by
  unfold State.fabMemory
  rw [h]

/-- Does the window of a request let it read and write as it asks? -/
def FabDest.admits (d : FabDest) (r : FabReq) : Prop := (r.kind ≠ 1 → d.rd = true) ∧ (r.kind ≠ 0 → d.wr = true)

theorem State.servable_unpinned (h : ∀ x ∈ s.m.l1, x.pin = none) (tid : Option Nat) (scope : Nat) (line : Loc) :
    s.servable tid scope line = true := by
  have hnone : s.pinned? line = none := List.find?_eq_none.2 fun x hx => by simp [h x hx]
  unfold State.servable
  rw [hnone]
  rfl

theorem State.creditPinned_unpinned (h : ∀ x ∈ s.m.l1, x.pin = none) (d : FabDest) : s.creditPinned r d = false := by
  unfold State.creditPinned
  cases s.walk2 d.part d.arc true with
  | error => simp
  | ok leaf => cases leaf <;> simp [State.servable_unpinned h]

section

variable {d : FabDest} {pa : Nat} (hd : s.fabDest r = some d)
include hd

theorem State.fabMemory_shut (h : (r.kind ≠ 1 ∧ d.rd = false) ∨ (r.kind ≠ 0 ∧ d.wr = false)) : s.fabMemory r = (fabRefuse r 3, s) := by
  unfold State.fabMemory
  rw [hd]
  dsimp only
  rw [if_pos (by simpa using h)]

variable (hleaf : d.leaf = .ok (.phys pa)) (hloc : (s.locOf d.part (.phys pa)).1 = .mem pa) (hadmit : d.admits r)
include hleaf hloc hadmit

/-- The tests of a request that lands in memory of this station, in their order (R402). -/
theorem State.fabMemory_lands : s.fabMemory r =
    if !s.owned d.part (.mem pa) then (fabRefuse r 3, s)
    else if !fabLabelOk r d.part (s.locLbl d.part (.mem pa)) then (fabRefuse r 2, s)
    else if r.kind ≠ 0 && s.roShard (.mem pa) then (fabRefuse r 4, s)
    else if !s.servable none (if r.kind = 1 then 0 else r.scope) (Loc.mem pa).line || s.creditPinned r d then (fabRefuse r 1, s)
    else if (if r.kind = 1 then s.eccPartial (.mem pa) r.len else s.eccBad (.mem pa) r.len) then (fabRefuse r 6, s.rowError (.mem pa) none)
    else s.fabPerform r d (.mem pa) pa := by
  obtain ⟨hrd, hwr⟩ := hadmit
  have hopen : ¬ ((r.kind ≠ 1 && !d.rd) || (r.kind ≠ 0 && !d.wr)) = true := by simpa using And.intro hrd hwr
  unfold State.fabMemory
  rw [hd]
  dsimp only
  rw [if_neg hopen, hleaf]
  dsimp only
  rw [hloc]

theorem State.fabMemory_foreign (h : s.owned d.part (.mem pa) = false) : s.fabMemory r = (fabRefuse r 3, s) := by
  rw [State.fabMemory_lands hd hleaf hloc hadmit, h]
  rfl

variable (howned : s.owned d.part (.mem pa) = true)
include howned

theorem State.fabMemory_mislabelled (h : fabLabelOk r d.part (s.locLbl d.part (.mem pa)) = false) : s.fabMemory r = (fabRefuse r 2, s) := by
  rw [State.fabMemory_lands hd hleaf hloc hadmit, howned, h]
  rfl

variable (hlabel : fabLabelOk r d.part (s.locLbl d.part (.mem pa)) = true)
include hlabel

theorem State.fabMemory_readonly (h : s.roShard (.mem pa) = true) (hkind : r.kind ≠ 0) : s.fabMemory r = (fabRefuse r 4, s) := by
  rw [State.fabMemory_lands hd hleaf hloc hadmit, howned, hlabel, h]
  simp [hkind]

theorem State.fabMemory_performs (hshard : s.roShard (.mem pa) = false) (hpins : ∀ x ∈ s.m.l1, x.pin = none)
    (hbad : s.eccBad (.mem pa) r.len = false) (hpartial : s.eccPartial (.mem pa) r.len = false) :
    s.fabMemory r = s.fabPerform r d (.mem pa) pa := by
  rw [State.fabMemory_lands hd hleaf hloc hadmit, howned, hlabel, hshard, State.servable_unpinned hpins, State.creditPinned_unpinned hpins, hbad,
    hpartial]
  simp

end

/-! ### What a request does at its coherence point (R88, R89) -/

section

variable {d : FabDest} {pa : Nat}

theorem State.fabPerform_read (hkind : r.kind = 0) (hnl : r.nolease = true) : s.fabPerform r d (.mem pa) pa =
    ({ tag := r.tag, time := 0, status := 0, data := creads s.m.mem pa r.len, olds := [] }, s) := by
  unfold State.fabPerform
  rw [if_pos hkind, hnl]
  rfl

/-- When a lease that a partition gives now runs out (R88). -/
def State.leaseEnd (s : State) (part : Nat) : DWord := s.clk.tclk + BitVec.ofNat 64 (s.part part).lease

theorem State.fabPerform_lease (hkind : r.kind = 0) (hnl : r.nolease = false) : s.fabPerform r d (.mem pa) pa =
    ({ tag := r.tag, time := s.leaseEnd d.part, status := 0, data := creads s.m.mem pa r.len, olds := [] },
      s.raiseLL (Loc.mem pa).line (s.leaseEnd d.part)) := by
  unfold State.fabPerform
  rw [if_pos hkind, hnl]
  rfl

theorem State.mget_raiseLL (line l : Loc) (t : DWord) : mget 0 (s.raiseLL line t).m.ll l =
    if l = line ∧ (mget 0 s.m.ll l).toNat < t.toNat then t else mget 0 s.m.ll l := by
  refine (mget_mset _ _ _ _ _).trans ?_
  by_cases h : l = line
  · rw [if_pos h, h]
    simp
  · rw [if_neg h, if_neg fun hl => h hl.1]

theorem State.creditWindow_uncounted (h : d.arc = 0) (n : Nat) : s.creditWindow d n = s := if_pos h

theorem State.convGot_window (h : d.pool = false) (n : Nat) : s.convGot d pa n = s := by
  have hnone : s.gr.convs.find? (fun c => d.pool && c.part = d.part && c.frames.contains (pa / 65536)) = none :=
    List.find?_eq_none.2 fun c _ => by simp [h]
  unfold State.convGot
  rw [hnone]

theorem State.fabPerform_write (hkind : r.kind = 1) (harc : d.arc = 0) (hpool : d.pool = false) : s.fabPerform r d (.mem pa) pa =
    ({ tag := r.tag, time := s.gwct (.mem pa), status := 0, data := [], olds := [] }, s.cohWrite (.mem pa) r.data) := by
  unfold State.fabPerform
  rw [if_neg (by omega)]
  dsimp only
  rw [if_pos hkind, State.creditWindow_uncounted harc, State.convGot_window hpool]

theorem State.fabPerform_atomic (hkind : r.kind = 2 ∨ r.kind = 3) : s.fabPerform r d (.mem pa) pa =
    ({ tag := r.tag, time := s.gwct (.mem pa), status := 0, data := [], olds := (fabFold r (leNat (creads s.m.mem pa r.len))).2 },
      s.cohWrite (.mem pa) (natLE r.len (fabFold r (leNat (creads s.m.mem pa r.len))).1)) := by
  unfold State.fabPerform
  rw [if_neg (by omega)]
  dsimp only
  rw [if_neg (by omega)]
  rfl

end

/-! ### Peer launch slots (R356) -/

/-- The partition and the slot that an offset of the peer launch slots names. -/
def fabSlotKey (r : FabReq) : SlotKey := ⟨true, (r.off - Config.pslotBase) / 0x2000, (r.off - Config.pslotBase) % 0x2000 / 0x80⟩

theorem State.fabSlot_unlisted (h : s.aclEntry (fabSlotKey r).owner r.spart r.sstation = none) : s.fabSlot r = (fabRefuse r 3, s) := by
  have hnone : s.aclEntry ((r.off - Config.pslotBase) / 0x2000) r.spart r.sstation = none := h
  unfold State.fabSlot
  simp [hnone]

variable {e : Nat} (he : s.aclEntry (fabSlotKey r).owner r.spart r.sstation = some e)
include he

theorem State.fabSlot_barred (h : aclLaunch e = false ∨ Label.sub r.label (aclMax e) = false) : s.fabSlot r = (fabRefuse r 3, s) := by
  have hsome : s.aclEntry ((r.off - Config.pslotBase) / 0x2000) r.spart r.sstation = some e := he
  unfold State.fabSlot
  obtain h | h := h <;> simp [hsome, h]

theorem State.fabSlot_stores (hlaunch : aclLaunch e = true) (hlabel : Label.sub r.label (aclMax e) = true)
    (hfits : r.off % 0x80 + r.data.length ≤ 0x80) : s.fabSlot r =
    ({ tag := r.tag, time := s.clk.tclk, status := 0, data := [], olds := [] },
      (s.slotStore (fabSlotKey r) (r.off % 0x80) r.data r.label).seeSeal (fabSlotKey r)) := by
  have hsome : s.aclEntry ((r.off - Config.pslotBase) / 0x2000) r.spart r.sstation = some e := he
  unfold State.fabSlot
  simp [hsome, hlaunch, hlabel, hfits, fabSlotKey]

end

/-! ## A response at its source (R100, R403) -/

section

variable {s : State} {r : FabResp}

theorem fabricResponse_unasked (h : ∀ o ∈ s.y.reqs, o.tag ≠ r.tag) : LeadsTo s (.fabricResponse r) s := by
  have hnone : s.y.reqs.find? (fun o => o.tag = r.tag) = none := List.find?_eq_none.2 fun o ho => by simpa using h o ho
  show execFabricResponse r s = _
  unfold execFabricResponse
  rw [hnone]

variable {o : OutReq} (ho : s.y.reqs.find? (fun o => o.tag = r.tag) = some o)
include ho

theorem fabricResponse_leads : LeadsTo s (.fabricResponse r) (s.reqAnswer o r) := by
  show execFabricResponse r s = _
  unfold execFabricResponse
  rw [ho]

theorem find?_tag : o.tag = r.tag := by simpa using List.find?_some ho

theorem State.dropReq_found : s.dropReq o.tag = { s with y.reqs := s.y.reqs.filter fun x => x.tag ≠ r.tag } := by
  rw [find?_tag ho]
  rfl

end

section

variable {s : State} {o : OutReq} {r : FabResp}

theorem State.reqAnswer_done (h : r.status = 0) : s.reqAnswer o r = s.reqDoneWith o r := by
  unfold State.reqAnswer
  rw [h]
  rfl

theorem State.reqAnswer_retry (h : r.status = 1) : s.reqAnswer o r = s.reqRetry o := by
  unfold State.reqAnswer
  rw [h]
  rfl

theorem State.reqAnswer_label (h : r.status = 2) : s.reqAnswer o r = s.reqEnd o (some fcLabel) 0x53 0 := by
  unfold State.reqAnswer
  rw [h]
  rfl

theorem State.reqAnswer_refused (h : r.status = 3 ∨ r.status = 5) : s.reqAnswer o r = s.reqEnd o (some 0x54) 0x54 0 := by
  unfold State.reqAnswer
  obtain h | h := h
  · rw [h]
    rfl
  · rw [h]
    rfl

theorem State.reqAnswer_reserved (h : 6 < r.status) : s.reqAnswer o r = s := by
  have hstatus : r.status = r.status - 7 + 7 := by omega
  unfold State.reqAnswer
  rw [hstatus]
  rfl

theorem State.reqDoneWith_slot (h : o.who = .slot) : s.reqDoneWith o r = s.dropReq o.tag := by
  unfold State.reqDoneWith
  rw [h]

theorem State.reqDoneWith_copy {id a : Nat} (h : o.who = .copy id a) (hkind : o.kind ≠ 0) : s.reqDoneWith o r =
    (s.dropReq o.tag).setCopy id fun c => { c with wait := c.wait - 1, gwct := maxTime c.gwct r.time } := by
  unfold State.reqDoneWith
  rw [h]
  simp only [if_neg hkind]

theorem State.reqDoneWith_plate {id n : Nat} (h : o.who = .plate id n) : s.reqDoneWith o r =
    (s.dropReq o.tag).setLoad id fun x => { x with got := x.got ++ [(n, r.data)] } := by
  unfold State.reqDoneWith
  rw [h]

theorem State.reqDoneWith_pinned {tid : Nat} (h : o.who = .pinned tid) : s.reqDoneWith o r =
    (s.liveOf tid).foldl (fun s t => s.joinWct t r.time) (s.dropReq o.tag) := by
  unfold State.reqDoneWith
  rw [h]
  rfl

/-- A request of a pinned line, or of a slot, that ends without having been served ends with an asynchronous report alone (R403). -/
theorem State.reqEnd_pinned {tid : Nat} (h : o.who = .pinned tid) (precise : Option Nat) (code detail : Nat) :
    s.reqEnd o precise code detail = (s.dropReq o.tag).asyncReport o.part o.ctx code detail o.off := by
  unfold State.reqEnd
  rw [h]

theorem State.reqEnd_slot (h : o.who = .slot) (precise : Option Nat) (code detail : Nat) :
    s.reqEnd o precise code detail = (s.dropReq o.tag).asyncReport o.part o.ctx (if code = 0x54 then 0x56 else code) detail o.off := by
  unfold State.reqEnd
  rw [h]

end

/-! ### The write-completion time of several threads (R89, R98) -/

/-- A thread that takes a time back. -/
def Thread.joined (w : DWord) (h : Thread) : Thread := { h with wct := maxTime h.wct w }

theorem maxTime_idem (a w : DWord) : maxTime (maxTime a w) w = maxTime a w := by
  unfold maxTime
  split <;> simp_all

theorem State.joinWcts_thr (s : State) (ts : List TRef) (w : DWord) (x : TRef) :
    (ts.foldl (fun s t => s.joinWct t w) s).thr x = if x ∈ ts then (s.thr x).joined w else s.thr x := by
  induction ts generalizing s with
  | nil => simp
  | cons t ts ih =>
    have hone : (s.joinWct t w).thr x = if x = t then (s.thr t).joined w else s.thr x := State.thr_setThr s t x _
    have hidem : ((s.thr x).joined w).joined w = (s.thr x).joined w := by simp [Thread.joined, maxTime_idem]
    rw [List.foldl_cons, ih, hone]
    by_cases hx : x = t
    · subst hx
      simp [hidem]
    · simp [hx]

theorem State.joinWcts_frame (s : State) (ts : List TRef) (w : DWord) :
    ts.foldl (fun s t => s.joinWct t w) s = { s with r.thr := (ts.foldl (fun s t => s.joinWct t w) s).r.thr } := by
  induction ts generalizing s with
  | nil => rfl
  | cons t ts ih =>
    rw [List.foldl_cons]
    exact (ih (s.joinWct t w)).trans rfl

/-! ### A refused request (R100) -/

theorem overdue_self (now : DWord) : overdue now now = false := decide_eq_false (by omega)

theorem tryAt_self (now : DWord) : tryAt now now 32 = now + 32 := if_neg (by omega)

theorem State.reqRetry_copy {s : State} {o : OutReq} {id a : Nat} (hwho : o.who = .copy id a) (hfirst : o.refused = none)
    (honly : ∀ x ∈ s.y.reqs, x.tag = o.tag → x = o) : s.reqRetry o = { s with y.reqs := s.y.reqs.map fun x =>
      if x = o then { o with refused := some s.clk.tclk, backoff := 32, retryAt := s.clk.tclk + 32 } else x } := by
  unfold State.reqRetry
  rw [hwho, hfirst]
  simp only [Option.getD_none, overdue_self, tryAt_self, Option.isSome_none, Bool.false_eq_true, if_false]
  congr 2
  refine List.map_congr_left fun x hx => ?_
  by_cases hxo : x = o
  · rw [if_pos hxo, if_pos (congrArg _ hxo), hxo, hwho]
  · rw [if_neg hxo, if_neg fun ht => hxo (honly x hx ht)]

/-- Settles O49: a request to memory meets its tests in the order of `State.fabMemory_lands` and then performs as one of the
`State.fabPerform_…` lemmas says; a store to a peer launch slot is tested by its entry; a response is acted on by its status and by
what waited for it. -/
theorem fabricRequests : Obligations.FabricRequests := by
  unfold Obligations.FabricRequests
  refine ⟨fun s r => ?_, fun s r => ?_⟩
  · refine ⟨fun h => fabricRequest_leads (State.fabServe_malformed h), fun hr hsized hd => ?_, fun d pa hr hsized hd hleaf hloc => ?_,
      fun part hr hkind hbase hend hpart => ?_⟩
    · obtain ⟨hkind, hlen, hoff⟩ := hsized
      exact fabricRequest_leads ((State.fabServe_memory hr hkind hlen hoff).trans (State.fabMemory_nowhere hd))
    · obtain ⟨hkind, hlen, hoff⟩ := hsized
      have hserve := State.fabServe_memory (s := s) hr hkind hlen hoff
      refine ⟨fun h => fabricRequest_leads (hserve.trans (State.fabMemory_shut hd h)), fun hrd hwr => ?_⟩
      have hadmit : d.admits r := ⟨hrd, hwr⟩
      refine ⟨fun h => fabricRequest_leads (hserve.trans (State.fabMemory_foreign hd hleaf hloc hadmit h)),
        fun howned h => fabricRequest_leads (hserve.trans (State.fabMemory_mislabelled hd hleaf hloc hadmit howned h)),
        fun howned hlabel h hk => fabricRequest_leads (hserve.trans (State.fabMemory_readonly hd hleaf hloc hadmit howned hlabel h hk)),
        fun howned hlabel hshard hpins hbad hpartial => ?_⟩
      have hperform := hserve.trans (State.fabMemory_performs hd hleaf hloc hadmit howned hlabel hshard hpins hbad hpartial)
      refine ⟨fun hk hnl => fabricRequest_leads (hperform.trans (State.fabPerform_read hk hnl)), fun hk hnl => ?_,
        fun hk hdata harc hpool hwf => ?_, fun hk hwf => ?_⟩
      · exact ⟨_, fabricRequest_leads (hperform.trans (State.fabPerform_lease hk hnl)), rfl, fun l => State.mget_raiseLL _ l _⟩
      · have hleads := fabricRequest_leads (hperform.trans (State.fabPerform_write hk harc hpool))
        rw [State.cohWrite_unpinned hpins] at hleads
        exact ⟨_, hleads, rfl, csets_wf _ _ _ hwf, fun x => hdata ▸ cget_csets _ _ x _ hwf⟩
      · have hleads := fabricRequest_leads (hperform.trans (State.fabPerform_atomic hk))
        rw [State.cohWrite_unpinned hpins] at hleads
        refine ⟨_, hleads, rfl, fun x => ?_⟩
        rw [cget_csets _ _ x _ hwf, length_natLE]
    · subst hpart
      have hserve := State.fabServe_slot (s := s) hr hkind hbase hend
      exact ⟨fun h => fabricRequest_leads (hserve.trans (State.fabSlot_unlisted h)), fun e he =>
        ⟨fun h => fabricRequest_leads (hserve.trans (State.fabSlot_barred he h)),
          fun hlaunch hlabel hfits => fabricRequest_leads (hserve.trans (State.fabSlot_stores he hlaunch hlabel hfits))⟩⟩
  · refine ⟨fabricResponse_unasked, fun o ho => ?_⟩
    have hleads := fabricResponse_leads ho
    have hdrop := State.dropReq_found ho
    refine ⟨fun h => ?_, fun h hwho => ?_, fun id a c h hwho hk _ => ?_, fun id n h hwho => ?_, fun tid h hwho => ?_,
      fun id a h hwho hfirst honly => ?_, fun tid h hwho => ?_, fun tid h hwho => ?_, fun h hwho => ?_⟩
    · rwa [State.reqAnswer_reserved h] at hleads
    · rw [State.reqAnswer_done h, State.reqDoneWith_slot hwho, hdrop] at hleads
      exact hleads
    · rw [State.reqAnswer_done h, State.reqDoneWith_copy hwho hk, hdrop] at hleads
      exact hleads
    · rw [State.reqAnswer_done h, State.reqDoneWith_plate hwho, hdrop] at hleads
      exact hleads
    · rw [State.reqAnswer_done h, State.reqDoneWith_pinned hwho, hdrop] at hleads
      refine ⟨_, hleads, State.joinWcts_frame _ _ _, fun x => ?_, fun x => ?_⟩
      · rw [State.joinWcts_thr]
        split <;> rfl
      · rw [State.joinWcts_thr]
        exact apply_ite Thread.wct _ _ _
    · rw [State.reqAnswer_retry h, State.reqRetry_copy hwho hfirst fun x hx ht => honly x hx (ht.trans (find?_tag ho))] at hleads
      exact hleads
    · rw [State.reqAnswer_label h, State.reqEnd_pinned hwho, hdrop] at hleads
      exact hleads
    · rw [State.reqAnswer_refused h, State.reqEnd_pinned hwho, hdrop] at hleads
      exact hleads
    · rw [State.reqAnswer_refused (.inl h), State.reqEnd_slot hwho, hdrop] at hleads
      exact hleads

end Sys2Proof.Machine
